-- ==== Sys2Proof/Word.lean ====
section
/-! DEFINITION. The words of Etolmic: 8-bit bytes, 32-bit words and 64-bit doublewords (R7, R156). -/

namespace Sys2Proof

/-- A byte (R7). -/
abbrev Byte := BitVec 8

/-- A 32-bit word: an instruction word (R236), an s register, a vector lane (R156). -/
abbrev Word := BitVec 32

/-- A 64-bit doubleword: an a register, a control register, a C or M latch entry (R156, R157, R241). -/
abbrev DWord := BitVec 64

/-- A word read as the signed 64-bit view of R241. -/
abbrev Word.sext (x : Word) : DWord := BitVec.signExtend 64 x

/-- A word read as the unsigned 64-bit view of R241. -/
abbrev Word.zext (x : Word) : DWord := BitVec.zeroExtend 64 x

/-- Bits 31:0 of a doubleword. -/
abbrev DWord.low (x : DWord) : Word := BitVec.truncate 32 x

/-- Bits 63:32 of a doubleword. -/
abbrev DWord.high (x : DWord) : Word := BitVec.extractLsb' 32 32 x

end Sys2Proof
end

