-- ==== Sys2Proof/Machine/Bits.lean ====
section
/-! DEFINITION. Bit fields, byte order and the bit helpers of R18. Numbers are little-endian throughout (R11, R71, R236). -/

namespace Sys2Proof.Machine

/-- Bits hi:lo of a number (R17: a slice of the two's-complement form). -/
def bits (x : Nat) (hi lo : Nat) : Nat := (x >>> lo) % 2 ^ (hi - lo + 1)

/-- One bit of a number. -/
def bitOf (x : Nat) (i : Nat) : Bool := x.testBit i

/-- Bits hi:lo of a doubleword replaced by v. -/
def putBits (x : DWord) (hi lo : Nat) (v : Nat) : DWord :=
  let mask : DWord := BitVec.ofNat 64 ((2 ^ (hi - lo + 1) - 1) <<< lo)
  (x &&& ~~~mask) ||| (BitVec.ofNat 64 (v <<< lo) &&& mask)

/-- The number that bytes stand for, lowest address first. -/
def leNat : List Byte → Nat
  | [] => 0
  | b :: bs => b.toNat + 256 * leNat bs

/-- The n bytes of a number, lowest address first. -/
def leBytes : Nat → Nat → List Byte
  | 0, _ => []
  | n + 1, x => BitVec.ofNat 8 x :: leBytes n (x / 256)

/-- popc of R18. -/
def popcNat : Nat → Nat → Nat
  | 0, _ => 0
  | n + 1, x => x % 2 + popcNat n (x / 2)

/-- clz of R18: leading zeros of the low n bits. -/
def clzNat : Nat → Nat → Nat
  | 0, _ => 0
  | n + 1, x => if x.testBit n then 0 else 1 + clzNat n x

/-- vdc of R18: the m low bits of i, reversed. -/
def vdc : Nat → Nat → Nat
  | 0, _ => 0
  | m + 1, i => (i % 2) * 2 ^ m + vdc m (i / 2)

/-- rotl of R18, for x below 2^m. -/
def rotlBits (m x n : Nat) : Nat :=
  ((x <<< (n % m)) ||| (x >>> (m - n % m))) % 2 ^ m

/-- The parity binom(k, j) mod 2: by Lucas, 1 exactly when the bits of j are among those of k. -/
def binomOdd (k j : Nat) : Bool := (k &&& j) == j

/-- y_j of R18's sob: the XOR over k from j to m - 1 of (binom(k, j) mod 2) AND i[k]. -/
def sobBit (m i j : Nat) : Bool :=
  (List.range m).foldl (fun acc k => if j ≤ k && binomOdd k j && i.testBit k then !acc else acc) false

/-- sob of R18. -/
def sob (m i : Nat) : Nat :=
  (List.range m).foldl (fun acc j => if sobBit m i j then acc + 2 ^ (m - 1 - j) else acc) 0

/-- A signed field: the low n bits of x read in two's complement (sext of R18, as an integer). -/
def sextInt (x n : Nat) : Int :=
  let v := x % 2 ^ n
  if v.testBit (n - 1) then (v : Int) - 2 ^ n else v

/-- An integer narrowed to w bits (R17). -/
def narrow (w : Nat) (x : Int) : BitVec w := BitVec.ofInt w x

/-- A saturating step of an unsigned counter field of the given width. -/
def satAdd (w : Nat) (x k : Nat) : Nat := min (x + k) (2 ^ w - 1)

/-- CRC-32C of one more byte (R151: Castagnoli, reflected form), on the running value before the final XOR. -/
def crcStep (crc : Nat) (b : Byte) : Nat :=
  (List.range 8).foldl (fun c _ => if c % 2 = 1 then (c / 2) ^^^ 0x82F63B78 else c / 2) (crc ^^^ b.toNat)

/-- CRC-32C of a byte list (R39, R151): initial 0xFFFF_FFFF, final XOR 0xFFFF_FFFF. -/
def crc32c (bs : List Byte) : Nat := (bs.foldl crcStep 0xFFFFFFFF) ^^^ 0xFFFFFFFF

end Sys2Proof.Machine
end

