-- ==== Sys2Proof/Syntax.lean ====
section
/-! DEFINITION. The instructions and steps of the PZ9: one constructor for every row of the opcode table. The first 166 are
the instruction words of R247 to R266, with the fields of their format (R239) in the order of the table; the chain bit CH
belongs to the bundle (R236, R237) and is kept beside the instruction, not in it. The others are the steps of the device
that no word encodes (the last chapter of the spec lists them): each carries the data that comes with it. -/

namespace Sys2Proof

/-- A participant rectangle (R86, R186): origin and log2 sides. -/
structure Rect where
  x0 : BitVec 5
  y0 : BitVec 5
  log2w : BitVec 3
  log2h : BitVec 3
  deriving DecidableEq, Repr

/-- A pad or core memory that a soft error can strike (R147, R168, R283). -/
inductive PadId where
  | l1 (cid : Nat)
  | l2 (cluster : Nat)
  | l3 (die : Nat)
  | wbuf (cid : Nat)
  | code (cid : Nat)
  deriving DecidableEq, Repr

/-- One contribution to a reduction slot (R56): target, group and view, sender, element type and elements, poison bit. -/
structure Contribution where
  die : Nat
  slot : Nat
  group : Nat
  view : Word
  sender : Nat
  type : Nat
  count : Nat
  elems : List (BitVec 8)
  poison : Bool
  ack : Option (Nat × Nat)
  lslot : Nat
  deriving DecidableEq, Repr

/-- What a remote task packet carries beside its bytes (R42, R53, R360): source member, group, view, target hub, and the issuing core
with its tl4 number, 0 for a form without .ACK. idx: the indices of a nest child given to another device, for which the packet has no
field: DESIGN CHOICE, log 70. -/
structure RemoteHdr where
  sender : Nat
  group : Nat
  view : Word
  die : Nat
  ack : Option (Nat × Nat)
  idx : List Word := []
  deriving DecidableEq, Repr

/-- LINK_SERVICE commands (R80, R26). -/
inductive LinkCmd where
  | setThreshold (n : Nat)
  | retrainHop (h : Nat)
  | disableHop (h : Nat)
  | retrainPort (d : Nat)
  | disablePort (d : Nat)
  deriving DecidableEq, Repr

/-- FW_UPDATE commands (R80, R82). -/
inductive FwCmd where
  | piece (bytes : List (BitVec 8))
  | commit (signature : List (BitVec 8)) (version : Nat)
  deriving DecidableEq, Repr

/-- How a packet reaches a hub (R93, R119): a launch's first packet, a push by a core with its CSEQ, a nest record, a packet
of the TASK channel, a child of a nest. -/
inductive Arrival where
  | first
  | push (cid : Nat) (cseq : Word) (ret : Option Nat)
  | nest (cid : Nat) (cseq : Word)
  | remote (hdr : RemoteHdr) (port : Option Nat)
  deriving DecidableEq, Repr

/-- Why a core is asked to stop (R130). -/
inductive StopWhy where
  | deadline
  | freeze
  | tag
  deriving DecidableEq, Repr

/-- A remote put in flight (R361): target and sending member, context, group, target address, bytes with the poisoned 64-bit words, the
issuing core with its tl4 number (0 for a form without .ACK), and the launch slot of the issuer. -/
structure PutReq where
  member : Nat
  sender : Nat
  ctx : Nat
  group : Nat
  target : DWord
  bytes : List (BitVec 8)
  poisoned : List Nat
  ack : Option (Nat × Nat)
  lslot : Nat
  deriving DecidableEq, Repr

/-- An access of another core, a link or a peer to a pad through a window (R169, R170). -/
structure WindowAccess where
  pad : PadId
  off : Nat
  write : Option (List (BitVec 8))
  size : Nat
  ret : Option (Nat × Nat)
  deriving DecidableEq, Repr

/-- Who holds an access while every pool is empty (R178): a core, an engine that works for a core, the launch controller or
a hub for a launch, the host interface. -/
inductive HoldWho where
  | core (cid : Nat)
  | engine (cid : Nat)
  | launch (l : Nat)
  | host
  deriving DecidableEq, Repr

/-- What another device of a group adds to a termination wave (R109, R125, R126). -/
structure WaveShare where
  member : Nat
  pushed : Nat
  retired : Nat
  quiet : Bool
  sent : Nat
  heard : Nat
  pendLeft : Bool
  suspended : Bool
  ready : Bool
  fc : Nat
  held : Option Nat
  stealable : Nat
  deriving DecidableEq, Repr

/-- The data of a posted write from PCI Express, with its relaxed-ordering attribute (R70, R374). -/
structure Posted (α : Type) where
  val : α
  ro : Bool
  deriving DecidableEq, Repr

/-- The two cores between which a message of a barrier goes: the one that sends it and the one it is for (R186). -/
structure Passage where
  src : Nat
  dst : Nat
  deriving DecidableEq, Repr

/-- The instructions and steps of the PZ9, one constructor for each row of the opcode table. -/
inductive Instr where
  /-- NOP (R293). No operation beyond its slot and its cycle. -/
  | nop
  /-- TEND (R287). Ends the task or gang: waits for results in flight, own-L1 accesses and tile moves, then hands the task to the hub. -/
  | tend
  /-- TSUSP (R288). Suspends the task on a timeline: writes a continuation record and parks its output regions. -/
  | tsusp (a : BitVec 6) (b : BitVec 6)
  /-- TYIELD (R289). Gives up the core as a TSUSP that is ready at once; a NOP in a gang launch. -/
  | tyield
  /-- CKPT (R290). Names a live-range table and is the stop point when a throughput stop request is pending. -/
  | ckpt (a : BitVec 6)
  /-- TRAP (R291). Traps with cause TRAP and TRAPVAL set from s. -/
  | trap (a : BitVec 6)
  /-- ERET (R142). Leaves handler mode, restores latches and REP state, re-injects captured results and issues the bundle at TRAPPC. -/
  | eret
  /-- CSRD (R285). Reads a control register and delivers it 2 cycles later. -/
  | csrd (d : BitVec 6) (w : BitVec 1) (b : BitVec 6)
  /-- CSWR (R285). Writes a control register, subject to its field write rules. -/
  | cswr (a : BitVec 6) (b : BitVec 6)
  /-- CSSET (R285). Sets the bits of a control register that are 1 in the value. -/
  | csset (a : BitVec 6) (b : BitVec 6)
  /-- CSCLR (R285). Clears the bits of a control register that are 1 in the value. -/
  | csclr (a : BitVec 6) (b : BitVec 6)
  /-- WFE (R293). Waits until the event latch EV is 1, then issues and clears it. -/
  | wfe
  /-- SLEEP (R293). Waits as WFE does, with the core power gated. -/
  | sleep
  /-- SADD (R271). 32-bit wrapping add of two s operands. -/
  | sadd (d : BitVec 6) (w : BitVec 1) (a : BitVec 6) (b : BitVec 6)
  /-- SSUB (R271). 32-bit wrapping subtract. -/
  | ssub (d : BitVec 6) (w : BitVec 1) (a : BitVec 6) (b : BitVec 6)
  /-- SMUL (R271). Low 32 bits of the product, latency 3. -/
  | smul (d : BitVec 6) (w : BitVec 1) (a : BitVec 6) (b : BitVec 6)
  /-- SMULH (R271). High 32 bits of the signed product. -/
  | smulh (d : BitVec 6) (w : BitVec 1) (a : BitVec 6) (b : BitVec 6)
  /-- SMULHU (R271). High 32 bits of the unsigned product. -/
  | smulhu (d : BitVec 6) (w : BitVec 1) (a : BitVec 6) (b : BitVec 6)
  /-- SDIV (R272). Signed division toward zero, latency 12, with the zero-divisor rule. -/
  | sdiv (d : BitVec 6) (w : BitVec 1) (a : BitVec 6) (b : BitVec 6)
  /-- SDIVU (R272). Unsigned division. -/
  | sdivu (d : BitVec 6) (w : BitVec 1) (a : BitVec 6) (b : BitVec 6)
  /-- SREM (R272). Signed remainder, which takes the sign of the dividend. -/
  | srem (d : BitVec 6) (w : BitVec 1) (a : BitVec 6) (b : BitVec 6)
  /-- SREMU (R272). Unsigned remainder. -/
  | sremu (d : BitVec 6) (w : BitVec 1) (a : BitVec 6) (b : BitVec 6)
  /-- SAND (R271). Bitwise AND. -/
  | sand (d : BitVec 6) (w : BitVec 1) (a : BitVec 6) (b : BitVec 6)
  /-- SOR (R271). Bitwise OR. -/
  | sor (d : BitVec 6) (w : BitVec 1) (a : BitVec 6) (b : BitVec 6)
  /-- SXOR (R271). Bitwise XOR. -/
  | sxor (d : BitVec 6) (w : BitVec 1) (a : BitVec 6) (b : BitVec 6)
  /-- SSHL (R271). Shift left by b[4:0]. -/
  | sshl (d : BitVec 6) (w : BitVec 1) (a : BitVec 6) (b : BitVec 6)
  /-- SSHR (R271). Logical shift right. -/
  | sshr (d : BitVec 6) (w : BitVec 1) (a : BitVec 6) (b : BitVec 6)
  /-- SSRA (R271). Arithmetic shift right. -/
  | ssra (d : BitVec 6) (w : BitVec 1) (a : BitVec 6) (b : BitVec 6)
  /-- SMIN (R271). Signed minimum. -/
  | smin (d : BitVec 6) (w : BitVec 1) (a : BitVec 6) (b : BitVec 6)
  /-- SMAX (R271). Signed maximum. -/
  | smax (d : BitVec 6) (w : BitVec 1) (a : BitVec 6) (b : BitVec 6)
  /-- SMINU (R271). Unsigned minimum. -/
  | sminu (d : BitVec 6) (w : BitVec 1) (a : BitVec 6) (b : BitVec 6)
  /-- SMAXU (R271). Unsigned maximum. -/
  | smaxu (d : BitVec 6) (w : BitVec 1) (a : BitVec 6) (b : BitVec 6)
  /-- SCLZ (R271). Count of leading zeros of a 32-bit value. -/
  | sclz (d : BitVec 6) (w : BitVec 1) (a : BitVec 6)
  /-- SPOPC (R271). Population count of a 32-bit value. -/
  | spopc (d : BitVec 6) (w : BitVec 1) (a : BitVec 6)
  /-- SADDI (R273). Add of a sign-extended 10-bit immediate. -/
  | saddi (d : BitVec 6) (w : BitVec 1) (a : BitVec 6) (i : BitVec 10)
  /-- SANDI (R273). AND with a sign-extended immediate. -/
  | sandi (d : BitVec 6) (w : BitVec 1) (a : BitVec 6) (i : BitVec 10)
  /-- SORI (R273). OR with a sign-extended immediate. -/
  | sori (d : BitVec 6) (w : BitVec 1) (a : BitVec 6) (i : BitVec 10)
  /-- SXORI (R273). XOR with a sign-extended immediate. -/
  | sxori (d : BitVec 6) (w : BitVec 1) (a : BitVec 6) (i : BitVec 10)
  /-- SSHLI (R273). Shift left by an immediate amount. -/
  | sshli (d : BitVec 6) (w : BitVec 1) (a : BitVec 6) (i : BitVec 5)
  /-- SSHRI (R273). Logical shift right by an immediate amount. -/
  | sshri (d : BitVec 6) (w : BitVec 1) (a : BitVec 6) (i : BitVec 5)
  /-- SSRAI (R273). Arithmetic shift right by an immediate amount. -/
  | ssrai (d : BitVec 6) (w : BitVec 1) (a : BitVec 6) (i : BitVec 5)
  /-- AADDI (R273). Adds a sign-extended byte offset to an a register. -/
  | aaddi (d : BitVec 6) (w : BitVec 1) (a : BitVec 6) (i : BitVec 10)
  /-- SLI (R274). Loads a sign-extended 18-bit immediate. -/
  | sli (d : BitVec 6) (w : BitVec 1) (i : BitVec 18)
  /-- SLUI (R274). Replaces bits 31:14 of d with an 18-bit immediate. -/
  | slui (d : BitVec 6) (w : BitVec 1) (i : BitVec 18)
  /-- AADD (R276). Adds a sign-extended s value to an a register. -/
  | aadd (d : BitVec 6) (w : BitVec 1) (a : BitVec 6) (b : BitVec 6)
  /-- ASUB (R276). Subtracts a sign-extended s value from an a register. -/
  | asub (d : BitVec 6) (w : BitVec 1) (a : BitVec 6) (b : BitVec 6)
  /-- AMOV (R276). Copies an a register. -/
  | amov (d : BitVec 6) (w : BitVec 1) (a : BitVec 6)
  /-- ASET (R276). Builds an a register from a low and a high s half. -/
  | aset (d : BitVec 6) (w : BitVec 1) (a : BitVec 6) (b : BitVec 6)
  /-- AGET (R276). Reads bits 31:0 of an a register into s. -/
  | aget (d : BitVec 6) (w : BitVec 1) (a : BitVec 6)
  /-- AGET_HI (R276). Reads bits 63:32 of an a register into s. -/
  | agetHi (d : BitVec 6) (w : BitVec 1) (a : BitVec 6)
  /-- BR_CC (R279). Branches by a word offset when P compared with zero meets the condition. -/
  | brCc (k : BitVec 4) (p : BitVec 6) (o : BitVec 16)
  /-- JMP (R280). Jumps by a 19-bit word offset. -/
  | jmp (i : BitVec 19)
  /-- CALL (R280). Jumps and writes the return address into an a register. -/
  | call (d : BitVec 6) (i : BitVec 19)
  /-- JIND (R281). Jumps to the address in an a register. -/
  | jind (a : BitVec 6)
  /-- JTAB (R282). Jumps through a table by index, or falls through and sets JOOR. -/
  | jtab (a : BitVec 6) (b : BitVec 6)
  /-- RET (R281). Returns to the address in an a register. -/
  | ret (a : BitVec 6)
  /-- REP (R284). Makes the next one-word bundle issue n times, stepping the flagged fields. -/
  | rep (n : BitVec 6) (d : BitVec 1) (a : BitVec 1) (b : BitVec 1) (x : BitVec 1)
  /-- SCMP_CC (R275). Compares two s values and writes 1 or 0. -/
  | scmpCc (d : BitVec 6) (w : BitVec 1) (a : BitVec 6) (b : BitVec 6) (k : BitVec 4)
  /-- SCMPI_CC (R275). Compares s with a 6-bit immediate and writes 1 or 0. -/
  | scmpiCc (d : BitVec 6) (w : BitVec 1) (a : BitVec 6) (i : BitVec 6) (k : BitVec 4)
  /-- SSEL (R275). Selects a or b by a condition register. -/
  | ssel (d : BitVec 6) (w : BitVec 1) (a : BitVec 6) (b : BitVec 6) (e : BitVec 6)
  /-- VADD (R298). Float vector add, RNE. -/
  | vadd (d : BitVec 6) (w : BitVec 1) (a : BitVec 6) (b : BitVec 6) (t : BitVec 1)
  /-- VSUB (R298). Float vector subtract. -/
  | vsub (d : BitVec 6) (w : BitVec 1) (a : BitVec 6) (b : BitVec 6) (t : BitVec 1)
  /-- VMUL (R298). Float vector multiply. -/
  | vmul (d : BitVec 6) (w : BitVec 1) (a : BitVec 6) (b : BitVec 6) (t : BitVec 1)
  /-- VMIN (R298). Float vector minimum. -/
  | vmin (d : BitVec 6) (w : BitVec 1) (a : BitVec 6) (b : BitVec 6) (t : BitVec 1)
  /-- VMAX (R298). Float vector maximum. -/
  | vmax (d : BitVec 6) (w : BitVec 1) (a : BitVec 6) (b : BitVec 6) (t : BitVec 1)
  /-- VABS (R298). Float absolute value. -/
  | vabs (d : BitVec 6) (w : BitVec 1) (a : BitVec 6) (t : BitVec 1)
  /-- VNEG (R298). Float negation. -/
  | vneg (d : BitVec 6) (w : BitVec 1) (a : BitVec 6) (t : BitVec 1)
  /-- VIADD (R300). Integer vector add, optionally saturating. -/
  | viadd (d : BitVec 6) (w : BitVec 1) (a : BitVec 6) (b : BitVec 6) (s : BitVec 1) (t : BitVec 2)
  /-- VISUB (R300). Integer vector subtract, optionally saturating. -/
  | visub (d : BitVec 6) (w : BitVec 1) (a : BitVec 6) (b : BitVec 6) (s : BitVec 1) (t : BitVec 2)
  /-- VIMUL (R300). Integer vector multiply, optionally saturating. -/
  | vimul (d : BitVec 6) (w : BitVec 1) (a : BitVec 6) (b : BitVec 6) (s : BitVec 1) (t : BitVec 2)
  /-- VIMIN (R300). Signed integer vector minimum. -/
  | vimin (d : BitVec 6) (w : BitVec 1) (a : BitVec 6) (b : BitVec 6) (t : BitVec 2)
  /-- VIMAX (R300). Signed integer vector maximum. -/
  | vimax (d : BitVec 6) (w : BitVec 1) (a : BitVec 6) (b : BitVec 6) (t : BitVec 2)
  /-- VAND (R300). Bitwise AND of lanes. -/
  | vand (d : BitVec 6) (w : BitVec 1) (a : BitVec 6) (b : BitVec 6)
  /-- VOR (R300). Bitwise OR of lanes. -/
  | vor (d : BitVec 6) (w : BitVec 1) (a : BitVec 6) (b : BitVec 6)
  /-- VXOR (R300). Bitwise XOR of lanes. -/
  | vxor (d : BitVec 6) (w : BitVec 1) (a : BitVec 6) (b : BitVec 6)
  /-- VSHL (R300). Integer vector shift left. -/
  | vshl (d : BitVec 6) (w : BitVec 1) (a : BitVec 6) (b : BitVec 6) (t : BitVec 2)
  /-- VSHR (R300). Integer vector logical shift right. -/
  | vshr (d : BitVec 6) (w : BitVec 1) (a : BitVec 6) (b : BitVec 6) (t : BitVec 2)
  /-- VSRA (R300). Integer vector arithmetic shift right. -/
  | vsra (d : BitVec 6) (w : BitVec 1) (a : BitVec 6) (b : BitVec 6) (t : BitVec 2)
  /-- VFMA (R299). Fused a × b + d with one rounding. -/
  | vfma (d : BitVec 6) (w : BitVec 1) (a : BitVec 6) (b : BitVec 6) (t : BitVec 1)
  /-- VFMS (R299). Fused a × b − d with one rounding. -/
  | vfms (d : BitVec 6) (w : BitVec 1) (a : BitVec 6) (b : BitVec 6) (t : BitVec 1)
  /-- VCVT (R304). Converts between binary32 and another type under a rounding mode. -/
  | vcvt (d : BitVec 6) (w : BitVec 1) (a : BitVec 6) (r : BitVec 3) (x : BitVec 1) (f : BitVec 1) (t : BitVec 5)
  /-- VEXP2 (R306). Correctly rounded 2^x per lane. -/
  | vexp2 (d : BitVec 6) (w : BitVec 1) (a : BitVec 6)
  /-- VLOG2 (R306). Correctly rounded log2 per lane. -/
  | vlog2 (d : BitVec 6) (w : BitVec 1) (a : BitVec 6)
  /-- VRCP (R306). Correctly rounded reciprocal per lane. -/
  | vrcp (d : BitVec 6) (w : BitVec 1) (a : BitVec 6)
  /-- VRSQ (R306). Correctly rounded reciprocal square root per lane. -/
  | vrsq (d : BitVec 6) (w : BitVec 1) (a : BitVec 6)
  /-- VHASH (R307). hash32 of seed and counter per lane. -/
  | vhash (d : BitVec 6) (w : BitVec 1) (a : BitVec 6) (b : BitVec 6)
  /-- VDOT4 (R305). Accumulates four binary8 products per lane into binary32 with one rounding. -/
  | vdot4 (d : BitVec 6) (w : BitVec 1) (a : BitVec 6) (b : BitVec 6) (u : BitVec 1) (f : BitVec 1) (p : BitVec 3)
  /-- VDOT2 (R305). Accumulates two binary16 products per lane into binary32 with one rounding. -/
  | vdot2 (d : BitVec 6) (w : BitVec 1) (a : BitVec 6) (b : BitVec 6)
  /-- VBCAST (R308). Broadcasts a 32-bit scalar into every lane. -/
  | vbcast (d : BitVec 6) (w : BitVec 1) (a : BitVec 6)
  /-- VLANE (R308). Extracts one lane into an s register. -/
  | vlane (d : BitVec 6) (w : BitVec 1) (a : BitVec 6) (b : BitVec 6)
  /-- VPERM (R309). Permutes lanes within each section. -/
  | vperm (d : BitVec 6) (w : BitVec 1) (a : BitVec 6) (b : BitVec 6)
  /-- XCOPY (R310). Rotates sections by n. -/
  | xcopy (d : BitVec 6) (w : BitVec 1) (a : BitVec 6) (n : BitVec 3)
  /-- VRED_ADD_F32 (R311). Per-section binary32 sum in a fixed tree. -/
  | vredAddF32 (d : BitVec 6) (w : BitVec 1) (a : BitVec 6)
  /-- VRED_MIN_F32 (R311). Per-section binary32 minimum. -/
  | vredMinF32 (d : BitVec 6) (w : BitVec 1) (a : BitVec 6)
  /-- VRED_MAX_F32 (R311). Per-section binary32 maximum. -/
  | vredMaxF32 (d : BitVec 6) (w : BitVec 1) (a : BitVec 6)
  /-- VRED_ADD_I32 (R311). Per-section integer sum modulo 2^32. -/
  | vredAddI32 (d : BitVec 6) (w : BitVec 1) (a : BitVec 6)
  /-- VRED_MIN_I32 (R311). Per-section signed minimum. -/
  | vredMinI32 (d : BitVec 6) (w : BitVec 1) (a : BitVec 6)
  /-- VRED_MAX_I32 (R311). Per-section signed maximum. -/
  | vredMaxI32 (d : BitVec 6) (w : BitVec 1) (a : BitVec 6)
  /-- VLD (R312). Loads 512 bytes from the own L1 into the enabled lanes. -/
  | vld (d : BitVec 6) (w : BitVec 1) (a : BitVec 6) (i : BitVec 6) (k : BitVec 3)
  /-- VST (R312). Stores the enabled lanes to the own L1 at the check stage. -/
  | vst (d : BitVec 6) (a : BitVec 6) (i : BitVec 6) (k : BitVec 3)
  /-- VGATH (R313). Gathers enabled lanes from per-lane own-L1 offsets. -/
  | vgath (d : BitVec 6) (w : BitVec 1) (a : BitVec 6) (b : BitVec 6) (k : BitVec 3)
  /-- VSCAT (R313). Scatters enabled lanes to per-lane own-L1 offsets. -/
  | vscat (d : BitVec 6) (a : BitVec 6) (b : BitVec 6) (k : BitVec 3)
  /-- VPUSHC_CFG (R315). Configures a compaction queue and discards its records. -/
  | vpushcCfg (q : BitVec 6) (a : BitVec 6)
  /-- VPUSHC (R316). Pushes one record per enabled lane into a compaction queue. -/
  | vpushc (q : BitVec 6) (a : BitVec 6) (k : BitVec 3)
  /-- VPOPC (R317). Pops one record per enabled lane from a compaction queue. -/
  | vpopc (d : BitVec 6) (w : BitVec 1) (q : BitVec 6) (k : BitVec 3)
  /-- VQBAL (R318). Rewrites a queue's storage balanced over sections, numbered on tl5. -/
  | vqbal (q : BitVec 6)
  /-- VQCNT (R317). Reads a queue's COUNT into an s register. -/
  | vqcnt (d : BitVec 6) (w : BitVec 1) (q : BitVec 6)
  /-- VCMP_CC (R301). Compares lanes and writes a k mask. -/
  | vcmpCc (d : BitVec 6) (w : BitVec 1) (a : BitVec 6) (b : BitVec 6) (t : BitVec 2) (k : BitVec 4)
  /-- VSEL (R302). Selects lanes of a or b by a mask. -/
  | vsel (d : BitVec 6) (w : BitVec 1) (a : BitVec 6) (b : BitVec 6) (m : BitVec 3)
  /-- KAND (R303). AND of two masks. -/
  | kand (d : BitVec 6) (w : BitVec 1) (a : BitVec 6) (b : BitVec 6)
  /-- KOR (R303). OR of two masks. -/
  | kor (d : BitVec 6) (w : BitVec 1) (a : BitVec 6) (b : BitVec 6)
  /-- KNOT (R303). Inverts a mask. -/
  | knot (d : BitVec 6) (w : BitVec 1) (a : BitVec 6)
  /-- KCNT (R303). Counts the set bits of a mask into an s register. -/
  | kcnt (d : BitVec 6) (w : BitVec 1) (a : BitVec 6)
  /-- SLEN (R322). Sets the stream exponent SL.M. -/
  | slen (m : BitVec 5)
  /-- SSEED (R322). Sets SEEDA or SEEDB from s. -/
  | sseed (x : BitVec 1) (s : BitVec 5)
  /-- SPROF (R322). Sets the default numerics profile. -/
  | sprof (p : BitVec 8)
  /-- SMODE (R322). Writes SMODE from s under its write rules. -/
  | smode (s : BitVec 5)
  /-- NTSET (R323). Writes one word of a shadow nest table. -/
  | ntset (n : BitVec 3) (w : BitVec 5) (s : BitVec 5)
  /-- NTCLR (R323). Clears a shadow nest table. -/
  | ntclr (n : BitVec 3)
  /-- WBLD (R327). Queues a copy from the own L1 into the weight buffer. -/
  | wbld (a : BitVec 4) (s : BitVec 5)
  /-- WLATCH (R329). Queues the expansion of a weight-buffer tile into a stationary latch. -/
  | wlatch (w : BitVec 2) (s : BitVec 5)
  /-- SGO (R330). Checks, activates and queues a nest, and sets EBND. -/
  | sgo (n : BitVec 3) (p : BitVec 8)
  /-- SCONF (R335). Tests whether the leading column of a column set is certain. -/
  | sconf (v : BitVec 6) (s : BitVec 5)
  /-- SSTOP (R333). Stops a prefix nest after 2^j bits. -/
  | sstop (n : BitVec 3) (j : BitVec 5)
  /-- SPART (R334). Reads partial sums of two accumulator rows. -/
  | spart (v : BitVec 6) (s : BitVec 5)
  /-- SREAD (R336). Converts accumulator rows into a v register. -/
  | sread (p : BitVec 8) (v : BitVec 6) (s : BitVec 5)
  /-- SCLR (R337). Queues the clearing of every accumulator and row record. -/
  | sclr
  /-- SEBND (R337). Reads EBND into a v register. -/
  | sebnd (v : BitVec 6)
  /-- LD (R345). Loads from the own L1 with latency 4. -/
  | ld (z : BitVec 2) (d : BitVec 6) (b : BitVec 4) (x : BitVec 1) (i : BitVec 11)
  /-- ST (R345). Stores to the own L1, device memory or the group window. -/
  | st (z : BitVec 2) (d : BitVec 6) (b : BitVec 4) (x : BitVec 1) (i : BitVec 11)
  /-- LDL (R345). Landing load that lands at cycle t + Δ. -/
  | ldl (z : BitVec 2) (d : BitVec 5) (b : BitVec 3) (o : BitVec 4) (l : BitVec 10)
  /-- STR (R345). Store through the engine path to pad windows and device memory. -/
  | str (z : BitVec 2) (d : BitVec 6) (b : BitVec 4) (x : BitVec 1) (i : BitVec 11)
  /-- TMOV (R349). Queues a tile move between an object and L1 on tl0 or tl1. -/
  | tmov (q : BitVec 1) (r : BitVec 1) (o : BitVec 6) (b : BitVec 4) (s : BitVec 5)
  /-- TMOVQ (R351). Queues a quantised tile move with trailer check or generation. -/
  | tmovq (q : BitVec 1) (r : BitVec 1) (o : BitVec 6) (b : BitVec 4) (s : BitVec 5)
  /-- TFILL (R350). Queues the filling of an L1 tile with a value. -/
  | tfill (q : BitVec 1) (o : BitVec 6) (b : BitVec 4) (s : BitVec 5)
  /-- AMO_OP (R348). 32-bit atomic read-modify-write at the level that holds the address. -/
  | amoOp (e : BitVec 3) (o : BitVec 3) (r : BitVec 2) (d : BitVec 5) (b : BitVec 3) (l : BitVec 10)
  /-- LD_ACQ (R346). Acquiring landing load at a named scope. -/
  | ldAcq (e : BitVec 3) (z : BitVec 2) (d : BitVec 5) (b : BitVec 3) (l : BitVec 10)
  /-- ST_REL (R346). Releasing store at a named scope. -/
  | stRel (e : BitVec 3) (z : BitVec 2) (s : BitVec 5) (b : BitVec 3)
  /-- FENCE (R347). Holds later accesses at egress until earlier ones are performed. -/
  | fence (e : BitVec 3)
  /-- WAITTL (R353). Waits until a timeline reaches a value, then acquires at unit scope. -/
  | waittl (t : BitVec 3) (a : BitVec 6)
  /-- TLGET (R353). Reads a timeline. -/
  | tlget (t : BitVec 3) (d : BitVec 6)
  /-- TLBUMP (R353). Raises tl6 or tl7 as a release at unit scope. -/
  | tlbump (t : BitVec 3) (a : BitVec 6)
  /-- BARI (R355). Initialises a barrier copy with its participant rectangle. -/
  | bari (b : BitVec 7) (a : BitVec 6)
  /-- BARA (R355). Sets the pending bit and sends an arrival to the home. -/
  | bara (b : BitVec 7)
  /-- BARW (R355). Waits while the pending bit is set, then acquires. -/
  | barw (b : BitVec 7)
  /-- RACQ (R356). Acquires a ring buffer, held until the L2 bank grants it. -/
  | racq (r : BitVec 6) (s : BitVec 1) (d : BitVec 6)
  /-- RREL (R356). Releases a ring buffer and sets EV in the cluster. -/
  | rrel (r : BitVec 6) (s : BitVec 1)
  /-- RINFO (R356). Reads a ring descriptor's indices and counts. -/
  | rinfo (r : BitVec 6) (d : BitVec 6)
  /-- WLPUSH (R358). Pushes a fresh task packet through the own hub and lands its handle. -/
  | wlpush (d : BitVec 5) (b : BitVec 4) (l : BitVec 10)
  /-- WLPUSHR (R360). Sends a fresh task packet to a hub of a member device. -/
  | wlpushr (k : BitVec 1) (b : BitVec 4) (s : BitVec 5)
  /-- WLFLOOR (R359). Returns the own hub's committed floor for the launch. -/
  | wlfloor (d : BitVec 5) (l : BitVec 10)
  /-- WLNEST (R359). Pushes a nest record to the own hub. -/
  | wlnest (b : BitVec 4)
  /-- TSUCC (R359). Appends a successor handle to the running task's list. -/
  | tsucc (s : BitVec 5)
  /-- RPUT (R361). Copies bytes to a target address on a member device. -/
  | rput (k : BitVec 1) (a : BitVec 4) (t : BitVec 4) (l : BitVec 5) (v : BitVec 5)
  /-- RRED (R361). Sends one contribution to a reduction slot. -/
  | rred (k : BitVec 1) (a : BitVec 4) (n : BitVec 5) (t : BitVec 5)
  /-- OBJLD (R363). Loads an object-table entry into an object-window slot on tl0. -/
  | objld (o : BitVec 6) (s : BitVec 5)
  /-- OBJPUB (R363). Publishes a rewritten object table to the controller and hubs. -/
  | objpub
  /-- EQINIT (R224). Initialises a forest. -/
  | eqinit (d : BitVec 5) (b : BitVec 4) (l : BitVec 10)
  /-- EQUN (R227). Unites the classes of two elements. -/
  | equn (d : BitVec 5) (b : BitVec 4) (l : BitVec 10)
  /-- EQFD (R226). Finds the root of an element with path halving. -/
  | eqfd (d : BitVec 5) (b : BitVec 4) (l : BitVec 10)
  /-- EQSZ (R229). Returns the size of an element's class. -/
  | eqsz (d : BitVec 5) (b : BitVec 4) (l : BitVec 10)
  /-- EQCNT (R229). Returns the class count. -/
  | eqcnt (d : BitVec 5) (b : BitVec 4) (l : BitVec 10)
  /-- EQRL (R233). Relabels or reduces by class while holding the forest. -/
  | eqrl (d : BitVec 5) (b : BitVec 4) (l : BitVec 10)
  /-- EQSNAP (R230). Opens the undo log. -/
  | eqsnap (d : BitVec 5) (b : BitVec 4) (l : BitVec 10)
  /-- EQUNDO (R232). Restores the logged entries in reverse and resets COUNT. -/
  | equndo (d : BitVec 5) (b : BitVec 4) (l : BitVec 10)
  /-- EQDROP (R232). Closes the log and keeps the forest. -/
  | eqdrop (d : BitVec 5) (b : BitVec 4) (l : BitVec 10)
  /-- HOP_REPAIR_RESUME (R26), a step of the device. Retraining of a repaired hop ends and the hop resumes. -/
  | hopRepairResume (h : Nat)
  /-- TASK_PACKET_SEND (R42), a step of the device. A queued TASK packet leaves the port against a credit. -/
  | taskPacketSend (d : Nat)
  /-- TASK_PACKET_RECEIVE (R42), a step of the device. A received TASK packet is forwarded to its hub and accepted or refused. -/
  | taskPacketReceive (d : Nat) (hdr : RemoteHdr) (pkt : (List Byte))
  /-- ISALEDIN_WRITE_RX (R49), a step of the device. An RDMA WRITE packet is received and written. -/
  | isaledinWriteRx (qp : Nat) (psn : Nat) (ce : Bool) (key : Word) (va : DWord) (bytes : (List Byte))
  /-- ISALEDIN_READ_REQUEST_RX (R49), a step of the device. An RDMA READ request is received and answered. -/
  | isaledinReadRequestRx (qp : Nat) (psn : Nat) (ce : Bool) (key : Word) (va : DWord) (len : Nat)
  /-- SLOT_ARM (R55), a step of the device. A store of STATE = 1 arms a reduction slot after checking its fields. -/
  | slotArm (die : Nat) (slot : Nat)
  /-- SLOT_DISARM (R55), a step of the device. A store of STATE = 0 disarms an armed slot. -/
  | slotDisarm (die : Nat) (slot : Nat)
  /-- CONTRIBUTION_STAGED (R56), a step of the device. A contribution's last flit is staged and its fate is decided. -/
  | contributionStaged (die : Nat) (con : Contribution)
  /-- CONTRIBUTION_ADD (R57), a step of the device. The slot adder adds one staged contribution element by element. -/
  | contributionAdd (die : Nat)
  /-- SLOT_DEADLINE (R58), a step of the device. Device time reaches a slot's DEADLINE and it closes. -/
  | slotDeadline (die : Nat) (slot : Nat)
  /-- JOURNAL_APPEND_ACK (R58), a step of the device. The append is acknowledged and the slot raises its timeline. -/
  | journalAppendAck (die : Nat) (slot : Nat)
  /-- SNAP_GO (R59), a step of the device. A write of 1 to SNAP_GO starts mirroring the regions to the buddy. -/
  | snapGo (e : Nat)
  /-- LAUNCH_RECORD_CONSUME (R69), a step of the device. The controller reads a record, checks SEQ and accepts it. -/
  | launchRecordConsume (ctx : Nat)
  /-- RECORD_REPOLL (R69), a step of the device. After 64 ns the controller re-reads a slot whose SEQ did not match. -/
  | recordRepoll (ctx : Nat)
  /-- LAUNCH_FIRST_READ (R72), a step of the device. The first packet or parameter block is read and copied for the accepted launch. -/
  | launchFirstRead (l : Nat)
  /-- LAUNCH_REPORT (R74), a step of the device. After the drain, the launch commits shadows and writes digest, record, notification and MSI-X. -/
  | launchReport (l : Nat)
  /-- MSIX_COALESCE_EXPIRY (R77), a step of the device. E(v) is reached and one MSI-X message covers pending completions. -/
  | msixCoalesceExpiry (v : Nat)
  /-- INBOUND_READ (R78), a step of the device. A BAR 2 read is checked against its window, translated and answered. -/
  | inboundRead (req : Nat) (off : Nat) (len : Nat)
  /-- INBOUND_WRITE (R78), a step of the device. A BAR 2 write is checked against its window, translated and performed. -/
  | inboundWrite (req : Nat) (off : Nat) (bytes : Posted (List Byte))
  /-- OUTBOUND_TIMEOUT (R79), a step of the device. No completion within 50 µs poisons the data and counts an error. -/
  | outboundTimeout (tag : Nat)
  /-- GANG_START (R90), a step of the device. A gang starts when all its cores are free of equal or higher class work. -/
  | gangStart (l : Nat) (g : Nat)
  /-- TASK_DISPATCH (R106), a step of the device. The hub chooses a task for an idle core, or a victim to pre-empt. -/
  | taskDispatch (die : Nat)
  /-- REGION_COPY_IN_DONE (R102), a step of the device. A task's regions are resident and its first bundle issues. -/
  | regionCopyInDone (cid : Nat)
  /-- TEND_COPY_OUT (R103), a step of the device. A TEND's outputs are copied into the tile pool once space is free. -/
  | tendCopyOut (cid : Nat)
  /-- TASK_RETIRE (R105), a step of the device. Output stores are performed, released, the task retired and successors decremented. -/
  | taskRetire (l : Nat) (uid : Nat)
  /-- TASK_PRELOAD (R107), a step of the device. The hub preloads a second task onto a busy core. -/
  | taskPreload (cid : Nat)
  /-- PACKET_ACCEPT (R93), a step of the device. The hub checks a pushed packet, enters its dependences and inserts it. -/
  | packetAccept (die : Nat) (l : Nat) (arr : Arrival) (pkt : (List Byte))
  /-- NEST_WALKER_SPAWN (R98), a step of the device. The walker makes the next fresh task of a nest record. -/
  | nestWalkerSpawn (l : Nat) (uid : Nat)
  /-- CONTINUATION_READY (R96), a step of the device. A continuation's timeline condition holds and it enters its bucket. -/
  | continuationReady (l : Nat) (uid : Nat)
  /-- BUDGET_EXCEEDED (R108), a step of the device. A task runs past TBUDGET and the launch faults. -/
  | budgetExceeded (cid : Nat)
  /-- TERMINATION_WAVE (R109), a step of the device. Every 1 µs a wave collects counts and finds a launch empty. -/
  | terminationWave (l : Nat) (shares : (List WaveShare))
  /-- FLOOR_PROPOSE (R115), a step of the device. The keeper proposes a raise when every hub's lowest B exceeds FC. -/
  | floorPropose (l : Nat)
  /-- PROPOSE_RECEIVE (R115), a step of the device. A hub sets GUARD and acknowledges with its lowest B. -/
  | proposeReceive (l : Nat) (hub : Nat) (p : Nat)
  /-- PROPOSE_ACK_RECEIVE (R115), a step of the device. The keeper collects acknowledgements and sends COMMIT. -/
  | proposeAckReceive (l : Nat) (hub : Nat) (b : Nat)
  /-- COMMIT_RECEIVE (R115), a step of the device. A hub sets FC and GUARD and moves buckets. -/
  | commitReceive (l : Nat) (hub : Nat) (fc : Nat)
  /-- HOLD_RECEIVE (R117), a step of the device. The keeper receives HOLD and sends PAUSE. -/
  | holdReceive (l : Nat) (hub : Nat)
  /-- PAUSE_RECEIVE (R117), a step of the device. A hub stops popping and acknowledges with its lowest and held B. -/
  | pauseReceive (l : Nat) (hub : Nat)
  /-- PAUSE_ACK_RECEIVE (R117), a step of the device. The keeper collects acknowledgements and sends RESUME. -/
  | pauseAckReceive (l : Nat) (hub : Nat) (present : Nat) (heldB : Nat)
  /-- RESUME_RECEIVE (R117), a step of the device. A hub sets FC and GUARD, inserts held pushes and resumes. -/
  | resumeReceive (l : Nat) (hub : Nat) (fc : Nat)
  /-- BUCKET_REFILL (R122), a step of the device. A bucket's head part is refilled from its spill pages. -/
  | bucketRefill (l : Nat) (hub : Nat) (b : Nat)
  /-- REACH_UPDATE (R128), a step of the device. A new WLREACH reaches the keeper and is passed to every hub. -/
  | reachUpdate (l : Nat) (v : Nat)
  /-- STEAL_REQUEST (R124), a step of the device. A hub with an idle core and no poppable task sends a steal request. -/
  | stealRequest (l : Nat) (hub : Nat)
  /-- STEAL_REQUEST_RECEIVE (R124), a step of the device. The giving hub sends up to 8 stealable tasks. -/
  | stealRequestReceive (l : Nat) (giver : Nat) (thief : Nat)
  /-- STEAL_TRANSFER_RECEIVE (R124), a step of the device. The thief appends the stolen tasks and acknowledges. -/
  | stealTransferReceive (l : Nat) (giver : Nat) (thief : Nat)
  /-- STEAL_ACK_RECEIVE (R124), a step of the device. The giver stops counting the stolen tasks as present. -/
  | stealAckReceive (l : Nat) (giver : Nat) (thief : Nat)
  /-- STEAL_RETRY (R124), a step of the device. After an empty answer and 1 µs the requester asks again. -/
  | stealRetry (l : Nat) (hub : Nat)
  /-- DEVICE_STEAL_REQUEST (R126), a step of the device. A device with idle cores asks another device for tasks. -/
  | deviceStealRequest (l : Nat) (from' : (Option Nat))
  /-- PREEMPT_REQUEST (R131), a step of the device. A stop request reaches a victim core. -/
  | preemptRequest (cid : Nat) (why : StopWhy)
  /-- CKPTLIM_EXPIRY (R131), a step of the device. CKPTLIM cycles pass without a CKPT and the core stops immediately. -/
  | ckptlimExpiry (cid : Nat)
  /-- SAVE_COMPLETE (R136), a step of the device. A save area has been written and the core is free. -/
  | saveComplete (cid : Nat)
  /-- CONTEXT_RESTORE (R135), a step of the device. A pre-empted context is restored on its core and replay entries re-inject. -/
  | contextRestore (cid : Nat)
  /-- SHADOW_COPY_DONE (R179), a step of the device. A shadow copy is made and the held first write proceeds. -/
  | shadowCopyDone (l : Nat) (page : Nat)
  /-- CORE_WAKE (R154), a step of the device. A wake restarts a gated core. -/
  | coreWake (cid : Nat)
  /-- LANDING_DATA_RETURN (R166), a step of the device. A landing load's data returns, ending a freeze if late. -/
  | landingDataReturn (cid : Nat) (id : Nat)
  /-- FETCH_COMPLETE (R167), a step of the device. A code fetch completes and the freeze ends. -/
  | fetchComplete (cid : Nat)
  /-- PAGE_WALK_DONE (R175), a step of the device. A translation walk ends, filling the cache or faulting. -/
  | pageWalkDone (die : Nat) (ctx : Nat) (va : DWord)
  /-- ALLOC_HOLD_TIMEOUT (R178), a step of the device. No page placed within 1 ms ends the hold with a PAGE fault. -/
  | allocHoldTimeout (who : HoldWho)
  /-- TILE_MOVE_COMPLETE (R350), a step of the device. A tile move's writes are performed and its timeline raised. -/
  | tileMoveComplete (cid : Nat) (q : Nat)
  /-- OBJLD_COMPLETE (R363), a step of the device. The object entry read completes and the slot is replaced. -/
  | objldComplete (cid : Nat)
  /-- OBJPUB_COMPLETE (R363), a step of the device. The controller and every hub acknowledge OBJPUB. -/
  | objpubComplete (cid : Nat)
  /-- VQBAL_COMPLETE (R318), a step of the device. The queue rewrite completes and tl5 is raised. -/
  | vqbalComplete (cid : Nat)
  /-- ARRAY_OP_START (R326), a step of the device. The array begins the operation at the head of its queue. -/
  | arrayOpStart (cid : Nat)
  /-- NEST_PARK (R333), a step of the device. A prefix nest parks after its prefix pass and raises tl2. -/
  | nestPark (cid : Nat)
  /-- ARRAY_OP_COMPLETE (R331), a step of the device. A queued array operation completes into the accumulators and raises tl2. -/
  | arrayOpComplete (cid : Nat)
  /-- EQ_FIND_HOP (R226), a step of the device. An element's home performs one find hop with compression. -/
  | eqFindHop (op : Nat)
  /-- EQ_LINK (R227), a step of the device. The home of hi performs the link CAS and size read. -/
  | eqLink (op : Nat)
  /-- EQ_SIZE_DELTA (R228), a step of the device. A size delta arrives at an element's home and lands or is forwarded. -/
  | eqSizeDelta (op : Nat)
  /-- EQ_HOLD_END (R232), a step of the device. A forest hold ends and waiting operations proceed. -/
  | eqHoldEnd (op : Nat)
  /-- EQ_OP_COMPLETE (R234), a step of the device. An equivalence operation completes and tl3 is raised. -/
  | eqOpComplete (op : Nat)
  /-- ACK_ARRIVAL (R362), a step of the device. A target's answer arrives, the fate is written and tl4 counts it. -/
  | ackArrival (cid : Nat) (l : Nat) (n : Nat) (fate : Nat)
  /-- RPUT_ARRIVAL (R361), a step of the device. A put arrives at its target and is performed or refused. -/
  | rputArrival (put : PutReq)
  /-- WINDOW_ACCESS_ARRIVAL (R170), a step of the device. Another core's window access is served by a free bank cycle. -/
  | windowAccessArrival (cid : Nat) (acc : WindowAccess)
  /-- BARRIER_ARRIVAL (R186), a step of the device. An arrival reaches the home, completing a phase when all have arrived. -/
  | barrierArrival (way : Passage) (l : Nat) (bar : Nat) (rect : Rect)
  /-- BARRIER_PHASE_DELIVERY (R355), a step of the device. The new phase reaches a copy, clearing its pending bit and setting EV. -/
  | barrierPhaseDelivery (cid : Nat) (l : Nat) (bar : Nat) (phase : (BitVec 16))
  /-- RING_UPDATE (R356), a step of the device. The L2 bank tests and updates a ring descriptor for an RACQ. -/
  | ringUpdate (cid : Nat)
  /-- FLIT_REPLAY (R24), a step of the device. A UCIe flit failing its CRC is replayed and delivered once in order. -/
  | flitReplay (h : Nat)
  /-- RETRY_WINDOW_END (R25), a step of the device. The 1 ms window ends and WIN_RETRY takes the window's replay count. -/
  | retryWindowEnd (h : Nat)
  /-- HOP_REPAIR (R26), a step of the device. The Skelsan controller pauses a hop and moves a failing module to the spare or 8 lanes. -/
  | hopRepair (h : Nat) (repaired : Bool)
  /-- SECTOR_READ (R33), a step of the device. The memory controller decodes ECC, decrypts and checks the tag of a sector. -/
  | sectorRead (ctx : Nat) (enc : Bool) (pa : Nat)
  /-- SECTOR_WRITE (R34), a step of the device. The controller writes a sector, by read-modify-write when partial. -/
  | sectorWrite (ctx : Nat) (enc : Bool) (pa : Nat) (bytes : (List Byte))
  /-- PATROL_SCRUB (R31), a step of the device. The patrol scrubber reads and repairs a sector. -/
  | patrolScrub (pa : Nat)
  /-- REFRESH_MANAGEMENT (R35), a step of the device. A row's activation count reaches ACT_THR and refresh management is issued. -/
  | refreshManagement (ch : Nat) (row : Nat)
  /-- REFRESH_MANAGEMENT_DONE (R35), a step of the device. The refresh ends and queued bank requests are performed in order. -/
  | refreshManagementDone (ch : Nat)
  /-- REFRESH_WINDOW_END (R36), a step of the device. A refresh window ends and the row activation counts restart. -/
  | refreshWindowEnd (ch : Nat)
  /-- POWER_CAP_WINDOW (R37), a step of the device. A 10 ms power window ends and clocks are adjusted to hold the cap. -/
  | powerCapWindow (watts : Nat)
  /-- THERMAL_THROTTLE (R38), a step of the device. At 105 °C the device lowers both clocks. -/
  | thermalThrottle
  /-- THERMAL_SHUTDOWN (R38), a step of the device. At 115 °C the device stops all launches with a device fault. -/
  | thermalShutdown
  /-- XOGUS_FLIT_REPLAY (R39), a step of the device. A Xogus flit failing CRC is replayed from the sender's retry buffer. -/
  | xogusFlitReplay (d : Nat)
  /-- PORT_RETRAIN (R39), a step of the device. The Skelsan controller retrains a failing port at 2 lanes, or it goes down. -/
  | portRetrain (d : Nat) (ok : Bool)
  /-- TASK_CREDIT_RETURN (R42), a step of the device. A credit returns on ACK when the hub has accepted the packet. -/
  | taskCreditReturn (d : Nat) (l : Nat)
  /-- ISALEDIN_READ_RESPONSE_RX (R49), a step of the device. An RDMA READ response is received. -/
  | isaledinReadResponseRx (qp : Nat) (psn : Nat) (ce : Bool) (bytes : (List Byte))
  /-- ISALEDIN_ACK_RX (R49), a step of the device. An ACK or NAK is received, NAK causing go-back-N retransmission. -/
  | isaledinAckRx (qp : Nat) (psn : Nat) (ce : Bool) (nak : Bool)
  /-- ISALEDIN_REDUCE_RX (R50), a step of the device. A REDUCE packet is staged on the host die as a contribution. -/
  | isaledinReduceRx (qp : Nat) (psn : Nat) (ce : Bool) (con : Contribution)
  /-- ISALEDIN_ENQUEUE_RX (R50), a step of the device. An ENQUEUE packet is staged and handled as TASK traffic. -/
  | isaledinEnqueueRx (qp : Nat) (psn : Nat) (ce : Bool) (hdr : RemoteHdr) (pkt : (List Byte))
  /-- ISALEDIN_UNSUPPORTED_RX (R49), a step of the device. A packet using an unsupported feature is dropped and counted in UNSUPP. -/
  | isaledinUnsupportedRx (p : Nat)
  /-- ISALEDIN_RETRANSMIT_TIMEOUT (R49), a step of the device. A queue pair's timer expires and it retransmits go-back-N. -/
  | isaledinRetransmitTimeout (qp : Nat)
  /-- PFC_PAUSE_RX (R47), a step of the device. An 802.1Qbb pause frame is received and honoured. -/
  | pfcPauseRx (p : Nat) (prio : Nat) (on : Bool)
  /-- ETH_LINK_CHANGE (R51), a step of the device. An Ethernet port's link goes up or down. -/
  | ethLinkChange (p : Nat) (up : Bool)
  /-- VIEW_INSTALL (R53), a step of the device. A larger VIEW write installs a view, superseding slots and discarding stale traffic. -/
  | viewInstall (e : Nat) (view : Word)
  /-- JOURNAL_APPEND (R60), a step of the device. The buddy appends a slot result to the journal, or marks it overflowed. -/
  | journalAppend (e : Nat) (entry : (List Byte))
  /-- SNAPSHOT_COMPLETE (R59), a step of the device. The buddy activates the new snapshot, increments SNAP_SEQ and empties the journal. -/
  | snapshotComplete (e : Nat) (data : (Option (List Byte)))
  /-- QTAIL_WRITE (R68), a step of the device. A doorbell write sets the queue tail and starts consumption, or counts DB_BAD. -/
  | qtailWrite (ctx : Nat) (v : Posted Word)
  /-- MSIX_UNMASK (R77), a step of the device. A masked vector is unmasked and its held message is sent. -/
  | msixUnmask (v : Nat)
  /-- CONTEXT_ENABLE (R66), a step of the device. Setting EN enables a context and resets Q_HEAD and Q_STAT. -/
  | contextEnable (ctx : Nat)
  /-- CONTEXT_DISABLE (R66), a step of the device. Clearing EN aborts the context's launches. -/
  | contextDisable (ctx : Nat)
  /-- CONTEXT_FROZEN_CLEAR (R66), a step of the device. The driver writes 1 to FROZEN to clear it. -/
  | contextFrozenClear (ctx : Nat)
  /-- INBOUND_ATOMICOP (R197), a step of the device. A PCI Express AtomicOp through BAR 2 is answered Unsupported Request. -/
  | inboundAtomicop (req : Nat) (off : Nat)
  /-- OUTBOUND_COMPLETION (R79), a step of the device. A completion arrives for a peer-window read. -/
  | outboundCompletion (tag : Nat) (ok : Bool) (bytes : (List Byte))
  /-- TELEMETRY (R80), a step of the device. Returns power, temperatures, POWER_CAP and DEV_STATE. -/
  | telemetry
  /-- READ_BLOCK (R80), a step of the device. Returns 64 bytes of a BAR 0 status block. -/
  | readBlock (off : Nat)
  /-- FAULT_LOG (R80), a step of the device. Returns and removes the oldest fault record, releasing a frozen core. -/
  | faultLog
  /-- FREEZE (R81), a step of the device. Freezes the host interface or a context. -/
  | freeze (target : (Option Nat))
  /-- RELEASE (R81), a step of the device. Releases the host interface or a context, sending held notifications. -/
  | release (target : (Option Nat))
  /-- RESET (R80), a step of the device. Aborts every launch and restarts bring-up. -/
  | reset
  /-- LINK_SERVICE (R80), a step of the device. Sets the repair threshold or retrains or disables a hop or port. -/
  | linkService (cmd : LinkCmd)
  /-- FW_UPDATE (R82), a step of the device. Stages a firmware image piece or commits an authenticated image. -/
  | fwUpdate (cmd : FwCmd)
  /-- ATTEST (R82), a step of the device. Returns a signed attestation quote. -/
  | attest (nonce : (List Byte))
  /-- ATTEST_MAILBOX_START (R82), a step of the device. A write of 1 to 0x0FF8 produces a quote in the mailbox. -/
  | attestMailboxStart
  /-- POWER_ON (R83), a step of the device. Module power-up starts bring-up. -/
  | powerOn
  /-- BRING_UP_STAGE_DONE (R83), a step of the device. A bring-up stage ends and DEV_STATE advances, or is set to failed. -/
  | bringUpStageDone (ok : Bool)
  /-- INV_GO (R175), a step of the device. A write of GO starts invalidation of a page or context. -/
  | invGo
  /-- INV_DONE (R175), a step of the device. Every unit has dropped the entries and their accesses are performed; GO reads 0. -/
  | invDone
  /-- POOL_TAIL_WRITE (R177), a step of the device. The driver places pages in a free-page ring, releasing held allocations. -/
  | poolTailWrite (s : Nat) (big : Bool) (tail : Word)
  /-- COUNTER_CLEAR (R51), a step of the device. A write of 1s clears the selected saturating counter bits. -/
  | counterClear (off : Nat) (ones : DWord)
  /-- REGISTER_WRITE (R64), a step of the device. A write to a register without behaviour of its own; reserved bits ignored. -/
  | registerWrite (off : Nat) (v : Posted DWord)
  /-- HUB_SOFT_ERROR (R144), a step of the device. An uncorrectable soft error in hub state faults the launch. -/
  | hubSoftError (die : Nat) (l : Nat)
  /-- POWER_GATE (R154), a step of the device. After 4,096 idle cycles a core is power gated. -/
  | powerGate (cid : Nat)
  /-- PAD_SOFT_ERROR (R147), a step of the device. A soft error strikes a word of an L1, L2 or L3 pad, the weight buffer or the code buffer, leaving it correctable or poisoned. -/
  | padSoftError (pad : PadId) (off : Nat) (bits : Nat)
  /-- MEMORY_SYMBOL_ERROR (R31), a step of the device. Stored symbols of a device-memory sector go into error, which a later read or scrub corrects (ECC_CE) or reports as uncorrectable (ECC_UE). -/
  | memorySymbolError (pa : Nat) (symbols : Nat)
  /-- UNCORRECTABLE_FABRIC_ERROR (R144), a step of the device. An uncorrectable fabric error raises a DEVICE fault that ends every launch FAULTED. -/
  | uncorrectableFabricError (chiplet : Nat)
  /-- MODULE_POWER_LOSS (R80), a step of the device. Module power is removed, stopping the device and the side-band port. -/
  | modulePowerLoss
  /-- PCIE_LINK_TRAINING (R80), a step of the device. The PCI Express link trains, fails to train or goes down, which changes whether host requests can reach the function. -/
  | pcieLinkTraining (up : Bool)
  deriving DecidableEq, Repr

end Sys2Proof
end

