-- ==== Sys2Proof/WellFormed.lean ====
section
/-! DEFINITION. Which instructions are legal encodings: operand classes (R241), destinations (R242), limits of the opcode
tables (R247 to R266). What depends on the state of the core (ERET outside handler mode, landing slots) is judged by the
meanings. A device step is always well-formed. -/

namespace Sys2Proof

/-- Class s of R241. -/
def isS (x : BitVec 6) : Bool := x.toNat < 32 || (48 ≤ x.toNat && x.toNat ≤ 61)

/-- Class a of R241. -/
def isA (x : BitVec 6) : Bool := 32 ≤ x.toNat && x.toNat ≤ 61

/-- Class r of R241. -/
def isR (x : BitVec 6) : Bool := x.toNat ≤ 61

/-- Class v of R241. -/
def isV (x : BitVec 6) : Bool := x.toNat ≤ 61

/-- Classes k and q of R241. -/
def isK (x : BitVec 6) : Bool := x.toNat ≤ 7
def isQ (x : BitVec 6) : Bool := x.toNat ≤ 3

/-- An a register by codes 32 to 47. -/
def isAReg (x : BitVec 6) : Bool := 32 ≤ x.toNat && x.toNat ≤ 47

/-- An s register by codes 0 to 31. -/
def isSReg (x : BitVec 6) : Bool := x.toNat < 32

/-- A register of class r or v as a destination, codes 0 to 47. -/
def isReg (x : BitVec 6) : Bool := x.toNat ≤ 47

/-- A destination (R242): W = 1 requires D = 0, W = 0 a register of the class. -/
def destOk (w : BitVec 1) (d : BitVec 6) (ok : BitVec 6 → Bool) : Bool := if w = 1 then d == 0 else ok d

/-- Control registers that a program may write (R157, R285): TRAPPC is judged by the meaning. -/
def csrWritable (n : BitVec 6) : Bool :=
  [0, 5, 6, 7, 8, 11, 12, 13, 14, 16, 17, 18, 19, 20, 22].contains n.toNat

/-- TYPE codes of VCVT (R256). -/
def vcvtType (t : BitVec 5) : Bool :=
  t.toNat ≤ 2 || (4 ≤ t.toNat && t.toNat ≤ 6) || t.toNat == 9 || (0x11 ≤ t.toNat && t.toNat ≤ 0x17) || (0x19 ≤ t.toNat)

/-- binary8 type codes (R181). -/
def isB8 (t : BitVec 5) : Bool := (0x11 ≤ t.toNat && t.toNat ≤ 0x17) || 0x19 ≤ t.toNat

/-- SREAD's PROF field (R261). -/
def sreadProf (p : BitVec 8) : Bool := if p.getLsbD 7 then p.toNat / 16 % 8 ≤ 4 else p == 0

/-- An offset of LD, ST and STR (R262): with X = 1 bits 10:5 must be 0. -/
def offOk (x : BitVec 1) (i : BitVec 11) : Bool := x == 0 || i.toNat < 32

/-- Whether an instruction is legal in itself (R267). -/
def Instr.wf : Instr → Bool
  | .nop  | .tend  | .tyield  | .eret  | .wfe  | .sleep  | .sclr  | .objpub  => true
  | .tsusp a b => isA a && isS b
  | .ckpt a | .jind a | .ret a => isA a
  | .trap a => isS a
  | .csrd d w b => destOk w d isReg && b.toNat ≤ 23
  | .cswr a b | .csset a b | .csclr a b => isR a && csrWritable b
  | .sadd d w a b | .ssub d w a b | .smul d w a b | .smulh d w a b | .smulhu d w a b | .sdiv d w a b | .sdivu d w a b | .srem d w a b | .sremu d w a b | .sand d w a b | .sor d w a b | .sxor d w a b | .sshl d w a b | .sshr d w a b | .ssra d w a b | .smin d w a b | .smax d w a b | .sminu d w a b | .smaxu d w a b => destOk w d isSReg && isS a && isS b
  | .sclz d w a | .spopc d w a => destOk w d isSReg && isS a
  | .saddi d w a _ | .sandi d w a _ | .sori d w a _ | .sxori d w a _ | .sshli d w a _ | .sshri d w a _ | .ssrai d w a _ => destOk w d isSReg && isS a
  | .aaddi d w a _ => destOk w d isAReg && isA a
  | .sli d w _ | .slui d w _ => destOk w d isSReg
  | .aadd d w a b | .asub d w a b => destOk w d isAReg && isA a && isS b
  | .amov d w a => destOk w d isAReg && isA a
  | .aset d w a b => destOk w d isAReg && isS a && isS b
  | .aget d w a | .agetHi d w a => destOk w d isSReg && isA a
  | .brCc k p _ => k.toNat ≤ 9 && isR p
  | .jmp _ => true
  | .call d _ => isAReg d
  | .jtab a b => isA a && isS b
  | .rep _ _ _ _ _ => true
  | .scmpCc d w a b k => destOk w d isSReg && isS a && isS b && k.toNat ≤ 9
  | .scmpiCc d w a _ k => destOk w d isSReg && isS a && k.toNat ≤ 9
  | .ssel d w a b e => destOk w d isSReg && isS a && isS b && isS e
  | .vadd d w a b _ | .vsub d w a b _ | .vmul d w a b _ | .vmin d w a b _ | .vmax d w a b _ | .vfma d w a b _ | .vfms d w a b _ => destOk w d isReg && isV a && isV b
  | .vabs d w a _ | .vneg d w a _ => destOk w d isReg && isV a
  | .viadd d w a b _ t | .visub d w a b _ t | .vimul d w a b _ t => destOk w d isReg && isV a && isV b && t.toNat ≤ 2
  | .vimin d w a b t | .vimax d w a b t | .vshl d w a b t | .vshr d w a b t | .vsra d w a b t => destOk w d isReg && isV a && isV b && t.toNat ≤ 2
  | .vand d w a b | .vor d w a b | .vxor d w a b | .vhash d w a b | .vdot2 d w a b | .vperm d w a b => destOk w d isReg && isV a && isV b
  | .vcvt d w a r _ f t => destOk w d isReg && isV a && r.toNat ≤ 4 && vcvtType t && (f == 0 || isB8 t)
  | .vexp2 d w a | .vlog2 d w a | .vrcp d w a | .vrsq d w a | .vredAddF32 d w a | .vredMinF32 d w a | .vredMaxF32 d w a | .vredAddI32 d w a | .vredMinI32 d w a | .vredMaxI32 d w a => destOk w d isReg && isV a
  | .vdot4 d w a b _ _ p => destOk w d isReg && isV a && isV b && p != 0
  | .vbcast d w a => destOk w d isReg && isS a
  | .vlane d w a b => destOk w d isSReg && isV a && isS b
  | .xcopy d w a _ => destOk w d isReg && isV a
  | .vld d w a _ _ => destOk w d isReg && isAReg a
  | .vst d a _ _ => isV d && isAReg a
  | .vgath d w a b _ => destOk w d isReg && isAReg a && isV b
  | .vscat d a b _ => isV d && isAReg a && isV b
  | .vpushcCfg q a => isQ q && isV a
  | .vpushc q a k => isQ q && isReg a && k != 0
  | .vpopc d w q _ => destOk w d isReg && isQ q
  | .vqbal q => isQ q
  | .vqcnt d w q => destOk w d isSReg && isQ q
  | .vcmpCc d w a b t k => destOk w d isK && isV a && isV b && t.toNat ≤ 2 && k.toNat ≤ 9 && (t != 0 || k.toNat ≤ 5)
  | .vsel d w a b _ => destOk w d isReg && isV a && isV b
  | .kand d w a b | .kor d w a b => destOk w d isK && isK a && isK b
  | .knot d w a => destOk w d isK && isK a
  | .kcnt d w a => destOk w d isSReg && isK a
  | .slen m => 4 ≤ m.toNat && m.toNat ≤ 16
  | .sseed _ _ => true
  | .sprof p => p.toNat ≤ 0x0C
  | .smode _ | .ntclr _ | .tsucc _ | .wlnest _ => true
  | .ntset _ _ _ => true
  | .wbld _ _ | .wlatch _ _ => true
  | .sgo _ p => p.toNat ≤ 0x0C
  | .sconf v _ | .spart v _ => isReg v
  | .sstop _ j => 4 ≤ j.toNat && j.toNat ≤ 16
  | .sread p v _ => sreadProf p && isReg v
  | .sebnd v => isReg v
  | .ld _ d _ x i => isReg d && offOk x i
  | .st _ d _ x i | .str _ d _ x i => isR d && offOk x i
  | .ldl _ _ _ _ l => l != 0
  | .tmov _ _ _ _ _ | .tmovq _ _ _ _ _ => true
  | .tfill _ _ _ _ => true
  | .amoOp e o _ d _ l => e.toNat ≤ 4 && l != 0 && (o != 7 || d != 31)
  | .ldAcq e _ _ _ l => e.toNat ≤ 4 && l != 0
  | .stRel e _ _ _ => e.toNat ≤ 4
  | .fence e => e.toNat ≤ 5
  | .waittl _ a => isR a
  | .tlget _ d => isReg d
  | .tlbump t a => 6 ≤ t.toNat && isR a
  | .bari _ a => isS a
  | .bara _ | .barw _ => true
  | .racq _ _ d => isAReg d
  | .rrel _ _ => true
  | .rinfo _ d => isSReg d
  | .wlpush _ _ l => l != 0
  | .wlpushr _ _ _ => true
  | .wlfloor _ l => l != 0
  | .rput _ _ _ _ _ => true
  | .rred _ _ _ _ => true
  | .objld _ _ => true
  | .eqinit _ _ l | .eqfd _ _ l | .eqsz _ _ l | .eqcnt _ _ l | .eqrl _ _ l | .eqsnap _ _ l | .equndo _ _ l | .eqdrop _ _ l => l != 0
  | .equn d _ l => l != 0 && d != 31
  | .hopRepairResume .. | .taskPacketSend .. | .taskPacketReceive .. | .isaledinWriteRx .. | .isaledinReadRequestRx .. | .slotArm .. => true
  | .slotDisarm .. | .contributionStaged .. | .contributionAdd .. | .slotDeadline .. | .journalAppendAck .. | .snapGo .. => true
  | .launchRecordConsume .. | .recordRepoll .. | .launchFirstRead .. | .launchReport .. | .msixCoalesceExpiry .. | .inboundRead .. => true
  | .inboundWrite .. | .outboundTimeout .. | .gangStart .. | .taskDispatch .. | .regionCopyInDone .. | .tendCopyOut .. => true
  | .taskRetire .. | .taskPreload .. | .packetAccept .. | .nestWalkerSpawn .. | .continuationReady .. | .budgetExceeded .. => true
  | .terminationWave .. | .floorPropose .. | .proposeReceive .. | .proposeAckReceive .. | .commitReceive .. | .holdReceive .. => true
  | .pauseReceive .. | .pauseAckReceive .. | .resumeReceive .. | .bucketRefill .. | .reachUpdate .. | .stealRequest .. => true
  | .stealRequestReceive .. | .stealTransferReceive .. | .stealAckReceive .. | .stealRetry .. | .deviceStealRequest .. | .preemptRequest .. => true
  | .ckptlimExpiry .. | .saveComplete .. | .contextRestore .. | .shadowCopyDone .. | .coreWake .. | .landingDataReturn .. => true
  | .fetchComplete .. | .pageWalkDone .. | .allocHoldTimeout .. | .tileMoveComplete .. | .objldComplete .. | .objpubComplete .. => true
  | .vqbalComplete .. | .arrayOpStart .. | .nestPark .. | .arrayOpComplete .. | .eqFindHop .. | .eqLink .. => true
  | .eqSizeDelta .. | .eqHoldEnd .. | .eqOpComplete .. | .ackArrival .. | .rputArrival .. | .windowAccessArrival .. => true
  | .barrierArrival .. | .barrierPhaseDelivery .. | .ringUpdate .. | .flitReplay .. | .retryWindowEnd .. | .hopRepair .. => true
  | .sectorRead .. | .sectorWrite .. | .patrolScrub .. | .refreshManagement .. | .refreshManagementDone .. | .refreshWindowEnd .. => true
  | .powerCapWindow .. | .thermalThrottle .. | .thermalShutdown .. | .xogusFlitReplay .. | .portRetrain .. | .taskCreditReturn .. => true
  | .isaledinReadResponseRx .. | .isaledinAckRx .. | .isaledinReduceRx .. | .isaledinEnqueueRx .. | .isaledinUnsupportedRx .. | .isaledinRetransmitTimeout .. => true
  | .pfcPauseRx .. | .ethLinkChange .. | .viewInstall .. | .journalAppend .. | .snapshotComplete .. | .qtailWrite .. => true
  | .msixUnmask .. | .contextEnable .. | .contextDisable .. | .contextFrozenClear .. | .inboundAtomicop .. | .outboundCompletion .. => true
  | .telemetry .. | .readBlock .. | .faultLog .. | .freeze .. | .release .. | .reset .. => true
  | .linkService .. | .fwUpdate .. | .attest .. | .attestMailboxStart .. | .powerOn .. | .bringUpStageDone .. => true
  | .invGo .. | .invDone .. | .poolTailWrite .. | .counterClear .. | .registerWrite .. | .hubSoftError .. => true
  | .powerGate .. | .padSoftError .. | .memorySymbolError .. | .uncorrectableFabricError .. | .modulePowerLoss .. | .pcieLinkTraining .. => true

end Sys2Proof
end

