-- ==== Sys2Proof/Decode.lean ====
section
/-! DEFINITION. Decoding of instruction words (R236, R239, R246 to R267), total on any bytes, and the encoder. A word is read
as a number; bit 31 is the chain bit CH, which is kept beside the instruction (R237). -/

namespace Sys2Proof

open Machine

/-- Why a word is no instruction (R267). -/
inductive Reject where
  /-- Fewer than four bytes are left. -/
  | short
  /-- Major 0x0A, 0x0B or 0x15. -/
  | major
  /-- An operation that no row assigns, or a bit that a row requires to be 0. -/
  | operation
  /-- A code outside its field's class, or a value outside a limit. -/
  | operand
  deriving DecidableEq, Repr

/-- Bits lo to lo + n - 1 of a word, as a number. -/
def seg (w lo n : Nat) : Nat := w / 2 ^ lo % 2 ^ n

/-- Bits lo to lo + n - 1 of a word, as an operand field. -/
def fld (w lo n : Nat) : BitVec n := BitVec.ofNat n (seg w lo n)

/-- Major 0x00: SYS (R247). -/
def decode00 (w : Nat) : Except Reject Instr :=
  if seg w 0 7 = 0 ∧ seg w 20 6 = 0 ∧ seg w 19 1 = 0 ∧ seg w 13 6 = 0 ∧ seg w 7 6 = 0 then .ok (.nop)
  else if seg w 0 7 = 1 ∧ seg w 20 6 = 0 ∧ seg w 19 1 = 0 ∧ seg w 13 6 = 0 ∧ seg w 7 6 = 0 then .ok (.tend)
  else if seg w 0 7 = 2 ∧ seg w 20 6 = 0 ∧ seg w 19 1 = 0 then .ok (.tsusp (fld w 13 6) (fld w 7 6))
  else if seg w 0 7 = 3 ∧ seg w 20 6 = 0 ∧ seg w 19 1 = 0 ∧ seg w 13 6 = 0 ∧ seg w 7 6 = 0 then .ok (.tyield)
  else if seg w 0 7 = 4 ∧ seg w 20 6 = 0 ∧ seg w 19 1 = 0 ∧ seg w 7 6 = 0 then .ok (.ckpt (fld w 13 6))
  else if seg w 0 7 = 5 ∧ seg w 20 6 = 0 ∧ seg w 19 1 = 0 ∧ seg w 7 6 = 0 then .ok (.trap (fld w 13 6))
  else if seg w 0 7 = 6 ∧ seg w 20 6 = 0 ∧ seg w 19 1 = 0 ∧ seg w 13 6 = 0 ∧ seg w 7 6 = 0 then .ok (.eret)
  else if seg w 0 7 = 8 ∧ seg w 13 6 = 0 then .ok (.csrd (fld w 20 6) (fld w 19 1) (fld w 7 6))
  else if seg w 0 7 = 9 ∧ seg w 20 6 = 0 ∧ seg w 19 1 = 0 then .ok (.cswr (fld w 13 6) (fld w 7 6))
  else if seg w 0 7 = 0xA ∧ seg w 20 6 = 0 ∧ seg w 19 1 = 0 then .ok (.csset (fld w 13 6) (fld w 7 6))
  else if seg w 0 7 = 0xB ∧ seg w 20 6 = 0 ∧ seg w 19 1 = 0 then .ok (.csclr (fld w 13 6) (fld w 7 6))
  else if seg w 0 7 = 0xC ∧ seg w 20 6 = 0 ∧ seg w 19 1 = 0 ∧ seg w 13 6 = 0 ∧ seg w 7 6 = 0 then .ok (.wfe)
  else if seg w 0 7 = 0xD ∧ seg w 20 6 = 0 ∧ seg w 19 1 = 0 ∧ seg w 13 6 = 0 ∧ seg w 7 6 = 0 then .ok (.sleep)
  else .error .operation

/-- Major 0x01: SALU (R248). -/
def decode01 (w : Nat) : Except Reject Instr :=
  if seg w 0 7 = 0 then .ok (.sadd (fld w 20 6) (fld w 19 1) (fld w 13 6) (fld w 7 6))
  else if seg w 0 7 = 1 then .ok (.ssub (fld w 20 6) (fld w 19 1) (fld w 13 6) (fld w 7 6))
  else if seg w 0 7 = 2 then .ok (.smul (fld w 20 6) (fld w 19 1) (fld w 13 6) (fld w 7 6))
  else if seg w 0 7 = 3 then .ok (.smulh (fld w 20 6) (fld w 19 1) (fld w 13 6) (fld w 7 6))
  else if seg w 0 7 = 4 then .ok (.smulhu (fld w 20 6) (fld w 19 1) (fld w 13 6) (fld w 7 6))
  else if seg w 0 7 = 5 then .ok (.sdiv (fld w 20 6) (fld w 19 1) (fld w 13 6) (fld w 7 6))
  else if seg w 0 7 = 6 then .ok (.sdivu (fld w 20 6) (fld w 19 1) (fld w 13 6) (fld w 7 6))
  else if seg w 0 7 = 7 then .ok (.srem (fld w 20 6) (fld w 19 1) (fld w 13 6) (fld w 7 6))
  else if seg w 0 7 = 8 then .ok (.sremu (fld w 20 6) (fld w 19 1) (fld w 13 6) (fld w 7 6))
  else if seg w 0 7 = 9 then .ok (.sand (fld w 20 6) (fld w 19 1) (fld w 13 6) (fld w 7 6))
  else if seg w 0 7 = 0xA then .ok (.sor (fld w 20 6) (fld w 19 1) (fld w 13 6) (fld w 7 6))
  else if seg w 0 7 = 0xB then .ok (.sxor (fld w 20 6) (fld w 19 1) (fld w 13 6) (fld w 7 6))
  else if seg w 0 7 = 0xC then .ok (.sshl (fld w 20 6) (fld w 19 1) (fld w 13 6) (fld w 7 6))
  else if seg w 0 7 = 0xD then .ok (.sshr (fld w 20 6) (fld w 19 1) (fld w 13 6) (fld w 7 6))
  else if seg w 0 7 = 0xE then .ok (.ssra (fld w 20 6) (fld w 19 1) (fld w 13 6) (fld w 7 6))
  else if seg w 0 7 = 0xF then .ok (.smin (fld w 20 6) (fld w 19 1) (fld w 13 6) (fld w 7 6))
  else if seg w 0 7 = 0x10 then .ok (.smax (fld w 20 6) (fld w 19 1) (fld w 13 6) (fld w 7 6))
  else if seg w 0 7 = 0x11 then .ok (.sminu (fld w 20 6) (fld w 19 1) (fld w 13 6) (fld w 7 6))
  else if seg w 0 7 = 0x12 then .ok (.smaxu (fld w 20 6) (fld w 19 1) (fld w 13 6) (fld w 7 6))
  else if seg w 0 7 = 0x13 ∧ seg w 7 6 = 0 then .ok (.sclz (fld w 20 6) (fld w 19 1) (fld w 13 6))
  else if seg w 0 7 = 0x14 ∧ seg w 7 6 = 0 then .ok (.spopc (fld w 20 6) (fld w 19 1) (fld w 13 6))
  else .error .operation

/-- Major 0x02: SALUI and AADDI (R249). -/
def decode02 (w : Nat) : Except Reject Instr :=
  if seg w 10 3 = 0 then .ok (.saddi (fld w 20 6) (fld w 19 1) (fld w 13 6) (fld w 0 10))
  else if seg w 10 3 = 1 then .ok (.sandi (fld w 20 6) (fld w 19 1) (fld w 13 6) (fld w 0 10))
  else if seg w 10 3 = 2 then .ok (.sori (fld w 20 6) (fld w 19 1) (fld w 13 6) (fld w 0 10))
  else if seg w 10 3 = 3 then .ok (.sxori (fld w 20 6) (fld w 19 1) (fld w 13 6) (fld w 0 10))
  else if seg w 10 3 = 4 ∧ seg w 7 3 = 0 ∧ seg w 5 2 = 0 then .ok (.sshli (fld w 20 6) (fld w 19 1) (fld w 13 6) (fld w 0 5))
  else if seg w 10 3 = 5 ∧ seg w 7 3 = 0 ∧ seg w 5 2 = 0 then .ok (.sshri (fld w 20 6) (fld w 19 1) (fld w 13 6) (fld w 0 5))
  else if seg w 10 3 = 6 ∧ seg w 7 3 = 0 ∧ seg w 5 2 = 0 then .ok (.ssrai (fld w 20 6) (fld w 19 1) (fld w 13 6) (fld w 0 5))
  else if seg w 10 3 = 7 then .ok (.aaddi (fld w 20 6) (fld w 19 1) (fld w 13 6) (fld w 0 10))
  else .error .operation

/-- Major 0x03: SLI and SLUI (R250). -/
def decode03 (w : Nat) : Except Reject Instr :=
  if seg w 18 1 = 0 then .ok (.sli (fld w 20 6) (fld w 19 1) (fld w 0 18))
  else if seg w 18 1 = 1 then .ok (.slui (fld w 20 6) (fld w 19 1) (fld w 0 18))
  else .error .operation

/-- Major 0x04: AALU (R251). -/
def decode04 (w : Nat) : Except Reject Instr :=
  if seg w 0 7 = 0 then .ok (.aadd (fld w 20 6) (fld w 19 1) (fld w 13 6) (fld w 7 6))
  else if seg w 0 7 = 1 then .ok (.asub (fld w 20 6) (fld w 19 1) (fld w 13 6) (fld w 7 6))
  else if seg w 0 7 = 2 ∧ seg w 7 6 = 0 then .ok (.amov (fld w 20 6) (fld w 19 1) (fld w 13 6))
  else if seg w 0 7 = 3 then .ok (.aset (fld w 20 6) (fld w 19 1) (fld w 13 6) (fld w 7 6))
  else if seg w 0 7 = 4 ∧ seg w 7 6 = 0 then .ok (.aget (fld w 20 6) (fld w 19 1) (fld w 13 6))
  else if seg w 0 7 = 5 ∧ seg w 7 6 = 0 then .ok (.agetHi (fld w 20 6) (fld w 19 1) (fld w 13 6))
  else .error .operation

/-- Major 0x05: BR.cc (R252). -/
def decode05 (w : Nat) : Except Reject Instr :=
  .ok (.brCc (fld w 22 4) (fld w 16 6) (fld w 0 16))

/-- Major 0x06: JMP and CALL (R252). -/
def decode06 (w : Nat) : Except Reject Instr :=
  if seg w 19 1 = 1 ∧ seg w 20 6 = 0 then .ok (.jmp (fld w 0 19))
  else if seg w 19 1 = 0 then .ok (.call (fld w 20 6) (fld w 0 19))
  else .error .operation

/-- Major 0x07: JIND, JTAB and RET (R252). -/
def decode07 (w : Nat) : Except Reject Instr :=
  if seg w 0 7 = 0 ∧ seg w 20 6 = 0 ∧ seg w 19 1 = 0 ∧ seg w 7 6 = 0 then .ok (.jind (fld w 13 6))
  else if seg w 0 7 = 1 ∧ seg w 20 6 = 0 ∧ seg w 19 1 = 0 then .ok (.jtab (fld w 13 6) (fld w 7 6))
  else if seg w 0 7 = 2 ∧ seg w 20 6 = 0 ∧ seg w 19 1 = 0 ∧ seg w 7 6 = 0 then .ok (.ret (fld w 13 6))
  else .error .operation

/-- Major 0x08: REP (R244). -/
def decode08 (w : Nat) : Except Reject Instr :=
  if seg w 13 3 = 0 ∧ seg w 7 6 = 0 ∧ seg w 0 7 = 0 then .ok (.rep (fld w 20 6) (fld w 19 1) (fld w 18 1) (fld w 17 1) (fld w 16 1))
  else .error .operation

/-- Major 0x09: SCMP, SCMPI and SSEL (R253). -/
def decode09 (w : Nat) : Except Reject Instr :=
  if seg w 0 1 = 0 ∧ seg w 6 1 = 0 ∧ seg w 5 1 = 0 then .ok (.scmpCc (fld w 20 6) (fld w 19 1) (fld w 13 6) (fld w 7 6) (fld w 1 4))
  else if seg w 0 1 = 0 ∧ seg w 6 1 = 1 ∧ seg w 5 1 = 0 then .ok (.scmpiCc (fld w 20 6) (fld w 19 1) (fld w 13 6) (fld w 7 6) (fld w 1 4))
  else if seg w 0 1 = 1 then .ok (.ssel (fld w 20 6) (fld w 19 1) (fld w 13 6) (fld w 7 6) (fld w 1 6))
  else .error .operation

/-- Major 0x0C: VALU float (R254). -/
def decode0C (w : Nat) : Except Reject Instr :=
  if seg w 0 3 = 0 ∧ seg w 4 3 = 0 then .ok (.vadd (fld w 20 6) (fld w 19 1) (fld w 13 6) (fld w 7 6) (fld w 3 1))
  else if seg w 0 3 = 1 ∧ seg w 4 3 = 0 then .ok (.vsub (fld w 20 6) (fld w 19 1) (fld w 13 6) (fld w 7 6) (fld w 3 1))
  else if seg w 0 3 = 2 ∧ seg w 4 3 = 0 then .ok (.vmul (fld w 20 6) (fld w 19 1) (fld w 13 6) (fld w 7 6) (fld w 3 1))
  else if seg w 0 3 = 3 ∧ seg w 4 3 = 0 then .ok (.vmin (fld w 20 6) (fld w 19 1) (fld w 13 6) (fld w 7 6) (fld w 3 1))
  else if seg w 0 3 = 4 ∧ seg w 4 3 = 0 then .ok (.vmax (fld w 20 6) (fld w 19 1) (fld w 13 6) (fld w 7 6) (fld w 3 1))
  else if seg w 0 3 = 5 ∧ seg w 4 3 = 0 ∧ seg w 7 6 = 0 then .ok (.vabs (fld w 20 6) (fld w 19 1) (fld w 13 6) (fld w 3 1))
  else if seg w 0 3 = 6 ∧ seg w 4 3 = 0 ∧ seg w 7 6 = 0 then .ok (.vneg (fld w 20 6) (fld w 19 1) (fld w 13 6) (fld w 3 1))
  else .error .operation

/-- Major 0x0D: VALU integer (R254). -/
def decode0D (w : Nat) : Except Reject Instr :=
  if seg w 0 4 = 0 then .ok (.viadd (fld w 20 6) (fld w 19 1) (fld w 13 6) (fld w 7 6) (fld w 6 1) (fld w 4 2))
  else if seg w 0 4 = 1 then .ok (.visub (fld w 20 6) (fld w 19 1) (fld w 13 6) (fld w 7 6) (fld w 6 1) (fld w 4 2))
  else if seg w 0 4 = 2 then .ok (.vimul (fld w 20 6) (fld w 19 1) (fld w 13 6) (fld w 7 6) (fld w 6 1) (fld w 4 2))
  else if seg w 0 4 = 3 ∧ seg w 6 1 = 0 then .ok (.vimin (fld w 20 6) (fld w 19 1) (fld w 13 6) (fld w 7 6) (fld w 4 2))
  else if seg w 0 4 = 4 ∧ seg w 6 1 = 0 then .ok (.vimax (fld w 20 6) (fld w 19 1) (fld w 13 6) (fld w 7 6) (fld w 4 2))
  else if seg w 0 4 = 5 ∧ seg w 6 1 = 0 ∧ seg w 4 2 = 0 then .ok (.vand (fld w 20 6) (fld w 19 1) (fld w 13 6) (fld w 7 6))
  else if seg w 0 4 = 6 ∧ seg w 6 1 = 0 ∧ seg w 4 2 = 0 then .ok (.vor (fld w 20 6) (fld w 19 1) (fld w 13 6) (fld w 7 6))
  else if seg w 0 4 = 7 ∧ seg w 6 1 = 0 ∧ seg w 4 2 = 0 then .ok (.vxor (fld w 20 6) (fld w 19 1) (fld w 13 6) (fld w 7 6))
  else if seg w 0 4 = 8 ∧ seg w 6 1 = 0 then .ok (.vshl (fld w 20 6) (fld w 19 1) (fld w 13 6) (fld w 7 6) (fld w 4 2))
  else if seg w 0 4 = 9 ∧ seg w 6 1 = 0 then .ok (.vshr (fld w 20 6) (fld w 19 1) (fld w 13 6) (fld w 7 6) (fld w 4 2))
  else if seg w 0 4 = 0xA ∧ seg w 6 1 = 0 then .ok (.vsra (fld w 20 6) (fld w 19 1) (fld w 13 6) (fld w 7 6) (fld w 4 2))
  else .error .operation

/-- Major 0x0E: VFMA family (R255). -/
def decode0E (w : Nat) : Except Reject Instr :=
  if seg w 0 3 = 0 ∧ seg w 4 3 = 0 then .ok (.vfma (fld w 20 6) (fld w 19 1) (fld w 13 6) (fld w 7 6) (fld w 3 1))
  else if seg w 0 3 = 1 ∧ seg w 4 3 = 0 then .ok (.vfms (fld w 20 6) (fld w 19 1) (fld w 13 6) (fld w 7 6) (fld w 3 1))
  else .error .operation

/-- Major 0x0F: VCVT (R256). -/
def decode0F (w : Nat) : Except Reject Instr :=
  if seg w 0 3 = 0 then .ok (.vcvt (fld w 20 6) (fld w 19 1) (fld w 13 6) (fld w 10 3) (fld w 9 1) (fld w 8 1) (fld w 3 5))
  else .error .operation

/-- Major 0x10: special functions and VHASH (R257). -/
def decode10 (w : Nat) : Except Reject Instr :=
  if seg w 0 7 = 0 ∧ seg w 7 6 = 0 then .ok (.vexp2 (fld w 20 6) (fld w 19 1) (fld w 13 6))
  else if seg w 0 7 = 1 ∧ seg w 7 6 = 0 then .ok (.vlog2 (fld w 20 6) (fld w 19 1) (fld w 13 6))
  else if seg w 0 7 = 2 ∧ seg w 7 6 = 0 then .ok (.vrcp (fld w 20 6) (fld w 19 1) (fld w 13 6))
  else if seg w 0 7 = 3 ∧ seg w 7 6 = 0 then .ok (.vrsq (fld w 20 6) (fld w 19 1) (fld w 13 6))
  else if seg w 0 7 = 4 then .ok (.vhash (fld w 20 6) (fld w 19 1) (fld w 13 6) (fld w 7 6))
  else .error .operation

/-- Major 0x11: VDOT (R255). -/
def decode11 (w : Nat) : Except Reject Instr :=
  if seg w 0 2 = 0 then .ok (.vdot4 (fld w 20 6) (fld w 19 1) (fld w 13 6) (fld w 7 6) (fld w 6 1) (fld w 5 1) (fld w 2 3))
  else if seg w 0 2 = 1 ∧ seg w 2 5 = 0 then .ok (.vdot2 (fld w 20 6) (fld w 19 1) (fld w 13 6) (fld w 7 6))
  else .error .operation

/-- Major 0x12: permutes, XCOPY and reductions (R258). -/
def decode12 (w : Nat) : Except Reject Instr :=
  if seg w 0 7 = 0 ∧ seg w 7 6 = 0 then .ok (.vbcast (fld w 20 6) (fld w 19 1) (fld w 13 6))
  else if seg w 0 7 = 1 then .ok (.vlane (fld w 20 6) (fld w 19 1) (fld w 13 6) (fld w 7 6))
  else if seg w 0 7 = 2 then .ok (.vperm (fld w 20 6) (fld w 19 1) (fld w 13 6) (fld w 7 6))
  else if seg w 0 7 = 3 ∧ seg w 10 3 = 0 then .ok (.xcopy (fld w 20 6) (fld w 19 1) (fld w 13 6) (fld w 7 3))
  else if seg w 0 7 = 8 ∧ seg w 7 6 = 0 then .ok (.vredAddF32 (fld w 20 6) (fld w 19 1) (fld w 13 6))
  else if seg w 0 7 = 9 ∧ seg w 7 6 = 0 then .ok (.vredMinF32 (fld w 20 6) (fld w 19 1) (fld w 13 6))
  else if seg w 0 7 = 0xA ∧ seg w 7 6 = 0 then .ok (.vredMaxF32 (fld w 20 6) (fld w 19 1) (fld w 13 6))
  else if seg w 0 7 = 0xB ∧ seg w 7 6 = 0 then .ok (.vredAddI32 (fld w 20 6) (fld w 19 1) (fld w 13 6))
  else if seg w 0 7 = 0xC ∧ seg w 7 6 = 0 then .ok (.vredMinI32 (fld w 20 6) (fld w 19 1) (fld w 13 6))
  else if seg w 0 7 = 0xD ∧ seg w 7 6 = 0 then .ok (.vredMaxI32 (fld w 20 6) (fld w 19 1) (fld w 13 6))
  else .error .operation

/-- Major 0x13: compaction queues and vector L1 access (R259). -/
def decode13 (w : Nat) : Except Reject Instr :=
  if seg w 0 4 = 0 then .ok (.vld (fld w 20 6) (fld w 19 1) (fld w 13 6) (fld w 7 6) (fld w 4 3))
  else if seg w 0 4 = 1 ∧ seg w 19 1 = 0 then .ok (.vst (fld w 20 6) (fld w 13 6) (fld w 7 6) (fld w 4 3))
  else if seg w 0 4 = 2 then .ok (.vgath (fld w 20 6) (fld w 19 1) (fld w 13 6) (fld w 7 6) (fld w 4 3))
  else if seg w 0 4 = 3 ∧ seg w 19 1 = 0 then .ok (.vscat (fld w 20 6) (fld w 13 6) (fld w 7 6) (fld w 4 3))
  else if seg w 0 4 = 4 ∧ seg w 4 3 = 0 ∧ seg w 19 1 = 0 ∧ seg w 7 6 = 0 then .ok (.vpushcCfg (fld w 20 6) (fld w 13 6))
  else if seg w 0 4 = 4 ∧ seg w 19 1 = 0 ∧ seg w 7 6 = 0 then .ok (.vpushc (fld w 20 6) (fld w 13 6) (fld w 4 3))
  else if seg w 0 4 = 5 ∧ seg w 13 6 = 0 then .ok (.vpopc (fld w 20 6) (fld w 19 1) (fld w 7 6) (fld w 4 3))
  else if seg w 0 4 = 6 ∧ seg w 4 3 = 0 ∧ seg w 19 1 = 0 ∧ seg w 13 6 = 0 ∧ seg w 7 6 = 0 then .ok (.vqbal (fld w 20 6))
  else if seg w 0 4 = 7 ∧ seg w 4 3 = 0 ∧ seg w 13 6 = 0 then .ok (.vqcnt (fld w 20 6) (fld w 19 1) (fld w 7 6))
  else .error .operation

/-- Major 0x14: compares, selects and masks (R260). -/
def decode14 (w : Nat) : Except Reject Instr :=
  if seg w 6 1 = 0 then .ok (.vcmpCc (fld w 20 6) (fld w 19 1) (fld w 13 6) (fld w 7 6) (fld w 4 2) (fld w 0 4))
  else if seg w 6 1 = 1 ∧ seg w 0 3 = 0 then .ok (.vsel (fld w 20 6) (fld w 19 1) (fld w 13 6) (fld w 7 6) (fld w 3 3))
  else if seg w 6 1 = 1 ∧ seg w 0 3 = 1 ∧ seg w 3 3 = 0 then .ok (.kand (fld w 20 6) (fld w 19 1) (fld w 13 6) (fld w 7 6))
  else if seg w 6 1 = 1 ∧ seg w 0 3 = 2 ∧ seg w 3 3 = 0 then .ok (.kor (fld w 20 6) (fld w 19 1) (fld w 13 6) (fld w 7 6))
  else if seg w 6 1 = 1 ∧ seg w 0 3 = 3 ∧ seg w 3 3 = 0 ∧ seg w 7 6 = 0 then .ok (.knot (fld w 20 6) (fld w 19 1) (fld w 13 6))
  else if seg w 6 1 = 1 ∧ seg w 0 3 = 4 ∧ seg w 3 3 = 0 ∧ seg w 7 6 = 0 then .ok (.kcnt (fld w 20 6) (fld w 19 1) (fld w 13 6))
  else .error .operation

/-- Major 0x16: stream configuration (R261). -/
def decode16 (w : Nat) : Except Reject Instr :=
  if seg w 22 4 = 0 ∧ seg w 5 17 = 0 then .ok (.slen (fld w 0 5))
  else if seg w 22 4 = 1 ∧ seg w 11 11 = 0 ∧ seg w 5 5 = 0 then .ok (.sseed (fld w 10 1) (fld w 0 5))
  else if seg w 22 4 = 2 ∧ seg w 19 3 = 0 ∧ seg w 0 11 = 0 then .ok (.sprof (fld w 11 8))
  else if seg w 22 4 = 3 ∧ seg w 5 17 = 0 then .ok (.smode (fld w 0 5))
  else .error .operation

/-- Major 0x17: nest tables (R261). -/
def decode17 (w : Nat) : Except Reject Instr :=
  if seg w 22 4 = 0 ∧ seg w 10 9 = 0 then .ok (.ntset (fld w 19 3) (fld w 5 5) (fld w 0 5))
  else if seg w 22 4 = 1 ∧ seg w 0 19 = 0 then .ok (.ntclr (fld w 19 3))
  else .error .operation

/-- Major 0x18: weight buffer and latches (R261). -/
def decode18 (w : Nat) : Except Reject Instr :=
  if seg w 22 4 = 0 ∧ seg w 11 11 = 0 ∧ seg w 5 2 = 0 then .ok (.wbld (fld w 7 4) (fld w 0 5))
  else if seg w 22 4 = 1 ∧ seg w 11 11 = 0 ∧ seg w 5 4 = 0 then .ok (.wlatch (fld w 9 2) (fld w 0 5))
  else .error .operation

/-- Major 0x19: SGO, SCONF, SSTOP and SPART (R261). -/
def decode19 (w : Nat) : Except Reject Instr :=
  if seg w 22 4 = 0 ∧ seg w 0 11 = 0 then .ok (.sgo (fld w 19 3) (fld w 11 8))
  else if seg w 22 4 = 1 ∧ seg w 11 11 = 0 then .ok (.sconf (fld w 5 6) (fld w 0 5))
  else if seg w 22 4 = 2 ∧ seg w 5 14 = 0 then .ok (.sstop (fld w 19 3) (fld w 0 5))
  else if seg w 22 4 = 3 ∧ seg w 11 11 = 0 then .ok (.spart (fld w 5 6) (fld w 0 5))
  else .error .operation

/-- Major 0x1A: SREAD, SCLR and SEBND (R261). -/
def decode1A (w : Nat) : Except Reject Instr :=
  if seg w 22 4 = 0 ∧ seg w 19 3 = 0 then .ok (.sread (fld w 11 8) (fld w 5 6) (fld w 0 5))
  else if seg w 22 4 = 1 ∧ seg w 0 22 = 0 then .ok (.sclr)
  else if seg w 22 4 = 2 ∧ seg w 11 11 = 0 ∧ seg w 0 5 = 0 then .ok (.sebnd (fld w 5 6))
  else .error .operation

/-- Major 0x1B: loads and stores (R262). -/
def decode1B (w : Nat) : Except Reject Instr :=
  if seg w 24 2 = 0 then .ok (.ld (fld w 22 2) (fld w 16 6) (fld w 12 4) (fld w 11 1) (fld w 0 11))
  else if seg w 24 2 = 1 then .ok (.st (fld w 22 2) (fld w 16 6) (fld w 12 4) (fld w 11 1) (fld w 0 11))
  else if seg w 24 2 = 2 then .ok (.ldl (fld w 22 2) (fld w 17 5) (fld w 14 3) (fld w 10 4) (fld w 0 10))
  else if seg w 24 2 = 3 then .ok (.str (fld w 22 2) (fld w 16 6) (fld w 12 4) (fld w 11 1) (fld w 0 11))
  else .error .operation

/-- Major 0x1C: tile moves (R263). -/
def decode1C (w : Nat) : Except Reject Instr :=
  if seg w 24 2 = 0 ∧ seg w 0 7 = 0 then .ok (.tmov (fld w 23 1) (fld w 22 1) (fld w 16 6) (fld w 12 4) (fld w 7 5))
  else if seg w 24 2 = 1 ∧ seg w 0 7 = 0 then .ok (.tmovq (fld w 23 1) (fld w 22 1) (fld w 16 6) (fld w 12 4) (fld w 7 5))
  else if seg w 24 2 = 2 ∧ seg w 22 1 = 0 ∧ seg w 0 7 = 0 then .ok (.tfill (fld w 23 1) (fld w 16 6) (fld w 12 4) (fld w 7 5))
  else .error .operation

/-- Major 0x1D: synchronisation and atomics (R264). -/
def decode1D (w : Nat) : Except Reject Instr :=
  if seg w 23 3 = 5 then .ok (.ldAcq (fld w 20 3) (fld w 18 2) (fld w 13 5) (fld w 10 3) (fld w 0 10))
  else if seg w 23 3 = 6 ∧ seg w 20 3 = 0 ∧ seg w 0 7 = 0 then .ok (.stRel (fld w 17 3) (fld w 15 2) (fld w 10 5) (fld w 7 3))
  else if seg w 23 3 = 6 ∧ seg w 20 3 = 1 ∧ seg w 0 17 = 0 then .ok (.fence (fld w 17 3))
  else if seg w 23 3 = 6 ∧ seg w 20 3 = 2 ∧ seg w 0 11 = 0 then .ok (.waittl (fld w 17 3) (fld w 11 6))
  else if seg w 23 3 = 6 ∧ seg w 20 3 = 3 ∧ seg w 0 11 = 0 then .ok (.tlget (fld w 17 3) (fld w 11 6))
  else if seg w 23 3 = 6 ∧ seg w 20 3 = 4 ∧ seg w 0 11 = 0 then .ok (.tlbump (fld w 17 3) (fld w 11 6))
  else if seg w 23 3 = 7 ∧ seg w 20 3 = 0 ∧ seg w 0 7 = 0 then .ok (.bari (fld w 13 7) (fld w 7 6))
  else if seg w 23 3 = 7 ∧ seg w 20 3 = 1 ∧ seg w 0 13 = 0 then .ok (.bara (fld w 13 7))
  else if seg w 23 3 = 7 ∧ seg w 20 3 = 2 ∧ seg w 0 13 = 0 then .ok (.barw (fld w 13 7))
  else if seg w 23 3 = 7 ∧ seg w 20 3 = 3 ∧ seg w 0 7 = 0 then .ok (.racq (fld w 14 6) (fld w 13 1) (fld w 7 6))
  else if seg w 23 3 = 7 ∧ seg w 20 3 = 4 ∧ seg w 0 13 = 0 then .ok (.rrel (fld w 14 6) (fld w 13 1))
  else if seg w 23 3 = 7 ∧ seg w 20 3 = 5 ∧ seg w 13 1 = 0 ∧ seg w 0 7 = 0 then .ok (.rinfo (fld w 14 6) (fld w 7 6))
  else .ok (.amoOp (fld w 23 3) (fld w 20 3) (fld w 18 2) (fld w 13 5) (fld w 10 3) (fld w 0 10))

/-- Major 0x1E: tasks, remote operations and objects (R265). -/
def decode1E (w : Nat) : Except Reject Instr :=
  if seg w 23 3 = 0 ∧ seg w 10 4 = 0 then .ok (.wlpush (fld w 18 5) (fld w 14 4) (fld w 0 10))
  else if seg w 23 3 = 1 ∧ seg w 0 13 = 0 then .ok (.wlpushr (fld w 22 1) (fld w 18 4) (fld w 13 5))
  else if seg w 23 3 = 2 ∧ seg w 10 8 = 0 then .ok (.wlfloor (fld w 18 5) (fld w 0 10))
  else if seg w 23 3 = 3 ∧ seg w 22 1 = 0 ∧ seg w 0 18 = 0 then .ok (.wlnest (fld w 18 4))
  else if seg w 23 3 = 4 ∧ seg w 22 1 = 0 ∧ seg w 18 4 = 0 ∧ seg w 0 13 = 0 then .ok (.tsucc (fld w 13 5))
  else if seg w 23 3 = 5 ∧ seg w 0 4 = 0 then .ok (.rput (fld w 22 1) (fld w 18 4) (fld w 14 4) (fld w 9 5) (fld w 4 5))
  else if seg w 23 3 = 6 ∧ seg w 14 4 = 0 ∧ seg w 0 4 = 0 then .ok (.rred (fld w 22 1) (fld w 18 4) (fld w 9 5) (fld w 4 5))
  else if seg w 23 3 = 7 ∧ seg w 22 1 = 0 ∧ seg w 0 11 = 0 then .ok (.objld (fld w 16 6) (fld w 11 5))
  else if seg w 23 3 = 7 ∧ seg w 22 1 = 1 ∧ seg w 0 22 = 0 then .ok (.objpub)
  else .error .operation

/-- Major 0x1F: equivalence engine (R266). -/
def decode1F (w : Nat) : Except Reject Instr :=
  if seg w 22 4 = 0 ∧ seg w 10 3 = 0 then .ok (.eqinit (fld w 17 5) (fld w 13 4) (fld w 0 10))
  else if seg w 22 4 = 1 ∧ seg w 10 3 = 0 then .ok (.equn (fld w 17 5) (fld w 13 4) (fld w 0 10))
  else if seg w 22 4 = 2 ∧ seg w 10 3 = 0 then .ok (.eqfd (fld w 17 5) (fld w 13 4) (fld w 0 10))
  else if seg w 22 4 = 3 ∧ seg w 10 3 = 0 then .ok (.eqsz (fld w 17 5) (fld w 13 4) (fld w 0 10))
  else if seg w 22 4 = 4 ∧ seg w 10 3 = 0 then .ok (.eqcnt (fld w 17 5) (fld w 13 4) (fld w 0 10))
  else if seg w 22 4 = 5 ∧ seg w 10 3 = 0 then .ok (.eqrl (fld w 17 5) (fld w 13 4) (fld w 0 10))
  else if seg w 22 4 = 6 ∧ seg w 10 3 = 0 then .ok (.eqsnap (fld w 17 5) (fld w 13 4) (fld w 0 10))
  else if seg w 22 4 = 7 ∧ seg w 10 3 = 0 then .ok (.equndo (fld w 17 5) (fld w 13 4) (fld w 0 10))
  else if seg w 22 4 = 8 ∧ seg w 10 3 = 0 then .ok (.eqdrop (fld w 17 5) (fld w 13 4) (fld w 0 10))
  else .error .operation

/-- Decodes bits 30:0 of a word by its major opcode (R246), before the operand checks. -/
def decodeRaw (w : Nat) : Except Reject Instr :=
  match seg w 26 5 with
  | 0x00 => decode00 w
  | 0x01 => decode01 w
  | 0x02 => decode02 w
  | 0x03 => decode03 w
  | 0x04 => decode04 w
  | 0x05 => decode05 w
  | 0x06 => decode06 w
  | 0x07 => decode07 w
  | 0x08 => decode08 w
  | 0x09 => decode09 w
  | 0x0C => decode0C w
  | 0x0D => decode0D w
  | 0x0E => decode0E w
  | 0x0F => decode0F w
  | 0x10 => decode10 w
  | 0x11 => decode11 w
  | 0x12 => decode12 w
  | 0x13 => decode13 w
  | 0x14 => decode14 w
  | 0x16 => decode16 w
  | 0x17 => decode17 w
  | 0x18 => decode18 w
  | 0x19 => decode19 w
  | 0x1A => decode1A w
  | 0x1B => decode1B w
  | 0x1C => decode1C w
  | 0x1D => decode1D w
  | 0x1E => decode1E w
  | 0x1F => decode1F w
  | _ => .error .major

/-- Decodes a word: bits 30:0 as an instruction, with the operand checks (R267). -/
def decode (w : Word) : Except Reject Instr :=
  match decodeRaw w.toNat with
  | .ok i => if i.wf then .ok i else .error .operand
  | .error e => .error e

/-- The chain bit of a word (R236). -/
def chainBit (w : Word) : Bool := w.getLsbD 31

/-- The word that four bytes hold, lowest address first (R236). -/
def wordOfBytes (b0 b1 b2 b3 : Byte) : Word := BitVec.ofNat 32 (leNat [b0, b1, b2, b3])

/-- Decodes the first word of any bytes: the chain bit, the instruction and the rest. -/
def decodeBytes : List Byte → Except Reject (Bool × Instr × List Byte)
  | b0 :: b1 :: b2 :: b3 :: rest =>
    match decode (wordOfBytes b0 b1 b2 b3) with
    | .ok i => .ok (chainBit (wordOfBytes b0 b1 b2 b3), i, rest)
    | .error e => .error e
  | _ => .error .short

/-- The instruction that the decoder reads from a word of the opcode table, laid out in memory (lowest byte first). -/
def decodeTableWord (nbits w : Nat) : Option Instr :=
  match decodeBytes (leBytes 4 (w % 2 ^ nbits)) with
  | .ok (_, i, _) => some i
  | .error _ => none

/-- A field at its place in a word. -/
def put (lo : Nat) {n : Nat} (v : BitVec n) : Nat := v.toNat * 2 ^ lo

/-- The word of an instruction with CH = 0, as a number (R247 to R266); a device step has none. -/
def encodeNat : Instr → Option Nat
  | .nop => some (0x00000000)
  | .tend => some (0x00000001)
  | .tsusp a b => some (0x00000002 + put 13 a + put 7 b)
  | .tyield => some (0x00000003)
  | .ckpt a => some (0x00000004 + put 13 a)
  | .trap a => some (0x00000005 + put 13 a)
  | .eret => some (0x00000006)
  | .csrd d w b => some (0x00000008 + put 20 d + put 19 w + put 7 b)
  | .cswr a b => some (0x00000009 + put 13 a + put 7 b)
  | .csset a b => some (0x0000000A + put 13 a + put 7 b)
  | .csclr a b => some (0x0000000B + put 13 a + put 7 b)
  | .wfe => some (0x0000000C)
  | .sleep => some (0x0000000D)
  | .sadd d w a b => some (0x04000000 + put 20 d + put 19 w + put 13 a + put 7 b)
  | .ssub d w a b => some (0x04000001 + put 20 d + put 19 w + put 13 a + put 7 b)
  | .smul d w a b => some (0x04000002 + put 20 d + put 19 w + put 13 a + put 7 b)
  | .smulh d w a b => some (0x04000003 + put 20 d + put 19 w + put 13 a + put 7 b)
  | .smulhu d w a b => some (0x04000004 + put 20 d + put 19 w + put 13 a + put 7 b)
  | .sdiv d w a b => some (0x04000005 + put 20 d + put 19 w + put 13 a + put 7 b)
  | .sdivu d w a b => some (0x04000006 + put 20 d + put 19 w + put 13 a + put 7 b)
  | .srem d w a b => some (0x04000007 + put 20 d + put 19 w + put 13 a + put 7 b)
  | .sremu d w a b => some (0x04000008 + put 20 d + put 19 w + put 13 a + put 7 b)
  | .sand d w a b => some (0x04000009 + put 20 d + put 19 w + put 13 a + put 7 b)
  | .sor d w a b => some (0x0400000A + put 20 d + put 19 w + put 13 a + put 7 b)
  | .sxor d w a b => some (0x0400000B + put 20 d + put 19 w + put 13 a + put 7 b)
  | .sshl d w a b => some (0x0400000C + put 20 d + put 19 w + put 13 a + put 7 b)
  | .sshr d w a b => some (0x0400000D + put 20 d + put 19 w + put 13 a + put 7 b)
  | .ssra d w a b => some (0x0400000E + put 20 d + put 19 w + put 13 a + put 7 b)
  | .smin d w a b => some (0x0400000F + put 20 d + put 19 w + put 13 a + put 7 b)
  | .smax d w a b => some (0x04000010 + put 20 d + put 19 w + put 13 a + put 7 b)
  | .sminu d w a b => some (0x04000011 + put 20 d + put 19 w + put 13 a + put 7 b)
  | .smaxu d w a b => some (0x04000012 + put 20 d + put 19 w + put 13 a + put 7 b)
  | .sclz d w a => some (0x04000013 + put 20 d + put 19 w + put 13 a)
  | .spopc d w a => some (0x04000014 + put 20 d + put 19 w + put 13 a)
  | .saddi d w a i => some (0x08000000 + put 20 d + put 19 w + put 13 a + put 0 i)
  | .sandi d w a i => some (0x08000400 + put 20 d + put 19 w + put 13 a + put 0 i)
  | .sori d w a i => some (0x08000800 + put 20 d + put 19 w + put 13 a + put 0 i)
  | .sxori d w a i => some (0x08000C00 + put 20 d + put 19 w + put 13 a + put 0 i)
  | .sshli d w a i => some (0x08001000 + put 20 d + put 19 w + put 13 a + put 0 i)
  | .sshri d w a i => some (0x08001400 + put 20 d + put 19 w + put 13 a + put 0 i)
  | .ssrai d w a i => some (0x08001800 + put 20 d + put 19 w + put 13 a + put 0 i)
  | .aaddi d w a i => some (0x08001C00 + put 20 d + put 19 w + put 13 a + put 0 i)
  | .sli d w i => some (0x0C000000 + put 20 d + put 19 w + put 0 i)
  | .slui d w i => some (0x0C040000 + put 20 d + put 19 w + put 0 i)
  | .aadd d w a b => some (0x10000000 + put 20 d + put 19 w + put 13 a + put 7 b)
  | .asub d w a b => some (0x10000001 + put 20 d + put 19 w + put 13 a + put 7 b)
  | .amov d w a => some (0x10000002 + put 20 d + put 19 w + put 13 a)
  | .aset d w a b => some (0x10000003 + put 20 d + put 19 w + put 13 a + put 7 b)
  | .aget d w a => some (0x10000004 + put 20 d + put 19 w + put 13 a)
  | .agetHi d w a => some (0x10000005 + put 20 d + put 19 w + put 13 a)
  | .brCc k p o => some (0x14000000 + put 22 k + put 16 p + put 0 o)
  | .jmp i => some (0x18080000 + put 0 i)
  | .call d i => some (0x18000000 + put 20 d + put 0 i)
  | .jind a => some (0x1C000000 + put 13 a)
  | .jtab a b => some (0x1C000001 + put 13 a + put 7 b)
  | .ret a => some (0x1C000002 + put 13 a)
  | .rep n d a b x => some (0x20000000 + put 20 n + put 19 d + put 18 a + put 17 b + put 16 x)
  | .scmpCc d w a b k => some (0x24000000 + put 20 d + put 19 w + put 13 a + put 7 b + put 1 k)
  | .scmpiCc d w a i k => some (0x24000040 + put 20 d + put 19 w + put 13 a + put 7 i + put 1 k)
  | .ssel d w a b e => some (0x24000001 + put 20 d + put 19 w + put 13 a + put 7 b + put 1 e)
  | .vadd d w a b t => some (0x30000000 + put 20 d + put 19 w + put 13 a + put 7 b + put 3 t)
  | .vsub d w a b t => some (0x30000001 + put 20 d + put 19 w + put 13 a + put 7 b + put 3 t)
  | .vmul d w a b t => some (0x30000002 + put 20 d + put 19 w + put 13 a + put 7 b + put 3 t)
  | .vmin d w a b t => some (0x30000003 + put 20 d + put 19 w + put 13 a + put 7 b + put 3 t)
  | .vmax d w a b t => some (0x30000004 + put 20 d + put 19 w + put 13 a + put 7 b + put 3 t)
  | .vabs d w a t => some (0x30000005 + put 20 d + put 19 w + put 13 a + put 3 t)
  | .vneg d w a t => some (0x30000006 + put 20 d + put 19 w + put 13 a + put 3 t)
  | .viadd d w a b s t => some (0x34000000 + put 20 d + put 19 w + put 13 a + put 7 b + put 6 s + put 4 t)
  | .visub d w a b s t => some (0x34000001 + put 20 d + put 19 w + put 13 a + put 7 b + put 6 s + put 4 t)
  | .vimul d w a b s t => some (0x34000002 + put 20 d + put 19 w + put 13 a + put 7 b + put 6 s + put 4 t)
  | .vimin d w a b t => some (0x34000003 + put 20 d + put 19 w + put 13 a + put 7 b + put 4 t)
  | .vimax d w a b t => some (0x34000004 + put 20 d + put 19 w + put 13 a + put 7 b + put 4 t)
  | .vand d w a b => some (0x34000005 + put 20 d + put 19 w + put 13 a + put 7 b)
  | .vor d w a b => some (0x34000006 + put 20 d + put 19 w + put 13 a + put 7 b)
  | .vxor d w a b => some (0x34000007 + put 20 d + put 19 w + put 13 a + put 7 b)
  | .vshl d w a b t => some (0x34000008 + put 20 d + put 19 w + put 13 a + put 7 b + put 4 t)
  | .vshr d w a b t => some (0x34000009 + put 20 d + put 19 w + put 13 a + put 7 b + put 4 t)
  | .vsra d w a b t => some (0x3400000A + put 20 d + put 19 w + put 13 a + put 7 b + put 4 t)
  | .vfma d w a b t => some (0x38000000 + put 20 d + put 19 w + put 13 a + put 7 b + put 3 t)
  | .vfms d w a b t => some (0x38000001 + put 20 d + put 19 w + put 13 a + put 7 b + put 3 t)
  | .vcvt d w a r x f t => some (0x3C000000 + put 20 d + put 19 w + put 13 a + put 10 r + put 9 x + put 8 f + put 3 t)
  | .vexp2 d w a => some (0x40000000 + put 20 d + put 19 w + put 13 a)
  | .vlog2 d w a => some (0x40000001 + put 20 d + put 19 w + put 13 a)
  | .vrcp d w a => some (0x40000002 + put 20 d + put 19 w + put 13 a)
  | .vrsq d w a => some (0x40000003 + put 20 d + put 19 w + put 13 a)
  | .vhash d w a b => some (0x40000004 + put 20 d + put 19 w + put 13 a + put 7 b)
  | .vdot4 d w a b u f p => some (0x44000000 + put 20 d + put 19 w + put 13 a + put 7 b + put 6 u + put 5 f + put 2 p)
  | .vdot2 d w a b => some (0x44000001 + put 20 d + put 19 w + put 13 a + put 7 b)
  | .vbcast d w a => some (0x48000000 + put 20 d + put 19 w + put 13 a)
  | .vlane d w a b => some (0x48000001 + put 20 d + put 19 w + put 13 a + put 7 b)
  | .vperm d w a b => some (0x48000002 + put 20 d + put 19 w + put 13 a + put 7 b)
  | .xcopy d w a n => some (0x48000003 + put 20 d + put 19 w + put 13 a + put 7 n)
  | .vredAddF32 d w a => some (0x48000008 + put 20 d + put 19 w + put 13 a)
  | .vredMinF32 d w a => some (0x48000009 + put 20 d + put 19 w + put 13 a)
  | .vredMaxF32 d w a => some (0x4800000A + put 20 d + put 19 w + put 13 a)
  | .vredAddI32 d w a => some (0x4800000B + put 20 d + put 19 w + put 13 a)
  | .vredMinI32 d w a => some (0x4800000C + put 20 d + put 19 w + put 13 a)
  | .vredMaxI32 d w a => some (0x4800000D + put 20 d + put 19 w + put 13 a)
  | .vld d w a i k => some (0x4C000000 + put 20 d + put 19 w + put 13 a + put 7 i + put 4 k)
  | .vst d a i k => some (0x4C000001 + put 20 d + put 13 a + put 7 i + put 4 k)
  | .vgath d w a b k => some (0x4C000002 + put 20 d + put 19 w + put 13 a + put 7 b + put 4 k)
  | .vscat d a b k => some (0x4C000003 + put 20 d + put 13 a + put 7 b + put 4 k)
  | .vpushcCfg q a => some (0x4C000004 + put 20 q + put 13 a)
  | .vpushc q a k => some (0x4C000004 + put 20 q + put 13 a + put 4 k)
  | .vpopc d w q k => some (0x4C000005 + put 20 d + put 19 w + put 7 q + put 4 k)
  | .vqbal q => some (0x4C000006 + put 20 q)
  | .vqcnt d w q => some (0x4C000007 + put 20 d + put 19 w + put 7 q)
  | .vcmpCc d w a b t k => some (0x50000000 + put 20 d + put 19 w + put 13 a + put 7 b + put 4 t + put 0 k)
  | .vsel d w a b m => some (0x50000040 + put 20 d + put 19 w + put 13 a + put 7 b + put 3 m)
  | .kand d w a b => some (0x50000041 + put 20 d + put 19 w + put 13 a + put 7 b)
  | .kor d w a b => some (0x50000042 + put 20 d + put 19 w + put 13 a + put 7 b)
  | .knot d w a => some (0x50000043 + put 20 d + put 19 w + put 13 a)
  | .kcnt d w a => some (0x50000044 + put 20 d + put 19 w + put 13 a)
  | .slen m => some (0x58000000 + put 0 m)
  | .sseed x s => some (0x58400000 + put 10 x + put 0 s)
  | .sprof p => some (0x58800000 + put 11 p)
  | .smode s => some (0x58C00000 + put 0 s)
  | .ntset n w s => some (0x5C000000 + put 19 n + put 5 w + put 0 s)
  | .ntclr n => some (0x5C400000 + put 19 n)
  | .wbld a s => some (0x60000000 + put 7 a + put 0 s)
  | .wlatch w s => some (0x60400000 + put 9 w + put 0 s)
  | .sgo n p => some (0x64000000 + put 19 n + put 11 p)
  | .sconf v s => some (0x64400000 + put 5 v + put 0 s)
  | .sstop n j => some (0x64800000 + put 19 n + put 0 j)
  | .spart v s => some (0x64C00000 + put 5 v + put 0 s)
  | .sread p v s => some (0x68000000 + put 11 p + put 5 v + put 0 s)
  | .sclr => some (0x68400000)
  | .sebnd v => some (0x68800000 + put 5 v)
  | .ld z d b x i => some (0x6C000000 + put 22 z + put 16 d + put 12 b + put 11 x + put 0 i)
  | .st z d b x i => some (0x6D000000 + put 22 z + put 16 d + put 12 b + put 11 x + put 0 i)
  | .ldl z d b o l => some (0x6E000000 + put 22 z + put 17 d + put 14 b + put 10 o + put 0 l)
  | .str z d b x i => some (0x6F000000 + put 22 z + put 16 d + put 12 b + put 11 x + put 0 i)
  | .tmov q r o b s => some (0x70000000 + put 23 q + put 22 r + put 16 o + put 12 b + put 7 s)
  | .tmovq q r o b s => some (0x71000000 + put 23 q + put 22 r + put 16 o + put 12 b + put 7 s)
  | .tfill q o b s => some (0x72000000 + put 23 q + put 16 o + put 12 b + put 7 s)
  | .amoOp e o r d b l => some (0x74000000 + put 23 e + put 20 o + put 18 r + put 13 d + put 10 b + put 0 l)
  | .ldAcq e z d b l => some (0x76800000 + put 20 e + put 18 z + put 13 d + put 10 b + put 0 l)
  | .stRel e z s b => some (0x77000000 + put 17 e + put 15 z + put 10 s + put 7 b)
  | .fence e => some (0x77100000 + put 17 e)
  | .waittl t a => some (0x77200000 + put 17 t + put 11 a)
  | .tlget t d => some (0x77300000 + put 17 t + put 11 d)
  | .tlbump t a => some (0x77400000 + put 17 t + put 11 a)
  | .bari b a => some (0x77800000 + put 13 b + put 7 a)
  | .bara b => some (0x77900000 + put 13 b)
  | .barw b => some (0x77A00000 + put 13 b)
  | .racq r s d => some (0x77B00000 + put 14 r + put 13 s + put 7 d)
  | .rrel r s => some (0x77C00000 + put 14 r + put 13 s)
  | .rinfo r d => some (0x77D00000 + put 14 r + put 7 d)
  | .wlpush d b l => some (0x78000000 + put 18 d + put 14 b + put 0 l)
  | .wlpushr k b s => some (0x78800000 + put 22 k + put 18 b + put 13 s)
  | .wlfloor d l => some (0x79000000 + put 18 d + put 0 l)
  | .wlnest b => some (0x79800000 + put 18 b)
  | .tsucc s => some (0x7A000000 + put 13 s)
  | .rput k a t l v => some (0x7A800000 + put 22 k + put 18 a + put 14 t + put 9 l + put 4 v)
  | .rred k a n t => some (0x7B000000 + put 22 k + put 18 a + put 9 n + put 4 t)
  | .objld o s => some (0x7B800000 + put 16 o + put 11 s)
  | .objpub => some (0x7BC00000)
  | .eqinit d b l => some (0x7C000000 + put 17 d + put 13 b + put 0 l)
  | .equn d b l => some (0x7C400000 + put 17 d + put 13 b + put 0 l)
  | .eqfd d b l => some (0x7C800000 + put 17 d + put 13 b + put 0 l)
  | .eqsz d b l => some (0x7CC00000 + put 17 d + put 13 b + put 0 l)
  | .eqcnt d b l => some (0x7D000000 + put 17 d + put 13 b + put 0 l)
  | .eqrl d b l => some (0x7D400000 + put 17 d + put 13 b + put 0 l)
  | .eqsnap d b l => some (0x7D800000 + put 17 d + put 13 b + put 0 l)
  | .equndo d b l => some (0x7DC00000 + put 17 d + put 13 b + put 0 l)
  | .eqdrop d b l => some (0x7E000000 + put 17 d + put 13 b + put 0 l)
  | .hopRepairResume .. | .taskPacketSend .. | .taskPacketReceive .. | .isaledinWriteRx .. | .isaledinReadRequestRx .. | .slotArm .. => none
  | .slotDisarm .. | .contributionStaged .. | .contributionAdd .. | .slotDeadline .. | .journalAppendAck .. | .snapGo .. => none
  | .launchRecordConsume .. | .recordRepoll .. | .launchFirstRead .. | .launchReport .. | .msixCoalesceExpiry .. | .inboundRead .. => none
  | .inboundWrite .. | .outboundTimeout .. | .gangStart .. | .taskDispatch .. | .regionCopyInDone .. | .tendCopyOut .. => none
  | .taskRetire .. | .taskPreload .. | .packetAccept .. | .nestWalkerSpawn .. | .continuationReady .. | .budgetExceeded .. => none
  | .terminationWave .. | .floorPropose .. | .proposeReceive .. | .proposeAckReceive .. | .commitReceive .. | .holdReceive .. => none
  | .pauseReceive .. | .pauseAckReceive .. | .resumeReceive .. | .bucketRefill .. | .reachUpdate .. | .stealRequest .. => none
  | .stealRequestReceive .. | .stealTransferReceive .. | .stealAckReceive .. | .stealRetry .. | .deviceStealRequest .. | .preemptRequest .. => none
  | .ckptlimExpiry .. | .saveComplete .. | .contextRestore .. | .shadowCopyDone .. | .coreWake .. | .landingDataReturn .. => none
  | .fetchComplete .. | .pageWalkDone .. | .allocHoldTimeout .. | .tileMoveComplete .. | .objldComplete .. | .objpubComplete .. => none
  | .vqbalComplete .. | .arrayOpStart .. | .nestPark .. | .arrayOpComplete .. | .eqFindHop .. | .eqLink .. => none
  | .eqSizeDelta .. | .eqHoldEnd .. | .eqOpComplete .. | .ackArrival .. | .rputArrival .. | .windowAccessArrival .. => none
  | .barrierArrival .. | .barrierPhaseDelivery .. | .ringUpdate .. | .flitReplay .. | .retryWindowEnd .. | .hopRepair .. => none
  | .sectorRead .. | .sectorWrite .. | .patrolScrub .. | .refreshManagement .. | .refreshManagementDone .. | .refreshWindowEnd .. => none
  | .powerCapWindow .. | .thermalThrottle .. | .thermalShutdown .. | .xogusFlitReplay .. | .portRetrain .. | .taskCreditReturn .. => none
  | .isaledinReadResponseRx .. | .isaledinAckRx .. | .isaledinReduceRx .. | .isaledinEnqueueRx .. | .isaledinUnsupportedRx .. | .isaledinRetransmitTimeout .. => none
  | .pfcPauseRx .. | .ethLinkChange .. | .viewInstall .. | .journalAppend .. | .snapshotComplete .. | .qtailWrite .. => none
  | .msixUnmask .. | .contextEnable .. | .contextDisable .. | .contextFrozenClear .. | .inboundAtomicop .. | .outboundCompletion .. => none
  | .telemetry .. | .readBlock .. | .faultLog .. | .freeze .. | .release .. | .reset .. => none
  | .linkService .. | .fwUpdate .. | .attest .. | .attestMailboxStart .. | .powerOn .. | .bringUpStageDone .. => none
  | .invGo .. | .invDone .. | .poolTailWrite .. | .counterClear .. | .registerWrite .. | .hubSoftError .. => none
  | .powerGate .. | .padSoftError .. | .memorySymbolError .. | .uncorrectableFabricError .. | .modulePowerLoss .. | .pcieLinkTraining .. => none

/-- The word of an instruction, with CH = 0. -/
def encode (i : Instr) : Option Word := (encodeNat i).map (BitVec.ofNat 32)

/-- The four bytes of an instruction as they lie in memory (R236). -/
def encodeBytes (i : Instr) : Option (List Byte) := (encode i).map (fun w => leBytes 4 w.toNat)

end Sys2Proof
end

