-- ==== Sys2Proof/Config.lean ====
section
/-! DEFINITION. What the silicon of one module fixes and what the spec leaves open. Every constant here is opaque: it has no
body, so no statement can rest on a value of it, and a statement about it holds for every value. -/

namespace Sys2Proof.Config

/-- Silicon stepping, set in the silicon (R65, 0x000 15:0): the manual gives no value. DESIGN CHOICE: a free value, log 9. -/
opaque stepping : BitVec 16

/-- MAC address of Ethernet port 0, assigned at manufacture (R65): the manual gives no value. DESIGN CHOICE: a free value, log 9. -/
opaque mac0 : BitVec 48

/-- MAC address of Ethernet port 1 (R65). DESIGN CHOICE: a free value, log 9. -/
opaque mac1 : BitVec 48

/-- Which of the parties that may move does so at turn t: the manual fixes no order between a core, its engines, the hubs and
the outside world (R19, R41, R167). The value is taken modulo the number of parties. DESIGN CHOICE: a free value, log 1. -/
opaque choice : Nat → Nat

/-- How many nanoseconds of device time pass at turn t (R8, R285: device time is not reproducible between runs). DESIGN CHOICE: a free value, log 10. -/
opaque elapsed : Nat → Nat

/-- Whether turn t falls into the second core cycle of its nanosecond: the manual fixes no phase of device time (R8). DESIGN CHOICE: a free value, log 10. -/
opaque halfNs : Nat → Bool

/-- Byte i of the two AES keys of the encryption key of a number (R32): the Skelsan controller generates it and never exposes it; how one
256-bit key gives the data key and the tweak key of XTS is not stated. DESIGN CHOICE: free values, log 6. -/
opaque dataKey : Nat → Nat → Byte
opaque tweakKey : Nat → Nat → Byte

/-- Whether the access at turn t to a physical address activates its row, and which row of its channel that is (R35): the manual maps no
address to a row and says nothing of rows that stand open. DESIGN CHOICE: free values, log 50. -/
opaque activates : Nat → Nat → Bool
opaque rowOf : Nat → Nat

/-- Whether a firmware image's ECDSA signature verifies against the fused key (R82). DESIGN CHOICE: a free value, log 9. -/
opaque fwAuthentic : List Byte → List Byte → Bool

/-- The fused minimum security version of firmware (R82). DESIGN CHOICE: a free value, log 9. -/
opaque fwMinVersion : Nat

/-- The quote that attestation returns for a nonce and a measurement list (R82). DESIGN CHOICE: a free value, log 9. -/
opaque quote : List Byte → List (List Byte) → List Byte

/-- The SHA-384 of the fuse state, one entry of the measurement list (R82). DESIGN CHOICE: a free value, log 9. -/
opaque fuseMeasure : List Byte

/-- VERSION of the save images that a device with a committed firmware image writes and accepts (R138, R140). DESIGN CHOICE: a free value, log 9. -/
opaque imageVersion : List Byte → Word

/-- Average power that telemetry reports, and the junction temperature of die d, at turn t (R80). DESIGN CHOICE: a free value, log 9. -/
opaque power : Nat → Nat
opaque temperature : Nat → Nat → Nat

/-- The value of a sector whose stored symbols are beyond correction (R31, R34): the data that comes with the poison. DESIGN CHOICE: a free value, log 7. -/
opaque brokenByte : Nat → Nat → Byte

/-- The value a peer read is given when its completion is in error or missing (R79): it comes with poison. DESIGN CHOICE: a free value, log 7. -/
opaque peerByte : Nat → Byte

/-- Byte of the memory of a peer, by turn, outbound entry and offset, as the launch digest reads it (R153): it lies outside the device. DESIGN CHOICE: a
free value, log 62. -/
opaque peerData : Nat → Nat → Nat → Byte

/-- Whether the repair of a hop that begins at turn t succeeds (R26, R27). DESIGN CHOICE: a free value, log 64. -/
opaque repairable : Nat → Bool

/-- The member that the driver connects a queue pair to which speaks first, by turn and number, and the port at which a packet of a queue pair
that is bound to no member arrives (R49, R51). DESIGN CHOICE: free values, log 66. -/
opaque qpMember : Nat → Nat → Nat
opaque arrivalPort : Nat → Nat → Nat

/-- What the driver has bound a memory key to, as the first use of the key finds it (R49): context, first address, length, whether writes are let
in; none: nothing. DESIGN CHOICE: a free value, log 66. -/
opaque memKey : Nat → Nat → Option (Nat × Nat × Nat × Bool)

/-- The route to the spare that the driver installs with a view of a group, by turn and entry (R45): none, the route stays as it is; some none, no position
is reached through the spare; else the position of the own pod that is. DESIGN CHOICE: a free value, log 65. -/
opaque driverRoute : Nat → Nat → Option (Option Nat)

/-- Whether priority flow control is enabled at an Ethernet port for a priority (R47). DESIGN CHOICE: a free value, log 66. -/
opaque pfcEnabled : Nat → Nat → Bool

/-- Whether the driver makes this device, outside the view it installs for a group, a spare that catches up, the journal that the buddy then
sends, none when it has passed its limits, and the bytes of the snapshot by address (R61). DESIGN CHOICE: free values, log 65. -/
opaque catchesUp : Nat → Nat → Bool
opaque buddyJournal : Nat → Nat → Option (List (List Byte))
opaque snapshotByte : Nat → Nat → Nat → Byte

/-- A value that the spec leaves unstated, at turn t (the TRAPVAL of step 4 of R349). DESIGN CHOICE: a free value, log 8. -/
opaque openVal : Nat → DWord

/-- What the self-test's completion record holds in the doublewords and fields that R84 gives no value for, by turn and doubleword. DESIGN CHOICE: a free value, log 8. -/
opaque selfTest : Nat → Nat → DWord

/-- Length in bytes that the header of the opaque stream-array image names (R140). DESIGN CHOICE: a free value, log 18. -/
opaque arrayImageLen : Nat

/-- Whether a stop request reaches a core before its trapped bundle has passed its check stage, at turn t (R133). DESIGN CHOICE: a free value, log 17. -/
opaque beforeTrap : Nat → Bool

/-- Landing time in core cycles of a code or table read outside the own L1 (R167 gives typical figures only). DESIGN CHOICE: a free value, log 8. -/
opaque landing : Nat → Nat

/-- The block exponent of a block that holds a NaN or an infinity (R215 gives none): by the least exponent of its finite
elements. DESIGN CHOICE: a free value, log 8. -/
opaque specialExp : Int → Int

/-- Whether a translation cache keeps an entry at turn t (R175 fixes its size, not its replacement). DESIGN CHOICE: a free value, log 5. -/
opaque tlbKeep : Nat → Bool

end Sys2Proof.Config
end

