-- ==== Sys2Proof/Machine/State.lean ====
section
/-! DEFINITION. The state of the PZ9, as plain data: the core that moves and the other cores, device memory and the pads, the
hubs and launches, the host interface, the links and the management side. Every piece cites the rule that names it; the value
after reset stands in State.reset and in the default of each record. -/

namespace Sys2Proof.Machine

/-- A sparse map by number, in one canonical form: keys strictly rising. -/
abbrev SMap (α : Type) := List (Nat × α)

/-- Bytes of a memory: addresses strictly rising, no entry equal to 0, which is what an unlisted address reads as
(R83: device memory is zeroed in bring-up; R161: pads are zeroed before they serve a context; DESIGN CHOICE before those steps, log 12).
-/
abbrev Mem := List Host.Cell

/-- Cause codes of faults and traps (R144). -/
inductive Cause where
  | illegal | trap | arith | align | page | bound | poison | prot | tag | budget | badPacket | succStale | depStuck
  | wlPendfull | wlSpill | double | imgVersion | shadowBusy | hubErr | device
  deriving DecidableEq, Repr

/-- Where poison comes from (R146 ORIGIN). -/
inductive Origin where
  | unnamed | eccUe | linkFlit | trailer | softError
  deriving DecidableEq, Repr

/-- The poison mark of a value: none when clean (R165). -/
abbrev Psn := Option Origin

/-- A 32-bit value with its poison mark: an s register or a vector lane (R156, R165). -/
structure PWord where
  val : Word := 0
  psn : Psn := none
  deriving DecidableEq, Repr

/-- A 64-bit value with its poison mark: an a register or a C or M latch entry (R156, R164). -/
structure PDWord where
  val : DWord := 0
  psn : Psn := none
  deriving DecidableEq, Repr

/-- The 128 lanes of a vector register or a V or S latch entry (R155, R156). -/
abbrev Lanes := Vector PWord 128

/-- All lanes clean and zero. -/
def Lanes.zero : Lanes := Vector.replicate 128 {}

/-- How a control-register write combines with the register (R285). -/
inductive CsrOp where
  | write | set | clear
  deriving DecidableEq, Repr

/-- What takes effect when a result in flight reaches its cycle (R15, R16, R162). -/
inductive Effect where
  /-- A C-pipe result: register D unless W, and the C latch queue. -/
  | cResult (d : BitVec 6) (w : Bool) (v : PDWord)
  /-- An M-pipe result of fixed latency: register D, and what the M latch queue takes (R345). -/
  | mResult (d : BitVec 6) (v : PDWord) (q : DWord)
  /-- A landing load (R166): slot id, s register, the data once the target has answered, and the core cycles until it is back
  in its slot; none while that time is open. -/
  | land (id : Nat) (d : BitVec 5) (v : Option PDWord) (due : Option Nat)
  /-- A V-pipe result into v register D in the lanes of the mask, and the V latch queue. -/
  | vResult (d : BitVec 6) (w : Bool) (lanes : BitVec 128) (v : Lanes)
  /-- A V-pipe mask result into k register D (R295). -/
  | kResult (d : BitVec 6) (w : Bool) (m : BitVec 128)
  /-- A V-pipe result into s register D (R295). -/
  | vsResult (d : BitVec 6) (w : Bool) (v : PWord)
  /-- An S read-out into v register D, and the S latch queue (R164). -/
  | sResult (d : BitVec 6) (v : Lanes)
  /-- A control-register write (R285, R286). -/
  | csr (n : Nat) (op : CsrOp) (v : DWord)
  /-- A word of a shadow nest table, and the clear of one (R323). -/
  | ntSet (nt : Nat) (w : Nat) (v : Word)
  | ntClear (nt : Nat)
  /-- Hardware updates: EBND, sticky FPX flags, a sticky STAT bit (R219, R286, R297). -/
  | ebnd (v : DWord)
  | fpFlags (f : BitVec 5)
  | statBit (bit : Nat)
  /-- A read of a timeline made at the check stage, and a raise of tl6 or tl7 made there (R353). -/
  | tlRead (d : BitVec 6) (k : Fin 8)
  | tlRaise (k : Fin 8) (v : Nat)
  deriving DecidableEq, Repr

/-- A result in flight: off is the number of cycles from the next bundle to issue until it takes effect (R139 OFF). -/
structure Flight where
  off : Nat
  fx : Effect
  deriving DecidableEq, Repr

/-- The repeat in progress (R244, R245): n of the REP word, issues still to make, step flags D, A, B, C; left = 0: none. -/
structure Rep where
  n : Nat := 0
  left : Nat := 0
  stepD : Bool := false
  stepA : Bool := false
  stepB : Bool := false
  stepC : Bool := false
  deriving DecidableEq, Repr

/-- The four latch queues, b0 first (R15, R164). -/
structure Latches where
  c : Vector PDWord 8 := Vector.replicate 8 {}
  m : Vector PDWord 8 := Vector.replicate 8 {}
  v : Vector Lanes 8 := Vector.replicate 8 Lanes.zero
  s : Vector Lanes 8 := Vector.replicate 8 Lanes.zero
  deriving DecidableEq, Repr

/-- The trap frame (R141): results in flight, latches and REP state of the trapped context. -/
structure Frame where
  flights : List Flight := []
  latches : Latches := {}
  rep : Rep := {}
  deriving DecidableEq, Repr

/-- One accumulator of the stream array (R319). -/
structure Acc where
  q : Int := 0
  p : Int := 0
  w : Option Int := none
  m : Nat := 0
  npair : Nat := 0
  np : Nat := 0
  psn : Psn := none
  deriving DecidableEq, Repr

/-- A read-out format and rounding with the profile it comes from (R220, R336): fmt as coded in R261, rm as in R206. -/
structure ReadOut where
  fmt : Nat
  rm : Nat
  prof : Nat
  deriving DecidableEq, Repr

/-- One cell of a stationary latch (R319, R329): sign and exact magnitude num × 2^exp of B relative to its block exponent, a
NaN or infinity mark, poison. -/
structure LCell where
  neg : Bool := false
  num : Nat := 0
  exp : Int := 0
  special : Bool := false
  psn : Psn := none
  deriving DecidableEq, Repr

/-- A stationary latch: cell (k, c) at index 64 c + k, and EB(c, g) at index 4 c + g (R319). -/
structure WLatch where
  cells : List LCell := []
  eb : List Int := []
  deriving DecidableEq, Repr

/-- The settings an SGO fixed at issue (R220, R221, R330). -/
structure NestCfg where
  m : Nat
  xnor : Bool
  seedA : BitVec 16
  seedB : BitVec 16
  sr : Bool
  ro : ReadOut
  deriving DecidableEq, Repr

/-- A queued operation of the array (R326); at' is the count of accesses and tile operations that the core had issued before it (R196). -/
inductive ArrayOp where
  | wbld (at' : Nat) (num : Nat) (src : Nat) (len : Nat) (place : Nat)
  | wlatch (num : Nat) (l : Nat) (inf : Bool) (u : Bool) (p : Nat) (sparse : Bool) (place : Nat)
  | sgo (at' : Nat) (num : Nat) (nt : Nat) (cfg : NestCfg) (stop : Option Nat)
  | sclr (num : Nat)
  deriving DecidableEq, Repr

/-- Where the array stands in the operation at the head of its queue (R319, R331, R333). -/
inductive ArrayPhase where
  | idle | running | parked
  deriving DecidableEq, Repr

/-- The stream array (R319): accumulator (row, c) at index 64 row + c; one row record and one queued pair count for each row; m0,
j0 and xnor0 are the stream exponent, the log2 of the bits processed and the mode of the latest stream pass (R334, R335). -/
structure SArray where
  acc : SMap Acc := []
  rowRec : SMap ReadOut := []
  queued : SMap Nat := []
  w : Vector WLatch 4 := Vector.replicate 4 {}
  queue : List ArrayOp := []
  phase : ArrayPhase := .idle
  m0 : Nat := 4
  j0 : Nat := 4
  xnor0 : Bool := false
  deriving DecidableEq, Repr

/-- A compaction-queue descriptor (R188), with what a VQBAL in progress has left (R318): busy, the counted cycles in which
another word of the queue is ILLEGAL, and hbusy, the same of a VQBAL that the handler issued; left, the core cycles until it completes; num, its number on tl5, 0 when none is open. -/
structure CQueue where
  base : BitVec 15 := 0
  recw : BitVec 2 := 0
  cap : BitVec 15 := 0
  count : BitVec 16 := 0
  head : Word := 0
  tail : Word := 0
  busy : Nat := 0
  hbusy : Nat := 0
  left : Nat := 0
  num : Nat := 0
  deriving DecidableEq, Repr

/-- A barrier's state word (R186). -/
structure Bar where
  rect : Rect := ⟨0, 0, 0, 0⟩
  phase : BitVec 16 := 0
  arrived : Nat := 0
  pending : Bool := false
  valid : Bool := false
  deriving DecidableEq, Repr

/-- A timeline with its issue counter and, for the engine timelines, the numbers completed out of order (R185). -/
structure Timeline where
  val : Nat := 0
  issued : Nat := 0
  done : List Nat := []
  deriving DecidableEq, Repr

/-- An object-table entry with its index (R180, R184). -/
structure Obj where
  base : DWord
  rows : Nat
  cols : Nat
  rstride : Nat
  estride : Nat
  type : Nat
  trows : Nat
  tcols : Nat
  bact : Nat
  quant : Bool
  digest : Bool
  rd : Bool
  wr : Bool
  peer : Bool
  inf : Bool
  oute : Nat
  lo : Word
  hi : Word
  index : Nat := 0
  deriving DecidableEq, Repr

/-- A queued operation of a tile-move queue (R349, R363); seq is its place among the tile operations of the core. -/
inductive TileOp where
  | tmov (seq : Nat) (num : Nat) (st : Bool) (quant : Bool) (slot : Nat) (l1 : Nat) (ty : Nat) (tx : Nat) (pc : DWord)
  | tfill (seq : Nat) (num : Nat) (slot : Nat) (l1 : Nat) (v : DWord) (pc : DWord)
  | objld (seq : Nat) (num : Nat) (slot : Nat) (index : Nat) (pc : DWord)
  | objpub (seq : Nat) (num : Nat)
  /-- A move from a peer window whose reads are under way (R352). -/
  | peer (seq : Nat) (num : Nat) (group : Nat) (l1 : Nat) (len : Nat)
  deriving DecidableEq, Repr

/-- A region declaration (R94). -/
structure Region where
  obj : Nat
  ty : Nat
  tx : Nat
  mode : Nat
  scope : Nat
  l1off : Nat
  deriving DecidableEq, Repr

/-- A byte with its poison mark. -/
abbrev MByte := BitVec 8 × Option Origin

/-- A task as its hub holds it (R92, R95, R96, R98): the packet, and what the hub keeps with it. uid is the model's own identity of
the task; places the L1 ranges of its regions; robjs the objects of its regions as its dispatch read them (R184); resident the regions that
a preload has brought (R107); nums its operations on tl3 and tl4 (R97); page the spill page that holds it; avoid the core of its last fault; src the core that created it; spent the cycles of R108 before a suspension. -/
structure Task where
  uid : Nat := 0
  handle : Word := 0
  kind : Nat := 0
  pin : Bool := false
  pinx : Nat := 0
  piny : Nat := 0
  nosteal : Bool := false
  nopre : Bool := false
  key : Word := 0
  code : Nat := 0
  entry : Nat := 0
  start : Nat := 0
  pend : Nat := 0
  lslot : Nat := 0
  cseq : Word := 0
  payload : List Word := []
  regions : List Region := []
  places : List (Nat × Nat) := []
  coeffs : List DWord := []
  counts : List Nat := []
  walked : Nat := 0
  idx : List Word := []
  succ : List Word := []
  packetSucc : List Word := []
  suspended : Bool := false
  resumePc : DWord := 0
  live : Word := 0
  liveRegs : List (Word × Option Origin) := []
  waitv : Word := 0
  tln : Nat := 0
  cx : Nat := 0
  cy : Nat := 0
  boundTo : Option Nat := none
  parked : List (Nat × List MByte) := []
  parkPages : List Nat := []
  parkBytes : Nat := 0
  rerunnable : Bool := true
  spent : Nat := 0
  faults : Nat := 0
  avoid : Option Nat := none
  headEntry : Bool := false
  page : Option Nat := none
  src : Option Nat := none
  robjs : List (Option Obj) := []
  resident : List Nat := []
  nums : List (Nat × Nat) := []
  deriving DecidableEq, Repr

/-- What a core waits for at issue (R167), or why its clock domain is frozen or its work is ending. -/
inductive Hold where
  | waittl | barw | racq | wfe | sleep | walk | allocHold | shadowHold | lock | tend | tsusp | tyield | eretDrain
  deriving DecidableEq, Repr

/-- Where an address leads (R169, R174): a pad, a status or group window, or device memory under a key with the page's KIND. -/
inductive Loc where
  | l1 (cid off : Nat) (own : Bool)
  | l2 (cl off : Nat)
  | l3 (die off : Nat)
  | memStat (off : Nat)
  | hubStat (off : Nat)
  | group (off : Nat)
  | dev (pa : Nat) (key : Option Nat) (kind : Nat)
  deriving DecidableEq, Repr

/-- Which right of a page an access needs (R174). -/
inductive Right where
  | x | w | rd
  deriving DecidableEq, Repr

/-- A translation that an access of the bundle at issue has taken in its check stage (R175). -/
structure Xlat where
  va : Nat
  r : Right
  loc : Loc
  deriving DecidableEq, Repr

/-- What waits to leave the core (R194): loads and stores with the places taken at their check stage, an AMO, a fence, a raise of tl6
or tl7, the release of a ring buffer, a barrier arrival, pushes to the own hub, and the operations of the remote-issue queue, which read their source when they run (R342, R361). -/
inductive EgressOp where
  | load (id n : Nat) (places : List (Loc × Nat × Nat))
  | store (places : List (Loc × Nat × Nat)) (bytes : List (BitVec 8 × Option Origin))
  | amo (id : Nat) (op : BitVec 3) (loc : Loc) (ea : DWord) (x y : Word)
  | fence
  | bump (k : Fin 8) (v : Nat)
  | release (ring : Nat) (consumer : Bool)
  | arrive (bar : Nat) (rect : Rect)
  | push (id : Option Nat) (bytes : List (BitVec 8))
  | pushr (hdr : RemoteHdr) (member : Nat) (bytes : List (BitVec 8))
  | put (req : PutReq) (src : DWord) (len : Nat) (pc : DWord)
  | red (con : Contribution) (member : Nat) (src : DWord) (len : Nat) (pc : DWord)
  deriving DecidableEq, Repr

/-- An entry of a core's egress: its place in the order of issue of the core's accesses and tile operations, whether it waits for
the delivery of the remote operations before it (R194), and the bundle that issued it (R146). -/
structure Egress where
  seq : Nat
  sys : Bool
  op : EgressOp
  pc : DWord := 0
  deriving DecidableEq, Repr

/-- The ring request of a held RACQ (R356): asked at a turn, then granted with the address and the poison of the descriptor. -/
inductive RingReq where
  | asked (ring : Nat) (side : Bool) (at' : Nat)
  | granted (ring : Nat) (addr : PDWord)
  deriving DecidableEq, Repr

/-- The check-stage failure that the current bundle raised (R165), kept while the bundle is judged: its rank in R165's order. -/
structure TrapRec where
  rank : Nat
  cause : Cause
  val : DWord
  origin : Psn
  deriving DecidableEq, Repr

/-- What runs on a core. -/
inductive Mode where
  | idle | loading | run | ending | stopping
  deriving DecidableEq, Repr

/-- Pending work of a stop (R131, R133). -/
structure StopReq where
  why : StopWhy
  count : Nat
  deriving DecidableEq, Repr

/-- The context of a core: what a pre-emption saves and restores (R135, R137), with the work it runs. tpend: a failure of the check stage
saved as pending (R133); moveSeq: the count of accesses in the egress and of tile operations issued; xlat, passed, chkObjs: of a bundle
held at issue, the translations it has taken, whether its check stage has passed, and the object window as that check met it (R165,
R175); fpxNext: writes of FPX by the bundle after the one at issue (R286); froze: a frozen cycle has passed at this bundle boundary
(R133); windowed: the dispatch has read its object-table entries (R184). The values that stand here are those at reset; where the spec states none they are a DESIGN CHOICE, log 11. -/
structure Thread where
  mode : Mode := .idle
  handler : Bool := false
  pc : DWord := 0
  pcn : DWord := 0
  npc : Option DWord := none
  cycle : DWord := 0
  sregs : Vector PWord 32 := Vector.replicate 32 {}
  aregs : Vector PDWord 16 := Vector.replicate 16 {}
  vregs : Vector Lanes 48 := Vector.replicate 48 Lanes.zero
  kregs : Vector (BitVec 128) 8 := Vector.replicate 8 0
  latches : Latches := {}
  flights : List Flight := []
  rep : Rep := {}
  frame : Frame := {}
  stat : DWord := 0
  fpx : DWord := 0
  ckptlim : DWord := 0
  trappc : DWord := 0
  trapcause : BitVec 16 := 0
  trapval : DWord := 0
  tscr : Vector DWord 4 := Vector.replicate 4 0
  sl : DWord := 4
  seeda : DWord := 0
  seedb : DWord := 0
  prof : DWord := 0
  smode : DWord := 0
  ebnd : DWord := 0
  waitcnt : DWord := 0
  tl : Vector Timeline 8 := Vector.replicate 8 {}
  bars : Vector Bar 128 := Vector.replicate 128 {}
  qs : Vector CQueue 4 := Vector.replicate 4 {}
  ntActive : Vector (Vector Word 32) 8 := Vector.replicate 8 (Vector.replicate 32 0)
  ntShadow : Vector (Vector Word 32) 8 := Vector.replicate 8 (Vector.replicate 32 0)
  arr : SArray := {}
  wbuf : Mem := []
  wbufPsn : SMap Origin := []
  objs : SMap Obj := []
  tq0 : List TileOp := []
  tq1 : List TileOp := []
  moveSeq : Nat := 0
  ev : Bool := false
  hold : Option Hold := none
  ring : Option RingReq := none
  stall : Nat := 0
  fetching : Option Nat := none
  fetched : List Nat := []
  landId : Nat := 0
  trapRec : Option TrapRec := none
  allocFail : Bool := false
  waitPage : Bool := false
  walkVa : Nat := 0
  walkBad : List (Nat × Psn) := []
  ckpt : Option DWord := none
  repeating : Bool := false
  susp : Bool := false
  yielded : Bool := false
  stop : Option StopReq := none
  tpend : Option TrapRec := none
  budget : Nat := 0
  lslot : Nat := 0
  ctx : Nat := 0
  gang : Bool := false
  gangNo : Nat := 0
  dx : Nat := 0
  dy : Nat := 0
  lead : Nat := 0
  task : Task := {}
  taskOpen : Bool := false
  rerunnable : Bool := true
  regionL1 : List (Nat × Nat) := []
  codeBase : DWord := 0
  codeLen : Nat := 0
  code : Mem := []
  codePsn : SMap Origin := []
  rputs : Nat := 0
  egress : List Egress := []
  xlat : List Xlat := []
  passed : Bool := false
  chkObjs : Option (SMap Obj) := none
  fpxNext : List (CsrOp × DWord) := []
  froze : Bool := false
  windowed : Bool := false
  deriving DecidableEq, Repr

/-- A pad: its bytes and the poisoned 64-bit words, by word index (R147, R168). -/
structure Pad where
  bytes : Mem := []
  psn : SMap Origin := []
  deriving DecidableEq, Repr

/-- KIND of a saved context (R138). -/
inductive SaveKind where
  | ckpt | immediate | frozen
  deriving DecidableEq, Repr

/-- A context in a save area (R136, R138): the thread, its L1, KIND, the CKPT table it named with the ranges saved (in the weight buffer
or not, start and length in bytes), whether the image is complete, and the keys under which its area lies in memory (R136). resumes: the KIND
that an area of KIND 3 takes again when the fault that froze the core was not one of its own launch (R145). -/
structure Saved where
  kind : SaveKind
  thread : Thread
  l1 : Pad
  cktab : DWord
  ranges : List (Bool × Nat × Nat) := []
  mask : BitVec 8
  complete : Bool
  version : Word
  key : Option Nat := none
  resumes : Option SaveKind := none
  deriving DecidableEq, Repr

/-- A preload on a core (R107): the task, whether it waits for the one that runs there, the bytes of its code, and in resident of the task
the regions brought so far. -/
structure Preload where
  task : Task
  dependent : Bool
  code : List MByte := []
  deriving DecidableEq, Repr

/-- A core (R155): its thread, its L1 unit pad, its two save areas (R136), and what outlives the thread. left: what the work of other
launches left in the registers that belong to a launch on this core (R161, R185), by slot, with the launch's identity. -/
structure Core where
  cid : Nat
  t : Thread := {}
  l1 : Pad := {}
  savedT : Option Saved := none
  savedD : Option Saved := none
  preload : Option Preload := none
  left : SMap (Nat × Thread) := []
  lastCtx : Option Nat := none
  lastLaunch : Option Nat := none
  protFrozen : Bool := false
  gated : Bool := false
  idleCycles : Nat := 0
  cseq : Word := 0
  deriving DecidableEq, Repr

/-- STATE codes of a hop (R25). -/
inductive HopState where
  | up | paused | retraining | degraded | down
  deriving DecidableEq, Repr

/-- The status word of a hop or a Xogus port (R25, R39), and the replays of the window in progress. -/
structure Hop where
  retryCnt : BitVec 16 := 0
  crcCnt : BitVec 16 := 0
  winRetry : BitVec 8 := 0
  modsX8 : BitVec 4 := 0
  spareUsed : Bool := false
  state : HopState := .up
  window : Nat := 0
  deriving DecidableEq, Repr

/-- A memory channel's status block (R36), the activations of each row in the refresh window, and the row whose refresh management is
running (R35). -/
structure Channel where
  ceCount : DWord := 0
  ueCount : DWord := 0
  tagCount : DWord := 0
  rfmCount : DWord := 0
  actMax : Word := 0
  actThr : BitVec 16 := 2048
  rows : SMap Nat := []
  refreshing : Option Nat := none
  deriving DecidableEq, Repr

/-- A packet for another device with its header (R42, R360): the hub's die, the spill page that holds it while the port's queue is
full, and the task that is given away by a steal (R126). -/
structure OutPacket where
  hdr : RemoteHdr
  member : Nat
  lslot : Nat
  pkt : List (BitVec 8)
  die : Nat
  page : Option Nat := none
  given : Option Nat := none
  deriving DecidableEq, Repr

/-- The TASK channel of a port or queue pair (R42, R50): credits, packets that wait, packets whose acceptance has not been heard, and
the counts of packets sent and acceptances heard. -/
structure TaskLine where
  credits : Nat := 32
  queue : List OutPacket := []
  flying : List OutPacket := []
  sent : Nat := 0
  heard : Nat := 0
  deriving DecidableEq, Repr

/-- A Xogus Link port (R39 to R42, R51, R56). -/
structure Port where
  link : Hop := {}
  lanes2 : Bool := false
  stale : Word := 0
  line : TaskLine := {}
  staged : List Contribution := []
  deriving DecidableEq, Repr

/-- An Ethernet port's status block (R51) and the priorities that pause frames hold (R47). -/
structure Eth where
  rxPkts : DWord := 0
  txPkts : DWord := 0
  unsupp : Word := 0
  stale : Word := 0
  ecnCe : Word := 0
  pfcRx : Word := 0
  up : Bool := false
  paused : BitVec 4 := 0
  deriving DecidableEq, Repr

/-- What the device puts around a packet of the transport (R47, R48): the port it leaves on, MAC and IP addresses, whether it goes in IPv4, DSCP, the
priority for flow control, and the ECN bits. -/
structure NetHdr where
  port : Nat
  smac : BitVec 48
  dmac : List (BitVec 8)
  src : List (BitVec 8)
  dst : List (BitVec 8)
  ipv4 : Bool
  dscp : Nat
  prio : Nat
  ecn : Nat
  deriving DecidableEq, Repr

/-- A memory key as the driver bound it (R49): a range of one context. -/
structure MemKey where
  ctx : Nat
  base : Nat
  len : Nat
  wr : Bool
  deriving DecidableEq, Repr

/-- What a queue pair has to send (R49): a packet of its own by its number, a packet of an answer to a read request, ACK or NAK. -/
inductive QMsg where
  | request (psn : Nat) (bytes : List (BitVec 8))
  | response (psn : Nat) (bytes : List (BitVec 8))
  | ack (psn : Nat) (nak : Bool)
  deriving DecidableEq, Repr

/-- A queue pair of the Isaledin transport (R47 to R50): the member it is bound to with the port and the addresses of its entry, SELF with its
address; expected and next packet sequence numbers, the packets not yet acknowledged and what a pause holds back; its TASK traffic; the
remote operations that it carries, by core, number and launch; the congestion notifications received; the packet that is counted and waits for a page. -/
structure QPair where
  port : Nat := 0
  member : Nat := 0
  ctx : Nat := 0
  rxPsn : BitVec 24 := 0
  txPsn : BitVec 24 := 0
  prio : Nat := 0
  unacked : List (Nat × List (BitVec 8)) := []
  unsent : List QMsg := []
  line : TaskLine := { credits := 16 }
  self : Nat := 0
  addr : List (BitVec 8) := []
  nhmac : List (BitVec 8) := []
  src : List (BitVec 8) := []
  dscp : Nat := 0
  ops : List (Nat × Nat × Nat) := []
  notified : Nat := 0
  counted : Option Nat := none
  deriving DecidableEq, Repr

/-- Q_STAT codes (R66). -/
inductive QStat where
  | running | torn | disabled
  deriving DecidableEq, Repr

/-- An address-space context's table entry (R66), the controller's tail of its queue (R68), the re-polls made (R69), and how often keys have
been generated for the context (R32). -/
structure Ctx where
  en : Bool := false
  frozen : Bool := false
  dlOk : Bool := false
  ptRoot : DWord := 0
  qBase : DWord := 0
  qHead : Word := 0
  qLog2 : BitVec 5 := 4
  rx0 : BitVec 5 := 0
  ry0 : BitVec 5 := 0
  rlog2w : BitVec 3 := 0
  rlog2h : BitVec 3 := 0
  dbBad : Word := 0
  qStat : QStat := .disabled
  errVec : BitVec 11 := 0
  tail : Word := 0
  tries : Nat := 0
  keyGen : Nat := 0
  mgmtFrozen : Bool := false
  deriving DecidableEq, Repr

/-- An inbound window (R78). -/
structure InWin where
  vbase : BitVec 48 := 0
  en : Bool := false
  wr : Bool := false
  rd : Bool := false
  ctx : BitVec 6 := 0
  reqId : BitVec 16 := 0
  len : BitVec 15 := 0
  err : BitVec 16 := 0
  deriving DecidableEq, Repr

/-- An outbound window (R79). -/
structure OutWin where
  bus : BitVec 52 := 0
  en : Bool := false
  len : Word := 0
  err : DWord := 0
  deriving DecidableEq, Repr

/-- A free-page pool of one strand: the two rings and the return stacks (R177). -/
structure Pool where
  ring64 : DWord := 0
  head64 : Word := 0
  tail64 : Word := 0
  ring2m : DWord := 0
  head2m : Word := 0
  tail2m : Word := 0
  ret64 : List Nat := []
  ret2m : List Nat := []
  deriving DecidableEq, Repr

/-- A translation-cache entry of a die (R175): context, page number, log2 of the page size, leaf. -/
structure TlbEntry where
  ctx : Nat
  vpage : Nat
  log2 : Nat
  leaf : DWord
  deriving DecidableEq, Repr

/-- The device registers of BAR 0 (R65, R175, R177), the context whose queue was served last (R69), and when
the self-test launch began (R83, R84). -/
structure DevRegs where
  hostFrozen : Bool := false
  failCode : BitVec 8 := 0
  devState : BitVec 4 := 0
  devTime : DWord := 0
  powerCap : BitVec 16 := 3600
  groupTab : DWord := 0
  addrTab : DWord := 0
  hridV : Bool := false
  hostRid : BitVec 16 := 0
  invVa : DWord := 0
  invGo : Bool := false
  invAll : Bool := false
  invCtx : BitVec 6 := 0
  leaked : Word := 0
  lowVec : BitVec 11 := 0
  lowMark : BitVec 16 := 256
  lastQueue : Nat := 63
  selfStart : DWord := 0
  deriving DecidableEq, Repr

/-- A launch record's fields (R71). -/
structure LaunchRec where
  weight : Nat := 0
  objCount : Nat := 0
  log2h : Nat := 0
  log2w : Nat := 0
  y0 : Nat := 0
  x0 : Nat := 0
  glog2h : Nat := 0
  glog2w : Nat := 0
  digest : Bool := false
  recov : Bool := false
  cmode : Nat := 0
  multi : Bool := false
  lowmode : Bool := false
  deadline : Bool := false
  task : Bool := false
  codeAddr : DWord := 0
  objAddr : DWord := 0
  first : DWord := 0
  wlBase : Word := 0
  wlShift : Nat := 0
  reach : Nat := 0
  sigma : Nat := 0
  handler : DWord := 0
  paramLen : Nat := 0
  ckptCyc : Word := 0
  wakeAddr : DWord := 0
  crecAddr : DWord := 0
  coalesce : Nat := 0
  vector : Nat := 0
  vecEn : Bool := false
  group : Nat := 0
  tbudget : Nat := 0
  launchId : Word := 0
  drawSeed : Word := 0
  draw : Bool := false
  drawHi : Word := 0
  drawLo : Word := 0
  seq : Word := 0
  ok : Bool := false
  deriving DecidableEq, Repr

/-- Status codes (R76). -/
inductive Status where
  | ok | badRecord | badRect | denied | faulted | aborted | frozen
  deriving DecidableEq, Repr

/-- A spill page (R123): its queue, by bucket number or 2^32 for the far bucket; records written; packets still in it. -/
structure SpillPage where
  pa : Nat
  queue : Nat
  written : Nat
  live : Nat
  deriving DecidableEq, Repr

/-- A hub's block for one launch (R113 to R129): the window buckets by absolute bucket number, the far bucket, head first; tasks with
PEND > 0; paused: by the HOLD of the launch's own hubs, gpaused: by one of the group (R125); held pushes, and those accepted after the acknowledgement of a pause; tasks in other places; counters. -/
structure HubBlock where
  fc : Nat := 0
  guard : Nat := 0
  reach : Nat := 0
  gc : Nat := 0
  gguard : Nat := 0
  paused : Bool := false
  acked : Bool := false
  gpaused : Bool := false
  buckets : SMap (List Task) := []
  far : List Task := []
  pending : List Task := []
  held : List Task := []
  late : List Task := []
  suspended : List Task := []
  running : List Task := []
  walking : List Task := []
  giving : List (Nat × Task) := []
  pages : List SpillPage := []
  asking : Bool := false
  pushed : Word := 0
  popped : Word := 0
  holds : Word := 0
  clamps : Word := 0
  stolenIn : Word := 0
  stolenOut : Word := 0
  retired : Nat := 0
  deriving DecidableEq, Repr

/-- What the floor keeper of a launch is doing (R115, R117). -/
inductive Keeper where
  | rest
  | proposing (p : Nat)
  | pausing
  deriving DecidableEq, Repr

/-- A dependence entry (R99, R100): the task, the declaration, its hull in device memory, and the hub indices at which it stands. -/
structure Dep where
  uid : Nat
  obj : Nat
  ty : Nat
  tx : Nat
  mode : Nat
  lo : Nat
  hi : Nat
  real : Bool
  homes : List Nat := []
  deriving DecidableEq, Repr

/-- A task whose outputs stand in the tile pool and are being stored (R102, R105): its hub's die, its core, its output regions by
index with their bytes. -/
structure Retire where
  task : Task
  die : Nat
  cid : Nat
  outs : List (Nat × List MByte)
  bytes : Nat
  deriving DecidableEq, Repr

/-- Where a launch stands between acceptance and report. -/
inductive Phase where
  | accepted | running | draining | heldReport
  deriving DecidableEq, Repr

/-- How far a group HOLD has come (R125): none; a push is held here; a wave has paused every device. -/
inductive GroupHold where
  | none | raised | paused
  deriving DecidableEq, Repr

/-- A launch in a controller slot (R69, R72 to R75, R109, R148). reported: how far its report has come, 1 from the commit of its shadows on, 2
once its digest is done (R74). kfc, acks: the keeper's floor and the acknowledgements it has by
hub; gp: the group floor proposed; owned: spill and parking pages; toFree: pages to return with their size; pool, parkedB: tile-pool
bytes by die; objCopy: entries of the object table read since OBJPUB (R184); stealFrom: the member to ask for tasks (R126). -/
structure Launch where
  ctx : Nat
  lrec : LaunchRec
  uid : Nat := 0
  phase : Phase := .accepted
  status : Status := .ok
  cause : Option Cause := none
  faults : Word := 0
  reruns : Word := 0
  tasks : Nat := 0
  tStart : Option DWord := none
  tEnd : DWord := 0
  flags : BitVec 16 := 0
  first : List (BitVec 8) := []
  hubs : SMap HubBlock := []
  keeper : Keeper := .rest
  kfc : Nat := 0
  acks : SMap (Nat × Nat) := []
  gp : Option Nat := none
  groupHold : GroupHold := .none
  deps : List Dep := []
  gangsLeft : List Nat := []
  gangsRun : List Nat := []
  retiring : List Retire := []
  pool : SMap Nat := []
  parkedB : SMap Nat := []
  lastWave : Option (List Nat) := none
  sent : Nat := 0
  heard : Nat := 0
  shadows : SMap Nat := []
  shadowPending : List (Nat × Nat × Bool) := []
  owned : List Nat := []
  toFree : List (Nat × Bool) := []
  replays : Nat := 0
  replayable : Bool := true
  remotes : Nat := 0
  objCopy : SMap (Option Obj) := []
  stealFrom : Option Nat := none
  reported : Nat := 0
  deriving DecidableEq, Repr

/-- A hub (R95, R103, R106, R121): generations; the slots in use with their launch; the dispatches that launches have left in this
round; the cores that wait for tile-pool space, in the order of their TEND. -/
structure Hub where
  gens : SMap Nat := []
  slots : SMap Nat := []
  credit : SMap Nat := []
  copyQ : List Nat := []
  deriving DecidableEq, Repr

/-- A fault record (R146). -/
structure FaultRec where
  time : DWord
  launchId : Word
  cause : Cause
  level : Nat
  ctx : Nat
  chiplet : Nat
  core : Nat
  origin : Psn
  handle : Word
  pc : DWord
  value : DWord
  save : DWord
  frozenCid : Option Nat
  deriving DecidableEq, Repr

/-- Kinds of equivalence-engine operation (R364). -/
inductive EqKind where
  | init | un | fd | sz | cnt | label | reduce | snap | undo | drop
  deriving DecidableEq, Repr

/-- Progress of an equivalence-engine operation (R226 to R234): not yet accepted; a find, of the second element or not; a link; a
size delta on its way; the forest held; every write performed. -/
inductive EqPhase where
  | start
  | find (second : Bool)
  | link
  | delta
  | hold
  | done
  deriving DecidableEq, Repr

/-- An equivalence-engine operation in flight (R223 to R234): its number on tl3 and its landing slot until the value is in it; a and b the
elements of its finds, seq its place among the accesses of its core, x the element whose home it acts at next, at' the die that it comes from; up and
back: a find that reads the parent of x's own parent for the element named, or is back at x to replace a parent by another; ra and rb the roots; dval the delta; resv the log
entries that it has reserved and not written; objX and objY the objects of an EQRL. -/
structure EqOp where
  id : Nat
  cid : Nat
  ctx : Nat
  lslot : Nat
  num : Nat
  pc : DWord
  land : Option Nat
  kind : EqKind
  desc : DWord
  a : Nat := 0
  b : Nat := 0
  x : Nat := 0
  at' : Nat := 0
  up : Option Nat := none
  back : Option (Nat × Nat) := none
  ra : Nat := 0
  rb : Nat := 0
  dval : Nat := 0
  resv : Nat := 0
  seq : Nat := 0
  phase : EqPhase := .start
  result : PDWord := {}
  objX : Option Obj := none
  objY : Option Obj := none
  deriving DecidableEq, Repr

/-- A peer-window read in flight (R79, R352): tag, entry, core, place of the data in its L1, the move it belongs to, and the answer once it
has come, kept until the move has all of its own. -/
structure PeerRead where
  tag : Nat
  oute : Nat
  cid : Nat
  l1 : Nat
  size : Nat
  q : Nat
  group : Nat
  got : Option (List MByte) := none
  deriving DecidableEq, Repr

/-- A vector's pending MSI-X message (R77). -/
structure Msix where
  vector : Nat
  expiry : Option DWord
  covers : List Word
  due : Bool
  deriving DecidableEq, Repr

/-- What leaves the device: to host memory, to peers, over the links, over the side band (R74 to R82, R361). -/
inductive Output where
  | notify (addr : DWord) (v : DWord)
  | msix (vector : Nat) (covers : List Word)
  | peerWrite (oute : Nat) (addr : Nat) (bytes : List (BitVec 8))
  | peerReadReq (tag : Nat) (oute : Nat) (addr : Nat) (size : Nat)
  | completion (req : Nat) (bytes : List (BitVec 8)) (ep : Bool)
  | completerAbort (req : Nat)
  | unsupportedRequest (req : Nat)
  | taskPacket (port : Nat) (p : OutPacket)
  | put (p : PutReq)
  | contribution (member : Nat) (con : Contribution)
  | ack (member : Nat) (cid : Nat) (n : Nat) (fate : Nat)
  | credit (port : Nat)
  | mirror (e : Nat) (va : Nat) (bytes : List (BitVec 8))
  | journal (e : Nat) (bytes : List (BitVec 8))
  | rdma (qp : Nat) (psn : Nat) (hdr : NetHdr) (bytes : List (BitVec 8))
  | rdmaAck (qp : Nat) (psn : Nat) (nak : Bool) (hdr : NetHdr)
  | steal (lslot : Nat) (member : Nat)
  | wave (lslot : Nat) (share : WaveShare)
  | telemetry (power : Nat) (temps : List Nat) (cap : BitVec 16) (devState : BitVec 4)
  | block (bytes : List (BitVec 8))
  | faultRecord (r : Option FaultRec)
  | quote (bytes : List (BitVec 8))
  deriving DecidableEq, Repr

/-- Retained snapshot and journal of the member this device protects, by group entry (R59, R60). -/
structure Buddy where
  snapshot : List (BitVec 8) := []
  journal : List (List (BitVec 8)) := []
  overflowed : Bool := false
  deriving DecidableEq, Repr

/-- Why the machine stops with a fault. Only an access to an address that the spec says does not exist in device memory
raises one (R28); safe: the machine stops where the device has no such place. -/
inductive Fault where
  /-- A device step names a physical address of 1 TiB or above, which R28 does not give. Raised by the memory steps. -/
  | noSuchAddress (pa : Nat)
  deriving DecidableEq, Repr

/-- Why an instruction or step has no meaning here. -/
inductive Refusal where
  /-- The instruction is not modelled yet. Raised by an arm of exec; safe: no next state is claimed. -/
  | notModelled (mnemonic : String)
  deriving DecidableEq, Repr

/-- The machine. -/
structure State where
  /-- The core that moves (R155). -/
  core : Core
  /-- The other cores that hold anything but their reset state, by number 32 y + x (R85). -/
  parked : SMap Core
  /-- Device memory, 1 TiB by physical address (R28). -/
  mem : Mem
  /-- Poisoned sectors of device memory: uncorrectable, by sector number (R31, R34). -/
  ue : SMap Origin
  /-- Symbols in error of sectors not read since (R31). -/
  symErr : SMap Nat
  /-- Sectors stored encrypted, with the number of the keys they are under: 64 times the generation of a context's keys, plus the context
  (R32). -/
  enc : SMap Nat
  /-- L2 cluster pads, by cluster 16 (y >> 1) + (x >> 1) (R168). -/
  l2 : SMap Pad
  /-- L3 die pads, by die (R168). -/
  l3 : SMap Pad
  /-- Fabric hop status words (R25). -/
  hops : Vector Hop 89
  /-- Xogus Link ports (R39, R51). -/
  ports : Vector Port 64
  /-- Ethernet ports (R51). -/
  eths : Vector Eth 2
  /-- Queue pairs of the Isaledin transport (R49). -/
  qps : SMap QPair
  /-- Memory keys that the driver has bound, by number (R49). -/
  keys : SMap MemKey
  /-- The position of the own pod that the spare has taken, whose traffic leaves through the own port that faces the spare (R45). -/
  spareAt : Option Nat
  /-- Memory channel status (R36). -/
  chans : Vector Channel 128
  /-- BAR 0 device registers (R65, R175, R177). -/
  dev : DevRegs
  /-- Context table (R66). -/
  ctxs : Vector Ctx 64
  /-- Inbound windows (R78). -/
  inWins : Vector InWin 64
  /-- Outbound windows (R79). -/
  outWins : Vector OutWin 16
  /-- Free-page pools, one per strand (R29, R177). -/
  pools : Vector Pool 8
  /-- Translation caches, by die (R175). -/
  tlbs : SMap (List TlbEntry)
  /-- Launches in their controller slots (R69). -/
  launches : SMap Launch
  /-- Hubs, by die (R95, R121). -/
  hubs : SMap Hub
  /-- The context that an L2 or L3 pad served last, by cluster and by die (R161). -/
  l2Ctx : SMap Nat
  l3Ctx : SMap Nat
  /-- Declared draw ranges, newest first, at most 256 (R73). -/
  draws : List (Word × Word × Word)
  /-- Fault log, oldest first, at most 1,024 (R146). -/
  faultLog : List FaultRec
  /-- MSI-X state of vectors with a pending message (R77). -/
  msix : List Msix
  /-- Unmasked vectors (R77). -/
  unmasked : List Nat
  /-- Addresses and data of the MSI-X table, by their place in BAR 4 (R63). -/
  msixTab : Mem
  /-- Notifications held while the host interface is frozen (R81). -/
  heldNotes : List (DWord × DWord)
  /-- MSI-X messages held while the host interface is frozen (R81). -/
  heldMsix : List (Nat × List Word)
  /-- The order of what is held: true for a message, false for a notification (R81). -/
  heldOrder : List Bool
  /-- Launches whose notification and message both wait for release, in order of completion (R81). -/
  waitingReports : List Nat
  /-- Equivalence-engine operations in flight (R223). -/
  eqOps : List EqOp
  /-- Next identity of an equivalence operation or peer read. -/
  nextId : Nat
  /-- Peer reads in flight (R79). -/
  peerReads : List PeerRead
  /-- Engine accesses held until a page is placed, and whether the time of R178 is over. -/
  holds : List (HoldWho × Bool)
  /-- Snapshots and journals held for other members, by group entry (R59, R60). -/
  buddies : SMap Buddy
  /-- Journal entries that this device has still to replay as a spare, by group entry (R61). -/
  catchUp : SMap (List (List (BitVec 8)))
  /-- Snapshots under way, by group entry: the core and the context that wrote SNAP_GO (R59). -/
  snaps : SMap (Nat × Nat)
  /-- Journal appends not yet acknowledged, by group entry (R60). -/
  appends : SMap Nat
  /-- Attestation mailbox (R82). -/
  mailbox : Mem
  /-- Firmware staged by FW_UPDATE, and committed images with the minimum version they raised (R82). -/
  fwStaged : List (BitVec 8)
  fwImages : List (List (BitVec 8))
  fwMin : Nat
  /-- VERSION of save images that this device writes and accepts (R138, R140). -/
  imgVersion : Word
  /-- Repair threshold (R26). -/
  repairThr : Nat
  /-- Hops that wait for the controller's repair, in the order in which it takes them: when each crossed the threshold, the hop, and whether
  it is only to be retrained (R26). -/
  repairs : List (Nat × Nat × Bool)
  /-- Clock steps in sixteenths of nominal (R38), whether the module has power (R80) and the PCI Express link is up (R80). -/
  clockSteps : Nat
  powered : Bool
  pcieUp : Bool
  /-- What has left the device, newest first. -/
  outbox : List Output
  /-- Device steps and outside inputs that are due (the model's own field: which moves next is open; DESIGN CHOICE, log 1). -/
  agenda : List Instr
  /-- Turns taken: the argument of the free values (the model's own field, log 1). -/
  tick : Nat
  /-- Who moves next (the model's own field, log 1): 0 the core, k + 1 the k-th due step, then the parked cores. -/
  turn : Nat
  deriving DecidableEq, Repr

/-- A core as reset leaves it: no work, registers as R157 to R161 and R320, R321 give them. -/
def Core.reset (cid : Nat) : Core := { cid := cid }

/-- The machine right after reset (R83: DEV_STATE 0; every register at the reset value of its map). Registers for
which the spec states no reset value hold the values of log 11, memory reads as 0 (log 12); both DESIGN CHOICE, unsafe. -/
def State.reset : State where
  core := Core.reset 0
  parked := []
  mem := []
  ue := []
  symErr := []
  enc := []
  l2 := []
  l3 := []
  hops := Vector.replicate 89 {}
  ports := Vector.replicate 64 {}
  eths := Vector.replicate 2 {}
  qps := []
  keys := []
  spareAt := none
  chans := Vector.replicate 128 {}
  dev := {}
  ctxs := Vector.replicate 64 {}
  inWins := Vector.replicate 64 {}
  outWins := Vector.replicate 16 {}
  pools := Vector.replicate 8 {}
  tlbs := []
  launches := []
  hubs := []
  l2Ctx := []
  l3Ctx := []
  draws := []
  faultLog := []
  msix := []
  unmasked := []
  msixTab := []
  heldNotes := []
  heldMsix := []
  heldOrder := []
  waitingReports := []
  eqOps := []
  nextId := 0
  peerReads := []
  holds := []
  buddies := []
  catchUp := []
  snaps := []
  appends := []
  mailbox := []
  fwStaged := []
  fwImages := []
  fwMin := 0
  imgVersion := 0x00090001
  repairThr := 64
  repairs := []
  clockSteps := 16
  powered := true
  pcieUp := true
  outbox := []
  agenda := []
  tick := 0
  turn := 0

end Sys2Proof.Machine
end

