-- ==== Sys2Proof/Machine/Ops.lean ====
section
/-! DEFINITION. The named operations over the state: sparse maps and bytes, the cores, results in flight and latches, faults
and their containment, taking a trap and returning from one. -/

namespace Sys2Proof.Machine

/-- What a meaning answers. -/
abbrev Out := Host.Outcome State Fault Refusal

/-! ### Sparse maps and bytes -/

/-- The value at a key. -/
def SMap.find? {α : Type} : SMap α → Nat → Option α
  | [], _ => none
  | (k, v) :: m, a => if a = k then some v else SMap.find? m a

/-- The value at a key, or a default. -/
def SMap.getD {α : Type} (m : SMap α) (a : Nat) (d : α) : α := (SMap.find? m a).getD d

/-- The map with a key removed. -/
def SMap.erase {α : Type} (m : SMap α) (a : Nat) : SMap α := m.filter (fun x => x.1 != a)

/-- An entry put before the first of a higher key. -/
def SMap.place {α : Type} : SMap α → Nat → α → SMap α
  | [], a, v => [(a, v)]
  | (k, w) :: m, a, v => if a < k then (a, v) :: (k, w) :: m else (k, w) :: SMap.place m a v

/-- The map with a key set, in canonical form. -/
def SMap.insert {α : Type} (m : SMap α) (a : Nat) (v : α) : SMap α := SMap.place (SMap.erase m a) a v

/-- The map with a key set or removed. -/
def SMap.put {α : Type} (m : SMap α) (a : Nat) : Option α → SMap α
  | some v => SMap.insert m a v
  | none => SMap.erase m a

/-- What an unlisted byte reads as: zero (R83, R161). -/
def Mem.blank : Byte := 0

/-- One byte of a memory. -/
def Mem.get (m : Mem) (a : Nat) : Byte := SMap.getD m a Mem.blank

/-- A memory with one byte written, in canonical form. -/
def Mem.set (m : Mem) (a : Nat) (b : Byte) : Mem := if b = Mem.blank then SMap.erase m a else SMap.insert m a b

/-- The canonical form: addresses strictly rising and no entry that reads as an unlisted byte does. -/
def Mem.wf : Mem → Bool
  | [] => true
  | [(_, b)] => b != Mem.blank
  | (a, b) :: (a', b') :: m => b != Mem.blank && decide (a < a') && Mem.wf ((a', b') :: m)

/-- The n bytes from an address. -/
def Mem.read (m : Mem) (a : Nat) : Nat → List Byte
  | 0 => []
  | n + 1 => Mem.get m a :: Mem.read m (a + 1) n

/-- A memory with bytes written from an address on, in ascending order (R190). -/
def Mem.write (m : Mem) (a : Nat) : List Byte → Mem
  | [] => m
  | b :: bs => Mem.write (Mem.set m a b) (a + 1) bs

/-- A memory with a range zeroed. -/
def Mem.clear (m : Mem) (a n : Nat) : Mem := m.filter (fun c => !(a ≤ c.1 && c.1 < a + n))

/-- A map with a range of keys removed. -/
def SMap.clear {α : Type} (m : SMap α) (a n : Nat) : SMap α := m.filter (fun c => !(a ≤ c.1 && c.1 < a + n))

/-- A map with a range of keys set to one value. -/
def SMap.fill {α : Type} (m : SMap α) (a n : Nat) (v : α) : SMap α :=
  m.filter (fun c => c.1 < a) ++ (List.range n).map (fun i => (a + i, v)) ++ m.filter (fun c => a + n ≤ c.1)

/-! ### Pads -/

/-- Bytes of a pad. -/
def Pad.read (p : Pad) (a n : Nat) : List Byte := Mem.read p.bytes a n

/-- The poison of the first poisoned 64-bit word among the n bytes at a (R147). -/
def Pad.psnAt (p : Pad) (a n : Nat) : Psn :=
  (List.range ((a + n + 7) / 8 - a / 8)).findSome? (fun i => SMap.find? p.psn (a / 8 + i))

/-- Stores clean bytes. A word that is overwritten whole loses its poison; one written in part keeps it (R147, R312). -/
def Pad.write (p : Pad) (a : Nat) (bs : List Byte) : Pad :=
  let whole := (a + 7) / 8
  let last := (a + bs.length) / 8
  { bytes := Mem.write p.bytes a bs, psn := SMap.clear p.psn whole (last - whole) }

/-- Marks the 64-bit words that hold the n bytes at a as poisoned. -/
def Pad.poison (p : Pad) (a n : Nat) (o : Origin) : Pad :=
  { p with psn := (List.range ((a + n + 7) / 8 - a / 8)).foldl (fun m i => SMap.insert m (a / 8 + i) o) p.psn }

/-- Stores bytes that carry a poison mark: clean as Pad.write, else poisoned. -/
def Pad.put (p : Pad) (a : Nat) (bs : List Byte) : Psn → Pad
  | none => p.write a bs
  | some o => (p.write a bs).poison a bs.length o

/-! ### Cores, agenda, outbox -/

/-- The core of a number: the one that moves, a parked one, or one in its reset state. -/
def State.coreAt (s : State) (cid : Nat) : Core :=
  if cid = s.core.cid then s.core else SMap.getD s.parked cid (Core.reset cid)

/-- The state with a core replaced. -/
def State.setCore (s : State) (c : Core) : State :=
  if c.cid = s.core.cid then { s with core := c } else { s with parked := SMap.insert s.parked c.cid c }

/-- The state with a change made to the core of a number. -/
def State.onCore (s : State) (cid : Nat) (f : Core → Core) : State := s.setCore { f (s.coreAt cid) with cid := cid }

/-- The state with a change made to the thread of the core that moves. -/
def State.mapT (s : State) (f : Thread → Thread) : State := { s with core := { s.core with t := f s.core.t } }

/-- The state with a change made to the L1 of the core that moves. -/
def State.mapL1 (s : State) (f : Pad → Pad) : State := { s with core := { s.core with l1 := f s.core.l1 } }

/-- A device step that is now due. -/
def State.push (s : State) (i : Instr) : State := { s with agenda := s.agenda ++ [i] }

/-- Something leaves the device. -/
def State.emit (s : State) (o : Output) : State := { s with outbox := o :: s.outbox }

/-- Mesh coordinates, stream die, number in the die, cluster and strand of a core (R20, R85, R169). -/
def meshX (cid : Nat) : Nat := cid % 32
def meshY (cid : Nat) : Nat := cid / 32
def dieOf (cid : Nat) : Nat := meshX cid / 4 + 8 * (meshY cid / 4)
def coreInDie (cid : Nat) : Nat := 4 * (meshY cid % 4) + meshX cid % 4
def clusterOf (cid : Nat) : Nat := 16 * (meshY cid / 2) + meshX cid / 2
def strandOf (cid : Nat) : Nat := dieOf cid / 8
def cidOf (x y : Nat) : Nat := 32 * y + x

/-- The core of a die by its number in the die (R85). -/
def cidInDie (die n : Nat) : Nat := cidOf (4 * (die % 8) + n % 4) (4 * (die / 8) + n / 4)

/-- Whether a core lies in a rectangle (R86). -/
def inRect (x0 y0 log2w log2h cid : Nat) : Bool :=
  x0 ≤ meshX cid && meshX cid < x0 + 2 ^ log2w && y0 ≤ meshY cid && meshY cid < y0 + 2 ^ log2h

def LaunchRec.has (r : LaunchRec) (cid : Nat) : Bool := inRect r.x0 r.y0 r.log2w r.log2h cid

/-- The cores of a launch's rectangle. -/
def LaunchRec.cores (r : LaunchRec) : List Nat :=
  (List.range (2 ^ r.log2h)).flatMap (fun j => (List.range (2 ^ r.log2w)).map (fun i => cidOf (r.x0 + i) (r.y0 + j)))

/-- The launch's dies, in ascending number: the list index is the hub index (R87). -/
def LaunchRec.dies (r : LaunchRec) : List Nat := (List.range 64).filter (fun d => r.cores.any (fun c => dieOf c == d))

/-- The launch that the moving core's thread belongs to. -/
def State.launch? (s : State) : Option Launch := SMap.find? s.launches s.core.t.lslot

/-- The state with a change made to a launch, if the slot holds one. -/
def State.onLaunch (s : State) (l : Nat) (f : Launch → Launch) : State :=
  match SMap.find? s.launches l with
  | some x => { s with launches := SMap.insert s.launches l (f x) }
  | none => s

/-- The record of the moving core's launch. -/
def State.lrec (s : State) : LaunchRec := ((s.launch?).map (·.lrec)).getD {}

/-- The trap handler's address of the moving core's launch; 0: none (R71, R141). -/
def State.handlerAddr (s : State) : DWord := s.lrec.handler

/-! ### Latches and results in flight -/

/-- A queue with an entry pushed as b0 (R15). -/
def latchPush {α : Type} (q : Vector α 8) (v : α) : Vector α 8 :=
  #v[v, q[0], q[1], q[2], q[3], q[4], q[5], q[6]]

/-- Writes an s register; writes to s0 are discarded (R156). -/
def Thread.setS (t : Thread) (d : BitVec 5) (v : PWord) : Thread :=
  if d = 0 then t else { t with sregs := t.sregs.set d.toNat v d.isLt }

/-- Reads an s register; s0 reads 0 (R156). -/
def Thread.getS (t : Thread) (d : BitVec 5) : PWord := if d = 0 then {} else t.sregs[d.toNat]

/-- Reads an a register. -/
def Thread.getA (t : Thread) (d : BitVec 4) : PDWord := t.aregs[d.toNat]

/-- Writes an a register. -/
def Thread.setA (t : Thread) (d : BitVec 4) (v : PDWord) : Thread := { t with aregs := t.aregs.set d.toNat v d.isLt }

/-- Writes the register that a 6-bit destination code of class r names: s0–s31 or a0–a15 (R240, R241). -/
def Thread.setR (t : Thread) (d : BitVec 6) (v : PDWord) : Thread :=
  if d < 32 then t.setS (d.truncate 5) ⟨v.val.low, v.psn⟩
  else if d < 48 then t.setA (d.truncate 4) v
  else t

/-- Reads a v register; codes above 47 name none. -/
def Thread.getV (t : Thread) (d : BitVec 6) : Lanes := if h : d.toNat < 48 then t.vregs[d.toNat] else Lanes.zero

/-- Writes the lanes of a v register that the mask enables (R295). -/
def Thread.setV (t : Thread) (d : BitVec 6) (mask : BitVec 128) (v : Lanes) : Thread :=
  if h : d.toNat < 48 then
    { t with vregs := t.vregs.set d.toNat (Vector.ofFn (fun l : Fin 128 => if mask.getLsbD l then v[l] else t.vregs[d.toNat][l])) h }
  else t

/-- Reads and writes a k register. -/
def Thread.getK (t : Thread) (d : BitVec 3) : BitVec 128 := t.kregs[d.toNat]
def Thread.setK (t : Thread) (d : BitVec 3) (m : BitVec 128) : Thread := { t with kregs := t.kregs.set d.toNat m d.isLt }

/-- Every lane holding one value. -/
def Lanes.all (v : PWord) : Lanes := Vector.replicate 128 v

/-- The lanes of a result with those outside the mask zero: what the latch queue takes (R295). -/
def Lanes.masked (mask : BitVec 128) (v : Lanes) : Lanes := Vector.ofFn fun l : Fin 128 => if mask.getLsbD l then v[l] else {}

/-- A mask as a packet of lanes that hold 1 or 0 (R295). -/
def kLanes (m : BitVec 128) : Lanes := Vector.ofFn (fun l : Fin 128 => { val := if m.getLsbD l then 1 else 0, psn := none })

/-! ### Timelines (R185, R292) -/

/-- Takes the next number of an engine timeline. -/
def Thread.takeNum (t : Thread) (k : Fin 8) : Thread × Nat :=
  let x := t.tl[k]
  ({ t with tl := t.tl.set k { x with issued := x.issued + 1 } }, x.issued + 1)

/-- The largest n such that every operation numbered n or below has completed. -/
def tlCatch (fuel : Nat) (v : Nat) (done : List Nat) : Nat × List Nat :=
  match fuel with
  | 0 => (v, done)
  | fuel + 1 => if done.contains (v + 1) then tlCatch fuel (v + 1) (done.erase (v + 1)) else (v, done)

/-- An operation of a timeline completes; a change of value sets EV (R185, R292). -/
def Thread.complete (t : Thread) (k : Fin 8) (n : Nat) : Thread :=
  let x := t.tl[k]
  let r := tlCatch (x.done.length + 1) x.val (n :: x.done)
  { t with tl := t.tl.set k { x with val := r.1, done := r.2 }, ev := t.ev || r.1 != x.val }

/-- A timeline raised to a value, which it keeps if it is higher (R58, R185, R353). -/
def Thread.raise (t : Thread) (k : Fin 8) (v : Nat) : Thread :=
  let x := t.tl[k]
  { t with tl := t.tl.set k { x with val := max x.val v }, ev := t.ev || x.val < v }

/-! ### Control registers and results -/

/-- The writable bits of each control register, or none where R157 gives no write. -/
def csrMask : Nat → Option DWord
  | 0 => some 0xFFFFFFFFFFF000E0#64
  | 5 => some 0x0000000000003F1F#64
  | 6 => some 0xFFFFFFFFFFFFFFFF#64
  | 7 => some 0x000000000000003F#64
  | 8 => some 0xFFFFFFFFFFFFFFFF#64
  | 11 | 12 | 13 | 14 => some 0xFFFFFFFFFFFFFFFF#64
  | 16 => some 0x000000000000001F#64
  | 17 | 18 => some 0x000000000000FFFF#64
  | 19 => some 0x00000000000000FF#64
  | 20 => some 0x000000000000FF80#64
  | 22 => some 0xFFFFFFFFFFFFFFFF#64
  | _ => none

/-- The stored value of a writable control register. -/
def Thread.csrVal (t : Thread) : Nat → DWord
  | 0 => t.stat | 5 => t.fpx | 6 => t.ckptlim | 8 => t.trappc
  | 11 => t.tscr[0] | 12 => t.tscr[1] | 13 => t.tscr[2] | 14 => t.tscr[3]
  | 16 => t.sl | 17 => t.seeda | 18 => t.seedb | 19 => t.prof | 20 => t.smode | 22 => t.waitcnt
  | _ => 0

/-- A control register replaced. -/
def Thread.setCsr (t : Thread) (n : Nat) (v : DWord) : Thread :=
  match n with
  | 0 => { t with stat := v } | 5 => { t with fpx := v } | 6 => { t with ckptlim := v } | 8 => { t with trappc := v }
  | 11 => { t with tscr := t.tscr.set 0 v } | 12 => { t with tscr := t.tscr.set 1 v }
  | 13 => { t with tscr := t.tscr.set 2 v } | 14 => { t with tscr := t.tscr.set 3 v }
  | 16 => { t with sl := v } | 17 => { t with seeda := v } | 18 => { t with seedb := v }
  | 19 => { t with prof := v } | 20 => { t with smode := v } | 22 => { t with waitcnt := v }
  | _ => t

/-- The value a field with limits takes (R320, R321): SL.M outside 4 to 16, PROF.N above 0x0C and SMODE.ORM above 3 leave
their field unchanged. -/
def csrLimits (n : Nat) (old new : DWord) : DWord :=
  match n with
  | 16 => if 4 ≤ bits new.toNat 4 0 ∧ bits new.toNat 4 0 ≤ 16 then new else old
  | 19 => if bits new.toNat 7 0 ≤ 0x0C then new else old
  | 20 => if bits new.toNat 13 11 ≤ 3 then new else putBits new 13 11 (bits old.toNat 13 11)
  | _ => new

/-- A control-register write on the thread (R285): read-only and reserved fields keep their values. -/
def Thread.csrWrite (t : Thread) (n : Nat) (op : CsrOp) (v : DWord) : Thread :=
  match csrMask n with
  | none => t
  | some mask =>
    let old := t.csrVal n
    let full := match op with
      | .write => v
      | .set => old ||| v
      | .clear => old &&& ~~~v
    t.setCsr n (csrLimits n old ((old &&& ~~~mask) ||| (full &&& mask)))

/-- Word w of a shadow nest table written (R323). -/
def Thread.setNt (t : Thread) (nt w : Nat) (v : Word) : Thread :=
  if h : nt < 8 then
    if h' : w < 32 then { t with ntShadow := t.ntShadow.set nt (t.ntShadow[nt].set w v h') h } else t
  else t

/-- Applies a result whose cycle has come: the register write unless suppressed, and the latch push (R15, R162). -/
def Thread.apply (t : Thread) : Effect → Thread
  | .cResult d w v =>
    let t := if w then t else t.setR d v
    { t with latches := { t.latches with c := latchPush t.latches.c v } }
  | .mResult d v q =>
    let t := t.setR d v
    { t with latches := { t.latches with m := latchPush t.latches.m ⟨q, v.psn⟩ } }
  | .land _ d v _ =>
    let v := v.getD {}
    let t := t.setS d ⟨v.val.low, v.psn⟩
    { t with latches := { t.latches with m := latchPush t.latches.m v } }
  | .vResult d w mask v =>
    let t := if w then t else t.setV d mask v
    { t with latches := { t.latches with v := latchPush t.latches.v (Lanes.masked mask v) } }
  | .kResult d w m =>
    let t := if w then t else t.setK (d.truncate 3) m
    { t with latches := { t.latches with v := latchPush t.latches.v (kLanes m) } }
  | .vsResult d w v =>
    let t := if w then t else t.setS (d.truncate 5) v
    { t with latches := { t.latches with v := latchPush t.latches.v (Lanes.all v) } }
  | .sResult d v =>
    let t := t.setV d (BitVec.allOnes 128) v
    { t with latches := { t.latches with s := latchPush t.latches.s v } }
  | .csr n op v => t.csrWrite n op v
  | .ntSet nt w v => t.setNt nt w v
  | .ntClear nt => if h : nt < 8 then { t with ntShadow := t.ntShadow.set nt (Vector.replicate 32 0) h } else t
  | .ebnd v => { t with ebnd := v }
  | .fpFlags f => { t with fpx := t.fpx ||| f.zeroExtend 64 }
  | .statBit b => { t with stat := t.stat ||| (1 <<< b) }
  | .tlRead d k =>
    let v : DWord := BitVec.ofNat 64 t.tl[k].val
    let t := t.setR d ⟨v, none⟩
    { t with latches := { t.latches with m := latchPush t.latches.m ⟨v, none⟩ } }
  | .tlRaise k v => t.raise k v

/-- Whether an effect is a hardware update, which follows the writes of its cycle (R286). -/
def Effect.isUpdate : Effect → Bool
  | .ebnd _ | .fpFlags _ | .statBit _ | .tlRaise _ _ => true
  | _ => false

/-- Whether a flight is a landing load that is due and whose data has not returned: the core freezes (R167). -/
def Flight.late (f : Flight) : Bool :=
  match f.fx with
  | .land _ _ _ due => f.off == 0 && due != some 0
  | _ => false

/-- Whether the core is frozen by a late landing. -/
def Thread.late (t : Thread) : Bool := t.flights.any Flight.late

/-- Applies every result that is due: writes in issue order, then hardware updates (R163, R286). -/
def Thread.settle (t : Thread) : Thread :=
  if t.late then t
  else
    let due := t.flights.filter (fun f => f.off == 0)
    let rest := t.flights.filter (fun f => f.off != 0)
    let t := { t with flights := rest }
    let t := (due.filter (fun f => !f.fx.isUpdate)).foldl (fun t f => t.apply f.fx) t
    (due.filter (fun f => f.fx.isUpdate)).foldl (fun t f => t.apply f.fx) t

/-- One core cycle passes for the data on its way to a landing slot (R166, R167). -/
def Effect.cycle : Effect → Effect
  | .land id d v (some k) => .land id d v (some (k - 1))
  | x => x

/-- One flight whose check stage is made ahead of its cycle (R165): a hardware update takes effect, a timeline is read. -/
def Thread.pinOne (t : Thread) (f : Flight) : Thread :=
  if f.fx.isUpdate then t.apply f.fx
  else match f.fx with
    | .tlRead d k =>
      let v : DWord := BitVec.ofNat 64 t.tl[k].val
      { t with flights := t.flights ++ [{ f with fx := .mResult d ⟨v, none⟩ v }] }
    | _ => { t with flights := t.flights ++ [f] }

/-- The check stages of the bundles already issued are made at once, in issue order (R165): at a hold, a freeze or a trap. -/
def Thread.pin (t : Thread) : Thread := t.flights.foldl Thread.pinOne { t with flights := [] }

/-- One core cycle passes outside the clock domain of the core: only data on its way to the slots moves. -/
def Thread.tickData (t : Thread) : Thread :=
  let t := t.pin
  { t with flights := t.flights.map (fun f => { f with fx := f.fx.cycle }) }

/-- Every queue rewrite whose cycles have passed completes and raises tl5 (R318). -/
def Thread.endVqbal (t : Thread) : Thread :=
  let done := (t.qs.toList.filter (fun q => q.left == 0 && q.num != 0)).map (fun q => q.num)
  let t := done.foldl (fun (t : Thread) n => t.complete 5 n) t
  { t with qs := t.qs.map (fun q => if q.left = 0 then { q with num := 0 } else q) }

/-- The rewrites in progress completed at once: before a stop saves the context, and when the work ends (R318). -/
def Thread.rushVqbal (t : Thread) : Thread := ({ t with qs := t.qs.map (fun q => { q with left := 0 }) } : Thread).endVqbal

/-- A core cycle in which a bundle waits at issue: no counted cycle, but the rewrites of queues go on, so that a wait for one ends (R318,
R353). -/
def Thread.tickWait (t : Thread) : Thread :=
  let t := t.tickData
  ({ t with qs := t.qs.map (fun q => { q with left := q.left - 1 }) } : Thread).endVqbal

/-- One counted cycle passes for the results in flight and the compaction queues (R16, R318): in handler mode the count of the trapped context
stands still (R141). -/
def Thread.tickFlights (t : Thread) : Thread :=
  ({ t with
    flights := t.flights.map (fun f => { off := f.off - 1, fx := f.fx.cycle })
    qs := t.qs.map (fun q => { q with busy := if t.handler then q.busy else q.busy - 1, hbusy := q.hbusy - 1, left := q.left - 1 }) } : Thread).endVqbal

/-! ### Results in flight -/


/-- Puts a result in flight: it takes effect lat cycles after this bundle (R16). -/
def State.later (s : State) (lat : Nat) (fx : Effect) : State :=
  s.mapT fun t => { t with flights := t.flights ++ [⟨lat, fx⟩] }

/-- Sets sticky bits when the check stage is made, two cycles after issue (R165, R286). -/
def State.statSticky (s : State) (bit : Nat) : State := s.later 2 (.statBit bit)
def State.fpSticky (s : State) (f : BitVec 5) : State := if f = 0 then s else s.later 2 (.fpFlags f)

/-- Landing slots in use (R166). -/
def Thread.landings (t : Thread) : Nat :=
  (t.flights.filter (fun f => match f.fx with | .land .. => true | _ => false)).length

/-- Data for a landing slot, wherever the flight stands now: in flight or in the trap frame. -/
def Thread.fillLand (t : Thread) (id : Nat) (v : PDWord) : Thread :=
  let f := fun (x : Flight) => match x.fx with
    | .land i d none k => if i = id then { x with fx := .land i d (some v) k } else x
    | _ => x
  { t with flights := t.flights.map f, frame := { t.frame with flights := t.frame.flights.map f } }

/-- The data of a landing slot has come back (R166). -/
def Thread.landBack (t : Thread) (id : Nat) : Thread :=
  let f := fun (x : Flight) => match x.fx with
    | .land i d (some v) _ => if i = id then { x with fx := .land i d (some v) (some 0) } else x
    | _ => x
  { t with flights := t.flights.map f, frame := { t.frame with flights := t.frame.flights.map f } }

/-- A landing load takes a slot. near: the data comes from the own L1, 4 core cycles after issue (R167, R170); otherwise the
time is open, and an answer that is known comes back by a step of its own (R166). -/
def State.land (s : State) (d : BitVec 5) (delta : Nat) (v : Option PDWord) (near : Bool) : State :=
  let id := s.core.t.landId
  let s := s.mapT fun t => { t with
    landId := id + 1, flights := t.flights ++ [⟨delta, .land id d v (if near then some 4 else none)⟩] }
  if near || v.isNone then s else s.push (.landingDataReturn s.core.cid id)

/-- The code of a cause (R144). -/
def Cause.code : Cause → BitVec 16
  | .illegal => 1 | .trap => 2 | .arith => 3 | .align => 4 | .page => 5 | .bound => 6 | .poison => 7 | .prot => 8
  | .tag => 9 | .budget => 10 | .badPacket => 11 | .succStale => 12 | .depStuck => 13 | .wlPendfull => 14
  | .wlSpill => 15 | .double => 16 | .imgVersion => 17 | .shadowBusy => 18 | .hubErr => 19 | .device => 20

/-! ### Control registers as they read (R157) -/

/-- MESHXY (R159). -/
def meshxy (cid : Nat) : DWord :=
  BitVec.ofNat 64 (dieOf cid * 2 ^ 14 + coreInDie cid * 2 ^ 10 + meshY cid * 2 ^ 5 + meshX cid)

/-- OBJWIN (R157, R184). -/
def Thread.objwin (t : Thread) : DWord := BitVec.ofNat 64 (t.objs.foldl (fun m x => m + 2 ^ x.1) 0)

/-- The reach that the hub of a core's die holds for the core's launch (R128); 0 in a gang launch. -/
def State.reachOf (s : State) (c : Core) : Nat :=
  match SMap.find? s.launches c.t.lslot with
  | some l => if l.lrec.task then (SMap.getD l.hubs (dieOf c.cid) { reach := l.lrec.reach }).reach % 64 else 0
  | none => 0

/-- Device time as a core reads it at issue, in ns (R8, R285): a gang member at (dx, dy) from the lead issues a bundle dx + dy core
cycles of 0.5 ns after the lead (R89). -/
def State.dtime (s : State) (c : Core) : DWord :=
  let skew := if c.t.gang then c.t.dx + c.t.dy else 0
  s.dev.devTime + BitVec.ofNat 64 ((skew + (if Config.halfNs s.tick then 1 else 0)) / 2)

/-- The 64-bit value of a control register of a core (R157). -/
def State.csrOf (s : State) (c : Core) (n : Nat) : DWord :=
  let t := c.t
  match n with
  | 1 => meshxy c.cid
  | 2 => t.task.handle.zext
  | 3 => t.cycle
  | 4 => s.dtime c
  | 7 => BitVec.ofNat 64 (s.reachOf c)
  | 9 => t.trapcause.zeroExtend 64
  | 10 => t.trapval
  | 15 => (((SMap.find? s.launches t.lslot).map (fun (x : Launch) => x.lrec.launchId)).getD 0).zext <<< 32 ||| BitVec.ofNat 64 (t.ctx % 64)
  | 21 => t.ebnd
  | 23 => t.objwin
  | n => t.csrVal n

/-! ### Save areas as they lie in memory (R136 to R140) -/

/-- Physical address of a core's save area for its class (R136). -/
def saveArea (cid : Nat) (deadline : Bool) : Nat :=
  let n := 16 * (dieOf cid % 8) + coreInDie cid
  (strandOf cid) * 2 ^ 37 + 0x1FD0000000 + (2 * n + (if deadline then 1 else 0)) * 0x300000

/-- The bytes other than 0 of a list, by place. -/
def sparse (bs : List Byte) : Mem := (bs.zipIdx.filter (fun x => x.1 != 0)).map (fun x => (x.2, x.1))

/-- A part of a memory replaced: len bytes from a on take the content. -/
def Mem.lay (m : Mem) (a len : Nat) (content : Mem) : Mem :=
  content.foldl (fun m c => if c.1 < len then Mem.set m (a + c.1) c.2 else m) (Mem.clear m a len)

/-- A barrier's state word (R186). -/
def Bar.word (b : Bar) : Nat :=
  b.rect.x0.toNat * 2 ^ 59 + b.rect.y0.toNat * 2 ^ 54 + b.rect.log2w.toNat * 2 ^ 51 + b.rect.log2h.toNat * 2 ^ 48 + b.phase.toNat * 2 ^ 32
  + b.arrived % 2048 * 2 ^ 21 + (if b.pending then 2 else 0) + (if b.valid then 1 else 0)

/-- A compaction-queue descriptor's two doublewords (R188). -/
def CQueue.words (q : CQueue) : List Nat :=
  [q.base.toNat * 2 ^ 49 + q.recw.toNat * 2 ^ 47 + q.cap.toNat * 2 ^ 32 + q.count.toNat * 2 ^ 16, q.head.toNat * 2 ^ 32 + q.tail.toNat]

/-- The bytes of 128 lanes. -/
def Lanes.bytes (v : Lanes) : List Byte := v.toList.flatMap (fun x => leBytes 4 x.val.toNat)

/-- A replay entry without its OFF: PIPE, D, W, POISON, LANES and VALUE (R139). -/
structure Replay where
  pipe : Nat
  d : Nat
  w : Bool := false
  poison : Bool := false
  lanes : BitVec 128 := BitVec.allOnes 128
  value : List Byte

/-- What the replay buffer holds of a result in flight; updates by the hardware are no register writes (R133, R139). -/
def Thread.replay (t : Thread) : Effect → Option Replay
  | .cResult d w v => some { pipe := 0, d := d.toNat, w := w, poison := v.psn.isSome, value := leBytes 8 v.val.toNat }
  | .mResult d v _ => some { pipe := 3, d := d.toNat, poison := v.psn.isSome, value := leBytes 8 v.val.toNat }
  | .land _ d v _ => some { pipe := 3, d := d.toNat, poison := (v.getD {}).psn.isSome, value := leBytes 8 (v.getD {}).val.toNat }
  | .tlRead d k => some { pipe := 3, d := d.toNat, value := leBytes 8 t.tl[k].val }
  | .vResult d w mask v => some { pipe := 1, d := d.toNat, w := w, poison := v.toList.any (fun x => x.psn.isSome), lanes := mask, value := v.bytes }
  | .kResult d w m => some { pipe := 1, d := d.toNat, w := w, value := (kLanes m).bytes }
  | .vsResult d w v => some { pipe := 1, d := d.toNat, w := w, poison := v.psn.isSome, value := (Lanes.all v).bytes }
  | .sResult d v => some { pipe := 2, d := d.toNat, poison := v.toList.any (fun x => x.psn.isSome), value := v.bytes }
  | .csr n _ v => if 16 ≤ n ∧ n ≤ 20 then some { pipe := 2, d := 32 + n, value := leBytes 8 v.toNat } else none
  | .ntSet nt w v => some { pipe := 2, d := 56 + nt, value := leBytes 4 v.toNat ++ [BitVec.ofNat 8 w] }
  | .ntClear nt => some { pipe := 2, d := 56 + nt, value := [0, 0, 0, 0, 0, 1] }
  | .ebnd _ | .fpFlags _ | .statBit _ | .tlRaise _ _ => none

/-- The 544 bytes of a replay entry (R139). -/
def Replay.bytes (r : Replay) (off : Nat) : List Byte :=
  let tag := r.pipe * 2 ^ 62 + r.d % 64 * 2 ^ 56 + (if r.w then 2 ^ 55 else 0) + (if r.poison then 2 ^ 54 else 0) + off % 1024 * 2 ^ 44
  leBytes 8 tag ++ leBytes 16 r.lanes.toNat ++ leBytes 8 0 ++ (r.value ++ List.replicate (512 - r.value.length) 0)

/-- A result placed by its offset, behind those of the same cycle. -/
def insertByOff (e : Nat × Replay) : List (Nat × Replay) → List (Nat × Replay)
  | [] => [e]
  | x :: xs => if x.1 ≤ e.1 then x :: insertByOff e xs else e :: x :: xs

/-- The replay buffer: entries in ascending offset, those of one cycle in issue order. -/
def Thread.replays (t : Thread) : List (Nat × Replay) :=
  t.flights.foldl (fun acc f => match t.replay f.fx with
    | some r => insertByOff (f.off, r) acc
    | none => acc) []

/-- KIND codes (R138). -/
def SaveKind.code : SaveKind → Nat
  | .ckpt => 1 | .immediate => 2 | .frozen => 3

/-- The header of a save area (R138). -/
def Saved.header (a : Saved) : List Byte :=
  let t := a.thread
  let ck := a.kind == .ckpt
  let rep := (if t.rep.stepD then 8 else 0) + (if t.rep.stepA then 4 else 0) + (if t.rep.stepB then 2 else 0) + (if t.rep.stepC then 1 else 0)
  let w0 := a.version.toNat * 2 ^ 32 + a.kind.code * 2 ^ 24 + (if t.gang then 2 ^ 17 else 0)
    + (match t.tpend with | some c => 2 ^ 16 + c.cause.code.toNat | none => 0)
  let w2 := (if t.gang then t.gangNo else t.task.handle.toNat) % 2 ^ 32 * 2 ^ 32 + t.cycle.toNat % 2 ^ 32
  let w3 := t.rep.left % 64 * 2 ^ 58 + (if t.rep.left = 0 then 0 else rep) * 2 ^ 54 + (if ck then 0 else t.replays.length) * 2 ^ 40
    + a.mask.toNat * 2 ^ 32 + a.ranges.length * 2 ^ 16
  [w0, t.pc.toNat, w2, w3, a.cktab.toNat].flatMap (leBytes 8) ++ List.replicate 216 0

/-- The parts of a save area: place, length and content (R137, R140). The array image beyond its first 64 bytes is opaque and stands in the
saved context itself. -/
def State.saveParts (s : State) (c : Core) (a : Saved) : List (Nat × Nat × Mem) :=
  let t := a.thread
  let part := fun (off : Nat) (bs : List Byte) => (off, bs.length, sparse bs)
  let words := fun (ws : List Nat) => ws.flatMap (leBytes 8)
  let nts := fun (x : Vector (Vector Word 32) 8) => x.toList.flatMap (fun n => n.toList.flatMap (fun w => leBytes 4 w.toNat))
  let regs := [part 0 a.header,
    part 0x100 (t.sregs.toList.flatMap (fun x => leBytes 4 x.val.toNat) ++ words (t.aregs.toList.map (fun x => x.val.toNat))),
    part 0x300 (words ((List.range 24).map (fun n => (s.csrOf { c with t := t } n).toNat) ++ List.replicate 40 0)),
    part 0x500 (words (t.tl.toList.map (fun x => x.val)) ++ t.kregs.toList.flatMap (fun m => leBytes 16 m.toNat)),
    part 0x5C0 (words (t.qs.toList.flatMap CQueue.words)), part 0x600 (words (t.bars.toList.map Bar.word)),
    part 0xA00 (nts t.ntActive ++ nts t.ntShadow), part 0xBA80 (t.vregs.toList.flatMap Lanes.bytes)]
  let arr := if a.mask = 0 then [] else [part 0x20000 (words [a.version.toNat * 2 ^ 32, Config.arrayImageLen, a.mask.toNat] ++ List.replicate 40 0)]
  if a.kind = .ckpt then
    regs ++ arr ++ a.ranges.map (fun r => ((if r.1 then 0x60000 else 0xE0000) + r.2.1, r.2.2,
      ((if r.1 then t.wbuf else a.l1.bytes).filter (fun (x : Host.Cell) => r.2.1 ≤ x.1)).map (fun x => (x.1 - r.2.1, x.2))))
  else
    regs ++ arr ++ [
      part 0x1200 (words ((t.latches.c.toList ++ t.latches.m.toList).map (fun x => x.val.toNat))
        ++ (t.latches.s.toList ++ t.latches.v.toList).flatMap Lanes.bytes),
      part 0x3280 ((t.replays.take 64).flatMap (fun e => e.2.bytes e.1)), (0x60000, 0x80000, t.wbuf), (0xE0000, 0x200000, a.l1.bytes)]

/-- The number of the keys of a context (R32). -/
def State.keyNo (s : State) (ctx : Nat) : Nat := ctx + (if h : ctx < 64 then 64 * s.ctxs[ctx].keyGen else 0)

/-- The entries of a table that memory lists, in any order and perhaps more than once. -/
def State.tableEntries (s : State) (n base : Nat) : List Nat :=
  (s.mem.filter (fun c => base ≤ c.1 && c.1 < base + 8 * n)).map (fun c => leNat (Mem.read s.mem (c.1 - (c.1 - base) % 8) 8))

/-- Whether a page table of a level, or one below it, holds a leaf with ENC = 1 (R173, R174); the entries that memory does not list are 0. -/
def State.encLeaf (s : State) : Nat → Nat → Bool
  | 0, base => (s.tableEntries 32 base).any (fun e => bits e 41 40 == 2 && bitOf e 63)
  | lv + 1, base => (s.tableEntries (if lv = 2 then 2 ^ 17 else 512) base).any (fun e =>
      if bits e 41 40 = 2 then bitOf e 63 else bits e 41 40 == 1 && State.encLeaf s lv (bits e 39 8 * 256))

/-- The keys under which the save area of a context is stored: its own if it has any encrypted page (R32, R136). -/
def State.saveKey (s : State) (ctx : Nat) : Option Nat :=
  if (if h : ctx < 64 then s.encLeaf 3 s.ctxs[ctx].ptRoot.toNat else false) then some (s.keyNo ctx) else none

/-- The sectors that a part of a save area takes: the first and how many. -/
def partSectors (base off len : Nat) : Nat × Nat := ((base + off) / 64, (off % 64 + len + 63) / 64)

/-! ### Accesses of rows (R35, R36) -/

/-- Channel of a physical address, and the memory die that carries it (R20, R28). -/
def channelOf (pa : Nat) : Nat := 16 * (pa / 2 ^ 37 % 8) + pa / 2 ^ 11 % 16
def memoryDie (pa : Nat) : Nat := 64 + 2 * (pa / 2 ^ 37 % 8) + pa / 2 ^ 14 % 2

/-- A change to the status block of a channel. -/
def State.onChan (s : State) (g : Nat) (f : Channel → Channel) : State :=
  if h : g < 128 then { s with chans := s.chans.set g (f s.chans[g]) h } else s

/-- A saturating 64-bit counter. -/
def sat64 (x : DWord) : DWord := BitVec.ofNat 64 (satAdd 64 x.toNat 1)

/-- A due step put on the agenda unless it stands there. -/
def State.pushOnce (s : State) (i : Instr) : State := if s.agenda.contains i then s else s.push i

/-- Refresh management of a row (R35): its count is cleared and the event counts. -/
def Channel.refresh (c : Channel) (row : Nat) : Channel := { c with rfmCount := sat64 c.rfmCount, rows := SMap.erase c.rows row }

/-- Whether the count of a row has reached ACT_THR: refresh management comes before any further request of the row (R35). -/
def Channel.due (c : Channel) (row : Nat) : Bool := c.actThr.toNat ≤ SMap.getD c.rows row 0

/-- A channel after an activation of a row, which is counted (R35, R36); one whose refresh management is due has it first. -/
def Channel.access (c : Channel) (row : Nat) : Channel :=
  let c := if c.due row then c.refresh row else c
  let n := SMap.getD c.rows row 0 + 1
  { c with rows := SMap.insert c.rows row n, actMax := BitVec.ofNat 32 (max c.actMax.toNat n) }

/-- The channels and the agenda after one access at a physical address. Whether it activates its row or finds it open is open (log 50); a count
that reaches ACT_THR makes refresh management due (R35, R36). -/
def activateOne (tick : Nat) (x : Vector Channel 128 × List Instr) (pa : Nat) : Vector Channel 128 × List Instr :=
  let g := channelOf pa
  let row := Config.rowOf pa
  let todo : Instr := .refreshManagement g row
  if h : g < 128 then
    if Config.activates tick pa then
      let c := x.1[g].access row
      let rest := if x.1[g].due row then x.2.erase todo else x.2
      (x.1.set g c h, if c.due row && !rest.contains todo then rest ++ [todo] else rest)
    else x
  else x

/-- An access of one sector reaches its row. -/
def State.activate (s : State) (pa : Nat) : State :=
  let x := activateOne s.tick (s.chans, s.agenda) pa
  { s with chans := x.1, agenda := x.2 }

/-- Accesses of every sector of a range reach their rows, in ascending order. -/
def State.activateAll (s : State) (pa n : Nat) : State :=
  let x := (List.range ((pa % 64 + n + 63) / 64)).foldl (fun x i => activateOne s.tick x (pa / 64 * 64 + 64 * i)) (s.chans, s.agenda)
  { s with chans := x.1, agenda := x.2 }

/-- A save area written to memory: its sectors are fresh, and lie under the keys of the area (R34, R136). -/
def State.laySave (s : State) (c : Core) (dl : Bool) (a : Saved) : State :=
  let base := saveArea c.cid dl
  (s.saveParts c a).foldl (fun (s : State) p =>
    let x := partSectors base p.1 p.2.1
    let s := s.activateAll (64 * x.1) (64 * x.2)
    { s with
      mem := s.mem.lay (base + p.1) p.2.1 p.2.2, ue := SMap.clear s.ue x.1 x.2, symErr := SMap.clear s.symErr x.1 x.2
      enc := match a.key with
        | some k => SMap.fill s.enc x.1 x.2 k
        | none => SMap.clear s.enc x.1 x.2 }) s

/-! ### Faults and containment (R144 to R146, R108, R149) -/

/-- Adds a record to the fault log; at 1,024 records the oldest is replaced (R146). -/
def State.logFault (s : State) (r : FaultRec) : State :=
  let log := s.faultLog ++ [r]
  { s with faultLog := if log.length > 1024 then log.drop 1 else log }

/-- The fault record of a core's fault (R146). -/
def State.coreFault (s : State) (c : Core) (cause : Cause) (level : Nat) (origin : Psn) (val save : DWord) : FaultRec :=
  let l := SMap.find? s.launches c.t.lslot
  { time := s.dev.devTime, launchId := (l.map (·.lrec.launchId)).getD 0, cause := cause, level := level, ctx := c.t.ctx
    chiplet := dieOf c.cid, core := coreInDie c.cid, origin := origin, handle := c.t.task.handle, pc := c.t.pc, value := val
    save := save, frozenCid := if save = 0 then none else some c.cid }

/-- The fault record of a unit that is no core (R146). -/
def State.unitFault (s : State) (l : Nat) (cause : Cause) (level chiplet : Nat) (origin : Psn) (val : DWord) : FaultRec :=
  let x := SMap.find? s.launches l
  { time := s.dev.devTime, launchId := (x.map (·.lrec.launchId)).getD 0, cause := cause, level := level
    ctx := (x.map (·.ctx)).getD 0, chiplet := chiplet, core := 0, origin := origin, handle := 0, pc := 0, value := val
    save := 0, frozenCid := none }

/-- A core left without work: its thread is discarded (R144), its L1 and what outlives a thread stay; its s, a, v and k registers stand until the
next dispatch sets them (R104, R161, R376). -/
def Core.discard (c : Core) : Core :=
  let c := { c with t := c.t.rushVqbal.pin }
  { c with t := { sregs := c.t.sregs, aregs := c.t.aregs, vregs := c.t.vregs, kregs := c.t.kregs
                  stat := c.t.stat, fpx := c.t.fpx, ckptlim := c.t.ckptlim, waitcnt := c.t.waitcnt, tl := c.t.tl
                  trappc := c.t.trappc, trapcause := c.t.trapcause, trapval := c.t.trapval, tscr := c.t.tscr
                  bars := c.t.bars, qs := c.t.qs.map (fun q => { q with busy := 0, hbusy := 0 })
                  wbuf := c.t.wbuf, wbufPsn := c.t.wbufPsn, arr := { w := c.t.arr.w }, ebnd := c.t.ebnd
                  lslot := c.t.lslot, ctx := c.t.ctx, rputs := c.t.rputs, trapRec := c.t.trapRec } }

/-- Whether an access that waits to leave a core is still performed when its work is discarded: all but those that answer the work itself (R110). -/
def EgressOp.lasts : EgressOp → Bool
  | .load .. | .amo .. | .push .. | .arrive .. | .bump .. => false
  | _ => true

/-- Every core of a launch stops and its work is discarded, saved areas of the launch too (R144, R149); what it has issued and the core has not
sent off yet still leaves it before the launch reports (R110). -/
def Core.dropLaunch (l : Nat) (c : Core) : Core :=
  let drop := fun (x : Option Saved) => match x with
    | some v => if v.thread.lslot != l then some v else if v.kind == .frozen then some { v with resumes := none } else none
    | none => none
  let c := { c with savedT := drop c.savedT, savedD := drop c.savedD
                    preload := c.preload.filter (fun p => p.task.lslot != l) }
  if c.t.mode != .idle && c.t.lslot = l then
    let d := c.discard
    { d with t := { d.t with egress := c.t.egress.filter (fun e => e.op.lasts), moveSeq := c.t.moveSeq } }
  else c

def State.dropLaunch (s : State) (l : Nat) : State :=
  { s with core := s.core.dropLaunch l, parked := s.parked.map (fun x => (x.1, x.2.dropLaunch l)) }

/-- The far bucket's queue number. The next one is the queue of held pushes, and one more each that of a port (R42). -/
def farQueue : Nat := 2 ^ 32

/-- A hub block without its tasks: the pages of packets that wait at a port stay until those have left (R42, R110). -/
def HubBlock.empty (h : HubBlock) : HubBlock :=
  { h with buckets := [], far := [], pending := [], held := [], late := [], suspended := [], running := [], walking := [], giving := []
           pages := h.pages.filter (fun p => p.queue ≥ farQueue + 2), paused := false, acked := false, gpaused := false, asking := false }

/-- Pages that a launch gives back: spill, parking and shadow pages (R148, R177). -/
def Launch.pages (x : Launch) : List (Nat × Bool) := x.owned.map (fun p => (p, false)) ++ x.shadows.map (fun p => (p.2, p.1 % 2 == 1))

/-- Refills that slots which have become free make due, of every queue with a spill part (R122). -/
def State.refillsDue (s : State) : State :=
  s.launches.foldl (fun (s : State) (x : Nat × Launch) => x.2.hubs.foldl (fun (s : State) (h : Nat × HubBlock) =>
    let spilled := fun (q : List Task) => q.any (fun k => k.page.isSome)
    let s := (h.2.buckets.filter (fun b => spilled b.2)).foldl (fun (s : State) b => s.pushOnce (.bucketRefill x.1 h.1 b.1)) s
    if spilled h.2.far then s.pushOnce (.bucketRefill x.1 h.1 farQueue) else s) s) s

/-- The slots and waiting copy-outs of a launch leave the hubs: what other launches have spilled may move up (R122). -/
def State.leaveHubs (s : State) (l : Nat) : State :=
  State.refillsDue { s with hubs := s.hubs.map (fun h => (h.1, { h.2 with
      slots := h.2.slots.filter (fun x => x.2 != l), copyQ := h.2.copyQ.filter (fun c => (s.coreAt c).t.lslot != l) })) }

/-- A hub, and a change to it. -/
def State.hub (s : State) (die : Nat) : Hub := SMap.getD s.hubs die {}
def State.onHub (s : State) (die : Nat) (f : Hub → Hub) : State := { s with hubs := SMap.insert s.hubs die (f (s.hub die)) }

/-- Whether a due step is one of a launch's own hubs, walker, keeper or barriers, which end with its work. -/
def ofLaunch (l : Nat) : Instr → Bool
  | .packetAccept _ l' arr _ => l' == l && (match arr with
    | .remote .. => false
    | _ => true)
  | .gangStart l' _ | .nestWalkerSpawn l' _ | .continuationReady l' _ | .terminationWave l' _ | .floorPropose l'
  | .proposeReceive l' _ _ | .proposeAckReceive l' _ _ | .commitReceive l' _ _ | .holdReceive l' _ | .pauseReceive l' _
  | .pauseAckReceive l' _ _ _ | .resumeReceive l' _ _ | .bucketRefill l' _ _ | .reachUpdate l' _ | .stealRequest l' _
  | .stealRequestReceive l' _ _ | .stealTransferReceive l' _ _ | .stealAckReceive l' _ _ | .stealRetry l' _
  | .deviceStealRequest l' _ | .taskRetire l' _ | .shadowCopyDone l' _ | .barrierArrival _ l' _ _ | .barrierPhaseDelivery _ l' _ _ => l' == l
  | _ => false

/-- The steps of a launch's own units are no longer due. -/
def State.purge (s : State) (l : Nat) : State :=
  { s with agenda := s.agenda.filter (fun i => !ofLaunch l i), holds := s.holds.filter (fun x => x.1 != .launch l) }

/-- Cores of a launch have become free: the hubs of its dies choose again (R106). -/
def State.chooseAgain (s : State) (r : LaunchRec) : State := r.dies.foldl (fun (s : State) d => s.pushOnce (.taskDispatch d)) s

/-- A launch ends with a status and a first cause: its cores stop, its tasks are discarded, and it drains and reports
(R144, R110, R76). A launch that has ended already keeps its status. -/
def State.endLaunch (s : State) (l : Nat) (st : Status) (cause : Option Cause) : State :=
  match SMap.find? s.launches l with
  | none => s
  | some x =>
    if x.phase = .draining || x.phase = .heldReport then s
    else
      let x := { x with
        phase := .draining, status := st, cause := x.cause.or cause, hubs := x.hubs.map (fun h => (h.1, h.2.empty)), deps := []
        keeper := .rest, acks := [], retiring := [], pool := [], parkedB := [], tEnd := s.dev.devTime, gangsLeft := [], gangsRun := [] }
      let s := (s.leaveHubs l).purge l
      let s := (({ s with launches := SMap.insert s.launches l x } : State).dropLaunch l).push (.launchReport l)
      s.chooseAgain x.lrec

/-- A fault counts in FAULTS of its launch, and the first names CAUSE (R75, R146). -/
def State.countFault (s : State) (l : Nat) (cause : Cause) : State :=
  s.onLaunch l fun x => { x with faults := BitVec.ofNat 32 (satAdd 32 x.faults.toNat 1), cause := x.cause.or (some cause) }

/-- A launch-level fault (R144): logged, counted, the launch ends FAULTED with its first cause. -/
def State.launchFault (s : State) (l : Nat) (cause : Cause) (r : FaultRec) : State :=
  ((s.logFault r).countFault l cause).endLaunch l .faulted (some cause)

/-- The least bucket that a key falls in (R112). -/
def bucketOf (r : LaunchRec) (key : Word) : Nat :=
  if key.toNat < r.wlBase.toNat then 0 else (key.toNat - r.wlBase.toNat) / 2 ^ r.wlShift

/-- Whether a bucket lies in the far bucket of a block (R113). -/
def HubBlock.isFar (h : HubBlock) (b : Nat) : Bool := b ≥ h.fc + 64

/-- The queue of a bucket, and one replaced (R113, R122). -/
def HubBlock.queue (h : HubBlock) (b : Nat) : List Task := if h.isFar b then h.far else SMap.getD h.buckets b []
def HubBlock.setQueue (h : HubBlock) (b : Nat) (q : List Task) : HubBlock :=
  if h.isFar b then { h with far := q }
  else { h with buckets := if q.isEmpty then SMap.erase h.buckets b else SMap.insert h.buckets b q }

/-- The block without a task, wherever it stood between a pop and its end. -/
def HubBlock.forget (h : HubBlock) (uid : Nat) : HubBlock :=
  { h with running := h.running.filter (fun k => k.uid != uid) }

/-- A saturating 32-bit counter. -/
def sat32 (x : Word) : Word := BitVec.ofNat 32 (satAdd 32 x.toNat 1)

/-- A push or re-entry below GUARD is held and the hub stops popping; HOLD goes to the keeper once (R117, R119). -/
def State.holdTask (s : State) (l die : Nat) (k : Task) : State :=
  match SMap.find? s.launches l with
  | none => s
  | some x =>
    let h := SMap.getD x.hubs die {}
    let h' := if h.acked then { h with late := h.late ++ [k] } else { h with held := h.held ++ [k] }
    let first := !h.paused
    let h' := if first then { h' with paused := true, holds := sat32 h.holds } else h'
    let s := { s with launches := SMap.insert s.launches l { x with hubs := SMap.insert x.hubs die h' } }
    if first then s.push (.holdReceive l die) else s

/-- Every hub of a launch paused for a group HOLD (R125). -/
def State.pauseAll (s : State) (l : Nat) : State :=
  s.onLaunch l fun x => { x with hubs := x.hubs.map (fun (h : Nat × HubBlock) => (h.1, { h.2 with gpaused := true })) }

/-- The group's HOLD is raised, and the launch pauses on every hub of the device (R125). -/
def State.raiseGroup (s : State) (l : Nat) : State :=
  (s.onLaunch l fun x => { x with groupHold := if x.groupHold = GroupHold.none then GroupHold.raised else x.groupHold }).pauseAll l

/-- A push or re-entry below GGUARD alone is held, and the group's HOLD is raised (R125). -/
def State.groupHoldTask (s : State) (l die : Nat) (k : Task) : State :=
  (s.onLaunch l fun x =>
    let h := SMap.getD x.hubs die {}
    { x with hubs := SMap.insert x.hubs die { h with held := h.held ++ [k], holds := if h.gpaused then h.holds else sat32 h.holds } }).raiseGroup l

/-- A low push or re-entry of a bucket held at a hub: below GUARD by the hub's HOLD, below GGUARD by the group's, below both by both (R117, R119,
R125). -/
def State.holdLow (s : State) (l die b : Nat) (k : Task) : State :=
  match SMap.find? s.launches l with
  | none => s
  | some x =>
    let h := SMap.getD x.hubs die {}
    if b < h.guard then
      let s := s.holdTask l die k
      if x.lrec.multi && b < h.gguard then s.raiseGroup l else s
    else s.groupHoldTask l die k

/-- A task re-enters its bucket at the head at a die's hub (R119): it keeps its slot. -/
def State.reenter (s : State) (l die : Nat) (k : Task) : State :=
  match SMap.find? s.launches l with
  | none => s
  | some x =>
    let h := (SMap.getD x.hubs die {}).forget k.uid
    let b := bucketOf x.lrec k.key
    let s := { s with launches := SMap.insert s.launches l { x with hubs := SMap.insert x.hubs die h } }
    let s := if b < h.guard || (x.lrec.multi && b < h.gguard) then s.holdLow l die b { k with headEntry := true }
      else { s with launches := SMap.insert s.launches l { x with hubs := SMap.insert x.hubs die (h.setQueue b (k :: h.queue b)) } }
    (s.push (.taskDispatch die)).push (.floorPropose l)

/-- A cancelled preload goes back to the head of its bucket (R107, R119). -/
def State.cancelPreload (s : State) (cid : Nat) (onlyDependent : Bool) : State :=
  match (s.coreAt cid).preload with
  | none => s
  | some p =>
    if onlyDependent && !p.dependent then s
    else (s.onCore cid fun c => { c with preload := none }).reenter p.task.lslot (dieOf cid) p.task

/-- A rerunnable task is discarded and goes to the head of its bucket (R108). Its third fault is no rerun. -/
def State.rerun (s : State) (c : Core) (r : FaultRec) : State :=
  let l := c.t.lslot
  let k := { c.t.task with
    kind := 0, faults := c.t.task.faults + 1, succ := c.t.task.packetSucc, suspended := false, live := 0, liveRegs := [], boundTo := none
    rerunnable := true, spent := 0, avoid := some c.cid, nums := [] }
  let s := ((s.logFault { r with level := 1 }).countFault l r.cause).cancelPreload c.cid true
  let s := s.onLaunch l fun x => { x with reruns := BitVec.ofNat 32 (satAdd 32 x.reruns.toNat 1) }
  let s := s.onCore c.cid Core.discard
  s.reenter l (dieOf c.cid) k

/-- A launch is replayed from FIRST out of the controller's copy (R149): the third replay is a fault. What its cores had not sent off is
discarded with their work. TASKS goes on as FAULTS and RERUNS do, which R149 says of these alone: DESIGN CHOICE, log 71. -/
def State.replay (s : State) (l : Nat) (r : FaultRec) : State :=
  match SMap.find? s.launches l with
  | none => s
  | some x =>
    if x.lrec.recov && x.replayable && x.replays < 2 then
      let x' := { x with
        replays := x.replays + 1, flags := x.flags ||| 0b10000#16, toFree := x.toFree ++ x.pages, owned := [], shadows := []
        shadowPending := [], hubs := [], deps := [], keeper := .rest, acks := [], kfc := 0, retiring := [], pool := [], parkedB := []
        gangsLeft := [], gangsRun := [], lastWave := none, objCopy := [], phase := .accepted }
      let s := (((s.logFault r).leaveHubs l).purge l).dropLaunch l
      let x' := { x' with faults := BitVec.ofNat 32 (satAdd 32 x'.faults.toNat 1), cause := x'.cause.or (some r.cause) }
      let again := fun (c : Core) => ({ c with
        lastLaunch := if c.lastLaunch == some x.uid then none else c.lastLaunch, left := SMap.erase c.left l
        t := if c.t.mode = .idle && c.t.lslot = l then { c.t with egress := [] } else c.t } : Core)
      let s := { s with core := again s.core, parked := s.parked.map (fun (c : Nat × Core) => (c.1, again c.2)) }
      (({ s with launches := SMap.insert s.launches l x' } : State).push (.launchFirstRead l)).chooseAgain x.lrec
    else s.launchFault l r.cause r

/-- A POISON fault of a core (R108, R144, R149). -/
def State.poisonFault (s : State) (c : Core) (origin : Psn) : State :=
  let r := s.coreFault c .poison 2 origin c.t.trapval 0
  if !c.t.gang && c.t.taskOpen && c.t.rerunnable && c.t.task.faults < 2 then s.rerun c r
  else s.replay c.t.lslot r

/-- A barrier copy of a thread, and one replaced. -/
def Thread.bar (t : Thread) (b : BitVec 7) : Bar := t.bars[b.toNat]
def Thread.setBar (t : Thread) (b : BitVec 7) (x : Bar) : Thread := { t with bars := t.bars.set b.toNat x b.isLt }

/-- The home of a barrier (R186). -/
def homeOf (r : Rect) : Nat := cidOf r.x0.toNat r.y0.toNat

/-- The thread of a launch on a core, where its context stands. -/
def Core.contextOf (l : Nat) (c : Core) : Option Thread :=
  if c.t.lslot = l && c.t.mode != .idle then some c.t
  else if c.savedT.any (fun a => a.thread.lslot == l) then c.savedT.map (fun a => a.thread)
  else if c.savedD.any (fun a => a.thread.lslot == l) then c.savedD.map (fun a => a.thread)
  else if c.t.lslot = l then some c.t
  else (SMap.find? c.left l).map (fun (x : Nat × Thread) => x.2)

/-! ### Immediate stops (R133, R134) -/

/-- The address a stop or trap at this bundle saves, and the repeat that is captured with it (R245): at the first issue of a
repeated word, the REP word with REPC = 0; later, the repeated word with the issues still to make. -/
def Thread.savedPc (t : Thread) : DWord × Rep :=
  if t.rep.left != 0 && t.rep.left = t.rep.n then (t.pc - 4, {}) else (t.pc, t.rep)

/-- The members of the gang that a core leads, the lead first; a core of no gang stands alone (R88, R89). -/
def State.gangOf (s : State) (lead : Nat) : List Nat :=
  let c := s.coreAt lead
  if c.t.gang then
    match SMap.find? s.launches c.t.lslot with
    | some l => (List.range (2 ^ l.lrec.glog2h)).flatMap (fun j => (List.range (2 ^ l.lrec.glog2w)).map (fun i => lead + 32 * j + i))
    | none => [lead]
  else [lead]

/-- The core that leads a core's work: itself outside a gang. -/
def State.leadOf (s : State) (cid : Nat) : Nat := if (s.coreAt cid).t.gang then (s.coreAt cid).t.lead else cid

/-- Whether a core's work is deadline class (R71). -/
def State.isDeadline (s : State) (l : Nat) : Bool := ((SMap.find? s.launches l).map (fun (x : Launch) => x.lrec.deadline)).getD false

/-- A range of a CKPT table (R132): in the weight buffer or the L1, start and length in bytes. -/
structure LiveRange where
  wb : Bool
  start : Nat
  len : Nat
  deriving DecidableEq, Repr

/-- A CKPT table: MASK and ranges. -/
abbrev CkptTable := Nat × List LiveRange

/-- A core begins to stop: nothing more issues, and its save area is being written (R133). -/
def Core.beginStop (kind : SaveKind) (cktab : DWord) (tab : CkptTable) (dl : Bool) (ver : Word) (c : Core) : Core :=
  let pcRep := c.t.savedPc
  let t := { c.t.rushVqbal.pin with
    mode := .stopping, stop := none, hold := none, ring := none, npc := none, stall := 0, fetching := none
    pc := pcRep.1, rep := pcRep.2, xlat := [], walkBad := [], passed := false, chkObjs := none, fpxNext := [], froze := false }
  let area : Saved :=
    { kind := kind, thread := t, l1 := c.l1, cktab := cktab, mask := BitVec.ofNat 8 tab.1, complete := false, version := ver
      ranges := tab.2.map fun r => (r.wb, r.start, r.len) }
  let c := { c with t := t }
  if dl then { c with savedD := some area } else { c with savedT := some area }

/-- PREEMPTED of a core's launch (R75): a resumable save begins. -/
def State.markPreempted (s : State) (cid : Nat) : State :=
  s.onLaunch (s.coreAt cid).t.lslot fun x => { x with flags := x.flags ||| 0b100000#16 }

/-- An immediate stop of a core, and of every member of its gang (R133, R134). -/
def State.stopNow (s : State) (cid : Nat) : State :=
  let lead := s.leadOf cid
  (s.gangOf lead).foldl (fun s m =>
    let dl := s.isDeadline (s.coreAt m).t.lslot
    ((s.markPreempted m).onCore m (Core.beginStop .immediate 0 (0x3F, []) dl s.imgVersion)).push (.saveComplete m)) s

/-! ### Frozen cores and contexts (R145, R146) -/

/-- A core stops with its state intact in its area of R136, KIND = 3 (R145). -/
def State.freezeCore (s : State) (cid : Nat) (deadline : Bool) : State :=
  let c := s.coreAt cid
  let area : Saved := { kind := .frozen, thread := c.t, l1 := c.l1, cktab := 0, mask := 0x3F, complete := true, version := s.imgVersion
                        key := s.saveKey c.t.ctx }
  (s.laySave c deadline area).onCore cid fun c => if deadline then { c with savedD := some area } else { c with savedT := some area }

/-- What a fault names (R145, R146): for an engine operation the core, the launch, the task and the bundle that issued it. -/
structure Issuer where
  cid : Nat
  lslot : Nat
  handle : Word
  pc : DWord
  deriving DecidableEq, Repr

/-- The work on a core as the issuer of what its bundle at an address does. -/
def Core.issuer (c : Core) (pc : DWord) : Issuer := ⟨c.cid, c.t.lslot, c.t.task.handle, pc⟩

/-- The record of a fault that names an issuer (R146). -/
def State.issuerFault (s : State) (i : Issuer) (cause : Cause) (level : Nat) (origin : Psn) (val save : DWord) : FaultRec :=
  let l := SMap.find? s.launches i.lslot
  { s.coreFault (s.coreAt i.cid) cause level origin val save with
    launchId := (l.map (fun (x : Launch) => x.lrec.launchId)).getD 0, ctx := (l.map (fun (x : Launch) => x.ctx)).getD 0
    handle := i.handle, pc := i.pc }

/-- Whether a core's work is a launch's. -/
def Core.serves (c : Core) (l : Nat) : Bool := c.t.mode != .idle && c.t.lslot == l

/-- The save area that keeps the state of a core frozen for a launch (R136, R145): the one of the class of the work on the core; for a core that
has stopped the launch's work the area that holds it; for an idle core the one of the launch's class. -/
def State.frozenArea (s : State) (cid l : Nat) : Bool :=
  let c := s.coreAt cid
  let holds := fun (x : Option Saved) => x.any (fun a => a.thread.lslot == l)
  if c.serves l then s.isDeadline l
  else if holds c.savedT then false
  else if holds c.savedD then true
  else s.isDeadline (if c.t.mode == .idle then l else c.t.lslot)

/-- The faulting core of a launch's fault freezes (R145) and takes no work until the record of the fault has been read. What another launch has
there by then, on the core or in the area, is stopped or kept as it is, is part of the state frozen, and resumes after the reset (DESIGN CHOICE,
log 14: the rule speaks of the faulting work alone). -/
def State.freezeFor (s : State) (cid l : Nat) : State :=
  let c := s.coreAt cid
  let dl := s.frozenArea cid l
  if c.protFrozen then s
  else if c.serves l then (s.freezeCore cid dl).onCore cid fun c => { c with protFrozen := true }
  else
    let s := if c.t.mode == .run || c.t.mode == .loading then s.stopNow cid else s
    let c := s.coreAt cid
    let s := match (if dl then c.savedD else c.savedT) with
      | none => s.freezeCore cid dl
      | some a =>
        let a := { a with kind := .frozen, resumes := if a.thread.lslot = l || a.kind == SaveKind.frozen then a.resumes else some a.kind }
        let s := s.onCore cid fun c => if dl then { c with savedD := some a } else { c with savedT := some a }
        if a.complete then s.laySave c dl a else s
    s.onCore cid fun c => { c with protFrozen := true }

/-- A fault with an issuer: PROT freezes the core with a KIND = 3 area; the launch ends FAULTED (R144, R145, R146). A core that stands frozen keeps
its area, and is reset when the record of the first fault has been read. -/
def State.faultOf (s : State) (i : Issuer) (cause : Cause) (val : DWord) (origin : Psn) : State :=
  if cause = .prot then
    let save := BitVec.ofNat 64 (saveArea i.cid (s.frozenArea i.cid i.lslot))
    let r := s.issuerFault i .prot 2 none val save
    let r := if (s.coreAt i.cid).protFrozen then { r with frozenCid := none } else r
    (s.freezeFor i.cid i.lslot).launchFault i.lslot .prot r
  else s.launchFault i.lslot cause (s.issuerFault i cause 2 origin val 0)

def State.protFault (s : State) (c : Core) (val : DWord) : State := s.faultOf (c.issuer c.t.pc) .prot val none

/-- Where a tag check failed (R33, R146): the context whose access or save area it was, and the memory die of the sector. -/
structure TagAt where
  ctx : Nat
  die : Nat
  deriving DecidableEq, Repr

/-- The record of a TAG failure with no faulting core: it names the memory die (R145, R146), and the first launch of the context if there
is one. -/
def State.tagRecord (s : State) (at' : TagAt) (val : DWord) : FaultRec :=
  let l := List.find? (fun (x : Nat × Launch) => x.2.ctx == at'.ctx) s.launches
  { time := s.dev.devTime, launchId := (l.map (fun (x : Nat × Launch) => x.2.lrec.launchId)).getD 0, cause := .tag, level := 3, ctx := at'.ctx
    chiplet := at'.die, core := 0, origin := none, handle := 0, pc := 0, value := val, save := 0, frozenCid := none }

/-- A TAG failure freezes the context through whose tables the access went (R33, R145): every core of it stops, every launch
of it reports FROZEN; the issuer of the access that failed names the core which keeps a KIND = 3 area. -/
def State.tagFault (s : State) (at' : TagAt) (faulting : Option Issuer) (val : DWord) : State :=
  let ls : SMap Launch := s.launches.filter (fun (x : Nat × Launch) => x.2.ctx == at'.ctx)
  let s := match faulting with
    | none => s.logFault (s.tagRecord at' val)
    | some i =>
      let r := { s.issuerFault i .tag 3 none val (BitVec.ofNat 64 (saveArea i.cid (s.frozenArea i.cid i.lslot))) with ctx := at'.ctx }
      let r := if (s.coreAt i.cid).protFrozen then { r with frozenCid := none } else r
      (s.logFault r).freezeFor i.cid i.lslot
  let s := { s with ctxs := if h : at'.ctx < 64 then s.ctxs.set at'.ctx { s.ctxs[at'.ctx] with frozen := true } h else s.ctxs }
  ls.foldl (fun (s : State) (x : Nat × Launch) => (s.countFault x.1 .tag).endLaunch x.1 .frozen (some .tag)) s

/-! ### Taking a trap, and the return from one (R141, R142, R245) -/

/-- The core enters handler mode at the launch's HANDLER (R141): TRAPPC, TRAPCAUSE and TRAPVAL are written, results in flight,
latches and REP state are captured, the latches are empty. -/
def Thread.enterHandler (t : Thread) (handler : DWord) (cause : Cause) (val : DWord) : Thread :=
  let t := t.pin
  { t with
    trappc := t.savedPc.1, trapcause := cause.code, trapval := val
    frame := { flights := t.flights, latches := t.latches, rep := t.savedPc.2 }
    flights := [], latches := {}, rep := {}, handler := true, pc := handler, npc := none, hold := none, ring := none
    xlat := [], walkBad := [], passed := false, chkObjs := none, fpxNext := [] }

/-- Whether a cause enters the handler (R144: level Trap). -/
def Cause.traps : Cause → Bool
  | .illegal | .trap | .arith | .align | .page | .bound => true
  | _ => false

/-- Takes the trap or fault that a bundle raised at its check stage, under the cause's level (R141, R144, R165). No slot of the
bundle has had any effect. -/
def State.take (s : State) (r : TrapRec) : State :=
  let c := s.core
  let s := s.mapT fun t => { t with trapRec := some r, hold := none, npc := none }
  match r.cause with
  | .poison => s.poisonFault c r.origin
  | .prot => s.protFault c r.val
  | _ =>
    if !r.cause.traps then s.launchFault c.t.lslot r.cause (s.coreFault c r.cause 2 r.origin r.val 0)
    else if c.t.handler then s.launchFault c.t.lslot .double (s.coreFault c .double 2 r.origin r.val 0)
    else if s.handlerAddr = 0 then s.launchFault c.t.lslot r.cause (s.coreFault c r.cause 2 r.origin r.val 0)
    else s.mapT fun t => t.enterHandler s.handlerAddr r.cause r.val

/-- A trap raised by an instruction: the bundle is cancelled and the trap is taken. Ranks follow R165. -/
def State.trap (s : State) (rank : Nat) (cause : Cause) (val : DWord) (origin : Psn := none) : Out :=
  .next (s.take { rank := rank, cause := cause, val := val, origin := origin })

/-- ERET's return (R142): latches, REP state and results of the trapped context come back, and the bundle at TRAPPC is next. -/
def Thread.leaveHandler (t : Thread) : Thread :=
  { t with
    handler := false, pc := t.trappc, npc := none, flights := t.frame.flights, latches := t.frame.latches, rep := t.frame.rep
    frame := {}, hold := none }

/-! ### Waits (R165, R167) -/

/-- A bundle is held at issue: no cycle is counted and WAITCNT counts, saturating (R157, R167). -/
def State.wait (s : State) (h : Hold) : Out :=
  .next (s.mapT fun t => { t with hold := some h, waitcnt := BitVec.ofNat 64 (satAdd 64 t.waitcnt.toNat 1), budget := t.budget + 1 })

/-- Whether a hold keeps the bundle from issuing: a wait, or a walk, a copy or the lock of a tile move that the core is frozen on (R167, R175, R179,
R198). -/
def Hold.keeps : Hold → Bool
  | .waittl | .barw | .racq | .wfe | .sleep | .walk | .allocHold | .shadowHold | .lock => true
  | _ => false

/-- Whether a hold is a wait of R167 (WAITTL, BARW, RACQ, WFE, and SLEEP, which is the same wait, R293). -/
def Hold.waits : Hold → Bool
  | .waittl | .barw | .racq | .wfe | .sleep => true
  | _ => false

/-- Whether the core waits at issue. -/
def Thread.waiting (t : Thread) : Bool := t.hold.any Hold.waits

/-- Whether the clock domain of a core stands still (R167, R175, R178, R179, R142): a late landing, a fetch, the cycles of a taken branch, a
walk or copy that an access of the bundle waits for, the drain before a return from a trap. -/
def Thread.frozen (t : Thread) : Bool :=
  t.late || t.fetching.isSome || t.stall != 0 || t.hold.any (fun h => !h.waits && h != .tend && h != .tsusp && h != .tyield)

/-- Whether the bundle at the pc is held. -/
def Thread.held (t : Thread) : Bool := t.hold.any Hold.keeps

/-- A frozen core cycle: STAT.LATE counts, saturating (R158, R167). -/
def Thread.freeze (t : Thread) : Thread :=
  { t with stat := putBits t.stat 63 32 (satAdd 32 (bits t.stat.toNat 63 32) 1) }

/-- A trap or fault kept from the record of one bundle is put away once it is taken, with what its check had recorded. -/
def Thread.calm (t : Thread) : Thread := { t with trapRec := none, xlat := [], walkBad := [], passed := false, chkObjs := none, fpxNext := [] }

/-- The core is frozen until a walk, an allocation or a shadow copy is made (R175, R178, R179). -/
def State.stallOn (s : State) (h : Hold) : Out := .next (s.mapT fun t => { t.freeze with hold := some h })

/-! ### What waits to leave the core (R194) -/

/-- Whether an entry belongs to the remote-issue queue (R192, R196: class REM). -/
def EgressOp.isRemote : EgressOp → Bool
  | .put .. | .red .. | .pushr .. => true
  | _ => false

/-- Whether an earlier access of the core, remote operations aside, has not been performed when an operation of this place comes to start
(R196: a tile move starts only when every earlier access of its core has been performed). -/
def Thread.egressBefore (t : Thread) (seq : Nat) : Bool := t.egress.any (fun e => e.seq < seq && !e.op.isRemote)

/-- Whether nothing that leaves the core now would pass an access that waits: then it is performed at once. -/
def Thread.egressClear (t : Thread) : Bool := t.egress.all (fun e => e.op.isRemote)

/-- Whether an OBJLD issued before a place will still replace a slot: what the slot holds when a later move starts is not known yet (R350, R363). -/
def Thread.slotPending (t : Thread) (slot seq : Nat) : Bool :=
  (t.tq0 ++ t.tq1).any (fun o => match o with
    | .objld n _ k _ _ => k == slot && n < seq
    | _ => false)

/-- Whether a tile operation of the core moves a tile of a peer window, or may (R183, R350, R352), and whether it stores there. -/
def Thread.peerOp (t : Thread) : TileOp → Bool
  | .tmov n _ _ _ slot .. => t.slotPending slot n || (SMap.find? t.objs slot).any (fun o => o.peer)
  | .peer .. => true
  | _ => false
def Thread.peerOut (t : Thread) : TileOp → Bool
  | .tmov n num st quant slot l1 ty tx pc => st && t.peerOp (.tmov n num st quant slot l1 ty tx pc)
  | _ => false

/-- The place of a tile operation in the order of issue. -/
def TileOp.seq : TileOp → Nat
  | .tmov q .. | .tfill q .. | .objld q .. | .objpub q .. | .peer q .. => q

/-- Whether a peer move issued before a place has not been performed: it counts as a peer-window store (R194, R352). -/
def Thread.peerStores (t : Thread) (seq : Nat) : Bool := (t.tq0 ++ t.tq1).any (fun o => o.seq < seq && t.peerOp o)

/-- Whether an access leaves the core at once: nothing waits before it, and at system scope a release finds every earlier remote operation
delivered (R194). -/
def Thread.mayLeave (t : Thread) (sys : Bool) : Bool :=
  t.egressClear && (!sys || (t.egress.isEmpty && t.rputs == 0 && !t.peerStores t.moveSeq))

/-- An access put behind those that wait to leave the core. -/
def State.leave (s : State) (sys : Bool) (op : EgressOp) : State :=
  s.mapT fun t => { t with egress := t.egress ++ [⟨t.moveSeq, sys, op, t.pc⟩], moveSeq := t.moveSeq + 1 }

/-- The end of a task's rerunnability (R108). -/
def State.noRerun (s : State) : State := s.mapT fun t => { t with rerunnable := false }

/-- A launch writes device memory outside shadow pages, or sends to another device: it is no longer replayable (R149). -/
def State.noReplay (s : State) (l : Nat) : State := s.onLaunch l fun x => { x with replayable := false }

end Sys2Proof.Machine
end

