-- ==== Sys2Proof/Machine/Operands.lean ====
section
/-! DEFINITION. Operand forms (R240 to R242, R296): what a 6-bit source code reads in each pipe, what a result writes, and the
poison test of the check stage (R165). -/

namespace Sys2Proof.Machine

/-- A special of the C and M pipes, codes 56 to 61 (R240); specials hold no poison. -/
def Core.special (c : Core) (code : BitVec 6) : DWord :=
  match code.toNat with
  | 57 => BitVec.ofNat 64 (meshX c.cid)
  | 58 => BitVec.ofNat 64 (meshY c.cid)
  | 59 => BitVec.ofNat 64 (dieOf c.cid)
  | 60 => BitVec.ofNat 64 (coreInDie c.cid)
  | 61 => (c.t.cycle.low).zext
  | _ => 0

/-- The 64-bit read of a C-pipe or M-pipe source (R241): an s register sign-extended, an a register, a latch or a special whole. -/
def Core.src (c : Core) (q : Vector PDWord 8) (code : BitVec 6) : PDWord :=
  if code < 32 then
    let x := c.t.getS (code.truncate 5)
    ⟨x.val.sext, x.psn⟩
  else if code < 48 then c.t.getA (code.truncate 4)
  else if code < 56 then q[(code.truncate 3).toNat]
  else ⟨c.special code, none⟩

/-- src(C, code) of N20: the 64-bit read in the C pipe. A 32-bit read takes its bits 31:0. -/
def State.srcC (s : State) (code : BitVec 6) : PDWord := s.core.src s.core.t.latches.c code

/-- src(M, code): the 64-bit read in the M pipe. -/
def State.srcM (s : State) (code : BitVec 6) : PDWord := s.core.src s.core.t.latches.m code

/-- A 5-bit s register number, read at 32 bits. -/
def State.srcS (s : State) (r : BitVec 5) : PWord := s.core.t.getS r

/-- An a register number. -/
def State.srcA (s : State) (r : BitVec 4) : PDWord := s.core.t.getA r

/-- A special of the V pipe in a field of class v, codes 56 to 61 (R240). -/
def Core.vspecial (c : Core) (code : BitVec 6) : Lanes :=
  Vector.ofFn (fun l : Fin 128 =>
    let x := match code.toNat with
      | 57 => l.val % 16
      | 58 => l.val
      | 59 => l.val / 16
      | 60 => meshX c.cid
      | 61 => meshY c.cid
      | _ => 0
    { val := BitVec.ofNat 32 x, psn := none })

/-- src(V, code): a v register, a V latch entry or a special in every lane. -/
def State.srcV (s : State) (code : BitVec 6) : Lanes :=
  if code < 48 then s.core.t.getV code
  else if code < 56 then s.core.t.latches.v[(code.truncate 3).toNat]
  else s.core.vspecial code

/-- A field of class s in a V-pipe word (R296): the s file, lane 0 of a V latch entry, or a special with its C-pipe meaning. -/
def State.srcVS (s : State) (code : BitVec 6) : PWord :=
  if code < 32 then s.core.t.getS (code.truncate 5)
  else if code < 48 then { val := (s.core.t.getA (code.truncate 4)).val.low, psn := (s.core.t.getA (code.truncate 4)).psn }
  else if code < 56 then (s.core.t.latches.v[(code.truncate 3).toNat])[0]
  else { val := (s.core.special code).low, psn := none }

/-- The lanes that a KM field enables (R294): 0 every lane, 1 to 7 the lanes of k1 to k7. -/
def State.km (s : State) (k : BitVec 3) : BitVec 128 := if k = 0 then BitVec.allOnes 128 else s.core.t.getK k

/-- The poison of the first poisoned lane that a mask enables. -/
def Lanes.psnIn (mask : BitVec 128) (v : Lanes) : Psn :=
  v.toList.zipIdx.findSome? (fun x => if mask.getLsbD x.2 then x.1.psn else none)

/-- The poison of the first poisoned lane. -/
def Lanes.psn (v : Lanes) : Psn := v.toList.findSome? (fun x => x.psn)

/-- The poison test of the check stage (R165): a poisoned source cancels the bundle. -/
def State.checked (s : State) (sources : List Psn) (k : Out) : Out :=
  match sources.findSome? id with
  | some o => s.trap 2 .poison 0 (some o)
  | none => k

/-- A C-pipe result of 32 bits (R241, R270): sign-extended into the latch queue. -/
def State.putC (s : State) (lat : Nat) (d : BitVec 6) (w : BitVec 1) (v : Word) : State :=
  s.later lat (.cResult d (w == 1) ⟨v.sext, none⟩)

/-- A C-pipe result of 64 bits: whole into the latch queue (R276). -/
def State.putC64 (s : State) (lat : Nat) (d : BitVec 6) (w : BitVec 1) (v : DWord) : State :=
  s.later lat (.cResult d (w == 1) ⟨v, none⟩)

/-- A V-pipe result into every lane (R295). -/
def State.putV (s : State) (lat : Nat) (d : BitVec 6) (w : BitVec 1) (v : Lanes) : State :=
  s.later lat (.vResult d (w == 1) (BitVec.allOnes 128) v)

/-- The lane of a number, modulo 128. -/
def laneAt (n : Nat) : Fin 128 := ⟨n % 128, Nat.mod_lt _ (by decide)⟩

/-- Lanes made one by one from clean words. -/
def lanesOf (f : Fin 128 → Word) : Lanes := Vector.ofFn (fun l => { val := f l, psn := none })

end Sys2Proof.Machine
end

