-- ==== Sys2Proof/Machine/Address.lean ====
section
/-! DEFINITION. Address instructions (R273, R276): 64-bit results, wrapping modulo 2^64. -/

namespace Sys2Proof.Machine

/-- An address word with two sources (R276). -/
def addrOp (f : DWord → DWord → DWord) (d : BitVec 6) (w : BitVec 1) (a b : BitVec 6) (s : State) : Out :=
  let x := s.srcC a
  let y := s.srcC b
  s.checked [x.psn, y.psn] (.next (s.putC64 1 d w (f x.val y.val)))

/-- An address word with one source. -/
def addrOne (f : DWord → DWord) (d : BitVec 6) (w : BitVec 1) (a : BitVec 6) (s : State) : Out :=
  let x := s.srcC a
  s.checked [x.psn] (.next (s.putC64 1 d w (f x.val)))

def execAaddi (d : BitVec 6) (w : BitVec 1) (a : BitVec 6) (i : BitVec 10) (s : State) : Out :=
  addrOne (fun x => x + i.signExtend 64) d w a s
def execAadd (d : BitVec 6) (w : BitVec 1) (a b : BitVec 6) (s : State) : Out := addrOp (fun x y => x + y.low.sext) d w a b s
def execAsub (d : BitVec 6) (w : BitVec 1) (a b : BitVec 6) (s : State) : Out := addrOp (fun x y => x - y.low.sext) d w a b s
def execAmov (d : BitVec 6) (w : BitVec 1) (a : BitVec 6) (s : State) : Out := addrOne (fun x => x) d w a s
def execAset (d : BitVec 6) (w : BitVec 1) (a b : BitVec 6) (s : State) : Out :=
  addrOp (fun x y => (y.low.zext <<< 32) ||| x.low.zext) d w a b s

/-- AGET and AGET.HI (R276): 32-bit results, sign-extended into the latch queue (R241). -/
def execAget (d : BitVec 6) (w : BitVec 1) (a : BitVec 6) (s : State) : Out :=
  let x := s.srcC a
  s.checked [x.psn] (.next (s.putC 1 d w x.val.low))
def execAgetHi (d : BitVec 6) (w : BitVec 1) (a : BitVec 6) (s : State) : Out :=
  let x := s.srcC a
  s.checked [x.psn] (.next (s.putC 1 d w x.val.high))

end Sys2Proof.Machine
end

