-- ==== Sys2Proof/Machine/Numerics.lean ====
section
/-! DEFINITION. Exact numbers and their formats (R202 to R208): dyadic values, the binary formats, one rounding function with
the five modes, and the five exceptions. -/

namespace Sys2Proof.Machine

/-- An exact dyadic value num × 2^exp (R17: exact reals). -/
structure Dy where
  num : Int
  exp : Int
  deriving DecidableEq, Repr

/-- 2^k for an integer k that is not negative, else 1. -/
def pow2 (k : Int) : Nat := 2 ^ k.toNat

/-- The numerator of a dyadic value at a lower exponent. -/
def Dy.at (x : Dy) (e : Int) : Int := x.num * (pow2 (x.exp - e) : Int)

def Dy.add (x y : Dy) : Dy :=
  let e := min x.exp y.exp
  ⟨x.at e + y.at e, e⟩

def Dy.neg (x : Dy) : Dy := ⟨-x.num, x.exp⟩

def Dy.mul (x y : Dy) : Dy := ⟨x.num * y.num, x.exp + y.exp⟩

def Dy.lt (x y : Dy) : Bool :=
  let e := min x.exp y.exp
  decide (x.at e < y.at e)

def Dy.eq (x y : Dy) : Bool :=
  let e := min x.exp y.exp
  decide (x.at e = y.at e)

/-- A decoded floating value: NaN (signalling or not), infinity, or a finite value with its sign, which a zero keeps. -/
inductive FVal where
  | nan (signalling : Bool)
  | inf (neg : Bool)
  | fin (neg : Bool) (num : Nat) (exp : Int)
  deriving DecidableEq, Repr

/-- The exact value of a finite number. -/
def FVal.dy : FVal → Dy
  | .fin neg n e => ⟨if neg then -(n : Int) else n, e⟩
  | _ => ⟨0, 0⟩

def FVal.isNeg : FVal → Bool
  | .nan _ => false
  | .inf n => n
  | .fin n _ _ => n

def FVal.isNan : FVal → Bool
  | .nan _ => true
  | _ => false

def FVal.isSnan : FVal → Bool
  | .nan s => s
  | _ => false

def FVal.isInf : FVal → Bool
  | .inf _ => true
  | _ => false

def FVal.isZero : FVal → Bool
  | .fin _ n _ => n == 0
  | _ => false

/-- The five exceptions, in the order of FPX.FLG (R160): NV is bit 4, NX is bit 0. -/
abbrev Exc := BitVec 5
def Exc.nv : Exc := 0b10000#5
def Exc.dz : Exc := 0b01000#5
def Exc.of : Exc := 0b00100#5
def Exc.uf : Exc := 0b00010#5
def Exc.nx : Exc := 0b00001#5

/-- Rounding modes (R206). -/
inductive RM where
  | rne | rtz | rdn | rup | sr
  deriving DecidableEq, Repr

/-- The mode of an RM field; 5 to 7 name none (R206). -/
def RM.ofField : Nat → Option RM
  | 0 => some .rne | 1 => some .rtz | 2 => some .rdn | 3 => some .rup | 4 => some .sr | _ => none

/-- What rounding needs of a format: precision, exponent of the least spacing, largest finite magnitude num × 2^exp, and
whether infinities exist; p1 marks binary8p1, whose ties are decided by the code. -/
structure Fmt where
  p : Nat
  qmin : Int
  maxNum : Nat
  maxExp : Int
  inf : Bool
  p1 : Bool
  deriving DecidableEq, Repr

/-- binary32 and binary16 (R203). -/
def Fmt.b32 : Fmt := ⟨24, -149, 2 ^ 24 - 1, 104, true, false⟩
def Fmt.b16 : Fmt := ⟨11, -24, 2 ^ 11 - 1, 5, true, false⟩

/-- The magnitude that a code of a binary8 format stands for, with bias and no sign (R204, R205). -/
def b8mag (p : Nat) (bias : Nat) (mag : Nat) : Nat × Int :=
  let e := mag / 2 ^ (p - 1)
  let t := mag % 2 ^ (p - 1)
  if e = 0 then (t, 1 - (bias : Int) - (p - 1 : Nat))
  else (2 ^ (p - 1) + t, (e : Int) - bias - (p - 1 : Nat))

/-- The largest finite code of a binary8 format (R204, R205). -/
def b8maxCode (u inf : Bool) : Nat :=
  match u, inf with
  | false, false => 0x7F
  | false, true => 0x7E
  | true, false => 0xFE
  | true, true => 0xFD

/-- The bias of a binary8 format: 2^(7-P) signed (R204), 2^(8-P) unsigned (R205). -/
def b8bias (u : Bool) (p : Nat) : Nat := if u then 2 ^ (8 - p) else 2 ^ (7 - p)

/-- The rounding description of a binary8 format. -/
def Fmt.b8 (u : Bool) (p : Nat) (inf : Bool) : Fmt :=
  let bias := b8bias u p
  let mx := b8mag p bias (b8maxCode u inf)
  ⟨p, 1 - (bias : Int) - (p - 1 : Nat), mx.1, mx.2, inf, p == 1⟩

/-- decode of a binary8 code (R204, R205). A binary8 NaN is quiet. -/
def decodeB8 (u : Bool) (p : Nat) (inf : Bool) (c : Nat) : FVal :=
  let bias := b8bias u p
  if u then
    if c = 0xFF then .nan false
    else if inf && c = 0xFE then .inf false
    else
      let m := b8mag p bias c
      .fin false m.1 m.2
  else if c = 0x80 then .nan false
  else if inf && c % 128 = 0x7F then .inf (c / 128 == 1)
  else
    let m := b8mag p bias (c % 128)
    .fin (c / 128 == 1) m.1 m.2

/-- decode of an IEEE code with eb exponent bits and tb trailing bits (R203). -/
def decodeIeee (eb tb : Nat) (c : Nat) : FVal :=
  let t := c % 2 ^ tb
  let e := (c / 2 ^ tb) % 2 ^ eb
  let neg := (c / 2 ^ (eb + tb)) % 2 == 1
  let bias : Int := 2 ^ (eb - 1) - 1
  if e = 2 ^ eb - 1 then
    if t = 0 then .inf neg else .nan (t / 2 ^ (tb - 1) == 0)
  else if e = 0 then .fin neg t (1 - bias - tb)
  else .fin neg (2 ^ tb + t) (e - bias - tb)

def decodeF32 (x : Word) : FVal := decodeIeee 8 23 x.toNat
def decodeF16 (x : Nat) : FVal := decodeIeee 5 10 x

/-- The unit in the last place of a binary32 value (R208), as an exponent. -/
def ulpF32 (x : Word) : Int :=
  let e : Nat := (x.toNat / 2 ^ 23) % 256
  if e = 0 then -149 else (e : Int) - 150

/-- A rounded magnitude k × 2^q with the mark that bits were lost. -/
structure Rounded where
  k : Nat
  q : Int
  inexact : Bool
  deriving DecidableEq, Repr

/-- Whether the discarded field sends the magnitude up to the next neighbour. k0: the truncated multiple, odd: whether a tie
goes up, rem out of 2^sh: the discarded bits, u: the unit exponent of R208, e: the exponent of the discarded field. -/
def roundsUp (rm : RM) (neg odd : Bool) (rem : Nat) (sh : Nat) (e q u : Int) (r : Nat) : Bool :=
  match rm with
  | .rne => if 2 * rem = 2 ^ sh then odd else 2 * rem > 2 ^ sh
  | .rtz => false
  | .rdn => neg && rem != 0
  | .rup => !neg && rem != 0
  | .sr =>
    if u ≥ q then false
    else
      let d := (q - u).toNat
      let big := if e ≥ u then rem * pow2 (e - u) else rem / pow2 (u - e)
      let big' := if d > 24 then big / 2 ^ (d - 24) else big
      let d' := min d 24
      big' + r % 2 ^ d' ≥ 2 ^ d'

/-- Rounds num × 2^e to a multiple of the spacing at exponent q (R206, R208). -/
def roundAt (f : Fmt) (rm : RM) (neg : Bool) (num : Nat) (e q u : Int) (r : Nat) : Rounded :=
  if q ≤ e then ⟨num * pow2 (e - q), q, false⟩
  else
    let sh := (q - e).toNat
    let k0 := num / 2 ^ sh
    let rem := num % 2 ^ sh
    let odd := if f.p1 && k0 != 0 then (q - f.qmin) % (2 : Int) == 0 else k0 % 2 == 1
    if roundsUp rm neg odd rem sh e q u r then ⟨k0 + 1, q, rem != 0⟩ else ⟨k0, q, rem != 0⟩

/-- The exponent of the binade that holds num × 2^e, num not 0. -/
def binade (num : Nat) (e : Int) : Int := (Nat.log2 num : Int) + e

/-- Rounds to a format with the exponent range unbounded above (R207, R208). -/
def roundTo (f : Fmt) (rm : RM) (neg : Bool) (num : Nat) (e u : Int) (r : Nat) : Rounded :=
  roundAt f rm neg num e (max (binade num e - (f.p - 1 : Nat)) f.qmin) u r

/-- Tininess after rounding (R203): the value rounded with no lower bound of the exponent is below the least normal. -/
def isTiny (f : Fmt) (rm : RM) (neg : Bool) (num : Nat) (e u : Int) (r : Nat) : Bool :=
  let x := roundAt f rm neg num e (binade num e - (f.p - 1 : Nat)) u r
  x.k != 0 && Dy.lt ⟨x.k, x.q⟩ ⟨1, f.qmin + (f.p - 1 : Nat)⟩

/-- The code of a rounded magnitude: exponent and trailing significand run together, so a carry moves on by itself. -/
def Rounded.code (f : Fmt) (x : Rounded) : Nat := (x.q - f.qmin).toNat * 2 ^ (f.p - 1) + x.k

/-- What a finite value becomes in a format (R207): nothing representable, overflow, or a code. -/
inductive Narrowed where
  | toInf
  | toMax
  | code (c : Nat)
  deriving DecidableEq, Repr

/-- The magnitude part of a conversion into a format, with its exceptions (R203, R207). -/
def narrowMag (f : Fmt) (rm : RM) (neg : Bool) (num : Nat) (e u : Int) (r : Nat) : Narrowed × Exc :=
  if num = 0 then (.code 0, 0)
  else
    let x := roundTo f rm neg num e u r
    if Dy.lt ⟨f.maxNum, f.maxExp⟩ ⟨x.k, x.q⟩ then
      let toInf := f.inf && (match rm with
        | .rne => true | .rtz => false | .rdn => neg | .rup => !neg | .sr => true)
      (if toInf then .toInf else .toMax, Exc.of ||| Exc.nx)
    else
      let nx := if x.inexact then Exc.nx else 0
      let uf := if x.inexact && isTiny f rm neg num e u r then Exc.uf else 0
      (.code (x.code f), nx ||| uf)

/-- Into an IEEE format of total width w (R207). -/
def encodeIeee (f : Fmt) (w : Nat) (rm : RM) (u : Int) (r : Nat) : FVal → Nat × Exc
  | .nan s => (if w = 32 then 0x7FC00000 else 0x7E00, if s then Exc.nv else 0)
  | .inf neg => ((if neg then 2 ^ (w - 1) else 0) + infCode, 0)
  | .fin neg num e =>
    let s := if neg then 2 ^ (w - 1) else 0
    let x := narrowMag f rm neg num e u r
    match x.1 with
    | .toInf => (s + infCode, x.2)
    | .toMax => (s + infCode - 1, x.2)
    | .code c => (s + c, x.2)
where
  /-- The code of +∞: one above the largest finite code. -/
  infCode : Nat := (f.maxExp - f.qmin).toNat * 2 ^ (f.p - 1) + f.maxNum + 1

/-- Into a binary8 format (R207). -/
def encodeB8 (uns : Bool) (p : Nat) (inf : Bool) (rm : RM) (u : Int) (r : Nat) : FVal → Nat × Exc
  | .nan s => (if uns then 0xFF else 0x80, if s then Exc.nv else 0)
  | .inf neg =>
    if uns then
      if neg then (0, Exc.nv)
      else if inf then (0xFE, 0) else (0xFE, Exc.of ||| Exc.nx)
    else
      let s := if neg then 0x80 else 0
      if inf then (s + 0x7F, 0) else (s + 0x7F, Exc.of ||| Exc.nx)
  | .fin neg num e =>
    let f := Fmt.b8 uns p inf
    if uns && neg then
      if num = 0 then (0, 0)
      else if (roundTo f rm true num e u r).k = 0 then (0, Exc.nx) else (0, Exc.nv)
    else
      let x := narrowMag f rm neg num e u r
      let s := if neg && !uns then 0x80 else 0
      match x.1 with
      | .toInf => (s + b8maxCode uns inf + 1, x.2)
      | .toMax => (s + b8maxCode uns inf, x.2)
      | .code c => (if c = 0 then 0 else s + c, x.2)

/-- round_rne into binary32 or binary16 of an exact value with the sign a zero takes (R17, R203). -/
def roundRne (f : Fmt) (w : Nat) (zeroNeg : Bool) (x : Dy) : Nat × Exc :=
  if x.num = 0 then (if zeroNeg then 2 ^ (w - 1) else 0, 0)
  else encodeIeee f w .rne 0 0 (.fin (x.num < 0) x.num.natAbs x.exp)

/-- Rounds an exact magnitude to an integer under a mode, for conversions onto the integers (R202, R304, R215). -/
def roundInt (rm : RM) (neg : Bool) (num : Nat) (e u : Int) (r : Nat) : Rounded :=
  roundAt ⟨1, 0, 1, 0, false, false⟩ rm neg num e 0 u r

/-- A float to an integer type of width w (R202). -/
def floatToInt (signed : Bool) (w : Nat) (rm : RM) (u : Int) (r : Nat) : FVal → Nat × Exc
  | .nan _ => (0, Exc.nv)
  | .inf neg => (if neg then (if signed then 2 ^ (w - 1) else 0) else (if signed then 2 ^ (w - 1) - 1 else 2 ^ w - 1), Exc.nv)
  | .fin neg num e =>
    let x := roundInt rm neg num e u r
    let v : Int := if neg then -(x.k : Int) else x.k
    let lo : Int := if signed then -(2 ^ (w - 1)) else 0
    let hi : Int := if signed then 2 ^ (w - 1) - 1 else 2 ^ w - 1
    if v < lo then ((lo % 2 ^ w).toNat, Exc.nv)
    else if hi < v then (hi.toNat, Exc.nv)
    else ((v % 2 ^ w).toNat, if x.inexact then Exc.nx else 0)

/-- hash32 of R209. -/
def hash32 (k c : Word) : Word :=
  let x := c ^^^ k
  let x := (x ^^^ (x >>> 16)) * 0x9E5F4A27#32
  let x := (x ^^^ (x >>> 13)) * 0xB4D2C873#32
  x ^^^ (x >>> 16)

end Sys2Proof.Machine
end

