-- ==== Sys2Proof/Machine/Flags.lean ====
section
/-! DEFINITION. Condition codes (R243), the flags and enables of FPX (R160, R297) and the sticky bits of STAT (R158). -/

namespace Sys2Proof.Machine

/-- cond(cc, x, y) on the integers that the signed and unsigned codes compare (R243). -/
def condInt (cc : Nat) (sx sy ux uy : Int) : Bool :=
  match cc with
  | 0 => ux == uy
  | 1 => ux != uy
  | 2 => sx < sy
  | 3 => sx ≥ sy
  | 4 => sx > sy
  | 5 => sx ≤ sy
  | 6 => ux < uy
  | 7 => ux ≥ uy
  | 8 => ux > uy
  | 9 => ux ≤ uy
  | _ => false

/-- cond(cc, x, y) at w bits. -/
def cond {w : Nat} (cc : Nat) (x y : BitVec w) : Bool := condInt cc x.toInt y.toInt x.toNat y.toNat

/-- cond(cc, x, y) on float values (R243): with a NaN false except under NE; codes 6 to 9 name none. -/
def condFloat (cc : Nat) (x y : FVal) : Bool :=
  if x.isNan || y.isNan then cc == 1
  else
    let lt := fun (a b : FVal) => match a, b with
      | .inf n, .inf m => n && !m
      | .inf n, _ => n
      | _, .inf m => !m
      | a, b => Dy.lt a.dy b.dy
    let eq := !lt x y && !lt y x
    match cc with
    | 0 => eq
    | 1 => !eq
    | 2 => lt x y
    | 3 => !lt x y
    | 4 => lt y x
    | 5 => !lt y x
    | _ => false

/-- FPX as the check stage of a bundle that issues now sees it (R165, R286): writes in flight that take effect within 2 cycles
are in force, and so are those of the next bundle, which take effect in that very cycle. -/
def Thread.fpxAtCheck (t : Thread) : DWord :=
  let v := (t.flights.filter (fun f => f.off ≤ 2)).foldl (fun v f => match f.fx with
    | .csr 5 op x => ({ t with fpx := v }.csrWrite 5 op x).fpx
    | _ => v) t.fpx
  t.fpxNext.foldl (fun v x => ({ t with fpx := v }.csrWrite 5 x.1 x.2).fpx) v

/-- The enables of FPX for the five exceptions (R160). -/
def fpxEn (fpx : DWord) : Exc := fpx.extractLsb' 8 5

/-- EIDZ of FPX (R160). -/
def fpxEidz (fpx : DWord) : Bool := fpx.getLsbD 13

/-- The exceptions of a word are decided (R160, R297): an enabled one traps with ARITH and sets no flag; otherwise the flags are
set at the check stage. -/
def State.raising (s : State) (e : Exc) (k : State → Out) : Out :=
  if e &&& fpxEn s.core.t.fpxAtCheck != 0 then s.trap 3 .arith 0 else k (s.fpSticky e)

/-- Bits of STAT that stick (R158). -/
def statQovf : Nat := 7
def statJoor : Nat := 5

end Sys2Proof.Machine
end

