-- ==== Sys2Proof/Machine/Aes.lean ====
section
/-! DEFINITION. AES-256 (FIPS 197) and its XTS mode on one 64-byte sector, which R32 names. -/

namespace Sys2Proof.Machine.Aes

/-- A byte doubled in the field of AES. -/
def twice (b : Byte) : Byte := (b <<< 1) ^^^ (if b.getLsbD 7 then 0x1B else 0)

/-- The product of two bytes in that field, by the n low bits of the second. -/
def times : Nat → Byte → Byte → Byte
  | 0, _, _ => 0
  | n + 1, a, b => (if b.getLsbD 0 then a else 0) ^^^ times n (twice a) (b >>> 1)

/-- A power of a byte in that field. -/
def power (a : Byte) : Nat → Byte
  | 0 => 1
  | n + 1 => times 8 a (power a n)

/-- The substitution of a byte: its inverse, the 254th power, under the affine map. -/
def sub (b : Byte) : Byte :=
  let x := power b 254
  x ^^^ x.rotateLeft 1 ^^^ x.rotateLeft 2 ^^^ x.rotateLeft 3 ^^^ x.rotateLeft 4 ^^^ 0x63

/-- Bytes combined place by place. -/
def xor (xs ys : List Byte) : List Byte := List.zipWith (fun x y => x ^^^ y) xs ys

/-- The word of the key schedule at place i, from the word before it and the one eight places before. -/
def nextWord (i : Nat) (before back : List Byte) : List Byte :=
  let w := before.map sub
  if i % 8 = 0 then xor back (xor (w.drop 1 ++ w.take 1) [power 2 (i / 8 - 1), 0, 0, 0])
  else if i % 8 = 4 then xor back w
  else xor back before

/-- n more words of the schedule; those so far stand latest first. -/
def schedule : Nat → List (List Byte) → List (List Byte)
  | 0, ws => ws.reverse
  | n + 1, ws => schedule n (nextWord ws.length (ws.headD []) (ws.getD 7 []) :: ws)

/-- The words of a list of bytes, n of them. -/
def wordsOf (n : Nat) (bs : List Byte) : List (List Byte) := (List.range n).map (fun i => (bs.drop (4 * i)).take 4)

/-- The fifteen round keys of a 32-byte key. -/
def roundKeys (key : List Byte) : List (List Byte) :=
  let ws := schedule 52 (wordsOf 8 key).reverse
  (List.range 15).map (fun r => ((ws.drop (4 * r)).take 4).flatten)

/-- The bytes of a block with row r turned by r places. -/
def shiftRows (s : List Byte) : List Byte := (List.range 16).map (fun i => s.getD ((i + 4 * (i % 4)) % 16) 0)

/-- One column mixed. -/
def mixColumn (c : List Byte) : List Byte :=
  (List.range 4).map (fun i =>
    let at' := fun (k : Nat) => c.getD ((i + k) % 4) 0
    twice (at' 0) ^^^ (twice (at' 1) ^^^ at' 1) ^^^ at' 2 ^^^ at' 3)

/-- One round; the last mixes no columns. -/
def round (last : Bool) (s key : List Byte) : List Byte :=
  let t := shiftRows (s.map sub)
  xor (if last then t else ((wordsOf 4 t).map mixColumn).flatten) key

/-- A 16-byte block enciphered under a 32-byte key. -/
def encipher (key block : List Byte) : List Byte :=
  let ks := roundKeys key
  let s := (List.range 13).foldl (fun s r => round false s (ks.getD (r + 1) [])) (xor block (ks.getD 0 []))
  round true s (ks.getD 14 [])

/-- A tweak doubled: 16 bytes as one number, lowest byte first. -/
def nextTweak (t : List Byte) : List Byte :=
  let x := 2 * leNat t
  leBytes 16 (if x ≥ 2 ^ 128 then (x - 2 ^ 128) ^^^ 0x87 else x)

/-- n blocks of a data unit from a tweak on. -/
def blocks (key : List Byte) : Nat → List Byte → List Byte → List Byte
  | 0, _, _ => []
  | n + 1, t, bs => xor (encipher key (xor (bs.take 16) t)) t ++ blocks key n (nextTweak t) (bs.drop 16)

/-- The 64 bytes of a sector enciphered, its number being the tweak. -/
def xts (dataKey tweakKey : List Byte) (sector : Nat) (bs : List Byte) : List Byte :=
  blocks dataKey 4 (encipher tweakKey (leBytes 16 sector)) bs

end Sys2Proof.Machine.Aes
end

