-- ==== Sys2Proof/Machine/Fabric.lean ====
section
/-! DEFINITION. The Hawser fabric: where a chiplet stands on its strand and on the trunk (R20, R21), and the route of a transfer (R22). -/

namespace Sys2Proof.Machine

/-- Where a chiplet joins the fabric (R21): a strand and a position on it; none for the host die, which is trunk node 0. -/
def strandPlace (chiplet : Nat) : Option (Nat × Nat) :=
  if chiplet < 64 then some (chiplet / 8, if chiplet % 8 < 4 then chiplet % 8 + 1 else chiplet % 8 + 2)
  else if chiplet < 80 then some ((chiplet - 64) / 2, if chiplet % 2 = 0 then 0 else 5)
  else none

/-- The hops of a ring of n nodes from a to b: the shorter way, and on a tie toward increasing position; the other way round when a hop of
that way is down (R22). A transfer that meets no hop that is down keeps its way: DEDUCED, log 64. -/
def ringPath (n a b : Nat) (down : Nat → Bool) : List Nat :=
  let k := (b + n - a) % n
  let up := (List.range k).map (fun i => (a + i) % n)
  let back := (List.range ((n - k) % n)).map (fun i => (a + n - 1 - i) % n)
  let way := if k ≤ n - k then (up, back) else (back, up)
  if way.1.any down then way.2 else way.1

/-- Whether a hop is down (R25, R27). -/
def State.isDown (s : State) (h : Nat) : Bool := s.hops[h]?.any (fun x => x.state == .down)

/-- The hops of a strand's ring and of the trunk between two of their nodes, by number (R25). -/
def State.strandPath (s : State) (st a b : Nat) : List Nat := (ringPath 10 a b (fun j => s.isDown (10 * st + j))).map (10 * st + ·)
def State.trunkPath (s : State) (a b : Nat) : List Nat := (ringPath 9 a b (fun t => s.isDown (80 + t))).map (80 + ·)

/-- The hops that a transfer crosses, in order, by its source and target chiplets (R22). -/
def State.route (s : State) (source target : Nat) : List Nat :=
  match strandPlace source, strandPlace target with
  | some a, some b =>
    if a.1 = b.1 then s.strandPath a.1 a.2 b.2
    else s.strandPath a.1 a.2 0 ++ s.trunkPath (a.1 + 1) (b.1 + 1) ++ s.strandPath b.1 0 b.2
  | some a, none => s.strandPath a.1 a.2 0 ++ s.trunkPath (a.1 + 1) 0
  | none, some b => s.trunkPath 0 (b.1 + 1) ++ s.strandPath b.1 0 b.2
  | none, none => []

/-- Whether a transfer waits on a hop of its way: one under repair takes no new flit (R26). -/
def State.pathHeld (s : State) (source target : Nat) : Bool :=
  (s.route source target).any (fun h => s.hops[h]?.any (fun x => x.state == .paused || x.state == .retraining))

/-- The die of a launch's floor keeper, its hub 0 (R87, R115). -/
def State.keeperDie (s : State) (l : Nat) : Nat := (((SMap.find? s.launches l).map (fun (x : Launch) => x.lrec.dies)).getD []).headD 0

def State.eqOp? (s : State) (id : Nat) : Option EqOp := s.eqOps.find? (fun o => o.id == id)

/-- The die that an equivalence operation goes to next: the home of the element at hand for a find, a union or a size (R223); its value comes back to the
core; an operation on a whole forest acts at every home. -/
def EqOp.to (o : EqOp) : Nat :=
  match o.kind, o.phase with
  | .un, .done | .fd, .done | .sz, .done => dieOf o.cid
  | .un, _ | .fd, _ | .sz, _ => o.x / 1024 % 64
  | _, _ => dieOf o.cid

/-- The chiplets between which the message of a due step travels: among hubs, from a core to another hub, from a line to a hub, between a core and the
home of a barrier, and of an equivalence operation on its way to the home of the element at hand. -/
def State.endsOf (s : State) : Instr → Option (Nat × Nat)
  | .proposeReceive l hub _ | .commitReceive l hub _ | .pauseReceive l hub | .resumeReceive l hub _ => some (s.keeperDie l, hub)
  | .proposeAckReceive l hub _ | .holdReceive l hub | .pauseAckReceive l hub _ _ => some (hub, s.keeperDie l)
  | .stealTransferReceive _ giver thief => some (giver, thief)
  | .stealRequestReceive _ giver thief | .stealAckReceive _ giver thief => some (thief, giver)
  | .packetAccept die _ (.remote hdr none) _ => hdr.ack.map (fun a => (dieOf a.1, die))
  | .packetAccept die _ (.remote _ (some giver)) _ => some (if giver < 64 then giver else 80, die)
  | .barrierArrival way .. => some (dieOf way.src, dieOf way.dst)
  | .barrierPhaseDelivery cid l bar _ =>
    ((s.coreAt cid).contextOf l).map fun t => (dieOf (homeOf (t.bar (BitVec.ofNat 7 bar)).rect), dieOf cid)
  | .eqFindHop id | .eqLink id | .eqSizeDelta id | .eqHoldEnd id | .eqOpComplete id => (s.eqOp? id).map fun o => (o.at', o.to)
  | _ => none

/-- Whether the message of a due step waits on a hop under repair (R26). -/
def State.onHeldHop (s : State) (i : Instr) : Bool := (s.endsOf i).any (fun p => s.pathHeld p.1 p.2)

end Sys2Proof.Machine
end

