-- ==== Sys2Proof/Machine/Memory.lean ====
section
/-! DEFINITION. Memory as programs and engines reach it: sectors of device memory (R28 to R34), page tables and free pages
(R173 to R179), windows and pads (R168 to R171), and the read and write of bytes by address. -/

namespace Sys2Proof.Machine

/-- A byte with its poison mark. -/
abbrev PByte := Byte × Psn

/-- Why an access does not go on, each with the state that the reads made so far have left: a trap with its rank in R165's order; a frozen
core whose walk or copy is asked for; a hop of its way that is under repair (R26); a TAG failure of a context at a memory die (R33); a
write to a page of which another launch holds a shadow (R148). -/
inductive Stop where
  | trap (rank : Nat) (cause : Cause) (val : DWord) (origin : Psn) (s : State)
  | stall (h : Hold) (s : State)
  | paused (s : State)
  | tag (at' : TagAt) (val : DWord) (s : State)
  | busy (val : DWord) (s : State)

/-- The state that a stopped access leaves. -/
def Stop.state : Stop → State
  | .trap _ _ _ _ s | .stall _ s | .paused s | .tag _ _ s | .busy _ s => s

/-- The cause under which an engine's access that a trap stops is a fault: PROT for a missing right, else PAGE (R342). -/
def engineCause (c : Cause) : Cause := if c = .prot then .prot else .page

/-- A due step put back at the head, before any later one of its channel (R41, R57, R70, R201). -/
def State.retry (s : State) (again : Instr) : State := { s with agenda := again :: s.agenda }

/-- The answer of an access: a value and the state after it, or why it stops. -/
abbrev Access (α : Type) := Except Stop (α × State)

/-- The answer of one access handed to the next. -/
def Access.bind {α β : Type} (x : Access α) (k : α → State → Access β) : Access β :=
  match x with
  | .ok (a, s) => k a s
  | .error e => .error e

/-- The poison of the first poisoned byte. -/
def psnOf (bs : List PByte) : Psn := bs.findSome? (fun b => b.2)

/-- The plain bytes. -/
def plain (bs : List PByte) : List Byte := bs.map (fun b => b.1)

/-- Clean bytes. -/
def clean (bs : List Byte) : List PByte := bs.map (fun b => (b, none))

/-- The number that bytes stand for, with their poison. -/
def pvalue (bs : List PByte) : PDWord := ⟨BitVec.ofNat 64 (leNat (plain bs)), psnOf bs⟩

/-- The number that n bytes at an offset hold. -/
def field (bs : List Byte) (off n : Nat) : Nat := leNat ((bs.drop off).take n)

/-! ### Pads -/

/-- Bytes of a pad with their poison marks (R147). -/
def Pad.readP (p : Pad) (a : Nat) : Nat → List PByte
  | 0 => []
  | n + 1 => (Mem.get p.bytes a, SMap.find? p.psn (a / 8)) :: Pad.readP p (a + 1) n

/-- Stores bytes into a pad: a word overwritten whole by clean bytes loses its poison, a word that takes a poisoned byte is
poisoned (R147, R312). -/
def Pad.writeP (p : Pad) (a : Nat) (bs : List PByte) : Pad :=
  let q := p.write a (plain bs)
  (bs.zipIdx).foldl (fun q (x : PByte × Nat) => match x.1.2 with
    | some o => { q with psn := SMap.insert q.psn ((a + x.2) / 8) o }
    | none => q) q

/-! ### Sectors of device memory -/

/-- The decoder of R31 at a sector: a sector that was stored or found uncorrectable stays so, and each such read is counted; one symbol in
error is corrected, counted and repaired; two or more, whatever their number, are uncorrectable. Answers whether the sector is
uncorrectable. (The spec speaks of any two symbols in error; that more than two are reported too is a DESIGN CHOICE, log 56.) -/
def State.eccDecode (s : State) (sec : Nat) : Bool × State :=
  let g := channelOf (64 * sec)
  match SMap.find? s.ue sec, SMap.find? s.symErr sec with
  | some _, _ => (true, s.onChan g fun c => { c with ueCount := sat64 c.ueCount })
  | none, some 1 => (false, { s with symErr := SMap.erase s.symErr sec }.onChan g fun c => { c with ceCount := sat64 c.ceCount })
  | none, some _ => (true, { s with symErr := SMap.erase s.symErr sec, ue := SMap.insert s.ue sec .eccUe }.onChan g
      fun c => { c with ueCount := sat64 c.ueCount })
  | none, none => (false, s)

/-- The bytes that a reader without the keys gets of a sector (R32): its ciphertext. -/
def cipherSector (key sector : Nat) (plain : List Byte) : List Byte :=
  Aes.xts ((List.range 32).map (Config.dataKey key)) ((List.range 32).map (Config.tweakKey key)) sector plain

/-- The stored view of n bytes of one sector for a reader under a key (none: physical or ENC = 0), or TAG. -/
def State.sectorView (s : State) (key : Option Nat) (pa n : Nat) : Option (List Byte) :=
  match key, SMap.find? s.enc (pa / 64) with
  | none, none => some (Mem.read s.mem pa n)
  | none, some c => some (((cipherSector c (pa / 64) (Mem.read s.mem (pa / 64 * 64) 64)).drop (pa % 64)).take n)
  | some k, some c => if k = c then some (Mem.read s.mem pa n) else none
  | some _, none => none

/-- A TAG failure at a sector: it is counted, and answers no data (R33, R36). -/
def State.tagStop {α : Type} (s : State) (key : Option Nat) (pa : Nat) (va : DWord) : Access α :=
  .error (.tag ⟨key.getD 0 % 64, memoryDie pa⟩ va (s.onChan (channelOf pa) fun c => { c with tagCount := sat64 c.tagCount }))

/-- Reads n bytes inside one sector (R33). -/
def State.sectorRead (s : State) (key : Option Nat) (pa n : Nat) (va : DWord) : Access (List PByte) :=
  let r := (s.activate pa).eccDecode (pa / 64)
  if r.1 then .ok ((List.range n).map (fun i => (Config.brokenByte (pa / 64) (pa % 64 + i), some .eccUe)), r.2)
  else match r.2.sectorView key pa n with
    | some bs => .ok (clean bs, r.2)
    | none => r.2.tagStop key pa va

/-- Bytes stored inside one sector by an access that has reached its row (R34). -/
def State.sectorPut (s : State) (key : Option Nat) (pa : Nat) (bs : List PByte) (va : DWord) : Access Unit :=
  let sec := pa / 64
  let bad := (psnOf bs).isSome
  if bs.length = 64 then
    let s := { s with mem := Mem.write s.mem pa (plain bs), symErr := SMap.erase s.symErr sec, enc := SMap.put s.enc sec key }
    .ok ((), { s with ue := if bad then SMap.insert s.ue sec .eccUe else SMap.erase s.ue sec })
  else
    let r := s.eccDecode sec
    if r.1 then .ok ((), { r.2 with mem := Mem.write r.2.mem pa (plain bs) })
    else match r.2.sectorView key (64 * sec) 64 with
      | none => r.2.tagStop key pa va
      | some old =>
        let s := { r.2 with mem := Mem.write (Mem.write r.2.mem (64 * sec) old) pa (plain bs), enc := SMap.put r.2.enc sec key }
        .ok ((), if bad then { s with ue := SMap.insert s.ue sec .eccUe } else s)

/-- Writes bytes inside one sector (R34). -/
def State.sectorWrite (s : State) (key : Option Nat) (pa : Nat) (bs : List PByte) (va : DWord) : Access Unit :=
  (s.activate pa).sectorPut key pa bs va

/-- A physical read of n bytes inside one sector: no key, no tag check (R32). -/
def State.physRead (s : State) (pa n : Nat) : List PByte × State :=
  match s.sectorRead none pa n 0 with
  | .ok r => r
  | .error _ => (clean (List.replicate n 0), s)

/-- A physical write inside one sector. -/
def State.physWrite (s : State) (pa : Nat) (bs : List Byte) : State :=
  match s.sectorWrite none pa (clean bs) 0 with
  | .ok r => r.2
  | .error _ => s

/-- A range cut at multiples of 64: pieces (address, length). -/
def pieces : Nat → Nat → Nat → List (Nat × Nat)
  | 0, _, _ => []
  | fuel + 1, a, n =>
    if n = 0 then []
    else
      let k := min n (64 - a % 64)
      (a, k) :: pieces fuel (a + k) (n - k)

/-- A physical read of any length. -/
def State.physReadN (s : State) (pa n : Nat) : List PByte × State :=
  (pieces n pa n).foldl (fun (r : List PByte × State) (x : Nat × Nat) =>
    let q := r.2.physRead x.1 x.2
    (r.1 ++ q.1, q.2)) ([], s)

/-- A physical write of any length. -/
def State.physWriteN (s : State) (pa : Nat) (bs : List Byte) : State :=
  (pieces bs.length pa bs.length).foldl (fun (s : State) (x : Nat × Nat) => s.physWrite x.1 ((bs.drop (x.1 - pa)).take x.2)) s

/-! ### Free pages (R29, R177) -/

/-- Strands in the order in which an allocation for strand s tries them: by trunk hops, ties to the lower strand (R21, R29). -/
def strandOrder (s : Nat) : List Nat :=
  let d := fun (x : Nat) => let k := (max x s) - (min x s); min k (9 - k)
  (List.range 9).flatMap (fun k => (List.range 8).filter (fun x => d x == k))

/-- Whether a page from a ring is one the pool of a strand may use (R177, R136). -/
def pageFits (strand log2 pa : Nat) : Bool :=
  pa % 2 ^ log2 == 0 && pa / 2 ^ 37 == strand && pa % 2 ^ 37 < 0x1FD0000000

/-- LEAKED, saturating (R177). -/
def State.leak (s : State) : State := { s with dev := { s.dev with leaked := BitVec.ofNat 32 (satAdd 32 s.dev.leaked.toNat 1) } }

/-- An MSI-X message asked for on a vector: sent at once, or pending while masked (R77); held while the host interface is frozen
(R81). -/
def State.sendMsix (s : State) (v : Nat) (covers : List Word) : State :=
  if s.dev.hostFrozen then { s with heldMsix := s.heldMsix ++ [(v, covers)], heldOrder := s.heldOrder ++ [true] }
  else if !s.unmasked.contains v then
    if s.msix.any (fun m => m.vector == v && m.due) then
      { s with msix := s.msix.map (fun m => if m.vector == v && m.due then { m with covers := m.covers ++ covers } else m) }
    else { s with msix := s.msix ++ [{ vector := v, expiry := none, covers := covers, due := true }] }
  else s.emit (.msix v covers)

/-- Takes the next entry of a strand's ring, skipping entries that do not fit (R177): HEAD, LEAKED and the low-mark message stand whether
or not one fits. -/
def State.takeRing : Nat → State → Nat → Bool → Option Nat × State
  | 0, s, _, _ => (none, s)
  | fuel + 1, s, strand, big =>
    if h : strand < 8 then
      let p := s.pools[strand]
      let head := if big then p.head2m else p.head64
      let tail := if big then p.tail2m else p.tail64
      if head = tail then (none, s)
      else
        let ring := (if big then p.ring2m else p.ring64).toNat / 4096 * 4096
        let r := s.physRead ((ring + 8 * (head.toNat % 4096)) % 2 ^ 40) 8
        let pa := leNat (plain r.1)
        let p' := if big then { p with head2m := head + 1 } else { p with head64 := head + 1 }
        let s := { r.2 with pools := r.2.pools.set strand p' h }
        let s := if (tail - head).toNat = s.dev.lowMark.toNat then s.sendMsix s.dev.lowVec.toNat [] else s
        if (psnOf r.1).isNone && pageFits strand (if big then 21 else 16) pa then (some pa, s)
        else State.takeRing fuel s.leak strand big
    else (none, s)

/-- Takes a page from one strand's pool: the return stack first (R177). -/
def State.takeFrom (s : State) (strand : Nat) (big : Bool) : Option Nat × State :=
  if h : strand < 8 then
    let p := s.pools[strand]
    match (if big then p.ret2m else p.ret64) with
    | pa :: rest => (some pa, { s with pools := s.pools.set strand (if big then { p with ret2m := rest } else { p with ret64 := rest }) h })
    | [] => s.takeRing 4096 strand big
  else (none, s)

/-- Takes a free page for a strand (R29): the page if some pool gives one, and the state in either case. -/
def State.takePage (s : State) (strand : Nat) (big : Bool) : Option Nat × State :=
  (strandOrder strand).foldl (fun (r : Option Nat × State) x => match r.1 with
    | some _ => r
    | none => r.2.takeFrom x big) (none, s)

/-- A page goes to the return stack of its strand and size; a full stack of 1,024 drops and counts it (R177). -/
def State.returnPage (s : State) (pa : Nat) (big : Bool) : State :=
  if h : pa / 2 ^ 37 < 8 then
    let p := s.pools[pa / 2 ^ 37]
    if (if big then p.ret2m else p.ret64).length ≥ 1024 then s.leak
    else
      let p' := if big then { p with ret2m := pa :: p.ret2m } else { p with ret64 := pa :: p.ret64 }
      { s with pools := s.pools.set (pa / 2 ^ 37) p' h }
  else s.leak

/-- A page of device memory zeroed, under a key (R176). -/
def State.zeroPage (s : State) (key : Option Nat) (pa log2 : Nat) : State :=
  let s := s.activateAll pa (2 ^ log2)
  let s0 := { s with mem := Mem.clear s.mem pa (2 ^ log2), ue := SMap.clear s.ue (pa / 64) (2 ^ log2 / 64)
                     symErr := SMap.clear s.symErr (pa / 64) (2 ^ log2 / 64), enc := SMap.clear s.enc (pa / 64) (2 ^ log2 / 64) }
  match key with
  | none => s0
  | some k => { s0 with enc := SMap.fill s0.enc (pa / 64) (2 ^ log2 / 64) k }

/-! ### Page tables (R173 to R176) -/

/-- Fields of a page-table entry (R174). -/
def pteEnc (e : DWord) : Bool := e.getLsbD 63
def pteKind (e : DWord) : Nat := bits e.toNat 62 61
def pteShadow (e : DWord) : Bool := e.getLsbD 60
def pteX (e : DWord) : Bool := e.getLsbD 59
def pteW (e : DWord) : Bool := e.getLsbD 58
def pteRd (e : DWord) : Bool := e.getLsbD 57
def pteDz (e : DWord) : Bool := e.getLsbD 56
def pteType (e : DWord) : Nat := bits e.toNat 41 40
def pteAddr (e : DWord) : Nat := bits e.toNat 39 8 * 256

/-- log2 of what a leaf of a level maps (R173). -/
def pageLog2 : Nat → Nat
  | 0 => 16 | 1 => 21 | 2 => 30 | _ => 39

/-- Index of an address at a level (R173). -/
def pteIndex (lv va : Nat) : Nat :=
  match lv with
  | 0 => bits va 20 16 | 1 => bits va 29 21 | 2 => bits va 38 30 | _ => bits va 55 39

/-- Whether an entry is malformed at its level (R174). -/
def pteBad (lv : Nat) (e : DWord) : Bool :=
  bits e.toNat 55 42 != 0 || bits e.toNat 7 0 != 0 || pteType e == 3
  || (pteType e == 2 && (pteKind e == 3 || lv == 3 || pteAddr e % 2 ^ pageLog2 lv != 0))
  || (pteType e == 1 && (lv == 0 || (lv ≥ 2 && pteAddr e % 4096 != 0)))

/-- What a walk finds: a leaf; a demand-zero entry with its place and level; nothing usable, with the origin of a poisoned entry; or a hop of
its way under repair (R26). -/
inductive Walk where
  | leaf (e : DWord) (log2 : Nat)
  | dz (e : DWord) (pa : Nat) (lv : Nat)
  | bad (o : Psn)
  | held
  deriving DecidableEq, Repr

/-- One entry judged: the walk's end, or the next table. A demand-zero entry of KIND 3 traps PAGE as one that is served would (R174). -/
def pteJudge (lv : Nat) (pa : Nat) (e : PDWord) : Walk ⊕ Nat :=
  if e.psn.isSome then .inl (.bad (some .eccUe))
  else if pteBad lv e.val then .inl (.bad none)
  else match pteType e.val with
    | 1 => .inr (pteAddr e.val)
    | 2 => .inl (.leaf e.val (pageLog2 lv))
    | _ => if pteDz e.val && lv ≤ 1 && pteKind e.val != 3 then .inl (.dz e.val pa lv) else .inl (.bad none)

/-- The walk from a table of a level down (R173), made from a chiplet. -/
def State.walkFrom (s : State) (chiplet va : Nat) : Nat → Nat → Walk × State
  | 0, base =>
    let pa := (base + 8 * pteIndex 0 va) % 2 ^ 40
    if s.pathHeld chiplet (memoryDie pa) then (.held, s)
    else
      let r := s.physRead pa 8
      match pteJudge 0 pa (pvalue r.1) with
      | .inl w => (w, r.2)
      | .inr _ => (.bad none, r.2)
  | lv + 1, base =>
    let pa := (base + 8 * pteIndex (lv + 1) va) % 2 ^ 40
    if s.pathHeld chiplet (memoryDie pa) then (.held, s)
    else
      let r := s.physRead pa 8
      match pteJudge (lv + 1) pa (pvalue r.1) with
      | .inl w => (w, r.2)
      | .inr next => State.walkFrom r.2 chiplet va lv next

/-- The walk of an address in a context's page tables, made from a chiplet. -/
def State.walk (s : State) (chiplet ctx va : Nat) : Walk × State :=
  if h : ctx < 64 then s.walkFrom chiplet va 3 s.ctxs[ctx].ptRoot.toNat else (.bad none, s)

/-- The translation-cache entry of a die for an address (R175). -/
def State.cached (s : State) (die ctx va : Nat) : Option (DWord × Nat) :=
  (SMap.getD s.tlbs die []).findSome? (fun e => if e.ctx = ctx ∧ va / 2 ^ e.log2 = e.vpage then some (e.leaf, e.log2) else none)

/-- A leaf put into a die's translation cache of 4,096 entries; which others stay is open (R175). -/
def State.cache (s : State) (die ctx va : Nat) (leaf : DWord) (log2 : Nat) : State :=
  let old := (SMap.getD s.tlbs die []).zipIdx.filter (fun x => Config.tlbKeep (s.tick + x.2)) |>.map (fun x => x.1)
  { s with tlbs := SMap.insert s.tlbs die ((⟨ctx, va / 2 ^ log2, log2, leaf⟩ :: old).take 4096) }

/-- The key of an access through a leaf (R32). -/
def State.leafKey (s : State) (ctx : Nat) (e : DWord) : Option Nat := if pteEnc e then some (s.keyNo ctx) else none

/-- Serves a demand-zero entry: a page is taken, zeroed, and the entry becomes a leaf (R176); no leaf while every pool is empty. -/
def State.serveDz (s : State) (strand ctx : Nat) (e : DWord) (pa lv : Nat) : Option DWord × State :=
  match s.takePage strand (lv == 1) with
  | (none, s) => (none, s)
  | (some page, s) =>
    let leaf := putBits (putBits (putBits e 56 56 0) 41 40 2) 39 8 (page / 256)
    let s := s.zeroPage (s.leafKey ctx e) page (pageLog2 lv)
    (some leaf, s.physWrite pa (leBytes 8 leaf.toNat))

/-! ### Places and rights -/

/-- The window that a virtual address with bits 55:48 = 0xFF names for a core (R169). -/
def windowOf (cid va : Nat) : Option Loc :=
  let o := va - 0xFF000000000000
  if va < 0xFF000000000000 then none
  else if o < 0x200000 then some (.l1 cid o true)
  else if 0x800000 ≤ o ∧ o < 0x1000000 then some (.l2 (clusterOf cid) (o - 0x800000))
  else if 0x1000000 ≤ o ∧ o < 0x2000000 then some (.l3 (dieOf cid) (o - 0x1000000))
  else if 0x2000000 ≤ o ∧ o < 0x2002000 then some (.memStat (o - 0x2000000))
  else if 0x2100000 ≤ o ∧ o < 0x2200000 then some (.hubStat (o - 0x2100000))
  else if 0x2200000 ≤ o ∧ o < 0x2200400 then some (.group (o - 0x2200000))
  else if 0x100000000 ≤ o ∧ o < 0x180000000 then some (.l1 ((o - 0x100000000) / 2 ^ 21) (o % 2 ^ 21) false)
  else if 0x200000000 ≤ o ∧ o < 0x280000000 then some (.l2 ((o - 0x200000000) / 2 ^ 23) (o % 2 ^ 23))
  else if 0x300000000 ≤ o ∧ o < 0x340000000 then some (.l3 ((o - 0x300000000) / 2 ^ 24) (o % 2 ^ 24))
  else none

/-- Cores of a cluster (R168). -/
def clusterCores (cl : Nat) : List Nat :=
  let x := 2 * (cl % 16); let y := 2 * (cl / 16)
  [cidOf x y, cidOf (x + 1) y, cidOf x (y + 1), cidOf (x + 1) (y + 1)]

/-- Whether a launch may use a place (R171, R102). -/
def LaunchRec.mayUse (r : LaunchRec) : Loc → Bool
  | .l1 cid _ own => own || r.has cid
  | .l2 cl _ => (clusterCores cl).all r.has
  | .l3 die off => (List.range 16).all (fun n => r.has (cidInDie die n)) && !(0xC00000 ≤ off && off < 0xFFF000)
  | _ => true

/-- Whether a physical address lies in a save region (R136). -/
def inSaveRegion (pa : Nat) : Bool := pa % 2 ^ 37 ≥ 0x1FD0000000

/-- Who makes an access: the core that translates it, its context and launch, whether an engine makes it, and the chiplet that it comes from
(R20). -/
structure Who where
  cid : Nat
  ctx : Nat
  lslot : Option Nat
  engine : Bool
  chiplet : Nat
  deriving DecidableEq, Repr

/-- The moving core itself. -/
def State.me (s : State) : Who := ⟨s.core.cid, s.core.t.ctx, some s.core.t.lslot, false, dieOf s.core.cid⟩

/-- An engine that works for a core. -/
def State.engineOf (s : State) (cid : Nat) : Who :=
  let t := (s.coreAt cid).t
  ⟨cid, t.ctx, some t.lslot, true, dieOf cid⟩

/-- Whether a leaf gives a right (R174). -/
def Right.held (r : Right) (e : DWord) : Bool :=
  match r with
  | .x => pteX e
  | .w => pteW e
  | .rd => pteRd e

/-- The shadow that a launch holds of the page at a base address (R148, R179): keyed by the base, odd for 2 MiB. -/
def shadowKey (base log2 : Nat) : Nat := base + (if log2 = 21 then 1 else 0)

def Launch.shadowOf (l : Launch) (base log2 : Nat) : Option Nat := SMap.find? l.shadows (shadowKey base log2)

/-- Whether a launch other than the writer holds a shadow of the page that a physical address lies in (R148). -/
def State.shadowedByOther (s : State) (me : Option Nat) (pa : Nat) : Bool :=
  s.launches.any (fun x => some x.1 != me && x.2.shadows.any (fun (p : Nat × Nat) =>
    if p.1 % 2 = 1 then (p.1 - 1) ≤ pa && pa < p.1 - 1 + 2 ^ 21 else p.1 ≤ pa && pa < p.1 + 2 ^ 16))

/-- The sectors of a range that a map lists, in ascending order. -/
def SMap.within {α : Type} (m : SMap α) (a n : Nat) : List Nat := (m.filter (fun x => a ≤ x.1 && x.1 < a + n)).map (fun x => x.1)

/-- Every sector of a range read: corrections are made and counted, and uncorrectable ones counted (R31, R35, R36). -/
def State.readRange (s : State) (pa n : Nat) : State :=
  ((SMap.within s.symErr (pa / 64) (n / 64)) ++ (SMap.within s.ue (pa / 64) (n / 64))).foldl (fun (s : State) sec => (s.eccDecode sec).2)
    (s.activateAll pa n)

/-- A page of device memory copied whole, each sector under the keys that it lies under, poisoned ones as poisoned. -/
def State.copyPage (s : State) (src dst log2 : Nat) : State :=
  let s := s.readRange src (2 ^ log2)
  let inPage := fun (a : Nat) => src ≤ a && a < src + 2 ^ log2
  let inSec := fun (a : Nat) => src / 64 ≤ a && a < (src + 2 ^ log2) / 64
  let s0 := s.zeroPage none dst log2
  { s0 with
    mem := (s0.mem.filter (fun c => inPage c.1)).foldl (fun (m : Mem) c => Mem.set m (c.1 - src + dst) c.2) s0.mem
    ue := (s0.ue.filter (fun c => inSec c.1)).foldl (fun m c => SMap.insert m (c.1 - src / 64 + dst / 64) c.2) s0.ue
    enc := (s0.enc.filter (fun c => inSec c.1)).foldl (fun m c => SMap.insert m (c.1 - src / 64 + dst / 64) c.2) s0.enc }

/-- The first sector of a page that a read under keys finds stored under others, or plain (R33). -/
def State.tagMiss (s : State) (k pa log2 : Nat) : Option Nat :=
  (List.range (2 ^ log2 / 64)).find? fun i => (SMap.find? s.ue (pa / 64 + i)).isNone && SMap.find? s.enc (pa / 64 + i) != some k

/-- A page copied by an access through a leaf, under its ENC and the keys of its context (R32, R148): without keys the ciphertext of a sector is
what is copied; under keys a sector that lies under others fails its tag check (R33). That the copy of R148 is made through the leaf that the
write was translated through is a DESIGN CHOICE, log 69. -/
def State.copyUnder (s : State) (key : Option Nat) (src dst log2 : Nat) (va : DWord) : Access Unit :=
  match key with
  | some k =>
    match (s.readRange src (2 ^ log2)).tagMiss k src log2 with
    | some i => (s.readRange src (2 ^ log2)).tagStop key (src + 64 * i) va
    | none =>
      let s := s.copyPage src dst log2
      .ok ((), { s with enc := SMap.fill s.enc (dst / 64) (2 ^ log2 / 64) k })
  | none =>
    let s := s.copyPage src dst log2
    let raw := fun (m : Mem) (c : Nat × Nat) =>
      let at' := c.1 - src / 64 + dst / 64
      if (SMap.find? s.ue c.1).isSome then m else Mem.write m (64 * at') (cipherSector c.2 c.1 (Mem.read s.mem (64 * c.1) 64))
    .ok ((), { s with
      mem := (s.enc.filter (fun c => src / 64 ≤ c.1 && c.1 < (src + 2 ^ log2) / 64)).foldl raw s.mem
      enc := SMap.clear s.enc (dst / 64) (2 ^ log2 / 64) })

/-- Makes the shadow copy of a page for a launch, read and stored under a key; none while every pool is empty (R148, R179). -/
def State.makeShadow (s : State) (l strand base log2 : Nat) (key : Option Nat) (va : DWord) : Access (Option Nat) :=
  match s.takePage strand (log2 == 21) with
  | (none, s) => .ok (none, s)
  | (some page, s) =>
    match s.copyUnder key base page log2 va with
    | .error e => .error e
    | .ok (_, s) => .ok (some page, s.onLaunch l fun x => { x with
        shadows := SMap.insert x.shadows (shadowKey base log2) page
        shadowPending := x.shadowPending.filter (fun p => p.1 != shadowKey base log2) })

/-- The core is frozen until a walk or copy ends, unless the hold has ended without a page: then PAGE (R175, R178). -/
def State.frozenOn (s : State) (w : Who) (h : Hold) (va : Nat) (due : Instr) : Stop :=
  if !w.engine && s.core.t.allocFail then .trap 4 .page (BitVec.ofNat 64 va) none s
  else .stall h (s.pushOnce due |>.mapT fun t => { t with walkVa := va })

/-- The core that wrote a page first, if its copy is pending, or this one (R29). -/
def Launch.firstWriter (x : Launch) (key cid : Nat) : Nat := ((x.shadowPending.find? (fun p => p.1 == key)).map (fun p => p.2.1)).getD cid

/-- The place of a translated access (R148, R174, R179). -/
def State.placeLeaf (s : State) (w : Who) (r : Right) (va : Nat) (e : DWord) (log2 : Nat) : Access Loc :=
  let vaw : DWord := BitVec.ofNat 64 va
  let base := pteAddr e
  let pa := base + va % 2 ^ log2
  let at' := fun (b : Nat) => Loc.dev (b + va % 2 ^ log2) (s.leafKey w.ctx e) (pteKind e)
  if !r.held e then .error (.trap 4 .prot vaw none s)
  else if inSaveRegion pa then .error (.trap 4 .prot vaw none s)
  else
    let l? := w.lslot.bind (fun l => SMap.find? s.launches l)
    let mine := pteShadow e && (l?.map (fun x => x.lrec.recov)).getD false
    let copy := l?.bind (fun x => if mine then x.shadowOf base log2 else none)
    match r, copy with
    | _, some c => .ok (at' c, s)
    | .w, none =>
      if w.lslot.isSome && s.shadowedByOther w.lslot pa then .error (.busy vaw s)
      else if mine then
        if log2 = 30 then .error (.trap 4 .page vaw none s)
        else
          let l := w.lslot.getD 0
          let key := shadowKey base log2
          if w.engine then
            match s.makeShadow l (strandOf ((l?.map (fun x => x.firstWriter key w.cid)).getD w.cid)) base log2 (s.leafKey w.ctx e) vaw with
            | .ok (some c, s) => .ok (at' c, s)
            | .ok (none, s) => .error (.stall .allocHold s)
            | .error x => .error x
          else
            let s := s.onLaunch l fun x =>
              if x.shadowPending.any (fun p => p.1 == key) then x
              else { x with shadowPending := x.shadowPending ++ [(key, w.cid, pteEnc e)] }
            .error (s.frozenOn w .shadowHold va (.shadowCopyDone l key))
      else .ok (at' base, s)
    | _, none => .ok (at' base, s)

/-- An engine's walk, made as it runs (R342): the leaf that it finds or makes. -/
def State.engineWalk (s : State) (w : Who) (r : Right) (va : Nat) : Access Loc :=
  let x := s.walk w.chiplet w.ctx va
  match x.1 with
  | .held => .error (.paused x.2)
  | .bad o => .error (.trap 4 .page (BitVec.ofNat 64 va) o x.2)
  | .leaf e log2 => x.2.placeLeaf w r va e log2
  | .dz e pa lv =>
    match x.2.serveDz (strandOf w.cid) w.ctx e pa lv with
    | (some e', s) => s.placeLeaf w r va e' (pageLog2 lv)
    | (none, s) => .error (.stall .allocHold s)

/-- The place of a device virtual address by the caches and page tables (R173 to R179): a miss of a core's own access freezes it until the
walk ends, and a walk that ended without a leaf is a trap of the access that asked for it (R175); an engine walks at once. -/
def State.translate (s : State) (w : Who) (r : Right) (va : Nat) : Access Loc :=
  let vaw : DWord := BitVec.ofNat 64 va
  match s.cached (dieOf w.cid) w.ctx va with
  | some (e, log2) => s.placeLeaf w r va e log2
  | none =>
    if w.engine then s.engineWalk w r va
    else match s.core.t.walkBad.find? (fun x => x.1 == va) with
      | some x => .error (.trap 4 .page vaw x.2 s)
      | none => .error (s.frozenOn w .walk va (.pageWalkDone (dieOf w.cid) w.ctx vaw))

/-- The translation that the bundle at issue has taken for an address and a right (R175). -/
def Thread.taken (t : Thread) (r : Right) (va : Nat) : Option Loc := (t.xlat.find? (fun x => x.va == va && x.r == r)).map (fun x => x.loc)

/-- A pad that is to serve a context is zeroed first if another context used it last (R161): a cluster or die pad at its first access for the
new one, and so the unit pad of a core that runs nothing, by the window of another. The unit pad of a core at work serves the context of
that work, whoever reaches it by the window (DESIGN CHOICE, log 61). -/
def State.serve (s : State) (ctx : Nat) : Loc → State
  | .l2 cl _ => if SMap.find? s.l2Ctx cl = some ctx then s else { s with l2 := SMap.erase s.l2 cl, l2Ctx := SMap.insert s.l2Ctx cl ctx }
  | .l3 die _ => if SMap.find? s.l3Ctx die = some ctx then s else { s with l3 := SMap.erase s.l3 die, l3Ctx := SMap.insert s.l3Ctx die ctx }
  | .l1 cid _ own =>
    let c := s.coreAt cid
    if own || c.t.mode != .idle || c.lastCtx == some ctx then s
    else s.onCore cid fun c => { c with l1 := {}, lastCtx := some ctx, t := { c.t with wbuf := [], wbufPsn := [] } }
  | _ => s

/-- A place in a window with the rights of a launch (R171): code is fetched from pads only. -/
def LaunchRec.windowPlace (rect : LaunchRec) (ctx : Nat) (r : Right) (va : Nat) (loc : Loc) (s : State) : Access Loc :=
  let vaw : DWord := BitVec.ofNat 64 va
  let pad := match loc with | .l1 .. | .l2 .. | .l3 .. => true | _ => false
  if r = .x && !pad then .error (.trap 4 .page vaw none s)
  else if rect.mayUse loc then .ok (loc, s.serve ctx loc) else .error (.trap 3 .prot vaw none s)

/-- The chiplet that a place lies on (R20, R28, R168, R169). -/
def Loc.chiplet : Loc → Nat
  | .l1 cid _ _ => dieOf cid
  | .l2 cl _ => dieOf ((clusterCores cl).headD 0)
  | .l3 die _ => die
  | .memStat off => 64 + 2 * (off / 64 / 16) + off / 64 % 16 / 8
  | .hubStat off => off / 0x4000
  | .group _ => 80
  | .dev pa _ _ => memoryDie pa

/-- The place that an address leads to, with the rights it needs (R165, R169, R171, R174 to R179, R277). An access of the core keeps the
translation of its check stage as long as its bundle is held (R175). -/
def State.resolve (s : State) (w : Who) (r : Right) (va : Nat) : Access Loc :=
  let vaw : DWord := BitVec.ofNat 64 va
  if va ≥ 2 ^ 56 then .error (.trap 3 .page vaw none s)
  else if va ≥ 0xFF000000000000 then
    match windowOf w.cid va with
    | none => .error (.trap 3 .page vaw none s)
    | some loc => (((w.lslot.bind (fun l => SMap.find? s.launches l)).map (fun (x : Launch) => x.lrec)).getD {}).windowPlace w.ctx r va loc s
  else if w.engine then s.translate w r va
  else match s.core.t.taken r va with
    | some loc => .ok (loc, s)
    | none => Access.bind (s.translate w r va) fun loc s => .ok (loc, s.mapT fun t => { t with xlat := t.xlat ++ [⟨va, r, loc⟩] })

/-! ### Status windows (R36, R129, R52) -/

/-- A 64-bit word from two halves. -/
def pair (hi lo : Nat) : Nat := (hi % 2 ^ 32) * 2 ^ 32 + lo % 2 ^ 32

/-- The eight doublewords of a channel's status block (R36). -/
def Channel.block (c : Channel) : List Nat :=
  [c.ceCount.toNat, c.ueCount.toNat, c.tagCount.toNat, c.rfmCount.toNat, c.actMax.toNat, c.actThr.toNat, 0, 0]

/-- Every packet that a hub block holds before its dispatch (R121). -/
def HubBlock.waiting (h : HubBlock) : List Task := h.buckets.flatMap (fun b => b.2) ++ h.far ++ h.pending ++ h.held ++ h.late

/-- Packets in the spill pages of a launch at a hub, those that wait for a port among them (R123, R360). -/
def HubBlock.spilled (h : HubBlock) : Nat := (h.pages.map (fun p => p.live)).foldl (· + ·) 0

/-- Whether pops of a launch are paused at a hub, by a HOLD of its own hubs or of the group (R117, R125). -/
def HubBlock.stopped (h : HubBlock) : Bool := h.paused || h.gpaused

/-- The eight doublewords of a hub's status block for a launch (R129); onDie: the launch's packets in the hub's slots. -/
def HubBlock.block (h : HubBlock) (multi : Bool) (onDie : Nat) : List Nat :=
  [pair h.fc h.guard, pair (if multi then h.gc else h.fc) ((if h.stopped then 64 else 0) + h.reach % 64),
   pair onDie (min h.spilled (2 ^ 32 - 1)), pair (min h.far.length (2 ^ 32 - 1)) (h.held.length + h.late.length),
   (List.range 64).foldl (fun m j => if (SMap.getD h.buckets (h.fc + j) []).isEmpty then m else m + 2 ^ j) 0,
   pair h.pushed.toNat h.popped.toNat, pair h.holds.toNat h.clamps.toNat, pair h.stolenIn.toNat h.stolenOut.toNat]

/-- The status block of a launch slot at a die's hub; 0 while no launch holds the slot. -/
def State.hubBlock (s : State) (die l : Nat) : List Nat :=
  match SMap.find? s.launches l with
  | none => List.replicate 8 0
  | some x => (SMap.getD x.hubs die { reach := x.lrec.reach }).block x.lrec.multi (((s.hub die).slots.filter (fun p => p.2 == l)).length)

/-- The bits of a doubleword of a group-table entry that are not reserved (R52). -/
def groupMask : Nat → DWord
  | 0 | 2 => 0xFFFFFFFF0003FFFF#64
  | 6 => 0xFF0F#64
  | 7 => 1
  | _ => 0xFFFFFFFFFFFFFFFF#64

/-- A doubleword of a group-table entry as the table holds it (R52): reserved bits read 0; with no table set, the reset values. -/
def State.groupRaw (s : State) (e k : Nat) : PDWord × State :=
  if s.dev.groupTab = 0 then (⟨if k = 6 then 2 else 0, none⟩, s)
  else
    let r := s.physRead ((s.dev.groupTab.toNat + 64 * e + 8 * k) % 2 ^ 40) 8
    let v := pvalue r.1
    ({ v with val := v.val &&& groupMask k }, r.2)

def State.port (s : State) (d : Nat) : Port := if h : d < 64 then s.ports[d] else {}

/-- The own port that faces a position of the own pod (R43, R45): port k, or the own position's port while the spare holds position k. -/
def State.podPort (s : State) (self k : Nat) : Nat := if s.spareAt = some k then self % 64 else k

/-- An entry of the member address table (R48). -/
structure MemberEntry where
  port : Nat
  prio : Nat
  dscp : Nat
  addr : List Byte
  nhmac : List Byte

/-- An entry of the member address table read (R48): none when it is invalid. One read with poison is taken as invalid, for the rule speaks of its
fields only: DESIGN CHOICE, log 65. -/
def State.memberEntry (s : State) (member : Nat) : Option MemberEntry × State :=
  let r := s.physRead ((s.dev.addrTab.toNat + 32 * member) % 2 ^ 40) 32
  let b := plain r.1
  let f := field b 22 1
  (if (psnOf r.1).isSome || !f.testBit 0 || f / 4 != 0 || field b 24 8 != 0 then none
   else some { port := bits f 1 1, prio := bits (field b 23 1) 1 0, dscp := bits (field b 23 1) 7 2, addr := b.take 16, nhmac := (b.drop 16).take 6 }, r.2)

/-- Whether an Ethernet port's link is up. -/
def State.ethUp (s : State) (p : Nat) : Bool := s.eths[p]?.any (fun e => e.up)

/-- Whether no buddy of a group is set or reachable (R60): BUDDY is SELF, its port is down, or its entry of the member address table is invalid. That
BUDDY = SELF says that none is set is a DESIGN CHOICE, log 67: R52 gives BUDDY no such value. -/
def State.noBuddy (s : State) (e : Nat) : Bool × State :=
  let g := s.groupRaw e 0
  let b := g.2.groupRaw e 2
  let self := bits g.1.val.toNat 17 0
  let m := bits b.1.val.toNat 17 0
  let s := b.2
  if m = self then (true, s)
  else if m / 64 = self / 64 then ((s.port (s.podPort self (m % 64))).link.state == .down, s)
  else match List.find? (fun (x : Nat × QPair) => x.2.member == m) s.qps with
    | some x => (!s.ethUp x.2.port, s)
    | none => let r := s.memberEntry m; (r.1.all (fun x => !r.2.ethUp x.port), r.2)

/-- A doubleword of a group-table entry as the device reads it (R52): JSTATE is 2 while no buddy is set or reachable (R60). -/
def State.groupWord (s : State) (e k : Nat) : PDWord × State :=
  let r := s.groupRaw e k
  if k != 6 || s.dev.groupTab = 0 then r
  else
    let n := r.2.noBuddy e
    (if n.1 then { r.1 with val := putBits r.1.val 3 0 2 } else r.1, n.2)

/-- Writes a doubleword of a group-table entry, if a table is set. -/
def State.setGroupWord (s : State) (e k : Nat) (v : DWord) : State :=
  if s.dev.groupTab = 0 then s else s.physWrite ((s.dev.groupTab.toNat + 64 * e + 8 * k) % 2 ^ 40) (leBytes 8 v.toNat)

/-- SNAP_GO of an entry written by a program of a context (R52, R59): it reads 1 from then on; while it does, a further write starts nothing. -/
def State.startSnap (s : State) (e cid ctx : Nat) : State :=
  let g := s.groupWord e 7
  if g.1.val.getLsbD 0 then g.2
  else ({ g.2 with snaps := SMap.insert g.2.snaps e (cid, ctx) } : State).setGroupWord e 7 1 |>.push (.snapGo e)

/-- Bytes out of a block of doublewords. -/
def blockBytes (ws : List Nat) (off n : Nat) : List PByte := clean (((ws.flatMap (fun w => leBytes 8 w)).drop off).take n)

/-! ### Pads by place -/

/-- Whether a byte of the ring table is of a descriptor that holds or has held buffers: it ignores program writes (R187). -/
def Pad.ringClosed (p : Pad) (a : Nat) : Bool :=
  0x7FFC00 ≤ a && (Mem.get p.bytes (a / 16 * 16 + 8) != 0 || Mem.get p.bytes (a / 16 * 16 + 9) != 0)

/-- Whether a byte of the ring table is one of the indexes, which are hardware fields (R187). -/
def ringIndex (a : Nat) : Bool := 0x7FFC00 ≤ a && 8 ≤ a % 16 && a % 16 < 12

/-- Bytes with the places that they go to. -/
def placed (off : Nat) (bs : List PByte) : List (Nat × PByte) := bs.zipIdx.map (fun x => (off + x.2, x.1))

/-- Bytes stored one by one at their places, those that kept aside: a 64-bit word whose every byte the store gives clean loses its poison, though
it keeps its hardware fields (R147, R168, R187). -/
def Pad.putBytes (p : Pad) (xs : List (Nat × PByte)) (kept : Nat → Bool) : Pad :=
  let q := (xs.filter (fun x => !kept x.1)).foldl (fun (q : Pad) x => q.put x.1 [x.2.1] x.2.2) p
  let whole := fun (w : Nat) => (List.range 8).all (fun i => xs.any (fun x => x.1 == 8 * w + i && x.2.2.isNone))
  { q with psn := q.psn.filter (fun x => !whole x.1) }

/-- The doubleword k of a reduction-slot descriptor (R54). -/
def slotAddr (slot k : Nat) : Nat := 0xFFF000 + 64 * slot + 8 * k
def Pad.slotWord (p : Pad) (slot k : Nat) : Nat := leNat (p.read (slotAddr slot k) 8)
def Pad.setSlotWord (p : Pad) (slot k v : Nat) : Pad := p.write (slotAddr slot k) (leBytes 8 v)

/-- STATE of a slot (R54). -/
def Pad.slotState (p : Pad) (slot : Nat) : Nat := bits (p.slotWord slot 7) 3 0

/-- Size of a slot's elements (R54). -/
def slotElemSize (ty : Nat) : Nat := if ty = 1 then 8 else 4

/-- Whether a descriptor breaks a limit of R54 (R55). A GROUP above 15 and an ACC_BASE that is no multiple of 64, or not below the slot area, break
limits that R54 states and R55's list does not name: that they give STATE 5 too is a DESIGN CHOICE, log 67. -/
def Pad.slotBad (p : Pad) (slot : Nat) : Bool :=
  let w1 := p.slotWord slot 1
  let acc := p.slotWord slot 0
  let n := bits w1 39 16
  let ty := bits w1 3 0
  let w7 := p.slotWord slot 7
  bits w1 63 40 != 0 || ty > 2 || (bits w1 7 4 != 6 && bits w1 7 4 != 7) || n == 0 || n > (if ty = 1 then 32768 else 65536)
  || bits w1 15 8 > 15 || acc % 64 != 0 || acc ≥ 0xFFF000 || acc + n * slotElemSize ty > 0xFFF000
  || bits w7 47 12 != 0 || bits w7 7 5 != 0

/-- Arming of a slot (R55): counts to 0, fields checked; a violation sets STATE to 5. -/
def Pad.armSlot (p : Pad) (slot : Nat) : Pad :=
  let p := p.setSlotWord slot 6 0
  let w7 := p.slotWord slot 7
  let low := bits w7 47 4 * 16
  p.setSlotWord slot 7 (low + (if p.slotBad slot then 5 else 1))

/-- A program's store into the reduction slots (R54, R55): hardware fields keep their values; an armed slot takes only a write
of STATE = 0; STATE takes 0 or 1; a store of STATE = 1 arms. -/
def Pad.slotStore (p : Pad) (off : Nat) (bs : List PByte) : Pad :=
  let slot := (off - 0xFFF000) / 64
  let old7 := p.slotWord slot 7
  let armed := bits old7 3 0 == 1
  let touches := bs.zipIdx.any (fun x => (off + x.2) % 64 == 56)
  let newState := ((bs.zipIdx.find? (fun x => (off + x.2) % 64 == 56)).map (fun x => bits x.1.1.toNat 3 0)).getD 0
  if armed then
    if touches && newState == 0 then p.setSlotWord slot 7 (old7 / 16 * 16) else p
  else
    let keep := fun (a : Nat) => (48 ≤ a % 64 && a % 64 < 56) || 62 ≤ a % 64
    let p' := p.putBytes (placed off bs) keep
    if !touches then p'
    else if newState == 1 then p'.armSlot slot
    else if newState == 0 then p'
    else p'.setSlotWord slot 7 ((p'.slotWord slot 7) / 16 * 16 + bits old7 3 0)

/-- The pad at an L2 or L3 place. -/
def State.l2At (s : State) (cl : Nat) : Pad := SMap.getD s.l2 cl {}
def State.l3At (s : State) (die : Nat) : Pad := SMap.getD s.l3 die {}

/-- Reads n bytes at a place; a place never spans more than 64 bytes. -/
def State.readLoc (s : State) (loc : Loc) (n : Nat) (va : DWord) : Access (List PByte) :=
  match loc with
  | .l1 cid off _ => .ok ((s.coreAt cid).l1.readP off n, s)
  | .l2 cl off => .ok ((s.l2At cl).readP off n, s)
  | .l3 die off => .ok ((s.l3At die).readP off n, s)
  | .memStat off => .ok (blockBytes (if h : off / 64 < 128 then s.chans[off / 64].block else []) (off % 64) n, s)
  | .hubStat off => .ok (blockBytes (s.hubBlock (off / 0x4000) (off % 0x4000 / 64)) (off % 64) n, s)
  | .group off =>
    let lo := off % 64 / 8
    let hi := (off % 64 + n + 7) / 8
    let r := (List.range (hi - lo)).foldl (fun (r : List PByte × State) i =>
      let q := r.2.groupWord (off / 64) (lo + i)
      (r.1 ++ (leBytes 8 q.1.val.toNat).map (fun b => (b, q.1.psn)), q.2)) ([], s)
    .ok ((r.1.drop (off % 8)).take n, r.2)
  | .dev pa key _ => s.sectorRead key pa n va

/-- What follows when a slot has been armed: its deadline runs (R58), and on a spare that catches up the journal closes it (R61). -/
def State.slotArmed (s : State) (die slot : Nat) : State :=
  let p := s.l3At die
  let s := if p.slotWord slot 5 = 0 then s else s.pushOnce (.slotDeadline die slot)
  if (SMap.find? s.catchUp (bits (p.slotWord slot 1) 15 8)).isSome then s.push (.slotArm die slot) else s

/-- Sets EV of a core (R292). -/
def State.setEv (s : State) (cid : Nat) : State := s.onCore cid fun c => { c with t := { c.t with ev := true } }

/-- A store to device memory made by someone: one outside the shadow pages of a launch ends its replayability (R149). -/
def devStored (who : Who) (pa : Nat) (x : Access Unit) : Access Unit :=
  Access.bind x fun _ s =>
    let shadowed := who.lslot.any (fun l => s.launches.any (fun x => x.1 == l && x.2.shadows.any (fun (p : Nat × Nat) =>
      p.2 ≤ pa && pa < p.2 + (if p.1 % 2 = 1 then 2 ^ 21 else 2 ^ 16))))
    .ok ((), if shadowed then s else (who.lslot.map s.noReplay).getD s)

/-- Writes bytes at a place. -/
def State.writeLoc (s : State) (who : Who) (loc : Loc) (bs : List PByte) (va : DWord) : Access Unit :=
  match loc with
  | .l1 cid off own =>
    let s' := s.onCore cid fun c => { c with l1 := c.l1.writeP off bs }
    .ok ((), if own || (cid = who.cid && !who.engine) then s' else s'.setEv cid)
  | .l2 cl off =>
    let p := s.l2At cl
    .ok ((), { s with l2 := SMap.insert s.l2 cl (if off + bs.length ≤ 0x7FFC00 then p.writeP off bs else p.putBytes ((placed off bs).filter (fun x => !p.ringClosed x.1)) ringIndex) })
  | .l3 die off =>
    let p := s.l3At die
    let q := if off < 0xFFF000 then p.writeP off bs else p.slotStore off bs
    let slot := (off - 0xFFF000) / 64
    let s' : State := { s with l3 := SMap.insert s.l3 die q }
    .ok ((), if 0xFFF000 ≤ off && p.slotState slot != 1 && q.slotState slot == 1 then s'.slotArmed die slot else s')
  | .memStat _ | .hubStat _ => .ok ((), s)
  | .group off =>
    if off % 64 = 56 && s.dev.groupTab != 0 && (bs.headD (0, none)).1.getLsbD 0 then .ok ((), s.startSnap (off / 64) who.cid who.ctx)
    else .ok ((), s)
  | .dev pa key _ => devStored who pa (s.sectorWrite key pa bs va)

/-! ### Accesses by address -/

/-- Resolves the pieces of an access, all before any is performed (R190). What an engine reads or writes across a hop under repair waits
(R26); an access of a core waits in its egress. -/
def State.resolveAll (w : Who) (r : Right) : List (Nat × Nat) → State → Access (List (Loc × Nat × Nat))
  | [], s => .ok ([], s)
  | (a, n) :: ps, s =>
    Access.bind (s.resolve w r a) fun loc s =>
      if w.engine && s.pathHeld w.chiplet loc.chiplet then .error (.paused s)
      else Access.bind (State.resolveAll w r ps s) fun rest s => .ok ((loc, a, n) :: rest, s)

/-- Reads resolved pieces in address order. -/
def State.readAll : List (Loc × Nat × Nat) → State → Access (List PByte)
  | [], s => .ok ([], s)
  | (loc, a, n) :: ps, s =>
    Access.bind (s.readLoc loc n (BitVec.ofNat 64 a)) fun x s =>
      Access.bind (State.readAll ps s) fun y s => .ok (x ++ y, s)

/-- Writes resolved pieces in address order. -/
def State.writeAll (w : Who) : List (Loc × Nat × Nat) → List PByte → State → Access Unit
  | [], _, s => .ok ((), s)
  | (loc, a, n) :: ps, bs, s =>
    Access.bind (s.writeLoc w loc (bs.take n) (BitVec.ofNat 64 a)) fun _ s => State.writeAll w ps (bs.drop n) s

/-- Whether the way of the moving core to a place leads over a hop under repair (R26). -/
def State.placesHeld (s : State) (places : List (Loc × Nat × Nat)) : Bool :=
  places.any (fun p => s.pathHeld (dieOf s.core.cid) p.1.chiplet)

/-- The n bytes at a virtual address, as who reads them. -/
def State.readVa (s : State) (w : Who) (va n : Nat) : Access (List PByte) :=
  Access.bind (State.resolveAll w .rd (pieces n va n) s) fun x s => State.readAll x s

/-- Bytes stored at a virtual address. -/
def State.writeVa (s : State) (w : Who) (va : Nat) (bs : List PByte) : Access Unit :=
  Access.bind (State.resolveAll w .w (pieces bs.length va bs.length) s) fun x s => State.writeAll w x bs s

/-- The own-L1 offset of an address in the own-L1 window (R169). -/
def ownOff (va : DWord) : Option Nat :=
  if 0xFF000000000000 ≤ va.toNat ∧ va.toNat < 0xFF000000200000 then some (va.toNat - 0xFF000000000000) else none

/-- The own-L1 window's first address. -/
def ownBase : Nat := 0xFF000000000000

/-- Records a check-stage failure of the bundle (R165). -/
def State.note (s : State) (rank : Nat) (cause : Cause) (val : DWord) : State :=
  s.mapT fun t => { t with trapRec := some { rank := rank, cause := cause, val := val, origin := none } }

/-- What a stopped access of the moving core becomes: a trap, a frozen core, a frozen context (R145), or SHADOW_BUSY (R148). -/
def Stop.out : Stop → Out
  | .trap rank cause val origin s => s.trap rank cause val origin
  | .stall h s => s.stallOn h
  | .paused s => s.stallOn .walk
  | .tag ctx val s => .next ((s.note 4 .tag val).tagFault ctx (some (s.core.issuer s.core.t.pc)) val)
  | .busy val s =>
    .next ((s.note 4 .shadowBusy val).launchFault s.core.t.lslot .shadowBusy (s.coreFault s.core .shadowBusy 2 none val 0))

end Sys2Proof.Machine
end

