-- ==== Sys2Proof/Machine/Branch.lean ====
section
/-! DEFINITION. Branches, jumps, the jump table and the repeat prefix (R278 to R284). A member of a gang that is not its lead takes
no part in control flow (R89, R278). -/

namespace Sys2Proof.Machine

/-- Whether the moving core follows the lead of its gang. -/
def State.follows (s : State) : Bool := s.core.t.gang && s.core.t.lead != s.core.cid

/-- The byte address that a word offset from the bundle names (R239). -/
def State.relative (s : State) (off : DWord) : DWord := s.core.t.pc + (off <<< 2)

/-- A transfer is taken (R278): the target must be a device virtual address (R277); one frozen core cycle follows (R283). -/
def State.jumpTo (s : State) (target : DWord) : Out :=
  if s.follows then .next s
  else if bits target.toNat 63 56 != 0 then s.trap 3 .page target
  else .next (s.mapT fun t => { t with npc := some target, stall := t.stall + 1 })

/-- BR.cc (R279): an s register compared at 32 bits, sign-extended; an a register, a latch or a special at 64 bits. -/
def execBrCc (k : BitVec 4) (p : BitVec 6) (o : BitVec 16) (s : State) : Out :=
  let v := s.srcC p
  s.checked [v.psn] (if cond k.toNat v.val 0 then s.jumpTo (s.relative (o.signExtend 64)) else .next s)

/-- JMP (R280). -/
def execJmp (i : BitVec 19) (s : State) : Out := s.jumpTo (s.relative (i.signExtend 64))

/-- CALL (R280): the link is the address of the word after the bundle; a cancelled CALL writes none. -/
def execCall (d : BitVec 6) (i : BitVec 19) (s : State) : Out :=
  let target := s.relative (i.signExtend 64)
  if !s.follows && bits target.toNat 63 56 != 0 then s.trap 3 .page target
  else (s.putC64 1 d 0 s.core.t.pcn).jumpTo target

/-- JIND and RET (R281): the target must be a multiple of 4. -/
def State.jumpInd (s : State) (a : BitVec 6) : Out :=
  let x := s.srcC a
  s.checked [x.psn] (if !s.follows && bits x.val.toNat 1 0 != 0 then s.trap 3 .align x.val else s.jumpTo x.val)

def execJind (a : BitVec 6) (s : State) : Out := s.jumpInd a
def execRet (a : BitVec 6) (s : State) : Out := s.jumpInd a

/-- A read of a jump table (R282): whatever stops it is PAGE with the address read; poison cancels the bundle. A table outside the own L1 is read
as a load is (R196): the core is frozen while an access before it waits to leave, or a hop of its way is under repair (R26). -/
def State.tableRead (s : State) (a : Nat) (k : Word → State → Out) : Out :=
  match State.resolveAll s.me .rd (pieces 4 a 4) s with
  | .error (.trap _ _ _ o s) => s.trap 4 .page (BitVec.ofNat 64 a) o
  | .error e => e.out
  | .ok (places, s') =>
    if (ownOff (BitVec.ofNat 64 a)).isNone && (!s.core.t.mayLeave false || s.placesHeld places) then s'.stallOn .walk
    else match State.readAll places s' with
      | .error e => e.out
      | .ok (bs, s') => match psnOf bs with
        | some o => s'.trap 2 .poison 0 (some o)
        | none => k (BitVec.ofNat 32 (leNat (plain bs))) s'

/-- JTAB (R282, R283). -/
def execJtab (a b : BitVec 6) (s : State) : Out :=
  let t := s.srcC a
  let x := s.srcC b
  let i := x.val.low.toNat
  s.checked [t.psn, x.psn] <|
    if s.follows then .next s
    else if bits t.val.toNat 1 0 != 0 then s.trap 3 .align t.val
    else if bits t.val.toNat 63 56 != 0 then s.trap 3 .page t.val
    else
      let wait := if (ownOff t.val).isSome then 3 else Config.landing s.tick
      s.tableRead t.val.toNat fun n s =>
        if i ≥ n.toNat then .next ((s.statSticky statJoor).mapT fun t => { t with stall := t.stall + wait })
        else s.tableRead (t.val.toNat + 4 + 4 * i) fun e s =>
          let target := s.relative e.sext
          if bits target.toNat 63 56 != 0 then s.trap 3 .page target
          else .next (s.mapT fun t => { t with npc := some target, stall := t.stall + wait })

/-- REP (R244, R284): the next bundle issues n + 1 times with the fields flagged stepped. -/
def execRep (n : BitVec 6) (d a b x : BitVec 1) (s : State) : Out :=
  .next (s.mapT fun t => { t with rep :=
    { n := n.toNat + 1, left := n.toNat + 1, stepD := d == 1, stepA := a == 1, stepB := b == 1, stepC := x == 1 } })

end Sys2Proof.Machine
end

