-- ==== Sys2Proof/Machine/Preempt.lean ====
section
/-! DEFINITION. Stops, saves and restores of contexts (R130 to R140), and the CKPT instruction (R132, R290). -/

namespace Sys2Proof.Machine

/-- A range entry read, or none when it is malformed (R132). -/
def liveRange (e : Nat) : Option LiveRange :=
  let wb := bits e 63 63 == 1
  let start := 64 * bits e 31 16
  let len := 64 * bits e 15 0
  if bits e 62 32 != 0 || len = 0 || len > 64 * 32768 || start + len > (if wb then 2 ^ 19 else 2 ^ 21) then none
  else some ⟨wb, start, len⟩

/-- What the read of a CKPT table comes to, with the state that it leaves: the table; a malformed one; a TAG failure in a context; or a read that
waits for a hop under repair (R26, R132, R145). -/
inductive CkptRead where
  | table (t : CkptTable) (s : State)
  | malformed (s : State)
  | tag (at' : TagAt) (val : DWord) (s : State)
  | paused (s : State)

/-- A read of a CKPT table handed on: a TAG failure freezes the context, any other failure makes the table malformed (R132, R145). -/
def CkptRead.after (x : Access (List PByte)) (k : List PByte → State → CkptRead) : CkptRead :=
  match x with
  | .ok (bs, s) => if (psnOf bs).isSome then .malformed s else k bs s
  | .error (.tag at' val s) => .tag at' val s
  | .error (.paused s) => .paused s
  | .error e => .malformed e.state

/-- Reads a CKPT table for a core (R132). -/
def State.ckptTable (s : State) (cid : Nat) (a : DWord) : CkptRead :=
  if a.toNat % 8 != 0 then .malformed s
  else
    let w := s.engineOf cid
    CkptRead.after (s.readVa w a.toNat 8) fun h s =>
      let hd := leNat (plain h)
      let n := bits hd 7 0
      if bits hd 55 8 != 0 || bits hd 63 62 != 0 then .malformed s
      else CkptRead.after (s.readVa w (a.toNat + 8) (8 * n)) fun bs s =>
        match (List.range n).mapM (fun i => liveRange (leNat (plain ((bs.drop (8 * i)).take 8)))) with
        | some rs => .table (bits hd 63 56, rs) s
        | none => .malformed s

/-- The bytes of a memory inside the ranges; the rest reads as 0 after resumption (R132). -/
def keepRanges (rs : List LiveRange) (wb : Bool) (m : Mem) : Mem :=
  m.filter (fun c => rs.any (fun r => r.wb == wb && r.start ≤ c.1 && c.1 < r.start + r.len))

/-- Poisoned 64-bit words that touch the ranges. -/
def keepPsn (rs : List LiveRange) (wb : Bool) (m : SMap Origin) : SMap Origin :=
  m.filter (fun c => rs.any (fun r => r.wb == wb && r.start ≤ 8 * c.1 && 8 * c.1 < r.start + r.len))

/-- A latch whose every cell is zero and every EB −2,048 (R132). -/
def WLatch.blank : WLatch := { cells := List.replicate 4096 {}, eb := List.replicate 256 (-2048) }

/-- The array state that a CKPT stop with MASK keeps (R132, R340). The queued pair counts stand as long as the accumulators or the queue
that they speak of do (R330). -/
def SArray.masked (mask : Nat) (issued : Nat) (a : SArray) (tl2 : Timeline) : SArray × Timeline :=
  let a := if mask.testBit 0 then a else { a with acc := [], rowRec := [] }
  let a := { a with w := Vector.ofFn (fun i : Fin 4 => if mask.testBit (1 + i.val) then a.w[i] else WLatch.blank) }
  let a := if mask.testBit 0 || mask.testBit 5 then a else { a with queued := [] }
  if mask.testBit 5 then (a, tl2)
  else ({ a with queue := [], phase := .idle, j0 := 0 }, { tl2 with val := issued, done := [] })

/-- Where a result in flight stands in the order of effect: by its cycle, hardware updates last (R16, R286). -/
def Flight.key (f : Flight) : Nat := 2 * f.off + (if f.fx.isUpdate then 1 else 0)

/-- A result placed among others by its key, behind those of the same key. -/
def Flight.insert (f : Flight) : List Flight → List Flight
  | [] => [f]
  | g :: gs => if g.key ≤ f.key then g :: f.insert gs else f :: g :: gs

/-- The results in flight in the order in which they take effect. -/
def Thread.inOrder (t : Thread) : List Flight := t.flights.foldl (fun fs f => f.insert fs) []

/-- The thread that a CKPT stop saves: every result in flight written at its turn, latch queues and REP state gone, ranges and array
state by MASK (R132). -/
def Thread.ckptSaved (t : Thread) (tab : CkptTable) : Thread :=
  let t := t.inOrder.foldl (fun t f => t.apply f.fx) t
  let x := t.arr.masked tab.1 t.tl[2].issued t.tl[2]
  { t with
    flights := [], latches := {}, rep := {}, arr := x.1, tl := t.tl.set 2 x.2
    wbuf := keepRanges tab.2 true t.wbuf, wbufPsn := keepPsn tab.2 true t.wbufPsn }

/-- A CKPT stop of the moving core and its gang (R132, R134): results in flight, ranges and array state are seen to when the save
completes. -/
def State.stopAtCkpt (s : State) (cktab : DWord) (tab : CkptTable) : State :=
  (s.gangOf s.core.cid).foldl (fun s m =>
    let dl := s.isDeadline (s.coreAt m).t.lslot
    ((s.markPreempted m).onCore m (Core.beginStop .ckpt cktab tab dl s.imgVersion)).push (.saveComplete m)) s

/-- STAT.CKPTBAD counts a malformed table, saturating (R132, R158). -/
def Thread.ckptBad (t : Thread) : Thread :=
  { t with stat := putBits t.stat 31 20 (satAdd 12 (bits t.stat.toNat 31 20) 1) }

/-- Whether a throughput-class stop request of a dispatch choice waits for a CKPT on this core (R131). -/
def State.ckptDue (s : State) : Bool :=
  let t := s.core.t
  !t.handler && (t.stop.any (fun q => q.why == .deadline)) && !s.isDeadline t.lslot

/-- Whether a pending stop is taken at the bundle boundary where the core stands (R131, R133, R167, R245, R356): a wait of any member of a
gang is a wait of all. -/
def State.stopsHere (s : State) : Bool :=
  let t := s.core.t
  let ms := (s.gangOf s.core.cid).map (fun m => (s.coreAt m).t)
  match t.stop with
  | none => false
  | some q =>
    if t.handler || (t.rep.left != 0 && t.rep.left = t.rep.n) then false
    else if ms.any (fun m => m.hold == some .walk || m.hold == some .allocHold || m.hold == some .shadowHold || m.hold == some .lock) then false
    else if ms.any (fun m => match m.ring with | some (.granted ..) => true | _ => false) then false
    else q.why != .deadline || s.isDeadline t.lslot || t.ckptlim = 0 || ms.any Thread.waiting || q.count ≥ t.ckptlim.toNat

/-- The CKPTLIM count of a pending request takes one counted cycle (R131). -/
def Thread.countStop (t : Thread) : Thread := { t with stop := t.stop.map (fun q => { q with count := q.count + 1 }) }

/-- CKPT a (R290): the stop point of a pending throughput-class request; otherwise nothing beyond its cycle. -/
def execCkpt (a : BitVec 6) (s : State) : Out :=
  let x := s.srcC a
  s.checked [x.psn] <|
    if s.ckptDue then .next (s.mapT fun t => { t with ckpt := some x.val }) else .next s

/-- A stop request reaches a core (R130, R131): its preload is cancelled; a core whose TEND has passed stops nothing; one whose task is
still loading stops before its first bundle. -/
def State.requestStop (s : State) (cid : Nat) (why : StopWhy) : State :=
  let lead := s.leadOf cid
  let s := (s.gangOf lead).foldl (fun s m => s.cancelPreload m false) s
  if (s.coreAt lead).t.mode = .run || (s.coreAt lead).t.mode = .loading then
    s.onCore lead fun c => { c with t := { c.t with stop := (if c.t.stop.isNone || why != .deadline then some ⟨why, 0⟩ else c.t.stop) } }
  else s

/-- A save completes once the tile moves in flight and the loads not yet landed have, and nothing waits to leave the core (R133): the
thread leaves the core. -/
def Core.saved? (c : Core) : Bool :=
  c.t.tq0.isEmpty && c.t.tq1.isEmpty && c.t.egress.isEmpty && c.t.flights.all (fun f => match f.fx with | .land _ _ v _ => v.isSome | _ => true)

/-- Every landing result that is captured is in its slot (R133). -/
def Thread.captured (t : Thread) : Thread :=
  { t with flights := t.flights.map (fun f => match f.fx with
      | .land i d v _ => { f with fx := .land i d v (some 0) }
      | _ => f) }

/-- The table that an area of KIND 1 was saved by. -/
def Saved.tab (a : Saved) : CkptTable := (a.mask.toNat, a.ranges.map fun r => ⟨r.1, r.2.1, r.2.2⟩)

/-- A save area takes a stopped thread and its L1, by its KIND (R132, R133). -/
def Saved.fill (a : Saved) (t : Thread) (l1 : Pad) : Saved :=
  if a.kind = .ckpt || a.resumes == some SaveKind.ckpt then
    { a with
      thread := { t.captured.ckptSaved a.tab with mode := .run }
      l1 := { bytes := keepRanges a.tab.2 false l1.bytes, psn := keepPsn a.tab.2 false l1.psn }, complete := true }
  else { a with thread := { t.captured with mode := .run }, l1 := l1, complete := true }

/-- The core's save area takes the stopped thread, and the core is free (R133, R136). -/
def Core.finishSave (c : Core) : Core :=
  let upd := fun (x : Option Saved) => x.map fun a =>
    if a.complete || a.thread.lslot != c.t.lslot then a else a.fill c.t c.l1
  { c with savedT := upd c.savedT, savedD := upd c.savedD, t := {}, lastLaunch := none, idleCycles := 0 }

/-- What an idle core holds for the launch that it served last is kept for that launch (R161, R185). -/
def Core.stash (c : Core) : Core :=
  match c.lastLaunch with
  | some uid => if c.t.mode = .idle then { c with left := SMap.insert c.left c.t.lslot (uid, c.t) } else c
  | none => c

/-- The context of a save area comes back (R135): EV is 1 (R292). -/
def Core.restore (c : Core) (dl : Bool) : Core :=
  match (if dl then c.savedD else c.savedT) with
  | none => c
  | some a =>
    let c := if dl then { c.stash with savedD := none } else { c.stash with savedT := none }
    { c with t := { a.thread with mode := .run, ev := true, stop := none }, l1 := a.l1, gated := false, idleCycles := 0
             lastCtx := some a.thread.ctx }

/-- Which save area of a core is to be restored: a deadline context before a throughput context. -/
def Core.restorable (c : Core) : Option (Bool × Saved) :=
  match c.savedD, c.savedT with
  | some a, _ => if a.complete && a.kind != .frozen then some (true, a) else none
  | none, some a => if a.complete && a.kind != .frozen then some (false, a) else none
  | none, none => none

/-- Applies a change to the thread of a launch on a core and to its L1, wherever that context stands: on the core, in a save
area or among what the core keeps for other launches (R135, R161, R362). -/
def Core.onWork (l : Nat) (f : Thread → Pad → Thread × Pad) (c : Core) : Core :=
  let here := fun (c : Core) => let r := f c.t c.l1; { c with t := r.1, l1 := r.2 }
  let inArea := fun (a : Saved) => let r := f a.thread a.l1; { a with thread := r.1, l1 := r.2 }
  if c.t.lslot = l && c.t.mode != .idle then here c
  else if c.savedT.any (fun a => a.thread.lslot == l) then { c with savedT := c.savedT.map inArea }
  else if c.savedD.any (fun a => a.thread.lslot == l) then { c with savedD := c.savedD.map inArea }
  else if c.t.lslot = l then here c
  else match SMap.find? c.left l with
    | some x => let r := f x.2 c.l1; { c with left := SMap.insert c.left l (x.1, r.1), l1 := r.2 }
    | none => c

/-- Applies a change to the thread of a launch on a core, wherever that context stands: on the core or in a save area (R135). -/
def Core.onContext (l : Nat) (f : Thread → Thread) (c : Core) : Core := c.onWork l (fun t p => (f t, p))

def State.onContext (s : State) (cid l : Nat) (f : Thread → Thread) : State := s.onCore cid (Core.onContext l f)

/-- PREEMPT_REQUEST (R130, R131). -/
def execPreemptRequest (cid : Nat) (why : StopWhy) (s : State) : Out := .next (s.requestStop cid why)

/-- CKPTLIM_EXPIRY (R131): the count of the pending request has run out, and the core falls back to an immediate stop at its next
bundle boundary; in handler mode the request waits until ERET, and between a REP and its first issue none is taken (R245). -/
def execCkptlimExpiry (cid : Nat) (s : State) : Out :=
  .next (s.onCore (s.leadOf cid) fun c =>
    { c with t := { c.t with stop := c.t.stop.map (fun q => { q with count := max q.count c.t.ckptlim.toNat }) } })

/-- The word at an address as a core's code buffer or memory holds it. -/
def State.codeWord (s : State) (cid pc : Nat) : Access Word :=
  let t := (s.coreAt cid).t
  let off := pc - t.codeBase.toNat
  if t.codeBase.toNat ≤ pc ∧ off + 4 ≤ t.codeLen then .ok (BitVec.ofNat 32 (leNat (Mem.read t.code off 4)), s)
  else Access.bind (s.readVa (s.engineOf cid) pc 4) fun bs s => .ok (BitVec.ofNat 32 (leNat (plain bs)), s)

/-- n of a repeat that goes on after a resumption or an ERET is read from the REP word, at the saved address − 4 (R245). -/
def State.rereadRep (s : State) (cid : Nat) : Access Unit :=
  let t := (s.coreAt cid).t
  if t.rep.left = 0 then .ok ((), s)
  else Access.bind (s.codeWord cid (t.pc.toNat - 4)) fun w s =>
    .ok ((), s.onCore cid fun c => { c with t := { c.t with rep := { c.t.rep with n := bits w.toNat 25 20 + 1 } } })

/-- The REP word read again, whatever comes of it: a TAG failure freezes the context (R33); a word that cannot be read leaves n as it was saved
(DESIGN CHOICE, log 17). -/
def State.rereads (s : State) (cid : Nat) : State :=
  match s.rereadRep cid with
  | .ok (_, s) => s
  | .error (.tag at' val s) => s.tagFault at' (some ((s.coreAt cid).issuer (s.coreAt cid).t.pc)) val
  | .error e => e.state

/-- The save area of a core that has just stopped, written to memory (R136). -/
def State.layArea (s : State) (cid : Nat) (dl : Bool) : State :=
  let c := s.coreAt cid
  match (if dl then c.savedD else c.savedT) with
  | some a =>
    let a := { a with key := s.saveKey a.thread.ctx }
    (s.onCore cid fun c => if dl then { c with savedD := some a } else { c with savedT := some a }).laySave c dl a
  | none => s

/-- The bytes that stand for a place of an uncorrectable sector (R31, R34). -/
def broken (pa n : Nat) : Nat := leNat ((List.range n).map (fun i => Config.brokenByte ((pa + i) / 64) ((pa + i) % 64)))

/-- A saved context as its area reads with some sectors uncorrectable (R33): registers, latches, weight buffer and L1 take the poison; what
has no poison mark keeps its value (DESIGN CHOICE, log 18). -/
def Saved.poisoned (a : Saved) (base : Nat) (ue : SMap Origin) : Saved :=
  let hit := fun (off n : Nat) => ue.findSome? (fun x => if (base + off) / 64 ≤ x.1 ∧ x.1 ≤ (base + off + n - 1) / 64 then some x.2 else none)
  let word := fun (off : Nat) (x : PWord) => match hit off 4 with
    | some o => ⟨BitVec.ofNat 32 (broken (base + off) 4), some o⟩
    | none => x
  let dword := fun (off : Nat) (x : PDWord) => match hit off 8 with
    | some o => ⟨BitVec.ofNat 64 (broken (base + off) 8), some o⟩
    | none => x
  let lanes := fun (off : Nat) (x : Lanes) => if (hit off 512).isSome then Vector.ofFn (fun l : Fin 128 => word (off + 4 * l.val) x[l]) else x
  let words := fun (off len : Nat) => (ue.filter (fun x => (base + off) / 64 ≤ x.1 && x.1 < (base + off + len) / 64)).flatMap (fun x =>
    (List.range 8).map (fun i => (8 * (x.1 - (base + off) / 64) + i, x.2)))
  let t := a.thread
  let late := a.kind != .ckpt
  let q := t.latches
  { a with
    l1 := { a.l1 with psn := (words 0xE0000 0x200000).foldl (fun m x => SMap.insert m x.1 x.2) a.l1.psn }
    thread := { t with
      sregs := Vector.ofFn (fun i : Fin 32 => word (0x100 + 4 * i.val) t.sregs[i]), aregs := Vector.ofFn (fun i : Fin 16 => dword (0x180 + 8 * i.val) t.aregs[i])
      vregs := Vector.ofFn (fun i : Fin 48 => lanes (0xBA80 + 512 * i.val) t.vregs[i])
      latches := if late then
          { c := Vector.ofFn (fun i : Fin 8 => dword (0x1200 + 8 * i.val) q.c[i]), m := Vector.ofFn (fun i : Fin 8 => dword (0x1240 + 8 * i.val) q.m[i])
            s := Vector.ofFn (fun i : Fin 8 => lanes (0x1280 + 512 * i.val) q.s[i]), v := Vector.ofFn (fun i : Fin 8 => lanes (0x2280 + 512 * i.val) q.v[i]) }
        else q
      wbufPsn := (words 0x60000 0x80000).foldl (fun m x => SMap.insert m x.1 x.2) t.wbufPsn } }

/-- A save area read from memory (R33, R136): each of its sectors is decoded; the tag of one that is correctable is checked under the keys of
the area. Answers the context as read, the first sector whose tag fails, and the state after the reads. -/
def State.areaRead (s : State) (c : Core) (dl : Bool) (a : Saved) : Saved × Option Nat × State :=
  let base := saveArea c.cid dl
  let parts := (s.saveParts c a).map (fun p => partSectors base p.1 p.2.1)
  let mine := fun (sec : Nat) => parts.any (fun x => x.1 ≤ sec && sec < x.1 + x.2)
  let s := parts.foldl (fun (s : State) x => s.activateAll (64 * x.1) (64 * x.2)) s
  let s := (((s.ue.map Prod.fst ++ s.symErr.map Prod.fst).filter mine).eraseDups).foldl (fun (s : State) sec => (s.eccDecode sec).2) s
  let ue := s.ue.filter (fun x => mine x.1)
  let bad := a.key.bind fun k => (parts.flatMap (fun x => (List.range x.2).map (fun i => x.1 + i))).find? (fun sec =>
    (SMap.find? ue sec).isNone && SMap.find? s.enc sec != some k)
  (if ue.isEmpty then a else a.poisoned base ue, bad, s)

/-- SAVE_COMPLETE (R133): held back while tile moves run or loads are out. -/
def execSaveComplete (cid : Nat) (s : State) : Out :=
  let c := s.coreAt cid
  if c.t.mode != .stopping then .next s
  else if c.saved? then
    let s := s.onCore cid Core.finishSave
    .next ((s.layArea cid (s.isDeadline c.t.lslot)).push (.taskDispatch (dieOf cid)))
  else .next (s.push (.saveComplete cid))

/-- CONTEXT_RESTORE (R135, R140): the context resumes on its core once the core is free of work and its launch's context is not
frozen; an image of another version discards the context and faults the launch. A TAG failure has no faulting core (R145). -/
def execContextRestore (cid : Nat) (s : State) : Out :=
  let c := s.coreAt cid
  match c.restorable with
  | none => .next s
  | some (dl, a) =>
    let frozen := if h : a.thread.ctx < 64 then s.ctxs[a.thread.ctx].mgmtFrozen || s.ctxs[a.thread.ctx].frozen else true
    if c.t.mode != .idle || c.protFrozen || frozen || !c.t.egress.isEmpty then .next s
    else if a.version != s.imgVersion then
      let s := s.onCore cid fun c => if dl then { c with savedD := none } else { c with savedT := none }
      .next (s.launchFault a.thread.lslot .imgVersion (s.unitFault a.thread.lslot .imgVersion 2 (dieOf cid) none 0))
    else
      let uid := (SMap.find? s.launches a.thread.lslot).map (fun (x : Launch) => x.uid)
      let r := s.areaRead c dl a
      let s := r.2.2
      match r.2.1 with
      | some sec =>
        .next ((s.onChan (channelOf (64 * sec)) fun c => { c with tagCount := sat64 c.tagCount }).tagFault ⟨a.thread.ctx, memoryDie (64 * sec)⟩ none
          (BitVec.ofNat 64 (64 * sec)))
      | none =>
        let s := s.onCore cid fun c => if dl then { c with savedD := some r.1 } else { c with savedT := some r.1 }
        .next (((s.onCore cid fun c => { c.restore dl with lastLaunch := uid }).rereads cid).pushOnce (.arrayOpStart cid))

end Sys2Proof.Machine
end

