-- ==== Sys2Proof/Machine/VFloat.lean ====
section
/-! DEFINITION. Floating arithmetic of the V pipe: VADD to VNEG, VFMA and VFMS (R298, R299), with the sums and products that the
reductions and dot products share. -/

namespace Sys2Proof.Machine

/-- A float result with the exceptions it raises. -/
abbrev FRes := FVal × Exc

/-- NaN operands give a NaN; a signalling one raises NV (R203). -/
def nanExc (xs : List FVal) : Exc := if xs.any FVal.isSnan then Exc.nv else 0

/-- The exact sum of two values, before rounding: ∞ − ∞ is NV; an exact zero sum is +0.0 but for (−0) + (−0) (R298). -/
def fsum (x y : FVal) : FRes :=
  match x, y with
  | .nan _, _ | _, .nan _ => (.nan false, nanExc [x, y])
  | .inf n, .inf m => if n == m then (.inf n, 0) else (.nan false, Exc.nv)
  | .inf n, _ => (.inf n, 0)
  | _, .inf m => (.inf m, 0)
  | .fin n a e, .fin m b g =>
    let z := Dy.add (FVal.fin n a e).dy (FVal.fin m b g).dy
    (.fin (if z.num = 0 then a == 0 && b == 0 && n && m else z.num < 0) z.num.natAbs z.exp, 0)

/-- The exact product of two values: 0 × ∞ is NV (R298). -/
def fprod (x y : FVal) : FRes :=
  match x, y with
  | .nan _, _ | _, .nan _ => (.nan false, nanExc [x, y])
  | .inf n, y => if y.isZero then (.nan false, Exc.nv) else (.inf (n != y.isNeg), 0)
  | x, .inf m => if x.isZero then (.nan false, Exc.nv) else (.inf (x.isNeg != m), 0)
  | .fin n a e, .fin m b g => (.fin (n != m) (a * b) (e + g), 0)

/-- The negation of a value; a NaN stays. -/
def fneg : FVal → FVal
  | .nan s => .nan s
  | .inf n => .inf !n
  | .fin n a e => .fin (!n) a e

/-- x below y, with −0.0 below +0.0 (R298). -/
def flt (x y : FVal) : Bool :=
  match x, y with
  | .fin true 0 _, .fin false 0 _ => true
  | x, y => condFloat 2 x y

/-- VMIN and VMAX of R298. -/
def fmin (x y : FVal) : FRes :=
  match x, y with
  | .nan _, .nan _ => (.nan false, nanExc [x, y])
  | .nan _, y => (y, nanExc [x])
  | x, .nan _ => (x, nanExc [y])
  | x, y => (if flt y x then y else x, 0)

def fmax (x y : FVal) : FRes :=
  match x, y with
  | .nan _, .nan _ => (.nan false, nanExc [x, y])
  | .nan _, y => (y, nanExc [x])
  | x, .nan _ => (x, nanExc [y])
  | x, y => (if flt x y then y else x, 0)

/-- A value with its sign cleared; a NaN is canonical. -/
def fabs : FVal → FVal
  | .nan _ => .nan false
  | .inf _ => .inf false
  | .fin _ a e => .fin false a e

/-- A value with its sign inverted; a NaN is canonical. -/
def fneg' (x : FVal) : FVal := if x.isNan then .nan false else fneg x

/-- Rounds a result to binary32, with its own exceptions and those of rounding. -/
def toF32 (r : FRes) : Word × Exc :=
  let x := encodeIeee .b32 32 .rne 0 0 r.1
  (BitVec.ofNat 32 x.1, r.2 ||| x.2)

/-- Rounds a result to binary16. -/
def toF16 (r : FRes) : Nat × Exc :=
  let x := encodeIeee .b16 16 .rne 0 0 r.1
  (x.1, r.2 ||| x.2)

/-- A function of two values taken over the elements of a lane: one binary32, or two binary16 when T is 1 (R294). -/
def elems2 (t : BitVec 1) (f : FVal → FVal → FRes) (x y : Word) : Word × Exc :=
  if t = 0 then toF32 (f (decodeF32 x) (decodeF32 y))
  else
    let lo := toF16 (f (decodeF16 (x.toNat % 2 ^ 16)) (decodeF16 (y.toNat % 2 ^ 16)))
    let hi := toF16 (f (decodeF16 (x.toNat / 2 ^ 16)) (decodeF16 (y.toNat / 2 ^ 16)))
    (BitVec.ofNat 32 (lo.1 + hi.1 * 2 ^ 16), lo.2 ||| hi.2)

/-- The same of three values. -/
def elems3 (t : BitVec 1) (f : FVal → FVal → FVal → FRes) (x y z : Word) : Word × Exc :=
  if t = 0 then toF32 (f (decodeF32 x) (decodeF32 y) (decodeF32 z))
  else
    let e := fun (v : Word) (hi : Bool) => decodeF16 (if hi then v.toNat / 2 ^ 16 else v.toNat % 2 ^ 16)
    let lo := toF16 (f (e x false) (e y false) (e z false))
    let hi := toF16 (f (e x true) (e y true) (e z true))
    (BitVec.ofNat 32 (lo.1 + hi.1 * 2 ^ 16), lo.2 ||| hi.2)

/-- The exceptions of every lane together (R297). -/
def excOf (v : Vector (Word × Exc) 128) : Exc := v.toList.foldl (fun e x => e ||| x.2) 0

/-- The lanes of a result. -/
def wordsOf (v : Vector (Word × Exc) 128) : Lanes := lanesOf (fun l => v[l].1)

/-- A V-pipe result whose lanes raise exceptions: an enabled one traps, else the flags are set (R297). -/
def State.floatV (s : State) (lat : Nat) (d : BitVec 6) (w : BitVec 1) (r : Vector (Word × Exc) 128) : Out :=
  s.raising (excOf r) fun s => .next (s.putV lat d w (wordsOf r))

/-- A float word with two sources (R298). -/
def vfloat2 (f : FVal → FVal → FRes) (d : BitVec 6) (w : BitVec 1) (a b : BitVec 6) (t : BitVec 1) (s : State) : Out :=
  let x := s.srcV a
  let y := s.srcV b
  s.checked [x.psn, y.psn] (s.floatV 4 d w (Vector.ofFn (fun l : Fin 128 => elems2 t f x[l].val y[l].val)))

/-- A float word with one source that raises nothing. -/
def vfloat1 (f : FVal → FVal) (d : BitVec 6) (w : BitVec 1) (a : BitVec 6) (t : BitVec 1) (s : State) : Out :=
  let x := s.srcV a
  s.checked [x.psn] (s.floatV 4 d w (Vector.ofFn (fun l : Fin 128 => elems2 t (fun v _ => (f v, 0)) x[l].val 0)))

def execVadd (d : BitVec 6) (w : BitVec 1) (a b : BitVec 6) (t : BitVec 1) (s : State) : Out := vfloat2 fsum d w a b t s
def execVsub (d : BitVec 6) (w : BitVec 1) (a b : BitVec 6) (t : BitVec 1) (s : State) : Out :=
  vfloat2 (fun x y => fsum x (fneg y)) d w a b t s
def execVmul (d : BitVec 6) (w : BitVec 1) (a b : BitVec 6) (t : BitVec 1) (s : State) : Out := vfloat2 fprod d w a b t s
def execVmin (d : BitVec 6) (w : BitVec 1) (a b : BitVec 6) (t : BitVec 1) (s : State) : Out := vfloat2 fmin d w a b t s
def execVmax (d : BitVec 6) (w : BitVec 1) (a b : BitVec 6) (t : BitVec 1) (s : State) : Out := vfloat2 fmax d w a b t s
def execVabs (d : BitVec 6) (w : BitVec 1) (a : BitVec 6) (t : BitVec 1) (s : State) : Out := vfloat1 fabs d w a t s
def execVneg (d : BitVec 6) (w : BitVec 1) (a : BitVec 6) (t : BitVec 1) (s : State) : Out := vfloat1 fneg' d w a t s

/-- a × b + z with one rounding (R299): 0 × ∞ is NV and a NaN, whatever z is. -/
def ffma (x y z : FVal) : FRes :=
  let p := fprod x y
  let r := fsum p.1 z
  (r.1, p.2 ||| r.2 ||| nanExc [x, y, z])

/-- VFMA and VFMS (R299): d is read at issue as a source. -/
def vfma3 (neg : Bool) (d : BitVec 6) (w : BitVec 1) (a b : BitVec 6) (t : BitVec 1) (s : State) : Out :=
  let x := s.srcV a
  let y := s.srcV b
  let z := s.srcV d
  s.checked [x.psn, y.psn, z.psn] (s.floatV 4 d w
    (Vector.ofFn (fun l : Fin 128 => elems3 t (fun p q r => ffma p q (if neg then fneg r else r)) x[l].val y[l].val z[l].val)))

def execVfma (d : BitVec 6) (w : BitVec 1) (a b : BitVec 6) (t : BitVec 1) (s : State) : Out := vfma3 false d w a b t s
def execVfms (d : BitVec 6) (w : BitVec 1) (a b : BitVec 6) (t : BitVec 1) (s : State) : Out := vfma3 true d w a b t s

end Sys2Proof.Machine
end

