-- ==== Sys2Proof/Machine/VConvert.lean ====
section
/-! DEFINITION. VCVT (R256, R304) and the dot products VDOT4 and VDOT2 (R305). -/

namespace Sys2Proof.Machine

/-- The rounding mode of a field that R256 limits to 0 to 4. -/
def rmOf (r : Nat) : RM := (RM.ofField r).getD .rne

/-- Whether a type code names an integer, its width and whether it is signed (R181). -/
def intType : Nat → Option (Nat × Bool)
  | 0 => some (8, false) | 1 => some (16, false) | 2 => some (32, false) | 3 => some (64, false)
  | 4 => some (8, true) | 5 => some (16, true) | 6 => some (32, true) | 7 => some (64, true)
  | _ => none

/-- The value of a code of a type (R181), at the type's own width. -/
def decodeType (ty : Nat) (inf : Bool) (c : Nat) : FVal :=
  match intType ty with
  | some (w, signed) =>
    let v : Int := if signed then sextInt c w else (c % 2 ^ w : Nat)
    .fin (v < 0) v.natAbs 0
  | none =>
    if ty = 8 then decodeIeee 8 23 (c % 2 ^ 32)
    else if ty = 9 then decodeF16 (c % 2 ^ 16)
    else if ty < 0x18 then decodeB8 false (ty % 8) inf (c % 256)
    else decodeB8 true (ty % 8) inf (c % 256)

/-- The code of a value in a type, with the exceptions of the conversion (R202, R207). -/
def encodeType (ty : Nat) (inf : Bool) (rm : RM) (u : Int) (r : Nat) (v : FVal) : Nat × Exc :=
  match intType ty with
  | some (w, signed) => floatToInt signed w rm u r v
  | none =>
    if ty = 8 then encodeIeee .b32 32 rm u r v
    else if ty = 9 then encodeIeee .b16 16 rm u r v
    else if ty < 0x18 then encodeB8 false (ty % 8) inf rm u r v
    else encodeB8 true (ty % 8) inf rm u r v

/-- The exponent of the unit in the last place of a source element (R208). -/
def unitOf (ty : Nat) (c : Nat) : Int :=
  match intType ty with
  | some _ => 0
  | none =>
    if ty = 8 then ulpF32 (BitVec.ofNat 32 c)
    else if ty = 9 then
      let e : Nat := (c / 2 ^ 10) % 32
      if e = 0 then -24 else (e : Int) - 25
    else
      let uns := ty ≥ 0x18
      let p := ty % 8
      let m := b8mag p (b8bias uns p) (if uns then c % 256 else c % 128)
      m.2

/-- One lane of VCVT: the source lane and the rounding operand (R304). -/
def vcvtLane (rm : RM) (dir inf : Bool) (ty : Nat) (x r : Word) : Word × Exc :=
  if dir then
    let y := encodeIeee .b32 32 rm (unitOf ty x.toNat) r.toNat (decodeType ty inf x.toNat)
    (BitVec.ofNat 32 y.1, y.2)
  else
    let y := encodeType ty inf rm (ulpF32 x) r.toNat (decodeF32 x)
    (BitVec.ofNat 32 y.1, y.2)

/-- VCVT (R304): under SR the rounding operand is lane l of register D, read at issue. -/
def execVcvt (d : BitVec 6) (w : BitVec 1) (a : BitVec 6) (r : BitVec 3) (x f : BitVec 1) (t : BitVec 5) (s : State) : Out :=
  let v := s.srcV a
  let z := s.srcV d
  let rm := rmOf r.toNat
  s.checked (v.psn :: (if rm = .sr then [z.psn] else []))
    (s.floatV 4 d w (Vector.ofFn (fun l : Fin 128 => vcvtLane rm (x == 1) (f == 1) t.toNat v[l].val z[l].val)))

/-- A dot product with one rounding (R305): the exact sum of the accumulator and the products. An element that is a NaN, a product
0 × ∞ or a sum that meets both infinities is NV; a NaN accumulator gives the NaN, with NV when it is signalling. -/
def dotSum (acc : FVal) (ps : List (FVal × FVal)) : FRes :=
  let prods := ps.map (fun p => fprod p.1 p.2)
  let elemBad := ps.any (fun p => p.1.isNan || p.2.isNan) || prods.any (fun p => p.1.isNan)
  let vals := (if acc.isNan then [] else [acc]) ++ prods.map (fun p => p.1)
  let posInf := vals.any (fun v => v == .inf false)
  let negInf := vals.any (fun v => v == .inf true)
  if elemBad || (posInf && negInf) then (.nan false, Exc.nv)
  else if acc.isNan then (.nan false, nanExc [acc])
  else if posInf then (.inf false, 0)
  else if negInf then (.inf true, 0)
  else
    let z := (vals.map FVal.dy).foldl Dy.add ⟨0, 0⟩
    (.fin (z.num < 0) z.num.natAbs z.exp, 0)

/-- The four binary8 pairs of a lane. -/
def dotPairs4 (u inf : Bool) (p : Nat) (x y : Word) : List (FVal × FVal) :=
  (List.range 4).map (fun e => (decodeB8 u p inf (bits x.toNat (8 * e + 7) (8 * e)), decodeB8 u p inf (bits y.toNat (8 * e + 7) (8 * e))))

/-- The two binary16 pairs of a lane. -/
def dotPairs2 (x y : Word) : List (FVal × FVal) :=
  (List.range 2).map (fun e => (decodeF16 (bits x.toNat (16 * e + 15) (16 * e)), decodeF16 (bits y.toNat (16 * e + 15) (16 * e))))

/-- A dot-product word: D accumulates (R305). -/
def vdot (pairs : Word → Word → List (FVal × FVal)) (d : BitVec 6) (w : BitVec 1) (a b : BitVec 6) (s : State) : Out :=
  let x := s.srcV a
  let y := s.srcV b
  let z := s.srcV d
  s.checked [x.psn, y.psn, z.psn] (s.floatV 5 d w
    (Vector.ofFn (fun l : Fin 128 => toF32 (dotSum (decodeF32 z[l].val) (pairs x[l].val y[l].val)))))

def execVdot4 (d : BitVec 6) (w : BitVec 1) (a b : BitVec 6) (u f : BitVec 1) (p : BitVec 3) (s : State) : Out :=
  vdot (dotPairs4 (u == 1) (f == 1) p.toNat) d w a b s
def execVdot2 (d : BitVec 6) (w : BitVec 1) (a b : BitVec 6) (s : State) : Out := vdot dotPairs2 d w a b s

end Sys2Proof.Machine
end

