-- ==== Sys2Proof/Machine/Objects.lean ====
section
/-! DEFINITION. Objects (R180 to R184): entries, tiles and their elements, bound checks (R150), trailers of quantised tiles (R151,
R152), and what an engine that works for a core does when an access of it fails (R174, R342). -/

namespace Sys2Proof.Machine

/-! ### Entries (R180, R181) -/

/-- Whether a type code names a type, and its size in bytes (R181). -/
def typeOk (ty : Nat) : Bool := ty ≤ 9 || (0x11 ≤ ty && ty ≤ 0x17) || (0x19 ≤ ty && ty ≤ 0x1F)
def typeSize (ty : Nat) : Nat :=
  match intType ty with
  | some (w, _) => w / 8
  | none => if ty = 8 then 4 else if ty = 9 then 2 else 1

/-- Row pitch of a tile in L1 at an element size (R182). -/
def Obj.pitchOf (o : Obj) (size : Nat) : Nat := (o.tcols * size + 63) / 64 * 64
def Obj.size (o : Obj) : Nat := typeSize o.type
def Obj.pitch (o : Obj) : Nat := o.pitchOf o.size

/-- Bytes of a tile in L1, without and with the trailer of a quantised one (R182). -/
def Obj.tileBytes (o : Obj) : Nat := o.trows * o.pitch
def Obj.area (o : Obj) : Nat := o.tileBytes + (if o.quant then 16 else 0)

/-- The entry that eight doublewords hold, without regard to its limits. -/
def objFields (w : Nat → Nat) : Obj :=
  { base := BitVec.ofNat 64 (w 0), rows := bits (w 1) 63 32, cols := bits (w 1) 31 0
    rstride := bits (w 2) 63 24, estride := bits (w 2) 23 8, type := bits (w 2) 7 0
    trows := bits (w 3) 63 48, tcols := bits (w 3) 47 32, bact := bits (w 3) 31 30
    quant := bitOf (w 3) 29, digest := bitOf (w 3) 28, rd := bitOf (w 3) 27, wr := bitOf (w 3) 26
    peer := bitOf (w 3) 25, inf := bitOf (w 3) 24, oute := bits (w 3) 3 0
    lo := BitVec.ofNat 32 (bits (w 4) 63 32), hi := BitVec.ofNat 32 (bits (w 4) 31 0) }

/-- An object-table entry, or none when it is invalid (R180). -/
def parseObj (bs : List PByte) : Option Obj :=
  let w := fun (k : Nat) => leNat (plain ((bs.drop (8 * k)).take 8))
  let o := objFields w
  if (psnOf bs).isSome || o.rows = 0 || o.cols = 0 || o.trows = 0 || o.tcols = 0 || !typeOk o.type || o.estride < o.size
    || bits (w 3) 23 4 != 0 || w 5 != 0 || w 6 != 0 || w 7 != 0 || (!o.peer && o.oute != 0) || o.area > 2 ^ 21 then none
  else some o

/-- Reads entry k of an object table (R184). -/
def State.readObj (s : State) (w : Who) (table : DWord) (k : Nat) : Access (Option Obj) :=
  Access.bind (s.readVa w (table.toNat + 64 * k) 64) fun bs s => .ok ((parseObj bs).map (fun o => { o with index := k }), s)

/-! ### Tiles and elements (R180, R182) -/

/-- Whether a tile coordinate has its first row and column inside the object. -/
def Obj.hasTile (o : Obj) (ty tx : Nat) : Bool := ty * o.trows < o.rows && tx * o.tcols < o.cols

/-- The elements of a tile inside the object, in row-major order, by their place in the tile. -/
def Obj.tile (o : Obj) (ty tx : Nat) : List (Nat × Nat) :=
  let nr := min o.trows (o.rows - ty * o.trows)
  let nc := min o.tcols (o.cols - tx * o.tcols)
  (List.range nr).flatMap (fun i => (List.range nc).map (fun j => (i, j)))

/-- Offset of element (i, j) of a tile from BASE, and its address (R180). -/
def Obj.offset (o : Obj) (ty tx i j : Nat) : Nat := (ty * o.trows + i) * o.rstride + (tx * o.tcols + j) * o.estride
def Obj.addr (o : Obj) (ty tx i j : Nat) : Nat := (o.base + BitVec.ofNat 64 (o.offset ty tx i j)).toNat

/-- Place of element (i, j) in a tile laid out in L1 at an element size. -/
def Obj.place (o : Obj) (size i j : Nat) : Nat := i * o.pitchOf size + j * size

/-- The hull of a tile: its lowest byte and the byte above its highest (R94). -/
def Obj.hull (o : Obj) (ty tx : Nat) : Nat × Nat :=
  let nr := min o.trows (o.rows - ty * o.trows)
  let nc := min o.tcols (o.cols - tx * o.tcols)
  (o.addr ty tx 0 0, o.addr ty tx (nr - 1) (nc - 1) + o.size)

/-- An element with its place in the tile and its bytes. -/
abbrev Elem := (Nat × Nat) × List PByte

/-- The code of an element. -/
def Elem.code (e : Elem) : Nat := leNat (plain e.2)

/-- Reads the elements of a tile (R182). -/
def State.readTile (w : Who) (o : Obj) (ty tx : Nat) : List (Nat × Nat) → State → Access (List Elem)
  | [], s => .ok ([], s)
  | p :: ps, s =>
    Access.bind (s.readVa w (o.addr ty tx p.1 p.2) o.size) fun bs s =>
      Access.bind (State.readTile w o ty tx ps s) fun rest s => .ok ((p, bs) :: rest, s)

/-- The bytes of elements by address, those that lie end to end joined: a sector that they fill is written whole (R34). -/
def Obj.runs (o : Obj) (ty tx : Nat) (es : List Elem) : List (Nat × List PByte) :=
  es.foldr (fun e rs =>
    let a := o.addr ty tx e.1.1 e.1.2
    match rs with
    | (b, bs) :: rest => if a + e.2.length = b then (a, e.2 ++ bs) :: rest else (a, e.2) :: rs
    | [] => [(a, e.2)]) []

/-- Stores runs of bytes at their addresses. -/
def State.writeRuns (w : Who) : List (Nat × List PByte) → State → Access Unit
  | [], s => .ok ((), s)
  | r :: rs, s => Access.bind (s.writeVa w r.1 r.2) fun _ s => State.writeRuns w rs s

/-- Stores elements at their addresses. -/
def State.writeTile (w : Who) (o : Obj) (ty tx : Nat) (es : List Elem) (s : State) : Access Unit := State.writeRuns w (o.runs ty tx es) s

/-- A range of a pad zeroed. -/
def Pad.zero (p : Pad) (a n : Nat) : Pad := { bytes := Mem.clear p.bytes a n, psn := SMap.clear p.psn ((a + 7) / 8) ((a + n) / 8 - (a + 7) / 8) }

/-- A tile laid out in a pad: zeros, then its elements (R182, R350). -/
def Pad.putTile (p : Pad) (o : Obj) (l1 size : Nat) (es : List Elem) : Pad :=
  es.foldl (fun p e => p.writeP (l1 + o.place size e.1.1 e.1.2) e.2) (p.zero l1 (o.trows * o.pitchOf size))

/-- The elements of a tile as a pad holds them. -/
def Pad.getTile (p : Pad) (o : Obj) (l1 size ty tx : Nat) : List Elem :=
  (o.tile ty tx).map (fun e => (e, p.readP (l1 + o.place size e.1 e.2) size))

/-! ### Bound checks (R150) -/

/-- Whether a value violates the bounds of an entry, and how: below or NaN, or above. -/
def Obj.below (o : Obj) (v : FVal) : Bool := v.isNan || condFloat 2 v (decodeF32 o.lo)
def Obj.above (o : Obj) (v : FVal) : Bool := condFloat 4 v (decodeF32 o.hi)
def Obj.violates (o : Obj) (c : Nat) : Bool :=
  let v := decodeType o.type o.inf c
  o.bact != 0 && (o.below v || o.above v || condFloat 4 (decodeF32 o.lo) (decodeF32 o.hi))

/-- A bound rounded into an element type, saturating (R150). -/
def boundCode (ty : Nat) (inf : Bool) (rm : RM) (v : FVal) : Nat :=
  match v with
  | .fin neg num e =>
    if (intType ty).isSome then (encodeType ty inf rm 0 0 v).1
    else if ty = 8 then (encodeIeee { Fmt.b32 with inf := false } 32 rm 0 0 v).1
    else if ty = 9 then (encodeIeee { Fmt.b16 with inf := false } 16 rm 0 0 v).1
    else
      let uns := decide (ty ≥ 0x18)
      if uns && neg then (encodeType ty inf rm 0 0 v).1
      else
        let x := narrowMag { Fmt.b8 uns (ty % 8) inf with inf := false } rm neg num e 0 0
        let s := if neg then 0x80 else 0
        match x.1 with
        | .toInf | .toMax => s + b8maxCode uns inf
        | .code c => if c = 0 then 0 else s + c
  | v => (encodeType ty inf rm 0 0 v).1

/-- The code that a store of a code leaves under FLAG and CLAMP. -/
def Obj.bounded (o : Obj) (c : Nat) : Nat :=
  if o.bact = 2 && o.violates c then
    if o.below (decodeType o.type o.inf c) then boundCode o.type o.inf .rup (decodeF32 o.lo)
    else boundCode o.type o.inf .rdn (decodeF32 o.hi)
  else c

/-- An element as it is stored under the bound action. -/
def Obj.boundElem (o : Obj) (e : Elem) : Elem :=
  if o.bact = 2 && o.violates e.code then
    (e.1, (leBytes o.size (o.bounded e.code)).map (fun b => (b, psnOf e.2)))
  else e

/-- BOUND_FLAG of a launch, when a stored value violated a bound with FLAG (R75, R150). -/
def State.boundFlag (s : State) (l : Nat) (o : Obj) (codes : List Nat) : State :=
  if o.bact = 1 && codes.any o.violates then s.onLaunch l fun x => { x with flags := x.flags ||| 0b1000#16 } else s

/-! ### Trailers (R151, R152) -/

/-- FMT of a quantised type, or none (R151). -/
def fmtCode (ty : Nat) (inf : Bool) : Option Nat :=
  if ty = 4 then some 0x20
  else if ty = 0 then some 0x21
  else if 0x11 ≤ ty && ty ≤ 0x17 then some (ty % 8 + (if inf then 8 else 0))
  else if 0x19 ≤ ty && ty ≤ 0x1F then some (0x10 + ty % 8 + (if inf then 8 else 0))
  else none

/-- Whether a value's magnitude is below another's; infinities are largest, a NaN counts as zero. -/
def magLt (x y : FVal) : Bool :=
  match x, y with
  | .inf _, _ => false
  | .nan _, .nan _ => false
  | _, .inf _ => true
  | .nan _, .fin _ n _ => n != 0
  | .fin .., .nan _ => false
  | .fin _ n e, .fin _ m f => Dy.lt ⟨n, e⟩ ⟨m, f⟩

/-- MAXMAG of codes: the largest magnitude in binary16, rounded up, infinite above 65,504 (R151). -/
def maxMag (ty : Nat) (inf : Bool) (codes : List Nat) : Nat :=
  let m := codes.foldl (fun (b : FVal) c => let v := decodeType ty inf c; if magLt b v then v else b) (.fin false 0 0)
  match m with
  | .fin _ n e => (encodeIeee .b16 16 .rup 0 0 (.fin false n e)).1
  | .inf _ => 0x7C00
  | .nan _ => 0

/-- The trailer of a quantised tile (R151). -/
def trailerBytes (o : Obj) (codes : List Nat) (sat : Nat) : List Byte :=
  leBytes 2 (maxMag o.type o.inf codes) ++ leBytes 2 (min sat 0xFFFF) ++ leBytes 4 codes.length
  ++ leBytes 1 ((fmtCode o.type o.inf).getD 0) ++ leBytes 3 0 ++ leBytes 4 (crc32c (codes.flatMap (fun c => leBytes o.size c)))

/-- Whether a trailer matches the elements, SATCNT aside (R152). -/
def trailerOk (o : Obj) (codes : List Nat) (t : List PByte) : Bool :=
  let want := trailerBytes o codes 0
  let got := plain t
  (psnOf t).isNone && (fmtCode o.type o.inf).isSome && got.take 2 == want.take 2 && got.drop 4 == want.drop 4

/-- Address of the trailer of a tile (R351). -/
def Obj.trailerAddr (o : Obj) (ty tx : Nat) : Nat :=
  (o.base + BitVec.ofNat 64 (o.rows * o.rstride + 16 * (ty * ((o.cols + o.tcols - 1) / o.tcols) + tx))).toNat

/-- Elements that a failed trailer poisons (R152). -/
def poisonAll (o : Origin) (es : List Elem) : List Elem := es.map (fun e => (e.1, e.2.map (fun b => (b.1, some o))))

/-- A quantised tile read and checked: its elements, poisoned on a mismatch, and its trailer (R152). -/
def State.readQuant (s : State) (w : Who) (o : Obj) (ty tx : Nat) : Access (List Elem × List PByte) :=
  Access.bind (State.readTile w o ty tx (o.tile ty tx) s) fun es s =>
    Access.bind (s.readVa w (o.trailerAddr ty tx) 16) fun t s =>
      .ok ((if trailerOk o (es.map Elem.code) t then es else poisonAll .trailer es, t), s)

/-! ### What a failed access of an engine becomes (R145, R174, R178, R342) -/

/-- Whether an engine's hold has come to its end, whether it stands, and the hold ended. -/
def State.heldOut (s : State) (w : HoldWho) : Bool := s.holds.contains (w, true)
def State.holding (s : State) (w : HoldWho) : Bool := s.holds.any (fun x => x.1 == w)
def State.unhold (s : State) (w : HoldWho) : State := { s with holds := s.holds.filter (fun x => x.1 != w) }

/-- An engine access waits for a page (R178): the end of the hold is due once. -/
def State.holdOnly (s : State) (w : HoldWho) : State :=
  if s.holding w then s else { s with holds := s.holds ++ [(w, false)] }.push (.allocHoldTimeout w)

/-- An engine access waits for a page (R178): its step is due again, before any later one of its channel (R41, R57, R70, R201). -/
def State.holdOn (s : State) (w : HoldWho) (again : Instr) : State := (s.holdOnly w).retry again

/-- An access of an engine that works for a core stops (R342): a fault of the launch, a frozen context, a wait for a page or for a hop under repair,
after which the step is due again. The fault names the issuer of the operation (R145, R146). -/
def State.issuerStop (i : Issuer) (again : Instr) : Stop → Out
  | .trap _ cause val o s => .next ((s.unhold (.engine i.cid)).faultOf i (engineCause cause) val o)
  | .stall _ s =>
    if s.heldOut (.engine i.cid) then .next ((s.unhold (.engine i.cid)).faultOf i .page 0 none)
    else .next (s.holdOn (.engine i.cid) again)
  | .paused s => .next (s.retry again)
  | .tag at' val s => .next ((s.unhold (.engine i.cid)).tagFault at' (some i) val)
  | .busy val s => .next ((s.unhold (.engine i.cid)).faultOf i .shadowBusy val none)

/-- The fault of an engine operation that the work on a core issued, named by the bundle that issued it (R146). -/
def State.engineFault (s : State) (cid : Nat) (pc : DWord) (cause : Cause) (val : DWord) (origin : Psn) : State :=
  s.faultOf ((s.coreAt cid).issuer pc) cause val origin

/-- An access of an engine that works for what runs on a core stops (R342). -/
def State.engineStop (s : State) (cid : Nat) (pc : DWord) (again : Instr) (e : Stop) : Out :=
  State.issuerStop ((s.coreAt cid).issuer pc) again e

/-- ALLOC_HOLD_TIMEOUT (R178): the hold ends without a page. -/
def execAllocHoldTimeout (who : HoldWho) (s : State) : Out :=
  match who with
  | .core cid =>
    let t := (s.coreAt cid).t
    if t.hold == some .allocHold || t.waitPage then
      .next (s.onCore cid fun c => { c with t := { c.t with hold := none, allocFail := true, waitPage := false } })
    else .next s
  | w => if s.holding w then .next { s with holds := s.holds.map (fun x => if x.1 == w then (w, true) else x) } else .next s

end Sys2Proof.Machine
end

