-- ==== Sys2Proof/Machine/Hub.lean ====
section
/-! DEFINITION. What a hub holds: task packets and their checks (R92 to R94, R98, R238), slots and handles (R95, R121), dependence
entries (R99 to R101), buckets, low pushes and spill (R112 to R123). -/

namespace Sys2Proof.Machine

/-! ### Packets (R92, R94, R98) -/

/-- A multiple of k at or above n. -/
def alignUp (n k : Nat) : Nat := (n + k - 1) / k * k

/-- A region declaration (R94). -/
def regionOf (w : Nat) : Region :=
  { obj := bits w 63 48, ty := bits w 47 34, tx := bits w 33 20, mode := bits w 19 18, scope := bits w 17 15, l1off := bits w 14 0 }

/-- Length in bytes that a packet's header names (R92). -/
def packetLen (bs : List Byte) : Nat := 32 * bits (field bs 0 8) 63 60

/-- A packet or nest record read by the limits of R92 and R98, or none. -/
def parsePacket (bs : List Byte) : Option Task :=
  let w0 := field bs 0 8
  let w1 := field bs 8 8
  let w2 := field bs 16 8
  let kind := bits w0 59 58
  let nest := kind == 2
  let nreg := bits w0 53 50
  let nsucc := bits w0 49 47
  let npay := bits w0 46 42
  let pay := if nest then 0x30 else 0x20
  let reg := alignUp (pay + 4 * npay) (if nest then 16 else 8)
  let step := if nest then 16 else 8
  let suc := reg + step * nreg
  let coeff := fun (k : Nat) => field bs (reg + 16 * k + 8) 8
  if packetLen bs = 0 || packetLen bs > 256 || bs.length < packetLen bs || kind == 3 || nreg > 8 || npay > 16
    || bits w1 47 24 % 3 != 0 || bits w1 23 0 != 0 || bits w2 63 32 > 65535 || bits w2 23 0 != 0 || suc + 4 * nsucc > packetLen bs
    || (nest && (nsucc != 0 || field bs 0x2C 4 != 0 || (List.range nreg).any (fun k => bits (coeff k) 15 0 != 0))) then none
  else
    some { kind := kind, pin := bitOf w0 56, nosteal := bitOf w0 55, nopre := bitOf w0 54, pinx := bits w0 41 37, piny := bits w0 36 32
           key := BitVec.ofNat 32 w0, code := bits w1 63 48, entry := bits w1 47 24, pend := bits w2 63 32
           payload := (List.range npay).map (fun i => BitVec.ofNat 32 (field bs (pay + 4 * i) 4))
           regions := (List.range nreg).map (fun k => regionOf (field bs (reg + step * k) 8))
           coeffs := if nest then (List.range nreg).map (fun k => BitVec.ofNat 64 (coeff k)) else []
           counts := if nest then (List.range 6).map (fun i => field bs (0x20 + 2 * i) 2) else []
           succ := (List.range nsucc).map (fun i => BitVec.ofNat 32 (field bs (suc + 4 * i) 4))
           packetSucc := (List.range nsucc).map (fun i => BitVec.ofNat 32 (field bs (suc + 4 * i) 4)) }

/-! ### Reads that a hub makes for a launch -/

/-- A core of a launch on a die. -/
def LaunchRec.coreOn (r : LaunchRec) (die : Nat) : Option Nat := r.cores.find? (fun c => dieOf c == die)

/-- Who a hub is when it reads and writes for a launch. -/
def Launch.whoAt (x : Launch) (l die : Nat) : Who := ⟨(x.lrec.coreOn die).getD (cidInDie die 0), x.ctx, some l, true, die⟩

/-- Reads bytes with the right to execute, as the dispatch engine reads code (R238, R283). -/
def State.readCode (s : State) (w : Who) (va n : Nat) : Access (List PByte) :=
  Access.bind (State.resolveAll w .x (pieces n va n) s) fun x s => State.readAll x s

/-- Word offset of an entry of the code object, or none when it breaks its limits (R238). -/
def State.codeEntry (s : State) (w : Who) (code : DWord) (k : Nat) : Access (Option Nat) :=
  Access.bind (s.readCode w code.toNat 4) fun h s =>
    let n := leNat (plain h)
    if (psnOf h).isSome || n = 0 || n > 65535 || k ≥ n then .ok (none, s)
    else
      Access.bind (s.readCode w (code.toNat + 4 * (1 + k)) 4) fun e s =>
        let off := leNat (plain e)
        .ok (if (psnOf e).isSome || off % 3 != 0 || off ≤ n then none else some off, s)

/-- Entry k of a launch's object table, from the copy read since OBJPUB if there is one (R101, R184). -/
def State.launchObj (s : State) (l : Nat) (w : Who) (k : Nat) : Access (Option Obj) :=
  match SMap.find? s.launches l with
  | none => .ok (none, s)
  | some x =>
    if k ≥ x.lrec.objCount then .ok (none, s)
    else match SMap.find? x.objCopy k with
      | some o => .ok (o, s)
      | none =>
        Access.bind (s.readObj w x.lrec.objAddr k) fun o s =>
          .ok (o, s.onLaunch l fun x => { x with objCopy := SMap.insert x.objCopy k o })

/-- A region with its object. -/
abbrev Placed := Region × Obj

/-- The regions of a packet with their objects; none when one breaks R94, R180 or R183. -/
def State.regionObjs (l : Nat) (w : Who) : List Region → State → Access (Option (List Placed))
  | [], s => .ok (some [], s)
  | r :: rs, s =>
    Access.bind (s.launchObj l w r.obj) fun o s =>
      match o with
      | none => .ok (none, s)
      | some o =>
        if o.peer || !o.hasTile r.ty r.tx || r.scope > 4 || (r.mode = 3 && o.type != 6 && o.type != 7 && o.type != 8) then .ok (none, s)
        else Access.bind (State.regionObjs l w rs s) fun rest s => .ok (rest.map (fun x => (r, o) :: x), s)

/-- L1 range of a region (R94, R182). -/
def l1Range (x : Placed) : Nat × Nat := (64 * x.1.l1off, x.2.area)

/-- Whether ranges (start, length) meet. -/
def rangesMeet (x y : Nat × Nat) : Bool := x.1 < y.1 + y.2 && y.1 < x.1 + x.2

/-- Whether the regions of a packet stay inside the L1 and apart (R93). -/
def regionsFit : List Placed → Bool
  | [] => true
  | x :: xs => (l1Range x).1 + (l1Range x).2 ≤ 2 ^ 21 && !xs.any (fun y => rangesMeet (l1Range x) (l1Range y)) && regionsFit xs

/-- The home hubs of a range of device memory in a launch with nd hubs (R100): one index for each 2 MiB granule that it touches. -/
def homesOf (nd lo hi : Nat) : List Nat :=
  let g := lo / 2 ^ 21
  (List.range nd).filter (fun i => (List.range (min nd ((hi - 1) / 2 ^ 21 + 1 - g))).any (fun j => (g + j) % nd == i))

/-- The dependence entries of a task in a launch with nd hubs (R99, R100). They are made at every home hub in the step that accepts the
task, so no home hub admits another's between them: DESIGN CHOICE, log 60. -/
def depsOf (nd uid : Nat) (xs : List Placed) : List Dep :=
  xs.map (fun x =>
    let h := x.2.hull x.1.ty x.1.tx
    { uid := uid, obj := x.1.obj, ty := x.1.ty, tx := x.1.tx, mode := x.1.mode, lo := h.1, hi := h.2, real := x.2.type == 8
      homes := homesOf nd h.1 h.2 })

/-- Whether two declarations conflict (R99): they meet at a home hub (R100). -/
def Dep.conflicts (x y : Dep) : Bool :=
  x.homes.any (fun h => y.homes.contains h)
  && (if x.obj = y.obj then x.ty == y.ty && x.tx == y.tx else x.lo < y.hi && y.lo < x.hi)
  && !(x.mode == 0 && y.mode == 0) && !(x.mode == 3 && y.mode == 3 && !x.real && !y.real)

/-- Tasks that a task waits for: those whose earlier entries conflict with one of its own (R101). -/
def Launch.waitsFor (x : Launch) (uid : Nat) : List Nat :=
  let mine := x.deps.filter (fun d => d.uid == uid)
  let earlier := x.deps.takeWhile (fun d => d.uid != uid)
  ((earlier.filter (fun d => mine.any (fun m => d.conflicts m))).map (fun d => d.uid)).eraseDups

/-- Whether a task is eligible (R101). -/
def Launch.eligible (x : Launch) (k : Task) : Bool := k.pend == 0 && (x.waitsFor k.uid).isEmpty

/-- Whether PIN of a packet is legal at a die's hub (R93). -/
def LaunchRec.pinOk (r : LaunchRec) (die : Nat) (k : Task) : Bool :=
  !k.pin || (r.has (cidOf k.pinx k.piny) && dieOf (cidOf k.pinx k.piny) == die)

/-- The checks of R93 on a packet at a die's hub of a launch: the task and its dependence entries, or none. -/
def State.checkPacket (s : State) (l die : Nat) (kinds : List Nat) (bs : List Byte) : Access (Option (Task × List Placed)) :=
  match parsePacket bs, SMap.find? s.launches l with
  | some k, some x =>
    if !kinds.contains k.kind || !x.lrec.pinOk die k then .ok (none, s)
    else
      let w := x.whoAt l die
      Access.bind (State.regionObjs l w k.regions s) fun rs s =>
        match rs with
        | none => .ok (none, s)
        | some rs =>
          if !regionsFit rs then .ok (none, s)
          else
            Access.bind (s.codeEntry w x.lrec.codeAddr k.code) fun e s =>
              .ok (e.map (fun e => ({ k with lslot := l, start := e }, rs)), s)
  | _, _ => .ok (none, s)

/-! ### Slots and handles (R95, R121) -/

/-- The lowest free slot. -/
def firstGap {α : Type} : Nat → SMap α → Nat
  | n, [] => n
  | n, (k, _) :: m => if k = n then firstGap (n + 1) m else n

/-- Free slots of a hub. -/
def Hub.free (h : Hub) : Nat := 4096 - h.slots.length

/-- A handle (R95). -/
def handleOf (die slot gen : Nat) : Word := BitVec.ofNat 32 (die * 2 ^ 26 + slot * 2 ^ 14 + gen)

/-- The lowest free slot taken for a launch, with the handle of its new use; none while every slot is in use. -/
def State.takeSlot (s : State) (l die : Nat) : Option (Word × State) :=
  let h := s.hub die
  let slot := firstGap 0 h.slots
  if slot ≥ 4096 then none
  else
    let gen := SMap.getD h.gens slot 0
    some (handleOf die slot gen, s.onHub die fun h =>
      { h with slots := SMap.insert h.slots slot l, gens := SMap.insert h.gens slot ((gen + 1) % 2 ^ 14) })

/-! ### Blocks -/

def State.block (s : State) (l die : Nat) : HubBlock :=
  match SMap.find? s.launches l with
  | some x => SMap.getD x.hubs die { reach := x.lrec.reach }
  | none => {}
def State.onBlock (s : State) (l die : Nat) (f : HubBlock → HubBlock) : State :=
  s.onLaunch l fun x => { x with hubs := SMap.insert x.hubs die (f (SMap.getD x.hubs die { reach := x.lrec.reach })) }

/-- The record of a launch. -/
def State.recOf (s : State) (l : Nat) : LaunchRec := ((SMap.find? s.launches l).map (fun (x : Launch) => x.lrec)).getD {}

/-- The lowest bucket present at a hub (R114, R115): tasks given to a thief count until it answers. -/
def HubBlock.lowest (h : HubBlock) (r : LaunchRec) : Option Nat :=
  let bs := h.buckets.map (fun b => b.1) ++ h.far.map (fun k => bucketOf r k.key) ++ h.giving.map (fun x => bucketOf r x.2.key)
  bs.min?

/-- The lowest bucket among held pushes. -/
def HubBlock.lowestHeld (h : HubBlock) (r : LaunchRec) : Option Nat := ((h.held ++ h.late).map (fun k => bucketOf r k.key)).min?

/-- A change at a hub: the choice of tasks and the floor may move on (R106, R115). -/
def State.stir (s : State) (l die : Nat) : State := (s.pushOnce (.taskDispatch die)).pushOnce (.floorPropose l)

/-! ### Queues with a spill part (R122) -/

def HubBlock.queueNo (h : HubBlock) (b : Nat) : Nat := if h.isFar b then farQueue else b

/-- How many tasks of a queue stand in its head part. -/
def headPart (q : List Task) : Nat := (q.takeWhile (fun k => k.page.isNone)).length

/-- Whether a refill of a queue is due. -/
def State.refillDue (s : State) (l die b : Nat) : State :=
  let q := (s.block l die).queue b
  if headPart q < 16 && headPart q < q.length && (s.hub die).free > 256 then
    s.pushOnce (.bucketRefill l die ((s.block l die).queueNo b))
  else s

/-- Refills due at a hub for a launch: its window buckets, and the far bucket. -/
def State.refillAll (s : State) (l die : Nat) : State :=
  ((s.block l die).buckets.foldl (fun (s : State) (x : Nat × List Task) => s.refillDue l die x.1) s).refillDue l die ((s.block l die).fc + 64)

/-- The slot of a handle is free again: spilled tasks of any launch may move up (R122). -/
def State.freeSlot (s : State) (die : Nat) (handle : Word) : State :=
  let s := s.onHub die fun h => { h with slots := SMap.erase h.slots (bits handle.toNat 25 14) }
  s.launches.foldl (fun (s : State) (x : Nat × Launch) => s.refillAll x.1 die) s

/-! ### Spill pages (R122, R123) -/

/-- A fault of the hub's own: no spill page, no slot for a task with PEND > 0, an access that fails (R121, R123, R146); with the origin of a
poisoned page-table entry (R174). -/
def State.hubFault (s : State) (l die : Nat) (cause : Cause) (val : DWord) (origin : Psn := none) : State :=
  s.launchFault l cause (s.unitFault l cause 2 die origin val)

/-- A hub's access on behalf of a launch stops: a fault of the launch, or a wait for a page or for a hop under repair after which the step is due
again. Of a packet from another device that ends in such a fault no credit and no fate go back: DESIGN CHOICE, log 67. -/
def State.hubStop (l die : Nat) (again : Instr) : Stop → Out
  | .trap _ cause val o s => .next ((s.unhold (.launch l)).hubFault l die (engineCause cause) val o)
  | .stall _ s =>
    if s.heldOut (.launch l) then .next ((s.unhold (.launch l)).hubFault l die .page 0)
    else .next (s.holdOn (.launch l) again)
  | .paused s => .next (s.retry again)
  | .tag ctx val s => .next ((s.unhold (.launch l)).tagFault ctx none val)
  | .busy val s => .next ((s.unhold (.launch l)).hubFault l die .shadowBusy val)

/-- A packet or continuation as its record holds it (R92, R96): with the fields that the hub of the launch fills in. A continuation's ENTRY is, as a packet's,
an offset from the task's entry. -/
def Task.record (k : Task) (r : LaunchRec) (deadline : Bool) : List Byte :=
  let flag := fun (b : Bool) (n : Nat) => if b then 2 ^ n else 0
  let nreg := k.regions.length
  let top := flag deadline 57 + flag (k.pin || k.boundTo.isSome) 56 + flag k.nosteal 55 + flag k.nopre 54 + nreg * 2 ^ 50
  let px := (k.boundTo.map meshX).getD k.pinx
  let py := (k.boundTo.map meshY).getD k.piny
  let at' := px * 2 ^ 37 + py * 2 ^ 32 + k.key.toNat
  if k.suspended then
    let entry := ((k.resumePc - r.codeAddr - BitVec.ofNat 64 (4 * k.start)).toNat / 4) % 2 ^ 24
    [3 * 2 ^ 60 + 2 ^ 58 + top + at', k.code * 2 ^ 48 + entry * 2 ^ 24, k.live.toNat * 2 ^ 32 + k.waitv.toNat,
      k.handle.toNat * 2 ^ 32 + k.tln * 2 ^ 29 + k.cx * 2 ^ 24 + k.cy * 2 ^ 19].flatMap (leBytes 8)
    ++ (List.range 16).flatMap (fun i => leBytes 4 (((k.liveRegs[i]?).map (fun (r : Word × Option Origin) => r.1.toNat)).getD 0))
  else
    let pay := k.payload.length
    let suc := k.succ.length
    let reg := alignUp (0x20 + 4 * pay) 8
    let len := (reg + 8 * nreg + 4 * suc + 31) / 32
    let region := fun (r : Region) => r.obj * 2 ^ 48 + r.ty * 2 ^ 34 + r.tx * 2 ^ 20 + r.mode * 2 ^ 18 + r.scope * 2 ^ 15 + r.l1off
    let bs := [len * 2 ^ 60 + top + suc * 2 ^ 47 + pay * 2 ^ 42 + at', k.code * 2 ^ 48 + k.entry * 2 ^ 24, k.pend * 2 ^ 32 + k.lslot * 2 ^ 24,
        k.handle.toNat * 2 ^ 32 + k.cseq.toNat].flatMap (leBytes 8)
      ++ k.payload.flatMap (fun p => leBytes 4 p.toNat) ++ List.replicate (reg - (0x20 + 4 * pay)) 0
      ++ k.regions.flatMap (fun r => leBytes 8 (region r)) ++ k.succ.flatMap (fun h => leBytes 4 h.toNat)
    bs ++ List.replicate (32 * len - bs.length) 0

/-- A record of a spill page for a queue: in the last page of the queue while it has room, else in a new page from the pool of the hub's
strand, which the record 255 of the page before it then names (R29, R123). -/
def State.spillRecord (s : State) (l die q : Nat) (bytes : List Byte) : Option Nat × State :=
  let last := (s.block l die).pages.reverse.find? (fun p => p.queue == q)
  match last.filter (fun p => p.written < 255) with
  | some p =>
    let s := s.onBlock l die fun h => { h with pages := h.pages.map (fun x =>
      if x.pa = p.pa then { x with written := x.written + 1, live := x.live + 1 } else x) }
    (some p.pa, s.physWriteN (p.pa + 256 * p.written) bytes)
  | none =>
    match s.takePage (die / 8) false with
    | (none, s) => (none, s)
    | (some pa, s) =>
      let s := (s.onBlock l die fun h => { h with pages := h.pages ++ [⟨pa, q, 1, 1⟩] }).onLaunch l fun x => { x with owned := x.owned ++ [pa] }
      let s := match last with
        | some p => s.physWriteN (p.pa + 0xFF00) (leBytes 8 pa)
        | none => s
      (some pa, (s.physWriteN (pa + 0xFF00) (leBytes 8 0)).physWriteN pa bytes)

/-- A packet leaves its spill page; a page all of whose records have left returns to its pool. -/
def State.unspill (s : State) (l die pa : Nat) : State :=
  let s := s.onBlock l die fun h => { h with pages := h.pages.map (fun x => if x.pa = pa then { x with live := x.live - 1 } else x) }
  if (s.block l die).pages.any (fun x => x.pa == pa && x.live == 0) then
    ((s.onBlock l die fun h => { h with pages := h.pages.filter (fun x => x.pa != pa) }).onLaunch l fun x =>
      { x with owned := x.owned.filter (fun p => p != pa) }).returnPage pa false
  else s

/-- Whether a hub has fewer than 256 free slots outside the reserve (R121, R122). -/
def Hub.tight (h : Hub) : Bool := h.free < 512

/-- A task appended to a queue, its place in a slot or in a spill page settled. -/
def State.append (s : State) (l die : Nat) (b : Nat) (k : Task) : State :=
  s.onBlock l die fun h => h.setQueue b (h.queue b ++ [k])

/-- A task moved to a spill page at the tail of its bucket. -/
def State.spillTask (s : State) (l die b : Nat) (k : Task) (hasSlot : Bool) : State :=
  match s.spillRecord l die ((s.block l die).queueNo b) (k.record (s.recOf l) (s.recOf l).deadline) with
  | (none, s) => s.hubFault l die .wlSpill 0
  | (some pa, s) =>
    let s := if hasSlot then s.freeSlot die k.handle else s
    (s.append l die b { k with page := some pa }).refillDue l die b

/-- A tail insert (R122): into the spill part when the bucket has one or slots are few, else into a slot. -/
def State.tailInsert (s : State) (l die : Nat) (k : Task) (hasSlot : Bool) : State :=
  let h := s.block l die
  let b := bucketOf (s.recOf l) k.key
  if (h.queue b).any (fun x => x.page.isSome) || (s.hub die).tight then s.spillTask l die b k hasSlot
  else if hasSlot then s.append l die b { k with page := none }
  else match s.takeSlot l die with
    | some (handle, s) => s.append l die b { k with handle := handle, page := none }
    | none => s.spillTask l die b k false

/-- A task moved between a window bucket and the far bucket (R113): one in a slot keeps it unless the queue it joins has a spill
part. -/
def State.moveTask (s : State) (l die : Nat) (k : Task) : State :=
  let h := s.block l die
  let b := bucketOf (s.recOf l) k.key
  if k.page.isNone && (h.queue b).any (fun x => x.page.isSome) then s.spillTask l die b k true else s.append l die b k

/-- A floor and guard set at a hub, with the moves of R113. -/
def State.setFloor (s : State) (l die fc guard : Nat) : State :=
  let r := s.recOf l
  let h := s.block l die
  let leave := h.buckets.filter (fun x => x.1 ≥ fc + 64)
  let come := h.far.filter (fun k => bucketOf r k.key < fc + 64)
  let s := s.onBlock l die fun h =>
    { h with fc := fc, guard := guard, buckets := h.buckets.filter (fun x => x.1 < fc + 64)
             far := h.far.filter (fun k => !(bucketOf r k.key < fc + 64)) }
  let s := (leave.flatMap (fun x => x.2)).foldl (fun s k => s.moveTask l die k) s
  come.foldl (fun s k => s.moveTask l die k) s

/-- The head part of a bucket refilled while it holds fewer than 16 tasks and slots outside the reserve remain (R122). -/
def State.refill : Nat → State → Nat → Nat → Nat → State
  | 0, s, _, _, _ => s
  | fuel + 1, s, l, die, b =>
    let q := (s.block l die).queue b
    let n := headPart q
    match q[n]? with
    | none => s
    | some k =>
      if n ≥ 16 || (s.hub die).free ≤ 256 then s
      else match s.takeSlot l die with
        | none => s
        | some (handle, s) =>
          let s := s.onBlock l die fun h => h.setQueue b (q.set n { k with handle := handle, page := none })
          State.refill fuel (s.unspill l die (k.page.getD 0)) l die b

/-- BUCKET_REFILL (R122). -/
def execBucketRefill (l hub b : Nat) (s : State) : Out :=
  let b' := if b = farQueue then (s.block l hub).fc + 64 else b
  .next ((s.refill 16 l hub b').stir l hub)

/-! ### Inserts (R117 to R119, R125) -/

/-- The guard below which a push is low at a hub: GUARD, and for a group GGUARD too (R117, R125). -/
def HubBlock.lowGuard (h : HubBlock) (multi : Bool) : Nat := if multi then max h.guard h.gguard else h.guard

/-- A task held: below GUARD by the hub's own HOLD, below GGUARD by the group's (R117, R119, R125). When no slot at all is free, reserve included,
which R121 does not speak of, it waits in a spill page of a queue of its own: DESIGN CHOICE, log 70. -/
def State.lowTask (s : State) (l die : Nat) (k : Task) (hasSlot : Bool) : State :=
  let b := bucketOf (s.recOf l) k.key
  let r : Option Task × State := if hasSlot then (some k, s)
    else match s.takeSlot l die with
      | some (handle, s) => (some { k with handle := handle }, s)
      | none =>
        let r := s.spillRecord l die (farQueue + 1) (k.record (s.recOf l) (s.recOf l).deadline)
        (r.1.map (fun pa => { k with page := some pa }), r.2)
  match r with
  | (none, s) => s.hubFault l die .wlSpill 0
  | (some k, s) => s.holdLow l die b k

/-- CLAMP's key (R118). -/
def clampKey (r : LaunchRec) (guard : Nat) : Word := BitVec.ofNat 32 (min (r.wlBase.toNat + guard * 2 ^ r.wlShift) 0xFFFFFFFF)

/-- A fresh push inserted (R117, R118). -/
def State.insertFresh (s : State) (l die : Nat) (k : Task) : State :=
  let r := s.recOf l
  let g := (s.block l die).lowGuard r.multi
  let s := if bucketOf r k.key < g then
      if r.lowmode then (s.onBlock l die fun h => { h with clamps := sat32 h.clamps }).tailInsert l die { k with key := clampKey r g } false
      else s.lowTask l die k false
    else s.tailInsert l die k false
  s.stir l die

/-- A re-entry at the tail of its bucket: below GUARD it is held, whatever LOWMODE (R119). -/
def State.insertTail (s : State) (l die : Nat) (k : Task) (hasSlot : Bool) : State :=
  let r := s.recOf l
  let s := if bucketOf r k.key < (s.block l die).lowGuard r.multi then s.lowTask l die k hasSlot else s.tailInsert l die k hasSlot
  s.stir l die

/-- A nest record goes to the walker of its hub (R98). -/
def State.startWalk (s : State) (l die : Nat) (k : Task) : State :=
  (s.onBlock l die fun h => { h with walking := h.walking ++ [k] }).push (.nestWalkerSpawn l k.uid)

/-- A packet that passed its checks is accepted (R95, R98, R100): its entries are made, it is counted, and it goes to its bucket, to the
walker, or waits for its predecessors; one with PEND > 0 that finds no slot is refused (R121). A task in a spill page has no slot yet: the
handle it answers is open. -/
def State.acceptTask (s : State) (l die : Nat) (k : Task) (rs : List Placed) (cseq : Word) (src : Option Nat) : Except Cause Word × State :=
  let k := { k with uid := s.nextId, cseq := cseq, src := src, places := rs.map l1Range }
  let count := fun (s : State) =>
    let s := ({ s with nextId := s.nextId + 1 } : State).onBlock l die fun h => { h with pushed := h.pushed + 1 }
    if k.kind = 2 then s else s.onLaunch l fun x => { x with deps := x.deps ++ depsOf x.lrec.dies.length k.uid rs }
  if k.pend != 0 then
    match s.takeSlot l die with
    | none => (.error .wlPendfull, s)
    | some (handle, s) => (.ok handle, (count s).onBlock l die fun h => { h with pending := h.pending ++ [{ k with handle := handle }] })
  else if k.kind = 2 then (.ok 0, (count s).startWalk l die k)
  else
    let s := (count s).insertFresh l die k
    (.ok (match (s.block l die).waiting.find? (fun x => x.uid == k.uid) with
      | some x => if x.page.isSome then (Config.openVal s.tick).low else x.handle
      | none => 0), s)

/-! ### The walker (R98) -/

/-- A coefficient of a level: si4, level 0 in the highest nibble of its 24 bits. -/
def coeffAt (field24 level : Nat) : Int := sextInt (field24 / 2 ^ (4 * (5 - level))) 4

/-- The indices of iteration n, level 5 fastest. -/
def iteration (counts : List Nat) (n : Nat) : List Nat :=
  ((counts.reverse).foldl (fun (r : List Nat × Nat) c => (r.2 % c :: r.1, r.2 / c)) ([], n)).1

/-- A region of a child (R98); none when a coordinate leaves its field. -/
def childRegion (r : Region) (co : DWord) (ix : List Nat) : Option Region :=
  let sum := fun (f : Nat) => (List.range 6).foldl (fun (t : Int) l => t + coeffAt f l * (ix.getD l 0 : Nat)) 0
  let ty := (r.ty : Int) + sum (bits co.toNat 63 40)
  let tx := (r.tx : Int) + sum (bits co.toNat 39 16)
  if ty < 0 || tx < 0 || ty ≥ 2 ^ 14 || tx ≥ 2 ^ 14 then none else some { r with ty := ty.toNat, tx := tx.toNat }

/-- The next creation number of the core that created a task. -/
def State.nextCseq (s : State) (src : Option Nat) : Word × State :=
  match src with
  | none => (0, s)
  | some cid => ((s.coreAt cid).cseq, s.onCore cid fun c => { c with cseq := c.cseq + 1 })

/-- The creation number of a nest's next child (R98): the next of the core that pushed the record; of the controller's record, its own and on
from it. -/
def State.childCseq (s : State) (k : Task) : Word × State :=
  match k.src with
  | none => (k.cseq + BitVec.ofNat 32 (k.walked + 1), s)
  | src => s.nextCseq src

/-- The die of a launch whose block holds a task. -/
def Launch.dieWith (x : Launch) (p : HubBlock → Bool) : Option Nat := (List.find? (fun (h : Nat × HubBlock) => p h.2) x.hubs).map (fun (h : Nat × HubBlock) => h.1)

/-- NEST_WALKER_SPAWN (R98): one child, or the end of the record, which retires it. -/
def execNestWalkerSpawn (l uid : Nat) (s : State) : Out :=
  match SMap.find? s.launches l with
  | none => .next s
  | some x =>
    match x.dieWith (fun h => h.walking.any (fun k => k.uid == uid)) with
    | none => .next s
    | some die =>
      match (s.block l die).walking.find? (fun k => k.uid == uid) with
      | none => .next s
      | some k =>
        if k.walked ≥ k.counts.foldl (· * ·) 1 then
          .next ((s.onBlock l die fun h => { h with walking := h.walking.filter (fun q => q.uid != uid), retired := h.retired + 1 }).stir l die)
        else
          let ix := iteration k.counts k.walked
          match (k.regions.zip k.coeffs).mapM (fun p => childRegion p.1 p.2 ix) with
          | none => .next (s.hubFault l die .badPacket 0)
          | some rs =>
            match State.regionObjs l (x.whoAt l die) rs s with
            | .error e => State.hubStop l die (.nestWalkerSpawn l uid) e
            | .ok (none, s) => .next (s.hubFault l die .badPacket 0)
            | .ok (some ps, s) =>
              if !regionsFit ps then .next (s.hubFault l die .badPacket 0)
              else
                let s := s.onBlock l die fun h =>
                  { h with walking := h.walking.map (fun q => if q.uid = uid then { q with walked := q.walked + 1 } else q), pushed := h.pushed + 1 }
                let c := s.childCseq k
                let s := c.2
                let child : Task := { k with
                  uid := s.nextId, kind := 0, regions := rs, places := ps.map l1Range, coeffs := [], counts := [], walked := 0, cseq := c.1
                  idx := ix.map (fun n => BitVec.ofNat 32 n) }
                let s := { s with nextId := s.nextId + 1 }.onLaunch l fun x => { x with deps := x.deps ++ depsOf x.lrec.dies.length child.uid ps }
                .next ((s.insertTail l die child false).push (.nestWalkerSpawn l uid))

end Sys2Proof.Machine
end

