-- ==== Sys2Proof/Machine/VMemory.lean ====
section
/-! DEFINITION. Vector memory (R312 to R314): own-L1 accesses of the V pipe. -/

namespace Sys2Proof.Machine

/-- Whether every one of n bytes of the own L1 lies in a region of the task (R108). -/
def Thread.inRegions (t : Thread) (off n : Nat) : Bool :=
  (List.range n).all (fun i => t.regionL1.any (fun r => r.1 ≤ off + i && off + i < r.1 + r.2))

/-- Bytes stored into the own L1; a store outside the regions of the task ends its rerunnability (R108, R170). -/
def State.storeL1 (s : State) (off : Nat) (bs : List PByte) : State :=
  let s' := s.mapL1 fun p => p.writeP off bs
  if s.core.t.inRegions off bs.length then s' else s'.noRerun

/-- The checks of VLD and VST at E (R312): a multiple of 64, and 512 bytes inside the own-L1 window. -/
def State.vectorAt (s : State) (e : DWord) (k : Nat → Out) : Out :=
  if e.toNat % 64 != 0 then s.trap 3 .align e
  else match ownOff e with
    | some off => if off + 512 ≤ 2 ^ 21 then k off else s.trap 3 .page e
    | none => s.trap 3 .page e

/-- E of VLD and VST (R312). -/
def vectorAddr (a : DWord) (i : BitVec 6) : DWord := a + 64 * i.signExtend 64

/-- The word at an own-L1 offset, with its poison. -/
def Pad.lane (p : Pad) (off : Nat) : PWord :=
  let v := pvalue (p.readP off 4)
  ⟨v.val.low, v.psn⟩

/-- VLD (R312). -/
def execVld (d : BitVec 6) (w : BitVec 1) (a i : BitVec 6) (k : BitVec 3) (s : State) : Out :=
  let x := s.srcA (a.truncate 4)
  s.checked [x.psn] <| s.vectorAt (vectorAddr x.val i) fun off =>
    .next (s.later 5 (.vResult d (w == 1) (s.km k) (Vector.ofFn fun l : Fin 128 => s.core.l1.lane (off + 4 * l.val))))

/-- The two lanes of one 64-bit word stored under a mask: together where both are enabled (R312). -/
def State.storePair (s : State) (mask : BitVec 128) (v : Lanes) (off i : Nat) : State :=
  let lo := clean (leBytes 4 v[laneAt (2 * i)].val.toNat)
  let hi := clean (leBytes 4 v[laneAt (2 * i + 1)].val.toNat)
  match mask.getLsbD (2 * i), mask.getLsbD (2 * i + 1) with
  | true, true => s.storeL1 (off + 8 * i) (lo ++ hi)
  | true, false => s.storeL1 (off + 8 * i) lo
  | false, true => s.storeL1 (off + 8 * i + 4) hi
  | false, false => s

/-- VST (R312). -/
def execVst (d a i : BitVec 6) (k : BitVec 3) (s : State) : Out :=
  let x := s.srcA (a.truncate 4)
  let v := s.srcV d
  s.checked [x.psn, v.psnIn (s.km k)] <| s.vectorAt (vectorAddr x.val i) fun off =>
    .next ((List.range 64).foldl (fun s i => s.storePair (s.km k) v off i) s)

/-- The enabled lanes, ascending. -/
def lanesIn (mask : BitVec 128) : List (Fin 128) := (List.finRange 128).filter (fun l => mask.getLsbD l.val)

/-- The fault of one lane of VGATH or VSCAT, or none (R313). -/
def laneFault (a : DWord) : Option Cause :=
  if a.toNat % 4 != 0 then some .align
  else match ownOff a with
    | some _ => none
    | none => some .page

/-- The lanes' addresses (R313). -/
def laneAddr (a : DWord) (b : Lanes) (l : Fin 128) : DWord := a + b[l].val.zext

/-- The checks of VGATH and VSCAT: the lowest enabled lane that faults names the cause (R313). -/
def State.scattered (s : State) (mask : BitVec 128) (a : DWord) (b : Lanes) (k : Out) : Out :=
  match (lanesIn mask).findSome? (fun l => (laneFault (laneAddr a b l)).map (fun c => (c, laneAddr a b l))) with
  | some (c, v) => s.trap 3 c v
  | none => k

/-- VGATH (R313). -/
def execVgath (d : BitVec 6) (w : BitVec 1) (a b : BitVec 6) (k : BitVec 3) (s : State) : Out :=
  let x := s.srcA (a.truncate 4)
  let y := s.srcV b
  let m := s.km k
  s.checked [x.psn, y.psnIn m] <| s.scattered m x.val y <|
    .next (s.later 8 (.vResult d (w == 1) m
      (Vector.ofFn fun l : Fin 128 => s.core.l1.lane ((ownOff (laneAddr x.val y l)).getD 0))))

/-- VSCAT (R313): ascending lanes, so the higher lane's value stands. -/
def execVscat (d a b : BitVec 6) (k : BitVec 3) (s : State) : Out :=
  let x := s.srcA (a.truncate 4)
  let y := s.srcV b
  let v := s.srcV d
  let m := s.km k
  s.checked [x.psn, y.psnIn m, v.psnIn m] <| s.scattered m x.val y <|
    .next ((lanesIn m).foldl (fun s l =>
      s.storeL1 ((ownOff (laneAddr x.val y l)).getD 0) (clean (leBytes 4 v[l].val.toNat))) s)

end Sys2Proof.Machine
end

