-- ==== Sys2Proof/Machine/LoadStore.lean ====
section
/-! DEFINITION. Scalar loads and stores, acquires, releases and atomics (R344 to R348). An access of a core is performed at once when
nothing that it must follow waits to leave the core, else it joins the egress with the places that its check stage gave it (R175, R194);
the egress is performed in program order, which every ordering matrix of R196 allows. -/

namespace Sys2Proof.Machine

/-! ### Targets (R344) -/

/-- What an address leads to (R169, R344). -/
inductive Target where
  | own | pad | stat | group | dev | none
  deriving DecidableEq, Repr

/-- The target of an address for a core. -/
def targetOf (cid va : Nat) : Target :=
  if va ≥ 2 ^ 56 then .none
  else if va ≥ 0xFF000000000000 then
    match windowOf cid va with
    | some (.l1 _ _ true) => .own
    | some (.l1 _ _ false) | some (.l2 ..) | some (.l3 ..) => .pad
    | some (.memStat _) | some (.hubStat _) => .stat
    | some (.group _) => .group
    | _ => .none
  else .dev

/-- The target of an access of n bytes: one that its pieces share, else none. -/
def targetOf' (cid va n : Nat) : Target :=
  let t := targetOf cid va
  if targetOf cid (va + n - 1) = t then t else .none

/-- Whether a pad that an address leads to lies outside the launch (R171). -/
def State.padDenied (s : State) (va : Nat) : Bool :=
  match windowOf s.core.cid va with
  | some loc => !s.lrec.mayUse loc
  | none => false

/-- A trap of an access, TRAPVAL being its address (R344). -/
def Stop.at (ea : DWord) : Stop → Stop
  | .trap rank cause _ o s => .trap rank cause ea o s
  | .tag ctx _ s => .tag ctx ea s
  | .busy _ s => .busy ea s
  | x => x

/-- The bytes at an address that the core reads (R190). -/
def State.coreRead (s : State) (ea : DWord) (n : Nat) (k : List PByte → State → Out) : Out :=
  match s.readVa s.me ea.toNat n with
  | .ok (bs, s) => k bs s
  | .error e => (e.at ea).out

/-- What a store of n bytes at an address does to the rerunnability of the task: a store outside its regions ends it (R108); a store that a
window ignores is none. -/
def State.storeMark (s : State) (ea : DWord) (n : Nat) : State :=
  match windowOf s.core.cid ea.toNat with
  | some (.memStat _) | some (.hubStat _) => s
  | some (.group off) => if off % 64 = 56 then s.noRerun else s
  | some (.l1 cid off _) =>
    if cid = s.core.cid && s.core.t.inRegions off n then s else s.noRerun
  | _ => s.noRerun

/-- Whether an access with its places known is performed at once: nothing that it must follow waits to leave the core (R194), and no hop of its way
is under repair (R26). -/
def State.goesNow (s : State) (sys : Bool) (places : List (Loc × Nat × Nat)) : Bool := s.core.t.mayLeave sys && !s.placesHeld places

/-- Bytes that the core stores at an address (R190, R194); sys: as a release of system scope. -/
def State.coreWrite (s : State) (sys : Bool) (ea : DWord) (bs : List PByte) (k : State → Out) : Out :=
  match State.resolveAll s.me .w (pieces bs.length ea.toNat bs.length) s with
  | .error e => (e.at ea).out
  | .ok (places, s) =>
    if s.goesNow sys places then
      match State.writeAll s.me places bs s with
      | .ok (_, s) => k (s.storeMark ea bs.length)
      | .error e => (e.at ea).out
    else k ((s.leave sys (.store places bs)).storeMark ea bs.length)

/-- A landing slot is free, else ILLEGAL (R166). -/
def State.slotFree (s : State) (k : Out) : Out := if s.core.t.landings ≥ 32 then s.trap 1 .illegal 0 else k

/-! ### Addresses and values (R345) -/

/-- Bytes of a size field. -/
def sizeOf (z : BitVec 2) : Nat := 2 ^ z.toNat

/-- The effective address of LD, ST and STR, with the poison of its sources (R345). -/
def State.ea (s : State) (b : BitVec 4) (x : BitVec 1) (i : BitVec 11) : DWord × List Psn :=
  let a := s.srcA b
  if x = 0 then (a.val + i.signExtend 64, [a.psn])
  else
    let r := s.srcS (i.truncate 5)
    (a.val + r.val.sext, [a.psn, r.psn])

/-- The 64-bit form of a loaded value: a narrow one sign-extended (R345). -/
def loaded (n : Nat) (bs : List PByte) : PDWord :=
  let v := pvalue bs
  if n = 8 then v else ⟨BitVec.ofInt 64 (sextInt v.val.toNat (8 * n)), v.psn⟩

/-! ### LD, ST, LDL, STR (R344, R345) -/

/-- LD (R345): the own-L1 window only (R166); a pad outside R171 is PROT, as R344 says of every access to one. An a register takes the value zero-extended. -/
def execLd (z : BitVec 2) (d : BitVec 6) (b : BitVec 4) (x : BitVec 1) (i : BitVec 11) (s : State) : Out :=
  let e := s.ea b x i
  let n := sizeOf z
  s.checked e.2 <|
    let denied := targetOf' s.core.cid e.1.toNat n == .pad && s.padDenied e.1.toNat
    match ownOff e.1 with
    | none => s.trap 3 (if denied then .prot else .page) e.1
    | some off =>
      if off + n > 2 ^ 21 then s.trap 3 .page e.1
      else
        let raw := pvalue (s.core.l1.readP off n)
        let v := loaded n (s.core.l1.readP off n)
        let q := if n < 4 && d ≥ 32 then raw.val else v.val
        .next (s.later 4 (.mResult d (if d < 32 then v else raw) q))

/-! ### Stores under a bound action (R150) -/

/-- Row and column of the byte at an offset from BASE, by the larger stride first. -/
def Obj.rowCol (o : Obj) (off : Nat) : Nat × Nat :=
  if o.estride ≤ o.rstride then (off / o.rstride, off % o.rstride / o.estride)
  else if o.rstride = 0 then (0, off / o.estride)
  else (off % o.estride / o.rstride, off / o.estride)

/-- Address of the element that holds the byte at an address, if one does (R180). -/
def Obj.elementAt (o : Obj) (a : Nat) : Option Nat :=
  let off := (BitVec.ofNat 64 a - o.base).toNat
  let rc := o.rowCol off
  let at' := rc.1 * o.rstride + rc.2 * o.estride
  if rc.1 < o.rows && rc.2 < o.cols && at' ≤ off && off < at' + o.size then some ((o.base + BitVec.ofNat 64 at').toNat) else none

/-- An element that a store changes, with its code after the store. -/
structure Stored where
  obj : Obj
  addr : Nat
  code : Nat
  deriving DecidableEq, Repr

/-- The objects of the core's launch as a store's bound check takes them: by the copies of the object window, else by the copy of the launch,
else as the table holds them. The spec does not say how a store finds them: DESIGN CHOICE, log 58. -/
def State.boundObjs (s : State) : List Obj :=
  let own := s.core.t.objs.map (fun x => x.2)
  let kept := ((s.launch?).map (fun x => x.objCopy)).getD []
  own ++ ((List.range s.lrec.objCount).filter (fun k => own.all (fun o => o.index != k))).filterMap fun k =>
    match SMap.find? kept k with
    | some o => o
    | none => match s.readObj { s.me with engine := true } s.lrec.objAddr k with
      | .ok (o, _) => o
      | .error _ => none

/-- The elements under a bound action that a store overlaps (R150). -/
def State.boundElems (s : State) (ea n : Nat) : List (Obj × Nat) :=
  (s.boundObjs.filter (fun o => o.bact != 0 && !o.peer)).flatMap (fun o =>
    (((List.range n).filterMap (fun i => o.elementAt (ea + i))).eraseDups).map (fun a => (o, a)))

/-- Bytes with those of a store laid over them. -/
def overlay (a : Nat) (old : List Byte) (ea : Nat) (new : List Byte) : List Byte :=
  old.zipIdx.map (fun x => if ea ≤ a + x.2 && a + x.2 < ea + new.length then new.getD (a + x.2 - ea) 0 else x.1)

/-- The elements after a store: bytes that the store does not give are read. -/
def State.storedElems (ea : Nat) (bs : List Byte) : List (Obj × Nat) → State → Access (List Stored)
  | [], s => .ok ([], s)
  | x :: xs, s =>
    let whole := ea ≤ x.2 && x.2 + x.1.size ≤ ea + bs.length
    let old : Access (List PByte) := if whole then .ok (clean (List.replicate x.1.size 0), s) else s.readVa s.me x.2 x.1.size
    Access.bind old fun o s =>
      Access.bind (State.storedElems ea bs xs s) fun rest s =>
        .ok (⟨x.1, x.2, leNat (overlay x.2 (plain o) ea bs)⟩ :: rest, s)

/-- A store of the core, made by put, with the bound checks of the objects it touches: TRAP stores nothing; FLAG marks the
launch; CLAMP stores the bound (R150). The check is made in the check stage, on the bytes as they then stand (DESIGN CHOICE, log 58). -/
def State.storeBound (s : State) (put : DWord → List PByte → (State → Out) → State → Out) (ea : DWord) (bs : List PByte) : Out :=
  match State.storedElems ea.toNat (plain bs) (s.boundElems ea.toNat bs.length) s with
  | .error e => (e.at ea).out
  | .ok (es, s) =>
    match es.find? (fun e => e.obj.bact == 3 && e.obj.violates e.code) with
    | some e => s.trap 3 .bound (BitVec.ofNat 64 e.addr)
    | none =>
      let s := es.foldl (fun s e => s.boundFlag s.core.t.lslot e.obj [e.code]) s
      let clamps := es.filter (fun e => e.obj.bact == 2 && e.obj.violates e.code)
      clamps.foldl (fun (k : State → Out) e => fun s =>
        put (BitVec.ofNat 64 e.addr) (clean (leBytes e.obj.size (e.obj.bounded e.code))) k s) .next
        |> fun k => put ea bs k s

/-- ST and STR by the table of R344: engine tells STR. -/
def State.store (s : State) (engine : Bool) (ea : DWord) (bs : List PByte) : Out :=
  match targetOf' s.core.cid ea.toNat bs.length with
  | .none => s.trap 3 .page ea
  | .own => if engine then s.trap 3 .page ea else s.storeBound (fun a bs k s => k (s.storeL1 ((ownOff a).getD 0) bs)) ea bs
  | .pad =>
    if s.padDenied ea.toNat then s.trap 3 .prot ea
    else if engine then s.coreWrite false ea bs .next else s.trap 3 .page ea
  | .dev => if engine then s.trap 3 .page ea else s.storeBound (fun a bs k s => s.coreWrite false a bs k) ea bs
  | .stat => .next s
  | .group => s.coreWrite false ea bs .next

/-- A store word (R345). -/
def storeWord (engine : Bool) (z : BitVec 2) (d : BitVec 6) (b : BitVec 4) (x : BitVec 1) (i : BitVec 11) (s : State) : Out :=
  let e := s.ea b x i
  let v := s.srcM d
  s.checked (v.psn :: e.2) (s.store engine e.1 (clean (leBytes (sizeOf z) v.val.toNat)))

def execSt (z : BitVec 2) (d : BitVec 6) (b : BitVec 4) (x : BitVec 1) (i : BitVec 11) (s : State) : Out :=
  storeWord false z d b x i s
def execStr (z : BitVec 2) (d : BitVec 6) (b : BitVec 4) (x : BitVec 1) (i : BitVec 11) (s : State) : Out :=
  storeWord true z d b x i s

/-- A landing load of n bytes at an address (R345, R346): every target but one that does not exist. One that something before it holds back
leaves later, by the places of its check stage; its data is then late or not, as its landing cycle falls (R194). -/
def State.landLoad (s : State) (d : BitVec 5) (l : BitVec 10) (ea : DWord) (n : Nat) : Out :=
  match targetOf' s.core.cid ea.toNat n with
  | .none => s.trap 3 .page ea
  | t =>
    match State.resolveAll s.me .rd (pieces n ea.toNat n) s with
    | .error e => (e.at ea).out
    | .ok (places, s) =>
      if t == .own || s.goesNow false places then
        match State.readAll places s with
        | .ok (bs, s) => .next (s.land d l.toNat (some (loaded n bs)) (t == .own))
        | .error e => (e.at ea).out
      else .next ((s.land d l.toNat none false).leave false (.load s.core.t.landId n places))

/-- LDL (R345). -/
def execLdl (z : BitVec 2) (d : BitVec 5) (b : BitVec 3) (o : BitVec 4) (l : BitVec 10) (s : State) : Out :=
  let a := s.srcA (b.zeroExtend 4)
  let n := sizeOf z
  s.slotFree <| s.checked [a.psn] <| s.landLoad d l (a.val + BitVec.ofNat 64 (n * o.toNat)) n

/-! ### LD.ACQ, ST.REL, FENCE (R346, R347) -/

/-- LD.ACQ (R346): natural alignment, and not the own-L1 window (R194). -/
def execLdAcq (_e : BitVec 3) (z : BitVec 2) (d : BitVec 5) (b : BitVec 3) (l : BitVec 10) (s : State) : Out :=
  let a := s.srcA (b.zeroExtend 4)
  let n := sizeOf z
  s.slotFree <| s.checked [a.psn] <|
    if a.val.toNat % n != 0 then s.trap 3 .align a.val
    else if (ownOff a.val).isSome then s.trap 3 .page a.val
    else s.landLoad d l a.val n

/-- ST.REL (R346): as a store to any target but the own-L1 window. It leaves the core once every earlier access has been performed, and at
system scope every earlier remote operation and peer-window store delivered (R194). -/
def execStRel (e : BitVec 3) (z : BitVec 2) (r : BitVec 5) (b : BitVec 3) (s : State) : Out :=
  let a := s.srcA (b.zeroExtend 4)
  let v := s.srcS r
  let n := sizeOf z
  let bs := clean (leBytes n v.val.sext.toNat)
  s.checked [a.psn, v.psn] <|
    if a.val.toNat % n != 0 then s.trap 3 .align a.val
    else match targetOf' s.core.cid a.val.toNat n with
      | .none | .own => s.trap 3 .page a.val
      | .pad => if s.padDenied a.val.toNat then s.trap 3 .prot a.val else s.coreWrite (e == 4) a.val bs .next
      | .stat => .next s
      | .dev | .group => s.coreWrite (e == 4) a.val bs .next

/-! ### AMO (R348) -/

/-- The new value of an AMO: of the old one, s(D) and s(D + 1) (R348). -/
def amoNew (o : BitVec 3) (old x y : Word) : Word :=
  match o.toNat with
  | 0 => old + x
  | 1 => if old.toInt ≤ x.toInt then old else x
  | 2 => if x.toInt ≤ old.toInt then old else x
  | 3 => old &&& x
  | 4 => old ||| x
  | 5 => old ^^^ x
  | 6 => x
  | _ => if old = x then y else old

/-- Whether an AMO writes: not a CAS that fails, and not one that finds poison (R197, R348). -/
def amoWrites (o : BitVec 3) (old : PWord) (x : Word) : Bool := old.psn.isNone && (o != 7 || old.val == x)

/-- The place of an AMO: both rights are needed (R174, R197). -/
def State.amoPlace (s : State) (ea : DWord) : Access Loc :=
  Access.bind (s.resolve s.me .rd ea.toNat) fun _ s => s.resolve s.me .w ea.toNat

/-- The store of an AMO, whose read has reached the row of its sector: the two are one access (R197). -/
def State.amoStore (s : State) (w : Who) (loc : Loc) (bs : List PByte) (ea : DWord) : Access Unit :=
  match loc with
  | .dev pa key _ => devStored w pa (s.sectorPut key pa bs ea)
  | loc => s.writeLoc w loc bs ea

/-- One access that reads and, if it writes, stores at its place (R197). -/
def State.amoDo (s : State) (w : Who) (o : BitVec 3) (loc : Loc) (ea : DWord) (x y : Word) : Access PDWord :=
  Access.bind (s.readLoc loc 4 ea) fun bs s =>
    let old := loaded 4 bs
    if amoWrites o ⟨old.val.low, old.psn⟩ x then
      Access.bind (s.amoStore w loc (clean (leBytes 4 (amoNew o old.val.low x y).toNat)) ea) fun _ s => .ok (old, s)
    else .ok (old, s)

/-- AMO (R348). -/
def execAmoOp (e o : BitVec 3) (r : BitVec 2) (d : BitVec 5) (b : BitVec 3) (l : BitVec 10) (s : State) : Out :=
  let a := s.srcA (b.zeroExtend 4)
  let x := s.srcS d
  let y := s.srcS (d + 1)
  let ea := a.val
  s.slotFree <| s.checked [a.psn, x.psn, if o = 7 then y.psn else none] <|
    if ea.toNat % 4 != 0 then s.trap 3 .align ea
    else match targetOf s.core.cid ea.toNat with
      | .none | .stat | .group => s.trap 3 .page ea
      | t =>
        if t = .own ∧ r ≠ 0 then s.trap 3 .page ea
        else if t = .pad ∧ s.padDenied ea.toNat then s.trap 3 .prot ea
        else match s.amoPlace ea with
          | .error e => (e.at ea).out
          | .ok (loc, s) =>
            let sys := e == 4 && r.getLsbD 1
            if t == .own || s.goesNow sys [(loc, ea.toNat, 4)] then
              match s.amoDo s.me o loc ea x.val y.val with
              | .ok (old, s) => .next (s.noRerun.land d l.toNat (some old) (t == .own))
              | .error e => (e.at ea).out
            else .next ((s.noRerun.land d l.toNat none false).leave sys (.amo s.core.t.landId o loc ea x.val y.val))

end Sys2Proof.Machine
end

