-- ==== Sys2Proof/Machine/SNest.lean ====
section
/-! DEFINITION. The arithmetic of the stream array (R210 to R219, R324 to R334): nest tables, streams, edges, passes, and the
operations of the array queue. -/

namespace Sys2Proof.Machine

/-! ### Nest tables (R323 to R325) -/

/-- A nest table. -/
abbrev NestTab := Vector Word 32

/-- A word of a table as a number. -/
def NestTab.word (t : NestTab) (i : Nat) : Nat := if h : i < 32 then t[i].toNat else 0

def NestTab.count (t : NestTab) (l : Nat) : Nat := bits (t.word l) 31 16
def NestTab.cstr (t : NestTab) (l : Nat) : Int := sextInt (bits (t.word l) 15 8) 8
def NestTab.lstr (t : NestTab) (l : Nat) : Nat := bits (t.word l) 7 6
def NestTab.astr (t : NestTab) (l : Nat) : Int := sextInt (t.word (6 + l)) 32
def NestTab.rstr (t : NestTab) (l : Nat) : Int := sextInt (t.word (12 + l)) 32
def NestTab.abase (t : NestTab) : Nat := bits (t.word 18) 20 0
def NestTab.rbase (t : NestTab) : Nat := bits (t.word 19) 20 0
def NestTab.atype (t : NestTab) : Nat := bits (t.word 20) 31 24
def NestTab.ainf (t : NestTab) : Bool := bits (t.word 20) 23 23 == 1
def NestTab.kb (t : NestTab) : Nat := bits (t.word 20) 22 21
def NestTab.acc0 (t : NestTab) : Nat := bits (t.word 20) 20 15
def NestTab.l0 (t : NestTab) : Nat := bits (t.word 20) 14 13
def NestTab.pfx (t : NestTab) : Nat := bits (t.word 20) 12 8

/-- The levels of a nest. -/
def levels : List Nat := List.range 6

/-- T, the number of iterations (R324). -/
def NestTab.total (t : NestTab) : Nat := levels.foldl (fun n l => n * t.count l) 1

/-- Types that A may have (R323). -/
def aTypeOk (ty : Nat) : Bool := ty = 8 || ty = 9 || (0x11 ≤ ty && ty ≤ 0x17) || (0x19 ≤ ty && ty ≤ 0x1F)

/-- Bytes of an element of A. -/
def aSize (ty : Nat) : Nat := if ty = 8 then 4 else if ty = 9 then 2 else 1

/-- Levels with more than one iteration and a stride that is not zero: those that take part in a failing condition (R325). -/
def NestTab.moving (t : NestTab) (str : Nat → Int) : List Nat := levels.filter (fun l => 1 < t.count l && str l != 0)

/-- Least and greatest of base + Σ i_l × stride_l over the extremes of every level (R325). -/
def NestTab.extremes (t : NestTab) (base : Nat) (str : Nat → Int) : Int × Int :=
  levels.foldl (fun (r : Int × Int) l =>
    let d := str l * ((t.count l : Int) - 1)
    (r.1 + min 0 d, r.2 + max 0 d)) ((base : Int), (base : Int))

/-- Whether a row of bytes lies in the pad and is aligned at the extremes of every level (R325). -/
def NestTab.rowsOk (t : NestTab) (base : Nat) (str : Nat → Int) (size len : Nat) : Bool :=
  let r := t.extremes base str
  0 ≤ r.1 && r.2 + (len : Int) ≤ 2 ^ 21 && base % size == 0
  && levels.all (fun l => (str l * ((t.count l : Int) - 1)) % (size : Int) == 0)

/-- The words that take part in some failing condition: the tests are made only when T > 0 (R325). -/
def NestTab.badWords (t : NestTab) (m : Nat) (sr : Bool) : List Nat :=
  if t.total = 0 then []
  else
    let r := t.extremes t.acc0 t.cstr
    levels.filter (fun l => bits (t.word l) 5 0 != 0)
    ++ [18, 19].filter (fun w => bits (t.word w) 31 21 != 0)
    ++ ((List.range 11).map (fun i => 21 + i)).filter (fun w => t.word w != 0)
    ++ (if bits (t.word 20) 7 0 != 0 || !aTypeOk t.atype || (t.ainf && t.atype < 0x11)
          || (t.pfx != 0 && !(4 ≤ t.pfx && t.pfx + 1 ≤ m)) then [20] else [])
    ++ (if r.1 < 0 || 63 < r.2 then 20 :: t.moving t.cstr else [])
    ++ (if !aTypeOk t.atype || t.rowsOk t.abase t.astr (aSize t.atype) (16 * (t.kb + 1) * aSize t.atype) then []
        else 18 :: 20 :: (t.moving t.astr).map (fun l => 6 + l))
    ++ (if !sr || t.rowsOk t.rbase t.rstr 4 (64 * (t.kb + 1)) then []
        else 19 :: (t.moving t.rstr).map (fun l => 12 + l))

/-- The word that the trap of a malformed table reports, or none (R325). -/
def NestTab.malformed (t : NestTab) (m : Nat) (sr : Bool) : Option Nat := (t.badWords m sr).min?

/-- The accumulator rows that a well-formed nest reaches (R324, R330). -/
def NestTab.rowsReached (t : NestTab) : List Nat :=
  if t.total = 0 then []
  else
    (t.moving t.cstr).foldl (fun rs l =>
      (rs.flatMap (fun (r : Nat) => (List.range (t.count l)).map (fun (i : Nat) => (((r : Int) + (i : Int) * t.cstr l) % 64).toNat))).eraseDups) [t.acc0]

/-- K, the products per output (R330). -/
def NestTab.products (t : NestTab) : Nat :=
  16 * (t.kb + 1) * (levels.filter (fun l => t.cstr l == 0)).foldl (fun n l => n * t.count l) 1

/-- One iteration: accumulator row, latch, offsets of the A row and of the rounding row (R324). -/
structure RowStep where
  acc : Nat
  latch : Nat
  a : Nat
  r : Nat
  deriving DecidableEq, Repr

/-- The iterations in order, level 5 fastest (R324). -/
def NestTab.indices (t : NestTab) : List (List Nat) :=
  levels.foldl (fun xs l => xs.flatMap (fun x => (List.range (t.count l)).map (fun i => x ++ [i]))) [[]]

def NestTab.sum (idx : List Nat) (base : Nat) (str : Nat → Int) : Int :=
  levels.foldl (fun s l => s + (idx.getD l 0 : Int) * str l) (base : Int)

def NestTab.steps (t : NestTab) : List RowStep :=
  t.indices.map (fun idx =>
    { acc := (NestTab.sum idx t.acc0 t.cstr).toNat
      latch := (NestTab.sum idx t.l0 (fun l => (t.lstr l : Int)) % 4).toNat
      a := (NestTab.sum idx t.abase t.astr).toNat
      r := (NestTab.sum idx t.rbase t.rstr).toNat })

/-! ### Streams and magnitudes (R210, R213, R215) -/

/-- The thresholds of row r and of the columns (R210). -/
def thresholdA (m seed r i : Nat) : Nat := vdc m i ^^^ rotlBits m (seed % 2 ^ m) r
def thresholdB (m seed i : Nat) : Nat := sob m i ^^^ (seed % 2 ^ m)

/-- The decoded product of two operands over bits lo to hi − 1 of their streams (R213): signs count in AND mode only. -/
def decodedProduct (cfg : NestCfg) (row lo hi : Nat) (a b : Nat) (neg : Bool) : Int :=
  let n := (List.range (hi - lo)).foldl (fun n k =>
    let i := lo + k
    let x := decide (a > thresholdA cfg.m cfg.seedA.toNat row i)
    let y := decide (b > thresholdB cfg.m cfg.seedB.toNat i)
    if cfg.xnor then (if x == y then n + 1 else n) else (if x && y then n + 1 else n)) 0
  if cfg.xnor then 2 * (n : Int) - ((hi - lo : Nat) : Int) else if neg then -(n : Int) else n

/-- The exponent of a block that is all zero (R215). -/
def noExp : Int := -2048

/-- The least E with num × 2^e ≤ 2^E, num not 0 (R215). -/
def leastExp (num : Nat) (e : Int) : Int := e + (Nat.log2 num : Int) + (if num = 2 ^ Nat.log2 num then 0 else 1)

/-- The block exponent of sixteen values (R215, R329); with a NaN or an infinity among them, one that no finite element passes L under. -/
def blockExp (vs : List FVal) : Int :=
  let least := vs.foldl (fun (acc : Int) v => match v with
    | .fin _ (n + 1) e => max acc (leastExp (n + 1) e)
    | _ => acc) noExp
  if vs.any (fun v => v.isNan || v.isInf) then max (max least (-2047)) (min 2047 (Config.specialExp least)) else least

/-- The sign bit of a code of a type that has one: the sign with which a NaN converts (R215). -/
def codeNeg (ty c : Nat) : Bool := if ty = 8 then bitOf c 31 else if ty = 9 then bitOf c 15 else ty < 0x18 && bitOf c 7

/-- The magnitude of an element in a block of exponent E, under m bits (R215): L for a NaN or an infinity; u: the exponent of the element's unit. -/
def magnitude (xnor : Bool) (m : Nat) (ex : Int) (rm : RM) (u : Int) (r : Nat) : FVal → Nat
  | .fin neg num e =>
    if xnor then
      let y := Dy.add ⟨if neg then -(num : Int) else num, e - ex + (m : Int) - 1⟩ ⟨1, (m : Int) - 1⟩
      (roundInt rm false y.num.toNat y.exp (u - ex + (m : Int)) r).k
    else (roundInt rm false num (e - ex + (m : Int)) (u - ex + (m : Int)) r).k
  | _ => 2 ^ m

/-- An element of A at the edge: magnitude, sign, poison (R215, R331). -/
structure Edge where
  mag : Nat
  neg : Bool
  psn : Psn
  deriving DecidableEq, Repr

/-- The poison of a value that is a NaN or infinite. -/
def specialPsn (v : FVal) : Psn := if v.isNan || v.isInf then some .unnamed else none

/-- Block g of an A row at the edge (R215): its exponent and its sixteen elements. -/
def edgeA (p : Pad) (t : NestTab) (cfg : NestCfg) (x : RowStep) (g : Nat) : Int × List Edge :=
  let n := aSize t.atype
  let raw := (List.range 16).map (fun k => pvalue (p.readP (x.a + (16 * g + k) * n) n))
  let vs := raw.map (fun c => decodeType t.atype t.ainf c.val.toNat)
  let ex := blockExp vs
  let one := fun (k : Nat) =>
    let c := raw.getD k {}
    let v := vs.getD k (.fin false 0 0)
    let r := pvalue (p.readP (x.r + 4 * (16 * g + k)) 4)
    let mag := if ex = noExp then 0
      else magnitude cfg.xnor cfg.m ex (if cfg.sr then .sr else .rne) (unitOf t.atype c.val.toNat) (if cfg.sr then r.val.toNat else 0) v
    (⟨mag, if v.isNan then codeNeg t.atype c.val.toNat else v.isNeg, (c.psn.or (if cfg.sr then r.psn else none)).or (specialPsn v)⟩ : Edge)
  (ex, (List.range 16).map one)

/-! ### Latches (R328, R329) -/

/-- A cell of a latch and the block exponent of a column; a latch that holds nothing is all zero (R132, R161). -/
def WLatch.cell (w : WLatch) (k c : Nat) : LCell := w.cells.getD (64 * c + k) {}
def WLatch.exp (w : WLatch) (c g : Nat) : Int := w.eb.getD (4 * c + g) noExp

/-- The value of a cell relative to its block exponent. -/
def LCell.value (x : LCell) : FVal := if x.special then .inf x.neg else .fin x.neg x.num x.exp

/-- A byte of the weight buffer with its poison. -/
def Thread.wbyte (t : Thread) (a : Nat) : Nat × Psn := ((Mem.get t.wbuf a).toNat, SMap.find? t.wbufPsn (a / 8))

/-- Code and poison of element (k, c) of a tile at a byte offset (R328); none: an element that a sparse tile leaves 0. -/
def Thread.tileCode (t : Thread) (base : Nat) (sparse : Bool) (k c : Nat) : Option Nat × Psn :=
  if sparse then
    let q := k / 4
    let pos := t.wbyte (base + 2048 + 16 * c + q)
    let one := t.wbyte (base + 32 * c + 2 * q)
    let two := t.wbyte (base + 32 * c + 2 * q + 1)
    if bits pos.1 3 2 = k % 4 then (some two.1, two.2.or pos.2)
    else if bits pos.1 1 0 = k % 4 then (some one.1, one.2.or pos.2)
    else (none, pos.2)
  else
    let x := t.wbyte (base + 64 * c + k)
    (some x.1, x.2)

/-- A tile expanded into a latch (R329). -/
def Thread.expand (t : Thread) (inf u : Bool) (p : Nat) (sparse : Bool) (place : Nat) : WLatch :=
  let base := 64 * place
  let scale := fun (c g : Nat) => t.wbyte (base + (if sparse then 3072 else 4096) + 4 * c + g)
  let value := fun (k c : Nat) =>
    match (t.tileCode base sparse k c).1 with
    | none => FVal.fin false 0 0
    | some code => match decodeB8 u p inf code with
      | .fin n a e => .fin n a (e + sextInt (scale c (k / 16)).1 8)
      | v => v
  let exps := fun (c g : Nat) => blockExp ((List.range 16).map (fun i => value (16 * g + i) c))
  let cell := fun (k c : Nat) =>
    let psn := (t.tileCode base sparse k c).2.or (scale c (k / 16)).2
    match value k c with
    | .fin n a e => (⟨n, a, if a = 0 then 0 else e - exps c (k / 16), false, psn⟩ : LCell)
    | v => ⟨if v.isNan then !u && ((t.tileCode base sparse k c).1.any (fun x => bitOf x 7)) else v.isNeg, 0, 0, true, psn⟩
  { cells := (List.range 64).flatMap (fun c => (List.range 64).map (fun k => cell k c))
    eb := (List.range 64).flatMap (fun c => (List.range 4).map (fun g => exps c g)) }

/-! ### Accumulators (R216, R331) -/

/-- An accumulator of the array. -/
def SArray.at (a : SArray) (row c : Nat) : Acc := SMap.getD a.acc (64 * row + c) {}

def SArray.put (a : SArray) (row c : Nat) (x : Acc) : SArray := { a with acc := SMap.insert a.acc (64 * row + c) x }

/-- A shift right that truncates toward zero, and whether it drops bits that are not zero. -/
def shiftTrunc (x : Int) (n : Nat) : Int × Bool :=
  let q := x.natAbs / 2 ^ n
  (if x < 0 then -(q : Int) else q, x.natAbs % 2 ^ n != 0)

/-- W raised to an exponent sum (R216): Q and P shift; whether bits were lost. -/
def Acc.raise (x : Acc) (eb : Int) : Acc × Bool :=
  match x.w with
  | none => ({ x with w := some eb }, false)
  | some w =>
    if eb ≤ w then (x, false)
    else
      let q := shiftTrunc x.q (eb - w).toNat
      let p := shiftTrunc x.p (eb - w).toNat
      ({ x with w := some eb, q := q.1, p := p.1 }, q.2 || p.2)

/-- The exponent pass at one accumulator (R331): M is recorded with the first pair. -/
def Acc.expose (x : Acc) (m : Nat) (eb : Int) : Acc × Bool := { x with m := if x.npair = 0 then m else x.m }.raise eb

/-- One block pair added (R331): S over the processed bits. -/
def Acc.add (x : Acc) (m : Nat) (eb s : Int) (first : Bool) : Acc × Bool :=
  let r := (if x.w.isNone then { x with m := m } else x).raise eb
  let x := r.1
  let sh := ((x.w.getD eb) - eb).toNat
  let v := s.natAbs * 2 ^ (48 + x.m - m)
  let t := v / 2 ^ sh
  ({ x with
      p := x.p + (if s < 0 then -(t : Int) else t)
      np := if first then x.np + 1 else x.np
      npair := if first then x.npair + 1 else x.npair }, r.2 || v % 2 ^ sh != 0)

/-- A block pair of a pass: its accumulator, exponent sum and count sum. -/
structure BlockPair where
  row : Nat
  col : Nat
  eb : Int
  s : Int
  deriving DecidableEq, Repr

/-- The block pairs of one row-step over bits lo to hi − 1, pairs with an all-zero block left out (R331). -/
def rowPairs (p : Pad) (w : Vector WLatch 4) (t : NestTab) (cfg : NestCfg) (lo hi : Nat) (x : RowStep) : List BlockPair :=
  let latch := w[x.latch % 4]'(Nat.mod_lt _ (by decide))
  (List.range (t.kb + 1)).flatMap (fun g =>
    let a := edgeA p t cfg x g
    (List.range 64).filterMap (fun c =>
      let eb := latch.exp c g
      if a.1 = noExp || eb = noExp then none
      else
        let prod := fun (i : Nat) =>
          let e := a.2.getD i ⟨0, false, none⟩
          let b := latch.cell (16 * g + i) c
          decodedProduct cfg (16 * g + i) lo hi e.mag (magnitude cfg.xnor cfg.m 0 .rne 0 0 b.value) (e.neg != b.neg)
        some ⟨x.acc, c, a.1 + eb, (List.range 16).foldl (fun s i => s + prod i) 0⟩))

/-- The poison that one row-step brings to its accumulators: from elements of A to every column, from cells to theirs (R331). -/
def rowPoison (p : Pad) (w : Vector WLatch 4) (t : NestTab) (cfg : NestCfg) (x : RowStep) : List (Nat × Nat × Origin) :=
  let latch := w[x.latch % 4]'(Nat.mod_lt _ (by decide))
  (List.range (t.kb + 1)).flatMap (fun g =>
    let fromA := (edgeA p t cfg x g).2.findSome? (fun e => e.psn)
    (List.range 64).filterMap (fun c =>
      let fromB := (List.range 16).findSome? (fun i =>
        let b := latch.cell (16 * g + i) c
        b.psn.or (if b.special then some .unnamed else none))
      (fromA.or fromB).map (fun o => (x.acc, c, o))))

/-- A fold over accumulators that gathers the loss mark. -/
def SArray.each {α : Type} (a : SArray) (xs : List α) (key : α → Nat × Nat) (f : α → Acc → Acc × Bool) : SArray × Bool :=
  xs.foldl (fun (r : SArray × Bool) x =>
    let k := key x
    let y := f x (r.1.at k.1 k.2)
    (r.1.put k.1 k.2 y.1, r.2 || y.2)) (a, false)

/-- A stream pass over bits lo to hi − 1, after the exponent pass when it is the nest's first (R331, R333). -/
def SArray.pass (a : SArray) (p : Pad) (t : NestTab) (cfg : NestCfg) (lo hi j : Nat) (first : Bool) : SArray × Bool :=
  let pairs := t.steps.flatMap (rowPairs p a.w t cfg lo hi)
  let bad := t.steps.flatMap (rowPoison p a.w t cfg)
  let key := fun (x : BlockPair) => (x.row, x.col)
  let r0 := a.each bad (fun x => (x.1, x.2.1)) (fun x y => ({ y with psn := y.psn.or (some x.2.2) }, false))
  let r1 := if first then r0.1.each pairs key (fun x y => y.expose cfg.m x.eb) else r0
  let r2 := r1.1.each pairs key (fun x y => y.add cfg.m x.eb x.s first)
  ({ r2.1 with m0 := cfg.m, j0 := j, xnor0 := cfg.xnor }, r1.2 || r2.2)

/-- A nest's completion after bits 0 to 2^j − 1 (R331). -/
def SArray.finish (a : SArray) (t : NestTab) (cfg : NestCfg) (j : Nat) : SArray :=
  let rows := t.rowsReached
  let r := a.each (rows.flatMap (fun r => (List.range 64).map (fun c => (r, c)))) id
    (fun _ y => ({ y with q := y.q + y.p * 2 ^ (cfg.m - j), p := 0, np := 0 }, false))
  { r.1 with rowRec := rows.foldl (fun m x => SMap.insert m x cfg.ro) r.1.rowRec }

/-- SCLR's effect (R337). -/
def SArray.clear (a : SArray) : SArray := { a with acc := [], rowRec := [] }

/-! ### The array queue (R326, R331, R333) -/

/-- A nest table in use, by number. -/
def Thread.activeTab (t : Thread) (nt : Nat) : NestTab := if h : nt < 8 then t.ntActive[nt] else Vector.replicate 32 0

/-- Whether the operation is a nest with a prefix. -/
def Thread.isPrefix (t : Thread) : ArrayOp → Bool
  | .sgo _ _ nt _ _ => (t.activeTab nt).pfx != 0
  | _ => false

/-- Whether a tile operation writes the L1. -/
def TileOp.fills : TileOp → Bool
  | .tmov _ _ st .. => !st
  | .tfill .. | .peer .. => true
  | _ => false

/-- Whether a read of the L1 by the array waits: for a tile operation issued before it that fills banks, or for an access of the core that
has not been performed (R196, R198, R326). -/
def Thread.movesBefore (t : Thread) : ArrayOp → Bool
  | .wbld at' .. | .sgo at' .. => (t.tq0 ++ t.tq1).any (fun o => o.seq < at' && o.fills) || t.egressBefore at'
  | _ => false

/-- ALIGNLOSS sticks in STAT (R158, R216). -/
def Thread.alignLoss (t : Thread) (lost : Bool) : Thread := if lost then { t with stat := t.stat ||| (1 <<< 6) } else t

/-- The operation at the head of the queue leaves it, and tl2 counts a number (R326). -/
def Thread.arrayDone (t : Thread) (num : Nat) : Thread :=
  { t with arr := { t.arr with queue := t.arr.queue.tail, phase := .idle } }.complete 2 num

/-- The prefix phase of the nest at the head (R333): it parks, and tl2 reaches its first number. -/
def Thread.parkNest (t : Thread) (p : Pad) : Thread × Bool :=
  match t.arr.queue with
  | .sgo _ num nt cfg _ :: _ =>
    let tab := t.activeTab nt
    let r := t.arr.pass p tab cfg 0 (2 ^ tab.pfx) tab.pfx true
    (({ t with arr := { r.1 with phase := .parked } }.complete 2 num).alignLoss r.2, r.2)
  | _ => (t, false)

/-- A copy from the own L1 into the weight buffer (R327). -/
def Thread.copyWeights (t : Thread) (p : Pad) (src len place : Nat) : Thread :=
  let dst := 64 * place
  let n := 64 * len
  { t with
    wbuf := Mem.write t.wbuf dst (p.read src n)
    wbufPsn := (p.psn.filter (fun x => src / 8 ≤ x.1 && x.1 < (src + n) / 8)).foldl
      (fun m x => SMap.insert m (x.1 - src / 8 + dst / 8) x.2) (SMap.clear t.wbufPsn (dst / 8) (n / 8)) }

/-- The operation at the head of the queue performed to its end (R327, R329, R331, R333, R337). -/
def Thread.runArray (t : Thread) (p : Pad) : Thread × Bool :=
  match t.arr.queue with
  | [] => (t, false)
  | .wbld _ num src len place :: _ => ((t.copyWeights p src len place).arrayDone num, false)
  | .wlatch num l inf u pb sparse place :: _ =>
    (({ t with arr := { t.arr with w := if h : l < 4 then t.arr.w.set l (t.expand inf u pb sparse place) h else t.arr.w } } : Thread).arrayDone num, false)
  | .sclr num :: _ => (({ t with arr := t.arr.clear } : Thread).arrayDone num, false)
  | .sgo _ num nt cfg stop :: _ =>
    let tab := t.activeTab nt
    if tab.pfx = 0 then
      let r := t.arr.pass p tab cfg 0 (2 ^ cfg.m) cfg.m true
      ((({ t with arr := r.1.finish tab cfg cfg.m } : Thread).arrayDone num).alignLoss r.2, r.2)
    else match stop with
      | none => (t, false)
      | some j =>
        let r := if j = tab.pfx then (t.arr, false) else t.arr.pass p tab cfg (2 ^ tab.pfx) (2 ^ j) j false
        ((({ t with arr := r.1.finish tab cfg j } : Thread).arrayDone (num + 1)).alignLoss r.2, r.2)

end Sys2Proof.Machine
end

