-- ==== Sys2Proof/Machine/SArrayOps.lean ====
section
/-! DEFINITION. The words that drive the stream array and read it (R326 to R341), and the steps of its queue. -/

namespace Sys2Proof.Machine

/-! ### Profiles (R220, R221, R330) -/

/-- m, mode, edge rounding and read-out of a profile 0x01 to 0x0C (R220). -/
def profileSet : Nat → Nat × Bool × Bool × ReadOut
  | 1 => (4, false, false, ⟨1, 0, 1⟩)
  | 2 => (5, false, false, ⟨1, 0, 2⟩)
  | 3 => (6, false, false, ⟨1, 0, 3⟩)
  | 4 => (6, false, false, ⟨0, 0, 4⟩)
  | 5 => (8, false, false, ⟨0, 0, 5⟩)
  | 6 => (8, false, true, ⟨0, 0, 6⟩)
  | 7 => (10, false, false, ⟨0, 0, 7⟩)
  | 8 => (12, false, false, ⟨0, 0, 8⟩)
  | 9 => (16, false, false, ⟨0, 0, 9⟩)
  | 10 => (6, true, false, ⟨1, 0, 10⟩)
  | 11 => (8, true, false, ⟨0, 0, 11⟩)
  | _ => (4, false, false, ⟨5, 0, 12⟩)

/-- The default profile number (R321). -/
def Thread.profN (t : Thread) : Nat := bits t.prof.toNat 7 0

/-- The read-out that SMODE names (R221). -/
def Thread.smodeOut (t : Thread) : ReadOut := ⟨bits t.smode.toNat 10 7, bits t.smode.toNat 13 11, 0⟩

/-- The settings of an SGO that names profile n (R330). -/
def Thread.nestCfg (t : Thread) (n : Nat) : NestCfg :=
  let p := if n = 0 then t.profN else n
  let seedA : BitVec 16 := t.seeda.truncate 16
  let seedB : BitVec 16 := t.seedb.truncate 16
  if p = 0 then
    { m := bits t.sl.toNat 4 0, xnor := t.smode.getLsbD 15, seedA := seedA, seedB := seedB, sr := t.smode.getLsbD 14, ro := t.smodeOut }
  else
    let x := profileSet p
    { m := x.1, xnor := x.2.1, seedA := if p = 12 then 9 else seedA, seedB := if p = 12 then 6 else seedB, sr := x.2.2.1, ro := x.2.2.2 }

/-- The read-out of a row without a record (R336). -/
def Thread.defaultOut (t : Thread) : ReadOut := if t.profN = 0 then t.smodeOut else (profileSet t.profN).2.2.2

/-- EBND for a nest of K products per output, after 2^j of 2^m bits (R219, R330, R333). -/
def ebndOf (k m j : Nat) (xnor : Bool) : DWord :=
  let beta := ((j + 1) / 2 + 2) * 2 ^ (m - j) * (if xnor then 2 else 1)
  BitVec.ofNat 64 (min (k * beta) 0xFFFFFFFF * 2 ^ 32 + beta % 2 ^ 16 * 2 ^ 16 + j % 32 * 2 ^ 11)

/-! ### Queueing (R326) -/

/-- Whether n more numbers would leave more than 16 outstanding on tl2 (R326). -/
def Thread.arrayFull (t : Thread) (n : Nat) : Bool := t.tl[2].issued - t.tl[2].val + n > 16

/-- An operation queued with the next number of tl2; the array begins it when it comes to the head (R326). -/
def State.enqueue (s : State) (numbers : Nat) (f : Nat → ArrayOp) : State :=
  let r := s.core.t.takeNum 2
  let t := if numbers = 2 then (r.1.takeNum 2).1 else r.1
  let s := s.mapT fun _ => { t with arr := { t.arr with queue := t.arr.queue ++ [f r.2] } }
  s.pushOnce (.arrayOpStart s.core.cid)

/-- R326's limit. -/
def State.room (s : State) (numbers : Nat) (k : Out) : Out :=
  if s.core.t.arrayFull numbers then s.trap 1 .illegal 33 else k

/-- WBLD (R327). -/
def execWbld (a : BitVec 4) (r : BitVec 5) (s : State) : Out :=
  let x := s.srcA a
  let y := s.srcS r
  s.room 1 <| s.checked [x.psn, y.psn] <|
    let len := bits y.val.toNat 25 13
    let place := bits y.val.toNat 12 0
    if x.val.toNat % 64 != 0 then s.trap 3 .align x.val
    else match ownOff x.val with
      | none => s.trap 3 .page x.val
      | some off =>
        if off + 64 * len > 2 ^ 21 then s.trap 3 .page x.val
        else if place + len > 8192 then s.trap 3 .page y.val.zext
        else .next (s.enqueue 1 fun n => .wbld s.core.t.moveSeq n off len place)

/-- WLATCH (R329). -/
def execWlatch (w : BitVec 2) (r : BitVec 5) (s : State) : Out :=
  let y := s.srcS r
  s.room 1 <| s.checked [y.psn] <|
    let v := y.val.toNat
    let p := bits v 16 14
    let sparse := bits v 13 13 == 1
    let place := bits v 12 0
    if p = 0 then s.trap 1 .illegal y.val.zext
    else if place + (if sparse then 52 else 68) > 8192 then s.trap 3 .page y.val.zext
    else .next (s.enqueue 1 fun n => .wlatch n w.toNat (bits v 18 18 == 1) (bits v 17 17 == 1) p sparse place)

/-- SCLR (R337): queued; the queued pair counts of every row return to 0 (R330). -/
def execSclr (s : State) : Out :=
  s.room 1 <|
    .next ((s.mapT fun t => { t with arr := { t.arr with queued := [] } }).enqueue 1 fun n => .sclr n)

/-- Whether a table belongs to an outstanding SGO (R330). -/
def Thread.tableBusy (t : Thread) (nt : Nat) : Bool :=
  t.arr.queue.any (fun o => match o with
    | .sgo _ _ n _ _ => n == nt
    | _ => false)

/-- SGO (R330): EBND at +1; checks in the order given; then the table becomes active and the nest is queued. -/
def execSgo (n : BitVec 3) (p : BitVec 8) (s : State) : Out :=
  let t := s.core.t
  let tab : NestTab := t.ntShadow[n.toNat]
  let cfg := t.nestCfg p.toNat
  let numbers := if tab.pfx = 0 then 1 else 2
  if t.tableBusy n.toNat then s.trap 1 .illegal 32
  else s.room numbers <|
    match tab.malformed cfg.m cfg.sr with
    | some w => s.trap 1 .illegal (BitVec.ofNat 64 w)
    | none =>
      let rows := tab.rowsReached
      let pairs := (tab.kb + 1) * tab.total
      if rows.any (fun r => SMap.getD t.arr.queued r 0 + pairs > 2 ^ 20) then s.trap 1 .illegal 34
      else
        let s := s.mapT fun t => { t with
          ntActive := t.ntActive.set n.toNat tab n.isLt
          arr := { t.arr with queued := rows.foldl (fun m r => SMap.insert m r (SMap.getD m r 0 + pairs)) t.arr.queued } }
        let s := s.enqueue numbers fun k => .sgo t.moveSeq k n.toNat cfg none
        .next (s.later 1 (.ebnd (ebndOf tab.products cfg.m cfg.m cfg.xnor)))

/-! ### Prefixes (R333) -/

/-- Whether a queued operation is a prefix nest of a table that has had no SSTOP. -/
def Thread.waitsStop (t : Thread) (nt : Nat) : ArrayOp → Bool
  | .sgo _ _ n _ none => n == nt && (t.activeTab nt).pfx != 0
  | _ => false

/-- The operation with its stop set. -/
def ArrayOp.stopAt (j : Nat) : ArrayOp → ArrayOp
  | .sgo at' num nt cfg _ => .sgo at' num nt cfg (some j)
  | o => o

def ArrayOp.isSgo : ArrayOp → Bool
  | .sgo .. => true
  | _ => false

/-- SSTOP (R333). -/
def execSstop (n : BitVec 3) (j : BitVec 5) (s : State) : Out :=
  let t := s.core.t
  let q := t.arr.queue
  let nt := n.toNat
  let tab := t.activeTab nt
  match q.findIdx? (t.waitsStop nt) with
  | none => s.trap 1 .illegal 0
  | some i =>
    match q[i]? with
    | some (.sgo _ _ _ cfg _) =>
      if j.toNat < tab.pfx || cfg.m < j.toNat then s.trap 1 .illegal 0
      else
        let s := s.mapT fun t => { t with arr := { t.arr with queue := q.modify i (ArrayOp.stopAt j.toNat) } }
        let s := if i = 0 && t.arr.phase == .parked then s.pushOnce (.arrayOpComplete s.core.cid) else s
        .next (if (q.drop (i + 1)).any ArrayOp.isSgo then s
               else s.later 2 (.ebnd (ebndOf tab.products cfg.m j.toNat cfg.xnor)))
    | _ => s.trap 1 .illegal 0

/-! ### Reads of the array (R334 to R336) -/

/-- The value of a sum held in an accumulator at its exponent; no pair: zero. -/
def Acc.dyadic (x : Acc) (sum : Int) (shift : Int) : Dy :=
  match x.w with
  | none => ⟨0, 0⟩
  | some w => ⟨sum, w - x.m - 48 + shift⟩

/-- A read-out conversion, which saturates and never gives ∞ (R218). -/
def satCode (fmt : Nat) (rm : RM) (v : Dy) (r : Nat) : Nat × Exc :=
  let x := FVal.fin (v.num < 0) v.num.natAbs v.exp
  if fmt = 0 then encodeIeee { Fmt.b32 with inf := false } 32 rm v.exp r x
  else if fmt = 1 then encodeIeee { Fmt.b16 with inf := false } 16 rm v.exp r x
  else
    let inf := decide (fmt ≥ 9)
    let p := if fmt ≥ 9 then fmt - 8 else fmt - 1
    let y := narrowMag { Fmt.b8 false p inf with inf := false } rm (v.num < 0) v.num.natAbs v.exp v.exp r
    let s := if v.num < 0 then 0x80 else 0
    match y.1 with
    | .toInf | .toMax => (s + b8maxCode false inf, y.2)
    | .code c => (if c = 0 then 0 else s + c, y.2)

/-- The scale of the prefix sums of the latest pass (R334): 2^(m − j0). -/
def SArray.prefixShift (a : SArray) : Int := (a.m0 : Int) - (a.j0 : Int)

/-- SPART (R334). -/
def execSpart (v : BitVec 6) (r : BitVec 5) (s : State) : Out :=
  let y := s.srcS r
  let a := s.core.t.arr
  let acc := fun (l : Fin 128) => a.at ((y.val.toNat % 64 + l.val / 64) % 64) (l.val % 64)
  let one := fun (l : Fin 128) => satCode 0 .rne ((acc l).dyadic (acc l).p a.prefixShift) 0
  let e := (List.finRange 128).foldl (fun (e : Exc) l => e ||| (one l).2) 0
  s.checked [y.psn] <| s.raising e fun s =>
    .next (s.later 8 (.sResult v (Vector.ofFn fun l => { val := BitVec.ofNat 32 (one l).1, psn := (acc l).psn })))

/-- The bound b of a column (R335). -/
def SArray.bound (a : SArray) (x : Acc) : Dy :=
  match x.w with
  | none => ⟨0, 0⟩
  | some w =>
    let beta := ((a.j0 + 1) / 2 + 2) * (if a.xnor0 then 2 else 1)
    let k := Dy.add ⟨(16 * beta : Nat), a.prefixShift + w - (a.m0 : Int)⟩ ⟨1, w - x.m - 48 + a.prefixShift⟩
    Dy.mul ⟨(x.np : Nat), 0⟩ k

/-- The column with the largest value among those given, the first of equals. -/
def bestColumn (v : Nat → Dy) : List Nat → Option Nat
  | [] => none
  | c :: cs => match bestColumn v cs with
    | none => some c
    | some d => if Dy.lt (v c) (v d) || (Dy.eq (v c) (v d) && d < c) then some d else some c

/-- SCONF (R335). -/
def execSconf (v : BitVec 6) (r : BitVec 5) (s : State) : Out :=
  let y := s.srcS r
  s.checked [y.psn] <|
    let n := bits y.val.toNat 14 12
    let c0 := bits y.val.toNat 11 6
    let row := bits y.val.toNat 5 0
    if n = 0 ∨ n = 7 then s.trap 1 .illegal y.val.zext
    else
      let a := s.core.t.arr
      let cols := (List.range (2 ^ n)).map (fun i => (c0 + i) % 64)
      let value := fun (c : Nat) => (a.at row c).dyadic (a.at row c).p a.prefixShift
      let t1 := (bestColumn value cols).getD 0
      let t2 := (bestColumn value (cols.filter (fun c => c != t1))).getD 0
      let margin := Dy.add (value t1) (Dy.neg (value t2))
      let bound := Dy.add (a.bound (a.at row t1)) (a.bound (a.at row t2))
      let psn := cols.findSome? (fun c => (a.at row c).psn)
      let out := [t1, t2, (roundRne .b32 32 false margin).1,
        (encodeIeee .b32 32 .rup 0 0 (.fin false bound.num.natAbs bound.exp)).1, if Dy.lt bound margin then 1 else 0]
      .next (s.later 4 (.sResult v (Vector.ofFn fun l : Fin 128 =>
        { val := BitVec.ofNat 32 (out.getD l.val 0), psn := if l.val < 5 then psn else none })))

/-- The read-out that an SREAD uses for the row it names (R336). -/
def Thread.readOut (t : Thread) (p : BitVec 8) (row : Nat) : ReadOut :=
  if p.getLsbD 7 then ⟨p.toNat % 16, p.toNat / 16 % 8, 0⟩ else (SMap.find? t.arr.rowRec row).getD t.defaultOut

/-- Elements in a lane and their width, by format (R336). -/
def perLane (fmt : Nat) : Nat × Nat := if fmt = 0 then (1, 32) else if fmt = 1 then (2, 16) else (4, 8)

/-- One lane of SREAD: its bits, exceptions and poison (R336). -/
def SArray.readLane (a : SArray) (o : ReadOut) (row : Nat) (r : Nat) (l : Nat) : Word × Exc × Psn :=
  let pw := perLane o.fmt
  (List.range pw.1).foldl (fun (z : Word × Exc × Psn) i =>
    let n := l * pw.1 + i
    let x := a.at ((row + n / 64) % 64) (n % 64)
    let y := satCode o.fmt (rmOf o.rm) (if x.npair = 0 then ⟨0, 0⟩ else x.dyadic x.q 0) r
    (z.1 ||| BitVec.ofNat 32 (y.1 * 2 ^ (pw.2 * i)), z.2.1 ||| y.2, z.2.2.or x.psn)) (0, 0, none)

/-- SREAD (R336): under SR the rounding operand is lane l of d, read at issue and tested. -/
def execSread (p : BitVec 8) (v : BitVec 6) (r : BitVec 5) (s : State) : Out :=
  let y := s.srcS r
  let row := y.val.toNat % 64
  let t := s.core.t
  let o := t.readOut p row
  let d := s.srcV v
  let one := fun (l : Fin 128) => t.arr.readLane o row (if o.rm = 4 then d[l].val.toNat else 0) l.val
  let e := (List.finRange 128).foldl (fun (e : Exc) l => e ||| (one l).2.1) 0
  s.checked [y.psn, if o.rm = 4 then d.psn else none] <| s.raising e fun s =>
    .next (s.later 8 (.sResult v (Vector.ofFn fun l => { val := (one l).1, psn := (one l).2.2 })))

/-! ### The bytes that tile operations and the array touch (R196, R198) -/

/-- The L1 area of a move (R182, R351). -/
def Obj.moveArea (o : Obj) (quant : Bool) : Nat := if quant then o.trows * o.pitchOf 4 else o.area

/-- Whether two ranges (start, length) meet. -/
def meets (x y : Nat × Nat) : Bool := x.1 < y.1 + y.2 && y.1 < x.1 + x.2

/-- The L1 range of an operation: to the end of the pad while its slot is still to be replaced (R350). -/
def Thread.opL1 (t : Thread) : TileOp → Option (Nat × Nat)
  | .tmov n _ _ quant slot l1 _ _ _ =>
    if t.slotPending slot n then some (l1, 2 ^ 21 - l1) else (SMap.find? t.objs slot).map (fun o => (l1, o.moveArea quant))
  | .tfill n _ slot l1 _ _ => if t.slotPending slot n then some (l1, 2 ^ 21 - l1) else (SMap.find? t.objs slot).map (fun o => (l1, o.tileBytes))
  | .peer _ _ _ l1 len => some (l1, len)
  | _ => none

/-- The ranges of memory that an operation touches, its tile and the trailer of a quantised one (R351), with whether it stores there: any byte while
its slot is still to be replaced (R350). -/
def Thread.opMem (t : Thread) : TileOp → List ((Nat × Nat) × Bool)
  | .tmov n _ st _ slot _ ty tx _ =>
    if t.slotPending slot n then [((0, 2 ^ 64), st)]
    else match SMap.find? t.objs slot with
      | none => []
      | some o =>
        if o.peer then []
        else
          let h := o.hull ty tx
          ((h.1, h.2 - h.1), st) :: (if o.quant then [((o.trailerAddr ty tx, 16), st)] else [])
  | _ => []

/-- Whether two tile operations touch the same bytes and one writes them. -/
def Thread.opsMeet (t : Thread) (x y : TileOp) : Bool :=
  (match t.opL1 x, t.opL1 y with
    | some a, some b => (x.fills || y.fills) && meets a b
    | _, _ => false)
  || (t.opMem x).any (fun a => (t.opMem y).any (fun b => (a.2 || b.2) && meets a.1 b.1))

/-- Whether the lock of an issued tile move covers bytes of the own L1: it holds back the engines of the core and the residency engine (R198). -/
def Thread.locked (t : Thread) (r : Nat × Nat) : Bool := (t.tq0 ++ t.tq1).any (fun o => o.fills && (t.opL1 o).any (meets r))

/-- Whether an operation of the array reads bytes of an L1 range. -/
def Thread.arrayReads (t : Thread) (x : Nat × Nat) : ArrayOp → Bool
  | .sgo _ _ nt cfg _ =>
    let tab := t.activeTab nt
    tab.steps.any (fun st => meets x (st.a, 16 * (tab.kb + 1) * aSize tab.atype)
      || (cfg.sr && meets x (st.r, 64 * (tab.kb + 1))))
  | .wbld _ _ src len _ => meets x (src, 64 * len)
  | _ => false

/-- The place of an array operation that reads the L1. -/
def ArrayOp.at? : ArrayOp → Option Nat
  | .wbld n .. | .sgo n .. => some n
  | _ => none

/-- Whether an operation of the array issued before a fill still has to read bytes that it writes (R196, note a). -/
def Thread.readsBefore (t : Thread) (o : TileOp) : Bool :=
  o.fills && t.arr.queue.any (fun a => a.at?.any (fun n => n ≤ o.seq) && (t.opL1 o).any (fun r => t.arrayReads r a))

/-- Whether the nest at the head has parked and waits for an SSTOP (R333). -/
def Thread.nestWaits (t : Thread) : Bool :=
  t.arr.phase == .parked && t.arr.queue.head?.any (fun o => match o with
    | .sgo _ _ _ _ none => true
    | _ => false)

/-- Whether reads of the array are still to come: work that stops or ends brings no SSTOP to a nest that waits for one (R288, R340). -/
def Thread.arrayLive (t : Thread) : Bool := t.mode == .run || ((t.mode == .ending || t.mode == .stopping) && !t.nestWaits)

/-- Whether something that a stop has to complete waits for reads of the array: a tile move that fills, or a fence (R133, R194, R196). -/
def Thread.arrayOwes (t : Thread) : Bool :=
  (t.tq0 ++ t.tq1).any t.readsBefore || t.egress.any (fun e => e.op == .fence && t.arr.queue.any (fun a => a.at?.any (fun n => n ≤ e.seq)))

/-! ### Steps of the array (R326, R331, R333) -/

/-- A thread whose array runs: on the core, with its work not over (R340). At a stop it freezes once no tile move and no fence that must complete
waits for its reads (R133, R196): DEDUCED, log 72. -/
def Core.arrayRuns (c : Core) : Bool := c.t.mode == .run || c.t.mode == .ending || (c.t.mode == .stopping && c.t.arrayLive && c.t.arrayOwes)

/-- The step that is due after the operation at the head has begun. -/
def Core.arrayNext (c : Core) : Option Instr :=
  match c.t.arr.phase, c.t.arr.queue with
  | .idle, _ :: _ => some (.arrayOpStart c.cid)
  | .running, o :: _ => some (if c.t.isPrefix o then .nestPark c.cid else .arrayOpComplete c.cid)
  | .parked, .sgo _ _ _ _ (some _) :: _ => some (.arrayOpComplete c.cid)
  | _, _ => none

/-- The step that the array of a core has due, put on the agenda. -/
def State.arrayDue (s : State) (cid : Nat) : State :=
  match (s.coreAt cid).arrayNext with
  | some i => s.pushOnce i
  | none => s

/-- Whether the array of a core stands still: its clock domain is frozen, in a gang with that of any member (R167, R89). -/
def State.arrayFrozen (s : State) (cid : Nat) : Bool := (s.gangOf (s.leadOf cid)).any (fun m => (s.coreAt m).t.frozen)

/-- ARRAY_OP_START (R326): the operation at the head begins; one that a restored context had begun goes on (R340). -/
def execArrayOpStart (cid : Nat) (s : State) : Out :=
  let c := s.coreAt cid
  if !c.arrayRuns || c.t.arr.queue.isEmpty then .next s
  else if s.arrayFrozen cid then .next (s.push (.arrayOpStart cid))
  else if c.t.arr.phase == .idle then
    .next ((s.onCore cid fun c => { c with t := { c.t with arr := { c.t.arr with phase := .running } } }).arrayDue cid)
  else .next (s.arrayDue cid)

/-- The launch of a core on which ALIGNLOSS was set carries it in FLAGS (R75, R216). -/
def State.lossFlag (s : State) (l : Nat) (lost : Bool) : State :=
  if lost then s.onLaunch l fun x => { x with flags := x.flags ||| 0b100#16 } else s

/-- Whether the operation at the head waits for a tile move that holds the banks it reads (R198). -/
def Thread.arrayLocked (t : Thread) : Bool := t.arr.queue.head?.any t.movesBefore

/-- NEST_PARK (R333). -/
def execNestPark (cid : Nat) (s : State) : Out :=
  let c := s.coreAt cid
  if c.arrayRuns && c.t.arr.phase == .running && (c.t.arr.queue.head?.any c.t.isPrefix) then
    if s.arrayFrozen cid || c.t.arrayLocked then .next (s.push (.nestPark cid)) else
    let r := c.t.parkNest c.l1
    .next (((s.onCore cid fun c => { c with t := r.1 }).lossFlag c.t.lslot r.2).arrayDue cid)
  else .next s

/-- Whether the operation at the head of the queue may come to its end. -/
def Thread.arrayEnds (t : Thread) : Bool :=
  match t.arr.phase, t.arr.queue with
  | .running, o :: _ => !t.isPrefix o
  | .parked, .sgo _ _ _ _ (some _) :: _ => true
  | _, _ => false

/-- ARRAY_OP_COMPLETE (R331). -/
def execArrayOpComplete (cid : Nat) (s : State) : Out :=
  let c := s.coreAt cid
  if c.arrayRuns && c.t.arrayEnds then
    if s.arrayFrozen cid || c.t.arrayLocked then .next (s.push (.arrayOpComplete cid)) else
    let r := c.t.runArray c.l1
    .next (((s.onCore cid fun c => { c with t := r.1 }).lossFlag c.t.lslot r.2).arrayDue cid)
  else .next s

end Sys2Proof.Machine
end

