-- ==== Sys2Proof/Machine/Tile.lean ====
section
/-! DEFINITION. Tile moves (R349 to R352), object-window loads and publication (R363), fences (R194, R347), and the steps of the
tile-move queues. -/

namespace Sys2Proof.Machine

/-! ### Checks (R349) -/

/-- An outbound table entry. -/
def State.outWin (s : State) (e : Nat) : OutWin := if h : e < 16 then s.outWins[e] else {}

/-- Whether an outbound entry refuses a tile: EN = 0, or an element beyond its length (R183). -/
def State.peerRefuses (s : State) (o : Obj) (ty tx : Nat) : Bool :=
  let w := s.outWin o.oute
  !w.en || (o.tile ty tx).any (fun e => o.base.toNat + o.offset ty tx e.1 e.2 + o.size > w.len.toNat * 4096)

/-- Whether TMOVQ takes a type (R349). -/
def quantType (ty : Nat) : Bool := (fmtCode ty false).isSome

/-- The first two checks of R349: the slot, then BASE against the area of the tile. -/
def State.tileAt (s : State) (slot : Nat) (base : DWord) (area : Obj → Nat) (k : Obj → Nat → Out) : Out :=
  match SMap.find? (s.core.t.chkObjs.getD s.core.t.objs) slot with
  | none => s.trap 3 .prot (BitVec.ofNat 64 slot)
  | some o =>
    if base.toNat % 64 != 0 then s.trap 3 .align base
    else match ownOff base with
      | none => s.trap 3 .page base
      | some off => if off + area o > 2 ^ 21 then s.trap 3 .page base else k o off

/-- Step 4 of R349 up to its peer cases. -/
def Obj.forbids (o : Obj) (quant st : Bool) : Bool :=
  (if st then !o.wr else !o.rd) || (!quant && st && o.quant) || (quant && (!o.quant || !quantType o.type || o.peer))

/-- Whether a queue has 64 operations outstanding (R349). -/
def Thread.queueFull (t : Thread) (q : BitVec 1) : Bool :=
  let x := if q = 0 then t.tl[0] else t.tl[1]
  x.issued - x.val ≥ 64

/-! ### The queues -/

/-- The queues of a thread by number. -/
def Thread.tq (t : Thread) (q : Nat) : List TileOp := if q = 0 then t.tq0 else t.tq1
def Thread.setTq (t : Thread) (q : Nat) (x : List TileOp) : Thread := if q = 0 then { t with tq0 := x } else { t with tq1 := x }
def tqLine (q : Nat) : Fin 8 := if q = 0 then 0 else 1

/-- The step due for the operation at the head of a queue. -/
def Core.tileNext (c : Core) (q : Nat) : Option Instr :=
  match c.t.tq q with
  | [] => none
  | .objld .. :: _ => some (.objldComplete c.cid)
  | .objpub .. :: _ => some (.objpubComplete c.cid)
  | .peer .. :: _ => none
  | _ => some (.tileMoveComplete c.cid q)

def State.tileDue (s : State) (cid q : Nat) : State :=
  match (s.coreAt cid).tileNext q with
  | some i => s.pushOnce i
  | none => s

/-- An operation queued with the next number of its timeline and its place among the tile operations (R185, R349). -/
def State.queueTile (s : State) (q : Nat) (f : Nat → Nat → TileOp) : State :=
  let r := s.core.t.takeNum (tqLine q)
  (s.mapT fun t => { r.1.setTq q (t.tq q ++ [f t.moveSeq r.2]) with moveSeq := t.moveSeq + 1 }).tileDue s.core.cid q

/-- The operation at the head of a queue completes, and its timeline is raised (R185, R350). -/
def State.tileDone (s : State) (cid q num : Nat) : State :=
  (s.onCore cid fun c => { c with t := (c.t.setTq q (c.t.tq q).tail).complete (tqLine q) num }).tileDue cid q

/-! ### TMOV, TMOVQ, TFILL (R349) -/

/-- TMOV and TMOVQ (R349). -/
def tileMove (quant : Bool) (q r : BitVec 1) (slot : BitVec 6) (b : BitVec 4) (z : BitVec 5) (s : State) : Out :=
  let a := s.srcA b
  let v := s.srcS z
  let st := r == 1
  let ty := bits v.val.toNat 29 16
  let tx := bits v.val.toNat 13 0
  let val : DWord := v.val.zext
  s.checked [a.psn, v.psn] <| s.tileAt slot.toNat a.val (fun o => o.moveArea quant) fun o off =>
    if !o.hasTile ty tx then s.trap 3 .prot val
    else if o.forbids quant st then s.trap 3 .prot (Config.openVal s.tick)
    else if o.peer && s.peerRefuses o ty tx then s.trap 3 .prot val
    else if s.core.t.queueFull q then s.trap 1 .illegal 33
    else
      let s := if st || o.peer then s.noRerun else s
      let s := if o.peer then s.noReplay s.core.t.lslot else s
      .next (s.queueTile q.toNat fun seq num => .tmov seq num st quant slot.toNat off ty tx s.core.t.pc)

def execTmov (q r : BitVec 1) (o : BitVec 6) (b : BitVec 4) (z : BitVec 5) (s : State) : Out := tileMove false q r o b z s
def execTmovq (q r : BitVec 1) (o : BitVec 6) (b : BitVec 4) (z : BitVec 5) (s : State) : Out := tileMove true q r o b z s

/-- TFILL (R349, R350). -/
def execTfill (q : BitVec 1) (o : BitVec 6) (b : BitVec 4) (z : BitVec 5) (s : State) : Out :=
  let a := s.srcA b
  let v := s.srcS z
  s.checked [a.psn, v.psn] <| s.tileAt o.toNat a.val Obj.tileBytes fun _ off =>
    if s.core.t.queueFull q then s.trap 1 .illegal 33
    else .next (s.queueTile q.toNat fun seq num => .tfill seq num o.toNat off v.val.sext s.core.t.pc)

/-! ### OBJLD, OBJPUB (R363) -/

def execObjld (o : BitVec 6) (z : BitVec 5) (s : State) : Out :=
  let v := s.srcS z
  let index := bits v.val.toNat 15 0
  s.checked [v.psn] <|
    if index ≥ s.lrec.objCount then s.trap 3 .prot v.val.zext
    else .next (s.queueTile 0 fun seq num => .objld seq num o.toNat index s.core.t.pc)

def execObjpub (s : State) : Out :=
  if s.core.t.handler then .next (s.queueTile 0 .objpub) else s.trap 1 .illegal 0

/-! ### Which operations wait for which (R196, R198, R350) -/

/-- Whether a tile operation waits: for an access of the core issued before it; for an earlier operation of the other queue on common
bytes, or a store to a peer window before another (R79, R196 note v); for an earlier nest or weight load that reads what it writes. -/
def Thread.tileWaits (t : Thread) (q : Nat) (o : TileOp) : Bool :=
  t.egressBefore o.seq
  || (t.tq (1 - q)).any (fun x => x.seq < o.seq && (t.opsMeet x o || (t.peerOut x && t.peerOut o)))
  || (t.arrayLive && t.readsBefore o)

/-- The bytes that an equivalence operation may touch (R222, R233): its descriptor, the arrays and log that the descriptor names as it
stands, and the objects of an EQRL. -/
def State.eqRanges (s : State) (o : EqOp) : List (Nat × Nat) :=
  let arrays := match s.readVa ⟨o.cid, o.ctx, some o.lslot, true, dieOf o.cid⟩ o.desc.toNat 64 with
    | .ok (bs, _) =>
      let w := fun (k : Nat) => leNat (plain ((bs.drop (8 * k)).take 8))
      [(w 0, 4 * (w 3 % 2 ^ 31)), (w 1, 4 * (w 3 % 2 ^ 31)), (w 2, 8 * (w 3 / 2 ^ 32))]
    | .error _ => []
  let objs := [o.objX, o.objY].filterMap (fun x => x.map (fun (x : Obj) =>
    (x.base.toNat, (x.rows - 1) * x.rstride + (x.cols - 1) * x.estride + x.size)))
  (o.desc.toNat, 64) :: arrays ++ objs

/-- Whether an equivalence operation that a launch's core issued before a place still works on common bytes (R234: class TM; R196 note a). -/
def State.eqBefore (s : State) (cid l seq : Nat) (r : List (Nat × Nat)) : Bool :=
  r.any (fun r => s.eqOps.any (fun p => p.cid == cid && p.lslot == l && p.seq < seq && p.phase != .done && (s.eqRanges p).any (meets r)))

/-! ### What a move does (R350 to R352) -/

/-- The thread's launch number and slot copy for an operation. -/
def State.slotOf (s : State) (cid slot : Nat) : Option Obj := SMap.find? (s.coreAt cid).t.objs slot

/-- The L1 of a core changed. -/
def State.onL1 (s : State) (cid : Nat) (f : Pad → Pad) : State := s.onCore cid fun c => { c with l1 := f c.l1 }

/-- An element read as binary32 by TMOVQ: exact, every NaN the canonical one, poison kept (R351). -/
def widen (o : Obj) (e : Elem) : Elem :=
  let v := (encodeIeee .b32 32 .rne 0 0 (decodeType o.type o.inf e.code)).1
  (e.1, (leBytes 4 v).map (fun b => (b, psnOf e.2)))

/-- An element quantised by TMOVQ, and whether it counts in SATCNT (R351): into a binary8 type, by its magnitude, whatever its sign. -/
def quantise (o : Obj) (e : Elem) : Elem × Bool :=
  let x := decodeF32 (BitVec.ofNat 32 e.code)
  let r := encodeType o.type o.inf .rne 0 0 x
  let mag := match x with
    | .fin _ n e => .fin false n e
    | v => v
  let sat := if (intType o.type).isSome then (r.2 &&& Exc.nv) != 0 else ((encodeType o.type o.inf .rne 0 0 mag).2 &&& Exc.of) != 0 || x.isInf
  ((e.1, (leBytes o.size r.1).map (fun b => (b, psnOf e.2))), sat)

/-- The end of a move that goes from memory to L1. -/
def State.moveIn (s : State) (cid q num : Nat) (w : Who) (o : Obj) (quant : Bool) (l1 ty tx : Nat) : Access State :=
  if o.quant then
    Access.bind (s.readQuant w o ty tx) fun x s =>
      let s := s.onL1 cid fun p =>
        if quant then p.putTile o l1 4 (x.1.map (widen o))
        else (p.putTile o l1 o.size x.1).writeP (l1 + o.tileBytes) x.2
      .ok (s.tileDone cid q num, s)
  else
    Access.bind (State.readTile w o ty tx (o.tile ty tx) s) fun es s =>
      let s := s.onL1 cid fun p => p.putTile o l1 o.size es
      .ok (s.tileDone cid q num, s)

/-- The elements that a move stores, as its object takes them, and the number saturated. -/
def Core.outElems (c : Core) (o : Obj) (quant : Bool) (l1 ty tx : Nat) : List Elem × Nat :=
  if quant then
    let r := (c.l1.getTile o l1 4 ty tx).map (quantise o)
    (r.map (fun x => x.1), (r.filter (fun x => x.2)).length)
  else (c.l1.getTile o l1 o.size ty tx, 0)

/-- The end of a move that goes from L1 to memory. -/
def State.moveOut (s : State) (cid q num : Nat) (w : Who) (o : Obj) (quant : Bool) (l1 ty tx : Nat) (pc : DWord) : Access State :=
  let c := s.coreAt cid
  let x := c.outElems o quant l1 ty tx
  match (if o.bact = 3 then x.1.find? (fun e => o.violates e.code) else none) with
  | some e =>
    let s := s.tileDone cid q num
    .ok (s.engineFault cid pc .bound (BitVec.ofNat 64 (o.addr ty tx e.1.1 e.1.2)) none, s)
  | none =>
    let es := x.1.map o.boundElem
    let s := s.boundFlag c.t.lslot o (x.1.map Elem.code)
    Access.bind (State.writeTile w o ty tx es s) fun _ s =>
      if quant then
        Access.bind (s.writeVa w (o.trailerAddr ty tx) (clean (trailerBytes o (es.map Elem.code) x.2))) fun _ s =>
          .ok (s.tileDone cid q num, s)
      else .ok (s.tileDone cid q num, s)

/-- An error of an outbound entry is counted (R79). -/
def State.outError (s : State) (e : Nat) : State :=
  if h : e < 16 then { s with outWins := s.outWins.set e { s.outWins[e] with err := sat64 s.outWins[e].err } h } else s

/-- Bus address of an element in a peer window (R183). -/
def State.busAddr (s : State) (o : Obj) (ty tx i j : Nat) : Nat := (s.outWin o.oute).bus.toNat * 4096 + o.base.toNat + o.offset ty tx i j

/-- One posted write to a peer; dropped and counted while the link is down (R79, R352). -/
def State.peerStore (s : State) (o : Obj) (ty tx : Nat) (e : Elem) : State :=
  if s.pcieUp then s.emit (.peerWrite o.oute (s.busAddr o ty tx e.1.1 e.1.2) (plain e.2)) else s.outError o.oute

/-- The end of a move to a peer window. -/
def State.movePeerOut (s : State) (cid q num : Nat) (o : Obj) (l1 ty tx : Nat) (pc : DWord) : State :=
  let c := s.coreAt cid
  let x := c.outElems o false l1 ty tx
  match (if o.bact = 3 then x.1.find? (fun e => o.violates e.code) else none) with
  | some e => (s.tileDone cid q num).engineFault cid pc .bound (BitVec.ofNat 64 (o.base.toNat + o.offset ty tx e.1.1 e.1.2)) none
  | none =>
    let s := s.boundFlag c.t.lslot o (x.1.map Elem.code)
    ((x.1.map o.boundElem).foldl (fun s e => s.peerStore o ty tx e) s).tileDone cid q num

/-- One read request to a peer, with the end of its time due (R79, R352). -/
def State.peerLoad (cid q group : Nat) (o : Obj) (l1 ty tx : Nat) (s : State) (e : Nat × Nat) : State :=
  let r : PeerRead := { tag := s.nextId, oute := o.oute, cid := cid, l1 := l1 + o.place o.size e.1 e.2, size := o.size, q := q, group := group }
  let s := { s with nextId := s.nextId + 1, peerReads := s.peerReads ++ [r] }
  let s := if s.pcieUp then s.emit (.peerReadReq r.tag o.oute (s.busAddr o ty tx e.1 e.2) o.size) else s
  s.push (.outboundTimeout r.tag)

/-- A move from a peer window starts with its reads; L1 is written, and the move completes, when all have been answered (R191, R198,
R352). -/
def State.movePeerIn (s : State) (cid q seq num : Nat) (o : Obj) (l1 ty tx : Nat) : State :=
  let group := s.nextId
  let s := { s with nextId := s.nextId + 1 }.onCore cid fun c =>
    { c with t := c.t.setTq q (.peer seq num group l1 o.tileBytes :: (c.t.tq q).tail) }
  (o.tile ty tx).foldl (State.peerLoad cid q group o l1 ty tx) s

/-- An operation at the head of a queue performed; its slot copy is taken now, and one that no longer fits is a PROT (R350). -/
def State.tileRun (s : State) (cid q : Nat) (op : TileOp) : Out :=
  let again : Instr := .tileMoveComplete cid q
  match op with
  | .tmov seq num st quant slot l1 ty tx pc =>
    match s.slotOf cid slot with
    | none => .next (s.engineFault cid pc .prot (BitVec.ofNat 64 slot) none)
    | some o =>
      if !o.hasTile ty tx || o.forbids quant st || l1 + o.moveArea quant > 2 ^ 21 || (o.peer && s.peerRefuses o ty tx) then
        .next (s.engineFault cid pc .prot (BitVec.ofNat 64 (ty * 2 ^ 16 + tx)) none)
      else if o.peer then
        .next (if st then s.movePeerOut cid q num o l1 ty tx pc else s.movePeerIn cid q seq num o l1 ty tx)
      else
        let w := s.engineOf cid
        match (if st then s.moveOut cid q num w o quant l1 ty tx pc else s.moveIn cid q num w o quant l1 ty tx) with
        | .ok (s, _) => .next (s.unhold (.engine cid))
        | .error e => s.engineStop cid pc again e
  | .tfill _ num slot l1 v pc =>
    match s.slotOf cid slot with
    | none => .next (s.engineFault cid pc .prot (BitVec.ofNat 64 slot) none)
    | some o =>
      if l1 + o.tileBytes > 2 ^ 21 then .next (s.engineFault cid pc .prot (BitVec.ofNat 64 slot) none)
      else
        let es : List Elem := (List.range o.trows).flatMap (fun i => (List.range o.tcols).map (fun j =>
          ((i, j), clean (leBytes o.size v.toNat))))
        .next ((s.onL1 cid fun p => p.putTile o l1 o.size es).tileDone cid q num)
  | .objld _ num slot index pc =>
    let w := s.engineOf cid
    match s.readObj w ((SMap.find? s.launches (w.lslot.getD 0)).map (fun (x : Launch) => x.lrec.objAddr) |>.getD 0) index with
    | .ok (o, s) =>
      let s := s.onCore cid fun c => { c with t := { c.t with objs := SMap.put c.t.objs slot o } }
      .next ((s.tileDone cid q num).unhold (.engine cid))
    | .error e => s.engineStop cid pc (.objldComplete cid) e
  | .objpub _ num =>
    let l := (s.coreAt cid).t.lslot
    .next ((s.onLaunch l fun x => { x with objCopy := [] }).tileDone cid q num)
  | .peer _ num group _ _ =>
    if s.peerReads.any (fun r => r.group == group) then .next s else .next (s.tileDone cid q num)

/-- The operation at the head of a queue, if a step of the kind it needs comes: it runs, or waits for an earlier one. -/
def State.tileStep (s : State) (cid q : Nat) (kind : TileOp → Bool) (again : Instr) : Out :=
  let t := (s.coreAt cid).t
  match t.tq q with
  | [] => .next s
  | op :: _ =>
    if !kind op then .next s
    else if t.tileWaits q op || s.eqBefore cid t.lslot op.seq ((t.opMem op).map (fun m => m.1)) then .next (s.push again)
    else s.tileRun cid q op

def TileOp.isLd : TileOp → Bool
  | .objld .. => true
  | _ => false
def TileOp.isPub : TileOp → Bool
  | .objpub .. => true
  | _ => false

/-- TILE_MOVE_COMPLETE (R350). -/
def execTileMoveComplete (cid q : Nat) (s : State) : Out :=
  s.tileStep cid q (fun o => !o.isLd && !o.isPub) (.tileMoveComplete cid q)

/-- OBJLD_COMPLETE (R363). -/
def execObjldComplete (cid : Nat) (s : State) : Out := s.tileStep cid 0 TileOp.isLd (.objldComplete cid)

/-- OBJPUB_COMPLETE (R184, R363). -/
def execObjpubComplete (cid : Nat) (s : State) : Out := s.tileStep cid 0 TileOp.isPub (.objpubComplete cid)

/-! ### Completions of peer reads (R79, R352) -/

/-- The move that a peer read belongs to, if it still stands at the head of its queue: the L1 range that it fills. -/
def State.peerMove (s : State) (r : PeerRead) : Option (Nat × Nat) :=
  match ((s.coreAt r.cid).t.tq r.q).head? with
  | some (.peer _ _ g l1 len) => if g = r.group then some (l1, len) else none
  | _ => none

/-- A peer read ends with its data, or with poison and a count of the entry. The last of a move lays the whole tile in L1, zeros around the
elements, and the move completes. -/
def State.peerEnds (s : State) (r : PeerRead) (data : Option (List Byte)) : State :=
  let s : State := { s with agenda := s.agenda.filter (fun (i : Instr) => i != .outboundTimeout r.tag) }
  let bs : List PByte := match data with
    | some d => clean ((d ++ List.replicate r.size 0).take r.size)
    | none => (List.range r.size).map (fun i => (Config.peerByte (s.tick + i), some .unnamed))
  let s := if data.isNone then s.outError r.oute else s
  match s.peerMove r with
  | none => { s with peerReads := s.peerReads.filter (fun (x : PeerRead) => x.tag != r.tag) }
  | some (l1, len) =>
    let s : State := { s with peerReads := s.peerReads.map (fun (x : PeerRead) => if x.tag = r.tag then { x with got := some bs } else x) }
    let mine := s.peerReads.filter (fun (x : PeerRead) => x.group == r.group)
    if mine.any (fun (x : PeerRead) => x.got.isNone) then s
    else
      let s : State := { s with peerReads := s.peerReads.filter (fun (x : PeerRead) => x.group != r.group) }
      let s := s.onL1 r.cid fun p => mine.foldl (fun (p : Pad) (x : PeerRead) => p.writeP x.l1 (x.got.getD [])) (p.zero l1 len)
      s.push (.tileMoveComplete r.cid r.q)

/-- OUTBOUND_COMPLETION (R79): a completion of the peer, or an error completion. -/
def execOutboundCompletion (tag : Nat) (ok : Bool) (bytes : List (BitVec 8)) (s : State) : Out :=
  match s.peerReads.find? (fun r => r.tag == tag && r.got.isNone) with
  | none => .next s
  | some r => .next (s.peerEnds r (if ok then some bytes else none))

/-- OUTBOUND_TIMEOUT (R79): no completion within 50 µs. -/
def execOutboundTimeout (tag : Nat) (s : State) : Out :=
  match s.peerReads.find? (fun r => r.tag == tag && r.got.isNone) with
  | none => .next s
  | some r => .next (s.peerEnds r none)

/-! ### FENCE (R194, R347) -/

/-- FENCE (R347): no result, and no bundle is held; no later access leaves the core until every earlier one has been performed, those of
the engines included, and at scope .SYS or .ALL every earlier remote operation delivered (R194). -/
def execFence (e : BitVec 3) (s : State) : Out := .next (s.leave (e.toNat ≥ 4) .fence)

end Sys2Proof.Machine
end

