-- ==== Sys2Proof/Machine/Remote.lean ====
section
/-! DEFINITION. What goes to other devices and comes back: members and views (R44, R52, R53), ports and queue pairs (R39 to R50),
answers and fates (R362), remote puts and contributions (R361), and the steps that carry them. -/

namespace Sys2Proof.Machine

/-! ### Members (R44, R52, R53) -/

/-- SELF and VIEW of a group entry. -/
def State.selfOf (s : State) (e : Nat) : Nat × State :=
  let r := s.groupWord e 0
  (bits r.1.val.toNat 17 0, r.2)
def State.viewOf (s : State) (e : Nat) : Word × State :=
  let r := s.groupWord e 0
  (BitVec.ofNat 32 (bits r.1.val.toNat 63 32), r.2)

/-- Whether a member number belongs to the view of an entry, by the membership bitmap (R52). -/
def State.inView (s : State) (e member : Nat) : Bool × State :=
  let r := s.groupWord e 1
  let b := r.2.physRead ((r.1.val.toNat + member / 8) % 2 ^ 40) 1
  ((leNat (plain b.1)).testBit (member % 8), b.2)

/-- A running launch of a group on this device. -/
def State.launchOf (s : State) (e : Nat) : Option Nat :=
  (List.find? (fun (x : Nat × Launch) => x.2.lrec.multi && x.2.lrec.group == e) s.launches).map (fun (x : Nat × Launch) => x.1)

/-! ### Ports and queue pairs -/

def State.onPort (s : State) (d : Nat) (f : Port → Port) : State :=
  if h : d < 64 then { s with ports := s.ports.set d (f s.ports[d]) h } else s
def State.onEth (s : State) (p : Nat) (f : Eth → Eth) : State :=
  if h : p < 2 then { s with eths := s.eths.set p (f s.eths[p]) h } else s
def State.onQp (s : State) (q : Nat) (f : QPair → QPair) : State :=
  match SMap.find? s.qps q with
  | some x => { s with qps := SMap.insert s.qps q (f x) }
  | none => s

/-- The lines of the TASK channel by number: a port below 64, a queue pair from 64 on. -/
def State.taskLine (s : State) (d : Nat) : TaskLine :=
  if d < 64 then (s.port d).line else ((SMap.find? s.qps (d - 64)).map (fun (q : QPair) => q.line)).getD {}
def State.onLine (s : State) (d : Nat) (f : TaskLine → TaskLine) : State :=
  if d < 64 then s.onPort d fun p => { p with line := f p.line } else s.onQp (d - 64) fun q => { q with line := f q.line }

/-- The address of a member's entry (R48). -/
def State.memberAddr (s : State) (member : Nat) : List Byte × State :=
  let r := s.physRead ((s.dev.addrTab.toNat + 32 * member) % 2 ^ 40) 16
  (plain r.1, r.2)

/-- A queue pair bound to what a member's entry and that of SELF say (R48). -/
def QPair.bound (q : QPair) (src : List Byte) (e : MemberEntry) : QPair :=
  { q with port := e.port, prio := e.prio, dscp := e.dscp, addr := e.addr, nhmac := e.nhmac, src := src }

/-- What the device puts around a packet of a queue pair (R47, R48): an IPv4-mapped address goes in IPv4 (RFC 4291); the ECN bits say that the
transport responds to congestion, ECT(0) of RFC 3168 (PRESUMED, log 66). -/
def QPair.hdr (q : QPair) : NetHdr :=
  { port := q.port, smac := if q.port = 0 then Config.mac0 else Config.mac1, dmac := q.nhmac, src := q.src, dst := q.addr
    ipv4 := q.addr.take 12 == List.replicate 10 (0 : Byte) ++ [0xFF, 0xFF], dscp := q.dscp, prio := q.prio, ecn := 2 }

/-- A queue pair bound for a member in the name of SELF, if the member's entry is valid and fewer than 8,192 are bound (R48, R49). -/
def State.bindQp (s : State) (q self member ctx : Nat) : Option Nat × State :=
  let r := s.memberEntry member
  match r.1 with
  | some e =>
    if q < 8192 then
      let a := r.2.memberAddr self
      (some q, { a.2 with qps := SMap.insert a.2.qps q (({ member := member, ctx := ctx, self := self } : QPair).bound a.1 e) })
    else (none, r.2)
  | none => (none, r.2)

/-- The queue pair bound to a member, or a new one (R48, R49); none when its address is invalid or all 8,192 are bound. -/
def State.qpOf (s : State) (self member ctx : Nat) : Option Nat × State :=
  match List.find? (fun (x : Nat × QPair) => x.2.member == member) s.qps with
  | some x => (some x.1, s)
  | none => s.bindQp (firstGap 0 s.qps) self member ctx

/-- The way to a member of another device: the port that faces its position in the own pod (R43, R45), else a queue pair (R47); none when the
port or path is down (R362). -/
def State.lineTo (s : State) (self member ctx : Nat) : Option Nat × State :=
  if member / 64 = self / 64 then
    let d := s.podPort self (member % 64)
    (if (s.port d).link.state = .down then none else some d, s)
  else
    let r := s.qpOf self member ctx
    match r.1 with
    | some q => (if (SMap.find? r.2.qps q).any (fun (x : QPair) => r.2.ethUp x.port) then some (64 + q) else none, r.2)
    | none => (none, r.2)

/-! ### Packets of the transport (R49, R50) -/

/-- Bytes cut at the path MTU. -/
def mtuPieces : Nat → List Byte → List (List Byte)
  | 0, _ => []
  | fuel + 1, bs => if bs.length ≤ 4096 then [bs] else bs.take 4096 :: mtuPieces fuel (bs.drop 4096)

/-- A packet of a queue pair put on its port (R51). -/
def State.transmit (s : State) (q : Nat) (x : QPair) (p : Nat × List Byte) : State :=
  (s.onEth x.port fun e => { e with txPkts := sat64 e.txPkts }).emit (.rdma q p.1 x.hdr p.2)

/-- Whether a pause frame holds a queue pair's priority back at its port (R47). -/
def State.pausedQp (s : State) (x : QPair) : Bool := (s.eths.toList.getD x.port {}).paused.getLsbD x.prio

/-- A message of a queue pair put on its port (R49, R51). -/
def State.sendMsg (s : State) (q : Nat) (x : QPair) : QMsg → State
  | .request psn bs | .response psn bs => s.transmit q x (psn, bs)
  | .ack psn nak => (s.onEth x.port fun e => { e with txPkts := sat64 e.txPkts }).emit (.rdmaAck q psn nak x.hdr)

/-- A message leaves a queue pair, or waits while its priority is paused (R47). -/
def State.offer (s : State) (q : Nat) (m : QMsg) : State :=
  match SMap.find? s.qps q with
  | none => s
  | some x => if s.pausedQp x then s.onQp q fun x => { x with unsent := x.unsent ++ [m] } else s.sendMsg q x m

/-- A packet leaves a queue pair under its next number, and is kept until it is acknowledged. -/
def State.sendRdma (s : State) (q : Nat) (bs : List Byte) : State :=
  match SMap.find? s.qps q with
  | none => s
  | some x =>
    (s.onQp q fun x => { x with txPsn := x.txPsn + 1, unacked := x.unacked ++ [(x.txPsn.toNat, bs)] }).offer q (.request x.txPsn.toNat bs)

/-- ACK or NAK of a queue pair (R49, R51). -/
def State.ackRdma (s : State) (q psn : Nat) (nak : Bool) : State := s.offer q (.ack psn nak)

/-- The transport packets of a message, when it goes by queue pair. -/
def State.carry (s : State) (line : Nat) (bs : List Byte) : State :=
  if line < 64 then s else (mtuPieces (bs.length / 4096 + 1) bs).foldl (fun s b => s.sendRdma (line - 64) b) s

/-- A message of a remote operation on its way: a queue pair keeps whose it is, until it is answered (R48, R362). -/
def State.carryOp (s : State) (line : Nat) (bs : List Byte) (ack : Option (Nat × Nat)) (l : Nat) : State :=
  let s := s.carry line bs
  match ack with
  | some (cid, n) => if line < 64 then s else s.onQp (line - 64) fun q => { q with ops := q.ops ++ [(cid, n, l)] }
  | none => s

/-! ### Answers (R362) -/

/-- Fates by name. -/
def Fate.ok : Nat := 0
def Fate.notArmed : Nat := 1
def Fate.closed : Nat := 2
def Fate.staleView : Nat := 3
def Fate.badSize : Nat := 4
def Fate.duplicate : Nat := 5
def Fate.poison : Nat := 6
def Fate.page : Nat := 7
def Fate.refused : Nat := 8
def Fate.unreachable : Nat := 9

/-- The answer of a remote operation goes to its issuer: on this device, or to the sending member. -/
def State.answer (s : State) (local' : Bool) (sender l : Nat) (ack : Option (Nat × Nat)) (fate : Nat) : State :=
  match ack with
  | none => s
  | some (cid, n) => if local' then s.push (.ackArrival cid l n fate) else s.emit (.ack sender cid n fate)

/-- Own-L1 offset of a fate word (R362). -/
def fateOff (n : Nat) : Nat := 0x1FFF00 + 4 * (n % 64)

/-- ACK_ARRIVAL (R362): the fate is written and the operation counts complete; n = 0 is a form without .ACK, whose delivery alone
counts (R110, R194). -/
def execAckArrival (cid l n fate : Nat) (s : State) : Out :=
  let s := s.onLaunch l fun x => { x with remotes := x.remotes - 1 }
  let s : State := { s with qps := s.qps.map (fun (q : Nat × QPair) => (q.1, { q.2 with ops := q.2.ops.erase (cid, n, l) })) }
  .next (s.onCore cid (Core.onWork l fun t p =>
    let t := { t with rputs := t.rputs - 1 }
    if n = 0 then (t, p) else (t.complete 4 n, p.write (fateOff n) (leBytes 4 fate))))

/-- A remote operation of the moving core passes its check stage: it takes a number on tl4 in an .ACK form, and its task and launch may no
longer be run again from the start (R108, R149). -/
def State.startRemote (s : State) (ack : Bool) : State × Nat :=
  let r := s.core.t.takeNum 4
  let n := if ack then r.2 else 0
  let s := s.mapT fun t => { (if ack then r.1 else t) with
    rerunnable := false, task := if ack then { t.task with nums := t.task.nums ++ [(4, r.2)] } else t.task }
  (s.noReplay s.core.t.lslot, n)

/-- A remote operation of a core leaves: it is undelivered until it is answered (R110, R194). -/
def State.undelivered (s : State) (cid l : Nat) : State :=
  (s.onCore cid fun c => { c with t := { c.t with rputs := c.t.rputs + 1 } }).onLaunch l fun x => { x with remotes := x.remotes + 1 }

/-- Whether an .ACK form would leave more than 64 numbers outstanding on tl4 (R362). -/
def Thread.tl4Full (t : Thread) (ack : Bool) : Bool := ack && t.tl[4].issued + 1 - t.tl[4].val > 64

/-! ### RPUT and RRED (R361) -/

/-- Whether a member may be named by a launch (R360). -/
def State.mayName (s : State) (member self : Nat) : Bool := s.lrec.multi || member == self

/-- An access of a unit on behalf of the moving core stops: a held page wait freezes the core (R178). -/
def State.engineHeld (s : State) (ea : DWord) : Stop → Out
  | .stall _ s' =>
    if s.core.t.allocFail then s.trap 4 .page ea
    else (s'.pushOnce (.allocHoldTimeout (.core s.core.cid))).stallOn .allocHold
  | e => e.out

/-- The source of a remote operation: a multiple of 64, in the own L1 or at device addresses (R361). -/
def State.remoteSource (s : State) (a : DWord) (n : Nat) (k : Out) : Out :=
  if a.toNat % 64 != 0 then s.trap 3 .align a
  else match targetOf' s.core.cid a.toNat n with
    | .own | .dev => k
    | _ => s.trap 3 .page a

/-- Places of the poisoned 64-bit words of a message. -/
def poisonedWords (bs : List PByte) : List Nat := ((bs.zipIdx.filter (fun x => x.1.2.isSome)).map (fun x => x.2 / 8)).eraseDups

/-- RPUT (R361). -/
def execRput (k : BitVec 1) (a t : BitVec 4) (l v : BitVec 5) (s : State) : Out :=
  let src := s.srcA a
  let dst := s.srcA t
  let len := s.srcS l
  let dev := s.srcS v
  let ack := k == 1
  let n := len.val.toNat
  let member := bits dev.val.toNat 17 0
  s.checked [src.psn, dst.psn, len.psn, dev.psn] <|
    let g := s.selfOf s.lrec.group
    let s := g.2
    if n % 64 != 0 || n < 64 || n > 2 ^ 24 then s.trap 1 .illegal len.val.zext
    else if bits dev.val.toNat 31 18 != 0 || !s.mayName member g.1 then s.trap 1 .illegal dev.val.zext
    else if s.core.t.tl4Full ack then s.trap 1 .illegal 33
    else if dst.val.toNat % 64 != 0 then s.trap 3 .align dst.val
    else s.remoteSource src.val n <|
      if dst.val.toNat ≥ 2 ^ 56 then s.trap 3 .page dst.val
      else
        let r := s.startRemote ack
        let p : PutReq := { member := member, sender := g.1, ctx := s.core.t.ctx, group := s.lrec.group, target := dst.val, bytes := []
                            poisoned := [], ack := some (s.core.cid, r.2), lslot := s.core.t.lslot }
        .next (r.1.leave false (.put p src.val n s.core.t.pc))

/-- A put with its source read leaves the core (R361, R362). -/
def State.sendPut (s : State) (p : PutReq) (bs : List PByte) : State :=
  let cid := (p.ack.map (fun a => a.1)).getD 0
  let p := { p with bytes := plain bs, poisoned := poisonedWords bs }
  let s := s.undelivered cid p.lslot
  if p.member = p.sender then s.push (.rputArrival p)
  else
    let w := s.lineTo p.sender p.member p.ctx
    match w.1 with
    | none => w.2.answer true p.sender p.lslot p.ack Fate.unreachable
    | some line => (w.2.emit (.put p)).carryOp line p.bytes p.ack p.lslot

/-- A core of the launch that a put or contribution of a group reaches on this device. -/
def State.receiver (s : State) (local' : Bool) (lslot group : Nat) : Option (Nat × Launch) :=
  let l := if local' then some lslot else s.launchOf group
  l.bind (fun l => (SMap.find? s.launches l).map (fun x => (l, x)))

/-- Bytes with the poison of their words. -/
def repoison (bs : List Byte) (words : List Nat) : List PByte :=
  bs.zipIdx.map (fun x => (x.1, if words.contains (x.2 / 8) then some Origin.linkFlit else none))

/-- Whether a sender is outside the view of the group it names, or its stamp is older than the view (R53, R362). -/
def State.staleSender (s : State) (local' : Bool) (e sender : Nat) : Bool × State :=
  if local' then (false, s) else let r := s.inView e sender; (!r.1, r.2)

/-- Bytes of a put written as far as its target's pages let it: all or none (R361). -/
def State.putBytes (s : State) (w : Who) (va : Nat) (bs : List PByte) : Access Unit :=
  if va ≥ 0xFF000000000000 || va + bs.length > 0xFF000000000000 then .error (.trap 4 .page (BitVec.ofNat 64 va) none s)
  else s.writeVa w va bs

/-- RPUT_ARRIVAL (R361): performed at the target, or refused whole. -/
def execRputArrival (put : PutReq) (s : State) : Out :=
  let local' := put.sender == put.member
  let stale := s.staleSender local' put.group put.sender
  let s := stale.2
  if stale.1 then .next (s.answer local' put.sender put.lslot put.ack Fate.staleView)
  else match s.receiver local' put.lslot put.group with
    | none => .next (s.answer local' put.sender put.lslot put.ack Fate.page)
    | some (l, x) =>
      let cid := x.lrec.cores.headD 0
      let w : Who := ⟨cid, x.ctx, some l, true, dieOf cid⟩
      match s.putBytes w put.target.toNat (repoison put.bytes put.poisoned) with
      | .ok (_, s) => .next ((s.unhold (.launch l)).answer local' put.sender put.lslot put.ack Fate.ok)
      | .error (.stall _ s') =>
        if s'.heldOut (.launch l) then .next ((s'.unhold (.launch l)).answer local' put.sender put.lslot put.ack Fate.page)
        else .next (s'.holdOn (.launch l) (.rputArrival put))
      | .error (.tag ctx val s') => .next ((s'.answer local' put.sender put.lslot put.ack Fate.page).tagFault ctx none val)
      | .error (.busy val s') =>
        .next ((s'.answer local' put.sender put.lslot put.ack Fate.page).launchFault l .shadowBusy (s'.unitFault l .shadowBusy 2 (dieOf w.cid) none val))
      | .error (.paused s') => .next (s'.retry (.rputArrival put))
      | .error (.trap _ _ _ _ s') => .next (s'.answer local' put.sender put.lslot put.ack Fate.page)

/-- RRED (R361): the view is that of the group table at issue. -/
def execRred (k : BitVec 1) (a : BitVec 4) (n t : BitVec 5) (s : State) : Out :=
  let src := s.srcA a
  let cnt := s.srcS n
  let tgt := s.srcS t
  let ack := k == 1
  let c := cnt.val.toNat
  let v := tgt.val.toNat
  let ty := bits c 31 30
  let count := bits c 16 0
  let size := if ty = 1 then 8 else 4
  let member := bits v 17 0
  s.checked [src.psn, cnt.psn, tgt.psn] <|
    let e := s.lrec.group
    let g := s.selfOf e
    let w := g.2.viewOf e
    let s := w.2
    if ty = 3 || bits c 29 17 != 0 || count = 0 || count > 65536 || count * size > 2 ^ 18 then s.trap 1 .illegal cnt.val.zext
    else if bits v 31 30 != 0 || !s.mayName member g.1 then s.trap 1 .illegal tgt.val.zext
    else if s.core.t.tl4Full ack then s.trap 1 .illegal 33
    else s.remoteSource src.val (count * size) <|
      let r := s.startRemote ack
      let con : Contribution := { die := bits v 23 18, slot := bits v 29 24, group := e, view := w.1, sender := g.1, type := ty, count := count
                                  elems := [], poison := false, ack := some (s.core.cid, r.2), lslot := s.core.t.lslot }
      .next (r.1.leave false (.red con member src.val (count * size) s.core.t.pc))

/-- The fate that the issuer of a contribution which its own port discards is told: one of the ten codes of R362; which, the spec does not
say (R61). DESIGN CHOICE: a free value, log 8. -/
def State.openFate (s : State) : Nat := (Config.openVal s.tick).toNat % 10

/-- A contribution with its elements read leaves the core (R56, R361, R362). A spare that catches up discards its contributions at its
port (R61). -/
def State.sendRed (s : State) (con : Contribution) (member : Nat) (bs : List PByte) : State :=
  let cid := (con.ack.map (fun a => a.1)).getD 0
  let con := { con with elems := plain bs, poison := (psnOf bs).isSome }
  let s := s.undelivered cid con.lslot
  if (SMap.find? s.catchUp con.group).isSome then s.answer true con.sender con.lslot con.ack s.openFate
  else if member = con.sender then s.push (.contributionStaged con.die con)
  else
    let w := s.lineTo con.sender member (s.coreAt cid).t.ctx
    match w.1 with
    | none => w.2.answer true con.sender con.lslot con.ack Fate.unreachable
    | some line => (w.2.emit (.contribution member con)).carryOp line con.elems con.ack con.lslot

end Sys2Proof.Machine
end

