-- ==== Sys2Proof/Machine/Launch.lean ====
section
/-! DEFINITION. Launch queues (R67 to R73), the start of a launch (R72, R87, R109, R149, R161), its report (R74 to R77, R81, R110,
R148, R153), and the contexts' EN and FROZEN bits (R66). -/

namespace Sys2Proof.Machine

/-! ### The launch record (R71) -/

/-- The sixteen doublewords of a record. -/
def dwords (bs : List Byte) : List Nat := (List.range (bs.length / 8)).map (fun k => field bs (8 * k) 8)

/-- The fields of a record. -/
def recordFields (w : Nat → Nat) : LaunchRec :=
  { weight := bits (w 0) 63 56, objCount := bits (w 0) 47 32, log2h := bits (w 0) 31 29, log2w := bits (w 0) 28 26
    y0 := bits (w 0) 25 21, x0 := bits (w 0) 20 16, glog2h := bits (w 0) 15 13, glog2w := bits (w 0) 12 10
    digest := bitOf (w 0) 9, recov := bitOf (w 0) 8, cmode := bits (w 0) 7 6, multi := bitOf (w 0) 5, lowmode := bitOf (w 0) 4
    deadline := bitOf (w 0) 1, task := bitOf (w 0) 0
    codeAddr := BitVec.ofNat 64 (w 1), objAddr := BitVec.ofNat 64 (w 2), first := BitVec.ofNat 64 (w 3)
    wlBase := BitVec.ofNat 32 (bits (w 4) 63 32), wlShift := bits (w 4) 31 27, reach := bits (w 4) 26 21, sigma := bits (w 4) 20 13
    handler := BitVec.ofNat 64 (w 5), paramLen := bits (w 6) 63 32, ckptCyc := BitVec.ofNat 32 (w 6)
    wakeAddr := BitVec.ofNat 64 (w 7), crecAddr := BitVec.ofNat 64 (w 8)
    coalesce := bits (w 9) 63 48, vector := bits (w 9) 47 37, vecEn := bitOf (w 9) 36, group := bits (w 9) 35 32
    tbudget := bits (w 10) 31 0, launchId := BitVec.ofNat 32 (w 11)
    drawSeed := BitVec.ofNat 32 (bits (w 12) 63 32), draw := bitOf (w 12) 0
    drawHi := BitVec.ofNat 32 (bits (w 13) 63 32), drawLo := BitVec.ofNat 32 (w 13), seq := BitVec.ofNat 32 (bits (w 15) 63 32) }

/-- Whether every reserved bit of a record is 0 (R71). -/
def recordClear (w : Nat → Nat) (task : Bool) : Bool :=
  bits (w 0) 55 48 == 0 && bits (w 0) 3 2 == 0 && bits (w 4) 12 0 == 0 && (task || w 4 == 0) && bits (w 9) 31 0 == 0
  && bits (w 10) 63 32 == 0 && bits (w 11) 63 32 == 0 && bits (w 12) 31 1 == 0 && w 14 == 0 && bits (w 15) 31 0 == 0

/-- Whether every field lies within its limits (R71, R88). -/
def LaunchRec.inLimits (r : LaunchRec) : Bool :=
  1 ≤ r.weight && r.log2h ≤ 5 && r.log2w ≤ 5 && r.y0 % 2 ^ r.log2h == 0 && r.x0 % 2 ^ r.log2w == 0
  && r.glog2h ≤ min r.log2h (if r.task then 0 else 2) && r.glog2w ≤ min r.log2w (if r.task then 0 else 2)
  && r.cmode ≤ 1 && (r.task || !r.lowmode) && r.codeAddr.toNat % 4096 == 0 && (r.objCount == 0 || r.objAddr.toNat % 64 == 0)
  && r.first.toNat % (if r.task then 32 else 64) == 0 && (r.multi || (r.sigma == 0 && r.group == 0))
  && r.paramLen % 64 == 0 && (!r.task || r.paramLen == 0) && r.wakeAddr.toNat % 8 == 0 && r.crecAddr.toNat % 64 == 0
  && ((r.cmode != 1 && !r.digest) || r.crecAddr != 0) && (!r.draw || r.drawLo ≤ r.drawHi)

/-- A record read. -/
def parseRecord (bs : List Byte) : LaunchRec :=
  let w := fun (k : Nat) => (dwords bs).getD k 0
  let r := recordFields w
  { r with ok := recordClear w r.task && r.inLimits }

/-! ### Acceptance (R69, R72, R73) -/

/-- The table entry of a context. -/
def State.ctxAt (s : State) (c : Nat) : Ctx := if h : c < 64 then s.ctxs[c] else {}
def State.onCtx (s : State) (c : Nat) (f : Ctx → Ctx) : State :=
  if h : c < 64 then { s with ctxs := s.ctxs.set c (f s.ctxs[c]) h } else s

/-- Whether a rectangle lies wholly inside a context's allowed one (R72). -/
def Ctx.allows (c : Ctx) (r : LaunchRec) : Bool :=
  c.rx0.toNat ≤ r.x0 && r.x0 + 2 ^ r.log2w ≤ c.rx0.toNat + 2 ^ c.rlog2w.toNat
  && c.ry0.toNat ≤ r.y0 && r.y0 + 2 ^ r.log2h ≤ c.ry0.toNat + 2 ^ c.rlog2h.toNat

/-- The status that the checks of R72 give, in their order. -/
def Ctx.judge (c : Ctx) (r : LaunchRec) : Status :=
  if !r.ok then .badRecord else if !c.allows r then .badRect else if r.deadline && !c.dlOk then .denied else .ok

/-- A declared draw range compared with the last 256 and entered (R73): whether it overlaps. -/
def State.declareDraw (s : State) (r : LaunchRec) : Bool × State :=
  if !r.draw then (false, s)
  else
    (s.draws.any (fun d => d.1 == r.drawSeed && r.drawLo ≤ d.2.2 && d.2.1 ≤ r.drawHi),
     { s with draws := ((r.drawSeed, r.drawLo, r.drawHi) :: s.draws).take 256 })

/-- A record accepted: it takes the lowest free slot (R69, R72, R73). A failed one runs nothing and reports. -/
def State.acceptRecord (s : State) (ctx : Nat) (r : LaunchRec) : State :=
  let st := (s.ctxAt ctx).judge r
  let l := firstGap 0 s.launches
  let d := if st = .ok then s.declareDraw r else (false, s)
  let x : Launch := { ctx := ctx, lrec := r, uid := s.nextId, status := st, phase := if st = .ok then .accepted else .draining
                      flags := if d.1 then 1 else 0 }
  let s := { d.2 with nextId := s.nextId + 1, launches := SMap.insert d.2.launches l x }
  s.push (if st = .ok then .launchFirstRead l else .launchReport l)

/-! ### Queues (R67 to R69) -/

/-- Whether a queue has records to consume. -/
def Ctx.waiting (c : Ctx) : Bool := c.en && c.qStat == .running && c.qHead != c.tail

/-- Whether the controller is re-polling the queue of a context. -/
def State.polling (s : State) (ctx : Nat) : Bool := s.agenda.contains (.recordRepoll ctx)

/-- The context served next, in round robin by number (R69). While one queue is re-polled the others are served: DESIGN CHOICE, log 71. -/
def State.nextQueue (s : State) : Option Nat :=
  ((List.range 64).map (fun k => (s.dev.lastQueue + 1 + k) % 64)).find? (fun c => (s.ctxAt c).waiting && !s.polling c)

/-- Consumption is due for every queue that waits. -/
def State.serveQueues (s : State) : State :=
  (List.range 64).foldl (fun s c => if (s.ctxAt c).waiting && !s.polling c then s.pushOnce (.launchRecordConsume c) else s) s

/-- The record at a queue's head, as one read of 128 bytes; none when its SEQ does not match or a sector of it is poisoned (R69). -/
def State.readRecord (s : State) (ctx : Nat) : Option LaunchRec × State :=
  let c := s.ctxAt ctx
  let slot := c.qHead.toNat % 2 ^ c.qLog2.toNat
  let x := s.physReadN ((c.qBase.toNat + 128 * slot) % 2 ^ 40) 128
  let r := parseRecord (plain x.1)
  (if (psnOf x.1).isNone && r.seq == c.qHead + 1 then some r else none, x.2)

/-- A record consumed. -/
def State.consume (s : State) (ctx : Nat) (r : LaunchRec) : State :=
  let s := (s.acceptRecord ctx r).onCtx ctx fun c => { c with qHead := c.qHead + 1, tries := 0 }
  { s with dev := { s.dev with lastQueue := ctx } }.serveQueues

/-- LAUNCH_RECORD_CONSUME (R69): while 256 launches are held no queue is read; another queue whose turn comes first is served first. -/
def execLaunchRecordConsume (ctx : Nat) (s : State) : Out :=
  if !(s.ctxAt ctx).waiting || s.polling ctx || s.launches.length ≥ 256 then .next s
  else if s.nextQueue != some ctx then .next (s.serveQueues.push (.launchRecordConsume ctx))
  else match s.readRecord ctx with
    | (some r, s) => .next (s.consume ctx r)
    | (none, s) => .next ((s.onCtx ctx fun c => { c with tries := 0 }).push (.recordRepoll ctx))

/-- RECORD_REPOLL (R68, R69): a tail that has come down to Q_HEAD ends it; after the eighth read the queue is torn. -/
def execRecordRepoll (ctx : Nat) (s : State) : Out :=
  let c := s.ctxAt ctx
  if !c.waiting then .next (s.onCtx ctx fun c => { c with tries := 0 })
  else if s.launches.length ≥ 256 then .next (s.push (.recordRepoll ctx))
  else match s.readRecord ctx with
    | (some r, s) => .next (s.consume ctx r)
    | (none, s) =>
      if c.tries + 1 < 8 then .next ((s.onCtx ctx fun c => { c with tries := c.tries + 1 }).push (.recordRepoll ctx))
      else .next ((s.onCtx ctx fun c => { c with qStat := .torn, tries := 0 }).sendMsix c.errVec.toNat [])

/-- Whether requests from the host reach the device and are served (R80, R81). -/
def State.hostReaches (s : State) : Bool := s.pcieUp && !s.dev.hostFrozen

/-- QTAIL_WRITE (R68); its relaxed-ordering attribute bears on its place among the writes only (R70). -/
def execQtailWrite (ctx : Nat) (w : Posted Word) (s : State) : Out :=
  let c := s.ctxAt ctx
  let v := w.val
  if !s.hostReaches || ctx ≥ 64 then .next s
  else if !c.en || (v - c.qHead).toNat > 2 ^ c.qLog2.toNat then .next (s.onCtx ctx fun c => { c with dbBad := sat32 c.dbBad })
  else .next (s.onCtx ctx fun c => { c with tail := v, qStat := .running }).serveQueues

/-! ### The start (R72, R87, R109, R149, R161) -/

/-- Who the launch controller is when it reads and writes for a launch, from the host die (R20). It sits on no strand: a page that its own access takes
comes from the pools in the order of the launch's first core, whose die also translates for it (R29 names no strand for it: DESIGN CHOICE, log 64). -/
def Launch.controller (x : Launch) (l : Option Nat) : Who := ⟨x.lrec.cores.headD 0, x.ctx, l, true, 80⟩

/-- The first data of a launch: its first packet by the length in its header, or its parameter block (R72). A FIRST in a core window is read as
by the first core of the rectangle: DESIGN CHOICE, log 39. -/
def State.readFirst (s : State) (l : Nat) (x : Launch) : Access (List PByte) :=
  let w := x.controller (some l)
  if !x.lrec.task then s.readVa w x.lrec.first.toNat x.lrec.paramLen
  else
    Access.bind (s.readVa w x.lrec.first.toNat 32) fun h s =>
      let n := packetLen (plain h)
      if n ≤ 32 || n > 256 || (psnOf h).isSome then .ok (h, s)
      else Access.bind (s.readVa w (x.lrec.first.toNat + 32) (n - 32)) fun rest s => .ok (h ++ rest, s)

/-- A launch begins (R87, R90, R109): its hubs are empty, FIRST goes to hub 0, or its gangs wait for their cores. -/
def State.beginLaunch (s : State) (l : Nat) (x : Launch) (first : List Byte) : State :=
  let r := x.lrec
  let x := { x with
    phase := .running, first := first, toFree := [], hubs := r.dies.map (fun d => (d, ({ reach := r.reach } : HubBlock)))
    gangsLeft := if r.task then [] else List.range (2 ^ (r.log2w - r.glog2w) * 2 ^ (r.log2h - r.glog2h)) }
  let free := ((SMap.find? s.launches l).map (fun (x : Launch) => x.toFree)).getD []
  let s := free.foldl (fun (s : State) p => s.returnPage p.1 p.2) { s with launches := SMap.insert s.launches l x }
  let s := s.unhold (.launch l)
  if r.task then
    let s := s.push (.packetAccept (r.dies.headD 0) l .first first)
    if r.multi then s else s.push (.terminationWave l [])
  else x.gangsLeft.foldl (fun s g => s.push (.gangStart l g)) s

/-- The controller's fault before any code has run (R72, R146). -/
def State.startFault (s : State) (l : Nat) (cause : Cause) (val : DWord) (origin : Psn) : State :=
  (s.unhold (.launch l)).launchFault l cause (s.unitFault l cause 2 80 origin val)

/-- LAUNCH_FIRST_READ (R72, R130, R149): a replay starts from the copy. -/
def execLaunchFirstRead (l : Nat) (s : State) : Out :=
  match SMap.find? s.launches l with
  | none => .next s
  | some x =>
    let c := s.ctxAt x.ctx
    if x.phase != .accepted then .next s
    else if c.mgmtFrozen || c.frozen then .next (s.push (.launchFirstRead l))
    else if !x.first.isEmpty then .next (s.beginLaunch l x (x.first))
    else match s.readFirst l x with
      | .ok (bs, s) =>
        if (psnOf bs).isSome then .next (s.startFault l .poison x.lrec.first (some .eccUe)) else .next (s.beginLaunch l x (plain bs))
      | .error (.trap _ cause val o s') => .next (s'.startFault l (engineCause cause) val o)
      | .error (.tag ctx val s') => .next ((s'.unhold (.launch l)).tagFault ctx none val)
      | .error (.busy val s') => .next (s'.startFault l .shadowBusy val none)
      | .error (.paused s') => .next (s'.retry (.launchFirstRead l))
      | .error (.stall _ s') =>
        if s'.heldOut (.launch l) then .next (s'.startFault l .page x.lrec.first none) else .next (s'.holdOn (.launch l) (.launchFirstRead l))

/-! ### MSI-X (R77) -/

/-- One message for a vector covers every completion pending on it. -/
def State.fireVector (s : State) (v : Nat) (more : List Word) : State :=
  let old := (s.msix.find? (fun m => m.vector == v && !m.due)).map (fun m => m.covers)
  ({ s with msix := s.msix.filter (fun m => m.vector != v || m.due) } : State).sendMsix v (old.getD [] ++ more)

/-- A completion on a vector: at once, or within its window. -/
def State.completeOn (s : State) (v coalesce : Nat) (id : Word) : State :=
  if coalesce = 0 then s.fireVector v [id]
  else
    let e : DWord := s.dev.devTime + BitVec.ofNat 64 coalesce
    match s.msix.find? (fun m => m.vector == v && !m.due) with
    | some m =>
      let first := match m.expiry with
        | some e' => if e' ≤ e then e' else e
        | none => e
      { s with msix := s.msix.map (fun x => if x == m then { x with expiry := some first, covers := x.covers ++ [id] } else x) }
    | none => ({ s with msix := s.msix ++ [⟨v, some e, [id], false⟩] } : State).push (.msixCoalesceExpiry v)

/-- MSIX_COALESCE_EXPIRY (R77): while 256 messages are held for the release of the host interface, one more stays pending (R81). -/
def execMsixCoalesceExpiry (v : Nat) (s : State) : Out :=
  match (s.msix.find? (fun m => m.vector == v && !m.due)).bind (fun m => m.expiry) with
  | none => .next s
  | some e => if e ≤ s.dev.devTime && !(s.dev.hostFrozen && s.heldMsix.length ≥ 256) then .next (s.fireVector v []) else .next (s.push (.msixCoalesceExpiry v))

/-- MSIX_UNMASK (R77): a message that the mask held back is sent. -/
def execMsixUnmask (v : Nat) (s : State) : Out :=
  if !s.hostReaches || v ≥ 2048 then .next s
  else
    let s := { s with unmasked := if s.unmasked.contains v then s.unmasked else s.unmasked ++ [v] }
    match s.msix.find? (fun m => m.vector == v && m.due) with
    | some m => .next ({ s with msix := s.msix.filter (fun x => !(x == m)) }.sendMsix v m.covers)
    | none => .next s

/-! ### The report (R74 to R76, R81, R110, R148, R153) -/

/-- STATUS codes (R76). -/
def Status.code : Status → Nat
  | .ok => 0 | .badRecord => 1 | .badRect => 2 | .denied => 3 | .faulted => 4 | .aborted => 5 | .frozen => 6

/-- Whether a launch still drains: operations of it that reach other cores, devices or engines are on their way, or wait to leave a core (R110). -/
def State.draining (s : State) (l : Nat) (x : Launch) : Bool :=
  x.remotes != 0 || x.lrec.cores.any (fun c => let t := (s.coreAt c).t; t.lslot == l && !t.egress.isEmpty)
  || s.eqOps.any (fun o => o.lslot == l) || s.agenda.any (fun i => match i with
    | .packetAccept _ l' _ _ => l' == l
    | _ => false)

/-- Each shadow copy replaces its base page and goes back to its pool (R148, R179). -/
def State.commitShadows (s : State) (l : Nat) (x : Launch) : State :=
  let s := x.shadows.foldl (fun (s : State) (p : Nat × Nat) =>
    let big := p.1 % 2 == 1
    (s.copyPage p.2 (p.1 - p.1 % 2) (if big then 21 else 16)).returnPage p.2 big) s
  s.onLaunch l fun x => { x with shadows := [], shadowPending := [] }

/-- An element as the digest takes it (R153): NaNs of binary32 and binary16 in one form. -/
def digestElem (ty : Nat) (bs : List Byte) : List Byte :=
  let c := leNat bs
  if ty = 8 then (if bits c 30 23 = 255 ∧ bits c 22 0 ≠ 0 then leBytes 4 0x7FC00000 else bs)
  else if ty = 9 then (if bits c 14 10 = 31 ∧ bits c 9 0 ≠ 0 then leBytes 2 0x7E00 else bs)
  else bs

/-- Reads an object's elements in row-major order for the digest. -/
def State.digestElems (w : Who) (o : Obj) : List (Nat × Nat) → State → Access (List Byte)
  | [], s => .ok ([], s)
  | e :: es, s =>
    Access.bind (s.readVa w (o.base + BitVec.ofNat 64 (e.1 * o.rstride + e.2 * o.estride)).toNat o.size) fun bs s =>
      Access.bind (State.digestElems w o es s) fun rest s => .ok (digestElem o.type (plain bs) ++ rest, s)

/-- The elements of a peer-window object for the digest: what the peer holds is outside the device (log 62). -/
def State.peerElems (s : State) (o : Obj) : List Byte :=
  (List.range o.rows).flatMap fun i => (List.range o.cols).flatMap fun j =>
    digestElem o.type ((List.range o.size).map (fun b => Config.peerData s.tick o.oute (o.base.toNat + i * o.rstride + j * o.estride + b)))

/-- The message of the digest: every marked object in ascending index (R153). -/
def State.digestMessage (w : Who) (table : DWord) : List Nat → State → Access (List Byte)
  | [], s => .ok ([], s)
  | k :: ks, s =>
    Access.bind (s.readObj w table k) fun o s =>
      let own : Access (List Byte) := match o with
        | some o =>
          if !o.digest then .ok ([], s)
          else if o.peer then .ok (leBytes 4 k ++ leBytes 8 (o.rows * o.cols) ++ s.peerElems o, s)
          else
            let es := (List.range o.rows).flatMap (fun i => (List.range o.cols).map (fun j => (i, j)))
            Access.bind (State.digestElems w o es s) fun bs s => .ok (leBytes 4 k ++ leBytes 8 (o.rows * o.cols) ++ bs, s)
        | none => .ok ([], s)
      Access.bind own fun bs s =>
        Access.bind (State.digestMessage w table ks s) fun rest s => .ok (bs ++ rest, s)

/-- The 48 bytes of the digest: of the message at status OK, else zeros. -/
def State.digestOf (s : State) (w : Who) (x : Launch) : Access (List Byte) :=
  if x.status != .ok then .ok (List.replicate 48 0, s)
  else Access.bind (State.digestMessage w x.lrec.objAddr (List.range x.lrec.objCount) s) fun m s => .ok (Sha384.digest m, s)

/-- The 64 bytes of the completion record (R75). -/
def Launch.crec (x : Launch) : List Byte :=
  let w0 := x.lrec.launchId.toNat * 2 ^ 32 + x.status.code * 2 ^ 16 + (x.cause.map (fun (c : Cause) => c.code.toNat)).getD 0
  [w0, x.tasks, (x.tStart.getD x.tEnd).toNat, x.tEnd.toNat, pair x.faults.toNat x.reruns.toNat, x.flags.toNat, 0, 0].flatMap (fun v => leBytes 8 v)

/-- The 8 bytes of the notification (R75). -/
def Launch.note (x : Launch) : DWord :=
  BitVec.ofNat 64 (x.lrec.launchId.toNat * 2 ^ 32 + x.status.code * 2 ^ 16 + x.flags.toNat)

/-- CREC_LOST of a launch (R74). -/
def State.markLost (s : State) (l : Nat) : State := s.onLaunch l fun x => { x with flags := x.flags ||| 0x80#16 }

/-- A write of the record or the digest is dropped: one record is logged, and CREC_LOST is set (R74). -/
def State.crecLost (s : State) (l : Nat) (cause : Cause) (val : DWord) (origin : Psn) : State :=
  ((s.logFault (s.unitFault l cause 2 80 origin val)).countFault l cause).markLost l

/-- What a write of the report comes to: goes on, or waits for a page. A fault of a read that the digest needs drops the digest as a fault of its write does
(R74 speaks of the writes alone): DESIGN CHOICE, log 71. -/
def State.reportWrite (s : State) (l : Nat) (addr : DWord) (data : State → Access (List Byte)) (ok : State → State) : Except State State :=
  match SMap.find? s.launches l with
  | none => .ok s
  | some x =>
    let w := x.controller none
    match Access.bind (data s) (fun bs s => s.putBytes w addr.toNat (clean bs)) with
    | .ok (_, s) => .ok (ok s)
    | .error (.trap _ cause val o s') => .ok (s'.crecLost l (engineCause cause) val o)
    | .error (.busy val s') => .ok (s'.crecLost l .shadowBusy val none)
    | .error (.tag ctx val s') => .ok ((s'.markLost l).tagFault ctx none val)
    | .error (.paused s') => .error s'
    | .error (.stall _ s') => if s'.heldOut (.launch l) then .ok ((s'.unhold (.launch l)).crecLost l .page addr none) else .error s'

/-- Steps 1 and 2 of R74: the digest, then the record, as the launch stands then. A digest that has been written or dropped is not made again
when the record's write waits for a page. -/
def State.reportWrites (s : State) (l : Nat) (r : LaunchRec) (progress : Nat) : Except State State :=
  let one : Except State State :=
    if r.digest && progress < 2 then
      s.reportWrite l (r.crecAddr + 0x40) (fun s => match SMap.find? s.launches l with
          | some x => s.digestOf (x.controller none) x
          | none => .ok ([], s))
        (fun s => s.onLaunch l fun x => { x with flags := if x.status = .ok then x.flags ||| 0x40#16 else x.flags })
    else .ok s
  match one with
  | .error s => .error s
  | .ok s =>
    let s := s.onLaunch l fun x => { x with reported := 2 }
    if r.cmode = 1 then
      s.reportWrite l r.crecAddr (fun s => .ok (((SMap.find? s.launches l).map Launch.crec).getD [], s)) (fun s => s)
    else .ok s

/-- A slot freed (R69): pages go back, and the queues that waited are served. -/
def State.freeLaunch (s : State) (l : Nat) : State :=
  match SMap.find? s.launches l with
  | none => s
  | some x =>
    let s := ((s.leaveHubs l).purge l).unhold (.launch l)
    let s := (x.toFree ++ x.pages).foldl (fun (s : State) (p : Nat × Bool) => s.returnPage p.1 p.2) s
    let gone := fun (c : Core) => ({ c with left := SMap.erase c.left l } : Core)
    let s := { s with
      launches := SMap.erase s.launches l, core := gone s.core, parked := s.parked.map (fun (c : Nat × Core) => (c.1, gone c.2))
      hubs := s.hubs.map (fun (h : Nat × Hub) => (h.1, { h.2 with credit := SMap.erase h.2.credit l })) }
    s.serveQueues

/-- Steps 3 and 4 of R74; late: the report of a launch that the host interface has kept pending, whose message is sent at once (R81). -/
def State.tellHost (s : State) (x : Launch) (late : Bool := false) : State :=
  let s := if x.lrec.wakeAddr = 0 then s
    else if s.dev.hostFrozen then { s with heldNotes := s.heldNotes ++ [(x.lrec.wakeAddr, x.note)], heldOrder := s.heldOrder ++ [false] }
    else s.emit (.notify x.lrec.wakeAddr x.note)
  if x.lrec.vecEn then s.completeOn x.lrec.vector (if late then 0 else x.lrec.coalesce) x.lrec.launchId else s

/-- Whether the report of a launch must wait for the host interface (R81): a message whose window is open counts among those held. -/
def State.reportHeld (s : State) (x : Launch) : Bool :=
  s.dev.hostFrozen && (x.lrec.wakeAddr != 0 || x.lrec.vecEn)
  && (s.heldNotes.length ≥ 256 || s.heldMsix.length + (s.msix.filter (fun m => m.expiry.isSome)).length ≥ 256)

/-- LAUNCH_REPORT (R74, R81, R110, R148): after the drain. The self-test, which no context names, reports by its stage (R83). -/
def execLaunchReport (l : Nat) (s : State) : Out :=
  match SMap.find? s.launches l with
  | none => .next s
  | some x =>
    if x.phase != .draining then .next s
    else if x.ctx ≥ 64 then .next (s.freeLaunch l)
    else if s.draining l x then .next (s.push (.launchReport l))
    else
      let s := if x.reported = 0 then s.onLaunch l fun x => { x with tEnd := s.dev.devTime, reported := 1 } else s
      let s := if x.status = .ok && x.reported = 0 then s.commitShadows l x else s
      match s.reportWrites l x.lrec x.reported with
      | .error s => .next (s.holdOn (.launch l) (.launchReport l))
      | .ok s =>
        match SMap.find? s.launches l with
        | none => .next s
        | some x =>
          if s.reportHeld x then
            .next { s.onLaunch l (fun x => { x with phase := .heldReport }) with waitingReports := s.waitingReports ++ [l] }
          else .next ((s.tellHost x).freeLaunch l)

/-! ### Contexts (R66) -/

/-- CONTEXT_ENABLE (R32, R66, R84): a write of EN = 1 creates the context, with new keys. -/
def execContextEnable (ctx : Nat) (s : State) : Out :=
  if !s.hostReaches || s.dev.devState != 6 || ctx ≥ 64 || (s.ctxAt ctx).en then .next s
  else .next (s.onCtx ctx fun c => { c with en := true, qHead := 0, tail := 0, tries := 0, qStat := .running, keyGen := c.keyGen + 1 })

/-- The launches of a context. -/
def State.launchesOf (s : State) (ctx : Nat) : List Nat :=
  ((s.launches.filter (fun (x : Nat × Launch) => x.2.ctx == ctx)).map Prod.fst)

/-- Every launch of a context is aborted. -/
def State.abortContext (s : State) (ctx : Nat) : State :=
  (s.launchesOf ctx).foldl (fun (s : State) l => s.endLaunch l .aborted none) s

/-- CONTEXT_DISABLE (R66, R76): a write of EN = 0. -/
def execContextDisable (ctx : Nat) (s : State) : Out :=
  if !s.hostReaches || ctx ≥ 64 || !(s.ctxAt ctx).en || s.dev.devState != 6 then .next s
  else
    let s := s.onCtx ctx fun c => { c with en := false, qStat := .disabled, tries := 0 }
    let s := { s with agenda := s.agenda.filter (fun i => i != Instr.recordRepoll ctx && i != Instr.launchRecordConsume ctx) }
    .next (s.abortContext ctx)

/-- CONTEXT_FROZEN_CLEAR (R66). -/
def execContextFrozenClear (ctx : Nat) (s : State) : Out :=
  if !s.hostReaches || ctx ≥ 64 then .next s else .next (s.onCtx ctx fun c => { c with frozen := false })

end Sys2Proof.Machine
end

