-- ==== Sys2Proof/Machine/HostIf.lean ====
section
/-! DEFINITION. BAR 0 as the host reads and writes it (R64 to R66, R25, R36, R39, R51, R78, R79, R175, R177), and BAR 2, the inbound
windows (R78, R81, R148, R197). -/

namespace Sys2Proof.Machine

/-! ### Words of the status blocks -/

/-- STATE codes of a hop (R25). -/
def HopState.code : HopState → Nat
  | .up => 0 | .paused => 1 | .retraining => 2 | .degraded => 3 | .down => 4

/-- The status word of a hop or port (R25, R39). -/
def Hop.word (h : Hop) : DWord :=
  BitVec.ofNat 64 (h.retryCnt.toNat * 2 ^ 48 + h.crcCnt.toNat * 2 ^ 32 + h.winRetry.toNat * 2 ^ 16 + h.modsX8.toNat * 2 ^ 12
    + (if h.spareUsed then 2 ^ 8 else 0) + h.state.code)

/-- An Ethernet port's status block (R51). -/
def Eth.block (e : Eth) : List Nat :=
  [e.rxPkts.toNat, e.txPkts.toNat, pair e.unsupp.toNat e.stale.toNat, pair e.ecnCe.toNat e.pfcRx.toNat, (if e.up then 1 else 0), 0, 0, 0]

def b2n (b : Bool) (k : Nat) : Nat := if b then 2 ^ k else 0

/-- Q_STAT codes (R66). -/
def QStat.code : QStat → Nat
  | .running => 0 | .torn => 1 | .disabled => 2

/-- The doublewords of a context's entry (R66). -/
def Ctx.words (c : Ctx) : List Nat :=
  [b2n c.en 63 + b2n c.frozen 62 + b2n c.dlOk 61, c.ptRoot.toNat, c.qBase.toNat, c.qHead.toNat * 2 ^ 32 + c.qLog2.toNat,
   c.rx0.toNat * 2 ^ 11 + c.ry0.toNat * 2 ^ 6 + c.rlog2w.toNat * 2 ^ 3 + c.rlog2h.toNat, c.dbBad.toNat * 2 ^ 32 + c.qStat.code, c.errVec.toNat]

/-- The doublewords of an inbound window's entry (R78). -/
def InWin.words (w : InWin) : List Nat :=
  [w.vbase.toNat * 2 ^ 16 + b2n w.en 15 + b2n w.wr 14 + b2n w.rd 13 + w.ctx.toNat, w.reqId.toNat * 2 ^ 48 + w.len.toNat * 2 ^ 16 + w.err.toNat]

/-- The doublewords of an outbound window's entry (R79). -/
def OutWin.words (w : OutWin) : List Nat := [w.bus.toNat * 2 ^ 12 + b2n w.en 0, w.len.toNat, w.err.toNat]

/-- The doublewords of a strand's pool registers (R177). -/
def Pool.words (p : Pool) : List Nat :=
  [p.ring64.toNat, pair p.head64.toNat p.tail64.toNat, p.ring2m.toNat, pair p.head2m.toNat p.tail2m.toNat]

/-- A device register (R65, R175, R177). -/
def State.devWord (s : State) (off : Nat) : Nat :=
  let d := s.dev
  match off with
  | 0x000 => pair 1 (9 * 2 ^ 16 + Config.stepping.toNat)
  | 0x008 => b2n d.hostFrozen 16 + d.failCode.toNat * 2 ^ 8 + d.devState.toNat
  | 0x010 => d.devTime.toNat
  | 0x018 => d.powerCap.toNat
  | 0x020 => d.groupTab.toNat
  | 0x028 => s.launches.length
  | 0x030 => d.addrTab.toNat
  | 0x038 => Config.mac0.toNat
  | 0x040 => Config.mac1.toNat
  | 0x048 => b2n d.hridV 16 + d.hostRid.toNat
  | 0x200 => d.invVa.toNat
  | 0x208 => b2n d.invGo 7 + b2n d.invAll 6 + d.invCtx.toNat
  | 0x210 => d.leaked.toNat * 2 ^ 32 + d.lowVec.toNat * 2 ^ 16 + d.lowMark.toNat
  | off => if 0x100 ≤ off ∧ off < 0x200 then ((s.pools.toList.getD ((off - 0x100) / 0x20) {}).words).getD (off % 0x20 / 8) 0 else 0

/-- A doubleword of BAR 0 at an offset, a multiple of 8 (R64). -/
def State.bar0 (s : State) (off : Nat) : Nat :=
  if off < 0x1000 then s.devWord off
  else if 0x10000 ≤ off ∧ off < 0x102C8 then ((s.hops.toList.getD ((off - 0x10000) / 8) {}).word).toNat
  else if 0x20000 ≤ off ∧ off < 0x22000 then ((s.chans.toList.getD ((off - 0x20000) / 0x40) {}).block).getD (off % 0x40 / 8) 0
  else if 0x30000 ≤ off ∧ off < 0x30200 then ((s.port ((off - 0x30000) / 8)).link.word).toNat
  else if 0x30200 ≤ off ∧ off < 0x30280 then ((s.eths.toList.getD ((off - 0x30200) / 0x40) {}).block).getD (off % 0x40 / 8) 0
  else if 0x30400 ≤ off ∧ off < 0x30600 then (s.port ((off - 0x30400) / 8)).stale.toNat * 2 ^ 32
  else if 0x40000 ≤ off ∧ off < 0x44000 then ((s.ctxAt ((off - 0x40000) / 0x100)).words).getD (off % 0x100 / 8) 0
  else if 0x50000 ≤ off ∧ off < 0x50400 then ((s.inWins.toList.getD ((off - 0x50000) / 0x10) {}).words).getD (off % 0x10 / 8) 0
  else if 0x51000 ≤ off ∧ off < 0x51200 then ((s.outWins.toList.getD ((off - 0x51000) / 0x20) {}).words).getD (off % 0x20 / 8) 0
  else if 0x60000 ≤ off ∧ off < 0x61000 then leNat (Mem.read s.mailbox (off - 0x60000) 8)
  else 0

/-! ### Configuration space and BAR 4 (R63) -/

/-- Log2 of the size of a memory BAR, by the number of its 32-bit register (R63): none for a register that is no BAR's lower half. -/
def barSize (n : Nat) : Option Nat :=
  match n with
  | 0 => some 25
  | 2 => some 36
  | 4 => some 16
  | _ => none

/-- What BAR register n reads after a value has been written to it (R63): the address bits above the BAR's size, and in a lower half the kind, 64-bit, and
prefetchable for BAR 2. There is no I/O BAR. -/
def barWord (n : Nat) (written : Word) : Word :=
  match barSize n, barSize (n - 1) with
  | some k, _ => (if k < 32 then written >>> k <<< k else 0) ||| (if n = 2 then 0xC else 0x4)
  | none, some k => if n % 2 = 1 then (if k < 32 then written else written >>> (k - 32) <<< (k - 32)) else 0
  | none, none => 0

/-- A doubleword of 32 bits of the configuration space (R63), with the BAR registers as reset leaves them: the identity registers, the capability pointer and
the MSI-X capability, whose table of 2,048 entries and pending-bit array lie in BAR 4. The offsets are the standard's, and where the capability and the
array stand is the model's (log 63). -/
def configWord (off : Nat) : Word :=
  match off with
  | 0x00 => 0x00902B07
  | 0x04 => 0x00100000
  | 0x08 => 0x12000000#32 ||| (Config.stepping.zeroExtend 32 &&& 0xFF#32)
  | 0x10 => barWord 0 0
  | 0x14 => barWord 1 0
  | 0x18 => barWord 2 0
  | 0x1C => barWord 3 0
  | 0x20 => barWord 4 0
  | 0x24 => barWord 5 0
  | 0x2C => 0x00012B07
  | 0x34 => 0x40
  | 0x40 => 0x07FF0011
  | 0x44 => 0x00000004
  | 0x48 => 0x00008004
  | _ => 0

/-- The mask bit of a vector in the MSI-X table, and its bit of the pending-bit array (R63, R77). -/
def State.msixMasked (s : State) (v : Nat) : Bool := v < 2048 && !s.unmasked.contains v
def State.msixPending (s : State) (v : Nat) : Bool := s.msix.any (fun m => m.vector == v && m.due)

/-- A doubleword of BAR 4 at an offset, a multiple of 8 (R63): the table's entries of 16 bytes, address, data and the mask bit, then the pending bits. -/
def State.bar4 (s : State) (off : Nat) : Nat :=
  if off < 0x8000 then
    if off % 16 = 0 then leNat (Mem.read s.msixTab off 8) else pair (if s.msixMasked (off / 16) then 1 else 0) (leNat (Mem.read s.msixTab off 4))
  else if off < 0x8100 then (List.range 64).foldl (fun (n : Nat) b => n + if s.msixPending (8 * (off - 0x8000) + b) then 2 ^ b else 0) 0
  else 0

/-- A doubleword written to BAR 4 (R63, R77): an entry's address, or its data and mask bit; a vector whose mask bit is cleared sends what the mask held
back. The pending bits are read only. -/
def State.writeBar4 (s : State) (off : Nat) (v : DWord) : State :=
  let k := off / 16
  if off ≥ 0x8000 then s
  else if off % 16 = 0 then { s with msixTab := Mem.write s.msixTab off (leBytes 8 v.toNat) }
  else
    let s := { s with msixTab := Mem.write s.msixTab off (leBytes 4 v.toNat) }
    if v.getLsbD 32 then { s with unmasked := s.unmasked.filter (fun x => x != k) }
    else match execMsixUnmask k s with
      | .next s => s
      | _ => s

/-! ### Counters, pools, invalidation -/

/-- Bits of a counter word cleared by writing 1s. -/
def clear64 (x v : DWord) : DWord := x &&& ~~~v
def clear32 (x : Word) (v : Nat) : Word := x &&& ~~~(BitVec.ofNat 32 v)
def clear16 (x : BitVec 16) (v : Nat) : BitVec 16 := x &&& ~~~(BitVec.ofNat 16 v)

/-- RETRY_CNT and CRC_CNT of a hop or port cleared (R25, R39). -/
def Hop.clear (h : Hop) (v : DWord) : Hop :=
  { h with retryCnt := clear16 h.retryCnt (bits v.toNat 63 48), crcCnt := clear16 h.crcCnt (bits v.toNat 47 32) }

/-- Counters of an Ethernet port cleared (R51). -/
def Eth.clear (e : Eth) (k : Nat) (v : DWord) : Eth :=
  match k with
  | 0 => { e with rxPkts := clear64 e.rxPkts v }
  | 1 => { e with txPkts := clear64 e.txPkts v }
  | 2 => { e with unsupp := clear32 e.unsupp (bits v.toNat 63 32), stale := clear32 e.stale v.toNat }
  | 3 => { e with ecnCe := clear32 e.ecnCe (bits v.toNat 63 32), pfcRx := clear32 e.pfcRx v.toNat }
  | _ => e

/-- A write of 1s to a counter at a BAR 0 offset (R25, R51, R177). -/
def State.clearCounter (s : State) (off : Nat) (v : DWord) : State :=
  if h : 0x10000 ≤ off ∧ off < 0x102C8 then
    { s with hops := s.hops.set ((off - 0x10000) / 8) ((s.hops[(off - 0x10000) / 8]'(by omega)).clear v) (by omega) }
  else if 0x30000 ≤ off ∧ off < 0x30200 then s.onPort ((off - 0x30000) / 8) fun p => { p with link := p.link.clear v }
  else if 0x30200 ≤ off ∧ off < 0x30280 then s.onEth ((off - 0x30200) / 0x40) fun e => e.clear (off % 0x40 / 8) v
  else if 0x30400 ≤ off ∧ off < 0x30600 then
    s.onPort ((off - 0x30400) / 8) fun p => { p with stale := clear32 p.stale (bits v.toNat 63 32) }
  else if off = 0x210 then { s with dev := { s.dev with leaked := clear32 s.dev.leaked (bits v.toNat 63 32) } }
  else s

/-- COUNTER_CLEAR (R25, R51, R177). -/
def execCounterClear (off : Nat) (ones : DWord) (s : State) : Out :=
  .next (if s.hostReaches then s.clearCounter off ones else s)

/-- A change to a strand's pool. -/
def State.onPool (s : State) (k : Nat) (f : Pool → Pool) : State := if h : k < 8 then { s with pools := s.pools.set k (f s.pools[k]) h } else s

/-- POOL_TAIL_WRITE (R177): pages placed by the driver. -/
def execPoolTailWrite (k : Nat) (big : Bool) (tail : Word) (s : State) : Out :=
  .next (if s.hostReaches then s.onPool k fun p => if big then { p with tail2m := tail } else { p with tail64 := tail } else s)

/-- An invalidation starts (R175). -/
def State.startInv (s : State) : State :=
  if s.dev.invGo then s else ({ s with dev := { s.dev with invGo := true } } : State).push .invDone

/-- INV_GO (R175): a write of GO = 1. -/
def execInvGo (s : State) : Out := .next (if s.hostReaches then s.startInv else s)

/-- Addresses of device memory at which accesses of a core that have been translated are still to be performed (R175). -/
def Thread.translated (t : Thread) : List Nat :=
  let dev := fun (l : Loc) => match l with
    | .dev .. => true
    | _ => false
  (t.xlat.filter (fun x => dev x.loc)).map (fun x => x.va) ++ t.egress.flatMap (fun e => match e.op with
    | .load _ _ ps | .store ps _ => (ps.filter (fun p => dev p.1)).map (fun p => p.2.1)
    | .amo _ _ loc ea _ _ => if dev loc then [ea.toNat] else []
    | _ => [])

/-- INV_DONE (R175): every translation unit has dropped the matching entries, and every access translated through them has been performed;
an engine's is performed when it is translated. The page is that of the entries that match, or the 64 KiB around INV_VA. -/
def execInvDone (s : State) : Out :=
  let d := s.dev
  let hit := fun (e : TlbEntry) => e.ctx == d.invCtx.toNat && (d.invAll || d.invVa.toNat / 2 ^ e.log2 == e.vpage)
  let sizes := 16 :: s.tlbs.flatMap (fun (x : Nat × List TlbEntry) => (x.2.filter hit).map (fun e => e.log2))
  let open' := (s.core :: s.parked.map (fun (c : Nat × Core) => c.2)).any (fun c => c.t.ctx == d.invCtx.toNat
    && c.t.translated.any (fun va => d.invAll || sizes.any (fun n => va / 2 ^ n == d.invVa.toNat / 2 ^ n)))
  if !d.invGo then .next s
  else if open' then .next (s.push .invDone)
  else .next { s with
    tlbs := s.tlbs.map (fun (x : Nat × List TlbEntry) => (x.1, x.2.filter (fun e => !hit e))), dev := { d with invGo := false } }

/-! ### Register writes -/

/-- A device register written (R65, R175, R177). -/
def State.writeDev (s : State) (off : Nat) (v : DWord) : State :=
  let d := s.dev
  let n := v.toNat
  match off with
  | 0x018 => if 1200 ≤ bits n 15 0 ∧ bits n 15 0 ≤ 3600 then { s with dev := { d with powerCap := BitVec.ofNat 16 n } } else s
  | 0x020 => { s with dev := { d with groupTab := BitVec.ofNat 64 (n / 64 * 64) } }
  | 0x030 => { s with dev := { d with addrTab := BitVec.ofNat 64 (n / 4096 * 4096) } }
  | 0x048 => { s with dev := { d with hridV := v.getLsbD 16, hostRid := BitVec.ofNat 16 n } }
  | 0x200 => { s with dev := { d with invVa := v } }
  | 0x208 =>
    let s : State := { s with dev := { d with invAll := v.getLsbD 6, invCtx := BitVec.ofNat 6 n } }
    if v.getLsbD 7 then s.startInv else s
  | 0x210 => ({ s with dev := { d with lowVec := BitVec.ofNat 11 (n / 2 ^ 16), lowMark := BitVec.ofNat 16 n } } : State).clearCounter 0x210 v
  | off =>
    if 0x100 ≤ off ∧ off < 0x200 then
      s.onPool ((off - 0x100) / 0x20) fun p => match off % 0x20 with
        | 0x00 => { p with ring64 := BitVec.ofNat 64 (n / 4096 * 4096) }
        | 0x08 => { p with tail64 := BitVec.ofNat 32 n }
        | 0x10 => { p with ring2m := BitVec.ofNat 64 (n / 4096 * 4096) }
        | _ => { p with tail2m := BitVec.ofNat 32 n }
    else s

/-- Registers of a context's entry other than EN and FROZEN (R66): some change only while EN = 0. -/
def Ctx.write (c : Ctx) (k : Nat) (v : DWord) : Ctx :=
  let n := v.toNat
  match k with
  | 0 => { c with dlOk := v.getLsbD 61 }
  | 1 => if c.en then c else { c with ptRoot := BitVec.ofNat 64 (n / 4096 * 4096) }
  | 2 => if c.en then c else { c with qBase := BitVec.ofNat 64 (n / 4096 * 4096) }
  | 3 => if c.en || bits n 4 0 < 4 || bits n 4 0 > 16 then c else { c with qLog2 := BitVec.ofNat 5 n }
  | 4 => if c.en then c else { c with rx0 := BitVec.ofNat 5 (n / 2 ^ 11), ry0 := BitVec.ofNat 5 (n / 2 ^ 6)
                                      rlog2w := BitVec.ofNat 3 (n / 2 ^ 3), rlog2h := BitVec.ofNat 3 n }
  | 6 => { c with errVec := BitVec.ofNat 11 n }
  | _ => c

/-- An inbound window's entry written (R78): ERR is read only. -/
def InWin.put (w : InWin) (k : Nat) (v : DWord) : InWin :=
  let n := v.toNat
  if k = 0 then { w with vbase := BitVec.ofNat 48 (n / 2 ^ 16), en := v.getLsbD 15, wr := v.getLsbD 14, rd := v.getLsbD 13, ctx := BitVec.ofNat 6 n }
  else { w with reqId := BitVec.ofNat 16 (n / 2 ^ 48), len := BitVec.ofNat 15 (n / 2 ^ 16) }

/-- An outbound window's entry written (R79). -/
def OutWin.put (w : OutWin) (k : Nat) (v : DWord) : OutWin :=
  match k with
  | 0 => { w with bus := BitVec.ofNat 52 (v.toNat / 2 ^ 12), en := v.getLsbD 0 }
  | 1 => { w with len := BitVec.ofNat 32 v.toNat }
  | _ => w

def State.onInWin (s : State) (k : Nat) (f : InWin → InWin) : State :=
  if h : k < 64 then { s with inWins := s.inWins.set k (f s.inWins[k]) h } else s
def State.onOutWin (s : State) (k : Nat) (f : OutWin → OutWin) : State :=
  if h : k < 16 then { s with outWins := s.outWins.set k (f s.outWins[k]) h } else s

/-- The SHA-384 of each committed image, and that of the fuse state (R82). -/
def State.measurements (s : State) : List (List Byte) := s.fwImages.map Sha384.digest ++ [Config.fuseMeasure]

/-- The quote for the nonce in the mailbox stands there (R82). -/
def State.mailboxQuote (s : State) : State :=
  { s with mailbox := Mem.write s.mailbox 0x100 ((Config.quote (Mem.read s.mailbox 0 32) s.measurements).take 0xEF8) }

/-- ATTEST_MAILBOX_START (R82): a write of 1 to 0x0FF8 of the mailbox. -/
def execAttestMailboxStart (s : State) : Out := .next (if s.hostReaches then s.mailboxQuote else s)

/-- The state that an outcome leaves, or the state as it was. -/
def Out.stateOr (s : State) : Out → State
  | .next t => t
  | _ => s

/-- A write of word 0 of a context's entry: DL_OK, then FROZEN, then EN (R66). -/
def State.writeCtx0 (s : State) (c : Nat) (v : DWord) : State :=
  let s := s.onCtx c fun x => x.write 0 v
  let s := if v.getLsbD 62 then Out.stateOr s (execContextFrozenClear c s) else s
  Out.stateOr s (if v.getLsbD 63 then execContextEnable c s else execContextDisable c s)

/-- A doubleword written to BAR 0 at an offset, a multiple of 8 (R64). -/
def State.writeBar0 (s : State) (off : Nat) (v : DWord) : State :=
  if off < 0x1000 then s.writeDev off v
  else if 0x20000 ≤ off ∧ off < 0x22000 then
    if off % 0x40 = 0x28 ∧ 256 ≤ bits v.toNat 15 0 ∧ bits v.toNat 15 0 ≤ 32768 then
      s.onChan ((off - 0x20000) / 0x40) fun c => { c with actThr := BitVec.ofNat 16 v.toNat }
    else s
  else if 0x40000 ≤ off ∧ off < 0x44000 then
    let c := (off - 0x40000) / 0x100
    if off % 0x100 = 0 then s.writeCtx0 c v else s.onCtx c fun x => x.write (off % 0x100 / 8) v
  else if 0x50000 ≤ off ∧ off < 0x50400 then s.onInWin ((off - 0x50000) / 0x10) fun w => w.put (off % 0x10 / 8) v
  else if 0x51000 ≤ off ∧ off < 0x51200 then s.onOutWin ((off - 0x51000) / 0x20) fun w => w.put (off % 0x20 / 8) v
  else if 0x60000 ≤ off ∧ off < 0x61000 then
    let s : State := { s with mailbox := Mem.write s.mailbox (off - 0x60000) (leBytes 8 v.toNat) }
    if off = 0x60FF8 && v.getLsbD 0 then s.mailboxQuote else s
  else if 0x1000000 ≤ off ∧ off < 0x1400000 then
    if off % 0x10000 = 0 then Out.stateOr s (execQtailWrite ((off - 0x1000000) / 0x10000) ⟨BitVec.ofNat 32 v.toNat, false⟩ s) else s
  else s.clearCounter off v

/-- REGISTER_WRITE (R63 to R66): a doubleword of BAR 0, or, by an offset past BAR 0's 32 MiB, of BAR 4 (the numbering is the model's, log 63); a request
that does not reach a served host interface changes nothing (R80, R81). Its relaxed-ordering attribute bears on its place among the writes only (R70). -/
def execRegisterWrite (off : Nat) (v : Posted DWord) (s : State) : Out :=
  .next (if s.hostReaches && off % 8 == 0 then (if off < 2 ^ 25 then s.writeBar0 off v.val else s.writeBar4 (off - 2 ^ 25) v.val) else s)

/-! ### Inbound windows (R78) -/

/-- Who makes an inbound access: the host die, whose place on the trunk is that of a ninth strand (R20, R21). A page that such an access needs comes
from the pools in the order of trunk hops from the host die, strand 0 before strand 7: R29 names no strand for it, DESIGN CHOICE, log 64. -/
def hostWho (ctx : Nat) : Who := ⟨1024, ctx, none, true, 80⟩

/-- Whether a requester is the host's root port (R78). -/
def State.fromHost (s : State) (req : Nat) : Bool := s.dev.hridV && s.dev.hostRid.toNat == req

/-- Whether a window refuses a request (R78). -/
def InWin.refuses (w : InWin) (req off : Nat) (write : Bool) : Bool :=
  !w.en || w.reqId.toNat != req || w.len.toNat = 0 || w.len.toNat > 16384 || off ≥ w.len.toNat * 65536 || !(if write then w.wr else w.rd)

def satInc16 (x : BitVec 16) : BitVec 16 := BitVec.ofNat 16 (satAdd 16 x.toNat 1)

/-- What a refused request does (R78, R81): the host's freezes the host interface; a peer's is counted and clears EN. -/
def State.refuseIn (s : State) (req k : Nat) : State :=
  if s.fromHost req then { s with dev := { s.dev with hostFrozen := true } }
  else s.onInWin k fun w => { w with err := satInc16 w.err, en := false }

/-- The places of an inbound access: no window of the cores, no leaf of KIND 3 (R78). -/
def State.inPlaces (s : State) (w : Who) (r : Right) (va n : Nat) : Access (List (Loc × Nat × Nat)) :=
  if va + n > 0xFF000000000000 then .error (.trap 4 .page (BitVec.ofNat 64 va) none s)
  else
    Access.bind (State.resolveAll w r (pieces n va n) s) fun ps s =>
      if ps.any (fun p => match p.1 with
        | .dev _ _ kind => kind == 3
        | _ => true) then .error (.trap 4 .page (BitVec.ofNat 64 va) none s)
      else .ok (ps, s)

/-- A request to BAR 2: refused, failed with what its failure leaves, held until a page is placed, or made. -/
def State.inbound {α : Type} (s : State) (req off : Nat) (write : Bool) (again : Instr) (run : Who → Nat → Access α)
    (abort : State → State) (done : α → State → State) : Out :=
  let k := off / 2 ^ 30
  let w : InWin := if h : k < 64 then s.inWins[k] else {}
  if !s.pcieUp then .next s
  else if s.dev.hostFrozen && s.fromHost req then .next (abort s)
  else if w.refuses req (off % 2 ^ 30) write then .next (abort (s.refuseIn req k))
  else
    let miss := fun (s : State) => abort ((s.unhold .host).onInWin k fun w => { w with err := satInc16 w.err })
    match run (hostWho w.ctx.toNat) (w.vbase.toNat * 65536 + off % 2 ^ 30) with
    | .ok (x, s) => .next (done x (s.unhold .host))
    | .error (.tag ctx val s') => .next (abort ((s'.unhold .host).tagFault ctx none val))
    | .error (.stall _ s') => if s'.heldOut .host then .next (miss s') else .next (s'.holdOn .host again)
    | .error (.paused s') => .next (s'.retry again)
    | .error e => .next (miss e.state)

/-- INBOUND_READ (R78, R81): data, with EP set when a sector is uncorrectable; or Completer Abort. -/
def execInboundRead (req off len : Nat) (s : State) : Out :=
  s.inbound req off false (.inboundRead req off len)
    (fun w va => Access.bind (s.inPlaces w .rd va len) fun ps s => State.readAll ps s)
    (fun s => s.emit (.completerAbort req)) (fun bs s => s.emit (.completion req (plain bs) (psnOf bs).isSome))

/-- INBOUND_WRITE (R70, R78, R81, R148): performed on the base page, or dropped. Its relaxed-ordering attribute bears on its place among the writes only
(R70). -/
def execInboundWrite (req off : Nat) (bytes : Posted (List Byte)) (s : State) : Out :=
  s.inbound req off true (.inboundWrite req off bytes)
    (fun w va => Access.bind (s.inPlaces w .w va bytes.val.length) fun ps s => State.writeAll w ps (clean bytes.val) s)
    (fun s => s) (fun _ s => s)

/-- INBOUND_ATOMICOP (R197): Unsupported Request; while the host interface is frozen a request of the host is aborted (R81). -/
def execInboundAtomicop (req _off : Nat) (s : State) : Out :=
  if !s.pcieUp then .next s
  else .next (s.emit (if s.dev.hostFrozen && s.fromHost req then .completerAbort req else .unsupportedRequest req))

end Sys2Proof.Machine
end

