-- ==== Sys2Proof/Machine/Sync.lean ====
section
/-! DEFINITION. Timelines (R353), barriers (R186, R354, R355) and buffer rings (R187, R356). -/

namespace Sys2Proof

/-- Width and height of a rectangle in cores. -/
def Rect.w (r : Rect) : Nat := 2 ^ r.log2w.toNat
def Rect.h (r : Rect) : Nat := 2 ^ r.log2h.toNat

/-- Whether a rectangle is aligned and within sides of 32 (R86). -/
def Rect.aligned (r : Rect) : Bool :=
  r.log2w.toNat ≤ 5 && r.log2h.toNat ≤ 5 && r.x0.toNat % r.w == 0 && r.y0.toNat % r.h == 0

/-- Whether a rectangle lies inside a launch's (R86). -/
def Rect.inside (r : Rect) (l : Machine.LaunchRec) : Bool :=
  l.x0 ≤ r.x0.toNat && r.x0.toNat + r.w ≤ l.x0 + 2 ^ l.log2w && l.y0 ≤ r.y0.toNat && r.y0.toNat + r.h ≤ l.y0 + 2 ^ l.log2h

/-- Whether a rectangle contains a core. -/
def Rect.has (r : Rect) (cid : Nat) : Bool := Machine.inRect r.x0.toNat r.y0.toNat r.log2w.toNat r.log2h.toNat cid

/-- The cores of a rectangle, and its home (R186). -/
def Rect.cores (r : Rect) : List Nat :=
  (List.range r.h).flatMap (fun j => (List.range r.w).map (fun i => Machine.cidOf (r.x0.toNat + i) (r.y0.toNat + j)))

end Sys2Proof

namespace Sys2Proof.Machine

/-! ### Timelines (R353) -/

/-- A timeline number. -/
def tlIx (t : BitVec 3) : Fin 8 := ⟨t.toNat, t.isLt⟩

/-- WAITTL (R353). -/
def execWaittl (t : BitVec 3) (a : BitVec 6) (s : State) : Out :=
  let x := s.srcM a
  let l := s.core.t.tl[tlIx t]
  s.checked [x.psn] <|
    if t.toNat ≤ 5 ∧ l.issued < x.val.toNat then s.trap 1 .illegal x.val
    else if x.val.toNat ≤ l.val then .next s
    else s.wait .waittl

/-- TLGET (R353): the timeline as it stands at the check stage, at +2. -/
def execTlget (t : BitVec 3) (d : BitVec 6) (s : State) : Out := .next (s.later 2 (.tlRead d (tlIx t)))

/-- TLBUMP (R353): a raise of tl6 or tl7 made at the check stage. -/
def execTlbump (t : BitVec 3) (a : BitVec 6) (s : State) : Out :=
  let x := s.srcM a
  s.checked [x.psn] (.next (if s.core.t.egressClear then s.later 2 (.tlRaise (tlIx t) x.val.toNat) else s.leave false (.bump (tlIx t) x.val.toNat)))

/-! ### Barriers (R354, R355) -/

/-- A rectangle from BARI's operand (R354). -/
def rectOf (v : Nat) : Rect :=
  ⟨BitVec.ofNat 5 (bits v 17 13), BitVec.ofNat 5 (bits v 12 8), BitVec.ofNat 3 (bits v 5 3), BitVec.ofNat 3 (bits v 2 0)⟩


/-- BARI (R355). -/
def execBari (b : BitVec 7) (a : BitVec 6) (s : State) : Out :=
  let x := s.srcM a
  let v := x.val.low.toNat
  let r := rectOf v
  s.checked [x.psn] <|
    if bits v 31 18 != 0 || bits v 7 6 != 0 || !r.aligned || !r.inside s.lrec || !r.has s.core.cid then
      s.trap 1 .illegal x.val.low.zext
    else
      let old := s.core.t.bar b
      if old.valid && old.rect == r then .next s
      else .next (s.mapT fun t => t.setBar b { rect := r, valid := true })

/-- BARA (R355): the pending bit is set, and one arrival goes to the home, once every earlier access has been performed (R194). -/
def execBara (b : BitVec 7) (s : State) : Out :=
  let x := s.core.t.bar b
  if !x.valid || x.pending then s.trap 1 .illegal (b.zeroExtend 64)
  else
    let s := s.mapT fun t => t.setBar b { x with pending := true }
    .next (if s.core.t.egressClear then s.push (.barrierArrival ⟨s.core.cid, homeOf x.rect⟩ s.core.t.lslot b.toNat x.rect)
           else s.leave false (.arrive b.toNat x.rect))

/-- BARW (R355). -/
def execBarw (b : BitVec 7) (s : State) : Out :=
  let x := s.core.t.bar b
  if !x.valid then s.trap 1 .illegal (b.zeroExtend 64)
  else if x.pending then s.wait .barw
  else .next s

/-- BARRIER_ARRIVAL (R186, R355): counted against the rectangle of the home's own copy, else discarded; the last arrival of a phase
sends the new phase to every participant. The core that arrived bears on the arrival's way only (R26). -/
def execBarrierArrival (way : Passage) (l bar : Nat) (rect : Rect) (s : State) : Out :=
  let home := way.dst
  let b := BitVec.ofNat 7 bar
  match (s.coreAt home).contextOf l with
  | none => .next s
  | some t =>
    let x := t.bar b
    if !x.valid || x.rect != rect then .next s
    else if x.arrived + 1 < rect.w * rect.h then
      .next (s.onContext home l fun t => t.setBar b { x with arrived := x.arrived + 1 })
    else
      let s := s.onContext home l fun t => t.setBar b { x with arrived := 0, phase := x.phase + 1 }
      .next (rect.cores.foldl (fun s c => s.push (.barrierPhaseDelivery c l bar (x.phase + 1))) s)

/-- BARRIER_PHASE_DELIVERY (R355): the copy takes the phase, its pending bit is cleared and EV is set. -/
def execBarrierPhaseDelivery (cid l bar : Nat) (phase : BitVec 16) (s : State) : Out :=
  let b := BitVec.ofNat 7 bar
  .next (s.onContext cid l fun t =>
    if (t.bar b).valid then { t.setBar b { t.bar b with phase := phase, pending := false } with ev := true } else t)

/-! ### Buffer rings (R187, R356) -/

/-- A ring descriptor as its 16 bytes hold it (R187). -/
structure Ring where
  base : DWord
  bsize : Nat
  nbuf : Nat
  pidx : Nat
  cidx : Nat
  nfull : Nat
  nheld : Nat
  psn : Psn
  deriving DecidableEq, Repr

/-- The L2 offset of a descriptor (R168, R187). -/
def ringOff (r : Nat) : Nat := 0x7FFC00 + 16 * r

/-- A descriptor read from its L2 pad. -/
def Pad.ring (p : Pad) (r : Nat) : Ring :=
  let b := pvalue (p.readP (ringOff r) 8)
  let w := pvalue (p.readP (ringOff r + 8) 8)
  let v := w.val.toNat
  { base := b.val, bsize := bits v 63 40, nbuf := bits v 39 32, pidx := bits v 31 24, cidx := bits v 23 16,
    nfull := bits v 15 8, nheld := bits v 7 0, psn := b.psn.or w.psn }

/-- The hardware fields of a descriptor written back. -/
def Pad.setRing (p : Pad) (r : Nat) (x : Ring) : Pad :=
  { p with bytes := Mem.write p.bytes (ringOff r + 8) (leBytes 4 (x.nheld % 256 + x.nfull % 256 * 2 ^ 8 + x.cidx % 256 * 2 ^ 16 + x.pidx % 256 * 2 ^ 24)) }

/-- The bank's test and update for an RACQ: the descriptor after it and the buffer's address, or none while the test fails (R356). -/
def Ring.acquire (x : Ring) (consumer : Bool) : Option (Ring × DWord) :=
  let addr := fun (i : Nat) => x.base + BitVec.ofNat 64 (64 * x.bsize * i)
  if consumer then
    if x.nfull > 0 then some ({ x with nfull := x.nfull - 1, nheld := x.nheld + 1, cidx := (x.cidx + 1) % x.nbuf }, addr x.cidx)
    else none
  else if x.nfull + x.nheld < x.nbuf then
    some ({ x with nheld := x.nheld + 1, pidx := (x.pidx + 1) % x.nbuf }, addr x.pidx)
  else none

/-- An RREL (R356). -/
def Ring.release (x : Ring) (consumer : Bool) : Ring :=
  if x.nheld = 0 then x
  else { x with nheld := x.nheld - 1, nfull := if consumer then x.nfull else x.nfull + 1 }

/-- The own cluster's L2 pad as the moving core's work reaches it: zeroed first after another context (R161). -/
def State.atBank (s : State) : State := s.serve s.core.t.ctx (.l2 (clusterOf s.core.cid) 0)

/-- The own cluster's ring. -/
def State.ring (s : State) (r : BitVec 6) : Ring := (s.l2At (clusterOf s.core.cid)).ring r.toNat

/-- RACQ (R356): held until the bank answers; then it issues and its result is written 2 cycles later. The request leaves behind what waits
to leave the core (R194). -/
def execRacq (r : BitVec 6) (side : BitVec 1) (d : BitVec 6) (s : State) : Out :=
  let s := s.atBank
  match s.core.t.ring with
  | some (.granted _ a) => .next ((s.mapT fun t => { t with ring := none }).later 2 (.mResult d a a.val))
  | some (.asked ..) => s.wait .racq
  | none =>
    if (s.ring r).nbuf = 0 then s.trap 1 .illegal (r.zeroExtend 64)
    else if !s.core.t.egressClear then s.wait .racq
    else ((s.mapT fun t => { t with ring := some (.asked r.toNat (side == 1) s.tick) }).push (.ringUpdate s.core.cid)).wait .racq

/-- The bank's update for an RREL of the moving core: EV is set in every core of the cluster (R292, R356). -/
def State.releaseRing (s : State) (r : Nat) (consumer : Bool) : State :=
  let cl := clusterOf s.core.cid
  let s := s.atBank
  let s := { s with l2 := SMap.insert s.l2 cl ((s.l2At cl).setRing r (((s.l2At cl).ring r).release consumer)) }
  (clusterCores cl).foldl (fun s c => s.setEv c) s

/-- RREL (R356): it leaves once every earlier access has been performed (R194). -/
def execRrel (r : BitVec 6) (side : BitVec 1) (s : State) : Out :=
  let s := s.atBank
  if (s.ring r).nbuf = 0 then s.trap 1 .illegal (r.zeroExtend 64)
  else .next (if s.core.t.egressClear then s.releaseRing r.toNat (side == 1) else s.leave false (.release r.toNat (side == 1)))

/-- RINFO (R356). -/
def execRinfo (r : BitVec 6) (d : BitVec 6) (s : State) : Out :=
  let s := s.atBank
  let x := s.ring r
  let v : Word := BitVec.ofNat 32 (x.pidx * 2 ^ 24 + x.cidx * 2 ^ 16 + x.nfull * 2 ^ 8 + x.nheld)
  .next (s.later 2 (.mResult d ⟨v.sext, x.psn⟩ v.sext))

/-- The request that a core has at its L2 bank for a ring and side: when it arrived. -/
def Core.asks (c : Core) (ring : Nat) (side : Bool) : Option Nat :=
  match c.t.ring with
  | some (.asked r sd at') => if r = ring && sd == side && c.t.hold == some .racq then some at' else none
  | _ => none

/-- The core of a cluster whose request for a ring and side arrived first. -/
def State.firstAsker (s : State) (cl ring : Nat) (side : Bool) : Option Nat :=
  ((clusterCores cl).foldl (fun (best : Option (Nat × Nat)) c =>
    match (s.coreAt c).asks ring side, best with
    | some a, some (b, k) => if a < b then some (a, c) else some (b, k)
    | some a, none => some (a, c)
    | none, best => best) none).map (fun x => x.2)

/-- RING_UPDATE (R356): the bank tests for the request that came first; while the test fails, or the core's own request still
stands, the test is due again. -/
def execRingUpdate (cid : Nat) (s : State) : Out :=
  match (s.coreAt cid).t.ring with
  | some (.asked r side _) =>
    let cl := clusterOf cid
    let s := s.serve (s.coreAt cid).t.ctx (.l2 cl 0)
    match s.firstAsker cl r side with
    | none => .next s
    | some first =>
      match ((s.l2At cl).ring r).acquire side with
      | none => .next (s.push (.ringUpdate cid))
      | some (x, a) =>
        let s := { s with l2 := SMap.insert s.l2 cl ((s.l2At cl).setRing r x) }
        let s := s.onCore first fun c => { c with t := { c.t with ring := some (.granted r ⟨a, x.psn⟩) } }
        .next (if first = cid then s else s.push (.ringUpdate cid))
  | _ => .next s

end Sys2Proof.Machine
end

