-- ==== Sys2Proof/Machine/Tasks.lean ====
section
/-! DEFINITION. The tasks instructions (R357 to R360), the acceptance of packets by a hub (R93), and the TASK channel (R42, R50, R53). -/

namespace Sys2Proof.Machine

/-! ### Acceptance -/

/-- A packet checked and, if it passes, accepted with its handle; or the cause with which it is refused (R93, R121, R358, R360). idx: the nest indices of a
child that another device has given (log 70). -/
def State.hubAccept (s : State) (l die : Nat) (kinds : List Nat) (noRegions : Bool) (cseq : Option Word) (src : Option Nat) (bs : List Byte)
    (idx : List Word := []) : Access (Except Cause Word) :=
  Access.bind (s.checkPacket l die kinds bs) fun r s =>
    match r with
    | none => .ok (.error .badPacket, s)
    | some (k, rs) =>
      if noRegions && !rs.isEmpty then .ok (.error .badPacket, s)
      else
        let c := match cseq with
          | some c => (c, s)
          | none => s.nextCseq src
        .ok (c.2.acceptTask l die { k with idx := idx } rs c.1 src)

/-- A packet over the TASK channel or the fabric has been accepted, refused or discarded: its slot at the port is free again, and the
issuer has its answer (R42, R362). -/
def State.packetEnd (s : State) (hdr : RemoteHdr) (port : Option Nat) (l fate : Nat) : State :=
  match port with
  | none => s.answer true hdr.sender l hdr.ack fate
  | some d => (s.emit (.credit d)).answer false hdr.sender l hdr.ack fate

/-- PACKET_ACCEPT (R93, R360). -/
def execPacketAccept (die l : Nat) (arr : Arrival) (pkt : List (BitVec 8)) (s : State) : Out :=
  let again : Instr := .packetAccept die l arr pkt
  let go := fun (kinds : List Nat) (noRegions : Bool) (cseq : Option Word) (src : Option Nat) (idx : List Word)
      (yes : Word → State → State) (no : Cause → State → State) =>
    match s.hubAccept l die kinds noRegions cseq src pkt idx with
    | .ok (.ok h, s) => Host.Outcome.next (yes h (s.unhold (.launch l)))
    | .ok (.error c, s) => .next (no c (s.unhold (.launch l)))
    | .error e => State.hubStop l die again e
  let bad := fun (c : Cause) (s : State) => s.hubFault l die c 0
  match arr with
  | .first => go [0, 2] false (some 0) none [] (fun _ s => s) bad
  | .push cid cseq ret => go [0] false (some cseq) (some cid) [] (fun h s => match ret with
      | some (id) => (s.onCore cid fun c => { c with t := c.t.fillLand id ⟨h.sext, none⟩ }).push (.landingDataReturn cid id)
      | none => s) bad
  | .nest cid cseq => go [2] false (some cseq) (some cid) [] (fun _ s => s) bad
  | .remote hdr port =>
    if (s.recOf l).dies.contains die then
      go [0] port.isSome none (if port.isSome then none else hdr.ack.map (fun a => a.1)) hdr.idx
        (fun _ s => s.packetEnd hdr port l Fate.ok) (fun c s => bad c (s.packetEnd hdr port l Fate.refused))
    else .next (bad .badPacket (s.packetEnd hdr port l Fate.refused))

/-! ### WLPUSH, WLNEST, WLFLOOR, TSUCC (R357 to R359) -/

/-- The packet that an a register names in the own L1 (R357); its header names its length. more: the poison of the word's other sources,
which is tested before any trap of a value (R165). -/
def State.packetAt (s : State) (b : BitVec 4) (more : List Psn) (k : DWord → List Byte → Out) : Out :=
  let a := s.srcA b
  if s.core.t.gang then s.trap 1 .illegal 0
  else s.checked (a.psn :: more) <|
    if a.val.toNat % 32 != 0 then s.trap 3 .align a.val
    else match ownOff a.val with
      | none => s.trap 3 .page a.val
      | some off =>
        let head := s.core.l1.readP off 8
        let n := packetLen (plain head)
        let n := if n = 0 || n > 256 then 32 else n
        s.checked [psnOf head] <|
          if off + n > 2 ^ 21 then s.trap 3 .page a.val
          else
            let bs := s.core.l1.readP off n
            s.checked [psnOf bs] (k a.val (plain bs))

/-- Goes on after a step that may have ended the launch: the bundle ends with the work of its core. -/
def State.goOn (s : State) (k : State → Out) : Out := if s.core.t.mode = .run then k s else .next (s.note 4 .hubErr 0)

/-- A packet of the moving core handed to its hub once every earlier access has been performed (R358). -/
def State.pushPacket (s : State) (kinds : List Nat) (a : DWord) (bs : List Byte) (k : Word → State → Out) : Out :=
  let cid := s.core.cid
  let die := dieOf cid
  let l := s.core.t.lslot
  match s.hubAccept l die kinds false none (some cid) bs with
  | .ok (.ok h, s) => s.noRerun.goOn (k h)
  | .ok (.error .badPacket, s) => s.trap 5 .badPacket a
  | .ok (.error c, s) => .next ((s.note 4 .hubErr 0).hubFault l die c 0)
  | .error (.trap _ cause val o s') => .next ((s'.note 4 .page val).hubFault l die (engineCause cause) val o)
  | .error (.tag ctx val s') => .next ((s'.note 4 .tag val).tagFault ctx none val)
  | .error e => s.engineHeld a e

/-- Whether no packet of the moving core still waits at its hub: those of one core enter in the order of their numbers (R100). -/
def State.hubClear (s : State) : Bool :=
  !s.agenda.any (fun i => match i with
    | .packetAccept _ _ (.push cid _ _) _ | .packetAccept _ _ (.nest cid _) _ => cid == s.core.cid
    | _ => false)

/-- Whether packets of the moving core may be handed to its hub at once (R194). -/
def State.pushClear (s : State) : Bool := s.core.t.egressClear && s.hubClear

/-- WLPUSH (R358): the handle lands in s(D). A packet that something before it holds back is handed to the hub later (R194). -/
def execWlpush (d : BitVec 5) (b : BitVec 4) (l : BitVec 10) (s : State) : Out :=
  s.slotFree <| s.packetAt b [] fun a bs =>
    if s.pushClear then s.pushPacket [0] a bs fun h s => .next (s.land d l.toNat (some ⟨h.sext, none⟩) false)
    else .next ((s.noRerun.land d l.toNat none false).leave false (.push (some s.core.t.landId) bs))

/-- WLNEST (R359). -/
def execWlnest (b : BitVec 4) (s : State) : Out :=
  s.packetAt b [] fun a bs =>
    if s.pushClear then s.pushPacket [2] a bs fun _ s => .next s else .next (s.noRerun.leave false (.push none bs))

/-- WLFLOOR (R359): FLOOR of the own hub; 0 in a gang launch. -/
def execWlfloor (d : BitVec 5) (l : BitVec 10) (s : State) : Out :=
  let v : Word := if s.core.t.gang then 0 else BitVec.ofNat 32 (s.block s.core.t.lslot (dieOf s.core.cid)).fc
  s.slotFree (.next (s.land d l.toNat (some ⟨v.sext, none⟩) false))

/-- TSUCC (R359). -/
def execTsucc (r : BitVec 5) (s : State) : Out :=
  let x := s.srcS r
  if s.core.t.gang then s.trap 1 .illegal 0
  else s.checked [x.psn] <|
    if s.core.t.task.succ.length ≥ 7 then s.trap 1 .illegal x.val.zext
    else .next (s.mapT fun t => { t with task := { t.task with succ := t.task.succ ++ [x.val] } })

/-! ### WLPUSHR and the TASK channel (R42, R50, R53, R360) -/

/-- A packet waits at a line; behind 256 others it lies in a spill page of the sending die's hub (R42, R360). -/
def State.queuePacket (s : State) (d : Nat) (p : OutPacket) : State :=
  let q := (s.taskLine d).queue
  let s := s.onLaunch p.lslot fun x => { x with sent := x.sent + 1 }
  if q.length < 256 then (s.onLine d fun l => { l with queue := l.queue ++ [p] }).pushOnce (.taskPacketSend d)
  else match s.spillRecord p.lslot p.die (farQueue + 2 + d) p.pkt with
    | (none, s) => s.hubFault p.lslot p.die .wlSpill 0
    | (some pa, s) => s.onLine d fun l => { l with queue := l.queue ++ [{ p with page := some pa }] }

/-- A packet for another hub leaves the core (R360, R362). -/
def State.sendPushr (s : State) (hdr : RemoteHdr) (member : Nat) (bs : List Byte) (l cid : Nat) : State :=
  let s := s.undelivered cid l
  if member = hdr.sender then s.push (.packetAccept hdr.die l (.remote hdr none) bs)
  else
    let to' := s.lineTo hdr.sender member (s.coreAt cid).t.ctx
    match to'.1 with
    | none => to'.2.answer true hdr.sender l hdr.ack Fate.unreachable
    | some d => to'.2.queuePacket d { hdr := hdr, member := member, lslot := l, pkt := bs, die := dieOf cid }

/-- WLPUSHR (R360): it leaves once every earlier access has been performed (R196: class REM). -/
def execWlpushr (k : BitVec 1) (b : BitVec 4) (z : BitVec 5) (s : State) : Out :=
  let x := s.srcS z
  s.packetAt b [x.psn] fun _ bs =>
    let v := x.val.toNat
    let ack := k == 1
    let member := bits v 17 0
    let die := bits v 23 18
    let g := s.selfOf s.lrec.group
    let w := g.2.viewOf s.lrec.group
    let s := w.2
    if bits v 31 24 != 0 || !s.mayName member g.1 then s.trap 1 .illegal x.val.zext
    else if s.core.t.tl4Full ack then s.trap 1 .illegal 33
    else
      let r := s.startRemote ack
      let hdr : RemoteHdr := { sender := g.1, group := s.lrec.group, view := w.1, die := die, ack := some (s.core.cid, r.2) }
      .next (r.1.leave false (.pushr hdr member bs))

/-- TASK_PACKET_SEND (R42): the first packet leaves against a credit; the first of those in spill pages takes its place. -/
def execTaskPacketSend (d : Nat) (s : State) : Out :=
  let x := s.taskLine d
  match x.queue with
  | [] => .next s
  | p :: rest =>
    if x.credits = 0 then .next s
    else
      let up := (rest[255]?).bind (fun q => q.page.map (fun pa => (q, pa)))
      let rest' := match up with
        | some (q, _) => rest.set 255 { q with page := none }
        | none => rest
      let s := s.onLine d fun l => { l with credits := l.credits - 1, queue := rest', flying := l.flying ++ [{ p with page := none }], sent := l.sent + 1 }
      let s := match up with
        | some (q, pa) => s.unspill q.lslot q.die pa
        | none => s
      let s := (s.emit (.taskPacket d p)).carry d p.pkt
      .next (if rest.isEmpty then s else s.pushOnce (.taskPacketSend d))

/-- TASK_CREDIT_RETURN (R42): the acceptance of a packet of a launch is heard; a task that was given away by it is no longer present
here, and counts as retired (R126). -/
def execTaskCreditReturn (d l : Nat) (s : State) : Out :=
  let x := s.taskLine d
  match x.flying.find? (fun p => p.lslot == l) with
  | none => .next s
  | some p =>
    let s := s.onLine d fun t => { t with credits := t.credits + 1, flying := t.flying.erase p, heard := t.heard + 1 }
    let s := s.onLaunch l fun x => { x with heard := x.heard + 1 }
    let s := match p.given with
      | none => s
      | some uid =>
        let gone := (s.block l p.die).giving.find? (fun x => x.2.uid == uid)
        let s := match gone with
          | some x => s.freeSlot p.die x.2.handle
          | none => s
        ((s.onBlock l p.die fun h => { h with giving := h.giving.filter (fun x => x.2.uid != uid), retired := h.retired + 1 }).onLaunch l
          fun x => { x with remotes := x.remotes - 1 }).stir l p.die
    .next (if x.queue.isEmpty then s else s.pushOnce (.taskPacketSend d))

/-- STALE of the line at which traffic of an older view arrives (R51, R53). -/
def State.countStale (s : State) (d : Nat) : State :=
  if d < 64 then s.onPort d fun p => { p with stale := sat32 p.stale }
  else s.onEth (((SMap.find? s.qps (d - 64)).map (fun (q : QPair) => q.port)).getD 0) fun e => { e with stale := sat32 e.stale }

/-- A task packet has arrived at a line: discarded when its view is older or its sender outside the view (R53), else forwarded to
the hub that its header names (R42). -/
def State.packetIn (s : State) (d : Nat) (hdr : RemoteHdr) (pkt : List Byte) : State :=
  let v := s.viewOf hdr.group
  let s := v.2
  if hdr.view < v.1 then (s.countStale d).packetEnd hdr (some d) 0 Fate.staleView
  else
    let m := s.inView hdr.group hdr.sender
    let s := m.2
    if !m.1 then s.packetEnd hdr (some d) 0 Fate.staleView
    else match s.launchOf hdr.group with
      | none => s.packetEnd hdr (some d) 0 Fate.refused
      | some l => s.push (.packetAccept hdr.die l (.remote hdr (some d)) pkt)

/-- TASK_PACKET_RECEIVE (R42, R53). -/
def execTaskPacketReceive (d : Nat) (hdr : RemoteHdr) (pkt : List (BitVec 8)) (s : State) : Out := .next (s.packetIn d hdr pkt)

end Sys2Proof.Machine
end

