-- ==== Sys2Proof/Machine/Worklist.lean ====
section
/-! DEFINITION. The priority worklist: pops and the reach (R114, R116), the floor protocol (R115), HOLD, PAUSE and RESUME (R117),
balancing between hubs and devices (R124, R126), the group floor (R125), WLREACH (R128) and the termination wave (R109). -/

namespace Sys2Proof.Machine

/-- A launch that takes part in its worklist: a task launch that runs. -/
def Launch.works (x : Launch) : Bool := x.lrec.task && x.phase == .running
def State.works (s : State) (l : Nat) : Bool := ((SMap.find? s.launches l).map (fun (x : Launch) => x.works)).getD false

/-- The dies of a launch slot. -/
def State.diesOf (s : State) (l : Nat) : List Nat := (s.recOf l).dies

/-! ### Pops (R114, R116, R125) -/

/-- Whether a hub may pop from a bucket. -/
def HubBlock.mayPop (h : HubBlock) (r : LaunchRec) (b : Nat) : Bool :=
  !h.stopped && b ≤ h.fc + h.reach && (!r.multi || b ≤ h.gc + h.reach + r.sigma)

/-- The first task that a test admits among buckets in ascending order, as far as a pop may reach; a bucket with all of its tasks in spill
pages makes the pop wait for its refill (R106, R122). -/
def HubBlock.firstOf (h : HubBlock) (r : LaunchRec) (ok : Task → Bool) : SMap (List Task) → Option (Nat × Task)
  | [] => none
  | (b, q) :: rest =>
    if !h.mayPop r b then none
    else match (q.takeWhile (fun k => k.page.isNone)).find? ok with
      | some k => some (b, k)
      | none => if headPart q = 0 && !q.isEmpty then none else HubBlock.firstOf h r ok rest

/-- The first task in R106's order that a hub may pop and that a test admits. -/
def HubBlock.firstTask (h : HubBlock) (r : LaunchRec) (ok : Task → Bool) : Option (Nat × Task) := h.firstOf r ok h.buckets

/-- A task leaves its bucket: the lowest bucket may have risen (R115). -/
def State.popTask (s : State) (l die b : Nat) (k : Task) : State :=
  ((s.onBlock l die fun h => { h.setQueue b ((h.queue b).filter (fun x => x.uid != k.uid)) with popped := h.popped + 1 }).refillDue l die b).pushOnce
    (.floorPropose l)

/-! ### The floor keeper (R115) -/

/-- A message to every hub of a launch. -/
def State.tellHubs (s : State) (l : Nat) (f : Nat → Instr) : State := (s.diesOf l).foldl (fun s d => s.push (f d)) s

/-- The value that stands for no task. -/
def noBucket : Nat := 2 ^ 32

/-- What a hub reports as its lowest bucket. -/
def State.lowestAt (s : State) (l die : Nat) : Nat := ((s.block l die).lowest (s.recOf l)).getD noBucket

def State.onKeeper (s : State) (l : Nat) (k : Keeper) : State := s.onLaunch l fun x => { x with keeper := k, acks := [] }

/-- The keeper of a launch, its floor, and the answers it has. -/
def State.keeperOf (s : State) (l : Nat) : Keeper := ((SMap.find? s.launches l).map (fun (x : Launch) => x.keeper)).getD .rest
def State.kfcOf (s : State) (l : Nat) : Nat := ((SMap.find? s.launches l).map (fun (x : Launch) => x.kfc)).getD 0
def State.acksOf (s : State) (l : Nat) : SMap (Nat × Nat) := ((SMap.find? s.launches l).map (fun (x : Launch) => x.acks)).getD []

/-- FLOOR_PROPOSE (R115). -/
def execFloorPropose (l : Nat) (s : State) : Out :=
  if !s.works l || s.keeperOf l != .rest then .next s
  else
    let p := ((s.diesOf l).map (fun d => s.lowestAt l d)).foldl min noBucket
    if p > s.kfcOf l && p < noBucket then .next ((s.onKeeper l (.proposing p)).tellHubs l fun d => .proposeReceive l d p) else .next s

/-- PROPOSE_RECEIVE (R115). -/
def execProposeReceive (l hub p : Nat) (s : State) : Out :=
  if s.works l then
    .next ((s.onBlock l hub fun h => { h with guard := p }).push (.proposeAckReceive l hub (s.lowestAt l hub)))
  else .next s

/-- An answer noted; the answers once every hub's has come. -/
def State.ackFrom (s : State) (l hub : Nat) (a : Nat × Nat) : Option (List (Nat × Nat)) × State :=
  let s := s.onLaunch l fun x => { x with acks := SMap.insert x.acks hub a }
  let acks := s.acksOf l
  (if (s.diesOf l).all (fun d => (SMap.find? acks d).isSome) then some (acks.map (fun (x : Nat × (Nat × Nat)) => x.2)) else none, s)

/-- PROPOSE_ACK_RECEIVE (R115): answers to a proposal that a HOLD has overtaken are dropped. -/
def execProposeAckReceive (l hub b : Nat) (s : State) : Out :=
  match s.keeperOf l with
  | .proposing p =>
    let r := s.ackFrom l hub (b, noBucket)
    match r.1 with
    | none => .next r.2
    | some acks =>
      let fc := acks.foldl (fun m a => min m a.1) p
      .next (((r.2.onKeeper l .rest).onLaunch l fun x => { x with kfc := fc }).tellHubs l fun d => .commitReceive l d fc)
  | _ => .next s

/-- COMMIT_RECEIVE (R115, R113). -/
def execCommitReceive (l hub fc : Nat) (s : State) : Out :=
  if s.works l then .next (((s.setFloor l hub fc (max (s.block l hub).guard fc)).refillAll l hub).stir l hub) else .next s

/-! ### HOLD, PAUSE, RESUME (R117, R119) -/

/-- HOLD_RECEIVE (R117): a HOLD that comes while the keeper pauses is answered by that pause. -/
def execHoldReceive (l hub : Nat) (s : State) : Out :=
  if !s.works l || s.keeperOf l = .pausing || !(s.diesOf l).contains hub then .next s
  else .next ((s.onKeeper l .pausing).tellHubs l fun d => .pauseReceive l d)

/-- PAUSE_RECEIVE (R117). -/
def execPauseReceive (l hub : Nat) (s : State) : Out :=
  if s.works l then
    let held := ((s.block l hub).lowestHeld (s.recOf l)).getD noBucket
    .next ((s.onBlock l hub fun h => { h with paused := true, acked := true }).push (.pauseAckReceive l hub (s.lowestAt l hub) held))
  else .next s

/-- PAUSE_ACK_RECEIVE (R117). -/
def execPauseAckReceive (l hub present heldB : Nat) (s : State) : Out :=
  if s.keeperOf l = .pausing then
    let r := s.ackFrom l hub (present, heldB)
    match r.1 with
    | none => .next r.2
    | some acks =>
      let fc := acks.foldl (fun m a => min m (min a.1 a.2)) (s.kfcOf l)
      .next (((r.2.onKeeper l .rest).onLaunch l fun x => { x with kfc := fc }).tellHubs l fun d => .resumeReceive l d fc)
  else .next s

/-- A held task inserted: head re-entries at the head, the others at the tail (R117, R119). -/
def State.insertHeld (s : State) (l die : Nat) (k : Task) : State :=
  let b := bucketOf (s.recOf l) k.key
  if k.headEntry then s.onBlock l die fun h => h.setQueue b ({ k with headEntry := false } :: h.queue b)
  else match k.page with
    | none => s.tailInsert l die k true
    | some pa => (s.unspill l die pa).tailInsert l die { k with page := none } false

/-- The held tasks of a hub that lie at or above a floor inserted in the order of their acceptance. -/
def State.insertHelds (s : State) (l die floor : Nat) : State :=
  let r := s.recOf l
  let go := (s.block l die).held.filter (fun k => bucketOf r k.key ≥ floor)
  let s := s.onBlock l die fun h => { h with held := h.held.filter (fun k => !(bucketOf r k.key ≥ floor)) }
  go.foldl (fun s k => s.insertHeld l die k) s

/-- RESUME_RECEIVE (R117): pushes held for the group stay held; pushes accepted after the acknowledgement raise a further HOLD. -/
def execResumeReceive (l hub fc : Nat) (s : State) : Out :=
  if !s.works l then .next s
  else
    let h := s.block l hub
    let s := (s.setFloor l hub fc fc).insertHelds l hub (if (s.recOf l).multi then max fc h.gguard else fc)
    let again := !h.late.isEmpty
    let s := s.onBlock l hub fun h =>
      { h with held := h.held ++ h.late, late := [], acked := false, paused := again, holds := if again then sat32 h.holds else h.holds }
    let s := if again then s.push (.holdReceive l hub) else s
    .next ((s.refillAll l hub).stir l hub)

/-- REACH_UPDATE (R128): the last value that reaches the keeper stands at every hub, of which no two adopt it at different moments: DESIGN CHOICE, log 70. -/
def execReachUpdate (l v : Nat) (s : State) : Out :=
  if s.works l then .next ((s.diesOf l).foldl (fun s d => (s.onBlock l d fun h => { h with reach := v % 64 }).stir l d) s) else .next s

/-! ### Balancing inside the device (R124) -/

/-- Whether a task may be stolen. -/
def Task.stealable (k : Task) : Bool := !k.pin && !k.nosteal && !k.suspended

/-- How many stealable tasks a hub holds in the buckets it may pop. -/
def HubBlock.stealables (h : HubBlock) : Nat :=
  (h.buckets.map (fun x => if x.1 ≤ h.fc + h.reach then (x.2.filter Task.stealable).length else 0)).foldl (· + ·) 0

/-- The hub asked by a thief: the one with the most stealable tasks, ties to the lower index. -/
def State.giverFor (s : State) (l thief : Nat) : Option Nat :=
  let best := ((s.diesOf l).filter (fun d => d != thief)).foldl (fun (b : Option (Nat × Nat)) d =>
    let n := (s.block l d).stealables
    match b with
    | some (m, _) => if m < n then some (n, d) else b
    | none => if n > 0 then some (n, d) else none) none
  best.map (fun x => x.2)

/-- STEAL_REQUEST (R124). -/
def execStealRequest (l hub : Nat) (s : State) : Out :=
  if !s.works l then .next s
  else match s.giverFor l hub with
    | some g => .next (s.push (.stealRequestReceive l g hub))
    | none => .next (s.push (.stealRetry l hub))

/-- The tasks that a hub gives up: at most 8 from the head part of its lowest bucket with one, in queue order. -/
def HubBlock.gift (h : HubBlock) (r : LaunchRec) (also : Task → Bool) : Option (Nat × List Task) :=
  let may := fun (k : Task) => k.stealable && also k
  (h.firstTask r may).map (fun x => (x.1, (((h.queue x.1).takeWhile (fun k => k.page.isNone)).filter may).take 8))

/-- Tasks popped for a thief; they count as present until it answers. Those given to another device count in STOLEN_OUT here and in no STOLEN_IN there, for
they are accepted as packets (R126, R129): DESIGN CHOICE, log 70. -/
def State.give (s : State) (l die to' b : Nat) (ks : List Task) : State :=
  (s.onBlock l die fun h =>
    { h.setQueue b ((h.queue b).filter (fun k => !ks.any (fun x => x.uid == k.uid))) with
      giving := h.giving ++ ks.map (fun k => (to', k)), popped := h.popped + BitVec.ofNat 32 ks.length
      stolenOut := BitVec.ofNat 32 (satAdd 32 h.stolenOut.toNat ks.length) }).refillDue l die b

/-- STEAL_REQUEST_RECEIVE (R124). -/
def execStealRequestReceive (l giver thief : Nat) (s : State) : Out :=
  if !s.works l then .next s
  else match (s.block l giver).gift (s.recOf l) (fun _ => true) with
    | some (b, ks) => .next ((s.give l giver thief b ks).push (.stealTransferReceive l giver thief))
    | none => .next (s.push (.stealRetry l thief))

/-- STEAL_TRANSFER_RECEIVE (R124): the tasks join the tails of their buckets in slots of the thief. -/
def execStealTransferReceive (l giver thief : Nat) (s : State) : Out :=
  if !s.works l then .next s
  else
    let ks := ((s.block l giver).giving.filter (fun x => x.1 == thief)).map (fun x => x.2)
    let s := ks.foldl (fun s k => s.tailInsert l thief { k with page := none } false) s
    let s := s.onBlock l thief fun h => { h with asking := false, stolenIn := BitVec.ofNat 32 (satAdd 32 h.stolenIn.toNat ks.length) }
    .next ((s.push (.stealAckReceive l giver thief)).stir l thief)

/-- STEAL_ACK_RECEIVE (R124): the tasks are no longer present at the giver, and their slots are free. -/
def execStealAckReceive (l giver thief : Nat) (s : State) : Out :=
  let ks := ((s.block l giver).giving.filter (fun x => x.1 == thief)).map (fun x => x.2)
  let s := ks.foldl (fun s k => s.freeSlot giver k.handle) s
  .next ((s.onBlock l giver fun h => { h with giving := h.giving.filter (fun x => x.1 != thief) }).stir l giver)

/-- STEAL_RETRY (R124). -/
def execStealRetry (l hub : Nat) (s : State) : Out :=
  if s.works l then .next ((s.onBlock l hub fun h => { h with asking := false }).stir l hub) else .next s

/-! ### Balancing across devices (R126) -/

/-- Whether a stealable task may leave the device: it has no regions. -/
def Task.mayLeave (k : Task) : Bool := k.regions.isEmpty

/-- The packet of a fresh task as a program would write it, without the fields that a hub fills in (R92). -/
def Task.packet (k : Task) : List Byte := ({ k with pend := 0, lslot := 0, handle := 0, cseq := 0 } : Task).record {} false

/-- A key of the tasks given to another device, apart from every die. -/
def deviceKey (member : Nat) : Nat := 64 + member

/-- Tasks given to another device leave as packets (R126). The indices of a nest's child, for which a packet has no field, go with the header: DESIGN CHOICE,
log 70. -/
def State.sendGift (s : State) (l die member self : Nat) (view : Word) (ks : List Task) : State :=
  let r := s.lineTo self member ((SMap.find? s.launches l).map (fun (x : Launch) => x.ctx) |>.getD 0)
  match r.1 with
  | none => r.2
  | some d => ks.foldl (fun s k =>
      let hdr : RemoteHdr := { sender := self, group := (s.recOf l).group, view := view, die := ((s.recOf l).dies).headD 0, ack := none, idx := k.idx }
      (s.onLaunch l fun x => { x with remotes := x.remotes + 1 }).queuePacket d
        { hdr := hdr, member := member, lslot := l, pkt := k.packet, die := die, given := some k.uid }) r.2

/-- The hub of the device whose gift lies in the lowest bucket. -/
def State.deviceGift (s : State) (l : Nat) : Option (Nat × Nat × List Task) :=
  let r := s.recOf l
  (s.diesOf l).foldl (fun (best : Option (Nat × Nat × List Task)) d =>
    match (s.block l d).gift r Task.mayLeave, best with
    | some (b, ks), some (_, b', _) => if b < b' then some (d, b, ks) else best
    | some (b, ks), none => some (d, b, ks)
    | none, best => best) none

/-- DEVICE_STEAL_REQUEST (R126): this device asks the member with the most stealable tasks, or another device asks it. -/
def execDeviceStealRequest (l : Nat) (from' : Option Nat) (s : State) : Out :=
  if !s.works l || !(s.recOf l).multi then .next s
  else match from' with
    | none =>
      match (SMap.find? s.launches l).bind (fun (x : Launch) => x.stealFrom) with
      | some m => .next ((s.onLaunch l fun x => { x with stealFrom := none }).emit (.steal l m))
      | none => .next s
    | some m =>
      let g := s.selfOf (s.recOf l).group
      let w := g.2.viewOf (s.recOf l).group
      match w.2.deviceGift l with
      | none => .next w.2
      | some (die, b, ks) =>
        if (w.2.lineTo g.1 m 0).1.isNone then .next w.2
        else
          let s := w.2.give l die (deviceKey m) b ks
          .next (s.sendGift l die m g.1 w.1 ks)

/-! ### The wave (R109, R125) -/

/-- Whether a core holds work of a launch: running, saved or preloaded. -/
def Core.works (c : Core) (l : Nat) : Bool :=
  (c.t.mode != .idle && c.t.lslot == l) || c.savedT.any (fun a => a.thread.lslot == l) || c.savedD.any (fun a => a.thread.lslot == l)
  || c.preload.any (fun p => p.task.lslot == l)

/-- Whether the cores and hubs of a launch are idle, and no packet of it is on its way to a hub. -/
def State.quiet (s : State) (l : Nat) : Bool :=
  match SMap.find? s.launches l with
  | none => true
  | some x => x.lrec.cores.all (fun c => !(s.coreAt c).works l) && x.retiring.isEmpty && x.remotes = 0
    && x.hubs.all (fun h => h.2.running.isEmpty && h.2.walking.isEmpty && h.2.giving.isEmpty)
    && !s.agenda.any (fun i => match i with
      | .packetAccept _ l' _ _ => l' == l
      | _ => false)

/-- Whether a task of the launch is ready: an eligible task in a bucket, or a held one. -/
def Launch.someReady (x : Launch) : Bool :=
  x.hubs.any (fun h => !h.2.held.isEmpty || !h.2.late.isEmpty || (h.2.buckets.flatMap (fun b => b.2) ++ h.2.far).any x.eligible)

/-- What this device adds to a wave of a launch over a group (R109, R125, R126). -/
def State.ownShare (s : State) (l : Nat) (x : Launch) (self : Nat) : WaveShare :=
  { member := self, pushed := (x.hubs.map (fun h => h.2.pushed.toNat)).foldl (· + ·) 0
    retired := (x.hubs.map (fun h => h.2.retired % 2 ^ 32)).foldl (· + ·) 0, quiet := s.quiet l, sent := x.sent, heard := x.heard
    pendLeft := x.hubs.any (fun h => !h.2.pending.isEmpty), suspended := x.hubs.any (fun h => !h.2.suspended.isEmpty), ready := x.someReady
    fc := x.kfc, held := (x.hubs.filterMap (fun h => h.2.lowestHeld x.lrec)).min?
    stealable := (x.hubs.map (fun h => h.2.stealables)).foldl (· + ·) 0 }

/-- What a wave finds: pushed, retired, sent, heard, whether every hub is idle, and whether only tasks that wait for predecessors
are left. -/
def State.waveCounts (s : State) (l : Nat) (x : Launch) (shares : List WaveShare) : List Nat :=
  let all := s.ownShare l x 0 :: shares
  let sum := fun (f : WaveShare → Nat) => all.foldl (fun n w => n + f w) 0
  let b2n := fun (b : Bool) => if b then 1 else 0
  let idle := all.all (fun w => w.quiet)
  [sum (fun w => w.pushed), sum (fun w => w.retired), sum (fun w => w.sent), sum (fun w => w.heard), b2n idle,
   b2n (idle && all.any (fun w => w.pendLeft) && !all.any (fun w => w.suspended) && !all.any (fun w => w.ready))]

/-- Whether a wave finds the launch empty. -/
def waveEmpty (w : List Nat) : Bool := w.getD 0 0 == w.getD 1 0 && w.getD 2 0 == w.getD 3 0 && w.getD 4 0 == 1

/-- The group floor set at every hub of the device. -/
def State.setGroup (s : State) (l : Nat) (f : HubBlock → HubBlock) : State := (s.diesOf l).foldl (fun s d => s.onBlock l d f) s

/-- Held pushes of the group inserted on every hub, and its pause over (R125). -/
def State.groupResume (s : State) (l : Nat) : State :=
  (s.diesOf l).foldl (fun s d =>
    let s := s.insertHelds l d (s.block l d).guard
    (s.onBlock l d fun h => { h with gpaused := false }).stir l d) s

/-- What a wave does to the group floor (R125). -/
def State.waveGroup (s : State) (l : Nat) (x : Launch) (shares : List WaveShare) : State :=
  let r := x.lrec
  let fcs := shares.foldl (fun m w => min m w.fc) x.kfc
  let gc := (s.block l (r.dies.headD 0)).gc
  let held := (x.hubs.filterMap (fun h => h.2.lowestHeld r)) ++ shares.filterMap (fun w => w.held)
  match x.groupHold with
  | .paused =>
    let gc' := held.foldl min (min gc fcs)
    let s := (s.setGroup l fun h => { h with gc := gc', gguard := gc' }).onLaunch l fun x => { x with groupHold := .none, gp := none }
    s.groupResume l
  | g =>
    if g = .raised || shares.any (fun w => w.held.isSome) then
      (s.onLaunch l fun x => { x with groupHold := .paused, gp := none }).pauseAll l
    else match x.gp with
      | some p =>
        let gc' := min p fcs
        let s := (s.setGroup l fun h => { h with gc := gc', gguard := max h.gguard gc' }).onLaunch l fun x => { x with gp := none }
        (r.dies).foldl (fun s d => s.stir l d) s
      | none =>
        if fcs > gc then (s.setGroup l fun h => { h with gguard := fcs }).onLaunch l fun x => { x with gp := some fcs } else s

/-- Whether this device should ask another for tasks, and whom (R126). -/
def State.waveSteal (s : State) (l : Nat) (x : Launch) (shares : List WaveShare) : State :=
  let idle := x.lrec.cores.any (fun c => (s.coreAt c).t.mode == .idle)
  let poppable := x.hubs.any (fun h => (h.2.firstTask x.lrec x.eligible).isSome)
  let best := shares.foldl (fun (b : Option (Nat × Nat)) w => match b with
    | some (n, m) => if n < w.stealable || (n = w.stealable && w.member < m) then some (w.stealable, w.member) else b
    | none => some (w.stealable, w.member)) none
  match best with
  | some (n, m) => if idle && !poppable && n > 0 then
      (s.onLaunch l fun x => { x with stealFrom := some m }).pushOnce (.deviceStealRequest l none) else s
  | none => s

/-- TERMINATION_WAVE (R109, R125, R126): two equal waves end the launch when nothing is left, or fault it when only tasks that wait
for predecessors are. In a launch over a group the wave comes with what the other devices add, and carries away what this one does. -/
def execTerminationWave (l : Nat) (shares : List WaveShare) (s : State) : Out :=
  match SMap.find? s.launches l with
  | none => .next s
  | some x =>
    if !x.works then .next s
    else
      let w := s.waveCounts l x shares
      let again := x.lastWave == some w
      if again && waveEmpty w then .next (s.endLaunch l .ok none)
      else if again && w.getD 5 0 == 1 then .next (s.hubFault l (x.lrec.dies.headD 0) .depStuck 0)
      else
        let s := s.onLaunch l fun x => { x with lastWave := some w }
        .next (if x.lrec.multi then
            let g := s.selfOf x.lrec.group
            ((g.2.emit (.wave l (g.2.ownShare l x g.1))).waveGroup l x shares).waveSteal l x shares
          else s.push (.terminationWave l []))

end Sys2Proof.Machine
end

