-- ==== Sys2Proof/Machine/Residency.lean ====
section
/-! DEFINITION. From dispatch to retirement: the dispatch choice (R106), preloads (R107), gangs (R88 to R91), the residency engine
(R102 to R105), suspension and continuations (R96, R97, R288) and the task budget (R108). -/

namespace Sys2Proof.Machine

/-! ### Which work may go where -/

/-- Whether management has frozen a context, or a TAG fault has (R66, R130). -/
def State.ctxFrozen (s : State) (ctx : Nat) : Bool := if h : ctx < 64 then s.ctxs[ctx].mgmtFrozen || s.ctxs[ctx].frozen else true

/-- The cores of a die in ascending number. -/
def coresOfDie (die : Nat) : List Nat := (List.range 16).map (cidInDie die)

/-- Whether a core runs nothing and may take work (R106, R145): nothing that its last work issued waits to leave it (R110). -/
def Core.free (c : Core) : Bool := c.t.mode == .idle && !c.protFrozen && c.t.egress.isEmpty

/-- Whether a core may take a task of a class: no saved context of that class or a higher one waits for it (R135). -/
def Core.takes (c : Core) (deadline : Bool) : Bool := c.free && c.savedD.isNone && (deadline || c.savedT.isNone)

/-- Whether a task fits a core: its pin, and the preload's L1 places (R106). -/
def Task.fits (k : Task) (c : Core) (ignorePreload : Bool) : Bool :=
  (!k.pin || cidOf k.pinx k.piny == c.cid) && k.boundTo.all (fun b => b == c.cid)
  && (ignorePreload || match c.preload with
    | some p => !k.places.any (fun x => p.task.places.any (fun y => rangesMeet x y))
    | none => true)

/-- The core for a task among idle ones: the lowest-numbered that fits, another than that of its last fault if there is one. soon: one that fits but for
a preload that is going to start there counts too. -/
def State.coreFor (s : State) (cs : List Nat) (k : Task) (soon : Bool := false) : Option Nat :=
  let fit := cs.filter (fun c => k.fits (s.coreAt c) (soon && (s.coreAt c).preload.any (fun p =>
    (SMap.find? s.launches p.task.lslot).any (fun (x : Launch) => !s.ctxFrozen x.ctx))))
  match fit.find? (fun c => k.avoid != some c) with
  | some c => some c
  | none => fit.head?

/-- A preload that may start: its core is free and its predecessors are done (R101, R107). -/
def State.preloadReady (s : State) (cid : Nat) : Option Task :=
  let c := s.coreAt cid
  match c.preload with
  | none => none
  | some p =>
    match SMap.find? s.launches p.task.lslot with
    | none => none
    | some x => if c.takes x.lrec.deadline && x.works && !s.ctxFrozen x.ctx && x.eligible p.task then some p.task else none

/-- A dispatch that a launch may make now on a die: a task preloaded on a core, or one of a bucket for a core. -/
inductive Offer where
  | preloaded (k : Task) (cid : Nat)
  | popped (b : Nat) (k : Task) (cid : Nat)
  deriving DecidableEq, Repr

def Offer.isPreloaded : Offer → Bool
  | .preloaded .. => true
  | .popped .. => false

/-- The dispatch that a launch offers on a die. -/
def State.candidate (s : State) (l die : Nat) (x : Launch) : Option Offer :=
  if !x.works || s.ctxFrozen x.ctx then none
  else
    let cs := (coresOfDie die).filter (fun c => x.lrec.has c && (s.coreAt c).takes x.lrec.deadline)
    match cs.findSome? (fun c => ((s.preloadReady c).filter (fun k => k.lslot == l)).map (fun k => Offer.preloaded k c)) with
    | some o => some o
    | none =>
      if cs.isEmpty then none
      else
        ((s.block l die).firstTask x.lrec (fun k => x.eligible k && (s.coreFor cs k).isSome)).bind (fun b =>
          (s.coreFor cs b.2).map (fun c => .popped b.1 b.2 c))

/-- Whether a launch has a task for a die that would be dispatched but for a preload which is going to start (R106, R111). -/
def State.onlyPreload (s : State) (l die : Nat) (x : Launch) : Bool :=
  let cs := (coresOfDie die).filter (fun c => x.lrec.has c && (s.coreAt c).takes x.lrec.deadline)
  x.works && !s.ctxFrozen x.ctx && ((s.block l die).firstTask x.lrec (fun k => x.eligible k && (s.coreFor cs k true).isSome)).isSome

/-- Whether a launch has an eligible task that passes the reach test for a core of a die, whatever that core does now (R111). -/
def State.wants (s : State) (l die : Nat) (x : Launch) : Bool :=
  x.works && !s.ctxFrozen x.ctx && ((s.block l die).firstTask x.lrec (fun k => x.eligible k
    && (coresOfDie die).any (fun c => x.lrec.has c && k.fits (s.coreAt c) true))).isSome

/-! ### Registers at dispatch (R90, R96, R104, R161) -/

/-- What a core holds for a launch before a dispatch: what its earlier work on this core left, or reset values (R161). -/
def Core.kept (c : Core) (l uid : Nat) (r : LaunchRec) : Thread :=
  if c.lastLaunch = some uid then c.t
  else match SMap.find? c.left l with
    | some x => if x.1 = uid then x.2 else { ckptlim := r.ckptCyc.zext }
    | none => { ckptlim := r.ckptCyc.zext }

/-- A core ready for work of a launch: other launches' registers kept, pads and weight buffer zeroed for another context (R161), with what a preload that
stays has brought. -/
def Core.readyFor (c : Core) (l : Nat) (x : Launch) : Core :=
  let t := c.kept l x.uid x.lrec
  let c := { c.stash with lastLaunch := some x.uid, gated := false, idleCycles := 0 }
  let other := c.lastCtx != some x.ctx
  let t : Thread := { t with lslot := l, ctx := x.ctx, wbuf := if other then [] else t.wbuf, wbufPsn := if other then [] else t.wbufPsn
                             arr := if other then {} else { w := t.arr.w } }
  { c with
    left := SMap.erase c.left l, lastCtx := some x.ctx, t := t, l1 := if other then {} else c.l1
    preload := if other then c.preload.map (fun p => { p with task := { p.task with resident := [] } }) else c.preload }

/-- The registers that R161 and R104 set to their reset values at every dispatch. -/
def Thread.blank (t : Thread) : Thread :=
  { stat := t.stat, fpx := t.fpx, ckptlim := t.ckptlim, waitcnt := t.waitcnt, trappc := t.trappc, trapcause := t.trapcause
    trapval := t.trapval, tscr := t.tscr, tl := t.tl, bars := t.bars, qs := t.qs, wbuf := t.wbuf, wbufPsn := t.wbufPsn, arr := t.arr
    lslot := t.lslot, ctx := t.ctx, rputs := t.rputs, mode := .loading }

/-- Values loaded into s registers from a number on. -/
def Thread.loadS (t : Thread) (n : Nat) (vs : List PWord) : Thread :=
  (vs.zipIdx).foldl (fun (t : Thread) x => t.setS (BitVec.ofNat 5 (n + x.2)) x.1) t

/-- Values loaded into a registers from a0 on. -/
def Thread.loadA (t : Thread) (vs : List DWord) : Thread :=
  (vs.zipIdx).foldl (fun (t : Thread) x => t.setA (BitVec.ofNat 4 x.2) ⟨x.1, none⟩) t

/-- The s registers of a LIVE mask, lowest first. -/
def liveNums (live : Word) : List Nat := (List.range 32).filter (fun i => live.getLsbD i)

/-- The L1 address of a region (R104). -/
def regionAddr (r : Region) : DWord := BitVec.ofNat 64 (ownBase + 64 * r.l1off)

/-- The thread of a task at its dispatch: fresh (R104) or resumed (R96). -/
def Thread.forTask (t : Thread) (r : LaunchRec) (k : Task) : Thread :=
  let t := t.blank.loadA (k.regions.map regionAddr)
  let t := if k.suspended then
      ((liveNums k.live).zip k.liveRegs).foldl (fun (t : Thread) x => t.setS (BitVec.ofNat 5 x.1) ⟨x.2.1, x.2.2⟩) t
    else (t.loadS 2 (k.idx.map (fun v => ⟨v, none⟩))).loadS 8 (k.payload.map (fun v => ⟨v, none⟩))
  { t with
    pc := if k.suspended then k.resumePc else r.codeAddr + BitVec.ofNat 64 (4 * (k.start + k.entry))
    task := k, taskOpen := true, rerunnable := k.rerunnable, budget := k.spent, regionL1 := k.places, codeBase := r.codeAddr }

/-- The thread of a gang member at its first bundle (R90). -/
def Thread.forGang (t : Thread) (r : LaunchRec) (g ngangs dx dy lead start : Nat) : Thread :=
  let t := (t.blank.loadS 2 ([g, ngangs, dx, dy].map (fun n => ⟨BitVec.ofNat 32 n, none⟩))).loadA [r.first, BitVec.ofNat 64 r.paramLen]
  { t with pc := r.codeAddr + BitVec.ofNat 64 (4 * start), gang := true, gangNo := g, dx := dx, dy := dy, lead := lead, codeBase := r.codeAddr }

/-! ### What the residency engine reads (R102, R184, R283) -/

/-- The object window at a dispatch: entry k in slot k (R184). -/
def State.fillWindow (w : Who) (table : DWord) : List Nat → State → Access (SMap Obj)
  | [], s => .ok ([], s)
  | k :: ks, s =>
    Access.bind (s.readObj w table k) fun o s =>
      Access.bind (State.fillWindow w table ks s) fun rest s => .ok (match o with
        | some o => (k, o) :: rest
        | none => rest, s)

/-- Code copied from an address on, until a piece cannot be read (R283). -/
def State.copyCode : Nat → State → Who → Nat → List PByte × State
  | 0, s, _, _ => ([], s)
  | n + 1, s, w, va =>
    match s.readCode w va 64 with
    | .ok (bs, s) => let r := State.copyCode n s w (va + 64); (bs ++ r.1, r.2)
    | .error _ => ([], s)

/-- A code buffer filled. -/
def Thread.loadCode (t : Thread) (bs : List PByte) : Thread :=
  let x := bs.zipIdx
  { t with
    codeLen := bs.length, code := (x.filter (fun b => b.1.1 != 0)).map (fun b => (b.2, b.1.1))
    codePsn := x.foldl (fun (m : SMap Origin) b => match b.1.2 with
      | some o => SMap.insert m (b.2 / 8) o
      | none => m) [] }

/-- The objects of a task's regions, by the launch's copy of the table, or the entries as they stand. -/
def State.regionEntries (l : Nat) (w : Who) : List Region → State → Access (List (Option Obj))
  | [], s => .ok ([], s)
  | r :: rs, s =>
    Access.bind (s.launchObj l w r.obj) fun o s =>
      Access.bind (State.regionEntries l w rs s) fun rest s => .ok (o :: rest, s)

/-- The entries that a dispatch reads as it begins (R184): the object window, and the objects of the task's regions. -/
def State.readTable (s : State) (l cid : Nat) (x : Launch) : Access Unit :=
  let w := s.engineOf cid
  Access.bind (State.fillWindow w x.lrec.objAddr (List.range (min 64 x.lrec.objCount)) s) fun win s =>
    Access.bind (State.regionEntries l w (s.coreAt cid).t.task.regions s) fun os s =>
      .ok ((), s.onCore cid fun c => { c with t := { c.t with objs := win, windowed := true, task := { c.t.task with robjs := os } } })

/-- The entries read at once if no page has to come first; else with the copy-in. -/
def State.tryTable (s : State) (l cid : Nat) (x : Launch) : State :=
  match s.readTable l cid x with
  | .ok (_, s) => s
  | .error _ => s

/-- One region made resident in the L1 of a core: copied in, zero-filled, or restored from where it was parked (R102, R103, R152). -/
def State.bringRegion (s : State) (cid : Nat) (w : Who) (k : Task) (i : Nat) (r : Region) (o : Option Obj) : Access Unit :=
  let l1 := 64 * r.l1off
  match (if r.mode = 0 then none else k.parked.find? (fun p => p.1 == i)) with
  | some p => .ok ((), s.onL1 cid fun q => q.writeP l1 p.2)
  | none =>
    match o with
    | none => .ok ((), s)
    | some o =>
      if r.mode = 1 || r.mode = 3 then .ok ((), s.onL1 cid fun q => q.zero l1 o.area)
      else if o.quant then
        Access.bind (s.readQuant w o r.ty r.tx) fun x s =>
          .ok ((), s.onL1 cid fun q => (q.putTile o l1 o.size x.1).writeP (l1 + o.tileBytes) x.2)
      else
        Access.bind (State.readTile w o r.ty r.tx (o.tile r.ty r.tx) s) fun es s =>
          .ok ((), s.onL1 cid fun q => q.putTile o l1 o.size es)

/-- The regions of a task, but those that a preload has brought (R107). -/
def State.bringRegions (cid : Nat) (w : Who) (k : Task) : List (Region × Nat) → State → Access Unit
  | [], s => .ok ((), s)
  | (r, i) :: rs, s =>
    if k.resident.contains i then State.bringRegions cid w k rs s
    else Access.bind (s.bringRegion cid w k i r (k.robjs.getD i none)) fun _ s => State.bringRegions cid w k rs s

/-- The input regions of a preloaded task brought into the L1 of its core: all but those that wait for another task or whose places an issued tile move
locks (R198), and those that cannot be brought without a wait or a fault; its dispatch brings these (R107). -/
def State.bringInputs (s : State) (cid : Nat) (k : Task) (waits : Region → Option Obj → Bool) : State × List Nat :=
  let w := s.engineOf cid
  (k.regions.zipIdx).foldl (fun (r : State × List Nat) x =>
    let o := k.robjs.getD x.2 none
    if x.1.mode % 2 = 1 || waits x.1 o || (r.1.coreAt cid).t.locked (64 * x.1.l1off, (o.map Obj.area).getD 0) then r
    else match r.1.bringRegion cid w k x.2 x.1 o with
      | .ok (_, s) => (s, r.2 ++ [x.2])
      | .error _ => r) (s, [])

/-! ### Starting a task -/

/-- A task starts on a core: the residency engine makes its regions resident (R102). -/
def State.startTask (s : State) (l cid : Nat) (k : Task) : State :=
  match SMap.find? s.launches l with
  | none => s
  | some x =>
    let k := if k.suspended && k.boundTo.isNone then { k with nums := [] } else k
    ((s.onCore cid fun c =>
      let c := c.readyFor l x
      { c with t := c.t.forTask x.lrec k }).tryTable l cid x).push (.regionCopyInDone cid)

/-- An offer taken: a preloaded task starts with what its preload brought, another is popped and started (R106, R107, R114). -/
def State.dispatch (s : State) (l die : Nat) (o : Offer) : State :=
  match o with
  | .preloaded k cid =>
    let code := ((s.coreAt cid).preload.map (fun p => p.code)).getD []
    ((s.onCore cid fun c => { c with preload := none }).startTask l cid k).onCore cid fun c => { c with t := c.t.loadCode code }
  | .popped b k cid =>
    let s := (s.popTask l die b k).onBlock l die fun h => { h with running := h.running ++ [k] }
    s.startTask l cid { k with resident := [] }

/-! ### Weighted round robin (R106) -/

/-- Dispatches that a launch has left in the round of its class. -/
def Hub.left (h : Hub) (l : Nat) (r : LaunchRec) : Nat := (SMap.find? h.credit l).getD r.weight

/-- The dispatch that round robin gives to a class, with the turns after it. A preloaded task has taken its turn as it was preloaded. A launch that only a
preload keeps from a dispatch keeps its turns, and its round goes on until it has had one (R111): DEDUCED, log 73. -/
def State.roundRobin (s : State) (die : Nat) (deadline : Bool) : Option (Nat × Offer × SMap Nat) :=
  let ls : SMap Launch := s.launches.filter (fun (x : Nat × Launch) => x.2.lrec.deadline == deadline)
  let cands := ls.filterMap (fun (x : Nat × Launch) => (s.candidate x.1 die x.2).map (fun c => (x.1, x.2.lrec, c)))
  let h := s.hub die
  let soon := ls.filter (fun (x : Nat × Launch) => s.onlyPreload x.1 die x.2)
  let lost := ls.foldl (fun (m : SMap Nat) (x : Nat × Launch) =>
    if cands.any (fun c => c.1 == x.1) || soon.any (fun y => y.1 == x.1) then m else SMap.insert m x.1 0) h.credit
  match cands.find? (fun c => c.2.2.isPreloaded || h.left c.1 c.2.1 > 0) with
  | some (l, r, c) => some (l, c, if c.isPreloaded then h.credit else SMap.insert lost l (h.left l r - 1))
  | none =>
    if soon.any (fun x => h.left x.1 x.2.lrec > 0) then none else
    let again := ls.foldl (fun (m : SMap Nat) (x : Nat × Launch) => SMap.erase m x.1) lost
    match cands with
    | (l, r, c) :: _ => some (l, c, SMap.insert again l (r.weight - 1))
    | [] => none

/-! ### Pre-emption for deadline work, steals, preloads -/

/-- The victim on a die, when no core of a deadline launch is idle there and an eligible task of it would fit the core (R106); a HOLD in
progress does not delay it (R127). -/
def State.victim (s : State) (die : Nat) : Option Nat :=
  (s.launches.findSome? (fun (x : Nat × Launch) =>
    if !x.2.lrec.deadline || !x.2.works || s.ctxFrozen x.2.ctx then none
    else
      let h := { s.block x.1 die with paused := false, gpaused := false }
      let cs := (coresOfDie die).filter x.2.lrec.has
      if cs.any (fun c => (s.coreAt c).takes true) || cs.any (fun c => ((s.coreAt c).t.stop.any (fun q => q.why == .deadline)) || (s.coreAt c).t.mode == .stopping)
      then none
      else cs.find? (fun c =>
        let t := (s.coreAt c).t
        (t.mode == .run || t.mode == .loading) && !s.isDeadline t.lslot
        && (h.firstTask x.2.lrec (fun k => x.2.eligible k && k.fits (s.coreAt c) true)).isSome)))

/-- Launches whose hub on a die has an idle core and nothing to pop: their hub asks another for tasks (R124). -/
def State.askSteals (s : State) (die : Nat) : State :=
  s.launches.foldl (fun (s : State) (x : Nat × Launch) =>
    let h := s.block x.1 die
    if x.2.works && x.2.lrec.dies.length > 1 && x.2.lrec.dies.contains die && !h.asking && !h.stopped
      && (coresOfDie die).any (fun c => x.2.lrec.has c && (s.coreAt c).takes x.2.lrec.deadline)
      && !(h.buckets.any (fun b => h.mayPop x.2.lrec b.1 && !b.2.isEmpty)) then
      (s.onBlock x.1 die fun h => { h with asking := true }).push (.stealRequest x.1 die)
    else s) s

/-- The task that a hub may preload onto a busy core (R107): of the launch that runs there, every unmet predecessor the task that
runs there, clear of its regions. -/
def State.preloadFor (s : State) (cid : Nat) : Option (Nat × Task × Bool) :=
  let c := s.coreAt cid
  let l := c.t.lslot
  match SMap.find? s.launches l with
  | none => none
  | some x =>
    if !x.works || s.ctxFrozen x.ctx || c.t.mode != .run || !c.t.taskOpen || c.preload.isSome || c.savedT.isSome || c.savedD.isSome
      || c.t.stop.isSome then none
    else
      ((s.block l (dieOf cid)).firstTask x.lrec (fun k =>
        !k.nopre && !k.suspended && (x.waitsFor k.uid).all (fun u => u == c.t.task.uid) && k.fits c true && k.avoid != some cid
        && !k.places.any (fun p => c.t.regionL1.any (fun q => rangesMeet p q)))).map (fun b =>
          (b.1, b.2, !(x.waitsFor b.2.uid).isEmpty))

/-- The turns of a hub after a preload for a launch, which takes one as a dispatch does; none while another launch of its class with turns left, or a
deadline launch, has a task that it could keep waiting (R106, R111): DEDUCED, log 73. -/
def State.preloadTurn (s : State) (l die : Nat) (r : LaunchRec) : Option (SMap Nat) :=
  let h := s.hub die
  if s.launches.any (fun (y : Nat × Launch) => y.1 != l
    && (if y.2.lrec.deadline = r.deadline then h.left y.1 y.2.lrec > 0 else y.2.lrec.deadline) && s.wants y.1 die y.2) then none
  else if h.left l r > 0 then some (SMap.insert h.credit l (h.left l r - 1))
  else
    let again := s.launches.foldl (fun (m : SMap Nat) (y : Nat × Launch) => if y.2.lrec.deadline = r.deadline then SMap.erase m y.1 else m) h.credit
    some (SMap.insert again l (r.weight - 1))

/-- Whether a region of a task waits for what an earlier task of the launch makes of it (R99, R107). -/
def Launch.regionWaits (x : Launch) (k : Task) (r : Region) : Bool :=
  let mine := x.deps.filter (fun d => d.uid == k.uid && d.obj == r.obj && d.ty == r.ty && d.tx == r.tx)
  (x.deps.takeWhile (fun d => d.uid != k.uid)).any (fun d => mine.any (fun m => d.conflicts m))

/-- TASK_PRELOAD (R107): the task leaves its bucket, and its code and the inputs that wait for nothing come to the core, which wakes if SLEEP has gated it
(R154, R293). -/
def execTaskPreload (cid : Nat) (s : State) : Out :=
  let l := (s.coreAt cid).t.lslot
  let die := dieOf cid
  match s.preloadFor cid, SMap.find? s.launches l with
  | some (b, k, dep), some x =>
    match s.preloadTurn l die x.lrec with
    | none => .next s
    | some credit =>
      let w := s.engineOf cid
      let s := ((s.onHub die fun h => { h with credit := credit }).popTask l die b k).onBlock l die fun h => { h with running := h.running ++ [k] }
      let code := State.copyCode 1024 s w x.lrec.codeAddr.toNat
      let s := code.2
      let os := match State.regionEntries l w k.regions s with
        | .ok (os, s) => (os, s)
        | .error _ => ([], s)
      let k := { k with robjs := os.1 }
      let r := os.2.bringInputs cid k (fun r _ => x.regionWaits k r)
      .next ((r.1.onCore cid fun c => { c with preload := some ⟨{ k with resident := r.2 }, dep, code.1⟩, gated := false }).stir l die)
  | _, _ => .next s

/-- A saved context that may resume on a core (R135). -/
def State.resumable (s : State) (cid : Nat) (deadline : Bool) : Bool :=
  let c := s.coreAt cid
  c.free && (match c.restorable with
    | some (dl, a) => dl == deadline && !s.ctxFrozen a.thread.ctx
    | none => false)

/-! ### TASK_DISPATCH (R106) -/

/-- One choice of a hub: a deadline context resumes, a deadline task, a throughput context resumes, a throughput task (R106). -/
def State.choose (s : State) (die : Nat) : Option State :=
  let cs := coresOfDie die
  let back := fun (dl : Bool) (c : Nat) => s.resumable c dl && !s.agenda.contains (.contextRestore c)
  match cs.find? (back true) with
  | some c => some ((s.push (.contextRestore c)).pushOnce (.taskDispatch die))
  | none =>
    match s.roundRobin die true with
    | some (l, o, cr) => some (((s.onHub die fun h => { h with credit := cr }).dispatch l die o).pushOnce (.taskDispatch die))
    | none =>
      match cs.find? (back false) with
      | some c => some ((s.push (.contextRestore c)).pushOnce (.taskDispatch die))
      | none =>
        match s.roundRobin die false with
        | some (l, o, cr) => some (((s.onHub die fun h => { h with credit := cr }).dispatch l die o).pushOnce (.taskDispatch die))
        | none => none

/-- TASK_DISPATCH (R106, R107, R124, R130). -/
def execTaskDispatch (die : Nat) (s : State) : Out :=
  match s.choose die with
  | some s => .next s
  | none =>
    let s := match s.victim die with
      | some c => s.pushOnce (.preemptRequest c .deadline)
      | none => s
    let s := s.askSteals die
    let turn := fun (c : Nat) => (SMap.find? s.launches (s.coreAt c).t.lslot).any (fun (x : Launch) => (s.preloadTurn (s.coreAt c).t.lslot die x.lrec).isSome)
    .next ((coresOfDie die).foldl (fun s c => if (s.preloadFor c).isSome && turn c then s.pushOnce (.taskPreload c) else s) s)

/-! ### Regions become resident (R102, R184, R283) -/

/-- Parking space given back once the regions are resident again (R103). -/
def State.unpark (s : State) (l die : Nat) (k : Task) : State :=
  let s := k.parkPages.foldl (fun s p => s.returnPage p false) s
  s.onLaunch l fun x => { x with
    owned := x.owned.filter (fun p => !k.parkPages.contains p)
    pool := SMap.insert x.pool die (SMap.getD x.pool die 0 - k.parkBytes), parkedB := SMap.insert x.parkedB die (SMap.getD x.parkedB die 0 - k.parkBytes) }

/-- The work on a core may issue its first bundle: EV is cleared (R292). -/
def Thread.go (t : Thread) (window : SMap Obj) : Thread := { t with mode := .run, objs := window, ev := false }

/-- REGION_COPY_IN_DONE (R102): object window, regions and code, then the first bundle; for a gang, every member starts. The hub makes its choice again
(R106). -/
def execRegionCopyInDone (cid : Nat) (s : State) : Out :=
  let c := s.coreAt cid
  let t := c.t
  let l := t.lslot
  match SMap.find? s.launches l with
  | none => .next s
  | some x =>
    if t.mode != .loading then .next s
    else if s.ctxFrozen x.ctx then .next (s.push (.regionCopyInDone cid))
    else
      let again : Instr := .regionCopyInDone cid
      let w := s.engineOf cid
      let go : Access (List PByte) :=
        Access.bind (if t.windowed then .ok ((), s) else s.readTable l cid x) fun _ s =>
          Access.bind (State.bringRegions cid w (s.coreAt cid).t.task t.task.regions.zipIdx s) fun _ s =>
            if t.codeLen != 0 then .ok ([], s)
            else let code := State.copyCode 1024 s w x.lrec.codeAddr.toNat
                 .ok (code.1, code.2)
      match go with
      | .error e => s.engineStop cid t.pc again e
      | .ok (code, s) =>
        let s := s.unhold (.engine cid)
        let now := (s.coreAt cid).t
        let s := s.pushOnce (.taskDispatch (dieOf cid))
        if t.gang then
          .next ((s.gangOf cid).foldl (fun s m => s.onCore m fun c => { c with t := (c.t.loadCode code).go now.objs }) s)
        else
          let s := s.unpark l (dieOf cid) t.task
          let done := { now.task with parked := [], parkPages := [], parkBytes := 0, boundTo := none, suspended := false, resident := [] }
          .next (s.onCore cid fun c => { c with t := { ((if code.isEmpty then c.t else c.t.loadCode code).go now.objs) with task := done } })

/-! ### TEND_COPY_OUT (R103, R287, R288) -/

/-- Bytes of tile pool in use on a die, and those of parked regions. -/
def State.poolUsed (s : State) (die : Nat) : Nat := (s.launches.map (fun (x : Nat × Launch) => SMap.getD x.2.pool die 0)).foldl (· + ·) 0
def State.parkUsed (s : State) (die : Nat) : Nat := (s.launches.map (fun (x : Nat × Launch) => SMap.getD x.2.parkedB die 0)).foldl (· + ·) 0

/-- Size of the tile pool of a die (R103). -/
def poolBytes : Nat := 4190208

/-- The output regions of a task as its L1 holds them. -/
def Core.outputs (c : Core) : List (Nat × List MByte) :=
  let k := c.t.task
  ((k.regions.zip k.places).zipIdx.filter (fun x => x.1.1.mode != 0)).map (fun x => (x.2, c.l1.readP x.1.2.1 x.1.2.2))

/-- Bytes of outputs. -/
def outBytes (outs : List (Nat × List MByte)) : Nat := (outs.map (fun o => o.2.length)).foldl (· + ·) 0

/-- Whether an operation that the task numbered on tl3 or tl4 of its core has not completed (R97). -/
def Thread.boundOps (t : Thread) : Bool :=
  t.task.nums.any (fun (x : Nat × Nat) => let l := if x.1 = 3 then t.tl[3] else t.tl[4]; l.val < x.2 && !l.done.contains x.2)

/-- Pages taken for parking, if they can all be found. -/
def State.takePages : Nat → State → Nat → Option (List Nat) × State
  | 0, s, _ => (some [], s)
  | n + 1, s, strand =>
    match s.takePage strand false with
    | (none, s) => (none, s)
    | (some p, s) =>
      let r := State.takePages n s strand
      (r.1.map (fun ps => p :: ps), r.2)

/-- The continuation of a task that gives up its core (R96, R97, R289). -/
def Core.continuation (c : Core) : Task :=
  let t := c.t
  let k := t.task
  let bound := t.boundOps
  { k with
    kind := 1, suspended := true, resumePc := t.pc
    liveRegs := (liveNums k.live).map (fun i => let r := t.getS (BitVec.ofNat 5 i); (r.val, r.psn))
    waitv := if t.yielded then BitVec.ofNat 32 t.tl[0].val else k.waitv
    boundTo := if bound then some c.cid else none, rerunnable := t.rerunnable, spent := t.budget }

/-- The end of a suspension: outputs parked in the pool's share or in pages, the continuation held by the hub, the core free
(R103, R288). Outputs that the share would take and the pool has no room for, because copy-outs fill it, go to pages: DESIGN CHOICE, log 70. -/
def State.suspend (s : State) (cid : Nat) : State :=
  let c := s.coreAt cid
  let l := c.t.lslot
  let die := dieOf cid
  let outs := c.outputs
  let n := outBytes outs
  let k := { c.continuation with parked := outs }
  let k? : Option Task × State :=
    if s.parkUsed die + n ≤ 2 ^ 21 && s.poolUsed die + n ≤ poolBytes then
      (some { k with parkBytes := n }, s.onLaunch l fun x => { x with
        pool := SMap.insert x.pool die (SMap.getD x.pool die 0 + n), parkedB := SMap.insert x.parkedB die (SMap.getD x.parkedB die 0 + n) })
    else
      let r := State.takePages ((n + 65535) / 65536) s (die / 8)
      match r.1 with
      | some ps => (some { k with parkPages := ps }, r.2.onLaunch l fun x => { x with owned := x.owned ++ ps })
      | none => (none, r.2)
  match k? with
  | (none, s) => s.launchFault l .wlSpill (s.unitFault l .wlSpill 2 die none 0)
  | (some k, s) =>
    let s := s.onBlock l die fun h => { h.forget k.uid with suspended := h.suspended ++ [k] }
    ((s.onCore cid Core.discard).push (.continuationReady l k.uid)).stir l die

/-- A gang member is done; the last one ends the gang, and the last gang the launch (R91). -/
def State.gangMemberEnds (s : State) (cid : Nat) : State :=
  let c := s.coreAt cid
  let l := c.t.lslot
  let g := c.t.gangNo
  let s := (s.onCore cid Core.discard).pushOnce (.taskDispatch (dieOf cid))
  match SMap.find? s.launches l with
  | none => s
  | some x =>
    if x.lrec.cores.any (fun m => (s.coreAt m).t.gang && (s.coreAt m).t.lslot == l && (s.coreAt m).t.gangNo == g && (s.coreAt m).t.mode != .idle) then s
    else
      let run := x.gangsRun.filter (fun n => n != g)
      let s := s.onLaunch l fun x => { x with gangsRun := run, tasks := x.tasks + 1 }
      if run.isEmpty && x.gangsLeft.isEmpty then s.endLaunch l .ok none else s

/-- The regions that a task has made for the one preloaded on its core are copied there before the release (R107): those of mode write and rw
of the same tile. -/
def State.handLocally (s : State) (cid : Nat) (k : Task) : State :=
  let c := s.coreAt cid
  match c.preload with
  | none => s
  | some p =>
    if p.task.lslot != c.t.lslot then s
    else
      let made := (k.regions.zip k.places).filter (fun x => x.1.mode == 1 || x.1.mode == 2)
      let fits := (p.task.regions.zipIdx).filterMap (fun x =>
        if x.1.mode % 2 = 1 || p.task.resident.contains x.2 then none
        else (made.find? (fun m => m.1.obj == x.1.obj && m.1.ty == x.1.ty && m.1.tx == x.1.tx)).map (fun m => (x, m.2)))
      let s := fits.foldl (fun s f => s.onL1 cid fun q => q.writeP (64 * f.1.1.l1off) (c.l1.readP f.2.1 f.2.2)) s
      s.onCore cid fun c => { c with preload := some { p with task := { p.task with resident := p.task.resident ++ fits.map (fun f => f.1.2) } } }

/-- TEND_COPY_OUT (R103): in the order of the TEND bundles, once the pool has room. -/
def execTendCopyOut (cid : Nat) (s : State) : Out :=
  let c := s.coreAt cid
  let l := c.t.lslot
  let die := dieOf cid
  if c.t.mode != .ending || c.t.hold.isSome then .next s
  else if c.t.gang then .next (s.gangMemberEnds cid)
  else if c.t.susp then .next (s.suspend cid)
  else
    let outs := c.outputs
    let n := outBytes outs
    if (s.hub die).copyQ.head? != some cid || s.poolUsed die + n > poolBytes then .next (s.push (.tendCopyOut cid))
    else
      let k := c.t.task
      let s := (s.handLocally cid k).onHub die fun h => { h with copyQ := h.copyQ.tail }
      let s := s.onLaunch l fun x => { x with
        pool := SMap.insert x.pool die (SMap.getD x.pool die 0 + n), retiring := x.retiring ++ [⟨k, die, cid, outs, n⟩] }
      let s := s.onBlock l die fun h => h.forget k.uid
      .next (((s.onCore cid Core.discard).push (.taskRetire l k.uid)).stir l die)

/-! ### TASK_RETIRE (R102, R105, R150) -/

/-- The elements of an output, as its region holds them. -/
def outElems (o : Obj) (r : Region) (bs : List MByte) : List Elem :=
  (o.tile r.ty r.tx).map (fun e => (e, (bs.drop (o.place o.size e.1 e.2)).take o.size))

/-- An element added into the object (R102): integers wrap, binary32 under RNE. -/
def reduceCode (ty a b : Nat) : Nat :=
  if ty = 8 then (encodeIeee .b32 32 .rne 0 0 (fsum (decodeF32 (BitVec.ofNat 32 a)) (decodeF32 (BitVec.ofNat 32 b))).1).1
  else (a + b) % 2 ^ (8 * typeSize ty)

/-- Why a write-back stops the launch: a bound violated at an address (R150). -/
abbrev Violation := Option Nat

/-- Adds the elements of an output of mode reduce into the object one by one (R102, R150). -/
def State.addElems (w : Who) (o : Obj) (r : Region) : List Elem → State → Access Violation
  | [], s => .ok (none, s)
  | e :: es, s =>
    let a := o.addr r.ty r.tx e.1.1 e.1.2
    Access.bind (s.readVa w a o.size) fun old s =>
      let psn := (psnOf e.2).or (psnOf old)
      let sum : Elem := (e.1, (leBytes o.size (reduceCode o.type (leNat (plain old)) e.code)).map (fun b => (b, psn)))
      if o.bact = 3 && o.violates sum.code then .ok (some a, s)
      else
        let s := s.boundFlag (w.lslot.getD 0) o [sum.code]
        Access.bind (s.writeVa w a (o.boundElem sum).2) fun _ s => State.addElems w o r es s

/-- Stores an output (R102, R150). -/
def State.storeOut (w : Who) (o : Obj) (r : Region) (es : List Elem) (s : State) : Access Violation :=
  if r.mode = 3 then State.addElems w o r es s
  else match (if o.bact = 3 then es.find? (fun e => o.violates e.code) else none) with
    | some e => .ok (some (o.addr r.ty r.tx e.1.1 e.1.2), s)
    | none =>
      let s := s.boundFlag (w.lslot.getD 0) o (es.map Elem.code)
      Access.bind (State.writeTile w o r.ty r.tx (es.map o.boundElem) s) fun _ s => .ok (none, s)

/-- Stores every output of a task in declaration order. -/
def State.storeOuts (l : Nat) (w : Who) (k : Task) : List (Nat × List MByte) → State → Access Violation
  | [], s => .ok (none, s)
  | (i, bs) :: rest, s =>
    match k.regions[i]? with
    | none => State.storeOuts l w k rest s
    | some r =>
      match k.robjs.getD i none with
      | none => State.storeOuts l w k rest s
      | some o =>
        Access.bind (State.storeOut w o r (outElems o r bs) s) fun v s =>
          match v with
          | some a => .ok (some a, s)
          | none => State.storeOuts l w k rest s

/-- One successor's PEND decremented; at 0 the task enters its bucket, a nest record goes to the walker. False: the handle is stale (R95,
R98, R105). -/
def State.succOne (s : State) (l : Nat) (handle : Word) : Bool × State :=
  let die := bits handle.toNat 31 26
  match (s.block l die).pending.find? (fun k => k.handle == handle) with
  | none => (false, s)
  | some k =>
    if k.pend > 1 then
      (true, s.onBlock l die fun h => { h with pending := h.pending.map (fun q => if q.uid = k.uid then { q with pend := q.pend - 1 } else q) })
    else
      let s := s.onBlock l die fun h => { h with pending := h.pending.filter (fun q => q.uid != k.uid) }
      (true, if k.kind = 2 then (s.freeSlot die k.handle).startWalk l die { k with pend := 0 } else s.insertTail l die { k with pend := 0 } true)

/-- The successors in handle order; a stale handle is dropped and faults the launch (R105). -/
def State.succAll (s : State) (l die : Nat) : List Word → State
  | [] => s
  | h :: hs =>
    let r := s.succOne l h
    if r.1 then State.succAll r.2 l die hs else (State.succAll r.2 l die hs).hubFault l die .succStale h.zext

/-- TASK_RETIRE (R105). -/
def execTaskRetire (l uid : Nat) (s : State) : Out :=
  match (SMap.find? s.launches l).bind (fun (x : Launch) => (x.retiring.find? (fun r => r.task.uid == uid)).map (fun r => (x, r))) with
  | none => .next s
  | some (x, r) =>
    let w : Who := ⟨r.cid, x.ctx, some l, true, dieOf r.cid⟩
    match State.storeOuts l w r.task r.outs s with
    | .error (.trap _ .prot val o s') => .next ((s'.unhold (.launch l)).faultOf ⟨r.cid, l, r.task.handle, 0⟩ .prot val o)
    | .error (.tag at' val s') => .next ((s'.unhold (.launch l)).tagFault at' (some ⟨r.cid, l, r.task.handle, 0⟩) val)
    | .error e => State.hubStop l r.die (.taskRetire l uid) e
    | .ok (some a, _) => .next ((s.unhold (.launch l)).hubFault l r.die .bound (BitVec.ofNat 64 a))
    | .ok (none, s) =>
      let s := s.unhold (.launch l)
      let s := s.onLaunch l fun x => { x with
        retiring := x.retiring.filter (fun q => q.task.uid != uid), deps := x.deps.filter (fun d => d.uid != uid), tasks := x.tasks + 1
        pool := SMap.insert x.pool r.die (SMap.getD x.pool r.die 0 - r.bytes) }
      let s := (s.onBlock l r.die fun h => { h with retired := h.retired + 1 }).freeSlot r.die r.task.handle
      let s := s.succAll l r.die r.task.succ
      .next ((s.diesOf l).foldl (fun s d => s.stir l d) s)

/-! ### CONTINUATION_READY (R96), BUDGET_EXCEEDED (R108) -/

/-- The awaited timeline of a continuation, in its launch on its core. -/
def State.tlAt (s : State) (cid l n : Nat) : Nat :=
  match (s.coreAt cid).contextOf l with
  | some t => ((t.tl.toList[n]?).map (fun (x : Timeline) => x.val)).getD 0
  | none => 0

/-- CONTINUATION_READY (R96, R111). -/
def execContinuationReady (l uid : Nat) (s : State) : Out :=
  match (SMap.find? s.launches l).bind (fun (x : Launch) => x.dieWith (fun h => h.suspended.any (fun k => k.uid == uid))) with
  | none => .next s
  | some die =>
    match (s.block l die).suspended.find? (fun k => k.uid == uid) with
    | none => .next s
    | some k =>
      if (s.tlAt (cidOf k.cx k.cy) l k.tln + (2 ^ 32 - k.waitv.toNat)) % 2 ^ 32 < 2 ^ 31 then
        let s := s.onBlock l die fun h => { h with suspended := h.suspended.filter (fun q => q.uid != uid) }
        .next (s.insertTail l die k true)
      else .next (s.push (.continuationReady l uid))

/-- BUDGET_EXCEEDED (R108). -/
def execBudgetExceeded (cid : Nat) (s : State) : Out :=
  let c := s.coreAt cid
  let r := s.recOf c.t.lslot
  if c.t.taskOpen && (c.t.mode == .run || c.t.mode == .ending) && r.task && r.tbudget != 0 && c.t.budget > r.tbudget then
    .next (s.launchFault c.t.lslot .budget (s.coreFault c .budget 2 none 0 0))
  else .next s

/-! ### GANG_START (R88 to R90) -/

/-- The lead of a gang and its members with their offsets (R88, R89). -/
def LaunchRec.gangLead (r : LaunchRec) (g : Nat) : Nat :=
  let per := 2 ^ (r.log2w - r.glog2w)
  cidOf (r.x0 + (g % per) * 2 ^ r.glog2w) (r.y0 + (g / per) * 2 ^ r.glog2h)
def LaunchRec.gangCores (r : LaunchRec) (g : Nat) : List (Nat × Nat × Nat) :=
  (List.range (2 ^ r.glog2h)).flatMap (fun dy => (List.range (2 ^ r.glog2w)).map (fun dx => (r.gangLead g + 32 * dy + dx, dx, dy)))
def LaunchRec.gangs (r : LaunchRec) : Nat := 2 ^ (r.log2w - r.glog2w) * 2 ^ (r.log2h - r.glog2h)

/-- Whether a core is free of work of equal or higher class (R90). -/
def Core.freeFor (c : Core) (deadline : Bool) : Bool := c.takes deadline && (deadline || c.preload.isNone)

/-- GANG_START (R90, R130): a deadline gang stops the throughput work on its cores. -/
def execGangStart (l g : Nat) (s : State) : Out :=
  match SMap.find? s.launches l with
  | none => .next s
  | some x =>
    let ms := x.lrec.gangCores g
    let again := fun (s : State) => s.push (.gangStart l g)
    if x.phase != .running || !x.gangsLeft.contains g then .next s
    else if s.ctxFrozen x.ctx then .next (again s)
    else if !ms.all (fun m => (s.coreAt m.1).freeFor x.lrec.deadline) then
      let s := if x.lrec.deadline then ms.foldl (fun s m =>
          let t := (s.coreAt m.1).t
          if (t.mode = .run || t.mode = .loading) && !s.isDeadline t.lslot && t.stop.isNone then s.pushOnce (.preemptRequest m.1 .deadline) else s) s
        else s
      .next (again s)
    else
      let lead := x.lrec.gangLead g
      match s.codeEntry (x.whoAt l (dieOf lead)) x.lrec.codeAddr 0 with
      | .error e => State.hubStop l (dieOf lead) (.gangStart l g) e
      | .ok (none, s) => .next (s.hubFault l (dieOf lead) .page x.lrec.codeAddr)
      | .ok (some e, s) =>
        let s := ms.foldl (fun s m => (s.cancelPreload m.1 false).onCore m.1 fun c =>
          let c := c.readyFor l x
          { c with t := c.t.forGang x.lrec g x.lrec.gangs m.2.1 m.2.2 lead e }) s
        let s := s.onLaunch l fun x => { x with gangsLeft := x.gangsLeft.filter (fun n => n != g), gangsRun := x.gangsRun ++ [g] }
        .next ((s.tryTable l lead x).push (.regionCopyInDone lead))

end Sys2Proof.Machine
end

