-- ==== Sys2Proof/Machine/Collect.lean ====
section
/-! DEFINITION. Collective groups: views (R53), reduction slots (R54 to R58), snapshots, journals and the spare's replay (R59 to R61), and the
Isaledin transport as it receives (R47 to R51). -/

namespace Sys2Proof.Machine

/-! ### Slots (R54) -/

def State.onL3 (s : State) (die : Nat) (f : Pad → Pad) : State := { s with l3 := SMap.insert s.l3 die (f (s.l3At die)) }

/-- Fields of a slot's descriptor (R54). -/
def Pad.slotAcc (p : Pad) (k : Nat) : Nat := p.slotWord k 0
def Pad.slotType (p : Pad) (k : Nat) : Nat := bits (p.slotWord k 1) 3 0
def Pad.slotTl (p : Pad) (k : Nat) : Nat := bits (p.slotWord k 1) 7 4
def Pad.slotGroup (p : Pad) (k : Nat) : Nat := bits (p.slotWord k 1) 15 8
def Pad.slotElems (p : Pad) (k : Nat) : Nat := bits (p.slotWord k 1) 39 16
def Pad.slotSignal (p : Pad) (k : Nat) : Nat := p.slotWord k 2
def Pad.slotView (p : Pad) (k : Nat) : Nat := bits (p.slotWord k 3) 63 32
def Pad.slotExpected (p : Pad) (k : Nat) : Nat := bits (p.slotWord k 3) 31 0
def Pad.slotMask (p : Pad) (k : Nat) : Nat := p.slotWord k 4
def Pad.slotDeadline (p : Pad) (k : Nat) : Nat := p.slotWord k 5
def Pad.slotOwner (p : Pad) (k : Nat) : Nat := bits (p.slotWord k 7) 11 8
def Pad.slotJournal (p : Pad) (k : Nat) : Bool := bitOf (p.slotWord k 7) 4

/-- ADDED, POISONED and DROPPED counted up. -/
def Pad.slotAdded (p : Pad) (k : Nat) : Pad := p.setSlotWord k 6 (p.slotWord k 6 + 2 ^ 32)
def Pad.slotPoisoned (p : Pad) (k : Nat) : Pad := p.setSlotWord k 6 (p.slotWord k 6 + 1)
def Pad.slotDropped (p : Pad) (k : Nat) : Pad :=
  let w := p.slotWord k 7
  p.setSlotWord k 7 (bits w 47 0 + satAdd 16 (bits w 63 48) 1 * 2 ^ 48)
def Pad.setSlotState (p : Pad) (k st : Nat) : Pad := p.setSlotWord k 7 (p.slotWord k 7 / 16 * 16 + st)

/-- The launch whose program uses a die's slots for a group: it has every core of the die (R171). -/
def State.slotLaunch (s : State) (die group : Nat) : Option (Nat × Launch) :=
  List.find? (fun (x : Nat × Launch) => x.2.lrec.mayUse (.l3 die 0) && x.2.lrec.group == group) s.launches

/-- A die's pad as a step of its slots finds it: zeroed first when the launch that has the die is of another context than the last that used it (R161). -/
def State.atSlots (s : State) (die : Nat) : State :=
  let users := (s.launches.filter (fun (x : Nat × Launch) => x.2.lrec.mayUse (.l3 die 0))).map (fun (x : Nat × Launch) => x.2.ctx)
  match users.head? with
  | some ctx => if users.any (fun c => SMap.find? s.l3Ctx die == some c) then s else s.serve ctx (.l3 die 0)
  | none => s

/-- The owner of a slot as who reads and writes its contributor map (R54). -/
def State.slotWho (s : State) (die k : Nat) : Option (Nat × Who) :=
  let p := s.l3At die
  (s.slotLaunch die (p.slotGroup k)).map (fun x => (x.1, ⟨cidInDie die (p.slotOwner k), x.2.ctx, some x.1, true, die⟩))

/-- The owner core's timeline raised to a value. -/
def State.slotRaiseTo (s : State) (die k v : Nat) : State :=
  let p := s.l3At die
  match s.slotLaunch die (p.slotGroup k) with
  | none => s
  | some (l, _) => s.onContext (cidInDie die (p.slotOwner k)) l fun t => t.raise (if p.slotTl k = 7 then 7 else 6) v

/-- The owner core's timeline raised to SIGNAL (R58). -/
def State.slotRaise (s : State) (die k : Nat) : State := s.slotRaiseTo die k ((s.l3At die).slotSignal k)

/-! ### The adder (R57) -/

/-- One element added: integers wrap, binary32 under RNE. -/
def slotSum (ty a b : Nat) : Nat := if ty = 2 then reduceCode 8 a b else (a + b) % 2 ^ (8 * slotElemSize ty)

/-- Elements added one by one: a poisoned element of the accumulator stays poisoned. -/
def addElems (ty size : Nat) : Nat → List PByte → List Byte → List PByte
  | 0, _, _ => []
  | n + 1, acc, c =>
    let old := acc.take size
    ((leBytes size (slotSum ty (leNat (plain old)) (leNat (c.take size)))).map (fun b => (b, psnOf old)))
      ++ addElems ty size n (acc.drop size) (c.drop size)

/-- A staged contribution added into its slot. -/
def Pad.addContribution (p : Pad) (c : Contribution) : Pad :=
  let size := slotElemSize c.type
  p.writeP (p.slotAcc c.slot) (addElems c.type size c.count (p.readP (p.slotAcc c.slot) (c.count * size)) c.elems)

/-- Whether the sender of a contribution is this device. -/
def State.isLocal (s : State) (c : Contribution) : Bool := (s.selfOf c.group).1 == c.sender

/-- The first staged contribution of a die that the choice takes is added, and its sender told (R57, R362). -/
def State.addOne (s : State) (die : Nat) (p : Contribution → Bool) : Option State :=
  match (s.port die).staged.find? p with
  | none => none
  | some c =>
    let s := (s.onPort die fun q => { q with staged := q.staged.erase c }).onL3 die fun q => q.addContribution c
    some (s.answer (s.isLocal c) c.sender c.lslot c.ack Fate.ok)

/-- Every staged contribution of a slot added. -/
def State.addAll : Nat → State → Nat → Nat → State
  | 0, s, _, _ => s
  | n + 1, s, die, k =>
    match s.addOne die (fun c => c.slot == k) with
    | some s => State.addAll n s die k
    | none => s

/-- CONTRIBUTION_ADD (R57): in the order in which the contributions were staged. -/
def execContributionAdd (die : Nat) (s : State) : Out := .next ((s.addOne die (fun _ => true)).getD s)

/-! ### Closing (R58, R60) -/

/-- What a journal entry holds (R60): the view, SIGNAL, STATE, the contributor map and the accumulator. Their widths and their order in the entry
are a DESIGN CHOICE, log 67. -/
def journalEntry (view signal st : Nat) (map acc : List Byte) : List Byte := leBytes 4 view ++ leBytes 8 signal ++ leBytes 4 st ++ map ++ acc

/-- Bytes of a contributor map (R54). -/
def mapBytes : Nat := 65536

/-- JSTATE and JCOUNT of a group's entry (R52). -/
def State.jstate (s : State) (e : Nat) : Nat × Nat × State :=
  let r := s.groupRaw e 6
  (bits r.1.val.toNat 3 0, bits r.1.val.toNat 15 8, r.2)
def State.setJournal (s : State) (e st n : Nat) : State := s.setGroupWord e 6 (BitVec.ofNat 64 (n % 256 * 256 + st))

/-- The buddy's line, when one is set and can be reached (R59, R60). BUDDY = SELF is taken as none set: DESIGN CHOICE, log 67. -/
def State.buddyLine (s : State) (e ctx : Nat) : Option Nat × State :=
  let g := s.selfOf e
  let b := g.2.groupWord e 2
  let m := bits b.1.val.toNat 17 0
  if s.dev.groupTab = 0 || m = g.1 then (none, b.2)
  else b.2.lineTo g.1 m ctx

/-- A closed slot with JOURNAL = 1 (R58, R60): appended at the buddy, whose acknowledgement it waits for; it signals at once when the
journal is full, the appends on their way counted, or no buddy can be reached. A contributor map that cannot be read goes as an empty one: R60 does not
say what is journalled then (DESIGN CHOICE, log 67). -/
def State.journalSlot (s : State) (die k : Nat) : State :=
  let p := s.l3At die
  let e := p.slotGroup k
  match s.slotWho die k with
  | none => s
  | some (_, w) =>
    let j := s.jstate e
    let b := j.2.2.buddyLine e w.ctx
    let s := b.2
    match b.1 with
    | none => (s.setJournal e 2 j.2.1).slotRaise die k
    | some line =>
      if j.1 != 0 then s.slotRaise die k
      else if j.2.1 + SMap.getD s.appends e 0 ≥ 64 then (s.setJournal e 1 j.2.1).slotRaise die k
      else
        let map : List Byte × State := match s.readVa w (p.slotMask k) mapBytes with
          | .ok (bs, s) => (plain bs, s)
          | .error e => ([], e.state)
        let s := map.2
        let bs := journalEntry (p.slotView k) (p.slotSignal k) (p.slotState k) map.1 (p.read (p.slotAcc k) (p.slotElems k * slotElemSize (p.slotType k)))
        { (s.emit (.journal e bs)).carry line bs with appends := SMap.insert s.appends e (SMap.getD s.appends e 0 + 1) }

/-- A launch whose binary32 slot has closed is ARRIVAL_ORDERED (R57, R75). -/
def State.markOrdered (s : State) (die k : Nat) : State :=
  let p := s.l3At die
  match s.slotLaunch die (p.slotGroup k) with
  | some (l, _) => if p.slotType k = 2 then s.onLaunch l fun x => { x with flags := x.flags ||| 0b10#16 } else s
  | none => s

/-- A slot closes with a STATE: its additions are made, then it is journalled or signals (R57, R58). -/
def State.closeSlot (s : State) (die k st : Nat) : State :=
  let s := s.addAll ((s.port die).staged.length + 1) die k
  let s := (s.markOrdered die k).onL3 die fun q => q.setSlotState k st
  if (s.l3At die).slotJournal k then s.journalSlot die k else s.slotRaise die k

/-- JOURNAL_APPEND_ACK (R58, R60). -/
def execJournalAppendAck (die slot : Nat) (s : State) : Out :=
  let s := s.atSlots die
  let e := (s.l3At die).slotGroup slot
  let j := s.jstate e
  let s := { j.2.2 with appends := SMap.insert j.2.2.appends e (SMap.getD j.2.2.appends e 0 - 1) }
  .next ((s.setJournal e j.1 (j.2.1 + 1)).slotRaise die slot)

/-- A slot whose DEADLINE device time has reached is closed by it, before anything else happens to it (R58). -/
def State.expire (s : State) (die k : Nat) : State :=
  let p := s.l3At die
  if p.slotState k = 1 && p.slotDeadline k != 0 && p.slotDeadline k ≤ s.dev.devTime.toNat then s.closeSlot die k 4 else s

/-- SLOT_DEADLINE (R58). -/
def execSlotDeadline (die slot : Nat) (s : State) : Out :=
  let s := s.atSlots die
  let p := s.l3At die
  if p.slotState slot != 1 || p.slotDeadline slot = 0 then .next s
  else if p.slotDeadline slot ≤ s.dev.devTime.toNat then .next (s.expire die slot)
  else .next (s.push (.slotDeadline die slot))

/-! ### Staging (R53, R56) -/

/-- Packets of the transport that carry a contribution, one for each piece of the path MTU, as the device itself sends them (R49, R50). -/
def packetsOf (c : Contribution) : Nat := (mtuPieces (c.elems.length / 4096 + 1) c.elems).length

/-- A contribution discarded and counted in DROPPED. -/
def State.dropCon (s : State) (c : Contribution) (local' : Bool) (fate : Nat) : State :=
  (s.onL3 c.die fun p => p.slotDropped c.slot).answer local' c.sender c.lslot c.ack fate

/-- The fate of a contribution whose map entry has been read (R56): the new entry, or none, and the fate. -/
def conFate (p : Pad) (c : Contribution) (entry : Nat) : Option Nat × Nat :=
  if entry = 3 then (none, Fate.staleView)
  else if entry = 1 || entry = 2 then (none, Fate.duplicate)
  else if c.count != p.slotElems c.slot || c.type != p.slotType c.slot then (some 2, Fate.badSize)
  else if c.poison then (some 2, Fate.poison)
  else (some 1, Fate.ok)

/-- A contribution judged at its slot: the count, the staging buffer, and the close when the slot has all it expects. -/
def State.settleCon (s : State) (c : Contribution) (local' : Bool) (f : Option Nat × Nat) : State :=
  match f with
  | (none, fate) => s.dropCon c local' fate
  | (some e, fate) =>
    let s := s.onL3 c.die fun p => if e = 1 then p.slotAdded c.slot else p.slotPoisoned c.slot
    let s := if e = 1 then (s.onPort c.die fun q => { q with staged := q.staged ++ [c] }).push (.contributionAdd c.die)
      else s.answer local' c.sender c.lslot c.ack fate
    let p := s.l3At c.die
    let n := bits (p.slotWord c.slot 6) 63 32 + bits (p.slotWord c.slot 6) 31 0
    if n ≥ p.slotExpected c.slot then s.closeSlot c.die c.slot 2 else s

/-- The map entry of a sender read, the fate found, and the entry written (R54, R56). -/
def State.mapStep (s : State) (w : Who) (c : Contribution) : Access (Option Nat × Nat) :=
  let p := s.l3At c.die
  let a := p.slotMask c.slot + c.sender / 4
  let sh := 2 * (c.sender % 4)
  Access.bind (s.readVa w a 1) fun bs s =>
    let v := leNat (plain bs)
    let f := conFate p c (bits v (sh + 1) sh)
    match f.1 with
    | none => .ok (f, s)
    | some e => Access.bind (s.writeVa w a (clean (leBytes 1 (v + e * 2 ^ sh)))) fun _ s => .ok (f, s)

/-- A contribution discarded under R53 counted at its port (R51): one at a Xogus port, each of its packets at an Ethernet port. -/
def State.staleCon (s : State) (port : Nat) (con : Contribution) : State :=
  if port < 64 then s.countStale port
  else s.onEth (port - 64) fun e => { e with stale := BitVec.ofNat 32 (satAdd 32 e.stale.toNat (packetsOf con)) }

/-- CONTRIBUTION_STAGED (R53, R56, R58): die is the receiving port, or 64 and the number of an Ethernet port. The fates of R56 name no slot whose die no launch
uses and no contributor map that cannot be read or written: such a contribution is NOT_ARMED and counts in DROPPED, and a map access that fails
faults the launch (DESIGN CHOICE, log 67). -/
def execContributionStaged (die : Nat) (con : Contribution) (s : State) : Out :=
  let local' := s.isLocal con
  let v := s.viewOf con.group
  let s := v.2
  if con.view < v.1 then
    .next ((if local' then s else s.staleCon die con).answer local' con.sender con.lslot con.ack Fate.staleView)
  else
    let s := (s.atSlots con.die).expire con.die con.slot
    let p := s.l3At con.die
    let st := p.slotState con.slot
    if st != 1 then .next (s.dropCon con local' (if 2 ≤ st && st ≤ 4 then Fate.closed else Fate.notArmed))
    else if con.view.toNat != p.slotView con.slot then .next (s.dropCon con local' Fate.staleView)
    else match s.slotWho con.die con.slot with
      | none => .next (s.dropCon con local' Fate.notArmed)
      | some (l, w) =>
        match s.mapStep w con with
        | .ok (f, s) => .next ((s.unhold (.launch l)).settleCon con local' f)
        | .error (.stall _ s') =>
          if s'.heldOut (.launch l) then .next (((s'.unhold (.launch l)).hubFault l con.die .page 0).dropCon con local' Fate.notArmed)
          else .next (s'.holdOn (.launch l) (.contributionStaged die con))
        | .error (.tag ctx val s') => .next ((s'.tagFault ctx none val).dropCon con local' Fate.notArmed)
        | .error (.paused s') => .next (s'.retry (.contributionStaged die con))
        | .error (.trap _ cause val _ s') => .next ((s'.hubFault l con.die (engineCause cause) val).dropCon con local' Fate.notArmed)
        | .error (.busy val s') => .next ((s'.hubFault l con.die .shadowBusy val).dropCon con local' Fate.notArmed)

/-! ### Arming (R55, R61) -/

/-- A slot of a spare that catches up closed from the next journal entry (R61): the accumulator, the map, STATE and the value to which the owner's
timeline is raised are the entry's. -/
def State.closeFromJournal (s : State) (die k : Nat) (entry : List Byte) : State :=
  let p := s.l3At die
  let map := (entry.drop 16).take mapBytes
  let s := match s.slotWho die k with
    | some (_, w) => (match s.writeVa w (p.slotMask k) (clean map) with
      | .ok (_, s) => s
      | .error _ => s)
    | none => s
  let s := (s.markOrdered die k).onL3 die fun q => (q.write (p.slotAcc k) (entry.drop (16 + mapBytes))).setSlotState k (field entry 12 4)
  s.slotRaiseTo die k (field entry 4 8)

/-- SLOT_ARM (R55, R61): an idle slot is armed after its fields are checked; an armed slot of a spare is closed from the journal when its
view is the entry's, unless the buddy's journal has passed its limits meanwhile: then the join fails. A program's store of STATE = 1 arms within its
own step. -/
def execSlotArm (die slot : Nat) (s : State) : Out :=
  let s := s.atSlots die
  let p := s.l3At die
  let e := p.slotGroup slot
  match p.slotState slot, SMap.find? s.catchUp e with
  | 1, some (entry :: rest) =>
    if (Config.buddyJournal s.tick e).isNone then .next { s with catchUp := SMap.erase s.catchUp e }
    else if field entry 0 4 = p.slotView slot then .next ({ s with catchUp := SMap.insert s.catchUp e rest }.closeFromJournal die slot entry)
    else .next s
  | 0, none =>
    let s := s.onL3 die fun q => q.armSlot slot
    .next (if (s.l3At die).slotState slot = 1 then s.slotArmed die slot else s)
  | _, _ => .next s

/-- SLOT_DISARM (R55): a store of STATE = 0. -/
def execSlotDisarm (die slot : Nat) (s : State) : Out :=
  let s := s.atSlots die
  .next (if (s.l3At die).slotState slot = 1 then s.onL3 die fun p => p.setSlotState slot 0 else s)

/-! ### Views (R45, R48, R53) -/

/-- What a queue pair carried when its member's entry turned out invalid (R48, R362): its operations, and the task packets that wait or have not
been accepted, take the fate UNREACHABLE; a task that was to be given away stays here. -/
def State.unreach (s : State) (q : QPair) : State :=
  let s := q.ops.foldl (fun (s : State) o => s.answer true q.self o.2.2 (some (o.1, o.2.1)) Fate.unreachable) s
  (q.line.queue ++ q.line.flying).foldl (fun (s : State) p =>
    let s := s.onLaunch p.lslot fun x => { x with heard := x.heard + 1 }
    let s := match p.page with
      | some pa => s.unspill p.lslot p.die pa
      | none => s
    match p.given.bind (fun uid => (s.block p.lslot p.die).giving.find? (fun x => x.2.uid == uid)) with
    | some x =>
      ((s.onBlock p.lslot p.die fun h => { h with giving := h.giving.filter (fun y => y.2.uid != x.2.uid) }).onLaunch p.lslot
        fun x => { x with remotes := x.remotes - 1 }).reenter p.lslot p.die x.2
    | none => s.answer true p.hdr.sender p.lslot p.hdr.ack Fate.unreachable) s

/-- Queue pairs bound again from the member address table; one whose member's entry is invalid is bound no more (R48). -/
def State.rebind (s : State) : State :=
  s.qps.foldl (fun (s : State) (q : Nat × QPair) =>
    let r := s.memberEntry q.2.member
    match r.1 with
    | some e => let a := r.2.memberAddr q.2.self; a.2.onQp q.1 fun x => x.bound a.1 e
    | none => { r.2 with qps := SMap.erase r.2.qps q.1 }.unreach ((SMap.find? r.2.qps q.1).getD q.2)) s

/-- The route to the spare that the driver installs with a view (R45). -/
def State.spareRoute (s : State) (e : Nat) : State :=
  match Config.driverRoute s.tick e with
  | none => s
  | some r => { s with spareAt := r }

/-! ### Snapshots and journals (R59, R60) -/

/-- The regions of a mirror table: at most 64, up to the first of length zero. -/
def State.mirrorRegions (s : State) (tab : Nat) : List (Nat × Nat) × State :=
  let r := s.physReadN (tab % 2 ^ 40) 1024
  let b := plain r.1
  (((List.range 64).map (fun i => (field b (16 * i) 8, field b (16 * i + 8) 8))).takeWhile (fun x => x.2 != 0), r.2)

/-- Each region read, in turn. -/
def State.readRegions (w : Who) : List (Nat × Nat) → State → Access (List (Nat × List Byte))
  | [], s => .ok ([], s)
  | (va, n) :: rs, s =>
    Access.bind (s.readVa w va n) fun bs s =>
      Access.bind (State.readRegions w rs s) fun rest s => .ok ((va, plain bs) :: rest, s)

/-- In whose name the regions of an entry's mirror table are reached: the core and context that wrote SNAP_GO, else the first launch of the
group (DESIGN CHOICE, log 67); with its launch. -/
def State.snapWho (s : State) (e : Nat) : Option (Nat × Who) :=
  match SMap.find? s.snaps e with
  | some x => (List.find? (fun (y : Nat × Launch) => y.2.ctx == x.2 && y.2.lrec.has x.1) s.launches).map fun y => (y.1, ⟨x.1, x.2, some y.1, true, dieOf x.1⟩)
  | none => (List.find? (fun (x : Nat × Launch) => x.2.lrec.group == e) s.launches).map fun x =>
    (x.1, ⟨x.2.lrec.cores.headD 0, x.2.ctx, some x.1, true, dieOf (x.2.lrec.cores.headD 0)⟩)

/-- SNAP_GO (R52, R59): the regions of the mirror table go to the buddy; SNAP_GO reads 1 until the snapshot is complete. With no buddy set or
reachable, or no launch in whose context the regions could be read, nothing is sent and it stays 1 (DESIGN CHOICE, log 67); JSTATE is 2 without a
buddy (R60). -/
def execSnapGo (e : Nat) (s : State) : Out :=
  if s.dev.groupTab = 0 then .next s
  else
    let s := s.setGroupWord e 7 1
    match s.snapWho e with
    | none => .next s
    | some (l, w) =>
      let b := s.buddyLine e w.ctx
      match b.1 with
      | none => let j := b.2.jstate e; .next (j.2.2.setJournal e 2 j.2.1)
      | some line =>
        let t := b.2.groupWord e 3
        let rs := t.2.mirrorRegions t.1.val.toNat
        match State.readRegions w rs.1 rs.2 with
        | .ok (ds, s) => .next (ds.foldl (fun (s : State) d => (s.emit (.mirror e d.1 d.2)).carry line d.2) (s.unhold (.launch l)))
        | .error st => State.hubStop l 80 (.snapGo e) st

/-- SNAPSHOT_COMPLETE (R59). With data: this device is the buddy, and the new snapshot becomes active. Without: the buddy of this device
has made it active. -/
def execSnapshotComplete (e : Nat) (data : Option (List (BitVec 8))) (s : State) : Out :=
  match data with
  | some bs => .next { s with buddies := SMap.insert s.buddies e { snapshot := bs, journal := [], overflowed := false } }
  | none =>
    let go := s.groupWord e 7
    if go.1.val.getLsbD 0 then
      let q := go.2.groupWord e 5
      .next { ((q.2.setGroupWord e 5 (q.1.val + 1)).setJournal e 0 0).setGroupWord e 7 0 with snaps := SMap.erase s.snaps e }
    else .next go.2

/-- A journal entry laid at JOURNAL_BASE of a group's entry, behind 64 KiB and the entries before it (R52; the layout is a DESIGN CHOICE, log 67). -/
def State.layJournal (s : State) (e off : Nat) (entry : List Byte) : State :=
  if s.dev.groupTab = 0 then s
  else let b := s.groupWord e 4; b.2.physWriteN ((b.1.val.toNat + 65536 + off) % 2 ^ 40) entry

/-- JOURNAL_APPEND (R52, R60): this device is the buddy. -/
def execJournalAppend (e : Nat) (entry : List (BitVec 8)) (s : State) : Out :=
  let b := SMap.getD s.buddies e {}
  let before := b.journal.foldl (fun n x => n + x.length) 0
  if b.overflowed || b.journal.length ≥ 64 || before + entry.length > 2 ^ 32 then
    .next { s with buddies := SMap.insert s.buddies e { b with overflowed := true } }
  else .next ({ s with buddies := SMap.insert s.buddies e { b with journal := b.journal ++ [entry] } }.layJournal e before entry)

/-! ### The spare (R61), and views (R53) -/

/-- Regions written with what the buddy's snapshot holds; what a page does not let in is left (log 65). -/
def State.writeRegions (w : Who) (bytes : Nat → Byte) : List (Nat × Nat) → State → State
  | [], s => s
  | (va, n) :: rs, s =>
    let s := match s.writeVa w va (clean ((List.range n).map (fun i => bytes (va + i)))) with
      | .ok (_, s) => s
      | .error _ => s
    State.writeRegions w bytes rs s

/-- A spare begins to catch up (R61): the regions are restored from the buddy's snapshot over the link to it, and the journal is to be replayed;
the join fails while the buddy cannot be reached or its journal has passed its limits. -/
def State.beginCatchUp (s : State) (e : Nat) : State :=
  match s.snapWho e, Config.buddyJournal s.tick e with
  | some (_, w), some entries =>
    let b := s.buddyLine e w.ctx
    if b.1.isNone then { b.2 with catchUp := SMap.erase b.2.catchUp e }
    else
      let t := b.2.groupWord e 3
      let rs := t.2.mirrorRegions t.1.val.toNat
      let s := State.writeRegions w (Config.snapshotByte s.tick e) rs.1 rs.2
      { s with catchUp := SMap.insert s.catchUp e entries }
  | _, _ => { s with catchUp := SMap.erase s.catchUp e }

/-- What an installed view makes of this device (R61): a member of it joins; one outside may be a spare that catches up, as the driver has it. -/
def State.joinView (s : State) (e : Nat) : State :=
  let g := s.selfOf e
  let m := g.2.inView e g.1
  if !m.1 && Config.catchesUp s.tick e then m.2.beginCatchUp e else { m.2 with catchUp := SMap.erase m.2.catchUp e }

/-- VIEW_INSTALL (R45, R53, R58, R61): the driver writes a larger VIEW. -/
def execViewInstall (e : Nat) (view : Word) (s : State) : Out :=
  let r := s.groupWord e 0
  let s := r.2
  if s.dev.groupTab = 0 || e ≥ 16 || view.toNat ≤ bits r.1.val.toNat 63 32 then .next s
  else
    let s := s.setGroupWord e 0 (putBits r.1.val 63 32 view.toNat)
    let armed := (s.l3.flatMap (fun (d : Nat × Pad) => ((List.range 64).filter (fun k =>
      d.2.slotState k == 1 && d.2.slotGroup k == e && d.2.slotView k < view.toNat)).map (fun k => (d.1, k))))
    let s := armed.foldl (fun (s : State) x =>
      let s := s.expire x.1 x.2
      if (s.l3At x.1).slotState x.2 = 1 then s.closeSlot x.1 x.2 3 else s) s
    .next ((s.rebind.spareRoute e).joinView e)

/-! ### The Isaledin transport receives (R47 to R51) -/

/-- Packets counted at the port of their queue pair; a mark of congestion is counted there, and notified to the pair, whose send rate falls (R47, R51; the
rate itself is timing, log 66). -/
def State.countRx (s : State) (qp : Nat) (q : QPair) (ce : Bool) (n : Nat) : State :=
  let s := s.onEth q.port fun e =>
    { e with rxPkts := BitVec.ofNat 64 (satAdd 64 e.rxPkts.toNat n), ecnCe := if ce then sat32 e.ecnCe else e.ecnCe }
  if ce then s.onQp qp fun q => { q with notified := q.notified + 1 } else s

/-- A queue pair that receives before it has sent is bound now, to the member that the driver has connected it to (R48, R49). -/
def State.heardQp (s : State) (qp : Nat) : State :=
  if (SMap.find? s.qps qp).isSome then s
  else let g := s.selfOf 0; (g.2.bindQp qp g.1 (Config.qpMember s.tick qp % 2 ^ 18) 0).2

/-- A packet of a queue pair, counted: one that waited for a page was counted when it came; one of a pair that is bound to no member is
dropped (R49, R51). -/
def State.onPair (s : State) (qp psn : Nat) (ce : Bool) (n : Nat) (k : QPair → State → Out) : Out :=
  let s := s.heardQp qp
  match SMap.find? s.qps qp with
  | none => .next (s.onEth (Config.arrivalPort s.tick qp % 2) fun e => { e with rxPkts := BitVec.ofNat 64 (satAdd 64 e.rxPkts.toNat n)
                                                                                ecnCe := if ce then sat32 e.ecnCe else e.ecnCe })
  | some q => k q (if q.counted = some psn then s.onQp qp fun q => { q with counted := none } else s.countRx qp q ce n)

/-- A request of n packets of a queue pair by its sequence number (R49): the expected one is served; an earlier one is acknowledged again, or for
a read request answered again; a later one is answered NAK. -/
def State.rdmaIn (s : State) (qp psn : Nat) (ce : Bool) (n : Nat) (serve : QPair → State → Out)
    (old : State → Out := fun s => .next (s.ackRdma qp psn false)) : Out :=
  s.onPair qp psn ce n fun q s =>
    let ahead := (psn + 2 ^ 24 - q.rxPsn.toNat) % 2 ^ 24
    if ahead = 0 then serve q s
    else if ahead < 2 ^ 23 then .next (s.ackRdma qp q.rxPsn.toNat true)
    else old s

/-- n packets from a number on taken: the next number is expected, and ACK of the last goes back. -/
def State.rdmaTaken (s : State) (qp psn n : Nat) : State :=
  (s.onQp qp fun q => { q with rxPsn := q.rxPsn + BitVec.ofNat 24 n }).ackRdma qp ((psn + n - 1) % 2 ^ 24) false

/-- A memory key as the driver has bound it: as the table holds it, or as its first use finds it (R49, log 66). -/
def State.keyFor (s : State) (key : Word) : Option MemKey × State :=
  match SMap.find? s.keys key.toNat with
  | some k => (some k, s)
  | none => match Config.memKey s.tick key.toNat with
    | some (ctx, base, len, wr) => (some ⟨ctx, base, len, wr⟩, { s with keys := SMap.insert s.keys key.toNat ⟨ctx, base, len, wr⟩ })
    | none => (none, s)

/-- Whether a key covers a range (R49). -/
def MemKey.covers (k : MemKey) (va : DWord) (n : Nat) (write : Bool) : Bool :=
  k.base ≤ va.toNat && va.toNat + n ≤ k.base + k.len && (k.wr || !write)

/-- An access of the transport to memory under a key: done, refused with NAK, or held until a page is placed. -/
def State.rdmaAccess {α : Type} (qp psn : Nat) (again : Instr) (x : Access α) (k : α → State → State) : Out :=
  match x with
  | .ok (v, s) => .next (k v (s.unhold .host))
  | .error (.tag ctx val s') => .next (((s'.unhold .host).tagFault ctx none val).ackRdma qp psn true)
  | .error (.stall _ s') =>
    if s'.heldOut .host then .next ((s'.unhold .host).ackRdma qp psn true)
    else .next ((s'.onQp qp fun q => { q with counted := some psn }).holdOn .host again)
  | .error (.paused s') => .next ((s'.onQp qp fun q => { q with counted := some psn }).retry again)
  | .error e => .next ((e.state.unhold .host).ackRdma qp psn true)

/-- A packet dropped and counted as unsupported at a port (R49, R51). -/
def State.unsupported (s : State) (p : Nat) : State := s.onEth p fun e => { e with rxPkts := sat64 e.rxPkts, unsupp := sat32 e.unsupp }

/-- A packet whose payload passes the path MTU uses a feature outside the subset (R49). -/
def State.withinMtu (s : State) (qp n : Nat) (k : Out) : Out :=
  if n ≤ 4096 then k
  else
    let s := s.heardQp qp
    .next (s.unsupported (((SMap.find? s.qps qp).map (fun (q : QPair) => q.port)).getD (Config.arrivalPort s.tick qp % 2)))

/-- ISALEDIN_WRITE_RX (R47, R49). -/
def execIsaledinWriteRx (qp psn : Nat) (ce : Bool) (key : Word) (va : DWord) (bytes : List (BitVec 8)) (s : State) : Out :=
  s.withinMtu qp bytes.length <| s.rdmaIn qp psn ce 1 fun _ s =>
    let m := s.keyFor key
    match m.1.filter (fun m => m.covers va bytes.length true) with
    | none => .next (m.2.ackRdma qp psn true)
    | some m' => State.rdmaAccess qp psn (.isaledinWriteRx qp psn ce key va bytes)
      (Access.bind (m.2.inPlaces (hostWho m'.ctx) .w va.toNat bytes.length) fun ps s => State.writeAll (hostWho m'.ctx) ps (clean bytes) s)
      fun _ s => s.rdmaTaken qp psn 1

/-- A read request answered in packets of at most the path MTU, from a number on (R49); taken: those numbers are expected no more. -/
def State.readReply (s : State) (qp psn : Nat) (taken : Bool) (bs : List Byte) : State :=
  let ps := mtuPieces (bs.length / 4096 + 1) bs
  let s := (ps.zipIdx).foldl (fun (s : State) p => s.offer qp (.response ((psn + p.2) % 2 ^ 24) p.1)) s
  if taken then s.onQp qp fun q => { q with rxPsn := q.rxPsn + BitVec.ofNat 24 ps.length } else s

/-- ISALEDIN_READ_REQUEST_RX (R49): the data goes back; a request that comes again, because an answer was lost, is answered again (go-back-N). -/
def execIsaledinReadRequestRx (qp psn : Nat) (ce : Bool) (key : Word) (va : DWord) (len : Nat) (s : State) : Out :=
  let serve := fun (taken : Bool) (s : State) =>
    let m := s.keyFor key
    match m.1.filter (fun m => m.covers va len false) with
    | none => Host.Outcome.next (m.2.ackRdma qp psn true)
    | some m' => State.rdmaAccess qp psn (.isaledinReadRequestRx qp psn ce key va len)
      (Access.bind (m.2.inPlaces (hostWho m'.ctx) .rd va.toNat len) fun ps s => State.readAll ps s)
      fun bs s => s.readReply qp psn taken (plain bs)
  s.rdmaIn qp psn ce 1 (fun _ s => serve true s) (serve false)

/-- Packets up to a number are acknowledged. -/
def QPair.acked (q : QPair) (psn : Nat) : QPair :=
  { q with unacked := q.unacked.filter (fun p => (p.1 + 2 ^ 24 - psn) % 2 ^ 24 != 0 && (p.1 + 2 ^ 24 - psn) % 2 ^ 24 < 2 ^ 23) }

/-- ISALEDIN_READ_RESPONSE_RX (R49): it acknowledges what came before it. The device itself sends no read request. -/
def execIsaledinReadResponseRx (qp psn : Nat) (ce : Bool) (bytes : List (BitVec 8)) (s : State) : Out :=
  s.withinMtu qp bytes.length <| s.onPair qp psn ce 1 fun _ s => .next (s.onQp qp fun q => q.acked psn)

/-- Whether a message is a packet of the queue pair's own. -/
def QMsg.isRequest : QMsg → Bool
  | .request .. => true
  | _ => false

/-- Every packet not yet acknowledged sent again, in order (go-back-N), unless its priority is paused. -/
def State.resend (s : State) (qp : Nat) : State :=
  match SMap.find? s.qps qp with
  | none => s
  | some q =>
    if s.pausedQp q then s.onQp qp fun q => { q with unsent := q.unsent.filter (fun m => !m.isRequest) ++ q.unacked.map (fun p => .request p.1 p.2) }
    else q.unacked.foldl (fun (s : State) p => s.transmit qp q p) s

/-- ISALEDIN_ACK_RX (R47, R49): NAK names the number that the peer expects. -/
def execIsaledinAckRx (qp psn : Nat) (ce nak : Bool) (s : State) : Out :=
  s.onPair qp psn ce 1 fun _ s =>
    if nak then .next ((s.onQp qp fun q => q.acked ((psn + 2 ^ 24 - 1) % 2 ^ 24)).resend qp) else .next (s.onQp qp fun q => q.acked psn)

/-- ISALEDIN_RETRANSMIT_TIMEOUT (R49). -/
def execIsaledinRetransmitTimeout (qp : Nat) (s : State) : Out := .next (s.resend qp)

/-- ISALEDIN_REDUCE_RX (R50): staged on the host die as a contribution. psn is the number of the first of its packets, one for each piece of the path
MTU, as the device itself sends them. -/
def execIsaledinReduceRx (qp psn : Nat) (ce : Bool) (con : Contribution) (s : State) : Out :=
  s.rdmaIn qp psn ce (packetsOf con) fun q s => .next ((s.rdmaTaken qp psn (packetsOf con)).push (.contributionStaged (64 + q.port) con))

/-- ISALEDIN_ENQUEUE_RX (R50): handled as TASK traffic. -/
def execIsaledinEnqueueRx (qp psn : Nat) (ce : Bool) (hdr : RemoteHdr) (pkt : List (BitVec 8)) (s : State) : Out :=
  s.withinMtu qp pkt.length <| s.rdmaIn qp psn ce 1 fun _ s => .next ((s.rdmaTaken qp psn 1).packetIn (64 + qp) hdr pkt)

/-- ISALEDIN_UNSUPPORTED_RX (R49, R51): dropped and counted. -/
def execIsaledinUnsupportedRx (p : Nat) (s : State) : Out := .next (s.unsupported p)

/-- PFC_PAUSE_RX (R47, R51): where flow control is enabled a priority is held back, or goes on with the packets that waited. -/
def execPfcPauseRx (p prio : Nat) (on : Bool) (s : State) : Out :=
  let s := s.onEth p fun e =>
    { e with pfcRx := sat32 e.pfcRx
             paused := if prio ≥ 4 || !Config.pfcEnabled p prio then e.paused else if on then e.paused ||| (1#4 <<< prio) else e.paused &&& ~~~(1#4 <<< prio) }
  if on then .next s
  else .next (s.qps.foldl (fun (s : State) (q : Nat × QPair) =>
    if q.2.port = p && q.2.prio = prio then
      q.2.unsent.foldl (fun (s : State) x => s.sendMsg q.1 q.2 x) (s.onQp q.1 fun x => { x with unsent := [] })
    else s) s)

/-- ETH_LINK_CHANGE (R51). -/
def execEthLinkChange (p : Nat) (up : Bool) (s : State) : Out := .next (s.onEth p fun e => { e with up := up })

end Sys2Proof.Machine
end

