-- ==== Sys2Proof/Machine/Control.lean ====
section
/-! DEFINITION. Task control, traps and return, control registers, waiting and sleeping (R285 to R293). CKPT stands with the stops
it serves. -/

namespace Sys2Proof.Machine

/-- NOP (R293). -/
def execNop (s : State) : Out := .next s

/-- The work of the core ends with this bundle (R287, R288): no bundle after it issues, and a later stop request stops nothing
(R131). -/
def Thread.finish (h : Hold) (t : Thread) : Thread := { t with mode := .ending, hold := some h, stop := none }

/-- The array's queue discarded, with tl2 at its issue counter (R340). -/
def Thread.dropArray (t : Thread) : Thread :=
  { t with arr := { w := t.arr.w }, tl := t.tl.set 2 { t.tl[2] with val := t.tl[2].issued, done := [] }
           ev := t.ev || t.tl[2].val != t.tl[2].issued }

/-- The core takes its place among the copy-outs of its die (R103). -/
def State.queueOut (s : State) : State :=
  if s.core.t.gang then s else s.onHub (dieOf s.core.cid) fun h => { h with copyQ := h.copyQ ++ [s.core.cid] }

/-- TEND (R287): a stream-array nest still running is stopped and its accumulators are lost (R340). -/
def execTend (s : State) : Out :=
  if s.core.t.handler then s.trap 1 .illegal 0
  else .next (s.mapT fun t => (t.finish .tend).dropArray).queueOut

/-- Whether an SGO with a prefix has had no SSTOP: a suspension would wait on tl2 for ever (R340). -/
def Thread.prefixOpen (t : Thread) : Bool :=
  t.arr.queue.any (fun o => match o with
    | .sgo _ _ _ _ none => t.isPrefix o
    | _ => false)

/-- Whether a LIVE mask is legal (R288). -/
def liveOk (live : Nat) : Bool := !live.testBit 0 && popcNat 32 live ≤ 16

/-- TSUSP (R288): the checks; what the core then waits for, and the record, stand with the hand-over to the hub. -/
def execTsusp (a b : BitVec 6) (s : State) : Out :=
  let x := s.srcC a
  let y := s.srcC b
  let t := s.core.t
  if t.handler || t.prefixOpen then s.trap 1 .illegal 0
  else s.checked [x.psn, y.psn] <|
      let live := bits x.val.toNat 63 32
      let v := y.val.low.toNat
      let cx := bits v 7 3
      let cy := bits v 12 8
      let there := cidOf cx cy
      if !liveOk live || bits v 31 13 != 0 || !s.lrec.has there || dieOf there != dieOf s.core.cid || t.gang then
        s.trap 3 .prot x.val
      else .next (s.mapT fun t => { t.finish .tsusp with task := { t.task with
        live := BitVec.ofNat 32 live, waitv := x.val.low, tln := bits v 2 0, cx := cx, cy := cy } })

/-- TYIELD (R289): in a task launch as TSUSP with s8 to s23 live, ready at once; in a gang launch a NOP. -/
def execTyield (s : State) : Out :=
  if s.core.t.handler then s.trap 1 .illegal 0
  else if s.core.t.gang then .next s
  else if s.core.t.prefixOpen then s.trap 1 .illegal 0
  else .next (s.mapT fun t => { t.finish .tyield with task := { t.task with
    live := 0x00FFFF00, tln := 0, cx := meshX s.core.cid, cy := meshY s.core.cid } })

/-- TRAP (R291). -/
def execTrap (a : BitVec 6) (s : State) : Out :=
  let x := s.srcC a
  s.checked [x.psn] (s.trap 3 .trap x.val.low.zext)

/-- ERET (R142, R291): the return is made at the end of the bundle, once no result of handler mode is in flight. -/
def execEret (s : State) : Out :=
  if s.core.t.handler then .next (s.mapT fun t => { t with hold := some .eretDrain }) else s.trap 1 .illegal 0

/-- The 64-bit value of a control register of the moving core (R157). -/
def State.csrRead (s : State) (n : Nat) : DWord := s.csrOf s.core n

/-- CSRD (R285): read at issue, delivered at +2; the latch queue receives the whole value. -/
def execCsrd (d : BitVec 6) (w : BitVec 1) (b : BitVec 6) (s : State) : Out := .next (s.putC64 2 d w (s.csrRead b.toNat))

/-- A write of a control register (R285): at +1; TRAPPC only in handler mode (R143); WLREACH goes to the keeper (R128). -/
def csrOp (op : CsrOp) (a b : BitVec 6) (s : State) : Out :=
  let x := s.srcC a
  if b = 8 ∧ s.core.t.handler = false then s.trap 1 .illegal 0
  else s.checked [x.psn] <|
    if b = 7 then
      if s.lrec.task then
        let old : DWord := BitVec.ofNat 64 (s.reachOf s.core)
        let v := match op with
          | .write => x.val
          | .set => old ||| x.val
          | .clear => old &&& ~~~x.val
        .next (s.push (.reachUpdate s.core.t.lslot (bits v.toNat 5 0)))
      else .next s
    else .next (s.later 1 (.csr b.toNat op x.val))

def execCswr (a b : BitVec 6) (s : State) : Out := csrOp .write a b s
def execCsset (a b : BitVec 6) (s : State) : Out := csrOp .set a b s
def execCsclr (a b : BitVec 6) (s : State) : Out := csrOp .clear a b s

/-- A wait for the event latch (R292, R293): issues when EV is 1 and clears it. A gang goes by its lead's EV. SLEEP power gates the core from its
first waited cycle; one that another wake has started again waits on without power gating (R154). -/
def waitEvent (h : Hold) (s : State) : Out :=
  let c := s.core
  if c.t.ev || (c.t.gang && c.t.lead != c.cid) then .next { s with core := { c with gated := false, t := { c.t with ev := false } } }
  else match h with
    | .sleep => ({ s with core := { c with gated := c.gated || !c.t.passed } } : State).wait .sleep
    | h => s.wait h

def execWfe (s : State) : Out := waitEvent .wfe s
def execSleep (s : State) : Out := waitEvent .sleep s

end Sys2Proof.Machine
end

