-- ==== Sys2Proof/Machine/Equiv.lean ====
section
/-! DEFINITION. The equivalence engine: forests in device memory (R222 to R235, R378) and the instructions of major 0x1F (R364). -/

namespace Sys2Proof.Machine

/-! ### Forests (R222) -/

/-- A forest descriptor. -/
structure Forest where
  at' : Nat
  parent : Nat
  size : Nat
  log : Nat
  logcap : Nat
  n : Nat
  count : Nat
  snap : Nat
  used : Nat
  resv : Nat
  undoing : Bool
  isOpen : Bool
  deriving DecidableEq, Repr

/-- The fields of a descriptor. -/
def forestOf (at' : Nat) (bs : List Byte) : Forest :=
  let w := fun (k : Nat) => field bs (8 * k) 8
  { at' := at', parent := w 0, size := w 1, log := w 2, logcap := bits (w 3) 63 32, n := bits (w 3) 30 0, count := bits (w 4) 63 32
    snap := bits (w 4) 31 0, used := bits (w 5) 63 32, resv := bits (w 5) 31 0, undoing := bitOf (w 6) 1, isOpen := bitOf (w 6) 0 }

/-- Whether a descriptor breaks a limit, or lies outside device memory (R222). -/
def forestBad (f : Forest) (bs : List Byte) : Bool :=
  f.n == 0 || f.n > 2 ^ 30 || f.parent % 64 != 0 || f.size % 64 != 0 || f.log % 64 != 0 || (f.log == 0 && f.logcap != 0)
  || bitOf (field bs 0x18 8) 31 || field bs 0x30 8 / 4 != 0 || field bs 0x38 8 != 0 || f.at' ≥ 0xFF000000000000

/-- Whether every page of a range is mapped in a context, or will be when it is used (R176, R222). -/
def State.mapped (s : State) (chiplet ctx va n : Nat) : Bool :=
  n == 0 || (va + n ≤ 0xFF000000000000 && (List.range ((va + n - 1) / 65536 - va / 65536 + 1)).all (fun i =>
    match (s.walk chiplet ctx (va / 65536 * 65536 + 65536 * i)).1 with
    | .bad _ => false
    | _ => true))

/-- An access of the engine whose answer is none when it read a poisoned word (R378). -/
abbrev EqAccess (α : Type) := Access (Option α)

def EqAccess.bind {α β : Type} (x : EqAccess α) (k : α → State → EqAccess β) : EqAccess β :=
  Access.bind x fun v s => match v with
    | some a => k a s
    | none => .ok (none, s)

/-- A number of n bytes read at an address. -/
def State.eqRead (s : State) (w : Who) (va n : Nat) : EqAccess Nat :=
  Access.bind (s.readVa w va n) fun bs s => .ok (if (psnOf bs).isSome then none else some (leNat (plain bs)), s)

/-- A number written. -/
def State.eqWrite (s : State) (w : Who) (va n v : Nat) : EqAccess Unit :=
  Access.bind (s.writeVa w va (clean (leBytes n v))) fun _ s => .ok (some (), s)

/-- The descriptor read as an operation reads it at its atomic unit. -/
def State.eqForest (s : State) (w : Who) (desc : DWord) : EqAccess Forest :=
  Access.bind (s.readVa w desc.toNat 64) fun bs s =>
    .ok (if (psnOf bs).isSome then none else some (forestOf desc.toNat (plain bs)), s)

/-- The checks of R222 on a descriptor at the acceptance of an operation: a malformed one is PROT. -/
def State.eqCheck (s : State) (w : Who) (desc : DWord) : EqAccess Forest :=
  Access.bind (s.readVa w desc.toNat 64) fun bs s =>
    let f := forestOf desc.toNat (plain bs)
    if (psnOf bs).isSome then .ok (none, s)
    else if forestBad f (plain bs) || !s.mapped w.chiplet w.ctx f.parent (4 * f.n) || !s.mapped w.chiplet w.ctx f.size (4 * f.n)
      || !s.mapped w.chiplet w.ctx f.log (8 * f.logcap) then .error (.trap 4 .prot desc none s)
    else .ok (some f, s)

/-- The hardware fields of a descriptor written. -/
def State.putForest (s : State) (w : Who) (f : Forest) : EqAccess Unit :=
  Access.bind (s.writeVa w (f.at' + 0x20) (clean (leBytes 8 (pair f.count f.snap) ++ leBytes 8 (pair f.used f.resv)
    ++ leBytes 8 (b2 f.undoing 1 + b2 f.isOpen 0)))) fun _ s => .ok (some (), s)
where
  b2 (b : Bool) (k : Nat) : Nat := if b then 2 ^ k else 0

/-- Places of a parent and a size. -/
def Forest.parentAt (f : Forest) (i : Nat) : Nat := f.parent + 4 * i
def Forest.sizeAt (f : Forest) (i : Nat) : Nat := f.size + 4 * i

/-- A write of a parent (kind 0) or size (kind 1), preceded by its log entry while the log is open (R230); reserved: the entry was reserved by
a union (R227). The place of the write is translated before the entry is made, so that an access that is held makes no entry twice. -/
def State.logged (s : State) (w : Who) (f : Forest) (kind i old new : Nat) (reserved : Bool) : EqAccess Forest :=
  let place := if kind = 0 then f.parentAt i else f.sizeAt i
  if !f.isOpen then EqAccess.bind (s.eqWrite w place 4 new) fun _ s => .ok (some f, s)
  else
    let f' := { f with used := f.used + 1, resv := if reserved then f.resv - 1 else f.resv }
    Access.bind (State.resolveAll w .w (pieces 4 place 4) s) fun pl s =>
      EqAccess.bind (s.eqWrite w (f.log + 8 * f.used) 8 (kind * 2 ^ 63 + i % 2 ^ 30 * 2 ^ 32 + old)) fun _ s =>
        EqAccess.bind (s.putForest w f') fun _ s =>
          Access.bind (State.writeAll w pl (clean (leBytes 4 new)) s) fun _ s => .ok (some f', s)

/-- The compression of a find (R226, R231): parent[x] goes from p to g unless g is p, another write has come between, or the log has no room for it. -/
def State.compress (s : State) (w : Who) (f : Forest) (x p g : Nat) : EqAccess Unit :=
  if g = p || (f.isOpen && f.used + f.resv + 1 > f.logcap) then .ok (some (), s)
  else
    EqAccess.bind (s.eqRead w (f.parentAt x) 4) fun q s =>
      if q != p then .ok (some (), s) else EqAccess.bind (s.logged w f 0 x p g false) fun _ s => .ok (some (), s)

/-- One hop of a find by an operation that holds the forest (R226): the element that comes next, or the root. -/
def State.hop (s : State) (w : Who) (f : Forest) (x : Nat) : EqAccess (Bool × Nat) :=
  EqAccess.bind (s.eqRead w (f.parentAt x) 4) fun p s =>
    if p = x then .ok (some (true, x), s)
    else
      EqAccess.bind (s.eqRead w (f.parentAt p) 4) fun g s =>
        EqAccess.bind (s.compress w f x p g) fun _ s => .ok (some (false, p), s)

/-- A whole find, by an operation that holds the forest. -/
def State.findAll (w : Who) (desc : DWord) : Nat → Nat → State → EqAccess Nat
  | 0, x, s => .ok (some x, s)
  | n + 1, x, s =>
    EqAccess.bind (s.eqForest w desc) fun f s =>
      EqAccess.bind (s.hop w f x) fun r s => if r.1 then .ok (some r.2, s) else State.findAll w desc n r.2 s

/-! ### Operations in flight (R232, R234) -/

/-- Who an operation is at the die where it acts (R223). -/
def EqOp.who (o : EqOp) : Who := ⟨o.cid, o.ctx, some o.lslot, true, o.to⟩

/-- An operation goes on to element x from the home at which it has just acted. -/
def EqOp.goTo (o : EqOp) (x : Nat) : EqOp := { o with at' := o.to, x := x }

def State.setEqOp (s : State) (o : EqOp) : State := { s with eqOps := s.eqOps.map (fun p => if p.id = o.id then o else p) }
def State.dropEqOp (s : State) (id : Nat) : State := { s with eqOps := s.eqOps.filter (fun p => p.id != id) }

/-- Whether two operations name one forest. -/
def EqOp.sameForest (x y : EqOp) : Bool := x.ctx == y.ctx && x.desc == y.desc

/-- The thread that issued an operation, where its context stands. -/
def State.eqThread (s : State) (o : EqOp) : Option Thread := (s.coreAt o.cid).contextOf o.lslot

/-- Whether an operation not yet accepted must wait: for an access of its core issued before it, a tile move or an operation before it on
common bytes (R196, R234) or on its forest, or the end of a hold on its forest (R232). -/
def State.eqWaits (s : State) (o : EqOp) : Bool :=
  (s.eqThread o).any (fun t => t.egressBefore o.seq
    || (t.tq0 ++ t.tq1).any (fun x => x.seq < o.seq && (t.opMem x).any (fun m => (s.eqRanges o).any (meets m.1))))
  || s.eqOps.any (fun p => p.id != o.id && p.phase != .done
      && ((p.phase == .hold && p.sameForest o)
        || (p.cid == o.cid && p.lslot == o.lslot && p.num < o.num
          && (p.sameForest o || (s.eqRanges p).any (fun a => (s.eqRanges o).any (meets a))))))

/-- Whether other operations that were accepted before still run on the forest that an operation holds (R232). -/
def State.eqOthers (s : State) (o : EqOp) : Bool :=
  s.eqOps.any (fun p => p.id != o.id && p.sameForest o && p.phase != .start && p.phase != .done)

/-- The value lands in the slot of the operation (R364). -/
def State.eqLand (s : State) (o : EqOp) : State :=
  match o.land with
  | none => s
  | some id => (s.onContext o.cid o.lslot fun t => t.fillLand id o.result).push (.landingDataReturn o.cid id)

/-- An operation has made every write, or has stopped: its status or value lands, and its completion is due. -/
def State.eqDone (s : State) (o : EqOp) (v : PDWord) : State :=
  let o := { o with result := v, at' := o.to }
  ((s.eqLand o).setEqOp { o with land := none, phase := .done }).push (.eqOpComplete o.id)

/-- The operation completes on tl3 (R234). -/
def State.eqRetire (s : State) (o : EqOp) : State := (s.onContext o.cid o.lslot fun t => t.complete 3 o.num).dropEqOp o.id

/-- A 32-bit status or value. -/
def word32 (v : Nat) : PDWord := ⟨Word.sext (BitVec.ofNat 32 v), none⟩

/-- What a fault of an operation names, wherever the context that issued it stands (R145, R146). -/
def State.eqIssuer (s : State) (o : EqOp) : Issuer := ⟨o.cid, o.lslot, ((s.eqThread o).map (fun (t : Thread) => t.task.handle)).getD 0, o.pc⟩

/-- A fault of an operation (R145, R146, R222, R364): the operation is gone. -/
def State.eqFault (s : State) (o : EqOp) (cause : Cause) (val : DWord) (origin : Psn := none) : State :=
  ((s.dropEqOp o.id).unhold (.engine o.cid)).faultOf (s.eqIssuer o) cause val origin

/-- An access of an operation stops: a translation fault is PAGE, a right that is missing PROT (R342). What ends the operation takes it out. -/
def State.eqStop (o : EqOp) (again : Instr) : Stop → Out
  | .stall h s =>
    if s.heldOut (.engine o.cid) then .next (s.eqFault o .page 0) else State.issuerStop (s.eqIssuer o) again (.stall h s)
  | .paused s => .next (s.retry again)
  | .trap _ cause val origin s => .next (s.eqFault o (engineCause cause) val origin)
  | .tag at' val s => .next (((s.dropEqOp o.id).unhold (.engine o.cid)).tagFault at' (some (s.eqIssuer o)) val)
  | .busy val s => .next (s.eqFault o .shadowBusy val)

/-- The entries that an operation has reserved and not written are free again (R227, R378). -/
def State.eqRelease (s : State) (o : EqOp) : State :=
  if o.resv = 0 then s
  else match EqAccess.bind (s.eqForest o.who o.desc) fun f s => s.putForest o.who { f with resv := f.resv - o.resv } with
    | .ok (_, s) => s
    | .error _ => s

/-- An EQUNDO that meets a poisoned descriptor has restored nothing: UNDOING is 0, and OPEN as it was (R378). -/
def State.undoStops (s : State) (o : EqOp) : State :=
  if o.kind = .undo ∧ o.phase = .hold then
    match s.writeVa o.who (o.desc.toNat + 0x30) (clean (leBytes 8 (if o.result.val = 0 then 1 else 0))) with
    | .ok (_, s) => s
    | .error _ => s
  else s

/-- An operation that read a poisoned word stops (R378): its reservation is released, and its status or value carries poison. -/
def State.eqPoison (s : State) (o : EqOp) : State :=
  (s.eqRelease o).eqDone o ⟨Word.sext (BitVec.ofNat 32 (Config.openVal s.tick).toNat), some .eccUe⟩

/-- A finding operation makes no store for R149 (R235): what its compression writes leaves the launch as replayable as it was. -/
def State.eqKeep (s s0 : State) (o : EqOp) : State :=
  if o.kind = .fd ∨ o.kind = .sz ∨ o.kind = .cnt then
    match SMap.find? s0.launches o.lslot with
    | some x => s.onLaunch o.lslot fun y => { y with replayable := x.replayable }
    | none => s
  else s

/-- Goes on with an access of an operation. -/
def State.eqThen {α : Type} (s : State) (o : EqOp) (again : Instr) (x : EqAccess α) (k : α → State → Out) : Out :=
  match x with
  | .ok (some v, s') => k v ((s'.eqKeep s o).unhold (.engine o.cid))
  | .ok (none, s') => .next (((s'.eqKeep s o).unhold (.engine o.cid)).eqPoison o)
  | .error e => State.eqStop o again e

/-- Whether every page of a range is a shadow page of a recoverable launch (R148, R235). -/
def State.onShadows (s : State) (o : EqOp) (va n : Nat) : Bool :=
  (s.recOf o.lslot).recov && (n == 0 || (List.range ((va + n - 1) / 65536 - va / 65536 + 1)).all (fun i =>
    match (s.walk (dieOf o.cid) o.ctx (va / 65536 * 65536 + 65536 * i)).1 with
    | .leaf e _ | .dz e .. => pteShadow e
    | .bad _ | .held => false))

/-- An operation that counts as a write of device memory is accepted: the launch stays replayable only if the forest lies on shadow pages
(R149, R235). -/
def State.eqMark (s : State) (o : EqOp) (f : Forest) : State :=
  if o.kind = .fd ∨ o.kind = .sz ∨ o.kind = .cnt then s
  else if s.onShadows o f.at' 64 && s.onShadows o f.parent (4 * f.n) && s.onShadows o f.size (4 * f.n) && s.onShadows o f.log (8 * f.logcap) then s
  else s.noReplay o.lslot

/-! ### Find and unite (R226 to R229) -/

/-- Where an operation goes once a find has reached a root. -/
def State.foundRoot (s : State) (o : EqOp) (f : Forest) (r : Nat) : Out :=
  match o.kind, o.phase with
  | .fd, _ => .next (s.eqDone o (word32 r))
  | .sz, _ => s.eqThen o (.eqFindHop o.id) (s.eqRead o.who (f.sizeAt r) 4) fun v s => .next (s.eqDone o (word32 v))
  | _, .find false => .next ((s.setEqOp { o.goTo o.b with ra := r, phase := .find true }).push (.eqFindHop o.id))
  | _, _ => .next ((s.setEqOp { o.goTo (max o.ra r) with rb := r, phase := .link }).push (.eqLink o.id))

/-- One access of a find, at the home of the element at hand (R223, R226): the parent of x; then the parent p of x named in up gives its own parent g; then
x, named in back with p and g, is compressed, and the find goes on at p. -/
def State.findHop (s : State) (o : EqOp) (f : Forest) : Out :=
  let on := fun (o : EqOp) (s : State) => Host.Outcome.next ((s.setEqOp o).push (.eqFindHop o.id))
  match o.back with
  | some (p, g) => s.eqThen o (.eqFindHop o.id) (s.compress o.who f o.x p g) fun _ s => on { o.goTo p with back := none } s
  | none =>
    s.eqThen o (.eqFindHop o.id) (s.eqRead o.who (f.parentAt o.x) 4) fun p s =>
      match o.up with
      | some x => if p = o.x then on { o with up := none } s else on { o.goTo x with up := none, back := some (o.x, p) } s
      | none => if p = o.x then s.foundRoot o f p else on { o.goTo p with up := some o.x } s

/-- Whether the operands of a find or union lie in the forest. -/
def EqOp.inRange (o : EqOp) (f : Forest) : Bool := o.a < f.n && (o.kind != .un || o.b < f.n)

/-- EQ_FIND_HOP (R226): the operation is accepted at the home of its first element, or a find makes its next access. -/
def execEqFindHop (op : Nat) (s : State) : Out :=
  match s.eqOp? op with
  | none => .next s
  | some o =>
    match o.phase with
    | .start =>
      if s.eqWaits o then .next (s.push (.eqFindHop op))
      else s.eqThen o (.eqFindHop op) (s.eqCheck o.who o.desc) fun f s =>
        if !o.inRange f then .next (s.eqDone o (word32 (if o.kind = .un then 3 else 0xFFFFFFFF)))
        else
          let o := { o with phase := .find false }
          ((s.eqMark o f).setEqOp o).findHop o f
    | .find _ => s.eqThen o (.eqFindHop op) (s.eqForest o.who o.desc) fun f s => s.findHop o f
    | _ => .next s

/-- The link of a union whose reservation stands (R227): the compare-and-swap of the parent of hi with the read of its size, at hi's home. -/
def State.eqCas (s : State) (o : EqOp) (lo hi : Nat) : Out :=
  let w := o.who
  s.eqThen o (.eqLink o.id) (EqAccess.bind (s.eqForest w o.desc) fun f s =>
      EqAccess.bind (s.eqRead w (f.parentAt hi) 4) fun p s => .ok (some (f, p), s)) fun fp s =>
    if fp.2 != hi then .next ((s.setEqOp { o.goTo hi with a := hi, b := lo, phase := .find false }).push (.eqFindHop o.id))
    else
      s.eqThen o (.eqLink o.id) (EqAccess.bind (s.eqRead w (fp.1.sizeAt hi) 4) fun sz s =>
        EqAccess.bind (s.logged w fp.1 0 hi hi lo (0 < o.resv)) fun f s =>
          EqAccess.bind (s.putForest w { f with count := f.count + 2 ^ 32 - 1 }) fun _ s => .ok (some sz, s)) fun sz s =>
        .next ((s.setEqOp { o.goTo lo with dval := sz, resv := o.resv - 1, phase := .delta }).push (.eqSizeDelta o.id))

/-- EQ_LINK (R227): the end of a union of one class, which releases its reservation; the reservation of a union that has none; the link. -/
def execEqLink (op : Nat) (s : State) : Out :=
  match s.eqOp? op with
  | none => .next s
  | some o =>
    if o.phase != .link then .next s
    else
      let w := o.who
      let lo := min o.ra o.rb
      let hi := max o.ra o.rb
      s.eqThen o (.eqLink op) (s.eqForest w o.desc) fun f s =>
        if lo = hi then
          s.eqThen o (.eqLink op) (s.putForest w { f with resv := f.resv - o.resv }) fun _ s => .next (s.eqDone { o with resv := 0 } (word32 1))
        else
          let need := if f.isOpen && o.resv == 0 then 2 else 0
          if need = 2 && f.used + f.resv + 2 > f.logcap then .next (s.eqDone o (word32 2))
          else
            s.eqThen o (.eqLink op) (s.putForest w { f with resv := f.resv + need }) fun _ s =>
              let o := { o with resv := o.resv + need }
              (s.setEqOp o).eqCas o lo hi

/-- EQ_SIZE_DELTA (R228): the delta lands at a root, or is sent on to the parent. -/
def execEqSizeDelta (op : Nat) (s : State) : Out :=
  match s.eqOp? op with
  | none => .next s
  | some o =>
    if o.phase != .delta then .next s
    else
      let w := o.who
      s.eqThen o (.eqSizeDelta op) (EqAccess.bind (s.eqForest w o.desc) fun f s =>
          EqAccess.bind (s.eqRead w (f.parentAt o.x) 4) fun p s => .ok (some (f, p), s)) fun fp s =>
        if fp.2 != o.x then .next ((s.setEqOp (o.goTo fp.2)).push (.eqSizeDelta op))
        else
          s.eqThen o (.eqSizeDelta op) (EqAccess.bind (s.eqRead w (fp.1.sizeAt o.x) 4) fun sz s =>
              s.logged w fp.1 1 o.x sz ((sz + o.dval) % 2 ^ 32) (0 < o.resv)) fun _ s =>
            .next (s.eqDone { o with resv := 0 } (word32 0))

/-! ### Operations that hold the forest (R224, R230, R232, R233) -/

/-- EQINIT's arrays, element by element (R224). -/
def State.eqInit (w : Who) (f : Forest) : List Nat → State → EqAccess Unit
  | [], s => .ok (some (), s)
  | i :: is, s =>
    EqAccess.bind (s.eqWrite w (f.parentAt i) 4 i) fun _ s =>
      EqAccess.bind (s.eqWrite w (f.sizeAt i) 4 1) fun _ s => State.eqInit w f is s

/-- EQUNDO's entries from k - 1 down (R232, R378): how many are left, 0 when every one is restored. -/
def State.eqUndo (w : Who) (f : Forest) : Nat → State → Access Nat
  | 0, s => .ok (0, s)
  | k + 1, s =>
    Access.bind (s.eqRead w (f.log + 8 * k) 8) fun e s =>
      match e with
      | none => .ok (k + 1, s)
      | some e =>
        let i := bits e 61 32
        Access.bind (s.eqWrite w (if bitOf e 63 then f.sizeAt i else f.parentAt i) 4 (bits e 31 0)) fun _ s => State.eqUndo w f k s

/-- Place of element (i, j) of an object (R180). -/
def Obj.elemAt (o : Obj) (i j : Nat) : Nat := (o.base + BitVec.ofNat 64 (i * o.rstride + j * o.estride)).toNat

/-- LABEL of EQRL (R233). -/
def State.eqLabel (w : Who) (desc : DWord) (n : Nat) (y : Obj) : List Nat → State → EqAccess Unit
  | [], s => .ok (some (), s)
  | i :: is, s =>
    EqAccess.bind (State.findAll w desc (n + 1) i s) fun r s =>
      EqAccess.bind (s.eqWrite w (y.elemAt i 0) 4 r) fun _ s => State.eqLabel w desc n y is s

/-- The parents of a forest. -/
def State.eqParents (w : Who) (f : Forest) : List Nat → State → EqAccess (List Nat)
  | [], s => .ok (some [], s)
  | i :: is, s =>
    EqAccess.bind (s.eqRead w (f.parentAt i) 4) fun p s =>
      EqAccess.bind (State.eqParents w f is s) fun rest s => .ok (some (p :: rest), s)

/-- The root of an element by a list of parents. -/
def rootIn (ps : List Nat) : Nat → Nat → Nat
  | 0, x => x
  | n + 1, x => let p := ps.getD x x; if p = x then x else rootIn ps n p

/-- A sum of REDUCE with one element more, with the exceptions it raises. -/
def reduceSum (ty : Nat) (acc : Nat × Exc) (v : Nat) : Nat × Exc :=
  if ty = 8 then
    let r := fadd32 acc.1 v
    (r.1, acc.2 ||| (r.2 &&& 0b00111))
  else ((acc.1 + v) % 2 ^ (8 * typeSize ty), 0)
where
  /-- A binary32 sum (R233): RNE, one NaN. -/
  fadd32 (a b : Nat) : Nat × Exc := encodeIeee .b32 32 .rne 0 0 (fsum (decodeF32 (BitVec.ofNat 32 a)) (decodeF32 (BitVec.ofNat 32 b))).1

/-- One column of one class summed over its members. -/
def State.eqColumn (w : Who) (x : Obj) (j : Nat) : List Nat → Nat × Exc → Psn → State → Access ((Nat × Exc) × Psn)
  | [], acc, psn, s => .ok ((acc, psn), s)
  | i :: is, acc, psn, s =>
    Access.bind (s.readVa w (x.elemAt i j) x.size) fun bs s =>
      State.eqColumn w x j is (reduceSum x.type acc (leNat (plain bs))) (psn.or (psnOf bs)) s

/-- REDUCE of EQRL (R233): every row of Y whose index is a root, column by column; the exceptions raised. -/
def State.eqReduce (w : Who) (x y : Obj) (members : Nat → List Nat) : List (Nat × Nat) → Exc → State → Access Exc
  | [], e, s => .ok (e, s)
  | (r, j) :: rest, e, s =>
    Access.bind (State.eqColumn w x j (members r) (0, 0) none s) fun v s =>
      Access.bind (s.writeVa w (y.elemAt r j) ((leBytes x.size v.1.1).map (fun b => (b, v.2)))) fun _ s =>
        State.eqReduce w x y members rest (e ||| v.1.2) s

/-- Exceptions of a reduction raised in the FPX of the issuing core (R160, R203, R233): an enabled one sets no flag and traps with ARITH at the
next bundle boundary outside handler mode (DESIGN CHOICE, log 48: the bundle that issued the word has gone). -/
def Thread.raised (t : Thread) (e : Exc) : Thread :=
  if e &&& fpxEn t.fpx = 0 then { t with fpx := t.fpx ||| e.zeroExtend 64 }
  else { t with tpend := t.tpend.or (some { rank := 3, cause := .arith, val := 0, origin := none }) }

/-- Whether the objects of an EQRL fit (R233). -/
def EqOp.objsFit (o : EqOp) (f : Forest) : Bool :=
  match o.kind, o.objX, o.objY with
  | .label, some x, _ => x.type == 2 && x.rows == f.n && x.cols == 1 && x.wr && !x.peer && !x.quant
  | .reduce, some x, some y =>
    (x.type == 6 || x.type == 7 || x.type == 8) && y.type == x.type && x.rows == f.n && y.rows == f.n && y.cols == x.cols && x.rd && y.wr
    && !x.peer && !y.peer && !x.quant && !y.quant
  | .label, _, _ | .reduce, _, _ => false
  | _, _, _ => true

/-- The status of a holder, by its checks as it takes the hold (R229, R364). -/
def EqOp.status (o : EqOp) (f : Forest) : Nat :=
  match o.kind with
  | .snap => if f.isOpen || f.log = 0 then 4 else 0
  | .undo | .drop => if f.isOpen then 0 else 5
  | _ => 0

/-- What a holder does to the forest once it has it for itself (R224, R230, R232, R233): UNDOING is 0 when it is done. One whose check failed
changes nothing else. -/
def State.eqHeld (s : State) (o : EqOp) (f : Forest) : EqAccess Unit :=
  let w := o.who
  let finish := fun (f : Forest) (s : State) => s.putForest w { f with undoing := false }
  if o.status f != 0 then finish f s
  else match o.kind with
  | .init =>
    EqAccess.bind (State.eqInit w f (List.range f.n) s) fun _ s =>
      finish { f with count := f.n, snap := f.n, used := 0, resv := 0, isOpen := false } s
  | .snap => finish { f with isOpen := true, used := 0, snap := f.count } s
  | .drop => finish { f with isOpen := false, used := 0 } s
  | .undo =>
    Access.bind (State.eqUndo w f f.used s) fun k s =>
      if k = 0 then finish { f with count := f.snap, used := 0, resv := 0 } s
      else EqAccess.bind (finish { f with used := k } s) fun _ s => .ok (none, s)
  | .label =>
    match o.objX with
    | none => finish f s
    | some y =>
      EqAccess.bind (State.eqLabel w o.desc f.n y (List.range f.n) s) fun _ s =>
        EqAccess.bind (s.eqForest w o.desc) fun f s => finish f s
  | .reduce =>
    match o.objX, o.objY with
    | some x, some y =>
      EqAccess.bind (State.eqParents w f (List.range f.n) s) fun ps s =>
        let roots := (List.range f.n).filter (fun i => ps.getD i i == i)
        let members := fun (r : Nat) => (List.range f.n).filter (fun i => rootIn ps (f.n + 1) i == r)
        Access.bind (State.eqReduce w x y members (roots.flatMap (fun r => (List.range x.cols).map (fun j => (r, j)))) 0 s) fun e s =>
          finish f (s.onContext o.cid o.lslot fun t => t.raised e)
    | _, _ => finish f s
  | _ => finish f s

/-- EQ_HOLD_END (R232): the holder is accepted, makes its checks and holds the forest; once it has the forest for itself it makes its writes, and the hold
ends. Its status lands then, with the poison that it has met (R364, R378): DEDUCED, log 48. -/
def execEqHoldEnd (op : Nat) (s : State) : Out :=
  match s.eqOp? op with
  | none => .next s
  | some o =>
    match o.phase with
    | .start =>
      if s.eqWaits o then .next (s.push (.eqHoldEnd op))
      else s.eqThen o (.eqHoldEnd op) (s.eqCheck o.who o.desc) fun f s =>
        if !o.objsFit f then .next (s.eqFault o .prot o.desc)
        else s.eqThen o (.eqHoldEnd op) (s.putForest o.who { f with undoing := true }) fun _ s =>
          .next (((s.eqMark o f).setEqOp { o with phase := .hold, result := word32 (o.status f) }).push (.eqHoldEnd op))
    | .hold =>
      if s.eqOthers o then .next (s.push (.eqHoldEnd op))
      else match s.eqForest o.who o.desc with
        | .ok (none, s) => .next (((s.undoStops o).unhold (.engine o.cid)).eqPoison o)
        | r => s.eqThen o (.eqHoldEnd op) (EqAccess.bind r fun f s => s.eqHeld o f) fun _ s => .next (s.eqDone o o.result)
    | _ => .next s

/-- EQ_OP_COMPLETE (R229, R234): an EQCNT reads COUNT when no hold keeps it waiting; an operation that has made its writes raises tl3. -/
def execEqOpComplete (op : Nat) (s : State) : Out :=
  match s.eqOp? op with
  | none => .next s
  | some o =>
    match o.phase with
    | .done => .next (s.eqRetire o)
    | .start =>
      if o.kind != .cnt then .next s
      else if s.eqWaits o then .next (s.push (.eqOpComplete op))
      else s.eqThen o (.eqOpComplete op) (s.eqCheck o.who o.desc) fun f s => .next (s.eqDone o (word32 f.count))
    | _ => .next s

/-! ### The instructions (R364) -/

/-- Which step begins an operation. -/
def EqKind.first (k : EqKind) (id : Nat) : Instr :=
  match k with
  | .un | .fd | .sz => .eqFindHop id
  | .cnt => .eqOpComplete id
  | _ => .eqHoldEnd id

/-- Whether an operation ends the task's rerunnability (R235). -/
def EqKind.stores (k : EqKind) : Bool :=
  match k with
  | .fd | .sz | .cnt => false
  | _ => true

/-- An operation leaves the core for the home of its first element: it takes a number on tl3, a landing slot for its value, and its place among the
accesses of the core. -/
def State.eqIssue (s : State) (kind : EqKind) (d : BitVec 5) (b : BitVec 4) (l : BitVec 10) (srcs : List Psn) (f : EqOp → EqOp) : Out :=
  let a := s.srcA b
  s.slotFree <| s.checked (a.psn :: srcs) <|
    if a.val.toNat % 64 != 0 then s.trap 3 .align a.val
    else if a.val.toNat ≥ 2 ^ 56 then s.trap 3 .page a.val
    else
      let r := s.core.t.takeNum 3
      let id := s.nextId
      let o : EqOp := f { id := id, cid := s.core.cid, ctx := s.core.t.ctx, lslot := s.core.t.lslot, num := r.2, pc := s.core.t.pc
                          land := some r.1.landId, kind := kind, desc := a.val, seq := s.core.t.moveSeq, at' := dieOf s.core.cid }
      let s := { s with nextId := id + 1, eqOps := s.eqOps ++ [{ o with x := o.a }] }.mapT fun _ =>
        { r.1 with task := { r.1.task with nums := r.1.task.nums ++ [(3, r.2)] }, rerunnable := r.1.rerunnable && !kind.stores
                   moveSeq := r.1.moveSeq + 1 }
      .next ((s.land d l.toNat none false).push (kind.first id))

/-- EQINIT (R224, R364). -/
def execEqinit (d : BitVec 5) (b : BitVec 4) (l : BitVec 10) (s : State) : Out := s.eqIssue .init d b l [] id

/-- EQUN (R227, R266, R364): D = 31 has no s(D + 1) and is ILLEGAL. -/
def execEqun (d : BitVec 5) (b : BitVec 4) (l : BitVec 10) (s : State) : Out :=
  let x := s.srcS d
  let y := s.srcS (d + 1)
  if d = 31 then s.trap 1 .illegal 0 else s.eqIssue .un d b l [x.psn, y.psn] fun o => { o with a := x.val.toNat, b := y.val.toNat }

/-- EQFD (R226, R364). -/
def execEqfd (d : BitVec 5) (b : BitVec 4) (l : BitVec 10) (s : State) : Out :=
  let x := s.srcS d
  s.eqIssue .fd d b l [x.psn] fun o => { o with a := x.val.toNat }

/-- EQSZ (R229, R364). -/
def execEqsz (d : BitVec 5) (b : BitVec 4) (l : BitVec 10) (s : State) : Out :=
  let x := s.srcS d
  s.eqIssue .sz d b l [x.psn] fun o => { o with a := x.val.toNat }

/-- EQCNT (R229, R364). -/
def execEqcnt (d : BitVec 5) (b : BitVec 4) (l : BitVec 10) (s : State) : Out := s.eqIssue .cnt d b l [] id

/-- EQRL (R233, R364): the objects are those of the window as the word issues. -/
def execEqrl (d : BitVec 5) (b : BitVec 4) (l : BitVec 10) (s : State) : Out :=
  let x := s.srcS d
  let v := x.val.toNat
  s.eqIssue (if v.testBit 0 then .reduce else .label) d b l [x.psn] fun o =>
    { o with objX := SMap.find? s.core.t.objs (bits v 13 8), objY := SMap.find? s.core.t.objs (bits v 21 16) }

/-- EQSNAP (R230, R364). -/
def execEqsnap (d : BitVec 5) (b : BitVec 4) (l : BitVec 10) (s : State) : Out := s.eqIssue .snap d b l [] id

/-- EQUNDO (R232, R364). -/
def execEqundo (d : BitVec 5) (b : BitVec 4) (l : BitVec 10) (s : State) : Out := s.eqIssue .undo d b l [] id

/-- EQDROP (R232, R364). -/
def execEqdrop (d : BitVec 5) (b : BitVec 4) (l : BitVec 10) (s : State) : Out := s.eqIssue .drop d b l [] id

end Sys2Proof.Machine
end

