-- ==== Sys2Proof/Machine/Manage.lean ====
section
/-! DEFINITION. The side-band port and what lies behind it (R80 to R82), bring-up (R83, R84), power and temperature (R37, R38, R80,
R154), faults of the whole device and of a hub (R27, R144, R149), and the hops of the fabric (R24 to R27, R39). -/

namespace Sys2Proof.Machine

/-! ### Faults of the device (R144) -/

/-- A DEVICE fault: one record, and every launch ends FAULTED. -/
def State.deviceFault (s : State) (chiplet : Nat) : State :=
  let r : FaultRec := { time := s.dev.devTime, launchId := 0, cause := .device, level := 4, ctx := 0, chiplet := chiplet, core := 0
                        origin := none, handle := 0, pc := 0, value := 0, save := 0, frozenCid := none }
  (s.launches.map Prod.fst).foldl (fun (s : State) l => (s.countFault l .device).endLaunch l .faulted (some .device)) (s.logFault r)

/-- UNCORRECTABLE_FABRIC_ERROR (R144). -/
def execUncorrectableFabricError (chiplet : Nat) (s : State) : Out := .next (s.deviceFault chiplet)

/-- HUB_SOFT_ERROR (R144, R149): HUB_ERR of a launch, which a replayable launch is replayed from. -/
def execHubSoftError (die l : Nat) (s : State) : Out := .next (s.replay l (s.unitFault l .hubErr 2 die none 0))

/-! ### Hops (R24 to R27) -/

def State.onHop (s : State) (h : Nat) (f : Hop → Hop) : State := if k : h < 89 then { s with hops := s.hops.set h (f s.hops[h]) k } else s

/-- The ring that holds a hop: a strand, or 8 for the trunk (R21, R25). -/
def ringOf (h : Nat) : Nat := if h < 80 then h / 10 else 8

/-- A chiplet at a hop, which a fault record names: the first that the hop joins (R20, R21). -/
def chipletOf (h : Nat) : Nat :=
  if h < 80 then
    let st := h / 10
    let j := h % 10
    if j = 0 then 64 + 2 * st else if j = 5 then 65 + 2 * st else if j < 5 then 8 * st + j - 1 else 8 * st + j - 2
  else if h = 80 then 80 else 64 + 2 * (h - 81)

/-- A hop goes down (R27): a second one in its ring splits the ring, which is a device fault. -/
def State.hopDown (s : State) (h : Nat) : State :=
  let s := ({ s with repairs := s.repairs.filter (fun x => x.2.1 != h) } : State).onHop h fun x => { x with state := .down }
  let down := (s.hops.toList.zipIdx).filter (fun x => x.1.state == .down && ringOf x.2 == ringOf h)
  if down.length ≥ 2 then s.deviceFault (chipletOf h) else s

/-- Modules that a hop has besides its spare (R24). -/
def hopModules (h : Nat) : Nat := if h < 80 then 8 else 16

/-- The failing module's lanes moved to the spare, or, when it is in use, one more module run at 8 lanes (R26). MODS_X8 has 4 bits: with all
16 modules of a trunk hop at 8 lanes it stays at 15, a DESIGN CHOICE (log 64). -/
def Hop.repair (x : Hop) (h : Nat) : Hop :=
  if !x.spareUsed then { x with spareUsed := true, state := .retraining }
  else { x with modsX8 := BitVec.ofNat 4 (min (min 15 (hopModules h)) (x.modsX8.toNat + 1)), state := .retraining }

/-- Whether a hop is under repair: the controller repairs one at a time (R26). -/
def State.repairing (s : State) : Bool := s.hops.toList.any (fun x => x.state == .paused || x.state == .retraining)

def State.hopAt (s : State) (h : Nat) : Hop := if k : h < 89 then s.hops[h] else {}

/-- A hop's turn: it is paused and its repair is due, or it is retrained (R26). -/
def State.startRepair (s : State) (h : Nat) (retrain : Bool) : State :=
  if retrain then (s.onHop h fun x => { x with state := .retraining }).push (.hopRepairResume h)
  else (s.onHop h fun x => { x with state := .paused }).push (.hopRepair h (Config.repairable s.tick))

/-- A hop takes its place among those that wait for the controller: in the order of crossing, ties to the lower h (R26). -/
def placeRepair (e : Nat × Nat × Bool) : List (Nat × Nat × Bool) → List (Nat × Nat × Bool)
  | [] => [e]
  | x :: xs => if x.1 < e.1 || (x.1 == e.1 && x.2.1 ≤ e.2.1) then x :: placeRepair e xs else e :: x :: xs

/-- The controller takes the next hop that waits, unless it repairs one (R26). -/
def State.nextRepair (s : State) : State :=
  if s.repairing then s
  else match s.repairs with
    | [] => s
    | x :: rest => { s with repairs := rest }.startRepair x.2.1 x.2.2

/-- A repair is asked for a hop that is not down and does not wait for one already; one under repair is repaired again when its turn comes (R26). -/
def State.askRepair (s : State) (h : Nat) (retrain : Bool) : State :=
  if h ≥ 89 || (s.hopAt h).state == .down || s.repairs.any (fun x => x.2.1 == h) then s
  else { s with repairs := placeRepair (s.dev.devTime.toNat, h, retrain) s.repairs }.nextRepair

/-- Hops whose WIN_RETRY exceeds the repair threshold as it has been set: a repair of each is asked, the lower h first (R26). -/
def State.overThreshold (s : State) : State :=
  ((List.range 89).filter (fun h => (s.hopAt h).winRetry.toNat > s.repairThr)).foldl (fun s h => s.askRepair h false) s

/-- HOP_REPAIR (R26, R27): the paused hop's failing module is moved and the hop retrained, or the hop is set down when it cannot be
repaired. A hop in use whose module has lost training is repaired at once, or waits its turn while the controller repairs another. -/
def execHopRepair (h : Nat) (repaired : Bool) (s : State) : Out :=
  let x := s.hopAt h
  if h ≥ 89 || x.state == .down || x.state == .retraining then .next s
  else if x.state != .paused && s.repairing then .next (s.askRepair h false)
  else if repaired then .next ((s.onHop h fun x => x.repair h).push (.hopRepairResume h))
  else .next (s.hopDown h).nextRepair

/-- HOP_REPAIR_RESUME (R26): up, or degraded while a module runs at 8 lanes (R25); the controller takes the next hop. -/
def execHopRepairResume (h : Nat) (s : State) : Out :=
  .next (s.onHop h fun x => if x.state == .retraining then { x with state := if x.modsX8 = 0 then .up else .degraded } else x).nextRepair

/-- A flit of a hop or port fails its CRC and is replayed (R24, R25, R39). -/
def Hop.replayed (x : Hop) : Hop :=
  { x with retryCnt := satInc16 x.retryCnt, crcCnt := satInc16 x.crcCnt, window := x.window + 1 }

/-- FLIT_REPLAY (R24, R25): delivered once and in order; programs see latency only. -/
def execFlitReplay (h : Nat) (s : State) : Out := .next (s.onHop h Hop.replayed)

/-- The replays of a window of 1 ms, at its end. -/
def Hop.endWindow (x : Hop) : Hop := { x with winRetry := BitVec.ofNat 8 (min 255 x.window), window := 0 }

/-- RETRY_WINDOW_END (R25, R26, R39): a window of 1 ms ends at a hop, which is repaired when its replays exceed the threshold, or at a Xogus
port, numbered from 89 on. -/
def execRetryWindowEnd (h : Nat) (s : State) : Out :=
  .next (if h < 89 then
      let s := s.onHop h Hop.endWindow
      if (s.hopAt h).winRetry.toNat > s.repairThr then s.askRepair h false else s
    else s.onPort (h - 89) fun p => { p with link := p.link.endWindow })

/-- XOGUS_FLIT_REPLAY (R39). -/
def execXogusFlitReplay (d : Nat) (s : State) : Out := .next (s.onPort d fun p => { p with link := p.link.replayed })

/-- PORT_RETRAIN (R39): the port runs at 2 lanes, or is down when it cannot train. -/
def execPortRetrain (d : Nat) (ok : Bool) (s : State) : Out :=
  .next (s.onPort d fun p => if ok then { p with lanes2 := true, link := { p.link with state := .degraded } }
    else { p with link := { p.link with state := .down } })

/-! ### Power, clocks, temperature (R37, R38, R80, R154) -/

/-- Clocks one step of 1/16 of nominal lower, or higher (R38): one step an event, never below 1/16, is a DESIGN CHOICE (log 43). -/
def State.slower (s : State) : State := { s with clockSteps := max 1 (s.clockSteps - 1) }
def State.faster (s : State) : State := { s with clockSteps := min 16 (s.clockSteps + 1) }

/-- POWER_CAP_WINDOW (R37, R38): a window of 10 ms ends with an average power. The clocks rise one step at every window at or below the cap, a
DESIGN CHOICE (log 43). -/
def execPowerCapWindow (watts : Nat) (s : State) : Out := .next (if watts > s.dev.powerCap.toNat then s.slower else s.faster)

/-- THERMAL_THROTTLE (R38): 105 °C. -/
def execThermalThrottle (s : State) : Out := .next s.slower

/-- THERMAL_SHUTDOWN (R38): 115 °C. The record names the host die, a DESIGN CHOICE (log 43). -/
def execThermalShutdown (s : State) : Out := .next (s.deviceFault 80)

/-- POWER_GATE (R154): a core that has been idle for 4,096 cycles; everything it holds is kept. -/
def execPowerGate (cid : Nat) (s : State) : Out :=
  .next (s.onCore cid fun c => if c.t.mode == .idle && c.idleCycles ≥ 4096 then { c with gated := true } else c)

/-- CORE_WAKE (R154, R293). -/
def execCoreWake (cid : Nat) (s : State) : Out := .next (s.onCore cid fun c => { c with gated := false, idleCycles := 0 })

/-- What survives the loss of module power: the committed firmware and the minimum version it raised (R82). -/
def State.unpowered (s : State) (powered : Bool) : State :=
  { State.reset with
    powered := powered, fwImages := s.fwImages, fwMin := s.fwMin, imgVersion := s.imgVersion, outbox := s.outbox, tick := s.tick, turn := s.turn }

/-- MODULE_POWER_LOSS (R80): the device and the side-band port stop. -/
def execModulePowerLoss (s : State) : Out := .next (s.unpowered false)

/-- POWER_ON (R83): bring-up starts. -/
def execPowerOn (s : State) : Out := .next (if s.powered then s else s.unpowered true)

/-- PCIE_LINK_TRAINING (R80). -/
def execPcieLinkTraining (up : Bool) (s : State) : Out := .next { s with pcieUp := up }

/-! ### Side-band commands (R80, R81) -/

/-- TELEMETRY: power, a temperature for each of the 81 chiplets, POWER_CAP, DEV_STATE. -/
def execTelemetry (s : State) : Out :=
  .next (s.emit (.telemetry (Config.power s.tick) ((List.range 81).map (Config.temperature s.tick)) s.dev.powerCap s.dev.devState))

/-- READ_BLOCK: the 64 bytes of BAR 0 that hold an offset. -/
def execReadBlock (off : Nat) (s : State) : Out :=
  .next (s.emit (.block ((List.range 8).flatMap (fun k => leBytes 8 (s.bar0 (off / 64 * 64 + 8 * k))))))

/-- What stays of a save area when the frozen core is reset: the work of another launch than the one that faulted (R145; DESIGN CHOICE, log 14). -/
def Saved.thaw (a : Saved) : Option Saved :=
  if a.kind == .frozen then a.resumes.map fun k => { a with kind := k, resumes := none } else some a

/-- A core frozen by PROT or TAG is reset once its record has been read, and its save area is free (R145). A save of other work that is still being
written goes on. -/
def Core.thaw (c : Core) : Core :=
  if c.t.mode == .stopping then { c with savedT := c.savedT.bind Saved.thaw, savedD := c.savedD.bind Saved.thaw, protFrozen := false }
  else { cid := c.cid, savedT := c.savedT.bind Saved.thaw, savedD := c.savedD.bind Saved.thaw, cseq := c.cseq }

/-- FAULT_LOG (R80, R145): the oldest record is returned and removed. -/
def execFaultLog (s : State) : Out :=
  match s.faultLog with
  | [] => .next (s.emit (.faultRecord none))
  | r :: rest =>
    let s := ({ s with faultLog := rest } : State).emit (.faultRecord (some r))
    match r.frozenCid with
    | some cid => .next ((s.onCore cid Core.thaw).pushOnce (.taskDispatch (dieOf cid)))
    | none => .next s

/-- Leads and single cores that run work of a context. -/
def State.runners (s : State) (ctx : Nat) : List Nat :=
  ((s.core :: s.parked.map (fun (c : Nat × Core) => c.2)).filter (fun c =>
    (c.t.mode == .run || c.t.mode == .loading) && c.t.ctx == ctx && (!c.t.gang || c.t.lead == c.cid))).map (fun c => c.cid)

/-- FREEZE (R80, R81, R130): the host interface, or a context, whose cores stop immediately. -/
def execFreeze (target : Option Nat) (s : State) : Out :=
  match target with
  | none => .next { s with dev := { s.dev with hostFrozen := true } }
  | some ctx => .next ((s.runners ctx).foldl (fun s c => s.requestStop c .freeze) (s.onCtx ctx fun c => { c with mgmtFrozen := true }))

/-- Held notifications and messages sent in the order in which they came to be held (R81): the order lists each of them. -/
def State.sendHeld : List Bool → List (DWord × DWord) → List (Nat × List Word) → State → State
  | false :: os, n :: ns, ms, s => State.sendHeld os ns ms (s.emit (.notify n.1 n.2))
  | true :: os, ns, m :: ms, s => State.sendHeld os ns ms (s.sendMsix m.1 m.2)
  | _, ns, ms, s => ms.foldl (fun (s : State) m => s.sendMsix m.1 m.2) (ns.foldl (fun (s : State) n => s.emit (.notify n.1 n.2)) s)

/-- The messages whose windows have ended meanwhile. -/
def State.fireExpired (s : State) : State :=
  (s.msix.filter (fun m => m.expiry.any (fun e => e ≤ s.dev.devTime))).foldl (fun (s : State) m => s.fireVector m.vector []) s

/-- Held notifications and messages are sent in order, with those whose window has ended meanwhile, then the reports that wait, each of which frees its
slot (R81). -/
def State.releaseHost (s : State) : State :=
  let s : State := { s with dev := { s.dev with hostFrozen := false } }
  let notes := s.heldNotes
  let msgs := s.heldMsix
  let order := s.heldOrder
  let waits := s.waitingReports
  let s : State := { s with heldNotes := [], heldMsix := [], heldOrder := [], waitingReports := [] }
  let s := (State.sendHeld order notes msgs s).fireExpired
  waits.foldl (fun (s : State) l => match SMap.find? s.launches l with
    | some x => (s.tellHost x true).freeLaunch l
    | none => s) s

/-- RELEASE (R80, R81, R130). -/
def execRelease (target : Option Nat) (s : State) : Out :=
  match target with
  | none => .next s.releaseHost
  | some ctx => .next ((List.range 64).foldl (fun s d => s.pushOnce (.taskDispatch d)) (s.onCtx ctx fun c => { c with mgmtFrozen := false }))

/-- LINK_SERVICE (R80, R26, R27, R39). -/
def execLinkService (cmd : LinkCmd) (s : State) : Out :=
  match cmd with
  | .setThreshold n => .next (({ s with repairThr := n } : State).overThreshold)
  | .retrainHop h => .next (s.askRepair h true)
  | .disableHop h => .next (if h < 89 then (s.hopDown h).nextRepair else s)
  | .retrainPort d => .next (s.onPort d fun p => { p with link := { p.link with state := .retraining } })
  | .disablePort d => .next (s.onPort d fun p => { p with link := { p.link with state := .down } })

/-- FW_UPDATE (R80, R82): a piece is staged; a commit takes the staged image if it is authentic and its version high enough. -/
def execFwUpdate (cmd : FwCmd) (s : State) : Out :=
  match cmd with
  | .piece bs => .next { s with fwStaged := s.fwStaged ++ bs }
  | .commit sig version =>
    if Config.fwAuthentic s.fwStaged sig && max s.fwMin Config.fwMinVersion ≤ version then
      .next { s with fwImages := s.fwImages ++ [s.fwStaged], fwMin := version, imgVersion := Config.imageVersion s.fwStaged, fwStaged := [] }
    else .next { s with fwStaged := [] }

/-- ATTEST (R80, R82). -/
def execAttest (nonce : List (BitVec 8)) (s : State) : Out := .next (s.emit (.quote (Config.quote nonce s.measurements)))

/-! ### Bring-up (R83, R84) -/

/-- The registers at their reset values, no work, nothing due; what is held for the host, the fault log and the firmware stay. The declared draw
ranges (R73) go with the registers: DESIGN CHOICE, log 63. -/
def State.resetRegs (s : State) : State :=
  let wait : SMap Launch := (s.launches.filter (fun (x : Nat × Launch) => x.2.phase == .heldReport)).map (fun (x : Nat × Launch) =>
    (x.1, { x.2 with owned := [], shadows := [], toFree := [], hubs := [] }))
  { State.reset with
    core := Core.reset s.core.cid, mem := s.mem, ue := s.ue, symErr := s.symErr, enc := s.enc, launches := wait
    dev := { hostFrozen := s.dev.hostFrozen, devState := 1 }, faultLog := s.faultLog, msix := s.msix, unmasked := s.unmasked, msixTab := s.msixTab
    heldNotes := s.heldNotes, heldMsix := s.heldMsix, heldOrder := s.heldOrder, waitingReports := s.waitingReports, nextId := s.nextId
    fwImages := s.fwImages, fwMin := s.fwMin, imgVersion := s.imgVersion, repairThr := s.repairThr, powered := s.powered, pcieUp := s.pcieUp
    outbox := s.outbox, tick := s.tick, turn := s.turn
    agenda := s.agenda.filter (fun i => match i with
      | .msixCoalesceExpiry _ => true
      | _ => false) }

/-- RESET (R76, R80, R81, R83): every launch is aborted, a self-test dropped, no context is enabled and no queue read, and bring-up starts; the host
interface stays as it is. -/
def execReset (s : State) : Out :=
  let s := { s with launches := s.launches.filter (fun (x : Nat × Launch) => x.2.ctx < 64) }
  let s := (s.launches.map Prod.fst).foldl (fun (s : State) l => s.endLaunch l .aborted none) s
  .next { s with
    dev := { s.dev with devState := 0, failCode := 0 }, ctxs := s.ctxs.map (fun c => { c with en := false, qStat := .disabled, tries := 0 })
    agenda := s.agenda.filter (fun i => match i with
      | .recordRepoll _ | .launchRecordConsume _ => false
      | _ => true) }

/-- The self-test launch of stage 5: on every core, CMODE 1 (R83). That it is a gang launch of no context, and its other fields, are the model's: DESIGN
CHOICE, log 63. -/
def selfTestLaunch (uid : Nat) : Launch :=
  { ctx := 64, lrec := { log2w := 5, log2h := 5, glog2w := 2, glog2h := 2, cmode := 1, weight := 1 }, uid := uid, phase := .running, gangsRun := List.range 64 }

/-- A core that takes the self-test's work: its gang's code is on its way, and its bundles are not shown (log 8, log 63). -/
def selfTestCore (x : Launch) (cid : Nat) : Core :=
  let g := 8 * (meshY cid / 4) + meshX cid / 4
  let c := (Core.reset cid).readyFor 0 x
  { c with t := c.t.forGang x.lrec g 64 (meshX cid % 4) (meshY cid % 4) (x.lrec.gangLead g) 0 }

/-- The self-test begins: it takes slot 0, and every core takes work (R83). -/
def State.startSelfTest (s : State) : State :=
  let x := selfTestLaunch s.nextId
  { s with
    nextId := s.nextId + 1, launches := [(0, x)], core := selfTestCore x s.core.cid
    parked := ((List.range 1024).filter (fun c => c != s.core.cid)).map (fun c => (c, selfTestCore x c)) }

/-- The self-test is over: its slot is free, and every core is at reset. -/
def State.endSelfTest (s : State) : State := { s with launches := [], core := Core.reset s.core.cid, parked := [] }

/-- The completion record of the self-test launch at physical address 0 (R75, R84): STATUS OK, no CAUSE, no FAULTS; its first bundle issued
after the stage began, and it completed after that and before the stage ended. What the launch computes, the spec does not say (log 8). -/
def State.selfTest (s : State) : State :=
  let v := fun (k : Nat) => (Config.selfTest s.tick k).toNat
  let now := s.dev.devTime.toNat
  let t0 := s.dev.selfStart.toNat + v 2 % (now - s.dev.selfStart.toNat + 1)
  let t1 := t0 + v 3 % (now - t0 + 1)
  s.physWriteN 0 ([bits (v 0) 63 32 * 2 ^ 32, v 1, t0, t1, bits (v 4) 31 0, v 5 % 256, 0, 0].flatMap (fun w => leBytes 8 w))

/-- What the end of a stage leaves (R83). -/
def State.stageDone (s : State) : Nat → State
  | 0 => s.resetRegs
  | 3 => { s with mem := [], ue := [], symErr := [], enc := [], dev := { s.dev with devState := 4 } }
  | 4 => { s.startSelfTest with dev := { s.dev with devState := 5, selfStart := s.dev.devTime } }
  | 5 => { s.selfTest.endSelfTest with dev := { s.dev with devState := 6 } }
  | n => { s with dev := { s.dev with devState := BitVec.ofNat 4 (n + 1) } }

/-- BRING_UP_STAGE_DONE (R83): reset is held until every launch has reported; a self-test that a device fault has ended fails its stage. -/
def execBringUpStageDone (ok : Bool) (s : State) : Out :=
  let n := s.dev.devState.toNat
  if n ≥ 6 || (n = 0 && (!ok || s.launches.any (fun (x : Nat × Launch) => x.2.phase != .heldReport))) then .next s
  else if ok && (n != 5 || s.launches.any (fun (x : Nat × Launch) => x.2.phase == .running)) then .next (s.stageDone n)
  else .next { (if n = 5 then s.endSelfTest else s) with dev := { s.dev with devState := 7, failCode := BitVec.ofNat 8 n } }

end Sys2Proof.Machine
end

