-- ==== Sys2Proof/Machine/MemSteps.lean ====
section
/-! DEFINITION. Steps of device memory and the pads (R28 to R36, R147, R170), of the translation units (R175 to R179), and what comes back to
a core that waits (R166, R283). -/

namespace Sys2Proof.Machine

/-! ### Sectors (R28, R31 to R34) -/

/-- Goes on with a physical address of device memory; the spec gives none at 1 TiB or above (R28). -/
def atMemory (pa : Nat) (k : Nat → Out) : Out := if pa ≥ 2 ^ 40 then .fault (.noSuchAddress pa) else k pa

/-- The key of an access through a leaf with ENC in a context (R32). -/
def State.keyOf (s : State) (ctx : Nat) (enc : Bool) : Option Nat := if enc then some (s.keyNo ctx) else none

/-- What a memory access of a context that no core makes comes to (R33). -/
def afterAccess {α : Type} (x : Access α) (s : State) : Out :=
  match x with
  | .ok (_, s) => .next s
  | .error (.tag ctx val s) => .next (s.tagFault ctx none val)
  | .error _ => .next s

/-- SECTOR_READ (R31, R33): the sector that holds an address. -/
def execSectorRead (ctx : Nat) (enc : Bool) (pa : Nat) (s : State) : Out :=
  atMemory pa fun pa => afterAccess (s.sectorRead (s.keyOf ctx enc) (pa / 64 * 64) 64 (BitVec.ofNat 64 pa)) s

/-- SECTOR_WRITE (R34): bytes from an address on, as far as the end of its sector. -/
def execSectorWrite (ctx : Nat) (enc : Bool) (pa : Nat) (bytes : List (BitVec 8)) (s : State) : Out :=
  atMemory pa fun pa =>
    let bs := bytes.take (64 - pa % 64)
    if bs.isEmpty then .next s else afterAccess (s.sectorWrite (s.keyOf ctx enc) pa (clean bs) (BitVec.ofNat 64 pa)) s

/-- PATROL_SCRUB (R31): one symbol in error is repaired; the scrub and the repair are one access. -/
def execPatrolScrub (pa : Nat) (s : State) : Out := atMemory pa fun pa => .next ((s.activate pa).eccDecode (pa / 64)).2

/-- MEMORY_SYMBOL_ERROR (R31): stored symbols of a sector go into error; those of several events are taken as different ones, and add up
(DESIGN CHOICE, log 56). -/
def execMemorySymbolError (pa symbols : Nat) (s : State) : Out :=
  atMemory pa fun pa =>
    let n := symbols + SMap.getD s.symErr (pa / 64) 0
    .next (if n = 0 then s else { s with symErr := SMap.insert s.symErr (pa / 64) n })

/-! ### Refresh management (R35, R36) -/

/-- REFRESH_MANAGEMENT (R35): a row's count has reached ACT_THR; it is cleared, the event counts, and requests to the bank wait. -/
def execRefreshManagement (ch row : Nat) (s : State) : Out := .next (s.onChan ch fun c => { c.refresh row with refreshing := some row })

/-- REFRESH_MANAGEMENT_DONE (R35): the requests that waited are performed in their order, with the results they would have had. -/
def execRefreshManagementDone (ch : Nat) (s : State) : Out := .next (s.onChan ch fun c => { c with refreshing := none })

/-- Whether a due step is refresh management of a channel. -/
def ofChannel (ch : Nat) : Instr → Bool
  | .refreshManagement c _ => c == ch
  | _ => false

/-- REFRESH_WINDOW_END (R35, R36): the counts of every row restart, and no refresh management of the channel is due. -/
def execRefreshWindowEnd (ch : Nat) (s : State) : Out :=
  .next { s.onChan ch fun c => { c with actMax := 0, rows := [] } with agenda := s.agenda.filter (fun i => !ofChannel ch i) }

/-! ### Pads (R147, R170) -/

/-- PAD_SOFT_ERROR (R147): one bit of a word is corrected when it is read; more poison the word. -/
def execPadSoftError (pad : PadId) (off bits : Nat) (s : State) : Out :=
  if bits < 2 then .next s
  else match pad with
    | .l1 cid => .next (s.onCore cid fun c => { c with l1 := c.l1.poison off 1 .softError })
    | .l2 cl => .next { s with l2 := SMap.insert s.l2 cl ((s.l2At cl).poison off 1 .softError) }
    | .l3 die => .next { s with l3 := SMap.insert s.l3 die ((s.l3At die).poison off 1 .softError) }
    | .wbuf cid => .next (s.onCore cid fun c => { c with t := { c.t with wbufPsn := SMap.insert c.t.wbufPsn (off / 8) .softError } })
    | .code cid => .next (s.onCore cid fun c => { c with t := { c.t with codePsn := SMap.insert c.t.codePsn (off / 8) .softError } })

/-- The place that a window access names; the weight and code buffers have no window (R169). -/
def windowLoc (a : WindowAccess) : Option Loc :=
  match a.pad with
  | .l1 cid => some (.l1 cid a.off false)
  | .l2 cl => some (.l2 cl a.off)
  | .l3 die => some (.l3 die a.off)
  | _ => none

/-- WINDOW_ACCESS_ARRIVAL (R170, R292): an access of another party is served; data that is read goes to the landing slot that waits. -/
def execWindowAccessArrival (cid : Nat) (acc : WindowAccess) (s : State) : Out :=
  match windowLoc acc, acc.write with
  | none, _ => .next s
  | some loc, some bs => afterAccess (s.writeLoc ⟨cid, 0, none, true, dieOf cid⟩ loc (clean bs) 0) s
  | some loc, none =>
    match s.readLoc loc acc.size 0, acc.ret with
    | .ok (bs, s), some (c, id) =>
      .next ((s.onCore c fun x => { x with t := x.t.fillLand id (pvalue bs) }).push (.landingDataReturn c id))
    | _, _ => .next s

/-! ### What comes back to a core (R166, R167, R283) -/

/-- LANDING_DATA_RETURN (R166, R167). -/
def execLandingDataReturn (cid id : Nat) (s : State) : Out := .next (s.onCore cid fun c => { c with t := c.t.landBack id })

/-- FETCH_COMPLETE (R167, R283). -/
def execFetchComplete (cid : Nat) (s : State) : Out :=
  .next (s.onCore cid fun c => match c.t.fetching with
    | some k => { c with t := { c.t with fetching := none, fetched := k :: c.t.fetched } }
    | none => c)

/-! ### Translation units (R173 to R179) -/

/-- Every core of the device that is not in its reset state. -/
def State.allCores (s : State) : List Core := s.core :: s.parked.map (fun (c : Nat × Core) => c.2)

/-- Cores that wait for a page while every pool is empty: their hold runs, and the step is due again (R178). -/
def State.awaitPage (s : State) (p : Core → Bool) (again : Instr) : State :=
  let cs := (s.allCores.filter p).map (fun c => c.cid)
  if cs.isEmpty then s
  else (cs.foldl (fun (s : State) c =>
    if (s.coreAt c).t.waitPage then s
    else (s.onCore c fun x => { x with t := { x.t with waitPage := true } }).push (.allocHoldTimeout (.core c))) s).push again

/-- Whether a core is frozen on the walk of an address in a context on a die. -/
def Core.walks (die ctx : Nat) (va : DWord) (c : Core) : Bool :=
  dieOf c.cid == die && c.t.ctx == ctx && c.t.hold == some .walk && c.t.walkVa == va.toNat

/-- PAGE_WALK_DONE (R173 to R178): a leaf goes into the cache of the die; a demand-zero entry is served first; a fault goes to the accesses that
wait for the walk, with the origin of a poisoned entry; a walk over a hop under repair waits (R26). -/
def execPageWalkDone (die ctx : Nat) (va : DWord) (s : State) : Out :=
  let x := s.walk die ctx va.toNat
  match x.1 with
  | .leaf e log2 => .next (x.2.cache die ctx va.toNat e log2)
  | .held => .next (x.2.push (.pageWalkDone die ctx va))
  | .bad o => .next (((x.2.allCores.filter (Core.walks die ctx va)).map (fun c => c.cid)).foldl (fun (s : State) c =>
      s.onCore c fun c => { c with t := { c.t with walkBad := c.t.walkBad ++ [(va.toNat, o)] } }) x.2)
  | .dz e pa lv =>
    match x.2.serveDz (die / 8) ctx e pa lv with
    | (some leaf, s) => .next (s.cache die ctx va.toNat leaf (pageLog2 lv))
    | (none, s) => .next (s.awaitPage (Core.walks die ctx va) (.pageWalkDone die ctx va))

/-- SHADOW_COPY_DONE (R29, R148, R179): the copy of a page, named by its key, is made for a launch from the pool of the strand of the core
that wrote first. If another launch has come to hold a shadow of the page meanwhile, no copy is made, and the write, made again, meets
SHADOW_BUSY (R148). -/
def execShadowCopyDone (l page : Nat) (s : State) : Out :=
  match (SMap.find? s.launches l).bind (fun (x : Launch) => (x.shadowPending.find? (fun p => p.1 == page)).map (fun p => (x, p.2))) with
  | none => .next s
  | some (x, first, enc) =>
    let base := page - page % 2
    if s.shadowedByOther (some l) base then
      .next (s.onLaunch l fun x => { x with shadowPending := x.shadowPending.filter (fun p => p.1 != page) })
    else
      match s.makeShadow l (strandOf first) base (if page % 2 = 1 then 21 else 16) (if enc then some (s.keyNo x.ctx) else none) (BitVec.ofNat 64 base) with
      | .ok (some _, s) => .next s
      | .ok (none, s) => .next (s.awaitPage (fun c => c.t.lslot == l && c.t.mode == .run && c.t.hold == some .shadowHold) (.shadowCopyDone l page))
      | .error (.tag at' val s) => .next (s.tagFault at' (some ((s.coreAt first).issuer (s.coreAt first).t.pc)) val)
      | .error e => .next e.state

end Sys2Proof.Machine
end

