-- ==== Sys2Proof/Machine/SConfig.lean ====
section
/-! DEFINITION. Configuration words of the S pipe and the nest tables (R320 to R323). -/

namespace Sys2Proof.Machine

/-- A configuration register written with a value at +1 (R322). -/
def State.configure (s : State) (n : Nat) (v : Nat) : Out := .next (s.later 1 (.csr n .write (BitVec.ofNat 64 v)))

def execSlen (m : BitVec 5) (s : State) : Out := s.configure 16 m.toNat
def execSprof (p : BitVec 8) (s : State) : Out := s.configure 19 p.toNat

/-- SSEED (R322): the low 16 bits of s. -/
def execSseed (x : BitVec 1) (r : BitVec 5) (s : State) : Out :=
  let v := s.srcS r
  s.checked [v.psn] (s.configure (if x = 1 then 18 else 17) (bits v.val.toNat 15 0))

/-- SMODE (R322): the low 16 bits of s under the write rules of R321. -/
def execSmode (r : BitVec 5) (s : State) : Out :=
  let v := s.srcS r
  s.checked [v.psn] (s.configure 20 (bits v.val.toNat 15 0))

/-- NTSET (R323): a word of the shadow table, at +1. -/
def execNtset (n : BitVec 3) (w r : BitVec 5) (s : State) : Out :=
  let v := s.srcS r
  s.checked [v.psn] (.next (s.later 1 (.ntSet n.toNat w.toNat v.val)))

/-- NTCLR (R323): the shadow table cleared, at +1. -/
def execNtclr (n : BitVec 3) (s : State) : Out := .next (s.later 1 (.ntClear n.toNat))

/-- EBND as a word that issues now finds it at its check stage: with every update that an earlier word has on its way (R337). -/
def Thread.ebndAtCheck (t : Thread) : DWord :=
  t.flights.foldl (fun v f => match f.fx with
    | .ebnd x => x
    | _ => v) t.ebnd

/-- SEBND (R337): EBND in lanes 0 and 1, at +2. -/
def execSebnd (v : BitVec 6) (s : State) : Out :=
  let e := s.core.t.ebndAtCheck
  .next (s.later 2 (.sResult v (lanesOf (fun l => if l.val = 0 then e.low else if l.val = 1 then e.high else 0))))

end Sys2Proof.Machine
end

