-- ==== Sys2Proof/Machine/Scalar.lean ====
section
/-! DEFINITION. Scalar arithmetic and logic, immediates, compares and selects (R271 to R275). -/

namespace Sys2Proof.Machine

/-- A SALU word (R271): both sources at 32 bits, tested for poison, and a 32-bit result at the latency of R162. -/
def scalarOp (lat : Nat) (f : Word → Word → Word) (d : BitVec 6) (w : BitVec 1) (a b : BitVec 6) (s : State) : Out :=
  let x := s.srcC a
  let y := s.srcC b
  s.checked [x.psn, y.psn] (.next (s.putC lat d w (f x.val.low y.val.low)))

/-- A word with one source and an immediate operand y (R273). -/
def immOp (f : Word → Word → Word) (d : BitVec 6) (w : BitVec 1) (a : BitVec 6) (y : Word) (s : State) : Out :=
  let x := s.srcC a
  s.checked [x.psn] (.next (s.putC 1 d w (f x.val.low y)))

/-- Bits 63:32 of a product. -/
def mulHigh (x y : Word) : Word := ((x.sext * y.sext) : DWord).high
def mulHighU (x y : Word) : Word := ((x.zext * y.zext) : DWord).high

/-- The lesser and the greater, signed and unsigned. -/
def sminW (x y : Word) : Word := if x.sle y then x else y
def smaxW (x y : Word) : Word := if x.sle y then y else x
def uminW (x y : Word) : Word := if x ≤ y then x else y
def umaxW (x y : Word) : Word := if x ≤ y then y else x

/-- Shifts by the amount in bits 4:0 (R271). -/
def shl5 (x y : Word) : Word := x <<< (y.toNat % 32)
def shr5 (x y : Word) : Word := x >>> (y.toNat % 32)
def sra5 (x y : Word) : Word := x.sshiftRight (y.toNat % 32)

/-- Quotient and remainder of R272; a zero divisor gives all ones and the dividend. -/
def divS (x y : Word) : Word := if y = 0 then BitVec.allOnes 32 else x.sdiv y
def remS (x y : Word) : Word := if y = 0 then x else x.srem y
def divU (x y : Word) : Word := if y = 0 then BitVec.allOnes 32 else x / y
def remU (x y : Word) : Word := if y = 0 then x else x % y

/-- A division word (R272): a zero divisor traps with ARITH when EIDZ is set at the check stage, with TRAPVAL the dividend. -/
def divOp (f : Word → Word → Word) (d : BitVec 6) (w : BitVec 1) (a b : BitVec 6) (s : State) : Out :=
  let x := s.srcC a
  let y := s.srcC b
  s.checked [x.psn, y.psn]
    (if y.val.low = 0 ∧ fpxEidz s.core.t.fpxAtCheck = true then s.trap 3 .arith x.val.low.zext
     else .next (s.putC 12 d w (f x.val.low y.val.low)))

def execSadd (d : BitVec 6) (w : BitVec 1) (a b : BitVec 6) (s : State) : Out := scalarOp 1 (fun x y => x + y) d w a b s
def execSsub (d : BitVec 6) (w : BitVec 1) (a b : BitVec 6) (s : State) : Out := scalarOp 1 (fun x y => x - y) d w a b s
def execSmul (d : BitVec 6) (w : BitVec 1) (a b : BitVec 6) (s : State) : Out := scalarOp 3 (fun x y => x * y) d w a b s
def execSmulh (d : BitVec 6) (w : BitVec 1) (a b : BitVec 6) (s : State) : Out := scalarOp 3 mulHigh d w a b s
def execSmulhu (d : BitVec 6) (w : BitVec 1) (a b : BitVec 6) (s : State) : Out := scalarOp 3 mulHighU d w a b s
def execSdiv (d : BitVec 6) (w : BitVec 1) (a b : BitVec 6) (s : State) : Out := divOp divS d w a b s
def execSdivu (d : BitVec 6) (w : BitVec 1) (a b : BitVec 6) (s : State) : Out := divOp divU d w a b s
def execSrem (d : BitVec 6) (w : BitVec 1) (a b : BitVec 6) (s : State) : Out := divOp remS d w a b s
def execSremu (d : BitVec 6) (w : BitVec 1) (a b : BitVec 6) (s : State) : Out := divOp remU d w a b s
def execSand (d : BitVec 6) (w : BitVec 1) (a b : BitVec 6) (s : State) : Out := scalarOp 1 (fun x y => x &&& y) d w a b s
def execSor (d : BitVec 6) (w : BitVec 1) (a b : BitVec 6) (s : State) : Out := scalarOp 1 (fun x y => x ||| y) d w a b s
def execSxor (d : BitVec 6) (w : BitVec 1) (a b : BitVec 6) (s : State) : Out := scalarOp 1 (fun x y => x ^^^ y) d w a b s
def execSshl (d : BitVec 6) (w : BitVec 1) (a b : BitVec 6) (s : State) : Out := scalarOp 1 shl5 d w a b s
def execSshr (d : BitVec 6) (w : BitVec 1) (a b : BitVec 6) (s : State) : Out := scalarOp 1 shr5 d w a b s
def execSsra (d : BitVec 6) (w : BitVec 1) (a b : BitVec 6) (s : State) : Out := scalarOp 1 sra5 d w a b s
def execSmin (d : BitVec 6) (w : BitVec 1) (a b : BitVec 6) (s : State) : Out := scalarOp 1 sminW d w a b s
def execSmax (d : BitVec 6) (w : BitVec 1) (a b : BitVec 6) (s : State) : Out := scalarOp 1 smaxW d w a b s
def execSminu (d : BitVec 6) (w : BitVec 1) (a b : BitVec 6) (s : State) : Out := scalarOp 1 uminW d w a b s
def execSmaxu (d : BitVec 6) (w : BitVec 1) (a b : BitVec 6) (s : State) : Out := scalarOp 1 umaxW d w a b s

def execSclz (d : BitVec 6) (w : BitVec 1) (a : BitVec 6) (s : State) : Out :=
  immOp (fun x _ => BitVec.ofNat 32 (clzNat 32 x.toNat)) d w a 0 s
def execSpopc (d : BitVec 6) (w : BitVec 1) (a : BitVec 6) (s : State) : Out :=
  immOp (fun x _ => BitVec.ofNat 32 (popcNat 32 x.toNat)) d w a 0 s

def execSaddi (d : BitVec 6) (w : BitVec 1) (a : BitVec 6) (i : BitVec 10) (s : State) : Out :=
  immOp (fun x y => x + y) d w a (i.signExtend 32) s
def execSandi (d : BitVec 6) (w : BitVec 1) (a : BitVec 6) (i : BitVec 10) (s : State) : Out :=
  immOp (fun x y => x &&& y) d w a (i.signExtend 32) s
def execSori (d : BitVec 6) (w : BitVec 1) (a : BitVec 6) (i : BitVec 10) (s : State) : Out :=
  immOp (fun x y => x ||| y) d w a (i.signExtend 32) s
def execSxori (d : BitVec 6) (w : BitVec 1) (a : BitVec 6) (i : BitVec 10) (s : State) : Out :=
  immOp (fun x y => x ^^^ y) d w a (i.signExtend 32) s
def execSshli (d : BitVec 6) (w : BitVec 1) (a : BitVec 6) (i : BitVec 5) (s : State) : Out :=
  immOp shl5 d w a (i.zeroExtend 32) s
def execSshri (d : BitVec 6) (w : BitVec 1) (a : BitVec 6) (i : BitVec 5) (s : State) : Out :=
  immOp shr5 d w a (i.zeroExtend 32) s
def execSsrai (d : BitVec 6) (w : BitVec 1) (a : BitVec 6) (i : BitVec 5) (s : State) : Out :=
  immOp sra5 d w a (i.zeroExtend 32) s

/-- SLI (R250, R274). -/
def execSli (d : BitVec 6) (w : BitVec 1) (i : BitVec 18) (s : State) : Out := .next (s.putC 1 d w (i.signExtend 32))

/-- SLUI (R250, R274): reads d at its own issue. -/
def execSlui (d : BitVec 6) (w : BitVec 1) (i : BitVec 18) (s : State) : Out :=
  let x := s.srcC d
  s.checked [x.psn] (.next (s.putC 1 d w ((i.zeroExtend 32 <<< 14) ||| (x.val.low &&& 0x3FFF))))

/-- SCMP.cc (R275). -/
def execScmpCc (d : BitVec 6) (w : BitVec 1) (a b : BitVec 6) (k : BitVec 4) (s : State) : Out :=
  scalarOp 1 (fun x y => if cond k.toNat x y then 1 else 0) d w a b s

/-- SCMPI.cc (R275): the immediate as the 32-bit pattern of its sign extension. -/
def execScmpiCc (d : BitVec 6) (w : BitVec 1) (a i : BitVec 6) (k : BitVec 4) (s : State) : Out :=
  immOp (fun x y => if cond k.toNat x y then 1 else 0) d w a (i.signExtend 32) s

/-- SSEL (R275): every source is tested for poison, the unselected one too (R270). -/
def execSsel (d : BitVec 6) (w : BitVec 1) (a b e : BitVec 6) (s : State) : Out :=
  let x := s.srcC a
  let y := s.srcC b
  let c := s.srcC e
  s.checked [x.psn, y.psn, c.psn] (.next (s.putC 1 d w (if c.val.low != 0 then x.val.low else y.val.low)))

end Sys2Proof.Machine
end

