-- ==== Sys2Proof/Machine/VInt.lean ====
section
/-! DEFINITION. Integer arithmetic, logic and shifts of the V pipe (R300), and VHASH (R307). -/

namespace Sys2Proof.Machine

/-- Element width of TI (R254): 0 .I32, 1 .I16, 2 .I8. -/
def tiWidth (t : BitVec 2) : Nat :=
  match t.toNat with
  | 0 => 32 | 1 => 16 | _ => 8

/-- A function of two elements taken over every element of a lane: the element as an unsigned number of width w (R294). -/
def elemsI (w : Nat) (f : Nat → Nat → Nat) (x y : Word) : Word :=
  BitVec.ofNat 32 ((List.range (32 / w)).foldl (fun acc e =>
    acc + (f (bits x.toNat (w * e + w - 1) (w * e)) (bits y.toNat (w * e + w - 1) (w * e)) % 2 ^ w) * 2 ^ (w * e)) 0)

/-- A number clamped to the signed range of width w, as a code of width w (R300). -/
def clampTo (w : Nat) (v : Int) : Nat :=
  let lo : Int := -(2 ^ (w - 1))
  let hi : Int := 2 ^ (w - 1) - 1
  ((if v < lo then lo else if hi < v then hi else v) % 2 ^ w).toNat

/-- A number as a code of width w. -/
def codeTo (w : Nat) (v : Int) : Nat := (v % 2 ^ w).toNat

/-- A signed operation, wrapping or saturating. -/
def signedOp (w : Nat) (sat : Bool) (f : Int → Int → Int) (x y : Nat) : Nat :=
  let v := f (sextInt x w) (sextInt y w)
  if sat then clampTo w v else codeTo w v

/-- An integer word with two sources (R300): no exception, no flag. -/
def vint2 (lat : Nat) (f : Word → Word → Word) (d : BitVec 6) (w : BitVec 1) (a b : BitVec 6) (s : State) : Out :=
  let x := s.srcV a
  let y := s.srcV b
  s.checked [x.psn, y.psn] (.next (s.putV lat d w (lanesOf (fun l => f x[l].val y[l].val))))

/-- An integer word on elements of TI. -/
def vintT (t : BitVec 2) (f : Nat → Nat → Nat → Nat) (d : BitVec 6) (w : BitVec 1) (a b : BitVec 6) (s : State) : Out :=
  vint2 2 (elemsI (tiWidth t) (f (tiWidth t))) d w a b s

def execViadd (d : BitVec 6) (w : BitVec 1) (a b : BitVec 6) (z : BitVec 1) (t : BitVec 2) (s : State) : Out :=
  vintT t (fun n => signedOp n (z == 1) (fun x y => x + y)) d w a b s
def execVisub (d : BitVec 6) (w : BitVec 1) (a b : BitVec 6) (z : BitVec 1) (t : BitVec 2) (s : State) : Out :=
  vintT t (fun n => signedOp n (z == 1) (fun x y => x - y)) d w a b s
def execVimul (d : BitVec 6) (w : BitVec 1) (a b : BitVec 6) (z : BitVec 1) (t : BitVec 2) (s : State) : Out :=
  vintT t (fun n => signedOp n (z == 1) (fun x y => x * y)) d w a b s
def execVimin (d : BitVec 6) (w : BitVec 1) (a b : BitVec 6) (t : BitVec 2) (s : State) : Out :=
  vintT t (fun n => signedOp n false (fun x y => if x ≤ y then x else y)) d w a b s
def execVimax (d : BitVec 6) (w : BitVec 1) (a b : BitVec 6) (t : BitVec 2) (s : State) : Out :=
  vintT t (fun n => signedOp n false (fun x y => if x ≤ y then y else x)) d w a b s
def execVand (d : BitVec 6) (w : BitVec 1) (a b : BitVec 6) (s : State) : Out := vint2 2 (fun x y => x &&& y) d w a b s
def execVor (d : BitVec 6) (w : BitVec 1) (a b : BitVec 6) (s : State) : Out := vint2 2 (fun x y => x ||| y) d w a b s
def execVxor (d : BitVec 6) (w : BitVec 1) (a b : BitVec 6) (s : State) : Out := vint2 2 (fun x y => x ^^^ y) d w a b s
def execVshl (d : BitVec 6) (w : BitVec 1) (a b : BitVec 6) (t : BitVec 2) (s : State) : Out :=
  vintT t (fun n x y => x * 2 ^ (y % n)) d w a b s
def execVshr (d : BitVec 6) (w : BitVec 1) (a b : BitVec 6) (t : BitVec 2) (s : State) : Out :=
  vintT t (fun n x y => x / 2 ^ (y % n)) d w a b s
def execVsra (d : BitVec 6) (w : BitVec 1) (a b : BitVec 6) (t : BitVec 2) (s : State) : Out :=
  vintT t (fun n x y => codeTo n (sextInt x n / (2 ^ (y % n) : Nat))) d w a b s

/-- VHASH (R307): k := a, c := b. -/
def execVhash (d : BitVec 6) (w : BitVec 1) (a b : BitVec 6) (s : State) : Out := vint2 3 hash32 d w a b s

end Sys2Proof.Machine
end

