-- ==== Sys2Proof/Machine/VLane.lean ====
section
/-! DEFINITION. Lanes and sections: broadcast, lane read, permutation, rotation and reductions (R308 to R311). -/

namespace Sys2Proof.Machine

/-- VBCAST (R308). -/
def execVbcast (d : BitVec 6) (w : BitVec 1) (a : BitVec 6) (s : State) : Out :=
  let x := s.srcVS a
  s.checked [x.psn] (.next (s.putV 2 d w (Lanes.all { val := x.val })))

/-- VLANE (R308): every lane of the v source is tested. -/
def execVlane (d : BitVec 6) (w : BitVec 1) (a b : BitVec 6) (s : State) : Out :=
  let x := s.srcV a
  let n := s.srcVS b
  s.checked [x.psn, n.psn] (.next (s.later 2 (.vsResult d (w == 1) x[laneAt n.val.toNat])))

/-- VPERM (R309): lane j of section n takes lane b[16 n + j][3:0] of section n. -/
def execVperm (d : BitVec 6) (w : BitVec 1) (a b : BitVec 6) (s : State) : Out :=
  let x := s.srcV a
  let y := s.srcV b
  s.checked [x.psn, y.psn]
    (.next (s.putV 3 d w (lanesOf (fun l => x[laneAt (l.val / 16 * 16 + y[l].val.toNat % 16)].val))))

/-- XCOPY (R310): section s takes section (s − n) mod 8. -/
def execXcopy (d : BitVec 6) (w : BitVec 1) (a : BitVec 6) (n : BitVec 3) (s : State) : Out :=
  let x := s.srcV a
  s.checked [x.psn] (.next (s.putV 6 d w (lanesOf (fun l => x[laneAt (l.val + 128 - 16 * n.toNat)].val))))

/-- One level of the fixed tree: neighbours combined in lane order. -/
def treeLevel {α : Type} (f : α → α → α) : List α → List α
  | x :: y :: rest => f x y :: treeLevel f rest
  | xs => xs

/-- The fixed tree over the 16 lanes of a section (R311). -/
def tree16 {α : Type} (f : α → α → α) (xs : List α) : List α :=
  treeLevel f (treeLevel f (treeLevel f (treeLevel f xs)))

/-- Section n of a packet of lanes. -/
def sectionOf (x : Lanes) (n : Nat) : List Word := (List.range 16).map (fun j => x[laneAt (16 * n + j)].val)

/-- A reduction of each section, its result in every lane of the section (R311). -/
def vred (f : Word × Exc → Word × Exc → Word × Exc) (d : BitVec 6) (w : BitVec 1) (a : BitVec 6) (s : State) : Out :=
  let x := s.srcV a
  let r := (List.range 8).map (fun n => (tree16 f ((sectionOf x n).map (fun v => (v, 0)))).headD (0, 0))
  let e := r.foldl (fun (e : Exc) y => e ||| y.2) 0
  s.checked [x.psn]
    (s.raising e fun s => .next (s.putV 6 d w (lanesOf (fun l => (r.getD (l.val / 16) (0, 0)).1))))

/-- A float step of the tree: exceptions gather (R311). -/
def vredF (f : FVal → FVal → FRes) (x y : Word × Exc) : Word × Exc :=
  let r := toF32 (f (decodeF32 x.1) (decodeF32 y.1))
  (r.1, x.2 ||| y.2 ||| r.2)

/-- An integer step of the tree. -/
def vredI (f : Word → Word → Word) (x y : Word × Exc) : Word × Exc := (f x.1 y.1, 0)

def execVredAddF32 (d : BitVec 6) (w : BitVec 1) (a : BitVec 6) (s : State) : Out := vred (vredF fsum) d w a s
def execVredMinF32 (d : BitVec 6) (w : BitVec 1) (a : BitVec 6) (s : State) : Out := vred (vredF fmin) d w a s
def execVredMaxF32 (d : BitVec 6) (w : BitVec 1) (a : BitVec 6) (s : State) : Out := vred (vredF fmax) d w a s
def execVredAddI32 (d : BitVec 6) (w : BitVec 1) (a : BitVec 6) (s : State) : Out := vred (vredI (fun x y => x + y)) d w a s
def execVredMinI32 (d : BitVec 6) (w : BitVec 1) (a : BitVec 6) (s : State) : Out :=
  vred (vredI (fun x y => if x.toInt ≤ y.toInt then x else y)) d w a s
def execVredMaxI32 (d : BitVec 6) (w : BitVec 1) (a : BitVec 6) (s : State) : Out :=
  vred (vredI (fun x y => if x.toInt ≤ y.toInt then y else x)) d w a s

end Sys2Proof.Machine
end

