-- ==== Sys2Proof/Machine/VMask.lean ====
section
/-! DEFINITION. Compares, selects and masks (R301 to R303). -/

namespace Sys2Proof.Machine

/-- A mask made lane by lane. -/
def maskOf (f : Fin 128 → Bool) : BitVec 128 :=
  BitVec.ofNat 128 ((List.finRange 128).foldl (fun m l => if f l then m + 2 ^ l.val else m) 0)

/-- One lane of VCMP with the exception it raises (R301). -/
def vcmpLane (t : BitVec 2) (k : BitVec 4) (x y : Word) : Bool × Exc :=
  match t.toNat with
  | 0 =>
    let u := decodeF32 x
    let v := decodeF32 y
    (condFloat k.toNat u v, nanExc [u, v])
  | 1 => (cond k.toNat x y, 0)
  | _ => (condInt k.toNat x.toNat y.toNat x.toNat y.toNat, 0)

/-- VCMP.cc.T (R301). -/
def execVcmpCc (d : BitVec 6) (w : BitVec 1) (a b : BitVec 6) (t : BitVec 2) (k : BitVec 4) (s : State) : Out :=
  let x := s.srcV a
  let y := s.srcV b
  let e := (List.finRange 128).foldl (fun (e : Exc) l => e ||| (vcmpLane t k x[l].val y[l].val).2) 0
  s.checked [x.psn, y.psn]
    (s.raising e fun s => .next (s.later 2 (.kResult d (w == 1) (maskOf (fun l => (vcmpLane t k x[l].val y[l].val).1)))))

/-- VSEL (R302): every lane of both sources is tested for poison. -/
def execVsel (d : BitVec 6) (w : BitVec 1) (a b : BitVec 6) (m : BitVec 3) (s : State) : Out :=
  let x := s.srcV a
  let y := s.srcV b
  let k := s.core.t.getK m
  s.checked [x.psn, y.psn]
    (.next (s.putV 2 d w (lanesOf (fun l => if k.getLsbD l.val then x[l].val else y[l].val))))

/-- A mask word (R303). -/
def maskOp (f : BitVec 128 → BitVec 128 → BitVec 128) (d : BitVec 6) (w : BitVec 1) (a b : BitVec 6) (s : State) : Out :=
  .next (s.later 2 (.kResult d (w == 1) (f (s.core.t.getK (a.truncate 3)) (s.core.t.getK (b.truncate 3)))))

def execKand (d : BitVec 6) (w : BitVec 1) (a b : BitVec 6) (s : State) : Out := maskOp (fun x y => x &&& y) d w a b s
def execKor (d : BitVec 6) (w : BitVec 1) (a b : BitVec 6) (s : State) : Out := maskOp (fun x y => x ||| y) d w a b s
def execKnot (d : BitVec 6) (w : BitVec 1) (a : BitVec 6) (s : State) : Out := maskOp (fun x _ => ~~~x) d w a 0 s

/-- KCNT (R303): the count in an s register. -/
def execKcnt (d : BitVec 6) (w : BitVec 1) (a : BitVec 6) (s : State) : Out :=
  .next (s.later 2 (.vsResult d (w == 1) ⟨BitVec.ofNat 32 (popcNat 128 (s.core.t.getK (a.truncate 3)).toNat), none⟩))

end Sys2Proof.Machine
end

