-- ==== Sys2Proof/Machine/VQueue.lean ====
section
/-! DEFINITION. Compaction queues (R315 to R318): descriptors in the core, records in the own L1. -/

namespace Sys2Proof.Machine

/-- A queue descriptor of the moving core. -/
def State.queue (s : State) (q : BitVec 2) : CQueue := s.core.t.qs[q.toNat]

/-- A queue descriptor replaced. -/
def State.setQueue (s : State) (q : BitVec 2) (c : CQueue) : State :=
  s.mapT fun t => { t with qs := t.qs.set q.toNat c q.isLt }

/-- Bytes of a record (R315). -/
def CQueue.recBytes (c : CQueue) : Nat := 4 * (c.recw.toNat + 1)

/-- L1 offset of record k (R315). -/
def CQueue.slot (c : CQueue) (k : Nat) : Nat := 64 * c.base.toNat + c.recBytes * k

/-- A compaction word on a queue that a VQBAL still rewrites is ILLEGAL (R318). -/
def State.onQueue (s : State) (q : BitVec 6) (k : BitVec 2 → CQueue → Out) : Out :=
  let n := q.truncate 2
  if (s.queue n).busy != 0 || (s.queue n).hbusy != 0 then s.trap 1 .illegal 0 else k n (s.queue n)

/-- VPUSHC.CFG (R315): lane 0 gives BASE, RECW and CAP; the queue is emptied. -/
def execVpushcCfg (q a : BitVec 6) (s : State) : Out :=
  let v := s.srcV a
  s.onQueue q fun n c => s.checked [v.psn] <|
    let x := v[(0 : Fin 128)].val
    let base := x.extractLsb' 17 15
    let recw := x.extractLsb' 15 2
    let cap := x.extractLsb' 0 15
    if cap = 0 ∨ 64 * base.toNat + 4 * (recw.toNat + 1) * cap.toNat > 2 ^ 21 then s.trap 3 .page x.zext
    else .next (s.setQueue n { c with base := base, recw := recw, cap := cap, count := 0, head := 0, tail := 0 })

/-- The words that a lane pushes (R316). -/
def State.record (s : State) (a : BitVec 6) (words : Nat) (l : Fin 128) : List Byte :=
  (List.range words).flatMap (fun w => leBytes 4 (s.srcV (a + BitVec.ofNat 6 w))[l].val.toNat)

/-- One lane pushes its record; a full queue writes nothing and is noted (R316). -/
def State.pushLane (s : State) (n : BitVec 2) (r : List Byte) : State :=
  let c := s.queue n
  if c.count.toNat = c.cap.toNat then s.statSticky statQovf
  else
    (s.storeL1 (c.slot c.tail.toNat) (clean r)).setQueue n
      { c with tail := BitVec.ofNat 32 ((c.tail.toNat + 1) % c.cap.toNat), count := c.count + 1 }

/-- VPUSHC (R316). -/
def execVpushc (q a : BitVec 6) (k : BitVec 3) (s : State) : Out :=
  let m := s.km k
  s.onQueue q fun n c =>
    let words := c.recw.toNat + 1
    if a.toNat + c.recw.toNat > 47 then s.trap 1 .illegal 0
    else s.checked ((List.range words).map (fun w => (s.srcV (a + BitVec.ofNat 6 w)).psnIn m)) <|
      .next ((lanesIn m).foldl (fun s' l => s'.pushLane n (s.record a words l)) s)

/-- The words that a lane pops, and the queue after it: zeros from an empty queue (R317). -/
def Pad.popLane (p : Pad) (c : CQueue) : List PWord × CQueue :=
  if c.count = 0 then (List.replicate (c.recw.toNat + 1) {}, c)
  else ((List.range (c.recw.toNat + 1)).map (fun w => p.lane (c.slot c.head.toNat + 4 * w)),
    { c with head := BitVec.ofNat 32 ((c.head.toNat + 1) % c.cap.toNat), count := c.count - 1 })

/-- The records that the lanes of a mask pop, by lane, and the queue after it. -/
def Pad.popLanes (p : Pad) (mask : BitVec 128) (c : CQueue) : SMap (List PWord) × CQueue :=
  (lanesIn mask).foldl (fun (acc : SMap (List PWord) × CQueue) l =>
    let r := p.popLane acc.2
    (acc.1 ++ [(l.val, r.1)], r.2)) ([], c)

/-- VPOPC (R317): word 0 first into the latch queue. -/
def execVpopc (d : BitVec 6) (w : BitVec 1) (q : BitVec 6) (k : BitVec 3) (s : State) : Out :=
  let m := s.km k
  s.onQueue q fun n c =>
    if w = 0 ∧ d.toNat + c.recw.toNat > 47 then s.trap 1 .illegal 0
    else
      let r := s.core.l1.popLanes m c
      .next ((List.range (c.recw.toNat + 1)).foldl (fun s i =>
        s.later 4 (.vResult (d + BitVec.ofNat 6 i) (w == 1) m
          (Vector.ofFn fun l : Fin 128 => (SMap.getD r.1 l.val []).getD i {}))) (s.setQueue n r.2))

/-- VQCNT (R317). -/
def execVqcnt (d : BitVec 6) (w : BitVec 1) (q : BitVec 6) (s : State) : Out :=
  s.onQueue q fun _ c => .next (s.later 2 (.vsResult d (w == 1) { val := c.count.zeroExtend 32 }))

/-- The slot that the record at a pop position moves to (R318). -/
def balanceSlot (c i : Nat) : Nat :=
  if i / 128 < c / 128 then 128 * (i / 128) + (16 * (i % 8) + i % 128 / 8) else i

/-- The pop position whose record a slot takes: the inverse of balanceSlot. -/
def balancePos (c j : Nat) : Nat :=
  if j / 128 < c / 128 then 128 * (j / 128) + (8 * (j % 16) + j % 128 / 16) else j

/-- VQBAL (R318): a record with a poisoned word poisons every word that it is written to. While the lock of an issued tile move covers bytes of the
storage the engine is held back (R198): the core is frozen at the bundle, DEDUCED, log 72. -/
def execVqbal (q : BitVec 6) (s : State) : Out :=
  s.onQueue q fun n c =>
    if s.core.t.locked (c.slot 0, c.recBytes * c.cap.toNat) then s.stallOn .lock else
    let count := c.count.toNat
    let bytes := (List.range count).flatMap (fun j =>
      let r := s.core.l1.readP (c.slot ((c.head.toNat + balancePos count j) % c.cap.toNat)) c.recBytes
      r.map (fun b => (b.1, psnOf r)))
    let s := if count = 0 then s else s.storeL1 (c.slot 0) bytes
    let r := s.core.t.takeNum 5
    let s := s.mapT fun _ => r.1
    let away := fun (b : Bool) => if b then 24 else 0
    .next (s.setQueue n { c with
      head := 0, tail := BitVec.ofNat 32 (count % c.cap.toNat), left := 24, num := r.2
      busy := away (!s.core.t.handler), hbusy := away s.core.t.handler })

/-- VQBAL_COMPLETE (R318): the rewrites of a core whose 24 cycles have passed raise tl5. -/
def execVqbalComplete (cid : Nat) (s : State) : Out :=
  .next (s.onCore cid fun c => { c with t := c.t.endVqbal })

end Sys2Proof.Machine
end

