-- ==== Sys2Proof/Machine/VSpecial.lean ====
section
/-! DEFINITION. VEXP2, VLOG2, VRCP and VRSQ, correctly rounded (R306). Each inexact result is found as an integer quotient, root,
power or logarithm with more bits than the format, and a last bit that says the value lies strictly above it; a rounding to
nearest of such a value is the rounding of the exact one. -/

namespace Sys2Proof.Machine

/-- The greatest r below 2^n with r² ≤ x. -/
def isqrt : Nat → Nat → Nat → Nat
  | 0, r, _ => r
  | n + 1, r, x => if (r + 2 ^ n) * (r + 2 ^ n) ≤ x then isqrt n (r + 2 ^ n) x else isqrt n r x

/-- A value strictly between q and q + 1 units of 2^e, for rounding. -/
def sticky (neg : Bool) (q : Nat) (e : Int) : FVal := .fin neg (2 * q + 1) (e - 1)

/-- Whether a number is a power of two. -/
def isPow2 (n : Nat) : Bool := n == 2 ^ Nat.log2 n

/-- 1 / x of R306. -/
def frcp : FVal → FRes
  | .nan sn => (.nan false, if sn then Exc.nv else 0)
  | .inf n => (.fin n 0 0, 0)
  | .fin n m e =>
    if m = 0 then (.inf n, Exc.dz)
    else if isPow2 m then (.fin n 1 (-(e + Nat.log2 m)), 0)
    else
      let k := Nat.log2 m + 34
      (sticky n (2 ^ k / m) (-(k : Int) - e), 0)

/-- 1 / √x of R306. -/
def frsq : FVal → FRes
  | .nan sn => (.nan false, if sn then Exc.nv else 0)
  | .inf n => if n then (.nan false, Exc.nv) else (.fin false 0 0, 0)
  | .fin n m e =>
    if m = 0 then (.inf n, Exc.dz)
    else if n then (.nan false, Exc.nv)
    else
      let m' := if e % 2 = 0 then m else 2 * m
      let h : Int := (if e % 2 = 0 then e else e - 1) / 2
      let r := isqrt 32 0 m'
      if r * r = m' && isPow2 r then (.fin false 1 (-(h + Nat.log2 r)), 0)
      else
        let k := Nat.log2 m' / 2 + 36
        (sticky false (isqrt 64 0 (2 ^ (2 * k) / m')) (-(k : Int) - h), 0)

/-- 2^(2^-i) in units of 2^-128, for i from 1 to n, by repeated square roots from 2. -/
def rootTable : Nat → Nat → List Nat
  | 0, _ => []
  | n + 1, c =>
    let r := isqrt 130 0 (c * 2 ^ 128)
    r :: rootTable n r

/-- 2^f in units of 2^-128 for a fraction f of 64 bits, from the table of roots. -/
def expFrac (f : Nat) : Nat :=
  (rootTable 64 (2 ^ 129)).zipIdx.foldl (fun acc (x : Nat × Nat) => if f.testBit (63 - x.2) then acc * x.1 / 2 ^ 128 else acc) (2 ^ 128)

/-- 2^x of R306. -/
def fexp2 : FVal → FRes
  | .nan sn => (.nan false, if sn then Exc.nv else 0)
  | .inf n => if n then (.fin false 0 0, 0) else (.inf false, 0)
  | .fin n m e =>
    let x : Dy := (FVal.fin n m e).dy
    if m = 0 then (.fin false 1 0, 0)
    else if Dy.lt ⟨200, 0⟩ x then (.fin false 1 200, 0)
    else if Dy.lt x ⟨-400, 0⟩ then (.fin false 1 (-400), 0)
    else if e ≥ 0 then (.fin false 1 (x.at 0), 0)
    else if Dy.lt ⟨m, e⟩ ⟨1, -36⟩ then (if n then .fin false (2 ^ 40 - 1) (-40) else .fin false (2 ^ 40 + 1) (-40), 0)
    else
      let sh := (-e).toNat
      let k : Int := x.num / (2 ^ sh : Nat)
      let f := (x.num % (2 ^ sh : Nat)).toNat
      if f = 0 then (.fin false 1 k, 0)
      else
        let f64 := if sh ≤ 64 then f * 2 ^ (64 - sh) else f / 2 ^ (sh - 64)
        (sticky false (expFrac f64 / 2 ^ 16) (k - 112), 0)

/-- The first n bits of log2 of y / 2^256 for y from 2^256 to below 2^257, by repeated squaring. -/
def logBits : Nat → Nat → Nat → Nat
  | 0, acc, _ => acc
  | n + 1, acc, y =>
    let z := y * y / 2 ^ 256
    if z ≥ 2 ^ 257 then logBits n (2 * acc + 1) (z / 2) else logBits n (2 * acc) z

/-- log2 x of R306. -/
def flog2 : FVal → FRes
  | .nan sn => (.nan false, if sn then Exc.nv else 0)
  | .inf n => if n then (.nan false, Exc.nv) else (.inf false, 0)
  | .fin n m e =>
    if m = 0 then (.inf true, Exc.dz)
    else if n then (.nan false, Exc.nv)
    else
      let b := Nat.log2 m
      let k : Int := e + b
      if isPow2 m then (.fin (k < 0) k.natAbs 0, 0)
      else
        let v : Int := 2 * (k * 2 ^ 110 + logBits 110 0 (m * 2 ^ (256 - b))) + 1
        (.fin (v < 0) v.natAbs (-111), 0)

/-- A special-function word (R306): latency 8. -/
def vspecial (f : FVal → FRes) (d : BitVec 6) (w : BitVec 1) (a : BitVec 6) (s : State) : Out :=
  let x := s.srcV a
  s.checked [x.psn] (s.floatV 8 d w (Vector.ofFn (fun l : Fin 128 => toF32 (f (decodeF32 x[l].val)))))

def execVexp2 (d : BitVec 6) (w : BitVec 1) (a : BitVec 6) (s : State) : Out := vspecial fexp2 d w a s
def execVlog2 (d : BitVec 6) (w : BitVec 1) (a : BitVec 6) (s : State) : Out := vspecial flog2 d w a s
def execVrcp (d : BitVec 6) (w : BitVec 1) (a : BitVec 6) (s : State) : Out := vspecial frcp d w a s
def execVrsq (d : BitVec 6) (w : BitVec 1) (a : BitVec 6) (s : State) : Out := vspecial frsq d w a s

end Sys2Proof.Machine
end

