-- ==== Sys2Proof/Machine/Dispatch.lean ====
section
/-! DEFINITION. Dispatch: one arm for each constructor of Instr, each a direct call of the meaning of that instruction or step. -/

namespace Sys2Proof.Machine

def exec (i : Instr) (s : State) : Host.Outcome State Fault Refusal :=
  match i with
  | .nop => Sys2Proof.Machine.execNop s
  | .tend => Sys2Proof.Machine.execTend s
  | .tsusp a b => Sys2Proof.Machine.execTsusp a b s
  | .tyield => Sys2Proof.Machine.execTyield s
  | .ckpt a => Sys2Proof.Machine.execCkpt a s
  | .trap a => Sys2Proof.Machine.execTrap a s
  | .eret => Sys2Proof.Machine.execEret s
  | .csrd d w b => Sys2Proof.Machine.execCsrd d w b s
  | .cswr a b => Sys2Proof.Machine.execCswr a b s
  | .csset a b => Sys2Proof.Machine.execCsset a b s
  | .csclr a b => Sys2Proof.Machine.execCsclr a b s
  | .wfe => Sys2Proof.Machine.execWfe s
  | .sleep => Sys2Proof.Machine.execSleep s
  | .sadd d w a b => Sys2Proof.Machine.execSadd d w a b s
  | .ssub d w a b => Sys2Proof.Machine.execSsub d w a b s
  | .smul d w a b => Sys2Proof.Machine.execSmul d w a b s
  | .smulh d w a b => Sys2Proof.Machine.execSmulh d w a b s
  | .smulhu d w a b => Sys2Proof.Machine.execSmulhu d w a b s
  | .sdiv d w a b => Sys2Proof.Machine.execSdiv d w a b s
  | .sdivu d w a b => Sys2Proof.Machine.execSdivu d w a b s
  | .srem d w a b => Sys2Proof.Machine.execSrem d w a b s
  | .sremu d w a b => Sys2Proof.Machine.execSremu d w a b s
  | .sand d w a b => Sys2Proof.Machine.execSand d w a b s
  | .sor d w a b => Sys2Proof.Machine.execSor d w a b s
  | .sxor d w a b => Sys2Proof.Machine.execSxor d w a b s
  | .sshl d w a b => Sys2Proof.Machine.execSshl d w a b s
  | .sshr d w a b => Sys2Proof.Machine.execSshr d w a b s
  | .ssra d w a b => Sys2Proof.Machine.execSsra d w a b s
  | .smin d w a b => Sys2Proof.Machine.execSmin d w a b s
  | .smax d w a b => Sys2Proof.Machine.execSmax d w a b s
  | .sminu d w a b => Sys2Proof.Machine.execSminu d w a b s
  | .smaxu d w a b => Sys2Proof.Machine.execSmaxu d w a b s
  | .sclz d w a => Sys2Proof.Machine.execSclz d w a s
  | .spopc d w a => Sys2Proof.Machine.execSpopc d w a s
  | .saddi d w a imm => Sys2Proof.Machine.execSaddi d w a imm s
  | .sandi d w a imm => Sys2Proof.Machine.execSandi d w a imm s
  | .sori d w a imm => Sys2Proof.Machine.execSori d w a imm s
  | .sxori d w a imm => Sys2Proof.Machine.execSxori d w a imm s
  | .sshli d w a imm => Sys2Proof.Machine.execSshli d w a imm s
  | .sshri d w a imm => Sys2Proof.Machine.execSshri d w a imm s
  | .ssrai d w a imm => Sys2Proof.Machine.execSsrai d w a imm s
  | .aaddi d w a imm => Sys2Proof.Machine.execAaddi d w a imm s
  | .sli d w imm => Sys2Proof.Machine.execSli d w imm s
  | .slui d w imm => Sys2Proof.Machine.execSlui d w imm s
  | .aadd d w a b => Sys2Proof.Machine.execAadd d w a b s
  | .asub d w a b => Sys2Proof.Machine.execAsub d w a b s
  | .amov d w a => Sys2Proof.Machine.execAmov d w a s
  | .aset d w a b => Sys2Proof.Machine.execAset d w a b s
  | .aget d w a => Sys2Proof.Machine.execAget d w a s
  | .agetHi d w a => Sys2Proof.Machine.execAgetHi d w a s
  | .brCc k p o => Sys2Proof.Machine.execBrCc k p o s
  | .jmp imm => Sys2Proof.Machine.execJmp imm s
  | .call d imm => Sys2Proof.Machine.execCall d imm s
  | .jind a => Sys2Proof.Machine.execJind a s
  | .jtab a b => Sys2Proof.Machine.execJtab a b s
  | .ret a => Sys2Proof.Machine.execRet a s
  | .rep n d a b x => Sys2Proof.Machine.execRep n d a b x s
  | .scmpCc d w a b k => Sys2Proof.Machine.execScmpCc d w a b k s
  | .scmpiCc d w a imm k => Sys2Proof.Machine.execScmpiCc d w a imm k s
  | .ssel d w a b e => Sys2Proof.Machine.execSsel d w a b e s
  | .vadd d w a b t => Sys2Proof.Machine.execVadd d w a b t s
  | .vsub d w a b t => Sys2Proof.Machine.execVsub d w a b t s
  | .vmul d w a b t => Sys2Proof.Machine.execVmul d w a b t s
  | .vmin d w a b t => Sys2Proof.Machine.execVmin d w a b t s
  | .vmax d w a b t => Sys2Proof.Machine.execVmax d w a b t s
  | .vabs d w a t => Sys2Proof.Machine.execVabs d w a t s
  | .vneg d w a t => Sys2Proof.Machine.execVneg d w a t s
  | .viadd d w a b src t => Sys2Proof.Machine.execViadd d w a b src t s
  | .visub d w a b src t => Sys2Proof.Machine.execVisub d w a b src t s
  | .vimul d w a b src t => Sys2Proof.Machine.execVimul d w a b src t s
  | .vimin d w a b t => Sys2Proof.Machine.execVimin d w a b t s
  | .vimax d w a b t => Sys2Proof.Machine.execVimax d w a b t s
  | .vand d w a b => Sys2Proof.Machine.execVand d w a b s
  | .vor d w a b => Sys2Proof.Machine.execVor d w a b s
  | .vxor d w a b => Sys2Proof.Machine.execVxor d w a b s
  | .vshl d w a b t => Sys2Proof.Machine.execVshl d w a b t s
  | .vshr d w a b t => Sys2Proof.Machine.execVshr d w a b t s
  | .vsra d w a b t => Sys2Proof.Machine.execVsra d w a b t s
  | .vfma d w a b t => Sys2Proof.Machine.execVfma d w a b t s
  | .vfms d w a b t => Sys2Proof.Machine.execVfms d w a b t s
  | .vcvt d w a r x f t => Sys2Proof.Machine.execVcvt d w a r x f t s
  | .vexp2 d w a => Sys2Proof.Machine.execVexp2 d w a s
  | .vlog2 d w a => Sys2Proof.Machine.execVlog2 d w a s
  | .vrcp d w a => Sys2Proof.Machine.execVrcp d w a s
  | .vrsq d w a => Sys2Proof.Machine.execVrsq d w a s
  | .vhash d w a b => Sys2Proof.Machine.execVhash d w a b s
  | .vdot4 d w a b u f p => Sys2Proof.Machine.execVdot4 d w a b u f p s
  | .vdot2 d w a b => Sys2Proof.Machine.execVdot2 d w a b s
  | .vbcast d w a => Sys2Proof.Machine.execVbcast d w a s
  | .vlane d w a b => Sys2Proof.Machine.execVlane d w a b s
  | .vperm d w a b => Sys2Proof.Machine.execVperm d w a b s
  | .xcopy d w a n => Sys2Proof.Machine.execXcopy d w a n s
  | .vredAddF32 d w a => Sys2Proof.Machine.execVredAddF32 d w a s
  | .vredMinF32 d w a => Sys2Proof.Machine.execVredMinF32 d w a s
  | .vredMaxF32 d w a => Sys2Proof.Machine.execVredMaxF32 d w a s
  | .vredAddI32 d w a => Sys2Proof.Machine.execVredAddI32 d w a s
  | .vredMinI32 d w a => Sys2Proof.Machine.execVredMinI32 d w a s
  | .vredMaxI32 d w a => Sys2Proof.Machine.execVredMaxI32 d w a s
  | .vld d w a imm k => Sys2Proof.Machine.execVld d w a imm k s
  | .vst d a imm k => Sys2Proof.Machine.execVst d a imm k s
  | .vgath d w a b k => Sys2Proof.Machine.execVgath d w a b k s
  | .vscat d a b k => Sys2Proof.Machine.execVscat d a b k s
  | .vpushcCfg q a => Sys2Proof.Machine.execVpushcCfg q a s
  | .vpushc q a k => Sys2Proof.Machine.execVpushc q a k s
  | .vpopc d w q k => Sys2Proof.Machine.execVpopc d w q k s
  | .vqbal q => Sys2Proof.Machine.execVqbal q s
  | .vqcnt d w q => Sys2Proof.Machine.execVqcnt d w q s
  | .vcmpCc d w a b t k => Sys2Proof.Machine.execVcmpCc d w a b t k s
  | .vsel d w a b m => Sys2Proof.Machine.execVsel d w a b m s
  | .kand d w a b => Sys2Proof.Machine.execKand d w a b s
  | .kor d w a b => Sys2Proof.Machine.execKor d w a b s
  | .knot d w a => Sys2Proof.Machine.execKnot d w a s
  | .kcnt d w a => Sys2Proof.Machine.execKcnt d w a s
  | .slen m => Sys2Proof.Machine.execSlen m s
  | .sseed x src => Sys2Proof.Machine.execSseed x src s
  | .sprof p => Sys2Proof.Machine.execSprof p s
  | .smode src => Sys2Proof.Machine.execSmode src s
  | .ntset n w src => Sys2Proof.Machine.execNtset n w src s
  | .ntclr n => Sys2Proof.Machine.execNtclr n s
  | .wbld a src => Sys2Proof.Machine.execWbld a src s
  | .wlatch w src => Sys2Proof.Machine.execWlatch w src s
  | .sgo n p => Sys2Proof.Machine.execSgo n p s
  | .sconf v src => Sys2Proof.Machine.execSconf v src s
  | .sstop n j => Sys2Proof.Machine.execSstop n j s
  | .spart v src => Sys2Proof.Machine.execSpart v src s
  | .sread p v src => Sys2Proof.Machine.execSread p v src s
  | .sclr => Sys2Proof.Machine.execSclr s
  | .sebnd v => Sys2Proof.Machine.execSebnd v s
  | .ld z d b x imm => Sys2Proof.Machine.execLd z d b x imm s
  | .st z d b x imm => Sys2Proof.Machine.execSt z d b x imm s
  | .ldl z d b o l => Sys2Proof.Machine.execLdl z d b o l s
  | .str z d b x imm => Sys2Proof.Machine.execStr z d b x imm s
  | .tmov q r o b src => Sys2Proof.Machine.execTmov q r o b src s
  | .tmovq q r o b src => Sys2Proof.Machine.execTmovq q r o b src s
  | .tfill q o b src => Sys2Proof.Machine.execTfill q o b src s
  | .amoOp e o r d b l => Sys2Proof.Machine.execAmoOp e o r d b l s
  | .ldAcq e z d b l => Sys2Proof.Machine.execLdAcq e z d b l s
  | .stRel e z src b => Sys2Proof.Machine.execStRel e z src b s
  | .fence e => Sys2Proof.Machine.execFence e s
  | .waittl t a => Sys2Proof.Machine.execWaittl t a s
  | .tlget t d => Sys2Proof.Machine.execTlget t d s
  | .tlbump t a => Sys2Proof.Machine.execTlbump t a s
  | .bari b a => Sys2Proof.Machine.execBari b a s
  | .bara b => Sys2Proof.Machine.execBara b s
  | .barw b => Sys2Proof.Machine.execBarw b s
  | .racq r src d => Sys2Proof.Machine.execRacq r src d s
  | .rrel r src => Sys2Proof.Machine.execRrel r src s
  | .rinfo r d => Sys2Proof.Machine.execRinfo r d s
  | .wlpush d b l => Sys2Proof.Machine.execWlpush d b l s
  | .wlpushr k b src => Sys2Proof.Machine.execWlpushr k b src s
  | .wlfloor d l => Sys2Proof.Machine.execWlfloor d l s
  | .wlnest b => Sys2Proof.Machine.execWlnest b s
  | .tsucc src => Sys2Proof.Machine.execTsucc src s
  | .rput k a t l v => Sys2Proof.Machine.execRput k a t l v s
  | .rred k a n t => Sys2Proof.Machine.execRred k a n t s
  | .objld o src => Sys2Proof.Machine.execObjld o src s
  | .objpub => Sys2Proof.Machine.execObjpub s
  | .eqinit d b l => Sys2Proof.Machine.execEqinit d b l s
  | .equn d b l => Sys2Proof.Machine.execEqun d b l s
  | .eqfd d b l => Sys2Proof.Machine.execEqfd d b l s
  | .eqsz d b l => Sys2Proof.Machine.execEqsz d b l s
  | .eqcnt d b l => Sys2Proof.Machine.execEqcnt d b l s
  | .eqrl d b l => Sys2Proof.Machine.execEqrl d b l s
  | .eqsnap d b l => Sys2Proof.Machine.execEqsnap d b l s
  | .equndo d b l => Sys2Proof.Machine.execEqundo d b l s
  | .eqdrop d b l => Sys2Proof.Machine.execEqdrop d b l s
  | .hopRepairResume h => Sys2Proof.Machine.execHopRepairResume h s
  | .taskPacketSend d => Sys2Proof.Machine.execTaskPacketSend d s
  | .taskPacketReceive d hdr pkt => Sys2Proof.Machine.execTaskPacketReceive d hdr pkt s
  | .isaledinWriteRx qp psn ce key va bytes => Sys2Proof.Machine.execIsaledinWriteRx qp psn ce key va bytes s
  | .isaledinReadRequestRx qp psn ce key va len => Sys2Proof.Machine.execIsaledinReadRequestRx qp psn ce key va len s
  | .slotArm die slot => Sys2Proof.Machine.execSlotArm die slot s
  | .slotDisarm die slot => Sys2Proof.Machine.execSlotDisarm die slot s
  | .contributionStaged die con => Sys2Proof.Machine.execContributionStaged die con s
  | .contributionAdd die => Sys2Proof.Machine.execContributionAdd die s
  | .slotDeadline die slot => Sys2Proof.Machine.execSlotDeadline die slot s
  | .journalAppendAck die slot => Sys2Proof.Machine.execJournalAppendAck die slot s
  | .snapGo e => Sys2Proof.Machine.execSnapGo e s
  | .launchRecordConsume ctx => Sys2Proof.Machine.execLaunchRecordConsume ctx s
  | .recordRepoll ctx => Sys2Proof.Machine.execRecordRepoll ctx s
  | .launchFirstRead l => Sys2Proof.Machine.execLaunchFirstRead l s
  | .launchReport l => Sys2Proof.Machine.execLaunchReport l s
  | .msixCoalesceExpiry v => Sys2Proof.Machine.execMsixCoalesceExpiry v s
  | .inboundRead req off len => Sys2Proof.Machine.execInboundRead req off len s
  | .inboundWrite req off bytes => Sys2Proof.Machine.execInboundWrite req off bytes s
  | .outboundTimeout tag => Sys2Proof.Machine.execOutboundTimeout tag s
  | .gangStart l g => Sys2Proof.Machine.execGangStart l g s
  | .taskDispatch die => Sys2Proof.Machine.execTaskDispatch die s
  | .regionCopyInDone cid => Sys2Proof.Machine.execRegionCopyInDone cid s
  | .tendCopyOut cid => Sys2Proof.Machine.execTendCopyOut cid s
  | .taskRetire l uid => Sys2Proof.Machine.execTaskRetire l uid s
  | .taskPreload cid => Sys2Proof.Machine.execTaskPreload cid s
  | .packetAccept die l arr pkt => Sys2Proof.Machine.execPacketAccept die l arr pkt s
  | .nestWalkerSpawn l uid => Sys2Proof.Machine.execNestWalkerSpawn l uid s
  | .continuationReady l uid => Sys2Proof.Machine.execContinuationReady l uid s
  | .budgetExceeded cid => Sys2Proof.Machine.execBudgetExceeded cid s
  | .terminationWave l shares => Sys2Proof.Machine.execTerminationWave l shares s
  | .floorPropose l => Sys2Proof.Machine.execFloorPropose l s
  | .proposeReceive l hub p => Sys2Proof.Machine.execProposeReceive l hub p s
  | .proposeAckReceive l hub b => Sys2Proof.Machine.execProposeAckReceive l hub b s
  | .commitReceive l hub fc => Sys2Proof.Machine.execCommitReceive l hub fc s
  | .holdReceive l hub => Sys2Proof.Machine.execHoldReceive l hub s
  | .pauseReceive l hub => Sys2Proof.Machine.execPauseReceive l hub s
  | .pauseAckReceive l hub present heldB => Sys2Proof.Machine.execPauseAckReceive l hub present heldB s
  | .resumeReceive l hub fc => Sys2Proof.Machine.execResumeReceive l hub fc s
  | .bucketRefill l hub b => Sys2Proof.Machine.execBucketRefill l hub b s
  | .reachUpdate l v => Sys2Proof.Machine.execReachUpdate l v s
  | .stealRequest l hub => Sys2Proof.Machine.execStealRequest l hub s
  | .stealRequestReceive l giver thief => Sys2Proof.Machine.execStealRequestReceive l giver thief s
  | .stealTransferReceive l giver thief => Sys2Proof.Machine.execStealTransferReceive l giver thief s
  | .stealAckReceive l giver thief => Sys2Proof.Machine.execStealAckReceive l giver thief s
  | .stealRetry l hub => Sys2Proof.Machine.execStealRetry l hub s
  | .deviceStealRequest l from' => Sys2Proof.Machine.execDeviceStealRequest l from' s
  | .preemptRequest cid why => Sys2Proof.Machine.execPreemptRequest cid why s
  | .ckptlimExpiry cid => Sys2Proof.Machine.execCkptlimExpiry cid s
  | .saveComplete cid => Sys2Proof.Machine.execSaveComplete cid s
  | .contextRestore cid => Sys2Proof.Machine.execContextRestore cid s
  | .shadowCopyDone l page => Sys2Proof.Machine.execShadowCopyDone l page s
  | .coreWake cid => Sys2Proof.Machine.execCoreWake cid s
  | .landingDataReturn cid id => Sys2Proof.Machine.execLandingDataReturn cid id s
  | .fetchComplete cid => Sys2Proof.Machine.execFetchComplete cid s
  | .pageWalkDone die ctx va => Sys2Proof.Machine.execPageWalkDone die ctx va s
  | .allocHoldTimeout who => Sys2Proof.Machine.execAllocHoldTimeout who s
  | .tileMoveComplete cid q => Sys2Proof.Machine.execTileMoveComplete cid q s
  | .objldComplete cid => Sys2Proof.Machine.execObjldComplete cid s
  | .objpubComplete cid => Sys2Proof.Machine.execObjpubComplete cid s
  | .vqbalComplete cid => Sys2Proof.Machine.execVqbalComplete cid s
  | .arrayOpStart cid => Sys2Proof.Machine.execArrayOpStart cid s
  | .nestPark cid => Sys2Proof.Machine.execNestPark cid s
  | .arrayOpComplete cid => Sys2Proof.Machine.execArrayOpComplete cid s
  | .eqFindHop op => Sys2Proof.Machine.execEqFindHop op s
  | .eqLink op => Sys2Proof.Machine.execEqLink op s
  | .eqSizeDelta op => Sys2Proof.Machine.execEqSizeDelta op s
  | .eqHoldEnd op => Sys2Proof.Machine.execEqHoldEnd op s
  | .eqOpComplete op => Sys2Proof.Machine.execEqOpComplete op s
  | .ackArrival cid l n fate => Sys2Proof.Machine.execAckArrival cid l n fate s
  | .rputArrival put => Sys2Proof.Machine.execRputArrival put s
  | .windowAccessArrival cid acc => Sys2Proof.Machine.execWindowAccessArrival cid acc s
  | .barrierArrival way l bar rect => Sys2Proof.Machine.execBarrierArrival way l bar rect s
  | .barrierPhaseDelivery cid l bar phase => Sys2Proof.Machine.execBarrierPhaseDelivery cid l bar phase s
  | .ringUpdate cid => Sys2Proof.Machine.execRingUpdate cid s
  | .flitReplay h => Sys2Proof.Machine.execFlitReplay h s
  | .retryWindowEnd h => Sys2Proof.Machine.execRetryWindowEnd h s
  | .hopRepair h repaired => Sys2Proof.Machine.execHopRepair h repaired s
  | .sectorRead ctx enc pa => Sys2Proof.Machine.execSectorRead ctx enc pa s
  | .sectorWrite ctx enc pa bytes => Sys2Proof.Machine.execSectorWrite ctx enc pa bytes s
  | .patrolScrub pa => Sys2Proof.Machine.execPatrolScrub pa s
  | .refreshManagement ch row => Sys2Proof.Machine.execRefreshManagement ch row s
  | .refreshManagementDone ch => Sys2Proof.Machine.execRefreshManagementDone ch s
  | .refreshWindowEnd ch => Sys2Proof.Machine.execRefreshWindowEnd ch s
  | .powerCapWindow watts => Sys2Proof.Machine.execPowerCapWindow watts s
  | .thermalThrottle => Sys2Proof.Machine.execThermalThrottle s
  | .thermalShutdown => Sys2Proof.Machine.execThermalShutdown s
  | .xogusFlitReplay d => Sys2Proof.Machine.execXogusFlitReplay d s
  | .portRetrain d ok => Sys2Proof.Machine.execPortRetrain d ok s
  | .taskCreditReturn d l => Sys2Proof.Machine.execTaskCreditReturn d l s
  | .isaledinReadResponseRx qp psn ce bytes => Sys2Proof.Machine.execIsaledinReadResponseRx qp psn ce bytes s
  | .isaledinAckRx qp psn ce nak => Sys2Proof.Machine.execIsaledinAckRx qp psn ce nak s
  | .isaledinReduceRx qp psn ce con => Sys2Proof.Machine.execIsaledinReduceRx qp psn ce con s
  | .isaledinEnqueueRx qp psn ce hdr pkt => Sys2Proof.Machine.execIsaledinEnqueueRx qp psn ce hdr pkt s
  | .isaledinUnsupportedRx p => Sys2Proof.Machine.execIsaledinUnsupportedRx p s
  | .isaledinRetransmitTimeout qp => Sys2Proof.Machine.execIsaledinRetransmitTimeout qp s
  | .pfcPauseRx p prio on => Sys2Proof.Machine.execPfcPauseRx p prio on s
  | .ethLinkChange p up => Sys2Proof.Machine.execEthLinkChange p up s
  | .viewInstall e view => Sys2Proof.Machine.execViewInstall e view s
  | .journalAppend e entry => Sys2Proof.Machine.execJournalAppend e entry s
  | .snapshotComplete e data => Sys2Proof.Machine.execSnapshotComplete e data s
  | .qtailWrite ctx v => Sys2Proof.Machine.execQtailWrite ctx v s
  | .msixUnmask v => Sys2Proof.Machine.execMsixUnmask v s
  | .contextEnable ctx => Sys2Proof.Machine.execContextEnable ctx s
  | .contextDisable ctx => Sys2Proof.Machine.execContextDisable ctx s
  | .contextFrozenClear ctx => Sys2Proof.Machine.execContextFrozenClear ctx s
  | .inboundAtomicop req off => Sys2Proof.Machine.execInboundAtomicop req off s
  | .outboundCompletion tag ok bytes => Sys2Proof.Machine.execOutboundCompletion tag ok bytes s
  | .telemetry => Sys2Proof.Machine.execTelemetry s
  | .readBlock off => Sys2Proof.Machine.execReadBlock off s
  | .faultLog => Sys2Proof.Machine.execFaultLog s
  | .freeze target => Sys2Proof.Machine.execFreeze target s
  | .release target => Sys2Proof.Machine.execRelease target s
  | .reset => Sys2Proof.Machine.execReset s
  | .linkService cmd => Sys2Proof.Machine.execLinkService cmd s
  | .fwUpdate cmd => Sys2Proof.Machine.execFwUpdate cmd s
  | .attest nonce => Sys2Proof.Machine.execAttest nonce s
  | .attestMailboxStart => Sys2Proof.Machine.execAttestMailboxStart s
  | .powerOn => Sys2Proof.Machine.execPowerOn s
  | .bringUpStageDone ok => Sys2Proof.Machine.execBringUpStageDone ok s
  | .invGo => Sys2Proof.Machine.execInvGo s
  | .invDone => Sys2Proof.Machine.execInvDone s
  | .poolTailWrite src big tail => Sys2Proof.Machine.execPoolTailWrite src big tail s
  | .counterClear off ones => Sys2Proof.Machine.execCounterClear off ones s
  | .registerWrite off v => Sys2Proof.Machine.execRegisterWrite off v s
  | .hubSoftError die l => Sys2Proof.Machine.execHubSoftError die l s
  | .powerGate cid => Sys2Proof.Machine.execPowerGate cid s
  | .padSoftError pad off bits => Sys2Proof.Machine.execPadSoftError pad off bits s
  | .memorySymbolError pa symbols => Sys2Proof.Machine.execMemorySymbolError pa symbols s
  | .uncorrectableFabricError chiplet => Sys2Proof.Machine.execUncorrectableFabricError chiplet s
  | .modulePowerLoss => Sys2Proof.Machine.execModulePowerLoss s
  | .pcieLinkTraining up => Sys2Proof.Machine.execPcieLinkTraining up s

end Sys2Proof.Machine
end

