-- ==== Sys2Proof/Machine/Egress.lean ====
section
/-! DEFINITION. The egress of a core (R194): which of the accesses that wait to leave it may go, and what each does when it goes. -/

namespace Sys2Proof.Machine

/-- Whether an engine operation that the core issued before a fence has not been performed (R194, R196: TM to FEN): a tile operation, a read
of the L1 by the array, an operation of the equivalence units. -/
def State.fenceHeld (s : State) (seq : Nat) : Bool :=
  let t := s.core.t
  (t.tq0 ++ t.tq1).any (fun o => o.seq < seq)
  || (t.arrayLive && t.arr.queue.any (fun a => a.at?.any (fun n => n ≤ seq)))
  || s.eqOps.any (fun p => p.cid == s.core.cid && p.lslot == t.lslot && p.seq < seq && p.phase != .done)

/-- Whether a tile move of the core locks bytes of its L1 that a remote operation reads (R198). -/
def Thread.sourceLocked (t : Thread) (src : DWord) (len : Nat) : Bool :=
  match ownOff src with
  | none => false
  | some off => t.locked (off, len)

/-- Whether an entry may leave, with the entries that stand before it (R194, R196): remote operations follow every access before them; an
access passes remote operations only, and at system scope none; one whose way is under repair waits (R26). -/
def State.mayGo (s : State) (e : Egress) (before : List Egress) : Bool :=
  let t := s.core.t
  match e.op with
  | .put _ src len _ | .red _ _ src len _ => before.isEmpty && !t.sourceLocked src len
  | .pushr .. => before.isEmpty
  | .push .. => before.all (fun x => x.op.isRemote) && s.hubClear
  | op =>
    (match op with
      | .load _ _ places | .store places _ => !s.placesHeld places
      | .amo _ _ loc ea _ _ => !s.placesHeld [(loc, ea.toNat, 4)]
      | _ => true)
    && (if e.sys then before.isEmpty && t.rputs == 0 && !t.peerStores e.seq else before.all (fun x => x.op.isRemote))
    && !(op == .fence && s.fenceHeld e.seq)

/-- The entry has left. -/
def State.left (s : State) (seq : Nat) : State := s.mapT fun t => { t with egress := t.egress.filter (fun e => e.seq != seq) }

/-- An access whose places are known ends: only a TAG failure stops it (R33, R145). -/
def egressEnd {α : Type} (pc : DWord) (x : Access α) (k : α → State → State) : State :=
  match x with
  | .ok (a, s) => k a s
  | .error (.tag at' val s) => s.tagFault at' (some (s.core.issuer pc)) val
  | .error e => e.state

/-- The source of a remote operation read by the engine (R342, R361): a fault faults the launch, and a read that waits for a page or for a hop
under repair leaves the entry where it stands (R26, R178). -/
def State.egressRead (s : State) (src : DWord) (len : Nat) (pc : DWord) (k : List PByte → State → State) : State :=
  let cid := s.core.cid
  match s.readVa (s.engineOf cid) src.toNat len with
  | .ok (bs, s) => k bs (s.unhold (.engine cid))
  | .error (.trap _ cause val o s) => (s.unhold (.engine cid)).engineFault cid pc (engineCause cause) val o
  | .error (.stall _ s) =>
    if s.heldOut (.engine cid) then (s.unhold (.engine cid)).engineFault cid pc .page src none else s.holdOnly (.engine cid)
  | .error (.paused s) => s
  | .error (.tag at' val s) => s.tagFault at' (some (s.core.issuer pc)) val
  | .error (.busy val s) => s.engineFault cid pc .shadowBusy val none

/-- A packet handed to the own hub (R358, R359). -/
def State.handOver (s : State) (id : Option Nat) (bs : List (BitVec 8)) : State :=
  let cid := s.core.cid
  let c := s.nextCseq (some cid)
  let arr : Arrival := match id with
    | some id => .push cid c.1 (some id)
    | none => .nest cid c.1
  match execPacketAccept (dieOf cid) s.core.t.lslot arr bs c.2 with
  | .next s => s
  | _ => s

/-- An entry performed as it leaves the core. -/
def State.perform (s : State) (e : Egress) : State :=
  let cid := s.core.cid
  let l := s.core.t.lslot
  let out := s.left e.seq
  let landed := fun (id : Nat) (v : PDWord) (s : State) => (s.mapT fun t => t.fillLand id v).push (.landingDataReturn cid id)
  match e.op with
  | .load id n places => egressEnd e.pc (State.readAll places out) fun bs s => landed id (loaded n bs) s
  | .store places bytes => egressEnd e.pc (State.writeAll out.me places bytes out) fun _ s => s
  | .amo id op loc ea x y => egressEnd e.pc (out.amoDo out.me op loc ea x y) fun v s => landed id v s
  | .fence => out
  | .bump k v => out.mapT fun t => t.raise k v
  | .release r c => out.releaseRing r c
  | .arrive bar rect => out.push (.barrierArrival ⟨cid, homeOf rect⟩ l bar rect)
  | .push id bytes => out.handOver id bytes
  | .pushr hdr member bytes => out.sendPushr hdr member bytes l cid
  | .put req src len pc => s.egressRead src len pc fun bs s => (s.left e.seq).sendPut req bs
  | .red con member src len pc => s.egressRead src len pc fun bs s => (s.left e.seq).sendRed con member bs

/-- The entry of a place performed, if it may go now. -/
def State.egressStep (s : State) (seq : Nat) : State :=
  let es := s.core.t.egress
  match es.find? (fun e => e.seq == seq) with
  | some e => if s.mayGo e (es.takeWhile (fun x => x.seq != seq)) then s.perform e else s
  | none => s

/-- Every entry that may leave the moving core leaves, in order. -/
def State.drain (s : State) : State := (s.core.t.egress.map (fun e => e.seq)).foldl State.egressStep s

end Sys2Proof.Machine
end

