-- ==== Sys2Proof/Machine/Issue.lean ====
section
/-! DEFINITION. Fetch and issue: bundles (R236, R237), the repeat prefix (R244, R245), the check of a whole bundle (R165), freezes
and waits (R167), gangs in step (R89, R91), and what a core does when it runs nothing. -/

namespace Sys2Proof.Machine

/-! ### Fetch (R236, R237, R283) -/

/-- What the fetch of one word answers. -/
inductive Fetched where
  | word (w : Word) (s : State)
  | poisoned (o : Origin) (s : State)
  | packet (k : Nat)
  | stopped (e : Stop)

/-- The number of the packet of three words that holds the word at an address: packets count from the first word of the code, and those
below it have numbers of their own. -/
def Thread.packetOf (t : Thread) (pc : Nat) : Nat :=
  if t.codeBase.toNat ≤ pc then (pc - t.codeBase.toNat) / 12 else 2 ^ 64 + pc / 12

/-- Fetches the word at an address: out of the code buffer; or out of memory, once its packet has come (R283). A fault of the fetch
is PAGE (R237, R281). -/
def State.fetchWord (s : State) (pc : Nat) : Fetched :=
  let t := s.core.t
  let off := pc - t.codeBase.toNat
  if t.codeBase.toNat ≤ pc ∧ off + 4 ≤ t.codeLen then
    match SMap.find? t.codePsn (off / 8) with
    | some o => .poisoned o s
    | none => .word (BitVec.ofNat 32 (leNat (Mem.read t.code off 4))) s
  else if t.fetched.contains (t.packetOf pc) then
    match s.resolve s.me .x pc with
    | .error (.trap _ _ v o s) => .stopped (.trap 4 .page v o s)
    | .error e => .stopped e
    | .ok (loc, s) =>
      if s.pathHeld (dieOf s.core.cid) loc.chiplet then .stopped (.paused s)
      else match s.readLoc loc 4 (BitVec.ofNat 64 pc) with
      | .error e => .stopped e
      | .ok (bs, s) => match psnOf bs with
        | some o => .poisoned o s
        | none => .word (BitVec.ofNat 32 (leNat (plain bs))) s
  else .packet (t.packetOf pc)

/-- What the fetch of a bundle answers: its words; or the words before one that is poisoned or stops the fetch. -/
inductive Bundle where
  | words (ws : List Word) (s : State)
  | poisoned (ws : List Word) (o : Origin) (s : State)
  | packet (k : Nat)
  | stopped (ws : List Word) (e : Stop)

/-- A word put before a bundle. -/
def Bundle.cons (w : Word) : Bundle → Bundle
  | .words ws s => .words (w :: ws) s
  | .poisoned ws o s => .poisoned (w :: ws) o s
  | .stopped ws e => .stopped (w :: ws) e
  | .packet k => .packet k

/-- Fetches a bundle: words up to the first with CH = 0, at most four (R237). -/
def State.fetchBundle : Nat → State → Nat → Bundle
  | 0, s, _ => .words [] s
  | fuel + 1, s, pc =>
    match s.fetchWord pc with
    | .poisoned o s => .poisoned [] o s
    | .packet k => .packet k
    | .stopped e => .stopped [] e
    | .word w s => if chainBit w then (State.fetchBundle fuel s (pc + 4)).cons w else .words [w] s

/-! ### Legality of a bundle (R237, R244, R246) -/

/-- The pipe of a major (R246): 0 C, 1 V, 2 S, 3 M. -/
def pipeOf (maj : Nat) : Nat := if maj < 0x0A then 0 else if maj < 0x15 then 1 else if maj < 0x1B then 2 else 3

/-- The major of a word. -/
def majorOf (w : Word) : Nat := seg w.toNat 26 5

/-- Whether no two words go to one pipe. -/
def pipesApart (ws : List Word) : Bool := ((ws.map (fun w => pipeOf (majorOf w))).eraseDups).length == ws.length

/-- Whether a bundle's words stand together: at most four, the last with CH = 0, one to a pipe, REP alone (R237). -/
def bundleShape (ws : List Word) : Bool :=
  ws.length ≤ 4 && !(ws.getLast?.any chainBit) && pipesApart ws && (ws.length == 1 || ws.all (fun w => majorOf w != 0x08))

/-- The instructions of a bundle, or none when any word is illegal (R267). -/
def decodeAll : List Word → Option (List Instr)
  | [] => some []
  | w :: ws =>
    match decode w, decodeAll ws with
    | .ok i, some is => some (i :: is)
    | _, _ => none

/-- The repeated word at issue i: each flagged field reads as its code + i (R244). -/
def stepWord (r : Rep) (w : Word) (i : Nat) : Word :=
  let add := fun (on : Bool) (lo : Nat) => if on then i * 2 ^ lo else 0
  BitVec.ofNat 32 (w.toNat + add r.stepD 20 + add r.stepA 13 + add r.stepB 7 + add r.stepC 1)

/-- Whether a stepped field stays in the register range of its first code at every issue (R244). -/
def stepRange (cpipe : Bool) (code n : Nat) : Bool := code + n - 1 ≤ 47 && (!cpipe || code > 31 || code + n - 1 ≤ 31)

/-- Whether a word may be repeated under a REP: its major, its flags and every stepped code (R244). -/
def repLegal (r : Rep) (w : Word) : Bool :=
  let m := majorOf w
  let x := w.toNat
  let fmtI := m == 2 || m == 0x0F
  let immB := (m == 0x13 && seg x 0 4 ≤ 1) || (m == 0x12 && seg x 0 7 == 3)
  (m == 1 || m == 2 || m == 4 || m == 9 || (0x0C ≤ m && m ≤ 0x14)) && m != 9
  && !r.stepC && !(r.stepB && (fmtI || immB)) && !(r.stepD && seg x 19 1 == 1)
  && (!r.stepD || stepRange (m < 0x0A) (seg x 20 6) r.n) && (!r.stepA || stepRange (m < 0x0A) (seg x 13 6) r.n)
  && (!r.stepB || stepRange (m < 0x0A) (seg x 7 6) r.n)
  && (List.range r.n).all (fun i => match decode (stepWord r w i) with | .ok _ => true | .error _ => false)

/-- The instructions that a bundle issues now, or none: ILLEGAL. -/
def bundleInstrs (r : Rep) (ws : List Word) : Option (List Instr) :=
  if !bundleShape ws then none
  else if r.left = 0 then decodeAll ws
  else match ws with
    | [w] => if r.left = r.n && !repLegal r w then none else decodeAll [stepWord r w (r.n - r.left)]
    | _ => none

/-- Whether the words before one that the fetch does not give make the bundle illegal already, which comes before the poison or the fault of that
word (R165, R237): a word with CH = 1 among several, a REP, or under a repeat. What stands behind that word is not known: the bundle is taken to
end with it (DESIGN CHOICE, log 15). -/
def prefixIllegal (r : Rep) (ws : List Word) : Bool :=
  !ws.isEmpty && (r.left != 0 || !pipesApart ws || ws.any (fun w => majorOf w == 0x08) || (decodeAll ws).isNone)

/-! ### The members of the moving core's work (R89, R91, R167) -/

/-- A change to the thread of every member of a gang. -/
def State.forGang (s : State) (ms : List Nat) (f : Thread → Thread) : State :=
  ms.foldl (fun s m => s.onCore m fun c => { c with t := f c.t }) s

/-- The moving core and, if it leads a gang, the gang's other members. -/
def State.members (s : State) : List Nat := s.gangOf s.core.cid

/-- A change to the thread of the moving core and of its gang. -/
def State.each (s : State) (f : Thread → Thread) : State := if s.core.t.gang then s.forGang s.members f else s.mapT f

/-- Whether a property holds of the moving core or of a member of its gang. -/
def State.anyT (s : State) (p : Thread → Bool) : Bool :=
  if s.core.t.gang then s.members.any (fun m => p (s.coreAt m).t) else p s.core.t

/-- The moving core is another one of the device. -/
def State.focus (s : State) (cid : Nat) : State :=
  if cid = s.core.cid then s
  else { s with core := s.coreAt cid, parked := SMap.insert (SMap.erase s.parked cid) s.core.cid s.core }

/-! ### The words of a bundle (R165) -/

/-- The thread ready to issue the bundle at its pc, whose next bundle in line is at pcn. -/
def Thread.ready (t : Thread) (pcn : DWord) : Thread :=
  { t with hold := none, trapRec := none, npc := none, pcn := pcn, repeating := t.rep.left != 0 }

/-- The state after an outcome, if it is a next state. -/
def onNext (o : Out) (f : State → State) : Out :=
  match o with
  | .next s => .next (f s)
  | .fault e => .fault e
  | .refused e => .refused e

/-- Words that act before the others of their bundle (a write of FPX, which the checks of the bundle see, and a wait for the event latch,
whose state before the bundle counts), and words that act after them (the ends of a task and the return from a trap) (R237, R287, R291,
R293). -/
def phaseOf : Instr → Nat
  | .cswr _ n | .csset _ n | .csclr _ n => if n = 5 then 0 else 1
  | .wfe | .sleep => 0
  | .tend | .tsusp _ _ | .tyield | .eret => 2
  | _ => 1

/-- The words of a bundle with their place in it, in the order in which they act. -/
def inPhases (is : List Instr) : List (Instr × Nat) :=
  let xs := is.zipIdx
  xs.filter (fun x => phaseOf x.1 == 0) ++ xs.filter (fun x => phaseOf x.1 == 1) ++ xs.filter (fun x => phaseOf x.1 == 2)

/-- A bundle whose check stage has passed while it was held can no longer be cancelled (R165): a word that fails when the bundle issues at
last has no effect. DESIGN CHOICE, log 15. -/
def State.uncancelled (s : State) (o : Out) : Out :=
  match o with
  | .next s' => if s.core.t.passed && s'.core.t.trapRec.any (fun r => r.cause != .tag && r.cause != .shadowBusy) then .next s else o
  | o => o

/-- One word of a bundle alone. -/
def State.word (s : State) (i : Instr) : Out := s.uncancelled (exec i s)

/-- What the words of a bundle have come to so far: the state, with the translations that every word has taken (R175); the failure that
R165's order chooses with the word that raised it; and the word by which the bundle is held, a freeze before a wait, a granted ring before
other waits. -/
structure Judged where
  s : State
  trap : Option (TrapRec × Nat × Instr) := none
  hold : Option (Nat × Instr) := none

/-- Whether a failure comes before another in R165's order. -/
def chosen (rank at' : Nat) (old : Option (TrapRec × Nat × Instr)) : Bool :=
  match old with
  | none => true
  | some (r, k, _) => rank < r.rank || (rank = r.rank && at' < k)

/-- Which hold of a bundle counts: the freezes (R175, R178, R179) before the waits, for no check has passed meanwhile. -/
def holdRank : Hold → Nat
  | .racq => 1
  | h => if h.waits then 2 else 0

/-- The hold of one more word taken in. -/
def heldBy (old : Option (Nat × Instr)) (h : Option Hold) (i : Instr) : Option (Nat × Instr) :=
  let n := (h.map holdRank).getD 2
  match old with
  | some (k, j) => if n < k then some (n, i) else some (k, j)
  | none => some (n, i)

/-- One word of a bundle judged and, if it neither fails nor holds, performed. -/
def Judged.word (j : Judged) (x : Instr × Nat) : Except Out Judged :=
  match j.s.word x.1 with
  | .next s =>
    match s.core.t.trapRec with
    | some r => .ok (if chosen r.rank x.2 j.trap then { j with trap := some (r, x.2, x.1) } else j)
    | none =>
      .ok (if s.core.t.held then { j with s := j.s.mapT (fun t => { t with xlat := s.core.t.xlat }), hold := heldBy j.hold s.core.t.hold x.1 }
           else { j with s := s })
  | o => .error o

/-- The words of a bundle performed together on a state (R165): a failure of any cancels all; a hold of any keeps all, with the
translations they have taken. Translation faults are judged once every walk that the bundle waits for has ended (R175). -/
def State.issueAll (s : State) (is : List Instr) : Out :=
  match is with
  | [i] => s.word i
  | _ =>
    match (inPhases is).foldlM Judged.word { s := s } with
    | .error o => o
    | .ok j =>
      let frozen := match j.hold with
        | some (0, i) => some i
        | _ => none
      match j.trap, j.hold with
      | some (r, _, i), _ =>
        match (if r.rank ≥ 4 then frozen else none) with
        | some h => exec h (s.mapT fun t => { t with xlat := j.s.core.t.xlat })
        | none => if r.cause = .tag || r.cause = .shadowBusy then exec i s else .next (s.take r)
      | none, some (_, i) => exec i (s.mapT fun t => { t with xlat := j.s.core.t.xlat })
      | none, none => .next j.s

/-- A core that issues the repeated word for the first time, as it stands when a trap or cancellation takes it there: at the REP word
(R245). -/
def Thread.atRep (t : Thread) : Thread :=
  if t.rep.left != 0 && t.rep.left = t.rep.n then { t with pc := t.pc - 4, rep := {} } else t

/-- A bundle issued; one that traps at the first issue of a repeat traps at the REP word. -/
def State.issueRep (s : State) (is : List Instr) : Out :=
  let o := s.issueAll is
  if s.core.t.rep.left != 0 && s.core.t.rep.left = s.core.t.rep.n then
    match o with
    | .next s' => if s'.core.t.trapRec.isSome then (s.mapT Thread.atRep).issueAll is else o
    | _ => o
  else o

/-! ### The end of a bundle -/

/-- The thread after a bundle has issued: the pc moves on, a repeat counts down, the cycle counts outside handler mode, results
come one cycle nearer (R16, R141, R245, R278). Of the packets fetched, only the one that holds the next word is still at hand (R283). -/
def Thread.advance (t : Thread) (pcn : DWord) : Thread :=
  let left := t.rep.left - 1
  let t := if t.rep.left != 0 && t.repeating then { t with rep := if left = 0 then {} else { t.rep with left := left }, pc := if left = 0 then pcn else t.pc }
           else { t with pc := t.npc.getD pcn }
  let t := t.tickFlights.countStop
  { t with
    npc := none, cycle := if t.handler then t.cycle else t.cycle + 1, budget := t.budget + 1, allocFail := false, waitPage := false
    repeating := false, fetched := t.fetched.filter (fun k => k == t.packetOf t.pc.toNat)
    xlat := [], walkBad := [], passed := false, chkObjs := none, fpxNext := [], froze := false }

/-- ERET's return once no result of handler mode is in flight in any member (R142): n of a repeat that goes on is read again (R245). -/
def State.tryLeave (s : State) : State :=
  if s.anyT (fun t => t.hold == some .eretDrain) then
    let s := s.each Thread.settle
    if s.anyT (fun t => !t.flights.isEmpty) then s
    else s.members.foldl State.rereads (s.each Thread.leaveHandler)
  else s

/-- A core cycle in which the clock domain is frozen (R167): the next stop is taken where the freeze ends (R133). -/
def State.frozenCycle (s : State) : State := s.each fun t => { t.freeze.tickData with froze := true }

/-- Stops at a CKPT bundle that met a pending request (R132): a solo core with that bundle issued, a gang before it (R134). A malformed table
counts, and the stop is an immediate one; a TAG failure of its read freezes the context (R145); while a hop of its way is under repair the
bundle stays (R26). -/
def State.ckptStop (s0 s : State) : State :=
  match s.core.t.ckpt with
  | none => s
  | some a =>
    let s := if s.core.t.gang then s0 else s.each fun t => { t with ckpt := none }
    match s.ckptTable s.core.cid a with
    | .table tab s => s.stopAtCkpt a tab
    | .tag at' val s => s.tagFault at' (some (s.core.issuer s0.core.t.pc)) val
    | .malformed s => (s.mapT Thread.ckptBad).stopNow s.core.cid
    | .paused _ => s0.frozenCycle

/-- A bundle has issued: T_START is the device time of the launch's first (R75), and a wait of the core for a page is over (R178). -/
def State.noteIssue (s : State) : State :=
  let s := s.onLaunch s.core.t.lslot fun x => { x with tStart := x.tStart.or (some s.dev.devTime) }
  { s with agenda := s.agenda.filter (fun i => i != .allocHoldTimeout (.core s.core.cid)) }

/-- A core cycle in which the bundle is held by a wait (R165, R167): its own check stage has been made, with the object window as it stood. -/
def Thread.holdWait (t : Thread) : Thread := { t.tickWait with passed := true, chkObjs := t.chkObjs.or (some t.objs) }

/-- The end of a bundle outside a gang, from the state in which it was issued: a trap taken is put away, a held bundle stays, a bundle that
issued moves on. -/
def State.retire (s0 : State) (pcn : DWord) (s : State) : State :=
  if s.core.t.trapRec.isSome then s.mapT Thread.calm
  else if s.core.t.held then s.mapT (if s.core.t.waiting then Thread.holdWait else Thread.tickData)
  else State.ckptStop s0 (s.noteIssue.mapT (fun t => t.advance pcn)).tryLeave

/-! ### What the next bundle has to say (R286) -/

/-- The write of FPX that a word makes. -/
def State.fpxWrite (s : State) : Instr → Option (CsrOp × DWord)
  | .cswr a n => if n = 5 then some (.write, (s.srcC a).val) else none
  | .csset a n => if n = 5 then some (.set, (s.srcC a).val) else none
  | .csclr a n => if n = 5 then some (.clear, (s.srcC a).val) else none
  | _ => none

/-- The writes of FPX by the bundle after this one, which take effect in the cycle of this one's check stage: the bundle in line, if it
issues in the very next cycle (R165, R286). -/
def State.fpxAhead (s : State) (is : List Instr) (pcn : DWord) : List (CsrOp × DWord) :=
  match State.fetchBundle 4 s pcn.toNat with
  | .words ws _ =>
    match (if bundleShape ws && s.core.t.rep.left ≤ 1 then decodeAll ws else none) with
    | some js =>
      if js.all (fun j => (s.fpxWrite j).isNone) then []
      else match s.issueRep is with
        | .next x =>
          if x.core.t.trapRec.isSome || x.core.t.held || x.core.t.npc.isSome || x.core.t.stall != 0 then []
          else
            let y := x.mapT fun t => { (t.advance pcn).settle.ready 0 with repeating := false }
            match y.issueAll js with
            | .next z => if y.core.t.late || z.core.t.held then [] else js.filterMap y.fpxWrite
            | _ => []
        | _ => []
    | none => []
  | _ => []

/-- The state in which the words of a bundle are judged: what the next bundle writes to FPX in time for its check is known. -/
def State.atIssue (s : State) (is : List Instr) (pcn : DWord) : State :=
  let s := s.mapT fun t => t.ready pcn
  s.mapT fun t => { t with fpxNext := s.fpxAhead is pcn }

/-! ### A bundle outside a gang -/

/-- ILLEGAL for the whole bundle (R237). -/
def State.illegal (s : State) : Out := s.trap 1 .illegal 0

/-- The bundle that a core outside a gang issues now. -/
def State.soloBundle (s : State) (ws : List Word) : Out :=
  let pcn := s.core.t.pc + BitVec.ofNat 64 (4 * ws.length)
  match bundleInstrs s.core.t.rep ws with
  | none => onNext ((s.mapT fun t => t.ready pcn).mapT Thread.atRep).illegal (s.retire pcn)
  | some is => onNext ((s.atIssue is pcn).issueRep is) (s.retire pcn)

/-! ### Gangs (R89, R91, R134, R167) -/

/-- What a failure at a member does to its gang: the member's trap is a trap of all. TRAPVAL of the others is 0, log 15. -/
def State.trapAll (s0 : State) (m : Nat) (s : State) : State :=
  let others := s0.members.filter (fun x => x != m)
  let cause := ((s.coreAt m).t.trapRec.map (fun r => r.cause)).getD .trap
  let s := if (s.coreAt m).t.handler && !(s0.coreAt m).t.handler then
      others.foldl (fun s x => s.onCore x fun c => { c with t := c.t.enterHandler s.handlerAddr cause 0 }) s
    else s
  (s.forGang s0.members Thread.calm).focus s0.core.cid

/-- How far a bundle of a gang has come, member by member: the state with the effects of the members that neither fail nor hold, the first
member that fails, the members that hold, and the translations of each. -/
structure GangRun where
  s : State
  trap : Option Nat := none
  holds : List (Nat × Bool) := []
  xlats : List (Nat × List Xlat) := []

/-- The bundle on one more member. -/
def GangRun.member (is : List Instr) (g : GangRun) (m : Nat) : Except Out GangRun :=
  match (g.s.focus m).issueAll is with
  | .next s =>
    let t := s.core.t
    let g := { g with xlats := g.xlats ++ [(m, t.xlat)] }
    .ok (if t.trapRec.isSome then { g with trap := g.trap.or (some m) }
         else if t.held then { g with holds := g.holds ++ [(m, t.waiting)] }
         else { g with s := s })
  | o => .error o

/-- The held bundle of a gang on its members: those that hold do what holding does, and the others stand still with them (R167). SLEEP gates every member
from its first waited cycle (R293). -/
def State.gangHeld (s : State) (is : List Instr) (g : GangRun) : State :=
  let wait := g.holds.all (fun h => h.2)
  let lead := s.core.cid
  let asleep := is.contains .sleep && !s.core.t.ev
  let s := g.xlats.foldl (fun s x => s.onCore x.1 fun c => { c with t := { c.t with xlat := x.2 } }) s
  s.members.foldl (fun s m =>
    let s := s.focus m
    let s := if g.holds.any (fun h => h.1 == m && h.2 == wait) then (match s.issueAll is with
        | .next s => s
        | _ => s)
      else s.mapT fun t => if wait then { t with waitcnt := BitVec.ofNat 64 (satAdd 64 t.waitcnt.toNat 1), budget := t.budget + 1 } else t.freeze
    let s : State := { s with core := { s.core with gated := s.core.gated || (wait && asleep && !s.core.t.passed) } }
    (s.mapT (if wait then Thread.holdWait else Thread.tickData)).focus lead) s

/-- A bundle of a gang: members in turn; a trap of one is a trap of all; a hold of one holds all. The lead decides where the gang goes next
and how often a word repeats. -/
def State.gangIssue (s : State) (is : List Instr) (pcn : DWord) : Out :=
  let lead := s.core.cid
  match s.members.foldlM (GangRun.member is) { s := s } with
  | .error o => o
  | .ok g =>
    match g.trap with
    | some m => onNext (((s.forGang s.members Thread.atRep).focus m).issueAll is) (s.trapAll m)
    | none =>
      if g.holds.isEmpty then
        let x := g.s.focus lead
        let t := x.core.t
        .next (State.ckptStop s (x.noteIssue.forGang s.members fun u => { u with npc := t.npc, stall := t.stall, rep := t.rep }.advance pcn).tryLeave)
      else .next (s.gangHeld is g)

/-- The writes of FPX by the next bundle of a gang that take effect in the cycle of this one's check stage, member by member (R286), as for a core
outside a gang. -/
def State.gangAhead (s : State) (is : List Instr) (pcn : DWord) : List (Nat × List (CsrOp × DWord)) :=
  match State.fetchBundle 4 s pcn.toNat with
  | .words ws _ =>
    match (if bundleShape ws && s.core.t.rep.left ≤ 1 then decodeAll ws else none) with
    | some js =>
      if js.all (fun j => (s.fpxWrite j).isNone) then []
      else match s.members.foldlM (GangRun.member is) { s := s } with
        | .ok g =>
          let t := (g.s.focus s.core.cid).core.t
          if g.trap.isSome || !g.holds.isEmpty || t.npc.isSome || t.stall != 0 then []
          else
            let y := (g.s.focus s.core.cid).forGang s.members fun u =>
              { ({ u with rep := t.rep }.advance pcn).settle.ready 0 with repeating := false }
            match y.members.foldlM (GangRun.member js) { s := y } with
            | .ok h => if y.anyT Thread.late || !h.holds.isEmpty then [] else s.members.map (fun m => (m, js.filterMap (y.focus m).fpxWrite))
            | .error _ => []
        | .error _ => []
    | none => []
  | _ => []

/-- The bundle that a gang issues now. -/
def State.gangBundle (s : State) (ws : List Word) : Out :=
  let pcn := s.core.t.pc + BitVec.ofNat 64 (4 * ws.length)
  let s := s.each fun t => t.ready pcn
  match bundleInstrs s.core.t.rep ws with
  | none => onNext (s.each Thread.atRep).illegal (s.trapAll s.core.cid)
  | some is =>
    ((s.gangAhead is pcn).foldl (fun (s : State) x => s.onCore x.1 fun c => { c with t := { c.t with fpxNext := x.2 } }) s).gangIssue is pcn

/-! ### The moving core and its gang -/

/-- What a trap at the moving core does, in a gang and outside. -/
def State.trapped (s0 s : State) : State := if s0.core.t.gang then s0.trapAll s0.core.cid s else s.mapT Thread.calm

/-- A fetch that has not given a bundle. -/
def State.noBundle (s : State) (b : Bundle) : Out :=
  match b with
  | .words _ s => .next s
  | .poisoned ws o s =>
    onNext (if prefixIllegal s.core.t.rep ws then (s.each Thread.atRep).illegal else (s.each Thread.atRep).trap 2 .poison 0 (some o)) s.trapped
  | .packet k => .next ((s.frozenCycle.mapT fun t => { t with fetching := some k }).push (.fetchComplete s.core.cid))
  | .stopped ws e =>
    let s := e.state
    if prefixIllegal s.core.t.rep ws then onNext (s.each Thread.atRep).illegal s.trapped
    else onNext (match e with
      | .trap rank cause val o s => (s.each Thread.atRep).trap rank cause val o
      | e => e.out) fun x =>
      if x.core.t.trapRec.isSome then s.trapped x
      else x.each fun t => (if t.held then t else t.freeze).tickData

/-- The failure that the check stage of the bundle at the pc would meet, with the member at which it would. -/
def State.failsAhead (s : State) : Option (Nat × TrapRec) :=
  let s := s.each Thread.settle
  let lead := s.core.cid
  let at' : Out → Option TrapRec := fun o => match o with
    | .next x => x.core.t.trapRec.bind fun (r : TrapRec) => if r.cause = .tag || r.cause = .shadowBusy || r.cause = .badPacket then none else some r
    | _ => none
  let pc := s.core.t.pc
  match State.fetchBundle 4 s pc.toNat with
  | .words ws x =>
    let pcn := pc + BitVec.ofNat 64 (4 * ws.length)
    match bundleInstrs x.core.t.rep ws with
    | none => some (lead, ⟨1, .illegal, 0, none⟩)
    | some is => x.members.findSome? fun m => (at' (((x.each fun t => t.ready pcn).focus m).issueAll is)).map (fun r => (m, r))
  | .poisoned ws o x => some (lead, if prefixIllegal x.core.t.rep ws then ⟨1, .illegal, 0, none⟩ else ⟨2, .poison, 0, some o⟩)
  | .stopped ws e =>
    if prefixIllegal e.state.core.t.rep ws then some (lead, ⟨1, .illegal, 0, none⟩)
    else match e with
      | .trap n c v o _ => some (lead, ⟨n, c, v, o⟩)
      | _ => none
  | _ => none

/-- An immediate stop at a bundle boundary (R133): the bundle at the pc may have been issued just before the request came, and a failure of
its check stage is then saved as pending. Which of the two it is, is open (log 17). -/
def State.stopHere (s : State) : State :=
  let quiet := Config.beforeTrap s.tick && !s.anyT (fun t => t.frozen || t.held)
  let s := match (if quiet then s.failsAhead else none) with
    | some (m, r) => s.onCore m fun c => { c with t := { c.t with tpend := some r } }
    | none => s
  s.stopNow s.core.cid

/-- The member of the moving core's work with a failure saved as pending. -/
def State.pendingAt (s : State) : Option (Nat × TrapRec) :=
  s.members.findSome? fun m =>
    let t := (s.coreAt m).t
    if t.handler then none else t.tpend.map (fun r => (m, r))

/-- A failure saved as pending is taken on resumption, before any bundle issues (R133). -/
def State.takePending (s : State) (m : Nat) (r : TrapRec) : State :=
  let s := s.each Thread.settle
  s.trapAll m (((s.onCore m fun c => { c with t := { c.t with tpend := none } }).focus m).take r)

/-- Draining before the return from a trap (R142): frozen, results of handler mode move, and TBUDGET counts. -/
def State.drainStep (s : State) : State :=
  if s.anyT Thread.late then s.each fun t => { t.freeze.tickData with budget := t.budget + 1 }
  else ((s.each Thread.settle).each fun t => { t.freeze.tickFlights with budget := t.budget + 1 }).tryLeave

/-- A running core or the lead of a running gang: a pending failure, a stop, a drain, a freeze, or the results due in this cycle, fetch and
issue. A result due at the bundle at which a stop is taken goes into the replay buffer (R133). -/
def State.run (s : State) : Out :=
  if s.anyT (fun t => t.mode != .run) then .next s
  else match s.pendingAt with
    | some (m, r) => .next (s.takePending m r)
    | none =>
      if s.stopsHere && !s.core.t.froze then .next s.stopHere
      else if s.anyT (fun t => t.hold == some .eretDrain) then .next s.drainStep
      else if s.anyT Thread.late then .next s.frozenCycle
      else if s.core.t.stall != 0 then .next (s.frozenCycle.each fun t => { t with stall := t.stall - 1 })
      else if s.core.t.fetching.isSome then .next s.frozenCycle
      else if s.stopsHere then .next s.stopHere
      else
        let s := s.each Thread.settle
        match State.fetchBundle 4 s s.core.t.pc.toNat with
        | .words ws s => if s.core.t.gang then s.gangBundle ws else s.soloBundle ws
        | b => s.noBundle b

/-! ### Cores that run nothing -/

/-- An idle core: after 4,096 idle cycles it is power gated, which keeps every register, pad and latch (R154). -/
def State.idleStep (s : State) : State :=
  let c := s.core
  { s with core := { c with idleCycles := c.idleCycles + 1, gated := c.gated || c.idleCycles + 1 ≥ 4096 } }

/-- A core whose TEND, TSUSP or TYIELD bundle has passed: results in flight are written, and once the named operations are done and nothing
waits to leave the core, the work is handed over (R287, R288, R289). -/
def State.endStep (s : State) : State :=
  let t := s.core.t
  let drained := t.flights.isEmpty && t.tq0.isEmpty && t.tq1.isEmpty && t.egress.isEmpty
  let quiet := drained && (t.hold == some .tend || (t.arr.queue.isEmpty && t.qs.toList.all (fun q => q.left == 0)))
  if quiet && t.hold.isSome then
    (s.mapT fun t => { t with hold := none, susp := t.hold != some .tend, yielded := t.hold == some .tyield }).push (.tendCopyOut s.core.cid)
  else if t.late then s.mapT Thread.tickWait
  else s.mapT fun t => t.settle.tickFlights

/-- BUDGET is due when a task has run past TBUDGET (R108). -/
def State.overBudget (s : State) : Bool :=
  let t := s.core.t
  t.taskOpen && (t.mode == .run || t.mode == .ending) && s.lrec.task && t.budget > s.lrec.tbudget && s.lrec.tbudget != 0

/-- One step of the moving core, once what could leave it has left (R194). A core that a fault has frozen sends off what it has issued, and no more
(R110, R145); one that its last discarded work has left may take other work once nothing is left to send. -/
def State.coreStep (s0 : State) : Out :=
  let halted := fun (c : Core) => c.protFrozen && c.t.mode != .idle && c.t.mode != .stopping
  if halted s0.core then .next s0
  else
    let s := s0.drain
    let c := s.core
    if halted c then .next s
    else match c.t.mode with
      | .idle =>
        if !c.t.egress.isEmpty then .next s
        else if !s0.core.t.egress.isEmpty then .next (s.pushOnce (.taskDispatch (dieOf c.cid)))
        else .next (if c.protFrozen then s else s.idleStep)
      | .loading | .stopping => .next (s.mapT Thread.tickData)
      | .ending => .next (if s.overBudget then s.pushOnce (.budgetExceeded c.cid) else s.endStep)
      | .run =>
        if s.overBudget then .next (s.pushOnce (.budgetExceeded c.cid))
        else if c.t.gang && c.t.lead != c.cid then .next s
        else s.run

/-! ### Whose turn it is -/

/-- The channel on which a due step comes, for the messages whose order the spec keeps: the steps of one channel happen in the order in which
they were sent (R41, R70, R100, R115, R117, R124, R196, R374); transfers of the fabric by their source and target chiplets (R22). Writes through BAR 2
are in order per requester, and those of the host with its writes to BAR 0; while HRID_V = 0 no requester is told from the host. The puts of one device
to this one are one channel, for a sender does not know the die that its target lies on: DEDUCED, log 1. -/
def State.orderOf (s : State) (i : Instr) : Option (Nat × Nat × Nat × Nat) :=
  match s.endsOf i with
  | some (a, b) => some (0, a, b, 0)
  | none => match i with
    | .rputArrival put => some (4, put.sender, 0, 0)
    | .contributionStaged _ con => some (5, con.sender, con.die, 0)
    | .packetAccept die l (.push ..) _ | .packetAccept die l (.nest ..) _ => some (12, die, l, 0)
    | .inboundWrite req .. => some (7, if s.dev.hridV && s.dev.hostRid.toNat != req then req else 2 ^ 16, 0, 0)
    | .registerWrite .. | .qtailWrite .. | .contextEnable .. | .contextDisable .. | .contextFrozenClear .. | .poolTailWrite ..
    | .invGo .. | .counterClear .. | .attestMailboxStart => some (7, 2 ^ 16, 0, 0)
    | .taskPacketReceive d hdr _ => some (8, d, hdr.die, 0)
    | .reachUpdate l _ => some (10, l, 0, 0)
    | .ackArrival cid .. => some (13, dieOf cid, 0, 0)
    | .journalAppendAck die _ => some (13, die, 1, 0)
    | .taskCreditReturn d _ => some (14, d, 0, 0)
    | .journalAppend e _ | .snapshotComplete e (some _) => some (15, e, 0, 0)
    | _ => none

/-- Whether a write of the host or of a peer may pass earlier ones (R70, R374): the relaxed-ordering attribute is set. A write to BAR 0 that is a step of its
own is taken to have it clear (DESIGN CHOICE, log 1). -/
def mayPass : Instr → Bool
  | .inboundWrite _ _ x => x.ro
  | .qtailWrite _ x => x.ro
  | .registerWrite _ x => x.ro
  | _ => false

/-- The k-th due step leaves the agenda, or the first of its channel. -/
def State.pull (s : State) (k : Nat) : Option (Instr × State) :=
  match s.agenda[k]? with
  | none => none
  | some i =>
    let j := if (s.orderOf i).isNone || mayPass i then k else s.agenda.findIdx (fun x => s.orderOf x == s.orderOf i)
    match s.agenda[j]? with
    | none => none
    | some i => some (i, { s with agenda := s.agenda.eraseIdx j })

/-- The turn ends: device time runs (R8), and who moves next is open (R19, R41). -/
def State.endTurn (s : State) : State :=
  { s with
    tick := s.tick + 1
    dev := { s.dev with devTime := s.dev.devTime + BitVec.ofNat 64 (Config.elapsed s.tick) }
    turn := Config.choice s.tick % (1 + s.agenda.length + s.parked.length) }

/-- The j-th parked core becomes the one that moves. -/
def State.focusParked (s : State) (j : Nat) : State :=
  match s.parked[j]? with
  | some x => s.focus x.1
  | none => s

/-- A due step of a module without power: nothing acts but the return of power; what was on its way is lost (R80). -/
def State.darkStep (s : State) (i : Instr) : Out :=
  match i with
  | .powerOn => exec .powerOn s
  | _ => .next s

/-- One turn of the device: the core, a due step, or another core. -/
def State.turnStep (s : State) : Out :=
  if s.turn = 0 then (if s.powered then s.coreStep else .next s)
  else match s.pull (s.turn - 1) with
    | some (i, s') => if s.onHeldHop i then .next s else if s.powered then exec i s' else s'.darkStep i
    | none => if s.powered then (s.focusParked (s.turn - 1 - s.agenda.length)).coreStep else .next s

/-! ### Placing an instruction where it is fetched -/

/-- The moving core made ready to fetch the word at its pc out of its code buffer, and that word put there. -/
def Core.withWord (c : Core) (w : Word) : Core :=
  let t := c.t
  let inBuf := t.codeBase.toNat ≤ t.pc.toNat && t.pc.toNat - t.codeBase.toNat + 4 ≤ t.codeLen
  let base := if inBuf then t.codeBase else t.pc
  let off := t.pc.toNat - base.toNat
  { c with
    protFrozen := false
    t := { t with
      mode := .run, taskOpen := true, gang := false, handler := t.handler, stall := 0, hold := none, stop := none, fetching := none
      rep := {}, budget := 0, tpend := none, egress := [], xlat := [], walkBad := [], passed := false, chkObjs := none, fpxNext := [], froze := false
      codeBase := base, codeLen := if inBuf then t.codeLen else 4
      code := Mem.write t.code off (leBytes 4 w.toNat), codePsn := SMap.erase t.codePsn (off / 8)
      flights := t.flights.filter (fun f => !f.late) } }

end Sys2Proof.Machine
end

