-- ==== Sys2Proof/Machine/Step.lean ====
section
/-! DEFINITION. One step of the machine, and the placing of an instruction where the next step fetches. -/

namespace Sys2Proof.Machine

/-- One step: one turn of the device. -/
def step (s : State) : Host.Outcome State Fault Refusal := onNext s.turnStep State.endTurn

/-- The state with an instruction stored where step fetches its next one: the core's turn, a running task, the word in its code
buffer at its pc. -/
def State.withFetchWord (s : State) (nbits w : Nat) : State :=
  { s with core := s.core.withWord (BitVec.ofNat 32 (w % 2 ^ nbits)), turn := 0, powered := true }

end Sys2Proof.Machine
end

