-- ==== Sys2Proof/Safety.lean ====
section
/-! DEFINITION. What counts as a safe state and a safe run, in the terms that claims use. -/

namespace Sys2Proof.Machine

/-- The memories of a thread, of a save area and of a core stand in their canonical form. -/
def Thread.memOk (t : Thread) : Bool := t.wbuf.wf && t.code.wf
def Saved.memOk (a : Saved) : Bool := a.l1.bytes.wf && a.thread.memOk
def Core.memOk (c : Core) : Bool :=
  c.l1.bytes.wf && c.t.memOk && c.savedT.all Saved.memOk && c.savedD.all Saved.memOk && c.left.all (fun x => x.2.2.memOk)

/-- Every memory of the machine stands in its canonical form: device memory, the pads, the weight and code buffers, the saved contexts
and the mailbox. -/
def State.memOk (s : State) : Bool :=
  s.mem.wf && s.mailbox.wf && s.core.memOk && s.parked.all (fun x => x.2.memOk)
  && s.l2.all (fun x => x.2.bytes.wf) && s.l3.all (fun x => x.2.bytes.wf)

/-- One element of a lane, at width w (R294). -/
def elemOf (w e : Nat) (x : Word) : Nat := x.toNat / 2 ^ (w * e) % 2 ^ w

/-- The exact value of a finite number (R202). -/
def ratOf (neg : Bool) (num : Nat) (exp : Int) : Rat := (if neg then -1 else 1) * num * (2 : Rat) ^ exp

/-- n counted cycles pass for the results in flight (R16). -/
def Thread.cycles : Nat → Thread → Thread
  | 0, t => t
  | n + 1, t => (Thread.cycles n t).tickFlights

/-- An s or a register as an operand code names it, sign-extended to 64 bits (R241). -/
def Thread.reg (t : Thread) (code : BitVec 6) : DWord :=
  if code < 32 then (t.getS (code.truncate 5)).val.sext else (t.getA (code.truncate 4)).val

/-- What a result puts into each of the four latch queues (R15): a queue after it. The M queue takes a timeline's value as it stands. -/
def Effect.pushC (e : Effect) (q : Vector PDWord 8) : Vector PDWord 8 :=
  match e with
  | .cResult _ _ v => latchPush q v
  | _ => q
def Effect.pushM (e : Effect) (t : Thread) (q : Vector PDWord 8) : Vector PDWord 8 :=
  match e with
  | .mResult _ v n => latchPush q ⟨n, v.psn⟩
  | .land _ _ v _ => latchPush q (v.getD {})
  | .tlRead _ k => latchPush q ⟨BitVec.ofNat 64 t.tl[k].val, none⟩
  | _ => q
def Effect.pushV (e : Effect) (q : Vector Lanes 8) : Vector Lanes 8 :=
  match e with
  | .vResult _ _ mask v => latchPush q (Lanes.masked mask v)
  | .kResult _ _ m => latchPush q (kLanes m)
  | .vsResult _ _ v => latchPush q (Lanes.all v)
  | _ => q
def Effect.pushS (e : Effect) (q : Vector Lanes 8) : Vector Lanes 8 :=
  match e with
  | .sResult _ v => latchPush q v
  | _ => q

/-- The registers of a thread that results write, and its latch queues. -/
def Thread.sameRegs (t u : Thread) : Prop :=
  u.sregs = t.sregs ∧ u.aregs = t.aregs ∧ u.vregs = t.vregs ∧ u.kregs = t.kregs ∧ u.latches = t.latches

/-- The control registers, timelines, barriers, queue descriptors, nest tables, array and object window of a thread. -/
def Thread.sameControl (t u : Thread) : Prop :=
  u.stat = t.stat ∧ u.fpx = t.fpx ∧ u.ckptlim = t.ckptlim ∧ u.trappc = t.trappc ∧ u.trapcause = t.trapcause ∧ u.trapval = t.trapval
  ∧ u.tscr = t.tscr ∧ u.sl = t.sl ∧ u.seeda = t.seeda ∧ u.seedb = t.seedb ∧ u.prof = t.prof ∧ u.smode = t.smode ∧ u.ebnd = t.ebnd
  ∧ u.waitcnt = t.waitcnt ∧ u.tl = t.tl ∧ u.bars = t.bars ∧ u.qs = t.qs ∧ u.ntActive = t.ntActive ∧ u.ntShadow = t.ntShadow
  ∧ u.arr = t.arr ∧ u.objs = t.objs ∧ u.handler = t.handler ∧ u.frame = t.frame ∧ u.mode = t.mode

/-- No memory of the machine has changed: device memory, pads, weight and code buffers. -/
def State.sameMemory (s u : State) : Prop :=
  u.mem = s.mem ∧ u.core.l1 = s.core.l1 ∧ u.l2 = s.l2 ∧ u.l3 = s.l3 ∧ u.parked = s.parked ∧ u.core.t.wbuf = s.core.t.wbuf
  ∧ u.core.t.code = s.core.t.code

/-- A run step that ends in a next state is safe to go on with; a fault or a refusal ends the run. -/
def safe (o : Host.Outcome State Fault Refusal) : Bool :=
  match o with
  | .next _ => true
  | _ => false

end Sys2Proof.Machine
end

