-- ==== Sys2Proof/Certificates/Slice0/Obligations.lean ====
section
/-! DEFINITION. The statements about the model, for the provers. Each docstring names the rules of the spec that it formalises. -/

open Sys2Proof Sys2Proof.Machine

/-! ### Encodings -/

/-- Decoding the encoding of a well-formed instruction gives it back, with CH = 0 (R236 to R267). -/
def Obligations.DecodeEncode : Prop :=
  ∀ (i : Instr) (w : Word), i.wf = true → encode i = some w → decode w = .ok i ∧ chainBit w = false

/-- Whatever the decoder reads is a legal instruction, and only words with a constructor are read (R267). -/
def Obligations.DecodeIsLegal : Prop :=
  ∀ (w : Word) (i : Instr), decode w = .ok i → i.wf = true ∧ (encode i).isSome = true

/-- Words written out in the spec's worked examples decode to the instructions they stand for (R272, R274, R279, R284). -/
def Obligations.SpecWordsDecode : Prop :=
  decode 0x04410485#32 = .ok (.sdiv 4 0 8 9) ∧ decode 0x04510487#32 = .ok (.srem 5 0 8 9)
  ∧ decode 0x1C040501#32 = .ok (.jtab 32 10) ∧ decode 0x08600064#32 = .ok (.saddi 6 0 0 100)
  ∧ decode 0x18080002#32 = .ok (.jmp 2) ∧ decode 0x20600000#32 = .ok (.rep 6 0 0 0 0)
  ∧ decode 0x6D841000#32 = .ok (.st 2 4 1 0 0) ∧ decode 0x0C501678#32 = .ok (.sli 5 0 0x1678)
  ∧ decode 0x0C5448D1#32 = .ok (.slui 5 0 0x48D1) ∧ decode 0x1443FFFC#32 = .ok (.brCc 1 3 0xFFFC)
  ∧ decode 0x00000001#32 = .ok .tend

/-! ### The step -/

/-- A step runs the instruction that stands at the program counter: results due in this cycle are written, the word is fetched out of
the code buffer and decoded, exec performs it (a bundle whose check stage passed while it was held can no longer fail, R165), and the end of
the bundle moves the pc past it (R16, R236, R278). That the core moves is a choice of the turn (DESIGN CHOICE, log 1). -/
def Obligations.StepRunsDecoded : Prop :=
  ∀ (s : State) (i : Instr),
    s.turn = 0 → s.powered = true → s.core.protFrozen = false → s.core.t.egress = [] → s.core.t.mode = .run →
    s.core.t.gang = false → s.overBudget = false → s.core.t.tpend = none → s.core.t.late = false →
    s.core.t.hold ≠ some .eretDrain → s.core.t.stall = 0 → s.core.t.fetching = none → s.stopsHere = false →
    let s1 := s.mapT Thread.settle
    let t := s1.core.t
    let off := t.pc.toNat - t.codeBase.toNat
    t.rep.left = 0 → t.codeBase.toNat ≤ t.pc.toNat → off + 4 ≤ t.codeLen →
    SMap.find? t.codePsn (off / 8) = none → decodeBytes (Mem.read t.code off 4) = .ok (false, i, []) →
    let s2 := s1.atIssue [i] (t.pc + 4)
    step s = onNext (s2.word i) (fun s' => (s1.retire (t.pc + 4) s').endTurn)
    ∧ (t.passed = false → s2.word i = exec i s2)

/-- A bundle with a word that does not decode is ILLEGAL (R237, R267): with a handler and outside handler mode the core enters it, with
TRAPPC the bundle's address and TRAPCAUSE 1. -/
def Obligations.UndecodableTraps : Prop :=
  ∀ (s : State) (w : Word) (e : Reject),
    decode w = .error e → chainBit w = false → s.core.t.rep.left = 0 → s.core.t.handler = false → s.handlerAddr ≠ 0 →
    ∃ t, s.soloBundle [w] = .next t ∧ t.core.t.handler = true ∧ t.core.t.pc = s.handlerAddr ∧ t.core.t.trappc = s.core.t.pc
      ∧ t.core.t.trapcause = 1 ∧ t.core.t.trapval = 0

/-- The machine right after reset (R83, R156 to R160, R320, R321): every register file and latch queue zero, SL at 4, memory zero, DEV_STATE 0.
The zeros of register files, latches and memory before any work are the model's choice (DESIGN CHOICE, logs 11 and 12). -/
def Obligations.ResetState : Prop :=
  (∀ d, State.reset.core.t.getS d = {}) ∧ (∀ d, State.reset.core.t.getA d = {}) ∧ (∀ d, State.reset.core.t.getK d = 0)
  ∧ (∀ d, State.reset.core.t.getV d = Lanes.zero) ∧ State.reset.core.t.latches = {}
  ∧ State.reset.core.t.stat = 0 ∧ State.reset.core.t.fpx = 0 ∧ State.reset.core.t.sl = 4 ∧ State.reset.core.t.handler = false
  ∧ (∀ a, Mem.get State.reset.mem a = 0) ∧ State.reset.dev.devState = 0 ∧ State.reset.launches = []

/-- The memories of the reset state stand in their canonical form. -/
def Obligations.ResetMemoryCanonical : Prop := State.reset.memOk = true

/-- Every step keeps device memory in its canonical form: addresses rise and no entry is 0, so equal memories are equal data. -/
def Obligations.StepKeepsMemoryForm : Prop :=
  ∀ s s' : State, s.mem.wf = true → step s = .next s' → s'.mem.wf = true

/-! ### Results in flight -/

/-- R16 for a C-pipe result: written n cycles after issue, not before. -/
def Obligations.ResultAtItsCycle : Prop :=
  ∀ (t : Thread) (d : BitVec 6) (v : PDWord) (n k : Nat),
    t.flights = [⟨n, .cResult d false v⟩] →
    (k < n → t.sameRegs (Thread.cycles k t).settle)
    ∧ (k = n → (Thread.cycles k t).settle.latches.c = latchPush t.latches.c v
        ∧ (d < 32 → d ≠ 0 → (Thread.cycles k t).settle.getS (d.truncate 5) = ⟨v.val.low, v.psn⟩)
        ∧ (32 ≤ d → d < 48 → (Thread.cycles k t).settle.getA (d.truncate 4) = v))

/-- R163: of two register writes that take effect in one cycle the later-issued one stands, whatever the earlier one is and whichever pipe each
comes from, and each of the two enters its own latch queue, in that order. The list of flights stands in the order of issue, and of the words of
a bundle. -/
def Obligations.LaterWriteStands : Prop :=
  ∀ (t : Thread) (x y : Effect) (rest : List Flight),
    t.flights = ⟨0, x⟩ :: ⟨0, y⟩ :: rest → (∀ f ∈ rest, f.off ≠ 0) → t.late = false → x.isUpdate = false → y.isUpdate = false →
    let u := t.settle
    (∀ d v, y = .cResult d false v → (d < 32 → d ≠ 0 → u.getS (d.truncate 5) = ⟨v.val.low, v.psn⟩) ∧ (32 ≤ d → d < 48 → u.getA (d.truncate 4) = v))
    ∧ (∀ d v q, y = .mResult d v q → (d < 32 → d ≠ 0 → u.getS (d.truncate 5) = ⟨v.val.low, v.psn⟩) ∧ (32 ≤ d → d < 48 → u.getA (d.truncate 4) = v))
    ∧ (∀ id d v k, y = .land id d (some v) k → d ≠ 0 → u.getS d = ⟨v.val.low, v.psn⟩)
    ∧ (∀ d v, y = .vsResult d false v → d < 32 → d ≠ 0 → u.getS (d.truncate 5) = v)
    ∧ (∀ d m v, y = .vResult d false m v → d < 48 → ∀ l : Fin 128, m.getLsbD l = true → (u.getV d)[l] = v[l])
    ∧ (∀ d v, y = .sResult d v → d < 48 → ∀ l : Fin 128, (u.getV d)[l] = v[l])
    ∧ (∀ d m, y = .kResult d false m → u.getK (d.truncate 3) = m)
    ∧ u.latches.c = y.pushC (x.pushC t.latches.c) ∧ u.latches.m = y.pushM t (x.pushM t t.latches.m)
    ∧ u.latches.v = y.pushV (x.pushV t.latches.v) ∧ u.latches.s = y.pushS (x.pushS t.latches.s)

/-- R156: s0 reads 0, a write to it is discarded, and the result still enters the latch queue. -/
def Obligations.S0ReadsZero : Prop :=
  ∀ (t : Thread) (v : PDWord), t.getS 0 = {} ∧ (t.apply (.cResult 0 false v)).getS 0 = {}
    ∧ (∀ d, (t.apply (.cResult 0 false v)).getS d = t.getS d) ∧ (t.apply (.cResult 0 false v)).latches.c = latchPush t.latches.c v

/-- A result that is written changes its register and its latch queue, and nothing else: C, M, V and k results. -/
def Obligations.ResultFrame : Prop :=
  ∀ (t : Thread) (w : Bool),
    (∀ (d : BitVec 6) (v : PDWord), let u := t.apply (.cResult d w v)
      t.sameControl u ∧ u.vregs = t.vregs ∧ u.kregs = t.kregs ∧ u.latches = { t.latches with c := latchPush t.latches.c v }
      ∧ (∀ r : BitVec 5, r.zeroExtend 6 ≠ d ∨ w = true → u.getS r = t.getS r)
      ∧ (∀ r : BitVec 4, 32 + r.zeroExtend 6 ≠ d ∨ w = true → u.getA r = t.getA r))
    ∧ (∀ (d : BitVec 6) (v : PDWord) (q : DWord), let u := t.apply (.mResult d v q)
      t.sameControl u ∧ u.vregs = t.vregs ∧ u.kregs = t.kregs ∧ u.latches = { t.latches with m := latchPush t.latches.m ⟨q, v.psn⟩ }
      ∧ (∀ r : BitVec 5, r.zeroExtend 6 ≠ d → u.getS r = t.getS r) ∧ (∀ r : BitVec 4, 32 + r.zeroExtend 6 ≠ d → u.getA r = t.getA r))
    ∧ (∀ (d : BitVec 6) (m : BitVec 128) (v : Lanes), let u := t.apply (.vResult d w m v)
      t.sameControl u ∧ u.sregs = t.sregs ∧ u.aregs = t.aregs ∧ u.kregs = t.kregs
      ∧ u.latches = { t.latches with v := latchPush t.latches.v (Lanes.masked m v) }
      ∧ (∀ r : BitVec 6, r ≠ d ∨ w = true → u.getV r = t.getV r)
      ∧ (∀ l : Fin 128, w = false → d < 48 → (u.getV d)[l] = if m.getLsbD l then v[l] else (t.getV d)[l]))
    ∧ (∀ (d : BitVec 6) (m : BitVec 128), let u := t.apply (.kResult d w m)
      t.sameControl u ∧ u.sregs = t.sregs ∧ u.aregs = t.aregs ∧ u.vregs = t.vregs
      ∧ u.latches = { t.latches with v := latchPush t.latches.v (kLanes m) }
      ∧ (∀ r : BitVec 3, r ≠ d.truncate 3 ∨ w = true → u.getK r = t.getK r) ∧ (w = false → u.getK (d.truncate 3) = m))

/-- A result put in flight changes nothing yet: registers, latches, control registers, memories and the pc stand. -/
def Obligations.IssueFrame : Prop :=
  ∀ (s : State) (n : Nat) (fx : Effect), let t := s.later n fx
    s.core.t.sameRegs t.core.t ∧ s.core.t.sameControl t.core.t ∧ s.sameMemory t ∧ t.core.t.pc = s.core.t.pc
    ∧ t.core.t.flights = s.core.t.flights ++ [⟨n, fx⟩] ∧ t.launches = s.launches ∧ t.hubs = s.hubs ∧ t.agenda = s.agenda
    ∧ t.outbox = s.outbox
/-! ### Scalar and address words -/

/-- R271: the SALU words, in exact integers narrowed to 32 bits, at their latencies. -/
def Obligations.ScalarArithmetic : Prop :=
  ∀ (s : State) (d : BitVec 6) (w : BitVec 1) (a b : BitVec 6),
    (s.srcC a).psn = none → (s.srcC b).psn = none →
    let x := (s.srcC a).val.low
    let y := (s.srcC b).val.low
    let n := y.toNat % 32
    exec (.sadd d w a b) s = .next (s.putC 1 d w (BitVec.ofInt 32 (x.toInt + y.toInt)))
    ∧ exec (.ssub d w a b) s = .next (s.putC 1 d w (BitVec.ofInt 32 (x.toInt - y.toInt)))
    ∧ exec (.smul d w a b) s = .next (s.putC 3 d w (BitVec.ofInt 32 (x.toInt * y.toInt)))
    ∧ exec (.smulh d w a b) s = .next (s.putC 3 d w (BitVec.ofInt 32 (x.toInt * y.toInt / 2 ^ 32)))
    ∧ exec (.smulhu d w a b) s = .next (s.putC 3 d w (BitVec.ofNat 32 (x.toNat * y.toNat / 2 ^ 32)))
    ∧ exec (.sand d w a b) s = .next (s.putC 1 d w (x &&& y))
    ∧ exec (.sor d w a b) s = .next (s.putC 1 d w (x ||| y))
    ∧ exec (.sxor d w a b) s = .next (s.putC 1 d w (x ^^^ y))
    ∧ exec (.sshl d w a b) s = .next (s.putC 1 d w (BitVec.ofNat 32 (x.toNat * 2 ^ n)))
    ∧ exec (.sshr d w a b) s = .next (s.putC 1 d w (BitVec.ofNat 32 (x.toNat / 2 ^ n)))
    ∧ exec (.ssra d w a b) s = .next (s.putC 1 d w (BitVec.ofInt 32 (x.toInt / 2 ^ n)))
    ∧ exec (.smin d w a b) s = .next (s.putC 1 d w (BitVec.ofInt 32 (min x.toInt y.toInt)))
    ∧ exec (.smax d w a b) s = .next (s.putC 1 d w (BitVec.ofInt 32 (max x.toInt y.toInt)))
    ∧ exec (.sminu d w a b) s = .next (s.putC 1 d w (BitVec.ofNat 32 (min x.toNat y.toNat)))
    ∧ exec (.smaxu d w a b) s = .next (s.putC 1 d w (BitVec.ofNat 32 (max x.toNat y.toNat)))
    ∧ exec (.sclz d w a) s = .next (s.putC 1 d w (BitVec.ofNat 32 (if x = 0 then 32 else 31 - Nat.log2 x.toNat)))
    ∧ exec (.spopc d w a) s = .next (s.putC 1 d w (BitVec.ofNat 32 ((List.range 32).countP (fun i => x.getLsbD i))))

/-- R272: the divisions. A zero divisor traps with ARITH under EIDZ, and gives all ones and the dividend otherwise; −2^31 / −1 gives
−2^31 and remainder 0; else the quotient is rounded toward zero. -/
def Obligations.ScalarDivision : Prop :=
  ∀ (s : State) (d : BitVec 6) (w : BitVec 1) (a b : BitVec 6),
    (s.srcC a).psn = none → (s.srcC b).psn = none →
    let x := (s.srcC a).val.low
    let y := (s.srcC b).val.low
    let trap : Out := s.trap 3 .arith x.zext
    (y = 0 → fpxEidz s.core.t.fpxAtCheck = true →
      exec (.sdiv d w a b) s = trap ∧ exec (.sdivu d w a b) s = trap ∧ exec (.srem d w a b) s = trap ∧ exec (.sremu d w a b) s = trap)
    ∧ (y = 0 → fpxEidz s.core.t.fpxAtCheck = false →
      exec (.sdiv d w a b) s = .next (s.putC 12 d w (BitVec.ofInt 32 (-1)))
      ∧ exec (.sdivu d w a b) s = .next (s.putC 12 d w (BitVec.ofInt 32 (-1)))
      ∧ exec (.srem d w a b) s = .next (s.putC 12 d w x) ∧ exec (.sremu d w a b) s = .next (s.putC 12 d w x))
    ∧ (y ≠ 0 →
      exec (.sdiv d w a b) s = .next (s.putC 12 d w (BitVec.ofInt 32 (x.toInt.tdiv y.toInt)))
      ∧ exec (.srem d w a b) s = .next (s.putC 12 d w (BitVec.ofInt 32 (x.toInt - y.toInt * x.toInt.tdiv y.toInt)))
      ∧ exec (.sdivu d w a b) s = .next (s.putC 12 d w (BitVec.ofNat 32 (x.toNat / y.toNat)))
      ∧ exec (.sremu d w a b) s = .next (s.putC 12 d w (BitVec.ofNat 32 (x.toNat - y.toNat * (x.toNat / y.toNat)))))

/-- R273: the SALUI words and AADDI. -/
def Obligations.ScalarImmediate : Prop :=
  ∀ (s : State) (d : BitVec 6) (w : BitVec 1) (a : BitVec 6) (i : BitVec 10) (n : BitVec 5),
    (s.srcC a).psn = none →
    let x := (s.srcC a).val.low
    let y : Word := BitVec.ofInt 32 i.toInt
    exec (.saddi d w a i) s = .next (s.putC 1 d w (x + y)) ∧ exec (.sandi d w a i) s = .next (s.putC 1 d w (x &&& y))
    ∧ exec (.sori d w a i) s = .next (s.putC 1 d w (x ||| y)) ∧ exec (.sxori d w a i) s = .next (s.putC 1 d w (x ^^^ y))
    ∧ exec (.sshli d w a n) s = .next (s.putC 1 d w (BitVec.ofNat 32 (x.toNat * 2 ^ n.toNat)))
    ∧ exec (.sshri d w a n) s = .next (s.putC 1 d w (BitVec.ofNat 32 (x.toNat / 2 ^ n.toNat)))
    ∧ exec (.ssrai d w a n) s = .next (s.putC 1 d w (BitVec.ofInt 32 (x.toInt / 2 ^ n.toNat)))
    ∧ exec (.aaddi d w a i) s = .next (s.putC64 1 d w (BitVec.ofInt 64 ((s.srcC a).val.toInt + i.toInt)))

/-- R274 and R275: constants, compares and the select. -/
def Obligations.ScalarConstantCompareSelect : Prop :=
  ∀ (s : State) (d : BitVec 6) (w : BitVec 1) (a b c : BitVec 6) (i : BitVec 18) (k : BitVec 4),
    (s.srcC a).psn = none → (s.srcC b).psn = none → (s.srcC c).psn = none → (s.srcC d).psn = none →
    let x := (s.srcC a).val.low
    let y := (s.srcC b).val.low
    let lt := fun (u v : Word) => (match k.toNat with
      | 0 => decide (u = v) | 1 => decide (u ≠ v)
      | 2 => decide (u.toInt < v.toInt) | 3 => decide (u.toInt ≥ v.toInt) | 4 => decide (u.toInt > v.toInt) | 5 => decide (u.toInt ≤ v.toInt)
      | 6 => decide (u.toNat < v.toNat) | 7 => decide (u.toNat ≥ v.toNat) | 8 => decide (u.toNat > v.toNat) | 9 => decide (u.toNat ≤ v.toNat)
      | _ => false : Bool)
    exec (.sli d w i) s = .next (s.putC 1 d w (BitVec.ofInt 32 i.toInt))
    ∧ exec (.slui d w i) s = .next (s.putC 1 d w (BitVec.ofNat 32 (i.toNat * 2 ^ 14 + (s.srcC d).val.low.toNat % 2 ^ 14)))
    ∧ exec (.scmpCc d w a b k) s = .next (s.putC 1 d w (if lt x y then 1 else 0))
    ∧ exec (.scmpiCc d w a b k) s = .next (s.putC 1 d w (if lt x (BitVec.ofInt 32 b.toInt) then 1 else 0))
    ∧ exec (.ssel d w a b c) s = .next (s.putC 1 d w (if (s.srcC c).val.low ≠ 0 then x else y))

/-- R276: the address words wrap modulo 2^64; AGET and AGET.HI give 32 bits. -/
def Obligations.AddressWords : Prop :=
  ∀ (s : State) (d : BitVec 6) (w : BitVec 1) (a b : BitVec 6),
    (s.srcC a).psn = none → (s.srcC b).psn = none →
    let x := (s.srcC a).val
    let y := (s.srcC b).val.low
    exec (.aadd d w a b) s = .next (s.putC64 1 d w (BitVec.ofInt 64 (x.toInt + y.toInt)))
    ∧ exec (.asub d w a b) s = .next (s.putC64 1 d w (BitVec.ofInt 64 (x.toInt - y.toInt)))
    ∧ exec (.amov d w a) s = .next (s.putC64 1 d w x)
    ∧ exec (.aset d w a b) s = .next (s.putC64 1 d w (BitVec.ofNat 64 (y.toNat * 2 ^ 32 + x.toNat % 2 ^ 32)))
    ∧ exec (.aget d w a) s = .next (s.putC 1 d w (BitVec.ofNat 32 (x.toNat % 2 ^ 32)))
    ∧ exec (.agetHi d w a) s = .next (s.putC 1 d w (BitVec.ofNat 32 (x.toNat / 2 ^ 32)))

/-- R165, R270: a poisoned source of a C-pipe word cancels the bundle with POISON, the unselected source of SSEL too. -/
def Obligations.PoisonCancels : Prop :=
  ∀ (s : State) (d : BitVec 6) (w : BitVec 1) (a b c : BitVec 6) (o : Origin),
    (s.srcC a).psn = some o →
    let cancel : Out := s.trap 2 .poison 0 (some o)
    exec (.sadd d w a b) s = cancel ∧ exec (.smul d w a b) s = cancel ∧ exec (.sdiv d w a b) s = cancel ∧ exec (.saddi d w a 0) s = cancel
    ∧ exec (.amov d w a) s = cancel ∧ exec (.trap a) s = cancel
    ∧ ((s.srcC b).psn = none → exec (.ssel d w b a c) s = cancel)

/-! ### Branches, jumps, repeats -/

/-- R278 to R281 outside a gang's followers: the bundle after a taken transfer is at the target, one frozen cycle later; a transfer
not taken leaves the pc to fall through; the link of CALL is the address after the bundle. A target of 2^56 or above traps with PAGE, a
target of JIND or RET that is no multiple of 4 with ALIGN (R277). -/
def Obligations.BranchesAndJumps : Prop :=
  ∀ (s : State) (k : BitVec 4) (p a : BitVec 6) (o : BitVec 16) (i : BitVec 19) (d : BitVec 6),
    s.follows = false → (s.srcC p).psn = none → (s.srcC a).psn = none →
    let go := fun (s : State) (x : DWord) => (.next (s.mapT fun t => { t with npc := some x, stall := t.stall + 1 }) : Out)
    let to16 := s.core.t.pc + BitVec.ofInt 64 (4 * o.toInt)
    let to19 := s.core.t.pc + BitVec.ofInt 64 (4 * i.toInt)
    (Machine.cond k.toNat (s.srcC p).val 0 = false → exec (.brCc k p o) s = .next s)
    ∧ (Machine.cond k.toNat (s.srcC p).val 0 = true → to16.toNat < 2 ^ 56 → exec (.brCc k p o) s = go s to16)
    ∧ (to19.toNat < 2 ^ 56 → exec (.jmp i) s = go s to19 ∧ exec (.call d i) s = go (s.putC64 1 d 0 s.core.t.pcn) to19)
    ∧ ((s.srcC a).val.toNat % 4 = 0 → (s.srcC a).val.toNat < 2 ^ 56 →
        exec (.jind a) s = go s (s.srcC a).val ∧ exec (.ret a) s = go s (s.srcC a).val)
    ∧ ((s.srcC a).val.toNat % 4 ≠ 0 → exec (.jind a) s = s.trap 3 .align (s.srcC a).val ∧ exec (.ret a) s = s.trap 3 .align (s.srcC a).val)
    ∧ ((s.srcC a).val.toNat % 4 = 0 → 2 ^ 56 ≤ (s.srcC a).val.toNat → exec (.jind a) s = s.trap 3 .page (s.srcC a).val)
    ∧ (2 ^ 56 ≤ to19.toNat → exec (.jmp i) s = s.trap 3 .page to19)

/-- R282, R284: the jump table in the own L1 with an index in its range, and out of range; REP makes the next bundle repeat.
A table outside the own L1 is read as a load is (R196): while an access before it waits to leave, or a hop of its way is under repair (R26), the
bundle waits; its landing time is a free value (DESIGN CHOICE, log 8). -/
def Obligations.JumpTableAndRepeat : Prop :=
  (∀ (s : State) (a b : BitVec 6) (n e : Word) (s1 s2 : State),
    s.follows = false → (s.srcC a).psn = none → (s.srcC b).psn = none → (s.srcC a).val.toNat % 4 = 0 →
    (s.srcC a).val.toNat < 2 ^ 56 →
    let x := (s.srcC a).val.toNat
    let i := (s.srcC b).val.low.toNat
    let wait := if (ownOff (s.srcC a).val).isSome then 3 else Config.landing s.tick
    let goes := fun (s : State) (va : Nat) => (ownOff (BitVec.ofNat 64 va)).isSome = true ∨ (s.core.t.mayLeave false = true
      ∧ ∀ places s', State.resolveAll s.me .rd (pieces 4 va 4) s = .ok (places, s') → s.placesHeld places = false)
    goes s x → s.readVa s.me x 4 = .ok (clean (leBytes 4 n.toNat), s1) →
    (n.toNat ≤ i → exec (.jtab a b) s = .next ((s1.later 2 (.statBit 5)).mapT fun t => { t with stall := t.stall + wait }))
    ∧ (i < n.toNat → goes s1 (x + 4 + 4 * i) → s1.readVa s1.me (x + 4 + 4 * i) 4 = .ok (clean (leBytes 4 e.toNat), s2) →
        (s2.relative e.sext).toNat < 2 ^ 56 →
        exec (.jtab a b) s = .next (s2.mapT fun t => { t with npc := some (s2.relative e.sext), stall := t.stall + wait })))
  ∧ (∀ (s s1 : State) (a b : BitVec 6) (places : List (Loc × Nat × Nat)),
    s.follows = false → (s.srcC a).psn = none → (s.srcC b).psn = none → (s.srcC a).val.toNat % 4 = 0 →
    (s.srcC a).val.toNat < 2 ^ 56 → ownOff (s.srcC a).val = none →
    State.resolveAll s.me .rd (pieces 4 (s.srcC a).val.toNat 4) s = .ok (places, s1) →
    s.core.t.mayLeave false = false ∨ s.placesHeld places = true → exec (.jtab a b) s = s1.stallOn .walk)
  ∧ (∀ (s : State) (n : BitVec 6) (d a b x : BitVec 1), ∃ t, exec (.rep n d a b x) s = .next t
      ∧ t.core.t.rep = { n := n.toNat + 1, left := n.toNat + 1, stepD := d == 1, stepA := a == 1, stepB := b == 1, stepC := x == 1 }
      ∧ s.core.t.sameRegs t.core.t ∧ s.core.t.sameControl t.core.t ∧ s.sameMemory t)
/-! ### Control registers, task control, traps, waits -/

/-- R285: a read of a control register, and the three writes outside WLREACH (7) and TRAPPC (8); a write to WLREACH goes to the keeper. -/
def Obligations.ControlRegisters : Prop :=
  ∀ (s : State) (d a n : BitVec 6) (w : BitVec 1), (s.srcC a).psn = none →
    let v := (s.srcC a).val
    exec (.csrd d w n) s = .next (s.putC64 2 d w (s.csrRead n.toNat))
    ∧ (n ≠ 7 → (n = 8 → s.core.t.handler = true) →
      exec (.cswr a n) s = .next (s.later 1 (.csr n.toNat .write v)) ∧ exec (.csset a n) s = .next (s.later 1 (.csr n.toNat .set v))
      ∧ exec (.csclr a n) s = .next (s.later 1 (.csr n.toNat .clear v)))
    ∧ (s.lrec.task = true → exec (.cswr a 7) s = .next (s.push (.reachUpdate s.core.t.lslot (v.toNat % 64))))
    ∧ (s.lrec.task = false → exec (.cswr a 7) s = .next s)
    ∧ (s.core.t.handler = false → exec (.cswr a 8) s = s.trap 1 .illegal 0 ∧ exec (.csset a 8) s = s.trap 1 .illegal 0)

/-- What a write, a set and a clear do to TSCR0 to TSCR3, CKPTLIM, TRAPPC and WAITCNT, which have no reserved bits (R143, R157, R285), and
that a reserved field of STAT and of FPX keeps its value (R158, R160). -/
def Obligations.ControlWrites : Prop :=
  ∀ (t : Thread) (v : DWord),
    (∀ n ∈ [6, 8, 11, 12, 13, 14, 22],
      (t.csrWrite n .write v).csrVal n = v ∧ (t.csrWrite n .set v).csrVal n = t.csrVal n ||| v
      ∧ (t.csrWrite n .clear v).csrVal n = t.csrVal n &&& ~~~v)
    ∧ (∀ op, (t.csrWrite 0 op v).stat &&& 0xFFF1F = t.stat &&& 0xFFF1F)
    ∧ (∀ op, (t.csrWrite 5 op v).fpx &&& 0xFFFFFFFFFFFFC0E0 = t.fpx &&& 0xFFFFFFFFFFFFC0E0)
    ∧ (∀ op n, n ∈ [1, 2, 3, 4, 9, 10, 15, 21, 23] → t.csrWrite n op v = t)

/-- NOP does nothing; TEND and TYIELD end the work of the core and TSUSP suspends it once what they wait for is done; CKPT without a
request has no effect (R287 to R290, R293).
The mode that waits is the model's (DESIGN CHOICE, log 16). -/
def Obligations.TaskControl : Prop :=
  ∀ (s : State) (a b : BitVec 6), (s.srcC a).psn = none → (s.srcC b).psn = none →
    exec .nop s = .next s
    ∧ (s.core.t.handler = false → ∃ t, exec .tend s = .next t ∧ t.core.t.mode = .ending ∧ t.core.t.hold = some .tend
        ∧ s.core.t.sameRegs t.core.t ∧ s.sameMemory t)
    ∧ (s.core.t.handler = false → s.core.t.gang = true → exec .tyield s = .next s)
    ∧ (s.core.t.handler = false → s.core.t.gang = false → s.core.t.prefixOpen = false →
      ∃ t, exec .tyield s = .next t ∧ t.core.t.mode = .ending ∧ t.core.t.hold = some .tyield ∧ t.core.t.task.live = 0x00FFFF00
        ∧ s.core.t.sameRegs t.core.t ∧ s.sameMemory t)
    ∧ (let live := (s.srcC a).val.toNat / 2 ^ 32
       let v := (s.srcC b).val.low.toNat
       let there := cidOf (v / 8 % 32) (v / 256 % 32)
       s.core.t.handler = false → s.core.t.gang = false → s.core.t.prefixOpen = false → liveOk live = true → v < 2 ^ 13 →
       s.lrec.has there = true → dieOf there = dieOf s.core.cid →
       ∃ t, exec (.tsusp a b) s = .next t ∧ t.core.t.mode = .ending ∧ t.core.t.hold = some .tsusp
        ∧ t.core.t.task.live = BitVec.ofNat 32 live ∧ t.core.t.task.waitv = (s.srcC a).val.low ∧ t.core.t.task.tln = v % 8
        ∧ s.core.t.sameRegs t.core.t ∧ s.sameMemory t)
    ∧ (s.core.t.stop = none → exec (.ckpt a) s = .next s)

/-- R141: what taking a trap saves and where it goes, for TRAP outside handler mode with a handler and no repeat: TRAPPC, TRAPCAUSE,
TRAPVAL, the trap frame, empty latches, handler mode at HANDLER, and the registers, the cycle count and memory as they were. -/
def Obligations.TrapEntry : Prop :=
  ∀ (s : State) (a : BitVec 6), (s.srcC a).psn = none → s.core.t.handler = false → s.handlerAddr ≠ 0 →
    (∀ f ∈ s.core.t.flights, f.fx.isUpdate = false ∧ ∀ d k, f.fx ≠ .tlRead d k) →
    ∃ t, exec (.trap a) s = .next t
      ∧ t.core.t.handler = true ∧ t.core.t.pc = s.handlerAddr
      ∧ t.core.t.trappc = s.core.t.savedPc.1 ∧ t.core.t.trapcause = 2 ∧ t.core.t.trapval = (s.srcC a).val.low.zext
      ∧ t.core.t.frame = { flights := s.core.t.flights, latches := s.core.t.latches, rep := s.core.t.savedPc.2 }
      ∧ t.core.t.flights = [] ∧ t.core.t.latches = {} ∧ t.core.t.rep = {}
      ∧ t.core.t.sregs = s.core.t.sregs ∧ t.core.t.aregs = s.core.t.aregs ∧ t.core.t.vregs = s.core.t.vregs
      ∧ t.core.t.kregs = s.core.t.kregs ∧ t.core.t.cycle = s.core.t.cycle ∧ s.sameMemory t ∧ t.launches = s.launches

/-- R141: a trap with no handler faults the launch, and a trap in handler mode faults it with DOUBLE; the launch ends FAULTED. -/
def Obligations.TrapWithoutHandler : Prop :=
  ∀ (s : State) (a : BitVec 6) (x : Launch), (s.srcC a).psn = none →
    SMap.find? s.launches s.core.t.lslot = some x → x.phase = .running → s.launches.Pairwise (fun p q => p.1 < q.1) →
    (s.core.t.handler = false → x.lrec.handler = 0 → x.cause = none →
      ∃ t y, exec (.trap a) s = .next t ∧ SMap.find? t.launches s.core.t.lslot = some y ∧ y.status = .faulted ∧ y.cause = some .trap
        ∧ y.phase = .draining)
    ∧ (s.core.t.handler = true → x.cause = none →
      ∃ t y, exec (.trap a) s = .next t ∧ SMap.find? t.launches s.core.t.lslot = some y ∧ y.status = .faulted ∧ y.cause = some .double
        ∧ y.phase = .draining)

/-- R142: ERET in handler mode waits for what handler mode has in flight; with nothing in flight the return restores the latches, the
repeat and the results of the trapped context, with n of a repeat that goes on read again from the REP word (R245), and the bundle at TRAPPC is
next. Outside handler mode ERET is ILLEGAL.
The hold is the model's way to wait (DESIGN CHOICE, log 16). -/
def Obligations.TrapReturn : Prop :=
  ∀ s : State,
    (s.core.t.handler = true → ∃ t, exec .eret s = .next t ∧ t.core.t.hold = some .eretDrain ∧ s.core.t.sameRegs t.core.t
      ∧ s.core.t.sameControl t.core.t ∧ s.sameMemory t)
    ∧ (s.core.t.handler = false → exec .eret s = s.trap 1 .illegal 0)
    ∧ (s.core.t.gang = false → s.core.t.hold = some .eretDrain → s.core.t.flights = [] →
      let t := s.core.t
      let u := s.tryLeave.core.t
      let v := (s.each Thread.settle).each Thread.leaveHandler
      ∀ n, (t.frame.rep.left = 0 ∧ n = t.frame.rep.n)
          ∨ (t.frame.rep.left ≠ 0 ∧ ∃ w, v.codeWord s.core.cid (t.trappc.toNat - 4) = .ok (w, v) ∧ n = w.toNat / 2 ^ 20 % 64 + 1) →
      u.handler = false ∧ u.pc = t.trappc ∧ u.latches = t.frame.latches ∧ u.flights = t.frame.flights
      ∧ u.rep = { t.frame.rep with n := n }
      ∧ u.hold = none ∧ u.sregs = t.sregs ∧ u.aregs = t.aregs ∧ u.cycle = t.cycle)

/-- R292, R293: WFE and SLEEP issue and clear EV when it is 1; while it is 0 they wait, no result moves and WAITCNT counts.
A wait counts each turn of the core (DEDUCED, log 15). SLEEP power gates the core from its first waited cycle; a core that another wake has started
again waits on ungated. -/
def Obligations.EventWaits : Prop :=
  ∀ s : State,
    (s.core.t.ev = true → ∃ t, exec .wfe s = .next t ∧ exec .sleep s = .next t ∧ t.core.t.ev = false ∧ t.core.t.hold = s.core.t.hold
      ∧ s.core.t.sameRegs t.core.t ∧ s.core.t.sameControl t.core.t ∧ s.sameMemory t)
    ∧ (s.core.t.ev = false → s.core.t.gang = false →
      (∃ t, exec .wfe s = .next t ∧ t.core.t.hold = some .wfe ∧ t.core.t.flights = s.core.t.flights ∧ t.core.gated = s.core.gated
        ∧ (s.core.t.waitcnt.toNat + 1 < 2 ^ 64 → t.core.t.waitcnt = s.core.t.waitcnt + 1))
      ∧ (∃ t, exec .sleep s = .next t ∧ t.core.t.hold = some .sleep ∧ t.core.t.flights = s.core.t.flights
        ∧ t.core.gated = (s.core.gated || !s.core.t.passed)))
/-! ### The V pipe -/

/-- R294, R300: an element operation acts on each element of a lane alone, at each of the three widths; a mask made lane by lane holds
the bit of each lane. -/
def Obligations.ElementsAlone : Prop :=
  (∀ (t : BitVec 2) (f : Nat → Nat → Nat) (x y : Word) (e : Nat), t ≠ 3 → e < 32 / tiWidth t →
    elemOf (tiWidth t) e (elemsI (tiWidth t) f x y) = f (elemOf (tiWidth t) e x) (elemOf (tiWidth t) e y) % 2 ^ tiWidth t)
  ∧ (∀ (f : Fin 128 → Bool) (l : Fin 128), (maskOf f).getLsbD l = f l)

/-- R300: the integer words of the V pipe on clean sources, lane by lane at +2, and VHASH at +3 (R307). -/
def Obligations.VectorInteger : Prop :=
  ∀ (s : State) (d : BitVec 6) (w : BitVec 1) (a b : BitVec 6) (z : BitVec 1) (t : BitVec 2),
    (s.srcV a).psn = none → (s.srcV b).psn = none →
    let n := tiWidth t
    let put := fun (lat : Nat) (f : Word → Word → Word) =>
      (.next (s.putV lat d w (lanesOf fun l => f (s.srcV a)[l].val (s.srcV b)[l].val)) : Out)
    let arith := fun (f : Int → Int → Int) => put 2 (elemsI n fun x y =>
      let v := f (sextInt x n) (sextInt y n)
      if z = 1 then clampTo n v else codeTo n v)
    exec (.viadd d w a b z t) s = arith (fun x y => x + y) ∧ exec (.visub d w a b z t) s = arith (fun x y => x - y)
    ∧ exec (.vimul d w a b z t) s = arith (fun x y => x * y)
    ∧ exec (.vimin d w a b t) s = put 2 (elemsI n fun x y => codeTo n (min (sextInt x n) (sextInt y n)))
    ∧ exec (.vimax d w a b t) s = put 2 (elemsI n fun x y => codeTo n (max (sextInt x n) (sextInt y n)))
    ∧ exec (.vand d w a b) s = put 2 (fun x y => x &&& y) ∧ exec (.vor d w a b) s = put 2 (fun x y => x ||| y)
    ∧ exec (.vxor d w a b) s = put 2 (fun x y => x ^^^ y)
    ∧ exec (.vshl d w a b t) s = put 2 (elemsI n fun x y => x * 2 ^ (y % n))
    ∧ exec (.vshr d w a b t) s = put 2 (elemsI n fun x y => x / 2 ^ (y % n))
    ∧ exec (.vsra d w a b t) s = put 2 (elemsI n fun x y => codeTo n (sextInt x n / 2 ^ (y % n)))
    ∧ exec (.vhash d w a b) s = put 3 hash32

/-- R298, R299: the sum and the product that rounding starts from are exact; ∞ − ∞ and 0 × ∞ are NV and a NaN; an exact zero sum is +0
but for (−0) + (−0). -/
def Obligations.FloatExact : Prop :=
  (∀ (n m : Bool) (a b : Nat) (e g : Int), ∃ k c f, fsum (.fin n a e) (.fin m b g) = (.fin k c f, 0)
    ∧ ratOf k c f = ratOf n a e + ratOf m b g ∧ (ratOf n a e + ratOf m b g = 0 → k = (n && m && a == 0 && b == 0)))
  ∧ (∀ (n m : Bool) (a b : Nat) (e g : Int), ∃ k c f, fprod (.fin n a e) (.fin m b g) = (.fin k c f, 0)
    ∧ ratOf k c f = ratOf n a e * ratOf m b g ∧ k = (n != m))
  ∧ fsum (.inf false) (.inf true) = (.nan false, Exc.nv) ∧ fsum (.inf true) (.inf false) = (.nan false, Exc.nv)
  ∧ (∀ (n m : Bool) (e : Int), fprod (.fin n 0 e) (.inf m) = (.nan false, Exc.nv) ∧ fprod (.inf m) (.fin n 0 e) = (.nan false, Exc.nv))

/-- R297 to R299: the float words on clean sources when no enabled exception is raised: the flags are set at the check stage and the
lanes, each rounded once, are written at +4. An exception whose enable is set traps with ARITH and sets no flag (R160).
The check stage is made in the issuing step (DESIGN CHOICE, log 4). -/
def Obligations.VectorFloat : Prop :=
  ∀ (s : State) (d : BitVec 6) (w : BitVec 1) (a b : BitVec 6) (t : BitVec 1),
    (s.srcV a).psn = none → (s.srcV b).psn = none → (s.srcV d).psn = none →
    (excOf (Vector.ofFn fun l : Fin 128 => elems2 t fsum (s.srcV a)[l].val (s.srcV b)[l].val) &&& fpxEn s.core.t.fpxAtCheck ≠ 0 →
      exec (.vadd d w a b t) s = s.trap 3 .arith 0)
    ∧ (fpxEn s.core.t.fpxAtCheck = 0 →
    let done := fun (lat : Nat) (r : Vector (Word × Exc) 128) => (.next ((s.fpSticky (excOf r)).putV lat d w (wordsOf r)) : Out)
    let two := fun (f : FVal → FVal → FRes) => done 4 (Vector.ofFn fun l : Fin 128 => elems2 t f (s.srcV a)[l].val (s.srcV b)[l].val)
    let one := fun (f : FVal → FVal) => done 4 (Vector.ofFn fun l : Fin 128 => elems2 t (fun v _ => (f v, 0)) (s.srcV a)[l].val 0)
    let three := fun (f : FVal → FVal → FVal → FRes) =>
      done 4 (Vector.ofFn fun l : Fin 128 => elems3 t f (s.srcV a)[l].val (s.srcV b)[l].val (s.srcV d)[l].val)
    exec (.vadd d w a b t) s = two fsum ∧ exec (.vsub d w a b t) s = two (fun x y => fsum x (fneg y))
    ∧ exec (.vmul d w a b t) s = two fprod ∧ exec (.vmin d w a b t) s = two fmin ∧ exec (.vmax d w a b t) s = two fmax
    ∧ exec (.vabs d w a t) s = one fabs ∧ exec (.vneg d w a t) s = one fneg'
    ∧ exec (.vfma d w a b t) s = three ffma ∧ exec (.vfms d w a b t) s = three (fun x y z => ffma x y (fneg z)))

/-- R304 to R306: conversions, dot products and special functions, with no enabled exception, at their latencies. -/
def Obligations.VectorConvertDotSpecial : Prop :=
  ∀ (s : State) (d : BitVec 6) (w : BitVec 1) (a b : BitVec 6) (r p : BitVec 3) (x f u : BitVec 1) (ty : BitVec 5),
    (s.srcV a).psn = none → (s.srcV b).psn = none → (s.srcV d).psn = none → fpxEn s.core.t.fpxAtCheck = 0 →
    let done := fun (lat : Nat) (r : Vector (Word × Exc) 128) => (.next ((s.fpSticky (excOf r)).putV lat d w (wordsOf r)) : Out)
    let fn := fun (g : FVal → FRes) => done 8 (Vector.ofFn fun l : Fin 128 => toF32 (g (decodeF32 (s.srcV a)[l].val)))
    exec (.vcvt d w a r x f ty) s
        = done 4 (Vector.ofFn fun l : Fin 128 => vcvtLane (rmOf r.toNat) (x == 1) (f == 1) ty.toNat (s.srcV a)[l].val (s.srcV d)[l].val)
    ∧ exec (.vdot4 d w a b u f p) s = done 5 (Vector.ofFn fun l : Fin 128 =>
        toF32 (dotSum (decodeF32 (s.srcV d)[l].val) (dotPairs4 (u == 1) (f == 1) p.toNat (s.srcV a)[l].val (s.srcV b)[l].val)))
    ∧ exec (.vdot2 d w a b) s = done 5 (Vector.ofFn fun l : Fin 128 =>
        toF32 (dotSum (decodeF32 (s.srcV d)[l].val) (dotPairs2 (s.srcV a)[l].val (s.srcV b)[l].val)))
    ∧ exec (.vexp2 d w a) s = fn fexp2 ∧ exec (.vlog2 d w a) s = fn flog2 ∧ exec (.vrcp d w a) s = fn frcp ∧ exec (.vrsq d w a) s = fn frsq

/-- R301 to R303: compares, selects and masks. -/
def Obligations.VectorCompareMask : Prop :=
  ∀ (s : State) (d : BitVec 6) (w : BitVec 1) (a b : BitVec 6) (t : BitVec 2) (k : BitVec 4) (m p q : BitVec 3),
    (s.srcV a).psn = none → (s.srcV b).psn = none → fpxEn s.core.t.fpxAtCheck = 0 →
    let kres := fun (x : BitVec 128) => (.next (s.later 2 (.kResult d (w == 1) x)) : Out)
    (t ≠ 0 → exec (.vcmpCc d w a b t k) s = kres (maskOf fun l => (vcmpLane t k (s.srcV a)[l].val (s.srcV b)[l].val).1))
    ∧ (t = 0 → ∃ e, exec (.vcmpCc d w a b t k) s = .next ((s.fpSticky e).later 2
        (.kResult d (w == 1) (maskOf fun l => (vcmpLane t k (s.srcV a)[l].val (s.srcV b)[l].val).1))))
    ∧ exec (.vsel d w a b m) s
        = .next (s.putV 2 d w (lanesOf fun l => if (s.core.t.getK m).getLsbD l then (s.srcV a)[l].val else (s.srcV b)[l].val))
    ∧ exec (.kand d w (p.zeroExtend 6) (q.zeroExtend 6)) s = kres (s.core.t.getK p &&& s.core.t.getK q)
    ∧ exec (.kor d w (p.zeroExtend 6) (q.zeroExtend 6)) s = kres (s.core.t.getK p ||| s.core.t.getK q)
    ∧ exec (.knot d w (p.zeroExtend 6)) s = kres (~~~(s.core.t.getK p))
    ∧ exec (.kcnt d w (p.zeroExtend 6)) s
        = .next (s.later 2 (.vsResult d (w == 1) ⟨BitVec.ofNat 32 ((List.range 128).countP fun i => (s.core.t.getK p).getLsbD i), none⟩))

/-- R308 to R311: lanes, sections and reductions. -/
def Obligations.VectorLanes : Prop :=
  ∀ (s : State) (d : BitVec 6) (w : BitVec 1) (a b : BitVec 6) (n : BitVec 3),
    (s.srcV a).psn = none → (s.srcV b).psn = none → (s.srcVS a).psn = none → (s.srcVS b).psn = none → fpxEn s.core.t.fpxAtCheck = 0 →
    let x := s.srcV a
    let red := fun (f : Word → Word → Word) => (.next (s.putV 6 d w (lanesOf fun l =>
      (tree16 f ((List.range 16).map fun j => x[laneAt (16 * (l.val / 16) + j)].val)).headD 0)) : Out)
    exec (.vbcast d w a) s = .next (s.putV 2 d w (lanesOf fun _ => (s.srcVS a).val))
    ∧ exec (.vlane d w a b) s = .next (s.later 2 (.vsResult d (w == 1) x[laneAt ((s.srcVS b).val.toNat % 128)]))
    ∧ exec (.vperm d w a b) s
        = .next (s.putV 3 d w (lanesOf fun l => x[laneAt (16 * (l.val / 16) + (s.srcV b)[l].val.toNat % 16)].val))
    ∧ exec (.xcopy d w a n) s
        = .next (s.putV 6 d w (lanesOf fun l => x[laneAt (16 * ((l.val / 16 + 8 - n.toNat) % 8) + l.val % 16)].val))
    ∧ exec (.vredAddI32 d w a) s = red (fun x y => x + y)
    ∧ exec (.vredMinI32 d w a) s = red (fun x y => if x.toInt ≤ y.toInt then x else y)
    ∧ exec (.vredMaxI32 d w a) s = red (fun x y => if x.toInt ≤ y.toInt then y else x)
    ∧ (∃ e, exec (.vredAddF32 d w a) s = .next ((s.fpSticky e).putV 6 d w (lanesOf fun l =>
        (tree16 (fun x y => (toF32 (fsum (decodeF32 x) (decodeF32 y))).1) ((List.range 16).map fun j => x[laneAt (16 * (l.val / 16) + j)].val)).headD 0)))
    ∧ (∃ e, exec (.vredMinF32 d w a) s = .next ((s.fpSticky e).putV 6 d w (lanesOf fun l =>
        (tree16 (fun x y => (toF32 (fmin (decodeF32 x) (decodeF32 y))).1) ((List.range 16).map fun j => x[laneAt (16 * (l.val / 16) + j)].val)).headD 0)))
    ∧ (∃ e, exec (.vredMaxF32 d w a) s = .next ((s.fpSticky e).putV 6 d w (lanesOf fun l =>
        (tree16 (fun x y => (toF32 (fmax (decodeF32 x) (decodeF32 y))).1) ((List.range 16).map fun j => x[laneAt (16 * (l.val / 16) + j)].val)).headD 0)))

/-- R312, R313: vector loads and stores in the own L1. A load writes its enabled lanes at +5 or +8; a VST writes the enabled lanes of its 512
bytes and no byte outside them; a VSCAT writes the words of its enabled lanes and no other, and of two lanes that name one address the higher
stands. An address that is misaligned or outside the window traps instead, with it in TRAPVAL: of the lanes the lowest enabled one that faults. -/
def Obligations.VectorMemory : Prop :=
  ∀ (s : State) (d : BitVec 6) (w : BitVec 1) (a i b : BitVec 6) (k : BitVec 3),
    let x := s.srcA (a.truncate 4)
    let e := x.val + BitVec.ofInt 64 (64 * i.toInt)
    let m := s.km k
    let at' := fun (l : Fin 128) => x.val + ((s.srcV b)[l].val.zeroExtend 64)
    let o := fun (l : Fin 128) => (ownOff (at' l)).getD 0
    let on := fun (l : Fin 128) => m.getLsbD l = true
    let outside := fun (t : State) => s.core.t.sameRegs t.core.t ∧ s.core.t.sameControl t.core.t ∧ t.mem = s.mem ∧ t.l2 = s.l2 ∧ t.l3 = s.l3
      ∧ t.parked = s.parked
    let stored := fun (t : State) (p : Nat) (v : Word) => ∀ j < 4, Mem.get t.core.l1.bytes (p + j) = BitVec.ofNat 8 (v.toNat / 2 ^ (8 * j))
    x.psn = none →
    (∀ off, e.toNat % 64 = 0 → ownOff e = some off → off + 512 ≤ 2 ^ 21 →
      exec (.vld d w a i k) s = .next (s.later 5 (.vResult d (w == 1) m (Vector.ofFn fun l : Fin 128 => s.core.l1.lane (off + 4 * l.val))))
      ∧ ((s.srcV d).psnIn m = none → ∃ t, exec (.vst d a i k) s = .next t
        ∧ (∀ l : Fin 128, on l → stored t (off + 4 * l.val) (s.srcV d)[l].val)
        ∧ (∀ p, (∀ l : Fin 128, on l → p < off + 4 * l.val ∨ off + 4 * l.val + 4 ≤ p) →
            Mem.get t.core.l1.bytes p = Mem.get s.core.l1.bytes p)
        ∧ outside t))
    ∧ (e.toNat % 64 ≠ 0 → exec (.vld d w a i k) s = s.trap 3 .align e ∧ ((s.srcV d).psnIn m = none → exec (.vst d a i k) s = s.trap 3 .align e))
    ∧ (e.toNat % 64 = 0 → (ownOff e).all (fun off => 2 ^ 21 < off + 512) = true → exec (.vld d w a i k) s = s.trap 3 .page e
        ∧ ((s.srcV d).psnIn m = none → exec (.vst d a i k) s = s.trap 3 .page e))
    ∧ ((s.srcV b).psnIn m = none →
      ((∀ l : Fin 128, on l → (at' l).toNat % 4 = 0 ∧ (ownOff (at' l)).isSome) →
        exec (.vgath d w a b k) s = .next (s.later 8 (.vResult d (w == 1) m (Vector.ofFn fun l : Fin 128 => s.core.l1.lane (o l))))
        ∧ ((s.srcV d).psnIn m = none → ∃ t, exec (.vscat d a b k) s = .next t
          ∧ (∀ l : Fin 128, on l → (∀ l' : Fin 128, l < l' → on l' → at' l' ≠ at' l) → stored t (o l) (s.srcV d)[l].val)
          ∧ (∀ p, (∀ l : Fin 128, on l → p < o l ∨ o l + 4 ≤ p) → Mem.get t.core.l1.bytes p = Mem.get s.core.l1.bytes p)
          ∧ outside t))
      ∧ (∀ l : Fin 128, on l → (∀ l' : Fin 128, l' < l → on l' → (at' l').toNat % 4 = 0 ∧ (ownOff (at' l')).isSome) →
        (at' l).toNat % 4 ≠ 0 ∨ ownOff (at' l) = none →
        let stop := s.trap 3 (if (at' l).toNat % 4 ≠ 0 then .align else .page) (at' l)
        exec (.vgath d w a b k) s = stop ∧ ((s.srcV d).psnIn m = none → exec (.vscat d a b k) s = stop)))

/-- R315 to R318: the compaction queues. The configuration empties the queue; each enabled lane, in ascending order, pushes its record at TAIL or, when
the queue is full, only sets QOVF, and pops the record at HEAD or zeros from an empty queue; VQCNT reads the count; VQBAL moves every record to its
slot, takes a number on tl5 and sets HEAD to 0, and waits while an issued tile move locks bytes of the storage (R198; that the core is frozen then is
DEDUCED, log 72). A queue that a VQBAL still rewrites, in its own cycles of handler mode or outside it, and registers past 47, are ILLEGAL. -/
def Obligations.CompactionQueues : Prop :=
  ∀ (s : State) (d a : BitVec 6) (w : BitVec 1) (q : BitVec 2) (k : BitVec 3),
    let c := s.queue q
    let qq : BitVec 6 := q.zeroExtend 6
    let x := ((s.srcV a)[(0 : Fin 128)]).val.toNat
    let others := fun (t : State) => s.core.t.sameRegs t.core.t ∧ (∀ r, r ≠ q → t.queue r = s.queue r) ∧ t.mem = s.mem ∧ t.l2 = s.l2 ∧ t.l3 = s.l3
    let fits := 64 * (x / 2 ^ 17) + 4 * (x / 2 ^ 15 % 4 + 1) * (x % 2 ^ 15) ≤ 2 ^ 21
    let stop := s.trap 1 .illegal 0
    (c.busy ≠ 0 ∨ c.hbusy ≠ 0 → exec (.vpushcCfg qq a) s = stop ∧ exec (.vpushc qq a k) s = stop ∧ exec (.vpopc d w qq k) s = stop ∧ exec (.vqcnt d w qq) s = stop
      ∧ exec (.vqbal qq) s = stop)
    ∧ (c.busy = 0 → c.hbusy = 0 →
      let lock := s.core.t.locked (c.slot 0, c.recBytes * c.cap.toNat)
      -- R315
      ((s.srcV a).psn = none →
        (x % 2 ^ 15 ≠ 0 → fits → ∃ t, exec (.vpushcCfg qq a) s = .next t ∧ (t.queue q).base.toNat = x / 2 ^ 17
          ∧ (t.queue q).recw.toNat = x / 2 ^ 15 % 4 ∧ (t.queue q).cap.toNat = x % 2 ^ 15 ∧ (t.queue q).count = 0 ∧ (t.queue q).head = 0
          ∧ (t.queue q).tail = 0 ∧ others t ∧ s.sameMemory t)
        ∧ (¬ (x % 2 ^ 15 ≠ 0 ∧ fits) → exec (.vpushcCfg qq a) s = s.trap 3 .page (BitVec.ofNat 64 x)))
      -- R316
      ∧ (47 < a.toNat + c.recw.toNat → exec (.vpushc qq a k) s = stop)
      ∧ (a.toNat + c.recw.toNat ≤ 47 → (∀ i ≤ c.recw.toNat, (s.srcV (a + BitVec.ofNat 6 i)).psnIn (s.km k) = none) →
        let record := fun (l : Fin 128) => (List.range (c.recw.toNat + 1)).flatMap (fun i => leBytes 4 (s.srcV (a + BitVec.ofNat 6 i))[l].val.toNat)
        exec (.vpushc qq a k) s = .next ((lanesIn (s.km k)).foldl (fun s' l => s'.pushLane q (record l)) s)
        ∧ (∃ t, exec (.vpushc qq a k) s = .next t ∧ others t
          ∧ (c.count.toNat + (lanesIn (s.km k)).length ≤ c.cap.toNat → (t.queue q).count.toNat = c.count.toNat + (lanesIn (s.km k)).length)))
      ∧ (∀ (u : State) (r : List Byte),
        let cu := u.queue q
        let v := u.pushLane q r
        (cu.count.toNat = cu.cap.toNat → v = u.statSticky statQovf)
        ∧ (cu.count.toNat ≠ cu.cap.toNat → Mem.read v.core.l1.bytes (cu.slot cu.tail.toNat) r.length = r
          ∧ (∀ p, p < cu.slot cu.tail.toNat ∨ cu.slot cu.tail.toNat + r.length ≤ p → Mem.get v.core.l1.bytes p = Mem.get u.core.l1.bytes p)
          ∧ v.queue q = { cu with tail := BitVec.ofNat 32 ((cu.tail.toNat + 1) % cu.cap.toNat), count := cu.count + 1 }))
      -- R317
      ∧ (w = 0 → 47 < d.toNat + c.recw.toNat → exec (.vpopc d w qq k) s = stop)
      ∧ (w = 1 ∨ d.toNat + c.recw.toNat ≤ 47 →
        let r := s.core.l1.popLanes (s.km k) c
        let u := s.setQueue q r.2
        exec (.vpopc d w qq k) s = .next ((List.range (c.recw.toNat + 1)).foldl (fun s' i => s'.later 4 (.vResult (d + BitVec.ofNat 6 i) (w == 1)
          (s.km k) (Vector.ofFn fun l : Fin 128 => (SMap.getD r.1 l.val []).getD i {}))) u)
        ∧ (∃ t, exec (.vpopc d w qq k) s = .next t ∧ others t ∧ s.sameMemory t
          ∧ (t.queue q).count.toNat = c.count.toNat - (lanesIn (s.km k)).length)
        ∧ (∀ l : Fin 128, lanesIn (s.km k) = [l] → c.count = 0 → r = ([(l.val, List.replicate (c.recw.toNat + 1) {})], c))
        ∧ (∀ l : Fin 128, lanesIn (s.km k) = [l] → c.count ≠ 0 →
          r = ([(l.val, (List.range (c.recw.toNat + 1)).map fun i => s.core.l1.lane (c.slot c.head.toNat + 4 * i))],
            { c with head := BitVec.ofNat 32 ((c.head.toNat + 1) % c.cap.toNat), count := c.count - 1 })))
      ∧ exec (.vqcnt d w qq) s = .next (s.later 2 (.vsResult d (w == 1) { val := c.count.zeroExtend 32 }))
      -- R318
      ∧ (lock = true → exec (.vqbal qq) s = s.stallOn .lock)
      ∧ (lock = false → ∃ t, exec (.vqbal qq) s = .next t ∧ others t ∧ (t.queue q).head = 0 ∧ (t.queue q).count = c.count
        ∧ (t.queue q).busy = (if s.core.t.handler = true then 0 else 24) ∧ (t.queue q).hbusy = (if s.core.t.handler = true then 24 else 0)
        ∧ (t.queue q).tail = BitVec.ofNat 32 (c.count.toNat % c.cap.toNat)
        ∧ (∀ i < c.count.toNat, ∀ j < c.recBytes, Mem.get t.core.l1.bytes (c.slot (balanceSlot c.count.toNat i) + j)
            = Mem.get s.core.l1.bytes (c.slot ((c.head.toNat + i) % c.cap.toNat) + j))
        ∧ (∀ p, p < c.slot 0 ∨ c.slot 0 + c.recBytes * c.count.toNat ≤ p → Mem.get t.core.l1.bytes p = Mem.get s.core.l1.bytes p)
        ∧ t.core.t.tl[5].issued = s.core.t.tl[5].issued + 1 ∧ t.core.t.tl[5].val = s.core.t.tl[5].val))

/-! ### The stream array -/

/-- R320 to R323, R337: the configuration words, at +1, what their registers and tables then hold, and SEBND at +2. SL takes 4 to 16
only, PROF 0 to 12 only (R320, R321). -/
def Obligations.StreamConfiguration : Prop :=
  (∀ (s : State) (m : BitVec 5) (x : BitVec 1) (r w : BitVec 5) (p : BitVec 8) (n : BitVec 3) (v : BitVec 6), (s.srcS r).psn = none →
    let y := (s.srcS r).val.toNat
    exec (.slen m) s = .next (s.later 1 (.csr 16 .write (BitVec.ofNat 64 m.toNat)))
    ∧ exec (.sseed x r) s = .next (s.later 1 (.csr (if x = 1 then 18 else 17) .write (BitVec.ofNat 64 (y % 2 ^ 16))))
    ∧ exec (.sprof p) s = .next (s.later 1 (.csr 19 .write (BitVec.ofNat 64 p.toNat)))
    ∧ exec (.smode r) s = .next (s.later 1 (.csr 20 .write (BitVec.ofNat 64 (y % 2 ^ 16))))
    ∧ exec (.ntset n w r) s = .next (s.later 1 (.ntSet n.toNat w.toNat (s.srcS r).val))
    ∧ exec (.ntclr n) s = .next (s.later 1 (.ntClear n.toNat))
    ∧ ((∀ f ∈ s.core.t.flights, ∀ z, f.fx ≠ .ebnd z) → exec (.sebnd v) s = .next (s.later 2 (.sResult v
        (lanesOf fun l => if l.val = 0 then s.core.t.ebnd.low else if l.val = 1 then s.core.t.ebnd.high else 0)))))
  ∧ (∀ (t : Thread) (v : DWord) (nt w : Nat) (x : Word) (n k : Fin 8) (i : Fin 32),
    (t.csrWrite 16 .write v).sl = (if 4 ≤ v.toNat % 32 ∧ v.toNat % 32 ≤ 16 then t.sl / 32 * 32 + v % 32 else t.sl)
    ∧ (t.csrWrite 19 .write v).prof = (if v.toNat % 256 ≤ 12 then t.prof / 256 * 256 + v % 256 else t.prof)
    ∧ (t.csrWrite 17 .write v).seeda.toNat % 2 ^ 16 = v.toNat % 2 ^ 16 ∧ (t.csrWrite 18 .write v).seedb.toNat % 2 ^ 16 = v.toNat % 2 ^ 16
    ∧ (nt = n.val → w = i.val → ((t.apply (.ntSet nt w x)).ntShadow[n])[i] = x)
    ∧ (nt < 8 → (k.val ≠ nt ∨ i.val ≠ w) → ((t.apply (.ntSet nt w x)).ntShadow[k])[i] = (t.ntShadow[k])[i])
    ∧ (nt = n.val → ((t.apply (.ntClear nt)).ntShadow[n])[i] = 0)
    ∧ (t.apply (.ntSet nt w x)).ntActive = t.ntActive ∧ (t.apply (.ntClear nt)).ntActive = t.ntActive)

/-- R326, R327, R329, R330, R333, R337: a word of the array that passes its checks queues one operation with the next number of tl2 (two
for a prefix nest); SGO makes its table active and puts EBND at +1, SSTOP sets the stop of the oldest open prefix nest. No register, latch
or memory changes. A seventeenth number outstanding is ILLEGAL.
Nests run in steps of their own (DESIGN CHOICE, log 28). -/
def Obligations.ArrayQueueing : Prop :=
  ∀ (s : State) (a : BitVec 4) (r : BitVec 5) (w : BitVec 2) (n : BitVec 3) (p : BitVec 8) (j : BitVec 5),
    let t := s.core.t
    let num := t.tl[2].issued + 1
    let y := (s.srcS r).val.toNat
    let queued := fun (u : State) (numbers : Nat) (op : ArrayOp) => u.core.t.arr.queue = t.arr.queue ++ [op]
      ∧ u.core.t.tl[2].issued = t.tl[2].issued + numbers ∧ u.core.t.tl[2].val = t.tl[2].val
      ∧ .arrayOpStart s.core.cid ∈ u.agenda ∧ t.sameRegs u.core.t ∧ s.sameMemory u
    (t.arrayFull 1 = false → (s.srcA a).psn = none → (s.srcS r).psn = none →
      (∀ off, (s.srcA a).val.toNat % 64 = 0 → ownOff (s.srcA a).val = some off → off + 64 * (y / 2 ^ 13 % 2 ^ 13) ≤ 2 ^ 21 →
        y % 2 ^ 13 + y / 2 ^ 13 % 2 ^ 13 ≤ 8192 →
        ∃ u, exec (.wbld a r) s = .next u ∧ queued u 1 (.wbld t.moveSeq num off (y / 2 ^ 13 % 2 ^ 13) (y % 2 ^ 13)))
      ∧ (y / 2 ^ 14 % 8 ≠ 0 → y % 2 ^ 13 + (if y / 2 ^ 13 % 2 = 1 then 52 else 68) ≤ 8192 →
        ∃ u, exec (.wlatch w r) s = .next u ∧ queued u 1
          (.wlatch num w.toNat (y.testBit 18) (y.testBit 17) (y / 2 ^ 14 % 8) (y / 2 ^ 13 % 2 == 1) (y % 2 ^ 13)))
      ∧ (∃ u, exec .sclr s = .next u ∧ queued u 1 (.sclr num) ∧ u.core.t.arr.queued = []))
    ∧ (let tab : NestTab := t.ntShadow[n.toNat]
       let cfg := t.nestCfg p.toNat
       let numbers := if tab.pfx = 0 then 1 else 2
       t.tableBusy n.toNat = false → t.arrayFull numbers = false → tab.malformed cfg.m cfg.sr = none →
       (∀ r ∈ tab.rowsReached, SMap.getD t.arr.queued r 0 + (tab.kb + 1) * tab.total ≤ 2 ^ 20) →
       ∃ u, exec (.sgo n p) s = .next u ∧ queued u numbers (.sgo t.moveSeq num n.toNat cfg none)
        ∧ u.core.t.activeTab n.toNat = tab ∧ (∀ k : Fin 8, k.val ≠ n.toNat → u.core.t.ntActive[k] = t.ntActive[k])
        ∧ u.core.t.flights = t.flights ++ [⟨1, .ebnd (ebndOf tab.products cfg.m cfg.m cfg.xnor)⟩])
    ∧ (∀ at' num cfg, t.arr.queue = [.sgo at' num n.toNat cfg none] → (t.activeTab n.toNat).pfx ≠ 0 →
        (t.activeTab n.toNat).pfx ≤ j.toNat → j.toNat ≤ cfg.m →
        ∃ u, exec (.sstop n j) s = .next u ∧ u.core.t.arr.queue = [.sgo at' num n.toNat cfg (some j.toNat)]
          ∧ u.core.t.flights = t.flights ++ [⟨2, .ebnd (ebndOf (t.activeTab n.toNat).products cfg.m j.toNat cfg.xnor)⟩]
          ∧ t.sameRegs u.core.t ∧ s.sameMemory u ∧ u.core.t.tl = t.tl)
    ∧ (t.arrayFull 1 = true → exec (.wbld a r) s = s.trap 1 .illegal 33 ∧ exec (.wlatch w r) s = s.trap 1 .illegal 33
        ∧ exec .sclr s = s.trap 1 .illegal 33)

/-- R334 to R336 with no enabled exception: what SPART, SCONF and SREAD deliver. Lane l of SPART is the prefix sum of column l mod 64 as
binary32; a binary32 SREAD delivers the sums and 0 where no pair has been added; SCONF names the first column with the largest prefix sum
among those that it compares. -/
def Obligations.ArrayReads : Prop :=
  ∀ (s : State) (v : BitVec 6) (r : BitVec 5) (p : BitVec 8), (s.srcS r).psn = none → fpxEn s.core.t.fpxAtCheck = 0 →
    let arr := s.core.t.arr
    let y := (s.srcS r).val.toNat
    let prefix32 := fun (x : Acc) => BitVec.ofNat 32 (satCode 0 .rne (x.dyadic x.p arr.prefixShift) 0).1
    (∃ e L, exec (.spart v r) s = .next ((s.fpSticky e).later 8 (.sResult v L))
      ∧ ∀ l : Fin 128, L[l].val = prefix32 (arr.at ((y % 64 + l.val / 64) % 64) (l.val % 64))
        ∧ L[l].psn = (arr.at ((y % 64 + l.val / 64) % 64) (l.val % 64)).psn)
    ∧ (y / 2 ^ 12 % 8 ≠ 0 → y / 2 ^ 12 % 8 ≠ 7 → ∃ L, exec (.sconf v r) s = .next (s.later 4 (.sResult v L))
      ∧ (let cols := (List.range (2 ^ (y / 2 ^ 12 % 8))).map (fun i => (y / 64 % 64 + i) % 64)
         let value := fun (c : Nat) => (arr.at (y % 64) c).dyadic (arr.at (y % 64) c).p arr.prefixShift
         let best := (L[(0 : Fin 128)]).val.toNat
         best ∈ cols ∧ ∀ c ∈ cols, Dy.lt (value best) (value c) = false ∧ (Dy.lt (value c) (value best) = false → best ≤ c)))
    ∧ (s.core.t.readOut p (y % 64) = ⟨0, 0, (s.core.t.readOut p (y % 64)).prof⟩ →
      ∃ e L, exec (.sread p v r) s = .next ((s.fpSticky e).later 8 (.sResult v L))
        ∧ ∀ l : Fin 128, let x := arr.at ((y % 64 + l.val / 64) % 64) (l.val % 64)
          L[l].val = BitVec.ofNat 32 (satCode 0 .rne (if x.npair = 0 then ⟨0, 0⟩ else x.dyadic x.q 0) 0).1)
    ∧ ((s.core.t.readOut p (y % 64)).rm ≠ 4 → ∃ e L, exec (.sread p v r) s = .next ((s.fpSticky e).later 8 (.sResult v L))
        ∧ ∀ l : Fin 128, L[l].val = (arr.readLane (s.core.t.readOut p (y % 64)) (y % 64) 0 l.val).1)
    ∧ ((s.core.t.readOut p (y % 64)).rm = 4 → (s.srcV v).psn = none →
        ∃ e L, exec (.sread p v r) s = .next ((s.fpSticky e).later 8 (.sResult v L))
        ∧ ∀ l : Fin 128, L[l].val = (arr.readLane (s.core.t.readOut p (y % 64)) (y % 64) (s.srcV v)[l].val.toNat l.val).1)

/-! ### Loads, stores, atomics -/

/-- R344, R345: LD from the own L1 at +4: the bytes in little-endian order, into an s register sign-extended, into an a register
zero-extended, and the latch queue; ST to the own L1 stores exactly the bytes of its width and changes nothing else. Elsewhere LD traps: PROT for
a pad outside the launch (R344, R171), else PAGE. A store of an element past a TRAP bound of its object traps with BOUND (R150).
The access is performed in the issuing step (DESIGN CHOICE, log 2), and an object's bound is looked for as log 58 says (DESIGN CHOICE). -/
def Obligations.LocalLoadStore : Prop :=
  ∀ (s : State) (z : BitVec 2) (d : BitVec 6) (b : BitVec 4) (x : BitVec 1) (i : BitVec 11),
    let e := s.ea b x i
    let n := 2 ^ z.toNat
    (∀ o ∈ e.2, o = none) →
    (∀ off, ownOff e.1 = some off → off + n ≤ 2 ^ 21 →
      (let raw := leNat (Mem.read s.core.l1.bytes off n)
       ∃ v q, exec (.ld z d b x i) s = .next (s.later 4 (.mResult d v q))
        ∧ (d < 32 → v.val = BitVec.ofInt 64 (sextInt raw (8 * n))) ∧ (32 ≤ d → v.val = BitVec.ofNat 64 raw)
        ∧ q = (if 32 ≤ d ∧ n < 4 then BitVec.ofNat 64 raw else BitVec.ofInt 64 (sextInt raw (8 * n)))
        ∧ ((∀ p ∈ s.core.l1.psn, p.1 < off / 8 ∨ (off + n - 1) / 8 < p.1) → v.psn = none))
      ∧ ((s.srcM d).psn = none → s.boundElems e.1.toNat n = [] →
        ∃ t, exec (.st z d b x i) s = .next t
          ∧ (∀ k < n, Mem.get t.core.l1.bytes (off + k) = BitVec.ofNat 8 ((s.srcM d).val.toNat / 2 ^ (8 * k)))
          ∧ (∀ p, p < off ∨ off + n ≤ p → Mem.get t.core.l1.bytes p = Mem.get s.core.l1.bytes p)
          ∧ s.core.t.sameRegs t.core.t ∧ s.core.t.sameControl t.core.t ∧ t.core.t.flights = s.core.t.flights
          ∧ t.mem = s.mem ∧ t.l2 = s.l2 ∧ t.l3 = s.l3 ∧ t.parked = s.parked ∧ t.launches = s.launches))
    ∧ (ownOff e.1 = none → exec (.ld z d b x i) s
        = s.trap 3 (if targetOf' s.core.cid e.1.toNat n = .pad ∧ s.padDenied e.1.toNat = true then .prot else .page) e.1)
    ∧ (∀ es el s1, targetOf' s.core.cid e.1.toNat n = .own ∨ targetOf' s.core.cid e.1.toNat n = .dev → (s.srcM d).psn = none →
      State.storedElems e.1.toNat (leBytes n (s.srcM d).val.toNat) (s.boundElems e.1.toNat n) s = .ok (es, s1) →
      es.find? (fun y => y.obj.bact == 3 && y.obj.violates y.code) = some el → exec (.st z d b x i) s = s1.trap 3 .bound (BitVec.ofNat 64 el.addr))
    ∧ (targetOf' s.core.cid e.1.toNat n = .none → (s.srcM d).psn = none → exec (.st z d b x i) s = s.trap 3 .page e.1
        ∧ exec (.str z d b x i) s = s.trap 3 .page e.1)

/-- R34, R190, R344, R345: ST to device memory and STR to a pad of the launch, at the place that the translation of the address gives: the
bytes of the width are stored there, and no other byte changes; the rest of a sector of another owner that is read without a key (R32) is
stored as it is read. A store to a status window has no effect.
A store that an earlier access, or a hop under repair (R26), holds back leaves later, with the places of its check stage (R175, R194).
A store is performed in the issuing step where nothing holds it back (DESIGN CHOICE, log 2), encryption is kept as the owner of a sector (DESIGN
CHOICE, log 6), and an object's bound is looked for as log 58 says (DESIGN CHOICE). -/
def Obligations.DistantStores : Prop :=
  ∀ (s : State) (z : BitVec 2) (d : BitVec 6) (b : BitVec 4) (x : BitVec 1) (i : BitVec 11),
    let e := s.ea b x i
    let n := 2 ^ z.toNat
    let bs := clean (leBytes n (s.srcM d).val.toNat)
    (∀ o ∈ e.2, o = none) → (s.srcM d).psn = none → e.1.toNat % 64 + n ≤ 64 →
    (∀ pa key kind s1 s2, targetOf' s.core.cid e.1.toNat n = .dev → s.boundElems e.1.toNat n = [] →
      s.resolve s.me .w e.1.toNat = .ok (.dev pa key kind, s1) → s1.goesNow false [(.dev pa key kind, e.1.toNat, n)] = true →
      s1.sectorWrite key pa bs e.1 = .ok ((), s2) →
      ∃ t, exec (.st z d b x i) s = .next t ∧ t.mem = s2.mem
        ∧ (pa % 64 + n ≤ 64 → (∀ k < n, Mem.get t.mem (pa + k) = BitVec.ofNat 8 ((s.srcM d).val.toNat / 2 ^ (8 * k)))
          ∧ (∀ a, a < pa ∨ pa + n ≤ a → a / 64 ≠ pa / 64 ∨ SMap.find? s1.enc (pa / 64) = key → Mem.get t.mem a = Mem.get s1.mem a))
        ∧ s1.core.t.sameRegs t.core.t ∧ s1.core.t.sameControl t.core.t ∧ t.core.l1 = s1.core.l1 ∧ t.l2 = s1.l2 ∧ t.l3 = s1.l3)
    ∧ (∀ cl off s1, targetOf' s.core.cid e.1.toNat n = .pad → s.padDenied e.1.toNat = false →
      s.resolve s.me .w e.1.toNat = .ok (.l2 cl off, s1) → s1.goesNow false [(.l2 cl off, e.1.toNat, n)] = true → off + n ≤ 0x7FFC00 →
      ∃ t, exec (.str z d b x i) s = .next t
        ∧ (∀ k < n, Mem.get (t.l2At cl).bytes (off + k) = BitVec.ofNat 8 ((s.srcM d).val.toNat / 2 ^ (8 * k)))
        ∧ (∀ p, p < off ∨ off + n ≤ p → Mem.get (t.l2At cl).bytes p = Mem.get (s1.l2At cl).bytes p)
        ∧ (∀ c, c ≠ cl → t.l2At c = s.l2At c) ∧ s.core.t.sameRegs t.core.t ∧ s.core.t.sameControl t.core.t ∧ t.mem = s.mem ∧ t.l3 = s.l3
        ∧ t.core.l1 = s.core.l1)
    ∧ (∀ places s1, State.resolveAll s.me .w (pieces n e.1.toNat n) s = .ok (places, s1) → s1.goesNow false places = false →
      let held := (s1.leave false (.store places bs)).storeMark e.1 n
      (targetOf' s.core.cid e.1.toNat n = .dev → s.boundElems e.1.toNat n = [] → exec (.st z d b x i) s = .next held)
      ∧ (targetOf' s.core.cid e.1.toNat n = .pad → s.padDenied e.1.toNat = false → exec (.str z d b x i) s = .next held))
    ∧ (targetOf' s.core.cid e.1.toNat n = .stat → exec (.st z d b x i) s = .next s ∧ exec (.str z d b x i) s = .next s)

/-- R166, R194, R346, R347: with a landing slot free LDL and LD.ACQ take a slot, with the data that is read where nothing holds the access back;
ST.REL to device memory stores as ST; an access that an earlier one holds back leaves later, with the places of its check stage. A FENCE has no
result and holds no bundle: no later access passes it, and it leaves once no engine operation issued before it is under way and, at scope .SYS
or .ALL, no remote operation and no peer store. Where a slot is not free, LDL is ILLEGAL; LD.ACQ needs natural alignment.
The data is read at issue where nothing holds the access back (DESIGN CHOICE, logs 2 and 23); the fence orders every space (DESIGN CHOICE, log 3). -/
def Obligations.LandingAndOrder : Prop :=
  ∀ (s : State) (e : BitVec 3) (z : BitVec 2) (d : BitVec 5) (b : BitVec 3) (o : BitVec 4) (l : BitVec 10),
    let a := s.srcA (b.zeroExtend 4)
    let n := 2 ^ z.toNat
    let ea := a.val + BitVec.ofNat 64 (n * o.toNat)
    a.psn = none →
    (∀ places bs s1 s2, s.core.t.landings < 32 → targetOf' s.core.cid ea.toNat n ≠ .none →
      State.resolveAll s.me .rd (pieces n ea.toNat n) s = .ok (places, s1) →
      (targetOf' s.core.cid ea.toNat n = .own ∨ s1.goesNow false places = true) → State.readAll places s1 = .ok (bs, s2) →
      exec (.ldl z d b o l) s = .next (s2.land d l.toNat (some (loaded n bs)) (targetOf' s.core.cid ea.toNat n == .own)))
    ∧ (∀ places s1, s.core.t.landings < 32 → targetOf' s.core.cid ea.toNat n ≠ .none → targetOf' s.core.cid ea.toNat n ≠ .own →
      State.resolveAll s.me .rd (pieces n ea.toNat n) s = .ok (places, s1) → s1.goesNow false places = false →
      exec (.ldl z d b o l) s = .next ((s1.land d l.toNat none false).leave false (.load s1.core.t.landId n places)))
    ∧ (32 ≤ s.core.t.landings → exec (.ldl z d b o l) s = s.trap 1 .illegal 0)
    ∧ (∀ places bs s1 s2, s.core.t.landings < 32 → a.val.toNat % n = 0 → ownOff a.val = none → targetOf' s.core.cid a.val.toNat n ≠ .none →
      targetOf' s.core.cid a.val.toNat n ≠ .own → State.resolveAll s.me .rd (pieces n a.val.toNat n) s = .ok (places, s1) →
      s1.goesNow false places = true → State.readAll places s1 = .ok (bs, s2) →
      exec (.ldAcq e z d b l) s = .next (s2.land d l.toNat (some (loaded n bs)) false))
    ∧ (s.core.t.landings < 32 → a.val.toNat % n ≠ 0 → exec (.ldAcq e z d b l) s = s.trap 3 .align a.val)
    ∧ ((s.srcS d).psn = none → a.val.toNat % n = 0 → targetOf' s.core.cid a.val.toNat n = .dev →
      let bs := clean (leBytes n (s.srcS d).val.sext.toNat)
      ∀ places s1, State.resolveAll s.me .w (pieces n a.val.toNat n) s = .ok (places, s1) →
      (∀ s2, s1.goesNow (e == 4) places = true → State.writeAll s1.me places bs s1 = .ok ((), s2) →
        exec (.stRel e z d b) s = .next (s2.storeMark a.val n))
      ∧ (s1.goesNow (e == 4) places = false →
        exec (.stRel e z d b) s = .next ((s1.leave (e == 4) (.store places bs)).storeMark a.val n)))
    ∧ (∃ t, exec (.fence e) s = .next t ∧ t.core.t.mayLeave false = false
      ∧ t.core.t.egress = s.core.t.egress ++ [⟨s.core.t.moveSeq, decide (4 ≤ e.toNat), .fence, s.core.t.pc⟩]
      ∧ s.core.t.sameRegs t.core.t ∧ s.core.t.sameControl t.core.t ∧ s.sameMemory t ∧ t.core.t.flights = s.core.t.flights)
    ∧ (∀ f : Egress, f.op = .fence → (s.mayGo f [] = true
        ↔ s.fenceHeld f.seq = false ∧ (f.sys = true → s.core.t.rputs = 0 ∧ s.core.t.peerStores f.seq = false)))

/-- R197, R348: an unordered AMO in the own L1 delivers the old value and leaves the value of its operation; a failed CAS writes nothing; an
AMO elsewhere takes a landing slot, with the old value where nothing holds it back (R26, R194). A misaligned address traps with ALIGN, an ordered AMO in the own L1 with PAGE.
The access is performed in the issuing step (DESIGN CHOICE, logs 2 and 23). -/
def Obligations.Atomics : Prop :=
  ∀ (s : State) (e o : BitVec 3) (r : BitVec 2) (d : BitVec 5) (b : BitVec 3) (l : BitVec 10),
    let a := s.srcA (b.zeroExtend 4)
    let x := (s.srcS d).val
    let y := (s.srcS (d + 1)).val
    s.core.t.landings < 32 → a.psn = none → (s.srcS d).psn = none → (s.srcS (d + 1)).psn = none →
    (a.val.toNat % 4 ≠ 0 → exec (.amoOp e o r d b l) s = s.trap 3 .align a.val)
    ∧ (a.val.toNat % 4 = 0 → (ownOff a.val).isSome = true → r ≠ 0 → exec (.amoOp e o r d b l) s = s.trap 3 .page a.val)
    ∧ (∀ off, a.val.toNat % 4 = 0 → ownOff a.val = some off → r = 0 → SMap.find? s.core.l1.psn (off / 8) = none →
      let old : Word := BitVec.ofNat 32 (leNat (Mem.read s.core.l1.bytes off 4))
      let new : Word := match o.toNat with
        | 0 => old + x
        | 1 => if old.toInt ≤ x.toInt then old else x
        | 2 => if x.toInt ≤ old.toInt then old else x
        | 3 => old &&& x | 4 => old ||| x | 5 => old ^^^ x | 6 => x
        | _ => if old = x then y else old
      ∃ t, exec (.amoOp e o r d b l) s = .next t
        ∧ t.core.t.flights = s.core.t.flights ++ [⟨l.toNat, .land s.core.t.landId d (some ⟨old.sext, none⟩) (some 4)⟩]
        ∧ leNat (Mem.read t.core.l1.bytes off 4) = new.toNat
        ∧ (∀ p, p < off ∨ off + 4 ≤ p → Mem.get t.core.l1.bytes p = Mem.get s.core.l1.bytes p)
        ∧ s.core.t.sameRegs t.core.t ∧ s.core.t.sameControl t.core.t ∧ t.mem = s.mem ∧ t.l2 = s.l2 ∧ t.l3 = s.l3)
    ∧ (a.val.toNat % 4 = 0 → (targetOf s.core.cid a.val.toNat = .dev ∨ targetOf s.core.cid a.val.toNat = .pad ∧ s.padDenied a.val.toNat = false) →
      let sys := e == 4 && r.getLsbD 1
      ∀ loc s1, s.amoPlace a.val = .ok (loc, s1) →
      (∀ old s2, s1.goesNow sys [(loc, a.val.toNat, 4)] = true → s1.amoDo s1.me o loc a.val x y = .ok (old, s2) →
        exec (.amoOp e o r d b l) s = .next (s2.noRerun.land d l.toNat (some old) false))
      ∧ (s1.goesNow sys [(loc, a.val.toNat, 4)] = false →
        exec (.amoOp e o r d b l) s
          = .next ((s1.noRerun.land d l.toNat none false).leave sys (.amo s1.core.t.landId o loc a.val x y))))

/-! ### Tiles, timelines, barriers, rings -/

/-- R349, R363: TMOV, TMOVQ and TFILL of a fitting tile, OBJLD of an index of the table and OBJPUB in handler mode queue one operation with
the next number of the queue's timeline. OBJPUB outside handler mode is ILLEGAL. -/
def Obligations.TileWords : Prop :=
  ∀ (s : State) (q r : BitVec 1) (slot : BitVec 6) (b : BitVec 4) (z : BitVec 5) (o : Obj) (off : Nat),
    let v := (s.srcS z).val
    let ty := v.toNat / 2 ^ 16 % 2 ^ 14
    let tx := v.toNat % 2 ^ 14
    let base := (s.srcA b).val
    let k : Fin 8 := if q = 0 then 0 else 1
    let queued := fun (u : State) (q : Nat) (k : Fin 8) (f : Nat → Nat → TileOp) =>
      u.core.t.tq q = s.core.t.tq q ++ [f s.core.t.moveSeq ((s.core.t.tl[k]).issued + 1)]
      ∧ (u.core.t.tl[k]).issued = (s.core.t.tl[k]).issued + 1 ∧ (u.core.t.tl[k]).val = (s.core.t.tl[k]).val
      ∧ s.core.t.sameRegs u.core.t ∧ s.sameMemory u
    (s.srcA b).psn = none → (s.srcS z).psn = none →
    (SMap.find? s.core.t.objs slot.toNat = some o → base.toNat % 64 = 0 → ownOff base = some off → s.core.t.queueFull q = false →
      (off + o.tileBytes ≤ 2 ^ 21 → ∃ u, exec (.tfill q slot b z) s = .next u
        ∧ queued u q.toNat k (fun seq num => .tfill seq num slot.toNat off v.sext s.core.t.pc))
      ∧ (o.hasTile ty tx = true → (o.peer = true → s.peerRefuses o ty tx = false) →
        (off + o.moveArea false ≤ 2 ^ 21 → o.forbids false (r == 1) = false → ∃ u, exec (.tmov q r slot b z) s = .next u
          ∧ queued u q.toNat k (fun seq num => .tmov seq num (r == 1) false slot.toNat off ty tx s.core.t.pc))
        ∧ (off + o.moveArea true ≤ 2 ^ 21 → o.forbids true (r == 1) = false → ∃ u, exec (.tmovq q r slot b z) s = .next u
          ∧ queued u q.toNat k (fun seq num => .tmov seq num (r == 1) true slot.toNat off ty tx s.core.t.pc))))
    ∧ (SMap.find? s.core.t.objs slot.toNat = none → exec (.tmov q r slot b z) s = s.trap 3 .prot (BitVec.ofNat 64 slot.toNat))
    ∧ (v.toNat % 2 ^ 16 < s.lrec.objCount → ∃ u, exec (.objld slot z) s = .next u
        ∧ queued u 0 0 (fun seq num => .objld seq num slot.toNat (v.toNat % 2 ^ 16) s.core.t.pc))
    ∧ (s.core.t.handler = true → ∃ u, exec .objpub s = .next u ∧ queued u 0 0 (fun seq num => .objpub seq num))
    ∧ (s.core.t.handler = false → exec .objpub s = s.trap 1 .illegal 0)

/-- R185, R353: WAITTL goes on once the timeline has reached its value, waits before that, and is ILLEGAL for an engine timeline that no
operation issued will bring there; TLGET reads and TLBUMP raises a timeline at the check stage, two cycles after issue; a raise that an earlier access holds back follows it
(R194). -/
def Obligations.Timelines : Prop :=
  ∀ (s : State) (t : BitVec 3) (a d : BitVec 6), (s.srcM a).psn = none →
    let x := (s.srcM a).val.toNat
    let line := s.core.t.tl[tlIx t]
    (x ≤ line.val → (t.toNat ≤ 5 → x ≤ line.issued) → exec (.waittl t a) s = .next s)
    ∧ (line.val < x → (t.toNat ≤ 5 → x ≤ line.issued) → exec (.waittl t a) s = s.wait .waittl)
    ∧ (t.toNat ≤ 5 → line.issued < x → exec (.waittl t a) s = s.trap 1 .illegal (s.srcM a).val)
    ∧ exec (.tlget t d) s = .next (s.later 2 (.tlRead d (tlIx t)))
    ∧ (s.core.t.egressClear = true → exec (.tlbump t a) s = .next (s.later 2 (.tlRaise (tlIx t) x)))
    ∧ (s.core.t.egressClear = false → exec (.tlbump t a) s = .next (s.leave false (.bump (tlIx t) x)))
    ∧ (∀ u : Thread, let w := u.apply (.tlRaise (tlIx t) x)
        (w.tl[tlIx t]).val = max (u.tl[tlIx t]).val x ∧ (∀ k, k ≠ tlIx t → w.tl[k] = u.tl[k]) ∧ (w.ev = true ↔ u.ev = true ∨ (u.tl[tlIx t]).val < x)
        ∧ u.sameRegs w)

/-- R186, R187, R354 to R356: BARI, BARA and BARW on the core's own copy of a barrier, with an arrival on its way to the home; BARI leaves a valid
copy with the same rectangle as it was; RACQ asks the bank, waits and issues with the buffer's address once it is granted; RREL moves a buffer from HELD and RINFO reads the indexes, all on a table zeroed
first if another context used the pad (R161). What an earlier access holds back follows it (R194). -/
def Obligations.BarriersAndRings : Prop :=
  (∀ (s : State) (b : BitVec 7) (a : BitVec 6), (s.srcM a).psn = none →
    let v := (s.srcM a).val.low.toNat
    let r := rectOf v
    let old := s.core.t.bar b
    (v / 2 ^ 18 = 0 → v / 2 ^ 6 % 4 = 0 → r.aligned = true → r.inside s.lrec = true → r.has s.core.cid = true →
      (old.valid = true → old.rect = r → exec (.bari b a) s = .next s)
      ∧ ∃ t, exec (.bari b a) s = .next t ∧ (t.core.t.bar b).valid = true ∧ (t.core.t.bar b).rect = r
        ∧ (old.valid = false ∨ old.rect ≠ r → t.core.t.bar b = { rect := r, valid := true })
        ∧ (∀ c, c ≠ b → t.core.t.bar c = s.core.t.bar c) ∧ s.core.t.sameRegs t.core.t ∧ s.sameMemory t)
    ∧ (old.valid = true → old.pending = false →
      ∃ t, exec (.bara b) s = .next t ∧ t.core.t.bar b = { old with pending := true } ∧ (∀ c, c ≠ b → t.core.t.bar c = s.core.t.bar c)
        ∧ (s.core.t.egressClear = true → t.agenda = s.agenda ++ [.barrierArrival ⟨s.core.cid, homeOf old.rect⟩ s.core.t.lslot b.toNat old.rect])
        ∧ (s.core.t.egressClear = false → t.core.t.egress = s.core.t.egress ++ [⟨s.core.t.moveSeq, false, .arrive b.toNat old.rect, s.core.t.pc⟩])
        ∧ s.core.t.sameRegs t.core.t ∧ s.sameMemory t)
    ∧ (old.valid = false ∨ old.pending = true → exec (.bara b) s = s.trap 1 .illegal (b.zeroExtend 64))
    ∧ (old.valid = true → old.pending = false → exec (.barw b) s = .next s)
    ∧ (old.valid = true → old.pending = true → exec (.barw b) s = s.wait .barw)
    ∧ (old.valid = false → exec (.barw b) s = s.trap 1 .illegal (b.zeroExtend 64)))
  ∧ (∀ (s : State) (r : BitVec 6) (side : BitVec 1) (d : BitVec 6),
    let v := s.atBank
    let x := v.ring r
    let cl := clusterOf s.core.cid
    (∀ n a, s.core.t.ring = some (.granted n a) →
      exec (.racq r side d) s = .next ((v.mapT fun t => { t with ring := none }).later 2 (.mResult d a a.val)))
    ∧ (s.core.t.ring = none → x.nbuf = 0 → exec (.racq r side d) s = v.trap 1 .illegal (r.zeroExtend 64))
    ∧ (s.core.t.ring = none → x.nbuf ≠ 0 → s.core.t.egressClear = true → ∃ t, exec (.racq r side d) s = .next t
        ∧ t.core.t.ring = some (.asked r.toNat (side == 1) s.tick) ∧ t.core.t.hold = some .racq
        ∧ t.agenda = s.agenda ++ [.ringUpdate s.core.cid] ∧ s.core.t.sameRegs t.core.t ∧ t.mem = s.mem ∧ t.l2 = v.l2)
    ∧ (s.core.t.ring = none → x.nbuf ≠ 0 → s.core.t.egressClear = false → exec (.racq r side d) s = v.wait .racq)
    ∧ (∀ n sd at', s.core.t.ring = some (.asked n sd at') → exec (.racq r side d) s = v.wait .racq)
    ∧ (x.nbuf = 0 → exec (.rrel r side) s = v.trap 1 .illegal (r.zeroExtend 64))
    ∧ (x.nbuf ≠ 0 → s.core.t.egressClear = false → exec (.rrel r side) s = .next (v.leave false (.release r.toNat (side == 1))))
    ∧ (x.nbuf ≠ 0 → s.core.t.egressClear = true → ∃ t, exec (.rrel r side) s = .next t ∧ (∀ c, c ≠ cl → t.l2At c = s.l2At c)
        ∧ (∀ p, p < ringOff r.toNat + 8 ∨ ringOff r.toNat + 12 ≤ p → Mem.get (t.l2At cl).bytes p = Mem.get (v.l2At cl).bytes p)
        ∧ (x.nheld = 0 → (t.l2At cl).ring r.toNat = x)
        ∧ (x.nheld ≠ 0 → x.nfull < 255 → ((t.l2At cl).ring r.toNat).nheld = x.nheld - 1
          ∧ ((t.l2At cl).ring r.toNat).nfull = x.nfull + (if side = 1 then 0 else 1))
        ∧ t.core.t.ev = true ∧ s.core.t.sameRegs t.core.t ∧ t.mem = s.mem)
    ∧ exec (.rinfo r d) s = .next (v.later 2 (.mResult d
        ⟨Word.sext (BitVec.ofNat 32 (x.pidx * 2 ^ 24 + x.cidx * 2 ^ 16 + x.nfull * 2 ^ 8 + x.nheld)), x.psn⟩
        (Word.sext (BitVec.ofNat 32 (x.pidx * 2 ^ 24 + x.cidx * 2 ^ 16 + x.nfull * 2 ^ 8 + x.nheld))))))

/-! ### Worklist, other devices, equivalence engine -/

/-- R357 to R359: a packet in the own L1 that the hub accepts: WLPUSH lands its handle, WLNEST has no result; a refused packet is BAD_PACKET
with the packet's address. WLFLOOR lands FLOOR of the own hub. TSUCC appends a handle to the task, at most seven in all. In a gang launch the
words that name a packet or a task are ILLEGAL.
A packet that an earlier access holds back is handed to the hub later (R194).
The hub accepts in the issuing step where nothing holds the packet back (DESIGN CHOICE, log 32). -/
def Obligations.WorklistWords : Prop :=
  ∀ (s : State) (d r : BitVec 5) (b : BitVec 4) (l : BitVec 10),
    let a := s.srcA b
    let die := dieOf s.core.cid
    let slot := s.core.t.lslot
    (s.core.t.gang = true → s.core.t.landings < 32 → exec (.wlpush d b l) s = s.trap 1 .illegal 0 ∧ exec (.wlnest b) s = s.trap 1 .illegal 0
      ∧ exec (.tsucc r) s = s.trap 1 .illegal 0)
    ∧ (∀ off n, s.core.t.gang = false → a.psn = none → a.val.toNat % 32 = 0 → ownOff a.val = some off →
        n = packetLen (plain (s.core.l1.readP off 8)) → 0 < n → n ≤ 256 → off + n ≤ 2 ^ 21 →
        psnOf (s.core.l1.readP off 8) = none → psnOf (s.core.l1.readP off n) = none →
        let bs := plain (s.core.l1.readP off n)
        (s.pushClear = true →
          (∀ h s1, s.hubAccept slot die [0] false none (some s.core.cid) bs = .ok (.ok h, s1) → s1.core.t.mode = .run → s.core.t.landings < 32 →
            exec (.wlpush d b l) s = .next (s1.noRerun.land d l.toNat (some ⟨h.sext, none⟩) false))
          ∧ (∀ s1, s.hubAccept slot die [0] false none (some s.core.cid) bs = .ok (.error .badPacket, s1) → s.core.t.landings < 32 →
            exec (.wlpush d b l) s = s1.trap 5 .badPacket a.val)
          ∧ (∀ h s1, s.hubAccept slot die [2] false none (some s.core.cid) bs = .ok (.ok h, s1) → s1.core.t.mode = .run →
            exec (.wlnest b) s = .next s1.noRerun))
        ∧ (s.pushClear = false →
          (s.core.t.landings < 32 → exec (.wlpush d b l) s
            = .next ((s.noRerun.land d l.toNat none false).leave false (.push (some s.core.t.landId) bs)))
          ∧ exec (.wlnest b) s = .next (s.noRerun.leave false (.push none bs))))
    ∧ (s.core.t.landings < 32 → exec (.wlfloor d l) s = .next (s.land d l.toNat
        (some ⟨Word.sext (if s.core.t.gang then 0 else BitVec.ofNat 32 (s.block slot die).fc), none⟩) false))
    ∧ (s.core.t.gang = false → (s.srcS r).psn = none →
      (s.core.t.task.succ.length < 7 → ∃ t, exec (.tsucc r) s = .next t ∧ t.core.t.task.succ = s.core.t.task.succ ++ [(s.srcS r).val]
        ∧ s.core.t.sameRegs t.core.t ∧ s.core.t.sameControl t.core.t ∧ s.sameMemory t)
      ∧ (7 ≤ s.core.t.task.succ.length → exec (.tsucc r) s = s.trap 1 .illegal (s.srcS r).val.zext))

/-- R194, R360 to R362: RPUT, RRED and WLPUSHR that pass their checks join what waits to leave the core: an .ACK form takes the next number of
tl4, and the task may no longer be run again from its start (R108). An operation that names the member itself, once its source is read, is
undelivered and arrives at this device as a step of its own. A length that is no multiple of 64 in 64 to 2^24 is ILLEGAL.
That an operation to the member itself is a step of this device is the model's choice (DESIGN CHOICE, log 32). -/
def Obligations.RemoteWords : Prop :=
  (∀ (s : State) (k : BitVec 1) (a t : BitVec 4) (l v n z : BitVec 5),
    let e := s.lrec.group
    let g := s.selfOf e
    let w := g.2.viewOf e
    let ack := k == 1
    let line := s.core.t.tl[4]
    let left := fun (s1 u : State) (op : EgressOp) => u.core.t.egress = s1.core.t.egress ++ [⟨s1.core.t.moveSeq, false, op, s1.core.t.pc⟩]
      ∧ (u.core.t.tl[4]).issued = (s1.core.t.tl[4]).issued + (if ack then 1 else 0) ∧ s1.core.t.sameRegs u.core.t ∧ s1.sameMemory u
      ∧ u.core.t.rerunnable = false
    let num := fun (s1 : State) => if ack then (s1.core.t.tl[4]).issued + 1 else 0
    ((s.srcA a).psn = none → (s.srcA t).psn = none → (s.srcS l).psn = none → (s.srcS v).psn = none →
      let len := (s.srcS l).val.toNat
      (len % 64 ≠ 0 ∨ len < 64 ∨ 2 ^ 24 < len → exec (.rput k a t l v) s = g.2.trap 1 .illegal (s.srcS l).val.zext)
      ∧ (len % 64 = 0 → 64 ≤ len → len ≤ 2 ^ 24 → (s.srcS v).val.toNat < 2 ^ 18 →
        (g.2.lrec.multi = true ∨ (s.srcS v).val.toNat = g.1) → g.2.core.t.tl4Full ack = false →
        (s.srcA t).val.toNat % 64 = 0 → (s.srcA t).val.toNat < 2 ^ 56 → (s.srcA a).val.toNat % 64 = 0 →
        targetOf' g.2.core.cid (s.srcA a).val.toNat len = .own ∨ targetOf' g.2.core.cid (s.srcA a).val.toNat len = .dev →
        ∃ u p, exec (.rput k a t l v) s = .next u ∧ left g.2 u (.put p (s.srcA a).val len g.2.core.t.pc) ∧ p.member = (s.srcS v).val.toNat
          ∧ p.sender = g.1 ∧ p.target = (s.srcA t).val ∧ p.ack = some (g.2.core.cid, num g.2)))
    ∧ ((s.srcA a).psn = none → (s.srcS n).psn = none → (s.srcS l).psn = none →
      let c := (s.srcS n).val.toNat
      let v := (s.srcS l).val.toNat
      let ty := c / 2 ^ 30
      let count := c % 2 ^ 17
      let size := if ty = 1 then 8 else 4
      ty ≠ 3 → c / 2 ^ 17 % 2 ^ 13 = 0 → count ≠ 0 → count ≤ 65536 → count * size ≤ 2 ^ 18 →
        v / 2 ^ 30 = 0 → (w.2.lrec.multi = true ∨ v % 2 ^ 18 = g.1) → w.2.core.t.tl4Full ack = false → (s.srcA a).val.toNat % 64 = 0 →
        targetOf' w.2.core.cid (s.srcA a).val.toNat (count * size) = .own ∨ targetOf' w.2.core.cid (s.srcA a).val.toNat (count * size) = .dev →
        ∃ u con, exec (.rred k a n l) s = .next u ∧ left w.2 u (.red con (v % 2 ^ 18) (s.srcA a).val (count * size) w.2.core.t.pc)
          ∧ con.count = count ∧ con.type = ty ∧ con.slot = v / 2 ^ 24 % 2 ^ 6 ∧ con.die = v / 2 ^ 18 % 2 ^ 6 ∧ con.view = w.1
          ∧ con.sender = g.1 ∧ con.ack = some (w.2.core.cid, num w.2))
    ∧ (∀ off m, s.core.t.gang = false → (s.srcA a).psn = none → (s.srcA a).val.toNat % 32 = 0 → ownOff (s.srcA a).val = some off →
        m = packetLen (plain (s.core.l1.readP off 8)) → 0 < m → m ≤ 256 → off + m ≤ 2 ^ 21 →
        psnOf (s.core.l1.readP off 8) = none → psnOf (s.core.l1.readP off m) = none → (s.srcS z).psn = none →
        (s.srcS z).val.toNat / 2 ^ 24 = 0 → (w.2.lrec.multi = true ∨ (s.srcS z).val.toNat % 2 ^ 18 = g.1) → w.2.core.t.tl4Full ack = false →
        ∃ u hdr, exec (.wlpushr k a z) s = .next u
          ∧ left w.2 u (.pushr hdr ((s.srcS z).val.toNat % 2 ^ 18) (plain (s.core.l1.readP off m)))
          ∧ hdr.sender = g.1 ∧ hdr.view = w.1 ∧ hdr.die = (s.srcS z).val.toNat / 2 ^ 18 % 2 ^ 6 ∧ hdr.ack = some (w.2.core.cid, num w.2)))
  ∧ (∀ (s : State) (p : PutReq) (con : Contribution) (hdr : RemoteHdr) (bs : List PByte) (pkt : List Byte) (cid n l : Nat),
    let sent := fun (u : State) (i : Instr) => u.agenda = s.agenda ++ [i] ∧ (u.coreAt cid).t.rputs = (s.coreAt cid).t.rputs + 1
      ∧ u.mem = s.mem ∧ u.outbox = s.outbox
    (p.member = p.sender → p.ack = some (cid, n) → sent (s.sendPut p bs) (.rputArrival { p with bytes := plain bs, poisoned := poisonedWords bs }))
    ∧ (con.ack = some (cid, n) → SMap.find? s.catchUp con.group = none →
      sent (s.sendRed con con.sender bs) (.contributionStaged con.die { con with elems := plain bs, poison := (psnOf bs).isSome }))
    ∧ sent (s.sendPushr hdr hdr.sender pkt l cid) (.packetAccept hdr.die l (.remote hdr none) pkt))

/-- R234, R364: an equivalence word with a landing slot free and a descriptor at a multiple of 64 puts one operation in flight, with the next
number of tl3 and the slot that its status or value will land in; its first step is due. EQUN with D = 31 is ILLEGAL. -/
def Obligations.EquivalenceWords : Prop :=
  ∀ (s : State) (d : BitVec 5) (b : BitVec 4) (l : BitVec 10),
    let a := s.srcA b
    let x := s.srcS d
    let num := (s.core.t.tl[3]).issued + 1
    let put := fun (i : Instr) (kind : EqKind) (x y : Nat) (first : Nat → Instr) => ∃ t o, exec i s = .next t ∧ t.eqOps = s.eqOps ++ [o]
      ∧ o.kind = kind ∧ o.cid = s.core.cid ∧ o.ctx = s.core.t.ctx ∧ o.desc = a.val ∧ o.num = num ∧ o.a = x ∧ o.b = y ∧ o.phase = .start
      ∧ o.land = some s.core.t.landId ∧ t.agenda = s.agenda ++ [first o.id] ∧ (t.core.t.tl[3]).issued = num
      ∧ (t.core.t.tl[3]).val = (s.core.t.tl[3]).val
      ∧ t.core.t.flights = s.core.t.flights ++ [⟨l.toNat, .land s.core.t.landId d none none⟩]
      ∧ s.core.t.sameRegs t.core.t ∧ s.sameMemory t
    s.core.t.landings < 32 → a.psn = none →
    (a.val.toNat % 64 = 0 →
      put (.eqinit d b l) .init 0 0 .eqHoldEnd ∧ put (.eqsnap d b l) .snap 0 0 .eqHoldEnd ∧ put (.equndo d b l) .undo 0 0 .eqHoldEnd
      ∧ put (.eqdrop d b l) .drop 0 0 .eqHoldEnd ∧ put (.eqcnt d b l) .cnt 0 0 .eqOpComplete
      ∧ (x.psn = none → put (.eqfd d b l) .fd x.val.toNat 0 .eqFindHop ∧ put (.eqsz d b l) .sz x.val.toNat 0 .eqFindHop
        ∧ put (.eqrl d b l) (if x.val.toNat % 2 = 1 then .reduce else .label) 0 0 .eqHoldEnd)
      ∧ (d ≠ 31 → x.psn = none → (s.srcS (d + 1)).psn = none → put (.equn d b l) .un x.val.toNat (s.srcS (d + 1)).val.toNat .eqFindHop))
    ∧ (a.val.toNat % 64 ≠ 0 → exec (.eqinit d b l) s = s.trap 3 .align a.val ∧ exec (.eqcnt d b l) s = s.trap 3 .align a.val)
    ∧ exec (.equn 31 b l) s = s.trap 1 .illegal 0

/-! ### Steps of the engines that work for a core -/

/-- R166, R283, R318, R326 to R342, R350, R363: the steps of a core's units. Data goes to its landing slot; code that was waited for arrives;
the operation at the head of a tile queue is performed and its timeline rises; a queued array operation begins, parks after its prefix, or is
performed to its end, while the clock of its core is not frozen; a VQBAL whose cycles have passed raises tl5. The last completion of a peer
move (R79, R191, R352) lays its data in the L1 of the move that waits, with zeros around it, and lets the move complete; a read that times out
puts poison there and counts in its table entry.
A nest and a tile move are performed in one step (DESIGN CHOICE, log 28; DEDUCED, log 29). -/
def Obligations.UnitSteps : Prop :=
  (∀ (s : State) (cid : Nat),
    let c := s.coreAt cid
    let same := fun (t : State) => c.t.sameRegs (t.coreAt cid).t ∧ t.mem = s.mem ∧ t.l2 = s.l2 ∧ t.l3 = s.l3
    (∀ id, ∃ t, exec (.landingDataReturn cid id) s = .next t ∧ same t ∧ (t.coreAt cid).l1 = c.l1
        ∧ (∀ f ∈ c.t.flights, ∀ d v k, f.fx = .land id d (some v) k → ⟨f.off, .land id d (some v) (some 0)⟩ ∈ (t.coreAt cid).t.flights)
        ∧ (∀ f ∈ c.t.flights, (∀ d v k, f.fx ≠ .land id d (some v) k) → f ∈ (t.coreAt cid).t.flights))
    ∧ (∀ k, c.t.fetching = some k → ∃ t, exec (.fetchComplete cid) s = .next t ∧ same t ∧ (t.coreAt cid).t.fetching = none
        ∧ (t.coreAt cid).t.fetched = k :: c.t.fetched)
    ∧ (∀ seq num slot l1 v pc o, c.t.tq0 = [.tfill seq num slot l1 v pc] → SMap.find? c.t.objs slot = some o → l1 + o.tileBytes ≤ 2 ^ 21 →
        c.t.tileWaits 0 (.tfill seq num slot l1 v pc) = false →
        ∃ t, exec (.tileMoveComplete cid 0) s = .next t ∧ same t ∧ (t.coreAt cid).t.tq0 = []
          ∧ (∀ p, p < l1 ∨ l1 + o.tileBytes ≤ p → Mem.get (t.coreAt cid).l1.bytes p = Mem.get c.l1.bytes p)
          ∧ (num = (c.t.tl[0]).val + 1 → (c.t.tl[0]).done = [] → ((t.coreAt cid).t.tl[0]).val = num))
    ∧ (∀ seq num quant slot l1 ty tx pc o s1 s2, c.t.tq0 = [.tmov seq num false quant slot l1 ty tx pc] → SMap.find? c.t.objs slot = some o →
        o.hasTile ty tx = true → o.forbids quant false = false → l1 + o.moveArea quant ≤ 2 ^ 21 → o.peer = false →
        c.t.tileWaits 0 (.tmov seq num false quant slot l1 ty tx pc) = false →
        s.eqBefore cid c.t.lslot seq ((c.t.opMem (.tmov seq num false quant slot l1 ty tx pc)).map (fun m => m.1)) = false →
        s.moveIn cid 0 num (s.engineOf cid) o quant l1 ty tx = .ok (s1, s2) →
        exec (.tileMoveComplete cid 0) s = .next (s1.unhold (.engine cid)))
    ∧ (∀ seq num slot index pc o s1, c.t.tq0 = [.objld seq num slot index pc] → c.t.tileWaits 0 (.objld seq num slot index pc) = false →
        s.readObj (s.engineOf cid) ((SMap.find? s.launches c.t.lslot).map (fun x => x.lrec.objAddr) |>.getD 0) index = .ok (o, s1) →
        ∃ t, exec (.objldComplete cid) s = .next t ∧ SMap.find? (t.coreAt cid).t.objs slot = o ∧ t.mem = s1.mem
          ∧ (∀ k, k ≠ slot → SMap.find? (t.coreAt cid).t.objs k = SMap.find? (s1.coreAt cid).t.objs k))
    ∧ (∀ seq num x, c.t.tq0 = [.objpub seq num] → c.t.tileWaits 0 (.objpub seq num) = false → SMap.find? s.launches c.t.lslot = some x →
        ∃ t y, exec (.objpubComplete cid) s = .next t ∧ same t ∧ SMap.find? t.launches c.t.lslot = some y ∧ y.objCopy = []
          ∧ (t.coreAt cid).t.tq0 = [] ∧ (t.coreAt cid).t.objs = c.t.objs)
    ∧ (∃ t, exec (.vqbalComplete cid) s = .next t ∧ same t ∧ (t.coreAt cid).t = c.t.endVqbal ∧ (t.coreAt cid).l1 = c.l1)
    ∧ (c.arrayRuns = true → s.arrayFrozen cid = false → c.t.arr.queue ≠ [] → c.t.arr.phase = .idle →
        ∃ t, exec (.arrayOpStart cid) s = .next t ∧ same t ∧ (t.coreAt cid).t.arr = { c.t.arr with phase := .running }
          ∧ (.nestPark cid ∈ t.agenda ∨ .arrayOpComplete cid ∈ t.agenda))
    ∧ (c.arrayRuns = true → s.arrayFrozen cid = false → c.t.arr.phase = .running → (∃ o ∈ c.t.arr.queue.head?, c.t.isPrefix o = true) → c.t.arrayLocked = false →
        ∃ t, exec (.nestPark cid) s = .next t ∧ same t ∧ (t.coreAt cid).t = (c.t.parkNest c.l1).1 ∧ (t.coreAt cid).t.arr.phase = .parked
          ∧ (t.coreAt cid).t.arr.queue = c.t.arr.queue)
    ∧ (c.arrayRuns = true → s.arrayFrozen cid = false → c.t.arrayEnds = true → c.t.arrayLocked = false →
        ∃ t, exec (.arrayOpComplete cid) s = .next t ∧ same t ∧ (t.coreAt cid).t = (c.t.runArray c.l1).1
          ∧ (t.coreAt cid).t.arr.queue = c.t.arr.queue.tail ∧ (t.coreAt cid).t.arr.phase = .idle
          ∧ (∀ num rest, c.t.arr.queue = .sclr num :: rest → ∀ row col, (t.coreAt cid).t.arr.at row col = {})
          ∧ (∀ at' num src len place rest, c.t.arr.queue = .wbld at' num src len place :: rest →
              ∀ k < 64 * len, Mem.get (t.coreAt cid).t.wbuf (64 * place + k) = Mem.get c.l1.bytes (src + k))))
  ∧ (∀ (s : State) (r : PeerRead) (seq num l1 len : Nat) (data : List (BitVec 8)),
    s.peerReads = [r] → r.got = none → (s.coreAt r.cid).t.tq r.q = [.peer seq num r.group l1 len] → data.length = r.size →
    (∃ t, exec (.outboundCompletion r.tag true data) s = .next t ∧ t.peerReads = [] ∧ .tileMoveComplete r.cid r.q ∈ t.agenda
      ∧ (∀ k (h : k < data.length), Mem.get (t.coreAt r.cid).l1.bytes (r.l1 + k) = data[k])
      ∧ (∀ p, p < r.l1 ∨ r.l1 + r.size ≤ p → Mem.get (t.coreAt r.cid).l1.bytes p
          = if l1 ≤ p ∧ p < l1 + len then 0 else Mem.get (s.coreAt r.cid).l1.bytes p)
      ∧ (s.coreAt r.cid).t.sameRegs (t.coreAt r.cid).t ∧ t.mem = s.mem)
    ∧ (0 < r.size → r.oute < 16 → ∃ t, exec (.outboundTimeout r.tag) s = .next t ∧ t.peerReads = [] ∧ .tileMoveComplete r.cid r.q ∈ t.agenda
      ∧ (SMap.find? (t.coreAt r.cid).l1.psn (r.l1 / 8)).isSome = true
      ∧ (t.outWin r.oute).err = sat64 (s.outWin r.oute).err ∧ t.mem = s.mem))

/-- R223, R226 to R234, R364: the steps of the equivalence engine, for words that are readable, writable and clean: a find makes one access a step
at the home of the element at hand: at a root it delivers the root, elsewhere it goes on to the parent, reads the parent's parent, comes back to
compress and goes on at the parent; a link of two roots makes the higher a child of the lower and takes one from COUNT; the delta is added to SIZE
of a root, and sent on to the parent of an element that is none; a holder marks UNDOING and makes its checks, performs its operation once no other
runs on the forest, and its status lands then; a finished operation raises tl3. EQSNAP opens the log with SNAP = COUNT, EQDROP closes it; on a
forest whose log is open or absent EQSNAP has status 4, on one whose log is closed EQUNDO and EQDROP have status 5.
That a status lands at the end of a hold is read by inference (DEDUCED, log 48). -/
def Obligations.EquivalenceSteps : Prop :=
  ∀ (s : State) (o : EqOp) (f : Forest) (s1 : State),
    let w := o.who
    let lo := min o.ra o.rb
    let hi := max o.ra o.rb
    let go := fun (u v : State) => (v.eqKeep u o).unhold (.engine o.cid)
    let on := fun (u : State) (p : EqOp) => (.next ((u.setEqOp p).push (.eqFindHop o.id)) : Out)
    s.eqOp? o.id = some o →
    (∀ p s2, o.phase = .find false → s.eqForest w o.desc = .ok (some f, s1) →
      (o.back = none → (go s s1).eqRead w (f.parentAt o.x) 4 = .ok (some p, s2) →
        (o.up = none → p = o.x → o.kind = .fd → exec (.eqFindHop o.id) s = .next ((go (go s s1) s2).eqDone o (word32 p)))
        ∧ (o.up = none → p ≠ o.x → exec (.eqFindHop o.id) s = on (go (go s s1) s2) { o with at' := o.to, x := p, up := some o.x })
        ∧ (∀ x, o.up = some x → p = o.x → exec (.eqFindHop o.id) s = on (go (go s s1) s2) { o with up := none })
        ∧ (∀ x, o.up = some x → p ≠ o.x →
            exec (.eqFindHop o.id) s = on (go (go s s1) s2) { o with at' := o.to, x := x, up := none, back := some (o.x, p) }))
      ∧ (∀ g, o.back = some (p, g) → (go s s1).compress w f o.x p g = .ok (some (), s2) →
        exec (.eqFindHop o.id) s = on (go (go s s1) s2) { o with at' := o.to, x := p, back := none }))
    ∧ (∀ s2 s3 s4 s5 s6 s7 sz, o.kind = .un → o.phase = .link → o.resv = 0 → o.ra ≠ o.rb → f.isOpen = false →
      s.eqForest w o.desc = .ok (some f, s1) → (go s s1).putForest w f = .ok (some (), s2) →
      ((go s1 s2).setEqOp o).eqForest w o.desc = .ok (some f, s3) → s3.eqRead w (f.parentAt hi) 4 = .ok (some hi, s4) →
      (go s3 s4).eqRead w (f.sizeAt hi) 4 = .ok (some sz, s5) → s5.eqWrite w (f.parentAt hi) 4 lo = .ok (some (), s6) →
      s6.putForest w { f with count := f.count + 2 ^ 32 - 1 } = .ok (some (), s7) →
      exec (.eqLink o.id) s
        = .next (((go s6 s7).setEqOp { o with at' := o.to, x := lo, dval := sz, phase := .delta }).push (.eqSizeDelta o.id)))
    ∧ (∀ s2 s3 s4 p sz, o.kind = .un → o.phase = .delta → f.isOpen = false → s.eqForest w o.desc = .ok (some f, s1) →
      s1.eqRead w (f.parentAt o.x) 4 = .ok (some p, s2) →
      (p ≠ o.x → exec (.eqSizeDelta o.id) s = .next (((go s s2).setEqOp { o with at' := o.to, x := p }).push (.eqSizeDelta o.id)))
      ∧ (p = o.x → (go s s2).eqRead w (f.sizeAt o.x) 4 = .ok (some sz, s3) →
        s3.eqWrite w (f.sizeAt o.x) 4 ((sz + o.dval) % 2 ^ 32) = .ok (some (), s4) →
        exec (.eqSizeDelta o.id) s = .next ((go s3 s4).eqDone { o with resv := 0 } (word32 0))))
    ∧ (∀ s2, o.kind ∈ [EqKind.init, .snap, .undo, .drop, .label, .reduce] → o.phase = .start → s.eqWaits o = false → o.objsFit f = true →
      s.eqCheck w o.desc = .ok (some f, s1) → (go s s1).putForest w { f with undoing := true } = .ok (some (), s2) →
      exec (.eqHoldEnd o.id) s
        = .next ((((go s1 s2).eqMark o f).setEqOp { o with phase := .hold, result := word32 (o.status f) }).push (.eqHoldEnd o.id)))
    ∧ (∀ s2, o.phase = .hold → s.eqOthers o = false → s.eqForest w o.desc = .ok (some f, s1) → s1.eqHeld o f = .ok (some (), s2) →
      exec (.eqHoldEnd o.id) s = .next ((go s s2).eqDone o o.result))
    ∧ (o.kind = .snap → o.status f = (if f.isOpen = true ∨ f.log = 0 then 4 else 0)
      ∧ (o.status f = 0 → s1.eqHeld o f = s1.putForest w { f with isOpen := true, used := 0, snap := f.count, undoing := false }))
    ∧ (o.kind = .drop → o.status f = (if f.isOpen = true then 0 else 5)
      ∧ (o.status f = 0 → s1.eqHeld o f = s1.putForest w { f with isOpen := false, used := 0, undoing := false }))
    ∧ (o.kind = .undo → o.status f = if f.isOpen = true then 0 else 5)
    ∧ (o.phase = .start → o.kind = .cnt → s.eqWaits o = false → s.eqCheck w o.desc = .ok (some f, s1) →
      exec (.eqOpComplete o.id) s = .next ((go s s1).eqDone o (word32 f.count)))
    ∧ (o.phase = .done → ∃ t, exec (.eqOpComplete o.id) s = .next t ∧ t.eqOp? o.id = none
      ∧ (∀ p ∈ s.eqOps, p.id ≠ o.id → p ∈ t.eqOps) ∧ t.mem = s.mem
      ∧ (let c := (s.coreAt o.cid).t
         c.mode = .run → c.lslot = o.lslot → o.num = (c.tl[3]).val + 1 → (c.tl[3]).done = [] → ((t.coreAt o.cid).t.tl[3]).val = o.num))

/-- R154, R170, R186, R356, R361, R362: what reaches a core or a pad: an arrival at a barrier counts, and the last one sends the next phase to every
participant, whose copy takes it; a ring request is granted with the buffer's address; an answer of a remote operation leaves its fate in the own
L1; a put is performed, or refused whole with the fate PAGE; a window access writes or reads a pad of each kind; a gated core wakes. -/
def Obligations.Arrivals : Prop :=
  ∀ (s : State) (cid l : Nat),
    let c := s.coreAt cid
    (∀ bar x, bar < 128 → c.t.mode = .run → c.t.lslot = l → x = c.t.bar (BitVec.ofNat 7 bar) → x.valid = true →
      (x.arrived + 1 = x.rect.w * x.rect.h →
        ∀ k, ∃ t, exec (.barrierArrival ⟨k, cid⟩ l bar x.rect) s = .next t ∧ ((t.coreAt cid).t.bar (BitVec.ofNat 7 bar)).arrived = 0
          ∧ ((t.coreAt cid).t.bar (BitVec.ofNat 7 bar)).phase = x.phase + 1
          ∧ t.agenda = s.agenda ++ x.rect.cores.map (fun k => .barrierPhaseDelivery k l bar (x.phase + 1)))
      ∧ (x.arrived + 1 < x.rect.w * x.rect.h →
        ∀ k, ∃ t, exec (.barrierArrival ⟨k, cid⟩ l bar x.rect) s = .next t
          ∧ (t.coreAt cid).t.bar (BitVec.ofNat 7 bar) = { x with arrived := x.arrived + 1 } ∧ t.agenda = s.agenda
          ∧ c.t.sameRegs (t.coreAt cid).t ∧ t.mem = s.mem)
      ∧ (∀ phase, ∃ t, exec (.barrierPhaseDelivery cid l bar phase) s = .next t
          ∧ (t.coreAt cid).t.bar (BitVec.ofNat 7 bar) = { x with phase := phase, pending := false } ∧ (t.coreAt cid).t.ev = true
          ∧ c.t.sameRegs (t.coreAt cid).t ∧ t.mem = s.mem))
    ∧ (∀ r side at' x a, c.t.ring = some (.asked r side at') → SMap.find? s.l2Ctx (clusterOf cid) = some c.t.ctx → s.firstAsker (clusterOf cid) r side = some cid →
        ((s.l2At (clusterOf cid)).ring r).acquire side = some (x, a) →
        ∃ t, exec (.ringUpdate cid) s = .next t ∧ (t.coreAt cid).t.ring = some (.granted r ⟨a, x.psn⟩)
          ∧ (∀ k, k ≠ clusterOf cid → t.l2At k = s.l2At k) ∧ c.t.sameRegs (t.coreAt cid).t ∧ t.mem = s.mem)
    ∧ (∀ n fate, c.t.mode = .run → c.t.lslot = l → n ≠ 0 → fate < 2 ^ 32 →
        ∃ t, exec (.ackArrival cid l n fate) s = .next t ∧ leNat (Mem.read (t.coreAt cid).l1.bytes (0x1FFF00 + 4 * (n % 64)) 4) = fate
          ∧ (∀ p, p < 0x1FFF00 + 4 * (n % 64) ∨ 0x1FFF00 + 4 * (n % 64) + 4 ≤ p → Mem.get (t.coreAt cid).l1.bytes p = Mem.get c.l1.bytes p)
          ∧ (t.coreAt cid).t.rputs = c.t.rputs - 1 ∧ (n = (c.t.tl[4]).val + 1 → (c.t.tl[4]).done = [] → ((t.coreAt cid).t.tl[4]).val = n))
    ∧ (∀ (p : PutReq) x, p.sender = p.member → SMap.find? s.launches p.lslot = some x →
        let home := x.lrec.cores.headD 0
        let put := s.writeVa ⟨home, x.ctx, some p.lslot, true, dieOf home⟩ p.target.toNat (repoison p.bytes p.poisoned)
        let inMemory := p.target.toNat < 0xFF000000000000 ∧ p.target.toNat + p.bytes.length ≤ 0xFF000000000000
        (∀ s1, inMemory → put = .ok ((), s1) →
          exec (.rputArrival p) s = .next ((s1.unhold (.launch p.lslot)).answer true p.sender p.lslot p.ack Fate.ok))
        ∧ (∀ rank cause val origin s1, inMemory → put = .error (.trap rank cause val origin s1) →
          exec (.rputArrival p) s = .next (s1.answer true p.sender p.lslot p.ack Fate.page))
        ∧ (¬ inMemory → exec (.rputArrival p) s = .next (s.answer true p.sender p.lslot p.ack Fate.page)))
    ∧ (∀ off bs size k id, ∃ t, exec (.windowAccessArrival cid ⟨.l1 cid, off, some bs, size, none⟩) s = .next t
        ∧ (∀ i (h : i < bs.length), Mem.get (t.coreAt cid).l1.bytes (off + i) = bs[i])
        ∧ (∀ p, p < off ∨ off + bs.length ≤ p → Mem.get (t.coreAt cid).l1.bytes p = Mem.get c.l1.bytes p)
        ∧ (t.coreAt cid).t.ev = true
        ∧ exec (.windowAccessArrival cid ⟨.l1 cid, off, none, size, some (k, id)⟩) s
          = .next ((s.onCore k fun x => { x with t := x.t.fillLand id (pvalue (c.l1.readP off size)) }).push (.landingDataReturn k id)))
    ∧ (∀ n off bs size k id, 0 < bs.length → off + bs.length ≤ 0x7FFC00 →
        ∃ t, exec (.windowAccessArrival cid ⟨.l2 n, off, some bs, size, none⟩) s = .next t
        ∧ (∀ i (h : i < bs.length), Mem.get (t.l2At n).bytes (off + i) = bs[i])
        ∧ (∀ p, p < off ∨ off + bs.length ≤ p → Mem.get (t.l2At n).bytes p = Mem.get (s.l2At n).bytes p)
        ∧ (∀ m, m ≠ n → t.l2At m = s.l2At m) ∧ t.l3 = s.l3 ∧ t.mem = s.mem
        ∧ exec (.windowAccessArrival cid ⟨.l2 n, off, none, size, some (k, id)⟩) s
          = .next ((s.onCore k fun x => { x with t := x.t.fillLand id (pvalue ((s.l2At n).readP off size)) }).push (.landingDataReturn k id)))
    ∧ (∀ n off bs size k id, 0 < bs.length → off + bs.length ≤ 0xFFF000 →
        ∃ t, exec (.windowAccessArrival cid ⟨.l3 n, off, some bs, size, none⟩) s = .next t
        ∧ (∀ i (h : i < bs.length), Mem.get (t.l3At n).bytes (off + i) = bs[i])
        ∧ (∀ p, p < off ∨ off + bs.length ≤ p → Mem.get (t.l3At n).bytes p = Mem.get (s.l3At n).bytes p)
        ∧ (∀ m, m ≠ n → t.l3At m = s.l3At m) ∧ t.l2 = s.l2 ∧ t.mem = s.mem
        ∧ exec (.windowAccessArrival cid ⟨.l3 n, off, none, size, some (k, id)⟩) s
          = .next ((s.onCore k fun x => { x with t := x.t.fillLand id (pvalue ((s.l3At n).readP off size)) }).push (.landingDataReturn k id)))
    ∧ (∃ t, exec (.coreWake cid) s = .next t ∧ (t.coreAt cid).gated = false ∧ (t.coreAt cid).t = c.t ∧ (t.coreAt cid).l1 = c.l1 ∧ t.mem = s.mem)

/-! ### Tasks, gangs and contexts -/

/-- R93, R96, R98, R102 to R108, R104: the life of a task: its packet is accepted; the walker makes a child of a nest record; a dispatch loads
the addresses of its regions, the indices and the payload into registers and waits for its regions; then its first bundle may issue; TEND's
outputs go to the pool and its retirement is due; a retirement counts the task, ends its entries and frees its slot; a continuation goes back
to its bucket; a preload takes its place and a turn of its launch; a task over its budget ends its launch.
Preloads are read as logs 35 and 73 say (DEDUCED). -/
def Obligations.TaskLife : Prop :=
  ∀ (s : State) (cid l die : Nat) (x : Launch), SMap.find? s.launches l = some x →
    let c := s.coreAt cid
    (∀ pkt h s1, s.hubAccept l die [0, 2] false (some 0) none pkt = .ok (.ok h, s1) →
        exec (.packetAccept die l .first pkt) s = .next (s1.unhold (.launch l)))
    ∧ (∀ pkt why s1, s.hubAccept l die [0, 2] false (some 0) none pkt = .ok (.error why, s1) →
        exec (.packetAccept die l .first pkt) s = .next ((s1.unhold (.launch l)).hubFault l die why 0))
    ∧ (∀ k rs ps s1, x.dieWith (fun h => h.walking.any (fun q => q.uid == k.uid)) = some die →
        (s.block l die).walking.find? (fun q => q.uid == k.uid) = some k → k.walked < k.counts.foldl (· * ·) 1 →
        (k.regions.zip k.coeffs).mapM (fun p => childRegion p.1 p.2 (iteration k.counts k.walked)) = some rs →
        State.regionObjs l (x.whoAt l die) rs s = .ok (some ps, s1) → regionsFit ps = true →
        ∃ (child : Task) (t : State), exec (.nestWalkerSpawn l k.uid) s = .next ((t.insertTail l die child false).push (.nestWalkerSpawn l k.uid))
          ∧ child.kind = 0 ∧ child.regions = rs ∧ child.idx = (iteration k.counts k.walked).map (fun n => BitVec.ofNat 32 n)
          ∧ child.payload = k.payload ∧ child.key = k.key ∧ t.mem = s1.mem)
    ∧ (∀ s1, s.choose die = some s1 → exec (.taskDispatch die) s = .next s1)
    ∧ (∀ k : Task, k.suspended = false → k.regions.length ≤ 8 → k.idx.length ≤ 6 → k.payload.length ≤ 16 →
        let u := (s.startTask l cid k).coreAt cid
        u.t.mode = .loading ∧ u.t.pc = x.lrec.codeAddr + BitVec.ofNat 64 (4 * (k.start + k.entry)) ∧ u.t.handler = false ∧ u.t.flights = []
        ∧ (∀ i (h : i < k.regions.length), u.t.getA (BitVec.ofNat 4 i) = ⟨BitVec.ofNat 64 (0xFF000000000000 + 64 * k.regions[i].l1off), none⟩)
        ∧ (∀ i (h : i < k.idx.length), u.t.getS (BitVec.ofNat 5 (2 + i)) = ⟨k.idx[i], none⟩)
        ∧ (∀ i (h : i < k.payload.length), u.t.getS (BitVec.ofNat 5 (8 + i)) = ⟨k.payload[i], none⟩)
        ∧ .regionCopyInDone cid ∈ (s.startTask l cid k).agenda)
    ∧ (∀ s1 s2, c.t.lslot = l → c.t.mode = .loading → c.t.gang = false → c.t.codeLen = 0 → s.ctxFrozen x.ctx = false →
        (if c.t.windowed = true then s1 = s else s.readTable l cid x = .ok ((), s1)) →
        State.bringRegions cid (s.engineOf cid) (s1.coreAt cid).t.task c.t.task.regions.zipIdx s1 = .ok ((), s2) →
        let code := State.copyCode 1024 s2 (s.engineOf cid) x.lrec.codeAddr.toNat
        ∃ t, exec (.regionCopyInDone cid) s = .next t ∧ (t.coreAt cid).t.mode = .run ∧ (t.coreAt cid).t.ev = false
          ∧ (t.coreAt cid).t.objs = (code.2.coreAt cid).t.objs ∧ (code.1 ≠ [] → (t.coreAt cid).t.codeLen = code.1.length))
    ∧ (c.t.lslot = l → die = dieOf cid → c.t.mode = .ending → c.t.hold = none → c.t.gang = false → c.t.susp = false →
        (s.hub die).copyQ.head? = some cid → s.poolUsed die + outBytes c.outputs ≤ poolBytes →
        ∃ t y, exec (.tendCopyOut cid) s = .next t ∧ (t.coreAt cid).t.mode = .idle ∧ SMap.find? t.launches l = some y
          ∧ y.retiring = x.retiring ++ [⟨c.t.task, die, cid, c.outputs, outBytes c.outputs⟩] ∧ .taskRetire l c.t.task.uid ∈ t.agenda
          ∧ (t.hub die).copyQ = (s.hub die).copyQ.tail ∧ t.mem = s.mem)
    ∧ (∀ uid r s1 x1, x.retiring.find? (fun q => q.task.uid == uid) = some r → r.task.succ = [] →
        State.storeOuts l ⟨r.cid, x.ctx, some l, true, dieOf r.cid⟩ r.task r.outs s = .ok (none, s1) → SMap.find? s1.launches l = some x1 →
        ∃ t y, exec (.taskRetire l uid) s = .next t ∧ SMap.find? t.launches l = some y ∧ y.tasks = x1.tasks + 1
          ∧ y.retiring = x1.retiring.filter (fun q => q.task.uid != uid) ∧ y.deps = x1.deps.filter (fun d => d.uid != uid)
          ∧ SMap.find? (t.hub r.die).slots (r.task.handle.toNat / 2 ^ 14 % 2 ^ 12) = none ∧ t.mem = s1.mem)
    ∧ (∀ b k dep y cr, s.preloadFor cid = some (b, k, dep) → SMap.find? s.launches c.t.lslot = some y →
        s.preloadTurn c.t.lslot (dieOf cid) y.lrec = some cr →
        ∃ t p, exec (.taskPreload cid) s = .next t ∧ (t.coreAt cid).gated = false ∧ (t.coreAt cid).preload = some p ∧ p.dependent = dep
          ∧ p.task = { k with robjs := p.task.robjs, resident := p.task.resident } ∧ (t.coreAt cid).t = c.t)
    ∧ (∀ k, x.dieWith (fun h => h.suspended.any (fun q => q.uid == k.uid)) = some die →
        (s.block l die).suspended.find? (fun q => q.uid == k.uid) = some k →
        (s.tlAt (cidOf k.cx k.cy) l k.tln + (2 ^ 32 - k.waitv.toNat)) % 2 ^ 32 < 2 ^ 31 →
        exec (.continuationReady l k.uid) s = .next ((s.onBlock l die fun h =>
          { h with suspended := h.suspended.filter (fun q => q.uid != k.uid) }).insertTail l die k true))
    ∧ (c.t.lslot = l → c.t.taskOpen = true → c.t.mode = .run → x.lrec.task = true → x.lrec.tbudget ≠ 0 → x.lrec.tbudget < c.t.budget →
        x.phase = .running → x.cause = none →
        ∃ t y, exec (.budgetExceeded cid) s = .next t ∧ SMap.find? t.launches l = some y ∧ y.status = .faulted ∧ y.cause = some .budget
          ∧ y.phase = .draining ∧ t.mem = s.mem)
    ∧ (∀ g e s1, x.phase = .running → x.gangsLeft.contains g = true → s.ctxFrozen x.ctx = false → x.lrec.glog2w ≤ 2 → x.lrec.glog2h ≤ 2 →
        (∀ m ∈ x.lrec.gangCores g, (s.coreAt m.1).freeFor x.lrec.deadline = true) →
        s.codeEntry (x.whoAt l (dieOf (x.lrec.gangLead g))) x.lrec.codeAddr 0 = .ok (some e, s1) →
        ∃ t, exec (.gangStart l g) s = .next t ∧ .regionCopyInDone (x.lrec.gangLead g) ∈ t.agenda
          ∧ (∀ m ∈ x.lrec.gangCores g, let u := (t.coreAt m.1).t
              u.mode = .loading ∧ u.gang = true ∧ u.gangNo = g ∧ u.pc = x.lrec.codeAddr + BitVec.ofNat 64 (4 * e)
              ∧ (u.getS 2).val = BitVec.ofNat 32 g ∧ (u.getS 4).val = BitVec.ofNat 32 m.2.1 ∧ (u.getS 5).val = BitVec.ofNat 32 m.2.2
              ∧ (u.getA 0).val = x.lrec.first))

/-- R130 to R137, R154, R173 to R179, R245: stops, saves and restores of a context, and the translation units: a request is noted; when CKPTLIM
runs out the core stops at its next bundle boundary, and the stop keeps the context; a finished save holds the thread and the L1 as they were,
after a CKPT stop with latches empty and only the table's ranges of the L1, and leaves the core idle; a restore from clean sectors brings both
back with EV at 1; a walk puts its leaf into the cache of the die; a shadow copy is made from the pool of the strand of the core that wrote
first, unless another launch has come to hold a shadow of the page (R148); a hold that ends lets the access fault; an idle core is gated.
A save keeps the thread itself (DESIGN CHOICE, log 18); the cache is filled by the walk's step (DESIGN CHOICE, log 5). -/
def Obligations.ContextSteps : Prop :=
  ∀ (s : State) (cid : Nat),
    let c := s.coreAt cid
    (∀ why, c.t.gang = false → c.t.mode = .run → c.t.stop = none → c.preload = none →
        ∃ t, exec (.preemptRequest cid why) s = .next t ∧ (t.coreAt cid).t = { c.t with stop := some ⟨why, 0⟩ } ∧ t.mem = s.mem)
    ∧ (∀ q, c.t.gang = false → c.t.stop = some q →
        ∃ t, exec (.ckptlimExpiry cid) s = .next t ∧ t.mem = s.mem ∧ (t.coreAt cid).l1 = c.l1
          ∧ (t.coreAt cid).t = { c.t with stop := some { q with count := max q.count c.t.ckptlim.toNat } }
          ∧ (cid = s.core.cid → c.t.handler = false → c.t.rep.left = 0 → c.t.hold = none → c.t.ring = none → t.stopsHere = true))
    ∧ (c.t.gang = false → let t := s.stopNow cid
        (t.coreAt cid).t.mode = .stopping ∧ (t.coreAt cid).t.pc = c.t.savedPc.1 ∧ c.t.sregs = (t.coreAt cid).t.sregs
        ∧ .saveComplete cid ∈ t.agenda ∧ t.mem = s.mem)
    ∧ (∀ a, c.t.mode = .stopping → c.saved? = true → c.savedT = some a → a.complete = false → a.thread.lslot = c.t.lslot →
        ∃ t b, exec (.saveComplete cid) s = .next t ∧ (t.coreAt cid).t.mode = .idle ∧ (t.coreAt cid).savedT = some b ∧ b.complete = true
          ∧ b.thread.pc = c.t.pc ∧ b.kind = a.kind ∧ .taskDispatch (dieOf cid) ∈ t.agenda
          ∧ (a.kind = .immediate → c.t.sameRegs b.thread ∧ b.l1 = c.l1)
          ∧ (a.kind = .ckpt → b.thread.latches = {} ∧ b.thread.flights = [] ∧ b.l1.bytes = keepRanges a.tab.2 false c.l1.bytes))
    ∧ (∀ dl a s1, c.restorable = some (dl, a) → c.t.mode = .idle → c.t.egress = [] → c.protFrozen = false → s.ctxFrozen a.thread.ctx = false →
        a.version = s.imgVersion → s.areaRead c dl a = (a, none, s1) → a.thread.rep.left = 0 →
        ∃ t, exec (.contextRestore cid) s = .next t ∧ (t.coreAt cid).t = { a.thread with mode := .run, ev := true, stop := none }
          ∧ (t.coreAt cid).l1 = a.l1 ∧ t.mem = s1.mem)
    ∧ (∀ die ctx (va : DWord) e log2 s1, s.walk die ctx va.toNat = (.leaf e log2, s1) →
        ∃ t, exec (.pageWalkDone die ctx va) s = .next t ∧ t.cached die ctx va.toNat = some (e, log2) ∧ t.mem = s1.mem
          ∧ t.core = s1.core)
    ∧ (∀ l page x first enc, SMap.find? s.launches l = some x → x.shadowPending.find? (fun p => p.1 == page) = some (page, first, enc) →
        let base := page - page % 2
        let key := if enc = true then some (s.keyNo x.ctx) else none
        (∀ pg s1, s.shadowedByOther (some l) base = false →
          s.makeShadow l (strandOf first) base (if page % 2 = 1 then 21 else 16) key (BitVec.ofNat 64 base) = .ok (some pg, s1) →
          exec (.shadowCopyDone l page) s = .next s1)
        ∧ (s.shadowedByOther (some l) base = true → ∃ t y, exec (.shadowCopyDone l page) s = .next t ∧ SMap.find? t.launches l = some y
          ∧ y = { x with shadowPending := x.shadowPending.filter (fun p => p.1 != page) } ∧ t.mem = s.mem ∧ t.core = s.core))
    ∧ (c.t.hold = some .allocHold → ∃ t, exec (.allocHoldTimeout (.core cid)) s = .next t ∧ (t.coreAt cid).t.hold = none
        ∧ (t.coreAt cid).t.allocFail = true ∧ c.t.sameRegs (t.coreAt cid).t ∧ t.mem = s.mem)
    ∧ (c.t.mode = .idle → 4096 ≤ c.idleCycles → ∃ t, exec (.powerGate cid) s = .next t ∧ (t.coreAt cid).gated = true
        ∧ (t.coreAt cid).t = c.t ∧ (t.coreAt cid).l1 = c.l1 ∧ t.mem = s.mem)

/-! ### The worklist of a launch -/

/-- R109, R113, R115, R117, R122, R124, R126, R128: the steps of the hubs and of the floor keeper of a launch that runs. Two equal waves that
find nothing end it; a proposal, its answers and the commit move the floor; a HOLD pauses every hub until the lowest held bucket is the
floor; a refill gives a spilled task a slot; tasks that a thief asks for leave the giver once it has them; another device is asked.
The steps are read as log 31 says (DEDUCED); a new reach stands at every hub in one step (DESIGN CHOICE, log 70). -/
def Obligations.FloorProtocol : Prop :=
  ∀ (s : State) (l : Nat) (x : Launch), SMap.find? s.launches l = some x → x.works = true →
    let r := x.lrec
    let kept := fun (t : State) => t.mem = s.mem ∧ t.core = s.core ∧ t.parked = s.parked ∧ t.ctxs = s.ctxs
    let tell := fun (t : State) (f : Nat → Instr) => t.agenda = s.agenda ++ r.dies.map f
    (∀ shares,
      let w := s.waveCounts l x shares
      (x.lastWave = some w → waveEmpty w = true → exec (.terminationWave l shares) s = .next (s.endLaunch l .ok none))
      ∧ (x.lastWave = some w → waveEmpty w = false → w.getD 5 0 = 1 →
          exec (.terminationWave l shares) s = .next (s.hubFault l (r.dies.headD 0) .depStuck 0))
      ∧ (x.lastWave ≠ some w → r.multi = false → ∃ t, exec (.terminationWave l shares) s = .next t
          ∧ SMap.find? t.launches l = some { x with lastWave := some w } ∧ t.agenda = s.agenda ++ [.terminationWave l []] ∧ kept t))
    ∧ (∀ p, x.keeper = .rest → p = (r.dies.map (fun d => s.lowestAt l d)).foldl min noBucket → x.kfc < p → p < noBucket →
        ∃ t, exec (.floorPropose l) s = .next t ∧ SMap.find? t.launches l = some { x with keeper := .proposing p, acks := [] }
          ∧ tell t (fun d => .proposeReceive l d p) ∧ kept t)
    ∧ (∀ hub p, ∃ t, exec (.proposeReceive l hub p) s = .next t ∧ t.block l hub = { s.block l hub with guard := p }
          ∧ t.agenda = s.agenda ++ [.proposeAckReceive l hub (s.lowestAt l hub)] ∧ kept t)
    ∧ (∀ hub b p, x.keeper = .proposing p →
        let acks := SMap.insert x.acks hub (b, noBucket)
        (r.dies.all (fun d => (SMap.find? acks d).isSome) = false → ∃ t, exec (.proposeAckReceive l hub b) s = .next t
          ∧ SMap.find? t.launches l = some { x with acks := acks } ∧ t.agenda = s.agenda ∧ kept t)
        ∧ (∀ fc, r.dies.all (fun d => (SMap.find? acks d).isSome) = true → fc = (acks.map (fun a => a.2.1)).foldl min p →
          ∃ t, exec (.proposeAckReceive l hub b) s = .next t ∧ SMap.find? t.launches l = some { x with keeper := .rest, acks := [], kfc := fc }
            ∧ tell t (fun d => .commitReceive l d fc) ∧ kept t))
    ∧ (∀ hub fc,
        let h := s.block l hub
        (∀ q ∈ h.buckets, q.1 < fc + 64) → (∀ k ∈ h.far, fc + 64 ≤ bucketOf r k.key) →
        (∃ t, exec (.commitReceive l hub fc) s = .next t ∧ t.block l hub = { h with fc := fc, guard := max h.guard fc } ∧ kept t)
        ∧ (h.held = [] → h.late = [] → x.groupHold = .none → ∃ t, exec (.resumeReceive l hub fc) s = .next t
            ∧ t.block l hub = { h with fc := fc, guard := fc, paused := false, acked := false } ∧ kept t))
    ∧ (∀ hub, x.keeper ≠ .pausing → r.dies.contains hub = true → ∃ t, exec (.holdReceive l hub) s = .next t
          ∧ SMap.find? t.launches l = some { x with keeper := .pausing, acks := [] } ∧ tell t (fun d => .pauseReceive l d) ∧ kept t)
    ∧ (∀ hub, ∃ t, exec (.pauseReceive l hub) s = .next t ∧ t.block l hub = { s.block l hub with paused := true, acked := true }
          ∧ t.agenda = s.agenda ++ [.pauseAckReceive l hub (s.lowestAt l hub) (((s.block l hub).lowestHeld r).getD noBucket)] ∧ kept t)
    ∧ (∀ hub b b' fc, x.keeper = .pausing →
        let acks := SMap.insert x.acks hub (b, b')
        r.dies.all (fun d => (SMap.find? acks d).isSome) = true → fc = (acks.map (fun a => min a.2.1 a.2.2)).foldl min x.kfc →
        ∃ t, exec (.pauseAckReceive l hub b b') s = .next t ∧ SMap.find? t.launches l = some { x with keeper := .rest, acks := [], kfc := fc }
          ∧ tell t (fun d => .resumeReceive l d fc) ∧ kept t)
    ∧ (∀ hub b k pa handle s1, b ≠ farQueue → (s.block l hub).queue b = [k] → k.page = some pa → 256 < (s.hub hub).free →
        s.takeSlot l hub = some (handle, s1) →
        ∃ t, exec (.bucketRefill l hub b) s = .next t ∧ (t.block l hub).queue b = [{ k with handle := handle, page := none }] ∧ kept t)
    ∧ (∀ v, ∃ t, exec (.reachUpdate l v) s = .next t ∧ (∀ d ∈ r.dies, t.block l d = { s.block l d with reach := v % 64 }) ∧ kept t)
    ∧ (∀ giver thief, s.giverFor l thief = some giver → exec (.stealRequest l thief) s = .next (s.push (.stealRequestReceive l giver thief)))
    ∧ (∀ giver thief b ks, (s.block l giver).gift r (fun _ => true) = some (b, ks) →
        ∃ t, exec (.stealRequestReceive l giver thief) s = .next t ∧ (t.block l giver).giving = (s.block l giver).giving ++ ks.map (fun k => (thief, k))
          ∧ (t.block l giver).popped = (s.block l giver).popped + BitVec.ofNat 32 ks.length ∧ .stealTransferReceive l giver thief ∈ t.agenda ∧ kept t)
    ∧ (∀ giver thief k handle s1, ((s.block l giver).giving.filter (fun q => q.1 == thief)) = [(thief, k)] → (s.hub thief).tight = false →
        ((s.block l thief).queue (bucketOf r k.key)).any (fun q => q.page.isSome) = false → s.takeSlot l thief = some (handle, s1) →
        ∃ t, exec (.stealTransferReceive l giver thief) s = .next t ∧ (t.block l thief).asking = false
          ∧ (t.block l thief).queue (bucketOf r k.key) = (s.block l thief).queue (bucketOf r k.key) ++ [{ k with handle := handle, page := none }]
          ∧ .stealAckReceive l giver thief ∈ t.agenda ∧ kept t)
    ∧ (∀ giver thief, ∃ t, exec (.stealAckReceive l giver thief) s = .next t
          ∧ (t.block l giver).giving = (s.block l giver).giving.filter (fun q => q.1 != thief)
          ∧ (∀ k, (thief, k) ∈ (s.block l giver).giving → SMap.find? (t.hub giver).slots (bits k.handle.toNat 25 14) = none) ∧ kept t)
    ∧ (∀ hub, ∃ t, exec (.stealRetry l hub) s = .next t ∧ t.block l hub = { s.block l hub with asking := false } ∧ kept t)
    ∧ (∀ m, r.multi = true → x.stealFrom = some m → ∃ t, exec (.deviceStealRequest l none) s = .next t
          ∧ SMap.find? t.launches l = some { x with stealFrom := none } ∧ t.outbox = .steal l m :: s.outbox ∧ kept t)

/-! ### The host interface -/

/-- R64 to R79, R109, R175, R177, R197: the steps of the launch controller and of BAR 0 and BAR 2: a valid record is consumed into the lowest
free slot with the status of its checks; a queue is torn after the last re-poll; a launch begins with its first data; it reports and its slot
is free; a doorbell moves TAIL or counts as bad; EN, FROZEN and the registers change as R65 and R66 say, and the MSI-X table of BAR 4 (R63); inbound
accesses are performed, whatever their relaxed-ordering attribute.
The registers are read as logs 38 and 40 say (DEDUCED); the offsets of BAR 4 in a step, and the self-test, are as log 63 says (DESIGN CHOICE). -/
def Obligations.HostSteps : Prop :=
  ∀ (s : State),
    let kept := fun (t : State) => t.mem = s.mem ∧ t.core = s.core ∧ t.parked = s.parked ∧ t.outbox = s.outbox
    (∀ ctx r s1, (s.ctxAt ctx).waiting = true → s.polling ctx = false → s.launches.length < 256 → s.nextQueue = some ctx →
        s.readRecord ctx = (some r, s1) →
        ∃ t x, exec (.launchRecordConsume ctx) s = .next t ∧ SMap.find? t.launches (firstGap 0 s1.launches) = some x ∧ x.ctx = ctx ∧ x.lrec = r
          ∧ x.status = (s1.ctxAt ctx).judge r ∧ (t.ctxAt ctx).qHead = (s1.ctxAt ctx).qHead + 1 ∧ t.mem = s1.mem ∧ t.core = s1.core)
    ∧ (∀ ctx, (s.ctxAt ctx).waiting = false → exec (.recordRepoll ctx) s = .next (s.onCtx ctx fun c => { c with tries := 0 }))
    ∧ (∀ ctx, ctx < 64 → (s.ctxAt ctx).waiting = true → s.launches.length < 256 →
        (∀ r s1, s.readRecord ctx = (some r, s1) → exec (.recordRepoll ctx) s = .next (s1.consume ctx r))
        ∧ (∀ s1, s.readRecord ctx = (none, s1) →
          ((s.ctxAt ctx).tries + 1 < 8 → exec (.recordRepoll ctx) s
            = .next ((s1.onCtx ctx fun c => { c with tries := c.tries + 1 }).push (.recordRepoll ctx)))
          ∧ (8 ≤ (s.ctxAt ctx).tries + 1 → ∃ t, exec (.recordRepoll ctx) s = .next t ∧ (t.ctxAt ctx).qStat = .torn ∧ t.mem = s1.mem)))
    ∧ (∀ l x bs s1, SMap.find? s.launches l = some x → x.phase = .accepted → (s.ctxAt x.ctx).mgmtFrozen = false → (s.ctxAt x.ctx).frozen = false →
        x.first = [] → s.readFirst l x = .ok (bs, s1) → psnOf bs = none →
        ∃ t y, exec (.launchFirstRead l) s = .next t ∧ SMap.find? t.launches l = some y ∧ y.phase = .running ∧ y.first = plain bs
          ∧ y.hubs = x.lrec.dies.map (fun d => (d, { reach := x.lrec.reach }))
          ∧ (x.lrec.task = true → .packetAccept (x.lrec.dies.headD 0) l .first (plain bs) ∈ t.agenda)
          ∧ (x.lrec.task = false → ∀ g < 2 ^ (x.lrec.log2w - x.lrec.glog2w) * 2 ^ (x.lrec.log2h - x.lrec.glog2h), .gangStart l g ∈ t.agenda))
    ∧ (∀ l x s1 y, SMap.find? s.launches l = some x → x.phase = .draining → x.status ≠ .ok → s.draining l x = false →
        x.ctx < 64 → x.reported = 0 → (s.onLaunch l fun x => { x with tEnd := s.dev.devTime, reported := 1 }).reportWrites l x.lrec 0 = .ok s1 →
        SMap.find? s1.launches l = some y →
        s1.reportHeld y = false →
        ∃ t, exec (.launchReport l) s = .next t ∧ t = (s1.tellHost y).freeLaunch l ∧ SMap.find? t.launches l = none)
    ∧ (∀ l x, SMap.find? s.launches l = some x → x.phase = .draining → 64 ≤ x.ctx → exec (.launchReport l) s = .next (s.freeLaunch l))
    ∧ (∀ v m e, s.msix.find? (fun m => m.vector == v && !m.due) = some m → m.expiry = some e → e ≤ s.dev.devTime → s.dev.hostFrozen = false →
        s.unmasked.contains v = true →
        ∃ t, exec (.msixCoalesceExpiry v) s = .next t ∧ t.outbox = .msix v m.covers :: s.outbox
          ∧ t.msix = s.msix.filter (fun m => m.vector != v || m.due) ∧ t.mem = s.mem)
    ∧ (∀ req off len ps bs s1 s2, (h : off / 2 ^ 30 < 64) → s.pcieUp = true → s.dev.hostFrozen = false →
        let w := s.inWins[off / 2 ^ 30]
        w.refuses req (off % 2 ^ 30) false = false →
        s.inPlaces (hostWho w.ctx.toNat) .rd (w.vbase.toNat * 65536 + off % 2 ^ 30) len = .ok (ps, s1) → State.readAll ps s1 = .ok (bs, s2) →
        exec (.inboundRead req off len) s = .next ((s2.unhold .host).emit (.completion req (plain bs) (psnOf bs).isSome)))
    ∧ (∀ req off bytes ro ps s1 s2, (h : off / 2 ^ 30 < 64) → s.pcieUp = true → s.dev.hostFrozen = false →
        let w := s.inWins[off / 2 ^ 30]
        w.refuses req (off % 2 ^ 30) true = false →
        s.inPlaces (hostWho w.ctx.toNat) .w (w.vbase.toNat * 65536 + off % 2 ^ 30) bytes.length = .ok (ps, s1) →
        State.writeAll (hostWho w.ctx.toNat) ps (clean bytes) s1 = .ok ((), s2) →
        exec (.inboundWrite req off ⟨bytes, ro⟩) s = .next (s2.unhold .host))
    ∧ (∀ req off, s.pcieUp = true → s.dev.hostFrozen = false → exec (.inboundAtomicop req off) s = .next (s.emit (.unsupportedRequest req)))
    ∧ (∀ up, exec (.pcieLinkTraining up) s = .next { s with pcieUp := up })
    ∧ (s.hostReaches = true →
      (∀ v, v < 2048 → (s.msix.find? (fun m => m.vector == v && m.due)) = none →
          ∃ t, exec (.msixUnmask v) s = .next t ∧ t.unmasked.contains v = true ∧ t.msix = s.msix ∧ kept t)
      ∧ (∀ ctx (v : Word) ro, ctx < 64 →
          let c := s.ctxAt ctx
          (c.en = true → (v - c.qHead).toNat ≤ 2 ^ c.qLog2.toNat →
            ∃ t, exec (.qtailWrite ctx ⟨v, ro⟩) s = .next t ∧ t.ctxAt ctx = { c with tail := v, qStat := .running } ∧ kept t)
          ∧ (c.en = false ∨ 2 ^ c.qLog2.toNat < (v - c.qHead).toNat →
            ∃ t, exec (.qtailWrite ctx ⟨v, ro⟩) s = .next t ∧ t.ctxAt ctx = { c with dbBad := sat32 c.dbBad } ∧ kept t))
      ∧ (∀ ctx, ctx < 64 → s.dev.devState = 6 →
          let c := s.ctxAt ctx
          (c.en = false → ∃ t, exec (.contextEnable ctx) s = .next t ∧ kept t
            ∧ t.ctxAt ctx = { c with en := true, qHead := 0, tail := 0, tries := 0, qStat := .running, keyGen := c.keyGen + 1 })
          ∧ (c.en = true → ∃ t, exec (.contextDisable ctx) s = .next t ∧ t.ctxAt ctx = { c with en := false, qStat := .disabled, tries := 0 }
            ∧ (∀ l x, SMap.find? s.launches l = some x → x.ctx = ctx → x.phase = .running →
              ∃ y, SMap.find? t.launches l = some y ∧ y.status = .aborted ∧ y.phase = .draining))
          ∧ ∃ t, exec (.contextFrozenClear ctx) s = .next t ∧ t.ctxAt ctx = { c with frozen := false } ∧ kept t)
      ∧ (∀ (v : DWord) ro,
          (∀ off, off % 8 = 0 → off < 2 ^ 25 → exec (.registerWrite off ⟨v, ro⟩) s = .next (s.writeBar0 off v))
          ∧ (∀ k < 2048,
            (∃ t, exec (.registerWrite (2 ^ 25 + 16 * k) ⟨v, ro⟩) s = .next t ∧ Mem.read t.msixTab (16 * k) 8 = leBytes 8 v.toNat
              ∧ t.unmasked = s.unmasked ∧ kept t)
            ∧ (v.getLsbD 32 = true → ∃ t, exec (.registerWrite (2 ^ 25 + 16 * k + 8) ⟨v, ro⟩) s = .next t
              ∧ Mem.read t.msixTab (16 * k + 8) 4 = leBytes 4 v.toNat ∧ t.unmasked.contains k = false ∧ kept t)
            ∧ (v.getLsbD 32 = false → s.msix.find? (fun m => m.vector == k && m.due) = none →
              ∃ t, exec (.registerWrite (2 ^ 25 + 16 * k + 8) ⟨v, ro⟩) s = .next t
              ∧ Mem.read t.msixTab (16 * k + 8) 4 = leBytes 4 v.toNat ∧ t.unmasked.contains k = true ∧ kept t))
          ∧ (∀ off, off % 8 = 0 → 2 ^ 25 + 0x8000 ≤ off → exec (.registerWrite off ⟨v, ro⟩) s = .next s)
          ∧ (∃ t, exec (.registerWrite 0x020 ⟨v, ro⟩) s = .next t ∧ t.dev.groupTab = BitVec.ofNat 64 (v.toNat / 64 * 64) ∧ kept t)
          ∧ (∃ t, exec (.registerWrite 0x018 ⟨v, ro⟩) s = .next t ∧ kept t
            ∧ t.dev.powerCap = if 1200 ≤ v.toNat % 2 ^ 16 ∧ v.toNat % 2 ^ 16 ≤ 3600 then BitVec.ofNat 16 v.toNat else s.dev.powerCap)
          ∧ (∀ c < 64, ∃ t, exec (.registerWrite (0x40008 + 0x100 * c) ⟨v, ro⟩) s = .next t ∧ kept t
            ∧ t.ctxAt c = if (s.ctxAt c).en then s.ctxAt c else { s.ctxAt c with ptRoot := BitVec.ofNat 64 (v.toNat / 4096 * 4096) })
          ∧ (∀ k < 511, ∃ t, exec (.registerWrite (0x60000 + 8 * k) ⟨v, ro⟩) s = .next t ∧ Mem.read t.mailbox (8 * k) 8 = leBytes 8 v.toNat ∧ kept t))
      ∧ (s.dev.invGo = false → ∃ t, exec .invGo s = .next t ∧ t.dev = { s.dev with invGo := true } ∧ t.agenda = s.agenda ++ [.invDone] ∧ kept t)
      ∧ (∀ k (h : k < 8) tail, (∃ t, exec (.poolTailWrite k true tail) s = .next t ∧ t.pools[k] = { s.pools[k] with tail2m := tail } ∧ kept t)
          ∧ ∃ t, exec (.poolTailWrite k false tail) s = .next t ∧ t.pools[k] = { s.pools[k] with tail64 := tail } ∧ kept t)
      ∧ (∀ k (h : k < 89) v, ∃ t, exec (.counterClear (0x10000 + 8 * k) v) s = .next t ∧ t.hops[k] = s.hops[k].clear v ∧ kept t))
    ∧ (s.hostReaches = false → ∀ off v ro, exec (.registerWrite off ⟨v, ro⟩) s = .next s)
    ∧ (s.dev.invGo = true → (∀ c ∈ s.core :: s.parked.map Prod.snd, c.t.translated = []) → ∃ t, exec .invDone s = .next t ∧ t.dev = { s.dev with invGo := false } ∧ kept t
        ∧ (∀ die es, (die, es) ∈ t.tlbs → ∀ e ∈ es, e.ctx = s.dev.invCtx.toNat →
          s.dev.invAll = false ∧ e.vpage ≠ s.dev.invVa.toNat / 2 ^ e.log2))

/-! ### Device memory, pads and fabric -/

/-- R24 to R28, R31 to R36, R39, R144, R147, R149: sectors are read and written with their check symbols; a symbol in error is repaired and
counted, more make the sector uncorrectable; an address that R28 does not give is no place; refresh management and its window; flits are
replayed and counted; a hop is repaired with its spare or at 8 lanes a module; a bad word of a pad is poisoned; errors end launches.
Repairs and errors are read as logs 43, 50, 56 and 64 say (DESIGN CHOICE and DEDUCED). -/
def Obligations.MemoryAndFabric : Prop :=
  ∀ (s : State),
    let kept := fun (t : State) => t.mem = s.mem ∧ t.core = s.core ∧ t.parked = s.parked ∧ t.launches = s.launches ∧ t.dev = s.dev
    let chan := fun (t : State) (g : Nat) => t.chans.toList.getD g {}
    let hop := fun (t : State) (h : Nat) => t.hops.toList.getD h {}
    (∀ pa ctx enc bs n, 2 ^ 40 ≤ pa → exec (.sectorRead ctx enc pa) s = .fault (.noSuchAddress pa)
        ∧ exec (.sectorWrite ctx enc pa bs) s = .fault (.noSuchAddress pa) ∧ exec (.patrolScrub pa) s = .fault (.noSuchAddress pa)
        ∧ exec (.memorySymbolError pa n) s = .fault (.noSuchAddress pa))
    ∧ (∀ pa, pa < 2 ^ 40 →
        let sec := pa / 64
        let g := channelOf (64 * sec)
        let clean' := SMap.find? s.symErr sec = none ∧ SMap.find? s.ue sec = none
        let counted := fun (t : State) => (chan t g).ceCount = sat64 (chan s g).ceCount
        let reported := fun (t : State) => (chan t g).ueCount = sat64 (chan s g).ueCount
        (∀ ctx, clean' → exec (.sectorRead ctx false pa) s = .next (s.activate (pa / 64 * 64)))
        ∧ (∀ ctx, SMap.find? s.symErr sec = some 1 → SMap.find? s.ue sec = none → ∃ t, exec (.sectorRead ctx false pa) s = .next t
            ∧ SMap.find? t.symErr sec = none ∧ SMap.find? t.ue sec = none ∧ counted t ∧ kept t)
        ∧ (∀ ctx n, SMap.find? s.symErr sec = some n → n ≠ 1 → SMap.find? s.ue sec = none → ∃ t, exec (.sectorRead ctx false pa) s = .next t
            ∧ SMap.find? t.ue sec = some .eccUe ∧ reported t ∧ kept t)
        ∧ (∀ ctx o, SMap.find? s.ue sec = some o → ∃ t, exec (.sectorRead ctx false pa) s = .next t ∧ SMap.find? t.ue sec = some o ∧ reported t ∧ kept t)
        ∧ (∀ ctx, clean' → SMap.find? s.enc sec ≠ some (s.keyNo ctx) → exec (.sectorRead ctx true pa) s
            = .next (((s.activate (pa / 64 * 64)).onChan (channelOf (pa / 64 * 64)) fun c => { c with tagCount := sat64 c.tagCount }).tagFault
                ⟨s.keyNo ctx % 64, memoryDie (pa / 64 * 64)⟩ none (BitVec.ofNat 64 pa)))
        ∧ (∀ ctx bytes, clean' → SMap.find? s.enc sec = none → bytes ≠ [] → pa % 64 + bytes.length ≤ 64 →
            ∃ t, exec (.sectorWrite ctx false pa bytes) s = .next t ∧ (∀ i (h : i < bytes.length), Mem.get t.mem (pa + i) = bytes[i])
              ∧ (∀ p, p < pa ∨ pa + bytes.length ≤ p → Mem.get t.mem p = Mem.get s.mem p) ∧ t.core = s.core ∧ t.parked = s.parked)
        ∧ (∀ ctx bytes o, SMap.find? s.ue sec = some o → bytes ≠ [] → pa % 64 + bytes.length ≤ 64 →
            ∃ t, exec (.sectorWrite ctx false pa bytes) s = .next t ∧ t.mem = Mem.write s.mem pa bytes
              ∧ SMap.find? t.ue sec = if bytes.length = 64 then none else some o)
        ∧ (SMap.find? s.symErr sec = some 1 → SMap.find? s.ue sec = none → ∃ t, exec (.patrolScrub pa) s = .next t
            ∧ SMap.find? t.symErr sec = none ∧ SMap.find? t.ue sec = none ∧ counted t ∧ kept t)
        ∧ (∀ n, n ≠ 1 → SMap.find? s.symErr sec = some n → SMap.find? s.ue sec = none → ∃ t, exec (.patrolScrub pa) s = .next t
            ∧ SMap.find? t.ue sec = some .eccUe ∧ reported t ∧ kept t)
        ∧ (clean' → ∃ t, exec (.patrolScrub pa) s = .next t ∧ t.symErr = s.symErr ∧ t.ue = s.ue ∧ kept t)
        ∧ (∀ n, n ≠ 0 → ∃ t, exec (.memorySymbolError pa n) s = .next t ∧ SMap.find? t.symErr sec = some (n + SMap.getD s.symErr sec 0) ∧ kept t))
    ∧ (∀ g, g < 128 → let c := chan s g
        (∀ row, ∃ t, exec (.refreshManagement g row) s = .next t ∧ kept t ∧ chan t g = { c with
          rfmCount := sat64 c.rfmCount, rows := SMap.erase c.rows row, refreshing := some row })
        ∧ (∃ t, exec (.refreshManagementDone g) s = .next t ∧ chan t g = { c with refreshing := none } ∧ kept t)
        ∧ ∃ t, exec (.refreshWindowEnd g) s = .next t ∧ chan t g = { c with actMax := 0, rows := [] } ∧ kept t
          ∧ (∀ row, .refreshManagement g row ∉ t.agenda))
    ∧ (∀ h, h < 89 → let x := hop s h
        let free := s.repairing = false ∧ s.repairs = []
        (∃ t, exec (.flitReplay h) s = .next t ∧ hop t h = { x with retryCnt := satInc16 x.retryCnt, crcCnt := satInc16 x.crcCnt, window := x.window + 1 }
          ∧ kept t)
        ∧ (∃ t, exec (.retryWindowEnd h) s = .next t ∧ (hop t h).winRetry = BitVec.ofNat 8 (min 255 x.window) ∧ (hop t h).window = 0 ∧ kept t
          ∧ (min 255 x.window ≤ s.repairThr → (hop t h).state = x.state ∧ t.repairs = s.repairs)
          ∧ (s.repairThr < min 255 x.window → x.state = .up ∨ x.state = .degraded → free → (hop t h).state = .paused
            ∧ .hopRepair h (Config.repairable s.tick) ∈ t.agenda)
          ∧ (s.repairThr < min 255 x.window → x.state ≠ .down → s.repairing = true → (∀ r ∈ s.repairs, r.2.1 ≠ h) →
            (hop t h).state = x.state ∧ t.repairs = placeRepair (s.dev.devTime.toNat, h, false) s.repairs))
        ∧ (x.state ≠ .down → x.state ≠ .retraining → x.state = .paused ∨ s.repairing = false →
          (∃ t, exec (.hopRepair h true) s = .next t ∧ (hop t h).spareUsed = true ∧ (hop t h).state = .retraining ∧ .hopRepairResume h ∈ t.agenda ∧ kept t
            ∧ (hop t h).modsX8 = if x.spareUsed then BitVec.ofNat 4 (min (min 15 (hopModules h)) (x.modsX8.toNat + 1)) else x.modsX8)
          ∧ ((∀ i < 89, i ≠ h → ringOf i = ringOf h → (hop s i).state ≠ .down) → s.repairs = [] →
            ∃ t, exec (.hopRepair h false) s = .next t ∧ (hop t h).state = .down ∧ kept t))
        ∧ (x.state = .retraining → s.repairs = [] → ∃ t, exec (.hopRepairResume h) s = .next t ∧ kept t
          ∧ hop t h = { x with state := if x.modsX8 = 0 then .up else .degraded })
        ∧ (∀ tm i retrain rest, x.state = .retraining → s.repairs = (tm, i, retrain) :: rest → i < 89 → i ≠ h →
          (∀ k < 89, k ≠ h → (hop s k).state ≠ .paused ∧ (hop s k).state ≠ .retraining) →
          ∃ t, exec (.hopRepairResume h) s = .next t ∧ kept t ∧ t.repairs = rest ∧ (hop t i).state = if retrain then .retraining else .paused))
    ∧ (∀ d, d < 64 → let p := s.port d
        (∃ t, exec (.xogusFlitReplay d) s = .next t ∧ (t.port d).link = p.link.replayed ∧ (t.port d).line = p.line ∧ kept t)
        ∧ (∃ t, exec (.retryWindowEnd (89 + d)) s = .next t ∧ (t.port d).link = p.link.endWindow ∧ kept t)
        ∧ (∃ t, exec (.portRetrain d true) s = .next t ∧ (t.port d).lanes2 = true ∧ (t.port d).link.state = .degraded ∧ kept t)
        ∧ ∃ t, exec (.portRetrain d false) s = .next t ∧ (t.port d).link.state = .down ∧ kept t)
    ∧ (∀ off n k, 2 ≤ n →
        (∃ t, exec (.padSoftError (.l1 k) off n) s = .next t ∧ SMap.find? (t.coreAt k).l1.psn (off / 8) = some .softError
          ∧ (t.coreAt k).l1.bytes = (s.coreAt k).l1.bytes ∧ (t.coreAt k).t = (s.coreAt k).t)
        ∧ (∃ t, exec (.padSoftError (.l2 k) off n) s = .next t ∧ SMap.find? (t.l2At k).psn (off / 8) = some .softError ∧ kept t)
        ∧ (∃ t, exec (.padSoftError (.l3 k) off n) s = .next t ∧ SMap.find? (t.l3At k).psn (off / 8) = some .softError ∧ kept t)
        ∧ (∃ t, exec (.padSoftError (.wbuf k) off n) s = .next t ∧ SMap.find? (t.coreAt k).t.wbufPsn (off / 8) = some .softError)
        ∧ ∃ t, exec (.padSoftError (.code k) off n) s = .next t ∧ SMap.find? (t.coreAt k).t.codePsn (off / 8) = some .softError)
    ∧ (∀ pad off n, n < 2 → exec (.padSoftError pad off n) s = .next s)
    ∧ (∀ die l x, SMap.find? s.launches l = some x → x.phase = .running →
        (x.lrec.recov = true → x.replayable = true → x.replays < 2 → ∃ t y, exec (.hubSoftError die l) s = .next t
          ∧ SMap.find? t.launches l = some y ∧ y.phase = .accepted ∧ y.replays = x.replays + 1 ∧ .launchFirstRead l ∈ t.agenda ∧ t.mem = s.mem)
        ∧ (x.lrec.recov = false ∨ x.replayable = false ∨ 2 ≤ x.replays → ∃ t y, exec (.hubSoftError die l) s = .next t
          ∧ SMap.find? t.launches l = some y ∧ y.phase = .draining ∧ y.status = .faulted ∧ t.mem = s.mem))
    ∧ (∀ chiplet, ∃ t, exec (.uncorrectableFabricError chiplet) s = .next t ∧ t.mem = s.mem
        ∧ (s.faultLog.length < 1024 → ∃ r, t.faultLog = s.faultLog ++ [r] ∧ r.cause = .device ∧ r.chiplet = chiplet)
        ∧ (∀ l x, SMap.find? s.launches l = some x → x.phase = .running →
          ∃ y, SMap.find? t.launches l = some y ∧ y.phase = .draining ∧ y.status = .faulted))

/-! ### The side-band port, power and bring-up -/

/-- R37, R38, R80 to R84, R130: the commands of the side-band port and what they leave: telemetry, blocks of BAR 0, quotes and fault records
are answered; a freeze stops the host interface or a context and a release lets it go on; firmware is staged and, when it is authentic and
no older than the minimum version, committed; bring-up goes stage by stage to DEV_STATE 6, or to 7 with its code; the power cap and the
temperature move the clocks; the loss of power leaves only the firmware.
What a reset and a power loss keep, what bring-up leaves and what its self-test is, is read as logs 44 and 63 say (DEDUCED, PRESUMED and DESIGN
CHOICE). -/
def Obligations.ManagementSteps : Prop :=
  ∀ (s : State),
    let kept := fun (t : State) => t.mem = s.mem ∧ t.core = s.core ∧ t.parked = s.parked ∧ t.launches = s.launches
    (exec .telemetry s = .next (s.emit (.telemetry (Config.power s.tick) ((List.range 81).map (Config.temperature s.tick)) s.dev.powerCap s.dev.devState)))
    ∧ (∀ off, exec (.readBlock off) s = .next (s.emit (.block ((List.range 8).flatMap (fun k => leBytes 8 (s.bar0 (off / 64 * 64 + 8 * k)))))))
    ∧ (∀ nonce, exec (.attest nonce) s = .next (s.emit (.quote (Config.quote nonce s.measurements))))
    ∧ (s.hostReaches = true → ∃ t, exec .attestMailboxStart s = .next t ∧ kept t
        ∧ (let q := (Config.quote (Mem.read s.mailbox 0 32) s.measurements).take 0xEF8
           Mem.read t.mailbox 0x100 q.length = q)
        ∧ (∀ p < 0x100, Mem.get t.mailbox p = Mem.get s.mailbox p))
    ∧ (s.faultLog = [] → exec .faultLog s = .next (s.emit (.faultRecord none)))
    ∧ (∀ r rest, s.faultLog = r :: rest → ∃ t, exec .faultLog s = .next t ∧ t.faultLog = rest ∧ t.outbox = .faultRecord (some r) :: s.outbox
        ∧ t.mem = s.mem ∧ (∀ cid, r.frozenCid = some cid → (s.coreAt cid).t.mode ≠ .stopping → (t.coreAt cid).t = {} ∧ (t.coreAt cid).protFrozen = false
          ∧ (t.coreAt cid).cseq = (s.coreAt cid).cseq))
    ∧ (∃ t, exec (.freeze none) s = .next t ∧ t.dev = { s.dev with hostFrozen := true } ∧ kept t)
    ∧ (∀ ctx, ctx < 64 →
        exec (.freeze (some ctx)) s
          = .next ((s.runners ctx).foldl (fun s c => s.requestStop c .freeze) (s.onCtx ctx fun c => { c with mgmtFrozen := true }))
        ∧ (s.runners ctx = [] → ∃ t, exec (.freeze (some ctx)) s = .next t ∧ t.ctxAt ctx = { s.ctxAt ctx with mgmtFrozen := true } ∧ kept t)
        ∧ ∃ t, exec (.release (some ctx)) s = .next t ∧ t.ctxAt ctx = { s.ctxAt ctx with mgmtFrozen := false } ∧ kept t)
    ∧ (∃ t, exec (.release none) s = .next t ∧ t.dev.hostFrozen = false ∧ t.heldNotes = [] ∧ t.waitingReports = [] ∧ t.mem = s.mem
        ∧ ∀ n ∈ s.heldNotes, .notify n.1 n.2 ∈ t.outbox)
    ∧ (∃ t, exec .reset s = .next t ∧ t.dev.devState = 0 ∧ t.dev.hostFrozen = s.dev.hostFrozen ∧ t.mem = s.mem
        ∧ (∀ c < 64, (t.ctxAt c).en = false ∧ (t.ctxAt c).waiting = false)
        ∧ ∀ l x, SMap.find? s.launches l = some x → x.ctx < 64 → x.phase = .running →
          ∃ y, SMap.find? t.launches l = some y ∧ y.phase = .draining ∧ y.status = .aborted)
    ∧ (∀ n, let win := fun (h : Nat) => (s.hops.toList.getD h {}).winRetry.toNat
        ((∀ h < 89, win h ≤ n) → exec (.linkService (.setThreshold n)) s = .next { s with repairThr := n })
        ∧ (∀ h < 89, n < win h → (∀ i < 89, i ≠ h → win i ≤ n) → s.repairing = false → s.repairs = [] →
          (s.hops.toList.getD h {}).state = .up ∨ (s.hops.toList.getD h {}).state = .degraded →
          ∃ t, exec (.linkService (.setThreshold n)) s = .next t ∧ t.repairThr = n ∧ (t.hops.toList.getD h {}).state = .paused
            ∧ .hopRepair h (Config.repairable s.tick) ∈ t.agenda ∧ kept t))
    ∧ (∀ h, h < 89 →
        let x := s.hops.toList.getD h {}
        (x.state = .up ∨ x.state = .degraded → s.repairing = false → s.repairs = [] → ∃ t, exec (.linkService (.retrainHop h)) s = .next t
          ∧ t.agenda = s.agenda ++ [.hopRepairResume h] ∧ t.hops.toList.getD h {} = { x with state := .retraining } ∧ kept t)
        ∧ ((∀ i < 89, i ≠ h → ringOf i = ringOf h → (s.hops.toList.getD i {}).state ≠ .down) → s.repairs = [] →
          ∃ t, exec (.linkService (.disableHop h)) s = .next t ∧ t.hops.toList.getD h {} = { x with state := .down } ∧ kept t))
    ∧ (∀ d, d < 64 → ∃ t, exec (.linkService (.retrainPort d)) s = .next t ∧ (t.port d).link.state = .retraining ∧ kept t)
    ∧ (∀ d, d < 64 → ∃ t, exec (.linkService (.disablePort d)) s = .next t ∧ (t.port d).link.state = .down ∧ kept t)
    ∧ (∀ bs, ∃ t, exec (.fwUpdate (.piece bs)) s = .next t ∧ t.fwStaged = s.fwStaged ++ bs ∧ t.fwImages = s.fwImages ∧ kept t)
    ∧ (∀ sig version,
        let good := Config.fwAuthentic s.fwStaged sig && decide (max s.fwMin Config.fwMinVersion ≤ version)
        ∃ t, exec (.fwUpdate (.commit sig version)) s = .next t ∧ t.fwStaged = [] ∧ kept t
          ∧ t.fwImages = s.fwImages ++ (if good then [s.fwStaged] else []) ∧ t.fwMin = (if good then version else s.fwMin)
          ∧ t.imgVersion = (if good then Config.imageVersion s.fwStaged else s.imgVersion))
    ∧ (∀ n : Nat, s.dev.devState = BitVec.ofNat 4 n → n < 6 →
        ((n ≠ 0 ∨ ∀ x ∈ s.launches, x.2.phase = .heldReport) → (n ≠ 5 ∨ ∃ x ∈ s.launches, x.2.phase = .running) → ∃ t, exec (.bringUpStageDone true) s = .next t ∧ t.dev.devState = BitVec.ofNat 4 (n + 1)
          ∧ (n = 3 → t.mem = [] ∧ t.ue = [] ∧ t.symErr = []) ∧ (n ≠ 3 → n ≠ 5 → t.mem = s.mem) ∧ (n = 5 → Mem.read t.mem 0 4 = [0, 0, 0, 0])
           ∧ (n = 0 ∨ n = 5 → t.core = Core.reset s.core.cid ∧ t.parked = []) ∧ (n = 5 → t.launches = [])
           ∧ (n = 4 → t.launches = [(0, selfTestLaunch s.nextId)] ∧ ∀ c < 1024, (t.coreAt c).t.mode = .loading))
        ∧ (n ≠ 0 → ∃ t, exec (.bringUpStageDone false) s = .next t ∧ t.dev.devState = 7 ∧ t.dev.failCode = BitVec.ofNat 8 n ∧ t.mem = s.mem
          ∧ (n ≠ 5 → kept t))
        ∧ (n = 5 → (∀ x ∈ s.launches, x.2.phase ≠ .running) →
          ∃ t, exec (.bringUpStageDone true) s = .next t ∧ t.dev.devState = 7 ∧ t.dev.failCode = 5 ∧ t.mem = s.mem))
    ∧ (∀ w, (s.dev.powerCap.toNat < w → exec (.powerCapWindow w) s = .next { s with clockSteps := max 1 (s.clockSteps - 1) })
        ∧ (w ≤ s.dev.powerCap.toNat → exec (.powerCapWindow w) s = .next { s with clockSteps := min 16 (s.clockSteps + 1) }))
    ∧ exec .thermalThrottle s = .next { s with clockSteps := max 1 (s.clockSteps - 1) }
    ∧ (∃ t, exec .thermalShutdown s = .next t ∧ t.mem = s.mem ∧ ∀ l x, SMap.find? s.launches l = some x → x.phase = .running →
        ∃ y, SMap.find? t.launches l = some y ∧ y.phase = .draining ∧ y.status = .faulted ∧ y.cause = x.cause.or (some .device))
    ∧ (∃ t, exec .modulePowerLoss s = .next t ∧ t.powered = false ∧ t.fwImages = s.fwImages ∧ t.fwMin = s.fwMin ∧ t.launches = [] ∧ t.mem = [])
    ∧ (s.powered = false → ∃ t, exec .powerOn s = .next t ∧ t.powered = true ∧ t.dev.devState = 0 ∧ t.fwImages = s.fwImages ∧ t.launches = [])

/-! ### Groups of devices -/

/-- R42, R45, R47 to R61: the steps of a group: a slot is armed, takes each member's contribution once, adds what is staged, closes and signals, or
journals first; a larger view closes the slots of older ones and is followed by the routes and the queue pairs; snapshots and journals reach the buddy;
the transport serves the expected packet, acknowledges an earlier one, answers an earlier read request again, answers NAK to a later one and resends
what is not acknowledged, but for what a pause holds back; task packets leave against credits; pauses and links. A step finds a slot's pad zeroed first
if another context used it (R161). Each clause says of one step, on conditions on the state and the operands, that it answers a next state, and
which. Slots, views and transport are read as logs 45 to 47 and 65 to 67 say (DEDUCED, and DESIGN CHOICE where they say so). -/
def Obligations.CollectiveSteps : Prop :=
  ∀ (s : State),
    let kept := fun (t : State) => t.mem = s.mem ∧ t.core = s.core ∧ t.parked = s.parked ∧ t.launches = s.launches
    -- R55: arming and disarming
    (∀ die k, k < 64 →
      let u := s.atSlots die
      let p := u.l3At die
      (p.slotState k = 0 → SMap.find? s.catchUp (p.slotGroup k) = none →
        ∃ t, exec (.slotArm die k) s = .next t ∧ (t.l3At die).slotState k = (if p.slotBad k then 5 else 1) ∧ (t.l3At die).slotWord k 6 = 0
          ∧ (p.slotBad k = false → p.slotDeadline k ≠ 0 → .slotDeadline die k ∈ t.agenda) ∧ kept t)
      ∧ (p.slotState k = 1 → ∃ t, exec (.slotDisarm die k) s = .next t ∧ (t.l3At die).slotState k = 0 ∧ kept t)
      ∧ (p.slotState k ≠ 1 → exec (.slotDisarm die k) s = .next u))
    -- R58: the deadline, and the end of a close that has been journalled
    ∧ (∀ die k,
      let u := s.atSlots die
      let p := u.l3At die
      let e := p.slotGroup k
      let j := u.jstate e
      (p.slotState k ≠ 1 ∨ p.slotDeadline k = 0 → exec (.slotDeadline die k) s = .next u)
      ∧ (p.slotState k = 1 → p.slotDeadline k ≠ 0 →
        (p.slotDeadline k ≤ s.dev.devTime.toNat → exec (.slotDeadline die k) s = .next (u.closeSlot die k 4)
          ∧ ((u.port die).staged.find? (fun c => c.slot == k) = none → p.slotJournal k = false → k < 64 → exec (.slotDeadline die k) s
            = .next (((u.markOrdered die k).onL3 die fun q => q.setSlotState k 4).slotRaise die k)))
        ∧ (s.dev.devTime.toNat < p.slotDeadline k → exec (.slotDeadline die k) s = .next (u.push (.slotDeadline die k))))
      ∧ exec (.journalAppendAck die k) s = .next (({ j.2.2 with appends := SMap.insert j.2.2.appends e (SMap.getD j.2.2.appends e 0 - 1) }.setJournal
          e j.1 (j.2.1 + 1)).slotRaise die k))
    -- R53, R54, R56, R57: a contribution that arrives
    ∧ (∀ port con,
        let v := s.viewOf con.group
        let mine := s.isLocal con
        let u := v.2.atSlots con.die
        let p := u.l3At con.die
        (con.view < v.1 → exec (.contributionStaged port con) s
          = .next ((if mine then v.2 else v.2.staleCon port con).answer mine con.sender con.lslot con.ack Fate.staleView))
        ∧ (v.1 ≤ con.view → p.slotState con.slot ≠ 1 → exec (.contributionStaged port con) s
          = .next (u.dropCon con mine (if 2 ≤ p.slotState con.slot ∧ p.slotState con.slot ≤ 4 then Fate.closed else Fate.notArmed)))
        ∧ (v.1 ≤ con.view → p.slotState con.slot = 1 → p.slotDeadline con.slot = 0 ∨ u.dev.devTime.toNat < p.slotDeadline con.slot →
          (con.view.toNat ≠ p.slotView con.slot → exec (.contributionStaged port con) s = .next (u.dropCon con mine Fate.staleView))
          ∧ (∀ l w bs s1, con.view.toNat = p.slotView con.slot → u.slotWho con.die con.slot = some (l, w) →
              u.readVa w (p.slotMask con.slot + con.sender / 4) 1 = .ok (bs, s1) →
              let sh := 2 * (con.sender % 4)
              let old := leNat (plain bs)
              let entry := bits old (sh + 1) sh
              let whole := con.count = p.slotElems con.slot ∧ con.type = p.slotType con.slot
              (entry = 3 → exec (.contributionStaged port con) s = .next ((s1.unhold (.launch l)).dropCon con mine Fate.staleView))
              ∧ (entry = 1 ∨ entry = 2 → exec (.contributionStaged port con) s = .next ((s1.unhold (.launch l)).dropCon con mine Fate.duplicate))
              ∧ (∀ s2, entry = 0 → whole → con.poison = false →
                  s1.writeVa w (p.slotMask con.slot + con.sender / 4) (clean (leBytes 1 (old + 1 * 2 ^ sh))) = .ok ((), s2) →
                  let s3 := (((s2.unhold (.launch l)).onL3 con.die fun p => p.slotAdded con.slot).onPort con.die
                    fun q => { q with staged := q.staged ++ [con] }).push (.contributionAdd con.die)
                  let w6 := (s3.l3At con.die).slotWord con.slot 6
                  exec (.contributionStaged port con) s
                    = .next (if bits w6 63 32 + bits w6 31 0 ≥ (s3.l3At con.die).slotExpected con.slot then s3.closeSlot con.die con.slot 2 else s3))
              ∧ (∀ s2, entry = 0 → ¬ (whole ∧ con.poison = false) →
                  s1.writeVa w (p.slotMask con.slot + con.sender / 4) (clean (leBytes 1 (old + 2 * 2 ^ sh))) = .ok ((), s2) →
                  let s3 := ((s2.unhold (.launch l)).onL3 con.die fun p => p.slotPoisoned con.slot).answer mine con.sender con.lslot con.ack
                    (if con.count = p.slotElems con.slot ∧ con.type = p.slotType con.slot then Fate.poison else Fate.badSize)
                  let w6 := (s3.l3At con.die).slotWord con.slot 6
                  exec (.contributionStaged port con) s
                    = .next (if bits w6 63 32 + bits w6 31 0 ≥ (s3.l3At con.die).slotExpected con.slot then s3.closeSlot con.die con.slot 2 else s3)))))
    ∧ (∀ die con rest, die < 64 → (s.port die).staged = con :: rest →
        let s1 := (s.onPort die fun q => { q with staged := rest }).onL3 die fun q => q.addContribution con
        exec (.contributionAdd die) s = .next (s1.answer (s1.isLocal con) con.sender con.lslot con.ack Fate.ok) ∧ kept s1)
    ∧ (∀ die, (s.port die).staged = [] → exec (.contributionAdd die) s = .next s)
    -- R52, R59, R60: the buddy's side
    ∧ (∀ e entry,
        let b := SMap.getD s.buddies e {}
        let before := b.journal.foldl (fun n x => n + x.length) 0
        (b.overflowed = false → b.journal.length < 64 → before + entry.length ≤ 2 ^ 32 → exec (.journalAppend e entry) s
          = .next ({ s with buddies := SMap.insert s.buddies e { b with journal := b.journal ++ [entry] } }.layJournal e before entry))
        ∧ (b.overflowed = true ∨ 64 ≤ b.journal.length ∨ 2 ^ 32 < before + entry.length → exec (.journalAppend e entry) s
          = .next { s with buddies := SMap.insert s.buddies e { b with overflowed := true } }))
    ∧ (∀ e bs, exec (.snapshotComplete e (some bs)) s
        = .next { s with buddies := SMap.insert s.buddies e { snapshot := bs, journal := [], overflowed := false } })
    -- R52, R59: this device's snapshot
    ∧ (∀ e,
        let go := s.groupWord e 7
        let q := go.2.groupWord e 5
        (go.1.val.getLsbD 0 = true → exec (.snapshotComplete e none) s
          = .next { ((q.2.setGroupWord e 5 (q.1.val + 1)).setJournal e 0 0).setGroupWord e 7 0 with snaps := SMap.erase s.snaps e })
        ∧ (go.1.val.getLsbD 0 = false → exec (.snapshotComplete e none) s = .next go.2))
    ∧ (∀ e,
        let s0 := s.setGroupWord e 7 1
        (s.dev.groupTab = 0 → exec (.snapGo e) s = .next s)
        ∧ (s.dev.groupTab ≠ 0 → s0.snapWho e = none → exec (.snapGo e) s = .next s0)
        ∧ (∀ l w, s.dev.groupTab ≠ 0 → s0.snapWho e = some (l, w) →
          let b := s0.buddyLine e w.ctx
          let j := b.2.jstate e
          let tab := b.2.groupWord e 3
          let rs := tab.2.mirrorRegions tab.1.val.toNat
          (b.1 = none → exec (.snapGo e) s = .next (j.2.2.setJournal e 2 j.2.1))
          ∧ (∀ line ds s1, b.1 = some line → State.readRegions w rs.1 rs.2 = .ok (ds, s1) → exec (.snapGo e) s
            = .next (ds.foldl (fun (s : State) d => (s.emit (.mirror e d.1 d.2)).carry line d.2) (s1.unhold (.launch l))))))
    -- R45, R48, R53, R58, R61: a view
    ∧ (∀ e view,
        let r := s.groupWord e 0
        let s1 := r.2.setGroupWord e 0 (putBits r.1.val 63 32 view.toNat)
        (r.2.dev.groupTab = 0 ∨ 16 ≤ e ∨ view.toNat ≤ bits r.1.val.toNat 63 32 → exec (.viewInstall e view) s = .next r.2)
        ∧ (r.2.dev.groupTab ≠ 0 → e < 16 → bits r.1.val.toNat 63 32 < view.toNat →
          ((∀ d ∈ s1.l3, ∀ k < 64, d.2.slotState k = 1 → d.2.slotGroup k = e → view.toNat ≤ d.2.slotView k) → exec (.viewInstall e view) s
            = .next ((s1.rebind.spareRoute e).joinView e))
          ∧ (∀ die p k, s1.l3 = [(die, p)] → k < 64 → p.slotState k = 1 → p.slotGroup k = e → p.slotView k < view.toNat →
              (∀ i < 64, i ≠ k → p.slotState i ≠ 1) → p.slotDeadline k = 0 ∨ s1.dev.devTime.toNat < p.slotDeadline k → exec (.viewInstall e view) s
              = .next (((s1.closeSlot die k 3).rebind.spareRoute e).joinView e))))
    -- R47 to R51: the transport
    ∧ (∀ qp q psn ce, SMap.find? s.qps qp = some q →
        let s0 := fun (n : Nat) => if q.counted = some psn then s.onQp qp (fun q => { q with counted := none }) else s.countRx qp q ce n
        let ahead := (psn + 2 ^ 24 - q.rxPsn.toNat) % 2 ^ 24
        let pieces := fun (con : Contribution) => (mtuPieces (con.elems.length / 4096 + 1) con.elems).length
        (ahead = 0 →
          (∀ key va bytes k,
            let m := (s0 1).keyFor key
            bytes.length ≤ 4096 →
            (m.1 = some k → k.covers va bytes.length true = true → ∀ ps s1 s2, m.2.inPlaces (hostWho k.ctx) .w va.toNat bytes.length = .ok (ps, s1) →
              State.writeAll (hostWho k.ctx) ps (clean bytes) s1 = .ok ((), s2) →
              exec (.isaledinWriteRx qp psn ce key va bytes) s = .next ((s2.unhold .host).rdmaTaken qp psn 1))
            ∧ (m.1 = none ∨ m.1 = some k ∧ k.covers va bytes.length true = false →
              exec (.isaledinWriteRx qp psn ce key va bytes) s = .next (m.2.ackRdma qp psn true)))
          ∧ (∀ key va len k,
            let m := (s0 1).keyFor key
            (m.1 = some k → k.covers va len false = true → ∀ ps s1 bs s2, m.2.inPlaces (hostWho k.ctx) .rd va.toNat len = .ok (ps, s1) →
              State.readAll ps s1 = .ok (bs, s2) →
              let out := mtuPieces ((plain bs).length / 4096 + 1) (plain bs)
              exec (.isaledinReadRequestRx qp psn ce key va len) s
                = .next ((out.zipIdx.foldl (fun (s : State) p => s.offer qp (.response ((psn + p.2) % 2 ^ 24) p.1)) (s2.unhold .host)).onQp qp
                    fun q => { q with rxPsn := q.rxPsn + BitVec.ofNat 24 out.length }))
            ∧ (m.1 = none ∨ m.1 = some k ∧ k.covers va len false = false →
              exec (.isaledinReadRequestRx qp psn ce key va len) s = .next (m.2.ackRdma qp psn true)))
          ∧ (∀ con, exec (.isaledinReduceRx qp psn ce con) s
            = .next (((s0 (pieces con)).rdmaTaken qp psn (pieces con)).push (.contributionStaged (64 + q.port) con)))
          ∧ (∀ hdr pkt, pkt.length ≤ 4096 →
            exec (.isaledinEnqueueRx qp psn ce hdr pkt) s = .next (((s0 1).rdmaTaken qp psn 1).packetIn (64 + qp) hdr pkt)))
        ∧ (ahead ≠ 0 →
          let answer := fun (n : Nat) => if ahead < 2 ^ 23 then (s0 n).ackRdma qp q.rxPsn.toNat true else (s0 n).ackRdma qp psn false
          (∀ key va bytes, bytes.length ≤ 4096 → exec (.isaledinWriteRx qp psn ce key va bytes) s = .next (answer 1))
          ∧ (∀ key va len, ahead < 2 ^ 23 → exec (.isaledinReadRequestRx qp psn ce key va len) s = .next (answer 1))
          ∧ (∀ key va len k, 2 ^ 23 ≤ ahead →
            let m := (s0 1).keyFor key
            (m.1 = some k → k.covers va len false = true → ∀ ps s1 bs s2, m.2.inPlaces (hostWho k.ctx) .rd va.toNat len = .ok (ps, s1) →
              State.readAll ps s1 = .ok (bs, s2) →
              let out := mtuPieces ((plain bs).length / 4096 + 1) (plain bs)
              exec (.isaledinReadRequestRx qp psn ce key va len) s
                = .next (out.zipIdx.foldl (fun (s : State) p => s.offer qp (.response ((psn + p.2) % 2 ^ 24) p.1)) (s2.unhold .host)))
            ∧ (m.1 = none ∨ m.1 = some k ∧ k.covers va len false = false →
              exec (.isaledinReadRequestRx qp psn ce key va len) s = .next (m.2.ackRdma qp psn true)))
          ∧ (∀ con, exec (.isaledinReduceRx qp psn ce con) s = .next (answer (pieces con)))
          ∧ (∀ hdr pkt, pkt.length ≤ 4096 → exec (.isaledinEnqueueRx qp psn ce hdr pkt) s = .next (answer 1)))
        ∧ (∀ key va bytes, 4096 < bytes.length → exec (.isaledinWriteRx qp psn ce key va bytes) s = .next (s.unsupported q.port))
        ∧ (∀ bytes, bytes.length ≤ 4096 → exec (.isaledinReadResponseRx qp psn ce bytes) s = .next ((s0 1).onQp qp fun q => q.acked psn))
        ∧ exec (.isaledinAckRx qp psn ce false) s = .next ((s0 1).onQp qp fun q => q.acked psn)
        ∧ exec (.isaledinAckRx qp psn ce true) s = .next (((s0 1).onQp qp fun q => q.acked ((psn + 2 ^ 24 - 1) % 2 ^ 24)).resend qp)
        ∧ (s.pausedQp q = true → exec (.isaledinRetransmitTimeout qp) s
            = .next (s.onQp qp fun q => { q with unsent := q.unsent.filter (fun m => !m.isRequest) ++ q.unacked.map (fun p => .request p.1 p.2) }))
        ∧ (s.pausedQp q = false → ∃ t, exec (.isaledinRetransmitTimeout qp) s = .next t ∧ SMap.find? t.qps qp = some q ∧ kept t
          ∧ t.outbox = (q.unacked.map (fun p => Output.rdma qp p.1 q.hdr p.2)).reverse ++ s.outbox))
    ∧ (∀ p, p < 2 → let e := s.eths.toList.getD p {}
        (∃ t, exec (.isaledinUnsupportedRx p) s = .next t ∧ kept t
          ∧ t.eths.toList.getD p {} = { e with rxPkts := sat64 e.rxPkts, unsupp := sat32 e.unsupp })
        ∧ (∀ up, ∃ t, exec (.ethLinkChange p up) s = .next t ∧ t.eths.toList.getD p {} = { e with up := up } ∧ kept t)
        ∧ (∀ prio, prio < 4 →
          (∃ t, exec (.pfcPauseRx p prio true) s = .next t ∧ kept t ∧ t.qps = s.qps ∧ (t.eths.toList.getD p {}).pfcRx = sat32 e.pfcRx
            ∧ (Config.pfcEnabled p prio = true → (t.eths.toList.getD p {}).paused.getLsbD prio = true)
            ∧ (Config.pfcEnabled p prio = false → (t.eths.toList.getD p {}).paused = e.paused))
          ∧ (∀ n q, s.qps = [(n, q)] → q.port = p → q.prio = prio → ∃ t, exec (.pfcPauseRx p prio false) s = .next t ∧ kept t
            ∧ (Config.pfcEnabled p prio = true → (t.eths.toList.getD p {}).paused.getLsbD prio = false)
            ∧ t.qps = [(n, { q with unsent := [] })]
            ∧ t.outbox = (q.unsent.map (fun x => match x with
                | .request psn bs => Output.rdma n psn q.hdr bs
                | .response psn bs => Output.rdma n psn q.hdr bs
                | .ack psn nak => Output.rdmaAck n psn nak q.hdr)).reverse ++ s.outbox)))
    -- R42, R50, R53, R126: task packets and their credits
    ∧ (∀ d, (s.taskLine d).queue = [] ∨ (s.taskLine d).credits = 0 → exec (.taskPacketSend d) s = .next s)
    ∧ (∀ d pkt rest, (s.taskLine d).queue = pkt :: rest → rest.length ≤ 255 → (s.taskLine d).credits ≠ 0 →
        let s1 := s.onLine d fun l =>
          { l with credits := l.credits - 1, queue := rest, flying := l.flying ++ [{ pkt with page := none }], sent := l.sent + 1 }
        let s2 := (s1.emit (.taskPacket d pkt)).carry d pkt.pkt
        exec (.taskPacketSend d) s = .next (if rest = [] then s2 else s2.pushOnce (.taskPacketSend d))
        ∧ (d < 64 → s2.outbox = .taskPacket d pkt :: s.outbox ∧ (s2.taskLine d).queue = rest
          ∧ (s2.taskLine d).credits = (s.taskLine d).credits - 1 ∧ kept s2))
    ∧ (∀ d hdr pkt,
        let v := s.viewOf hdr.group
        let m := v.2.inView hdr.group hdr.sender
        (hdr.view < v.1 → exec (.taskPacketReceive d hdr pkt) s = .next ((v.2.countStale d).packetEnd hdr (some d) 0 Fate.staleView))
        ∧ (v.1 ≤ hdr.view → m.1 = false → exec (.taskPacketReceive d hdr pkt) s = .next (m.2.packetEnd hdr (some d) 0 Fate.staleView))
        ∧ (v.1 ≤ hdr.view → m.1 = true → m.2.launchOf hdr.group = none →
          exec (.taskPacketReceive d hdr pkt) s = .next (m.2.packetEnd hdr (some d) 0 Fate.refused))
        ∧ (∀ l, v.1 ≤ hdr.view → m.1 = true → m.2.launchOf hdr.group = some l →
          exec (.taskPacketReceive d hdr pkt) s = .next (m.2.push (.packetAccept hdr.die l (.remote hdr (some d)) pkt))))
    ∧ (∀ d l, (s.taskLine d).flying.find? (fun p => p.lslot == l) = none → exec (.taskCreditReturn d l) s = .next s)
    ∧ (∀ d l pkt, (s.taskLine d).flying.find? (fun p => p.lslot == l) = some pkt →
        let s1 := (s.onLine d fun t => { t with credits := t.credits + 1, flying := t.flying.erase pkt, heard := t.heard + 1 }).onLaunch l
          fun x => { x with heard := x.heard + 1 }
        let rest := fun (t : State) => if (s.taskLine d).queue = [] then t else t.pushOnce (.taskPacketSend d)
        (pkt.given = none → exec (.taskCreditReturn d l) s = .next (rest s1))
        ∧ (∀ uid x, pkt.given = some uid → (s1.block l pkt.die).giving.find? (fun x => x.2.uid == uid) = some x → exec (.taskCreditReturn d l) s
          = .next (rest ((((s1.freeSlot pkt.die x.2.handle).onBlock l pkt.die fun h =>
              { h with giving := h.giving.filter (fun x => x.2.uid != uid), retired := h.retired + 1 }).onLaunch l
                fun x => { x with remotes := x.remotes - 1 }).stir l pkt.die))))
end

