-- ==== Sys2Proof/Laws/Maps.lean ====
section
/-! SUPPORT. Laws of the sparse maps and of the bytes of a memory: a read after a write gives what was written, a write leaves every
other key alone, and every memory operation keeps the canonical form. -/

namespace Sys2Proof.Machine

/-! ### Sparse maps -/

theorem SMap.find?_filter {α : Type} (p : Nat → Bool) (m : SMap α) (a : Nat) :
    SMap.find? (m.filter (fun x => p x.1)) a = if p a then SMap.find? m a else none := by
  induction m with
  | nil => simp [SMap.find?]
  | cons x m ih =>
    obtain ⟨k, v⟩ := x
    by_cases hk : a = k
    · subst hk
      by_cases hp : p a <;> simp [SMap.find?, hp, ih]
    · by_cases hp : p k <;> simp [SMap.find?, hp, ih, hk]

@[simp] theorem SMap.find?_erase_self {α : Type} (m : SMap α) (a : Nat) : SMap.find? (SMap.erase m a) a = none := by
  simp [SMap.erase, SMap.find?_filter (fun k => k != a)]

theorem SMap.find?_erase_ne {α : Type} (m : SMap α) {a b : Nat} (h : b ≠ a) : SMap.find? (SMap.erase m a) b = SMap.find? m b := by
  simp [SMap.erase, SMap.find?_filter (fun k => k != a), h]

theorem SMap.find?_place {α : Type} (m : SMap α) (a b : Nat) (v : α) (h : SMap.find? m a = none) :
    SMap.find? (SMap.place m a v) b = if b = a then some v else SMap.find? m b := by
  induction m with
  | nil => simp [SMap.place, SMap.find?]
  | cons x m ih =>
    obtain ⟨k, w⟩ := x
    simp only [SMap.find?] at h
    split at h
    · cases h
    · rename_i hak
      simp only [SMap.place]
      split
      · simp [SMap.find?]
      · simp only [SMap.find?, ih h]
        by_cases hb : b = k
        · subst hb
          simp [Ne.symm hak]
        · simp [hb]

theorem SMap.find?_insert {α : Type} (m : SMap α) (a b : Nat) (v : α) :
    SMap.find? (SMap.insert m a v) b = if b = a then some v else SMap.find? m b := by
  rw [SMap.insert, SMap.find?_place _ _ _ _ (by simp)]
  split
  · rfl
  · rename_i h
    exact SMap.find?_erase_ne m h

@[simp] theorem SMap.find?_insert_self {α : Type} (m : SMap α) (a : Nat) (v : α) : SMap.find? (SMap.insert m a v) a = some v := by
  simp [SMap.find?_insert]

theorem SMap.find?_insert_ne {α : Type} (m : SMap α) {a b : Nat} (v : α) (h : b ≠ a) :
    SMap.find? (SMap.insert m a v) b = SMap.find? m b := by
  simp [SMap.find?_insert, h]

@[simp] theorem SMap.getD_insert_self {α : Type} (m : SMap α) (a : Nat) (v d : α) : SMap.getD (SMap.insert m a v) a d = v := by
  simp [SMap.getD]

theorem SMap.getD_insert_ne {α : Type} (m : SMap α) {a b : Nat} (v d : α) (h : b ≠ a) :
    SMap.getD (SMap.insert m a v) b d = SMap.getD m b d := by
  simp [SMap.getD, SMap.find?_insert, h]

theorem SMap.find?_clear {α : Type} (m : SMap α) (a n b : Nat) :
    SMap.find? (SMap.clear m a n) b = if a ≤ b ∧ b < a + n then none else SMap.find? m b := by
  rw [SMap.clear, SMap.find?_filter (fun k => !(a ≤ k && k < a + n))]
  by_cases h : a ≤ b ∧ b < a + n
  · simp [h]
  · rw [if_neg h, if_pos]
    by_cases h1 : a ≤ b
    · simp [h1]
      omega
    · simp [h1]

theorem SMap.mem_of_find? {α : Type} (m : SMap α) (a : Nat) (v : α) (h : SMap.find? m a = some v) : (a, v) ∈ m := by
  induction m with
  | nil => simp [SMap.find?] at h
  | cons x m ih =>
    obtain ⟨k, w⟩ := x
    simp only [SMap.find?] at h
    split at h
    · rename_i hk
      cases h
      simp [hk]
    · exact List.mem_cons_of_mem _ (ih h)

/-! ### Bytes -/

theorem Mem.get_set (m : Mem) (a b : Nat) (v : Byte) : Mem.get (Mem.set m a v) b = if b = a then v else Mem.get m b := by
  unfold Mem.get Mem.set SMap.getD
  by_cases hv : v = Mem.blank
  · rw [if_pos hv]
    by_cases hb : b = a
    · subst hb
      simp [hv]
    · rw [SMap.find?_erase_ne m hb, if_neg hb]
  · rw [if_neg hv, SMap.find?_insert]
    by_cases hb : b = a <;> simp [hb]

@[simp] theorem Mem.get_set_self (m : Mem) (a : Nat) (v : Byte) : Mem.get (Mem.set m a v) a = v := by
  simp [Mem.get_set]

theorem Mem.get_set_ne (m : Mem) {a b : Nat} (v : Byte) (h : b ≠ a) : Mem.get (Mem.set m a v) b = Mem.get m b := by
  simp [Mem.get_set, h]

theorem Mem.get_write_outside (bs : List Byte) (m : Mem) (a p : Nat) (h : p < a ∨ a + bs.length ≤ p) :
    Mem.get (Mem.write m a bs) p = Mem.get m p := by
  induction bs generalizing m a with
  | nil => rfl
  | cons b bs ih =>
    simp only [List.length_cons] at h
    rw [Mem.write, ih _ _ (by omega), Mem.get_set_ne _ _ (by omega)]

theorem Mem.get_write_inside (bs : List Byte) (m : Mem) (a i : Nat) (h : i < bs.length) :
    Mem.get (Mem.write m a bs) (a + i) = bs[i] := by
  induction bs generalizing m a i with
  | nil => simp at h
  | cons b bs ih =>
    rw [Mem.write]
    cases i with
    | zero => rw [Mem.get_write_outside _ _ _ _ (by omega)]; simp
    | succ i =>
      have := ih (Mem.set m a b) (a + 1) i (by simpa using h)
      rw [Nat.add_right_comm, Nat.add_assoc] at this
      simpa using this

@[simp] theorem Mem.read_length (m : Mem) (a n : Nat) : (Mem.read m a n).length = n := by
  induction n generalizing a with
  | zero => rfl
  | succ n ih => simp [Mem.read, ih]

theorem Mem.getElem_read (m : Mem) (a n i : Nat) (h : i < (Mem.read m a n).length) : (Mem.read m a n)[i] = Mem.get m (a + i) := by
  induction n generalizing a i with
  | zero => simp [Mem.read] at h
  | succ n ih =>
    cases i with
    | zero => rfl
    | succ i =>
      simp only [Mem.read, List.getElem_cons_succ]
      rw [ih]
      congr 1
      omega

theorem Mem.read_write (m : Mem) (a : Nat) (bs : List Byte) : Mem.read (Mem.write m a bs) a bs.length = bs := by
  apply List.ext_getElem (by simp)
  intro i h1 h2
  rw [Mem.getElem_read, Mem.get_write_inside _ _ _ _ h2]

theorem Mem.read_write_outside (m : Mem) (a : Nat) (bs : List Byte) (p n : Nat) (h : p + n ≤ a ∨ a + bs.length ≤ p) :
    Mem.read (Mem.write m a bs) p n = Mem.read m p n := by
  apply List.ext_getElem (by simp)
  intro i h1 h2
  rw [Mem.read_length] at h1
  rw [Mem.getElem_read, Mem.getElem_read, Mem.get_write_outside _ _ _ _ (by omega)]

theorem Mem.get_clear (m : Mem) (a n p : Nat) : Mem.get (Mem.clear m a n) p = if a ≤ p ∧ p < a + n then 0 else Mem.get m p := by
  have h := SMap.find?_clear m a n p
  unfold Mem.get SMap.getD
  rw [show Mem.clear m a n = SMap.clear m a n from rfl, h]
  split <;> rfl

/-! ### The canonical form -/

/-- The canonical form in terms of the order of the keys. -/
theorem Mem.wf_iff (m : Mem) : Mem.wf m = true ↔ m.Pairwise (fun x y => x.1 < y.1) ∧ ∀ x ∈ m, x.2 ≠ Mem.blank := by
  induction m with
  | nil => simp [Mem.wf]
  | cons x m ih =>
    cases m with
    | nil => simp [Mem.wf]
    | cons y m =>
      obtain ⟨a, b⟩ := x
      obtain ⟨a', b'⟩ := y
      simp only [Mem.wf, Bool.and_eq_true, bne_iff_ne, decide_eq_true_eq, ih, List.pairwise_cons, List.mem_cons, forall_eq_or_imp]
      constructor
      · rintro ⟨⟨hb, ha⟩, ⟨hlt, hp⟩, hn⟩
        refine ⟨⟨⟨ha, fun z hz => Nat.lt_trans ha (hlt z hz)⟩, ⟨hlt, hp⟩⟩, hb, hn⟩
      · rintro ⟨⟨⟨ha, -⟩, ⟨hlt, hp⟩⟩, hb, hn⟩
        exact ⟨⟨hb, ha⟩, ⟨hlt, hp⟩, hn⟩

theorem SMap.mem_place {α : Type} (m : SMap α) (a : Nat) (v : α) (x : Nat × α) : x ∈ SMap.place m a v ↔ x = (a, v) ∨ x ∈ m := by
  induction m with
  | nil => simp [SMap.place]
  | cons y m ih =>
    obtain ⟨k, w⟩ := y
    simp only [SMap.place]
    split
    · simp
    · simp only [List.mem_cons, ih]
      exact or_left_comm

theorem SMap.pairwise_place {α : Type} (m : SMap α) (a : Nat) (v : α) (h : m.Pairwise (fun x y => x.1 < y.1)) (ha : ∀ x ∈ m, x.1 ≠ a) :
    (SMap.place m a v).Pairwise (fun x y => x.1 < y.1) := by
  induction m with
  | nil => simp [SMap.place]
  | cons y m ih =>
    obtain ⟨k, w⟩ := y
    rw [List.pairwise_cons] at h
    simp only [SMap.place]
    split
    · rename_i hk
      rw [List.pairwise_cons]
      refine ⟨fun z hz => ?_, List.pairwise_cons.2 h⟩
      rcases List.mem_cons.1 hz with rfl | hz
      · exact hk
      · exact Nat.lt_trans hk (h.1 z hz)
    · rename_i hk
      have hne : k ≠ a := ha (k, w) List.mem_cons_self
      rw [List.pairwise_cons]
      refine ⟨fun z hz => ?_, ih h.2 (fun x hx => ha x (List.mem_cons_of_mem _ hx))⟩
      rcases (SMap.mem_place _ _ _ _).1 hz with rfl | hz
      · simp only
        omega
      · exact h.1 z hz

/-- Setting a key keeps the order of the keys. -/
theorem SMap.pairwise_insert {α : Type} (m : SMap α) (a : Nat) (v : α) (h : m.Pairwise (fun x y => x.1 < y.1)) :
    (SMap.insert m a v).Pairwise (fun x y => x.1 < y.1) := by
  apply SMap.pairwise_place
  · exact h.filter _
  · intro x hx
    simpa [SMap.erase] using (List.mem_filter.1 hx).2

theorem Mem.wf_filter (p : Host.Cell → Bool) (m : Mem) (h : Mem.wf m = true) : Mem.wf (m.filter p) = true := by
  rw [Mem.wf_iff] at *
  exact ⟨h.1.filter _, fun x hx => h.2 x (List.mem_filter.1 hx).1⟩

theorem Mem.wf_set (m : Mem) (a : Nat) (b : Byte) (h : Mem.wf m = true) : Mem.wf (Mem.set m a b) = true := by
  unfold Mem.set
  split
  · exact Mem.wf_filter _ _ h
  · rename_i hb
    rw [Mem.wf_iff] at *
    refine ⟨SMap.pairwise_insert _ _ _ h.1, fun x hx => ?_⟩
    rcases (SMap.mem_place _ _ _ _).1 hx with rfl | hx
    · exact hb
    · exact h.2 x (List.mem_filter.1 hx).1

theorem Mem.wf_write (bs : List Byte) (m : Mem) (a : Nat) (h : Mem.wf m = true) : Mem.wf (Mem.write m a bs) = true := by
  induction bs generalizing m a with
  | nil => exact h
  | cons b bs ih => exact ih _ _ (Mem.wf_set _ _ _ h)

theorem Mem.wf_clear (m : Mem) (a n : Nat) (h : Mem.wf m = true) : Mem.wf (Mem.clear m a n) = true := Mem.wf_filter _ _ h

theorem Mem.wf_lay (content m : Mem) (a len : Nat) (h : Mem.wf m = true) : Mem.wf (Mem.lay m a len content) = true := by
  unfold Mem.lay
  generalize Mem.clear m a len = m', Mem.wf_clear m a len h = h'
  induction content generalizing m' with
  | nil => exact h'
  | cons c cs ih =>
    rw [List.foldl_cons]
    apply ih
    split
    · exact Mem.wf_set _ _ _ h'
    · exact h'

/-- Equal reads make equal memories: the canonical form is one. -/
theorem Mem.ext_of_get (m n : Mem) (hm : Mem.wf m = true) (hn : Mem.wf n = true) (h : ∀ a, Mem.get m a = Mem.get n a) : m = n := by
  have key : ∀ (m : Mem), Mem.wf m = true → ∀ a b, (a, b) ∈ m → SMap.find? m a = some b := by
    intro m hm a b hab
    rw [Mem.wf_iff] at hm
    induction m with
    | nil => simp at hab
    | cons x m ih =>
      obtain ⟨k, w⟩ := x
      have hp := List.pairwise_cons.1 hm.1
      rcases List.mem_cons.1 hab with heq | hin
      · cases heq
        simp [SMap.find?]
      · have : k < a := hp.1 _ hin
        simp only [SMap.find?]
        rw [if_neg (by omega)]
        exact ih ⟨hp.2, fun x hx => hm.2 x (List.mem_cons_of_mem _ hx)⟩ hin
  have sub : ∀ (m n : Mem), Mem.wf m = true → Mem.wf n = true → (∀ a, Mem.get m a = Mem.get n a) → ∀ x ∈ m, x ∈ n := by
    intro m n hm hn h x hx
    obtain ⟨a, b⟩ := x
    have hb : b ≠ Mem.blank := ((Mem.wf_iff m).1 hm).2 _ hx
    have hg := h a
    simp only [Mem.get, SMap.getD, key m hm a b hx, Option.getD_some] at hg
    cases hf : SMap.find? n a with
    | none => rw [hf] at hg; exact absurd hg hb
    | some c =>
      rw [hf] at hg
      have : b = c := hg
      subst this
      exact SMap.mem_of_find? n a b hf
  have hm' := (Mem.wf_iff m).1 hm
  have hn' := (Mem.wf_iff n).1 hn
  have nd : ∀ (m : Mem), m.Pairwise (fun x y => x.1 < y.1) → m.Nodup := by
    intro m hm
    exact hm.imp (fun hxy heq => by rw [heq] at hxy; exact Nat.lt_irrefl _ hxy)
  have perm : m.Perm n := (List.perm_ext_iff_of_nodup (nd m hm'.1) (nd n hn'.1)).2
    (fun x => ⟨sub m n hm hn h x, sub n m hn hm (fun a => (h a).symm) x⟩)
  exact perm.eq_of_pairwise (fun a b _ _ h1 h2 => absurd h1 (Nat.lt_asymm h2)) hm'.1 hn'.1

end Sys2Proof.Machine
end

