-- ==== Sys2Proof/Laws/State.lean ====
section
/-! SUPPORT. One lemma for each field under each named update of the state: what the update sets, and that every other field stands. -/

namespace Sys2Proof.Machine


/-! ### A device step that is due -/

@[simp] theorem State.push_agenda (s : State) (i : Instr) : (s.push i).agenda = s.agenda ++ [i] := rfl
@[simp] theorem State.push_core (s : State) (i : Instr) : (s.push i).core = s.core := rfl
@[simp] theorem State.push_parked (s : State) (i : Instr) : (s.push i).parked = s.parked := rfl
@[simp] theorem State.push_mem (s : State) (i : Instr) : (s.push i).mem = s.mem := rfl
@[simp] theorem State.push_ue (s : State) (i : Instr) : (s.push i).ue = s.ue := rfl
@[simp] theorem State.push_symErr (s : State) (i : Instr) : (s.push i).symErr = s.symErr := rfl
@[simp] theorem State.push_enc (s : State) (i : Instr) : (s.push i).enc = s.enc := rfl
@[simp] theorem State.push_l2 (s : State) (i : Instr) : (s.push i).l2 = s.l2 := rfl
@[simp] theorem State.push_l3 (s : State) (i : Instr) : (s.push i).l3 = s.l3 := rfl
@[simp] theorem State.push_hops (s : State) (i : Instr) : (s.push i).hops = s.hops := rfl
@[simp] theorem State.push_ports (s : State) (i : Instr) : (s.push i).ports = s.ports := rfl
@[simp] theorem State.push_eths (s : State) (i : Instr) : (s.push i).eths = s.eths := rfl
@[simp] theorem State.push_qps (s : State) (i : Instr) : (s.push i).qps = s.qps := rfl
@[simp] theorem State.push_keys (s : State) (i : Instr) : (s.push i).keys = s.keys := rfl
@[simp] theorem State.push_spareAt (s : State) (i : Instr) : (s.push i).spareAt = s.spareAt := rfl
@[simp] theorem State.push_chans (s : State) (i : Instr) : (s.push i).chans = s.chans := rfl
@[simp] theorem State.push_dev (s : State) (i : Instr) : (s.push i).dev = s.dev := rfl
@[simp] theorem State.push_ctxs (s : State) (i : Instr) : (s.push i).ctxs = s.ctxs := rfl
@[simp] theorem State.push_inWins (s : State) (i : Instr) : (s.push i).inWins = s.inWins := rfl
@[simp] theorem State.push_outWins (s : State) (i : Instr) : (s.push i).outWins = s.outWins := rfl
@[simp] theorem State.push_pools (s : State) (i : Instr) : (s.push i).pools = s.pools := rfl
@[simp] theorem State.push_tlbs (s : State) (i : Instr) : (s.push i).tlbs = s.tlbs := rfl
@[simp] theorem State.push_launches (s : State) (i : Instr) : (s.push i).launches = s.launches := rfl
@[simp] theorem State.push_hubs (s : State) (i : Instr) : (s.push i).hubs = s.hubs := rfl
@[simp] theorem State.push_l2Ctx (s : State) (i : Instr) : (s.push i).l2Ctx = s.l2Ctx := rfl
@[simp] theorem State.push_l3Ctx (s : State) (i : Instr) : (s.push i).l3Ctx = s.l3Ctx := rfl
@[simp] theorem State.push_draws (s : State) (i : Instr) : (s.push i).draws = s.draws := rfl
@[simp] theorem State.push_faultLog (s : State) (i : Instr) : (s.push i).faultLog = s.faultLog := rfl
@[simp] theorem State.push_msix (s : State) (i : Instr) : (s.push i).msix = s.msix := rfl
@[simp] theorem State.push_unmasked (s : State) (i : Instr) : (s.push i).unmasked = s.unmasked := rfl
@[simp] theorem State.push_msixTab (s : State) (i : Instr) : (s.push i).msixTab = s.msixTab := rfl
@[simp] theorem State.push_heldNotes (s : State) (i : Instr) : (s.push i).heldNotes = s.heldNotes := rfl
@[simp] theorem State.push_heldMsix (s : State) (i : Instr) : (s.push i).heldMsix = s.heldMsix := rfl
@[simp] theorem State.push_heldOrder (s : State) (i : Instr) : (s.push i).heldOrder = s.heldOrder := rfl
@[simp] theorem State.push_waitingReports (s : State) (i : Instr) : (s.push i).waitingReports = s.waitingReports := rfl
@[simp] theorem State.push_eqOps (s : State) (i : Instr) : (s.push i).eqOps = s.eqOps := rfl
@[simp] theorem State.push_nextId (s : State) (i : Instr) : (s.push i).nextId = s.nextId := rfl
@[simp] theorem State.push_peerReads (s : State) (i : Instr) : (s.push i).peerReads = s.peerReads := rfl
@[simp] theorem State.push_holds (s : State) (i : Instr) : (s.push i).holds = s.holds := rfl
@[simp] theorem State.push_buddies (s : State) (i : Instr) : (s.push i).buddies = s.buddies := rfl
@[simp] theorem State.push_catchUp (s : State) (i : Instr) : (s.push i).catchUp = s.catchUp := rfl
@[simp] theorem State.push_snaps (s : State) (i : Instr) : (s.push i).snaps = s.snaps := rfl
@[simp] theorem State.push_appends (s : State) (i : Instr) : (s.push i).appends = s.appends := rfl
@[simp] theorem State.push_mailbox (s : State) (i : Instr) : (s.push i).mailbox = s.mailbox := rfl
@[simp] theorem State.push_fwStaged (s : State) (i : Instr) : (s.push i).fwStaged = s.fwStaged := rfl
@[simp] theorem State.push_fwImages (s : State) (i : Instr) : (s.push i).fwImages = s.fwImages := rfl
@[simp] theorem State.push_fwMin (s : State) (i : Instr) : (s.push i).fwMin = s.fwMin := rfl
@[simp] theorem State.push_imgVersion (s : State) (i : Instr) : (s.push i).imgVersion = s.imgVersion := rfl
@[simp] theorem State.push_repairThr (s : State) (i : Instr) : (s.push i).repairThr = s.repairThr := rfl
@[simp] theorem State.push_repairs (s : State) (i : Instr) : (s.push i).repairs = s.repairs := rfl
@[simp] theorem State.push_clockSteps (s : State) (i : Instr) : (s.push i).clockSteps = s.clockSteps := rfl
@[simp] theorem State.push_powered (s : State) (i : Instr) : (s.push i).powered = s.powered := rfl
@[simp] theorem State.push_pcieUp (s : State) (i : Instr) : (s.push i).pcieUp = s.pcieUp := rfl
@[simp] theorem State.push_outbox (s : State) (i : Instr) : (s.push i).outbox = s.outbox := rfl
@[simp] theorem State.push_tick (s : State) (i : Instr) : (s.push i).tick = s.tick := rfl
@[simp] theorem State.push_turn (s : State) (i : Instr) : (s.push i).turn = s.turn := rfl

/-! ### What leaves the device -/

@[simp] theorem State.emit_outbox (s : State) (x : Output) : (s.emit x).outbox = x :: s.outbox := rfl
@[simp] theorem State.emit_core (s : State) (x : Output) : (s.emit x).core = s.core := rfl
@[simp] theorem State.emit_parked (s : State) (x : Output) : (s.emit x).parked = s.parked := rfl
@[simp] theorem State.emit_mem (s : State) (x : Output) : (s.emit x).mem = s.mem := rfl
@[simp] theorem State.emit_ue (s : State) (x : Output) : (s.emit x).ue = s.ue := rfl
@[simp] theorem State.emit_symErr (s : State) (x : Output) : (s.emit x).symErr = s.symErr := rfl
@[simp] theorem State.emit_enc (s : State) (x : Output) : (s.emit x).enc = s.enc := rfl
@[simp] theorem State.emit_l2 (s : State) (x : Output) : (s.emit x).l2 = s.l2 := rfl
@[simp] theorem State.emit_l3 (s : State) (x : Output) : (s.emit x).l3 = s.l3 := rfl
@[simp] theorem State.emit_hops (s : State) (x : Output) : (s.emit x).hops = s.hops := rfl
@[simp] theorem State.emit_ports (s : State) (x : Output) : (s.emit x).ports = s.ports := rfl
@[simp] theorem State.emit_eths (s : State) (x : Output) : (s.emit x).eths = s.eths := rfl
@[simp] theorem State.emit_qps (s : State) (x : Output) : (s.emit x).qps = s.qps := rfl
@[simp] theorem State.emit_keys (s : State) (x : Output) : (s.emit x).keys = s.keys := rfl
@[simp] theorem State.emit_spareAt (s : State) (x : Output) : (s.emit x).spareAt = s.spareAt := rfl
@[simp] theorem State.emit_chans (s : State) (x : Output) : (s.emit x).chans = s.chans := rfl
@[simp] theorem State.emit_dev (s : State) (x : Output) : (s.emit x).dev = s.dev := rfl
@[simp] theorem State.emit_ctxs (s : State) (x : Output) : (s.emit x).ctxs = s.ctxs := rfl
@[simp] theorem State.emit_inWins (s : State) (x : Output) : (s.emit x).inWins = s.inWins := rfl
@[simp] theorem State.emit_outWins (s : State) (x : Output) : (s.emit x).outWins = s.outWins := rfl
@[simp] theorem State.emit_pools (s : State) (x : Output) : (s.emit x).pools = s.pools := rfl
@[simp] theorem State.emit_tlbs (s : State) (x : Output) : (s.emit x).tlbs = s.tlbs := rfl
@[simp] theorem State.emit_launches (s : State) (x : Output) : (s.emit x).launches = s.launches := rfl
@[simp] theorem State.emit_hubs (s : State) (x : Output) : (s.emit x).hubs = s.hubs := rfl
@[simp] theorem State.emit_l2Ctx (s : State) (x : Output) : (s.emit x).l2Ctx = s.l2Ctx := rfl
@[simp] theorem State.emit_l3Ctx (s : State) (x : Output) : (s.emit x).l3Ctx = s.l3Ctx := rfl
@[simp] theorem State.emit_draws (s : State) (x : Output) : (s.emit x).draws = s.draws := rfl
@[simp] theorem State.emit_faultLog (s : State) (x : Output) : (s.emit x).faultLog = s.faultLog := rfl
@[simp] theorem State.emit_msix (s : State) (x : Output) : (s.emit x).msix = s.msix := rfl
@[simp] theorem State.emit_unmasked (s : State) (x : Output) : (s.emit x).unmasked = s.unmasked := rfl
@[simp] theorem State.emit_msixTab (s : State) (x : Output) : (s.emit x).msixTab = s.msixTab := rfl
@[simp] theorem State.emit_heldNotes (s : State) (x : Output) : (s.emit x).heldNotes = s.heldNotes := rfl
@[simp] theorem State.emit_heldMsix (s : State) (x : Output) : (s.emit x).heldMsix = s.heldMsix := rfl
@[simp] theorem State.emit_heldOrder (s : State) (x : Output) : (s.emit x).heldOrder = s.heldOrder := rfl
@[simp] theorem State.emit_waitingReports (s : State) (x : Output) : (s.emit x).waitingReports = s.waitingReports := rfl
@[simp] theorem State.emit_eqOps (s : State) (x : Output) : (s.emit x).eqOps = s.eqOps := rfl
@[simp] theorem State.emit_nextId (s : State) (x : Output) : (s.emit x).nextId = s.nextId := rfl
@[simp] theorem State.emit_peerReads (s : State) (x : Output) : (s.emit x).peerReads = s.peerReads := rfl
@[simp] theorem State.emit_holds (s : State) (x : Output) : (s.emit x).holds = s.holds := rfl
@[simp] theorem State.emit_buddies (s : State) (x : Output) : (s.emit x).buddies = s.buddies := rfl
@[simp] theorem State.emit_catchUp (s : State) (x : Output) : (s.emit x).catchUp = s.catchUp := rfl
@[simp] theorem State.emit_snaps (s : State) (x : Output) : (s.emit x).snaps = s.snaps := rfl
@[simp] theorem State.emit_appends (s : State) (x : Output) : (s.emit x).appends = s.appends := rfl
@[simp] theorem State.emit_mailbox (s : State) (x : Output) : (s.emit x).mailbox = s.mailbox := rfl
@[simp] theorem State.emit_fwStaged (s : State) (x : Output) : (s.emit x).fwStaged = s.fwStaged := rfl
@[simp] theorem State.emit_fwImages (s : State) (x : Output) : (s.emit x).fwImages = s.fwImages := rfl
@[simp] theorem State.emit_fwMin (s : State) (x : Output) : (s.emit x).fwMin = s.fwMin := rfl
@[simp] theorem State.emit_imgVersion (s : State) (x : Output) : (s.emit x).imgVersion = s.imgVersion := rfl
@[simp] theorem State.emit_repairThr (s : State) (x : Output) : (s.emit x).repairThr = s.repairThr := rfl
@[simp] theorem State.emit_repairs (s : State) (x : Output) : (s.emit x).repairs = s.repairs := rfl
@[simp] theorem State.emit_clockSteps (s : State) (x : Output) : (s.emit x).clockSteps = s.clockSteps := rfl
@[simp] theorem State.emit_powered (s : State) (x : Output) : (s.emit x).powered = s.powered := rfl
@[simp] theorem State.emit_pcieUp (s : State) (x : Output) : (s.emit x).pcieUp = s.pcieUp := rfl
@[simp] theorem State.emit_agenda (s : State) (x : Output) : (s.emit x).agenda = s.agenda := rfl
@[simp] theorem State.emit_tick (s : State) (x : Output) : (s.emit x).tick = s.tick := rfl
@[simp] theorem State.emit_turn (s : State) (x : Output) : (s.emit x).turn = s.turn := rfl

/-! ### The thread of the core that moves -/

@[simp] theorem State.mapT_t (s : State) (f : Thread → Thread) : (s.mapT f).core.t = f s.core.t := rfl
@[simp] theorem State.mapT_core_cid (s : State) (f : Thread → Thread) : (s.mapT f).core.cid = s.core.cid := rfl
@[simp] theorem State.mapT_core_l1 (s : State) (f : Thread → Thread) : (s.mapT f).core.l1 = s.core.l1 := rfl
@[simp] theorem State.mapT_core_savedT (s : State) (f : Thread → Thread) : (s.mapT f).core.savedT = s.core.savedT := rfl
@[simp] theorem State.mapT_core_savedD (s : State) (f : Thread → Thread) : (s.mapT f).core.savedD = s.core.savedD := rfl
@[simp] theorem State.mapT_core_preload (s : State) (f : Thread → Thread) : (s.mapT f).core.preload = s.core.preload := rfl
@[simp] theorem State.mapT_core_left (s : State) (f : Thread → Thread) : (s.mapT f).core.left = s.core.left := rfl
@[simp] theorem State.mapT_core_lastCtx (s : State) (f : Thread → Thread) : (s.mapT f).core.lastCtx = s.core.lastCtx := rfl
@[simp] theorem State.mapT_core_lastLaunch (s : State) (f : Thread → Thread) : (s.mapT f).core.lastLaunch = s.core.lastLaunch := rfl
@[simp] theorem State.mapT_core_protFrozen (s : State) (f : Thread → Thread) : (s.mapT f).core.protFrozen = s.core.protFrozen := rfl
@[simp] theorem State.mapT_core_gated (s : State) (f : Thread → Thread) : (s.mapT f).core.gated = s.core.gated := rfl
@[simp] theorem State.mapT_core_idleCycles (s : State) (f : Thread → Thread) : (s.mapT f).core.idleCycles = s.core.idleCycles := rfl
@[simp] theorem State.mapT_core_cseq (s : State) (f : Thread → Thread) : (s.mapT f).core.cseq = s.core.cseq := rfl
@[simp] theorem State.mapT_parked (s : State) (f : Thread → Thread) : (s.mapT f).parked = s.parked := rfl
@[simp] theorem State.mapT_mem (s : State) (f : Thread → Thread) : (s.mapT f).mem = s.mem := rfl
@[simp] theorem State.mapT_ue (s : State) (f : Thread → Thread) : (s.mapT f).ue = s.ue := rfl
@[simp] theorem State.mapT_symErr (s : State) (f : Thread → Thread) : (s.mapT f).symErr = s.symErr := rfl
@[simp] theorem State.mapT_enc (s : State) (f : Thread → Thread) : (s.mapT f).enc = s.enc := rfl
@[simp] theorem State.mapT_l2 (s : State) (f : Thread → Thread) : (s.mapT f).l2 = s.l2 := rfl
@[simp] theorem State.mapT_l3 (s : State) (f : Thread → Thread) : (s.mapT f).l3 = s.l3 := rfl
@[simp] theorem State.mapT_hops (s : State) (f : Thread → Thread) : (s.mapT f).hops = s.hops := rfl
@[simp] theorem State.mapT_ports (s : State) (f : Thread → Thread) : (s.mapT f).ports = s.ports := rfl
@[simp] theorem State.mapT_eths (s : State) (f : Thread → Thread) : (s.mapT f).eths = s.eths := rfl
@[simp] theorem State.mapT_qps (s : State) (f : Thread → Thread) : (s.mapT f).qps = s.qps := rfl
@[simp] theorem State.mapT_keys (s : State) (f : Thread → Thread) : (s.mapT f).keys = s.keys := rfl
@[simp] theorem State.mapT_spareAt (s : State) (f : Thread → Thread) : (s.mapT f).spareAt = s.spareAt := rfl
@[simp] theorem State.mapT_chans (s : State) (f : Thread → Thread) : (s.mapT f).chans = s.chans := rfl
@[simp] theorem State.mapT_dev (s : State) (f : Thread → Thread) : (s.mapT f).dev = s.dev := rfl
@[simp] theorem State.mapT_ctxs (s : State) (f : Thread → Thread) : (s.mapT f).ctxs = s.ctxs := rfl
@[simp] theorem State.mapT_inWins (s : State) (f : Thread → Thread) : (s.mapT f).inWins = s.inWins := rfl
@[simp] theorem State.mapT_outWins (s : State) (f : Thread → Thread) : (s.mapT f).outWins = s.outWins := rfl
@[simp] theorem State.mapT_pools (s : State) (f : Thread → Thread) : (s.mapT f).pools = s.pools := rfl
@[simp] theorem State.mapT_tlbs (s : State) (f : Thread → Thread) : (s.mapT f).tlbs = s.tlbs := rfl
@[simp] theorem State.mapT_launches (s : State) (f : Thread → Thread) : (s.mapT f).launches = s.launches := rfl
@[simp] theorem State.mapT_hubs (s : State) (f : Thread → Thread) : (s.mapT f).hubs = s.hubs := rfl
@[simp] theorem State.mapT_l2Ctx (s : State) (f : Thread → Thread) : (s.mapT f).l2Ctx = s.l2Ctx := rfl
@[simp] theorem State.mapT_l3Ctx (s : State) (f : Thread → Thread) : (s.mapT f).l3Ctx = s.l3Ctx := rfl
@[simp] theorem State.mapT_draws (s : State) (f : Thread → Thread) : (s.mapT f).draws = s.draws := rfl
@[simp] theorem State.mapT_faultLog (s : State) (f : Thread → Thread) : (s.mapT f).faultLog = s.faultLog := rfl
@[simp] theorem State.mapT_msix (s : State) (f : Thread → Thread) : (s.mapT f).msix = s.msix := rfl
@[simp] theorem State.mapT_unmasked (s : State) (f : Thread → Thread) : (s.mapT f).unmasked = s.unmasked := rfl
@[simp] theorem State.mapT_msixTab (s : State) (f : Thread → Thread) : (s.mapT f).msixTab = s.msixTab := rfl
@[simp] theorem State.mapT_heldNotes (s : State) (f : Thread → Thread) : (s.mapT f).heldNotes = s.heldNotes := rfl
@[simp] theorem State.mapT_heldMsix (s : State) (f : Thread → Thread) : (s.mapT f).heldMsix = s.heldMsix := rfl
@[simp] theorem State.mapT_heldOrder (s : State) (f : Thread → Thread) : (s.mapT f).heldOrder = s.heldOrder := rfl
@[simp] theorem State.mapT_waitingReports (s : State) (f : Thread → Thread) : (s.mapT f).waitingReports = s.waitingReports := rfl
@[simp] theorem State.mapT_eqOps (s : State) (f : Thread → Thread) : (s.mapT f).eqOps = s.eqOps := rfl
@[simp] theorem State.mapT_nextId (s : State) (f : Thread → Thread) : (s.mapT f).nextId = s.nextId := rfl
@[simp] theorem State.mapT_peerReads (s : State) (f : Thread → Thread) : (s.mapT f).peerReads = s.peerReads := rfl
@[simp] theorem State.mapT_holds (s : State) (f : Thread → Thread) : (s.mapT f).holds = s.holds := rfl
@[simp] theorem State.mapT_buddies (s : State) (f : Thread → Thread) : (s.mapT f).buddies = s.buddies := rfl
@[simp] theorem State.mapT_catchUp (s : State) (f : Thread → Thread) : (s.mapT f).catchUp = s.catchUp := rfl
@[simp] theorem State.mapT_snaps (s : State) (f : Thread → Thread) : (s.mapT f).snaps = s.snaps := rfl
@[simp] theorem State.mapT_appends (s : State) (f : Thread → Thread) : (s.mapT f).appends = s.appends := rfl
@[simp] theorem State.mapT_mailbox (s : State) (f : Thread → Thread) : (s.mapT f).mailbox = s.mailbox := rfl
@[simp] theorem State.mapT_fwStaged (s : State) (f : Thread → Thread) : (s.mapT f).fwStaged = s.fwStaged := rfl
@[simp] theorem State.mapT_fwImages (s : State) (f : Thread → Thread) : (s.mapT f).fwImages = s.fwImages := rfl
@[simp] theorem State.mapT_fwMin (s : State) (f : Thread → Thread) : (s.mapT f).fwMin = s.fwMin := rfl
@[simp] theorem State.mapT_imgVersion (s : State) (f : Thread → Thread) : (s.mapT f).imgVersion = s.imgVersion := rfl
@[simp] theorem State.mapT_repairThr (s : State) (f : Thread → Thread) : (s.mapT f).repairThr = s.repairThr := rfl
@[simp] theorem State.mapT_repairs (s : State) (f : Thread → Thread) : (s.mapT f).repairs = s.repairs := rfl
@[simp] theorem State.mapT_clockSteps (s : State) (f : Thread → Thread) : (s.mapT f).clockSteps = s.clockSteps := rfl
@[simp] theorem State.mapT_powered (s : State) (f : Thread → Thread) : (s.mapT f).powered = s.powered := rfl
@[simp] theorem State.mapT_pcieUp (s : State) (f : Thread → Thread) : (s.mapT f).pcieUp = s.pcieUp := rfl
@[simp] theorem State.mapT_outbox (s : State) (f : Thread → Thread) : (s.mapT f).outbox = s.outbox := rfl
@[simp] theorem State.mapT_agenda (s : State) (f : Thread → Thread) : (s.mapT f).agenda = s.agenda := rfl
@[simp] theorem State.mapT_tick (s : State) (f : Thread → Thread) : (s.mapT f).tick = s.tick := rfl
@[simp] theorem State.mapT_turn (s : State) (f : Thread → Thread) : (s.mapT f).turn = s.turn := rfl

/-! ### The L1 of the core that moves -/

@[simp] theorem State.mapL1_l1 (s : State) (f : Pad → Pad) : (s.mapL1 f).core.l1 = f s.core.l1 := rfl
@[simp] theorem State.mapL1_core_cid (s : State) (f : Pad → Pad) : (s.mapL1 f).core.cid = s.core.cid := rfl
@[simp] theorem State.mapL1_core_t (s : State) (f : Pad → Pad) : (s.mapL1 f).core.t = s.core.t := rfl
@[simp] theorem State.mapL1_core_savedT (s : State) (f : Pad → Pad) : (s.mapL1 f).core.savedT = s.core.savedT := rfl
@[simp] theorem State.mapL1_core_savedD (s : State) (f : Pad → Pad) : (s.mapL1 f).core.savedD = s.core.savedD := rfl
@[simp] theorem State.mapL1_core_preload (s : State) (f : Pad → Pad) : (s.mapL1 f).core.preload = s.core.preload := rfl
@[simp] theorem State.mapL1_core_left (s : State) (f : Pad → Pad) : (s.mapL1 f).core.left = s.core.left := rfl
@[simp] theorem State.mapL1_core_lastCtx (s : State) (f : Pad → Pad) : (s.mapL1 f).core.lastCtx = s.core.lastCtx := rfl
@[simp] theorem State.mapL1_core_lastLaunch (s : State) (f : Pad → Pad) : (s.mapL1 f).core.lastLaunch = s.core.lastLaunch := rfl
@[simp] theorem State.mapL1_core_protFrozen (s : State) (f : Pad → Pad) : (s.mapL1 f).core.protFrozen = s.core.protFrozen := rfl
@[simp] theorem State.mapL1_core_gated (s : State) (f : Pad → Pad) : (s.mapL1 f).core.gated = s.core.gated := rfl
@[simp] theorem State.mapL1_core_idleCycles (s : State) (f : Pad → Pad) : (s.mapL1 f).core.idleCycles = s.core.idleCycles := rfl
@[simp] theorem State.mapL1_core_cseq (s : State) (f : Pad → Pad) : (s.mapL1 f).core.cseq = s.core.cseq := rfl
@[simp] theorem State.mapL1_parked (s : State) (f : Pad → Pad) : (s.mapL1 f).parked = s.parked := rfl
@[simp] theorem State.mapL1_mem (s : State) (f : Pad → Pad) : (s.mapL1 f).mem = s.mem := rfl
@[simp] theorem State.mapL1_ue (s : State) (f : Pad → Pad) : (s.mapL1 f).ue = s.ue := rfl
@[simp] theorem State.mapL1_symErr (s : State) (f : Pad → Pad) : (s.mapL1 f).symErr = s.symErr := rfl
@[simp] theorem State.mapL1_enc (s : State) (f : Pad → Pad) : (s.mapL1 f).enc = s.enc := rfl
@[simp] theorem State.mapL1_l2 (s : State) (f : Pad → Pad) : (s.mapL1 f).l2 = s.l2 := rfl
@[simp] theorem State.mapL1_l3 (s : State) (f : Pad → Pad) : (s.mapL1 f).l3 = s.l3 := rfl
@[simp] theorem State.mapL1_hops (s : State) (f : Pad → Pad) : (s.mapL1 f).hops = s.hops := rfl
@[simp] theorem State.mapL1_ports (s : State) (f : Pad → Pad) : (s.mapL1 f).ports = s.ports := rfl
@[simp] theorem State.mapL1_eths (s : State) (f : Pad → Pad) : (s.mapL1 f).eths = s.eths := rfl
@[simp] theorem State.mapL1_qps (s : State) (f : Pad → Pad) : (s.mapL1 f).qps = s.qps := rfl
@[simp] theorem State.mapL1_keys (s : State) (f : Pad → Pad) : (s.mapL1 f).keys = s.keys := rfl
@[simp] theorem State.mapL1_spareAt (s : State) (f : Pad → Pad) : (s.mapL1 f).spareAt = s.spareAt := rfl
@[simp] theorem State.mapL1_chans (s : State) (f : Pad → Pad) : (s.mapL1 f).chans = s.chans := rfl
@[simp] theorem State.mapL1_dev (s : State) (f : Pad → Pad) : (s.mapL1 f).dev = s.dev := rfl
@[simp] theorem State.mapL1_ctxs (s : State) (f : Pad → Pad) : (s.mapL1 f).ctxs = s.ctxs := rfl
@[simp] theorem State.mapL1_inWins (s : State) (f : Pad → Pad) : (s.mapL1 f).inWins = s.inWins := rfl
@[simp] theorem State.mapL1_outWins (s : State) (f : Pad → Pad) : (s.mapL1 f).outWins = s.outWins := rfl
@[simp] theorem State.mapL1_pools (s : State) (f : Pad → Pad) : (s.mapL1 f).pools = s.pools := rfl
@[simp] theorem State.mapL1_tlbs (s : State) (f : Pad → Pad) : (s.mapL1 f).tlbs = s.tlbs := rfl
@[simp] theorem State.mapL1_launches (s : State) (f : Pad → Pad) : (s.mapL1 f).launches = s.launches := rfl
@[simp] theorem State.mapL1_hubs (s : State) (f : Pad → Pad) : (s.mapL1 f).hubs = s.hubs := rfl
@[simp] theorem State.mapL1_l2Ctx (s : State) (f : Pad → Pad) : (s.mapL1 f).l2Ctx = s.l2Ctx := rfl
@[simp] theorem State.mapL1_l3Ctx (s : State) (f : Pad → Pad) : (s.mapL1 f).l3Ctx = s.l3Ctx := rfl
@[simp] theorem State.mapL1_draws (s : State) (f : Pad → Pad) : (s.mapL1 f).draws = s.draws := rfl
@[simp] theorem State.mapL1_faultLog (s : State) (f : Pad → Pad) : (s.mapL1 f).faultLog = s.faultLog := rfl
@[simp] theorem State.mapL1_msix (s : State) (f : Pad → Pad) : (s.mapL1 f).msix = s.msix := rfl
@[simp] theorem State.mapL1_unmasked (s : State) (f : Pad → Pad) : (s.mapL1 f).unmasked = s.unmasked := rfl
@[simp] theorem State.mapL1_msixTab (s : State) (f : Pad → Pad) : (s.mapL1 f).msixTab = s.msixTab := rfl
@[simp] theorem State.mapL1_heldNotes (s : State) (f : Pad → Pad) : (s.mapL1 f).heldNotes = s.heldNotes := rfl
@[simp] theorem State.mapL1_heldMsix (s : State) (f : Pad → Pad) : (s.mapL1 f).heldMsix = s.heldMsix := rfl
@[simp] theorem State.mapL1_heldOrder (s : State) (f : Pad → Pad) : (s.mapL1 f).heldOrder = s.heldOrder := rfl
@[simp] theorem State.mapL1_waitingReports (s : State) (f : Pad → Pad) : (s.mapL1 f).waitingReports = s.waitingReports := rfl
@[simp] theorem State.mapL1_eqOps (s : State) (f : Pad → Pad) : (s.mapL1 f).eqOps = s.eqOps := rfl
@[simp] theorem State.mapL1_nextId (s : State) (f : Pad → Pad) : (s.mapL1 f).nextId = s.nextId := rfl
@[simp] theorem State.mapL1_peerReads (s : State) (f : Pad → Pad) : (s.mapL1 f).peerReads = s.peerReads := rfl
@[simp] theorem State.mapL1_holds (s : State) (f : Pad → Pad) : (s.mapL1 f).holds = s.holds := rfl
@[simp] theorem State.mapL1_buddies (s : State) (f : Pad → Pad) : (s.mapL1 f).buddies = s.buddies := rfl
@[simp] theorem State.mapL1_catchUp (s : State) (f : Pad → Pad) : (s.mapL1 f).catchUp = s.catchUp := rfl
@[simp] theorem State.mapL1_snaps (s : State) (f : Pad → Pad) : (s.mapL1 f).snaps = s.snaps := rfl
@[simp] theorem State.mapL1_appends (s : State) (f : Pad → Pad) : (s.mapL1 f).appends = s.appends := rfl
@[simp] theorem State.mapL1_mailbox (s : State) (f : Pad → Pad) : (s.mapL1 f).mailbox = s.mailbox := rfl
@[simp] theorem State.mapL1_fwStaged (s : State) (f : Pad → Pad) : (s.mapL1 f).fwStaged = s.fwStaged := rfl
@[simp] theorem State.mapL1_fwImages (s : State) (f : Pad → Pad) : (s.mapL1 f).fwImages = s.fwImages := rfl
@[simp] theorem State.mapL1_fwMin (s : State) (f : Pad → Pad) : (s.mapL1 f).fwMin = s.fwMin := rfl
@[simp] theorem State.mapL1_imgVersion (s : State) (f : Pad → Pad) : (s.mapL1 f).imgVersion = s.imgVersion := rfl
@[simp] theorem State.mapL1_repairThr (s : State) (f : Pad → Pad) : (s.mapL1 f).repairThr = s.repairThr := rfl
@[simp] theorem State.mapL1_repairs (s : State) (f : Pad → Pad) : (s.mapL1 f).repairs = s.repairs := rfl
@[simp] theorem State.mapL1_clockSteps (s : State) (f : Pad → Pad) : (s.mapL1 f).clockSteps = s.clockSteps := rfl
@[simp] theorem State.mapL1_powered (s : State) (f : Pad → Pad) : (s.mapL1 f).powered = s.powered := rfl
@[simp] theorem State.mapL1_pcieUp (s : State) (f : Pad → Pad) : (s.mapL1 f).pcieUp = s.pcieUp := rfl
@[simp] theorem State.mapL1_outbox (s : State) (f : Pad → Pad) : (s.mapL1 f).outbox = s.outbox := rfl
@[simp] theorem State.mapL1_agenda (s : State) (f : Pad → Pad) : (s.mapL1 f).agenda = s.agenda := rfl
@[simp] theorem State.mapL1_tick (s : State) (f : Pad → Pad) : (s.mapL1 f).tick = s.tick := rfl
@[simp] theorem State.mapL1_turn (s : State) (f : Pad → Pad) : (s.mapL1 f).turn = s.turn := rfl

/-! ### A result put in flight -/

@[simp] theorem State.later_flights (s : State) (n : Nat) (x : Effect) : (s.later n x).core.t.flights = s.core.t.flights ++ [⟨n, x⟩] := rfl
@[simp] theorem State.later_t_mode (s : State) (n : Nat) (x : Effect) : (s.later n x).core.t.mode = s.core.t.mode := rfl
@[simp] theorem State.later_t_handler (s : State) (n : Nat) (x : Effect) : (s.later n x).core.t.handler = s.core.t.handler := rfl
@[simp] theorem State.later_t_pc (s : State) (n : Nat) (x : Effect) : (s.later n x).core.t.pc = s.core.t.pc := rfl
@[simp] theorem State.later_t_pcn (s : State) (n : Nat) (x : Effect) : (s.later n x).core.t.pcn = s.core.t.pcn := rfl
@[simp] theorem State.later_t_npc (s : State) (n : Nat) (x : Effect) : (s.later n x).core.t.npc = s.core.t.npc := rfl
@[simp] theorem State.later_t_cycle (s : State) (n : Nat) (x : Effect) : (s.later n x).core.t.cycle = s.core.t.cycle := rfl
@[simp] theorem State.later_t_sregs (s : State) (n : Nat) (x : Effect) : (s.later n x).core.t.sregs = s.core.t.sregs := rfl
@[simp] theorem State.later_t_aregs (s : State) (n : Nat) (x : Effect) : (s.later n x).core.t.aregs = s.core.t.aregs := rfl
@[simp] theorem State.later_t_vregs (s : State) (n : Nat) (x : Effect) : (s.later n x).core.t.vregs = s.core.t.vregs := rfl
@[simp] theorem State.later_t_kregs (s : State) (n : Nat) (x : Effect) : (s.later n x).core.t.kregs = s.core.t.kregs := rfl
@[simp] theorem State.later_t_latches (s : State) (n : Nat) (x : Effect) : (s.later n x).core.t.latches = s.core.t.latches := rfl
@[simp] theorem State.later_t_rep (s : State) (n : Nat) (x : Effect) : (s.later n x).core.t.rep = s.core.t.rep := rfl
@[simp] theorem State.later_t_frame (s : State) (n : Nat) (x : Effect) : (s.later n x).core.t.frame = s.core.t.frame := rfl
@[simp] theorem State.later_t_stat (s : State) (n : Nat) (x : Effect) : (s.later n x).core.t.stat = s.core.t.stat := rfl
@[simp] theorem State.later_t_fpx (s : State) (n : Nat) (x : Effect) : (s.later n x).core.t.fpx = s.core.t.fpx := rfl
@[simp] theorem State.later_t_ckptlim (s : State) (n : Nat) (x : Effect) : (s.later n x).core.t.ckptlim = s.core.t.ckptlim := rfl
@[simp] theorem State.later_t_trappc (s : State) (n : Nat) (x : Effect) : (s.later n x).core.t.trappc = s.core.t.trappc := rfl
@[simp] theorem State.later_t_trapcause (s : State) (n : Nat) (x : Effect) : (s.later n x).core.t.trapcause = s.core.t.trapcause := rfl
@[simp] theorem State.later_t_trapval (s : State) (n : Nat) (x : Effect) : (s.later n x).core.t.trapval = s.core.t.trapval := rfl
@[simp] theorem State.later_t_tscr (s : State) (n : Nat) (x : Effect) : (s.later n x).core.t.tscr = s.core.t.tscr := rfl
@[simp] theorem State.later_t_sl (s : State) (n : Nat) (x : Effect) : (s.later n x).core.t.sl = s.core.t.sl := rfl
@[simp] theorem State.later_t_seeda (s : State) (n : Nat) (x : Effect) : (s.later n x).core.t.seeda = s.core.t.seeda := rfl
@[simp] theorem State.later_t_seedb (s : State) (n : Nat) (x : Effect) : (s.later n x).core.t.seedb = s.core.t.seedb := rfl
@[simp] theorem State.later_t_prof (s : State) (n : Nat) (x : Effect) : (s.later n x).core.t.prof = s.core.t.prof := rfl
@[simp] theorem State.later_t_smode (s : State) (n : Nat) (x : Effect) : (s.later n x).core.t.smode = s.core.t.smode := rfl
@[simp] theorem State.later_t_ebnd (s : State) (n : Nat) (x : Effect) : (s.later n x).core.t.ebnd = s.core.t.ebnd := rfl
@[simp] theorem State.later_t_waitcnt (s : State) (n : Nat) (x : Effect) : (s.later n x).core.t.waitcnt = s.core.t.waitcnt := rfl
@[simp] theorem State.later_t_tl (s : State) (n : Nat) (x : Effect) : (s.later n x).core.t.tl = s.core.t.tl := rfl
@[simp] theorem State.later_t_bars (s : State) (n : Nat) (x : Effect) : (s.later n x).core.t.bars = s.core.t.bars := rfl
@[simp] theorem State.later_t_qs (s : State) (n : Nat) (x : Effect) : (s.later n x).core.t.qs = s.core.t.qs := rfl
@[simp] theorem State.later_t_ntActive (s : State) (n : Nat) (x : Effect) : (s.later n x).core.t.ntActive = s.core.t.ntActive := rfl
@[simp] theorem State.later_t_ntShadow (s : State) (n : Nat) (x : Effect) : (s.later n x).core.t.ntShadow = s.core.t.ntShadow := rfl
@[simp] theorem State.later_t_arr (s : State) (n : Nat) (x : Effect) : (s.later n x).core.t.arr = s.core.t.arr := rfl
@[simp] theorem State.later_t_wbuf (s : State) (n : Nat) (x : Effect) : (s.later n x).core.t.wbuf = s.core.t.wbuf := rfl
@[simp] theorem State.later_t_wbufPsn (s : State) (n : Nat) (x : Effect) : (s.later n x).core.t.wbufPsn = s.core.t.wbufPsn := rfl
@[simp] theorem State.later_t_objs (s : State) (n : Nat) (x : Effect) : (s.later n x).core.t.objs = s.core.t.objs := rfl
@[simp] theorem State.later_t_tq0 (s : State) (n : Nat) (x : Effect) : (s.later n x).core.t.tq0 = s.core.t.tq0 := rfl
@[simp] theorem State.later_t_tq1 (s : State) (n : Nat) (x : Effect) : (s.later n x).core.t.tq1 = s.core.t.tq1 := rfl
@[simp] theorem State.later_t_moveSeq (s : State) (n : Nat) (x : Effect) : (s.later n x).core.t.moveSeq = s.core.t.moveSeq := rfl
@[simp] theorem State.later_t_ev (s : State) (n : Nat) (x : Effect) : (s.later n x).core.t.ev = s.core.t.ev := rfl
@[simp] theorem State.later_t_hold (s : State) (n : Nat) (x : Effect) : (s.later n x).core.t.hold = s.core.t.hold := rfl
@[simp] theorem State.later_t_ring (s : State) (n : Nat) (x : Effect) : (s.later n x).core.t.ring = s.core.t.ring := rfl
@[simp] theorem State.later_t_stall (s : State) (n : Nat) (x : Effect) : (s.later n x).core.t.stall = s.core.t.stall := rfl
@[simp] theorem State.later_t_fetching (s : State) (n : Nat) (x : Effect) : (s.later n x).core.t.fetching = s.core.t.fetching := rfl
@[simp] theorem State.later_t_fetched (s : State) (n : Nat) (x : Effect) : (s.later n x).core.t.fetched = s.core.t.fetched := rfl
@[simp] theorem State.later_t_landId (s : State) (n : Nat) (x : Effect) : (s.later n x).core.t.landId = s.core.t.landId := rfl
@[simp] theorem State.later_t_trapRec (s : State) (n : Nat) (x : Effect) : (s.later n x).core.t.trapRec = s.core.t.trapRec := rfl
@[simp] theorem State.later_t_allocFail (s : State) (n : Nat) (x : Effect) : (s.later n x).core.t.allocFail = s.core.t.allocFail := rfl
@[simp] theorem State.later_t_waitPage (s : State) (n : Nat) (x : Effect) : (s.later n x).core.t.waitPage = s.core.t.waitPage := rfl
@[simp] theorem State.later_t_walkVa (s : State) (n : Nat) (x : Effect) : (s.later n x).core.t.walkVa = s.core.t.walkVa := rfl
@[simp] theorem State.later_t_walkBad (s : State) (n : Nat) (x : Effect) : (s.later n x).core.t.walkBad = s.core.t.walkBad := rfl
@[simp] theorem State.later_t_ckpt (s : State) (n : Nat) (x : Effect) : (s.later n x).core.t.ckpt = s.core.t.ckpt := rfl
@[simp] theorem State.later_t_repeating (s : State) (n : Nat) (x : Effect) : (s.later n x).core.t.repeating = s.core.t.repeating := rfl
@[simp] theorem State.later_t_susp (s : State) (n : Nat) (x : Effect) : (s.later n x).core.t.susp = s.core.t.susp := rfl
@[simp] theorem State.later_t_yielded (s : State) (n : Nat) (x : Effect) : (s.later n x).core.t.yielded = s.core.t.yielded := rfl
@[simp] theorem State.later_t_stop (s : State) (n : Nat) (x : Effect) : (s.later n x).core.t.stop = s.core.t.stop := rfl
@[simp] theorem State.later_t_tpend (s : State) (n : Nat) (x : Effect) : (s.later n x).core.t.tpend = s.core.t.tpend := rfl
@[simp] theorem State.later_t_budget (s : State) (n : Nat) (x : Effect) : (s.later n x).core.t.budget = s.core.t.budget := rfl
@[simp] theorem State.later_t_lslot (s : State) (n : Nat) (x : Effect) : (s.later n x).core.t.lslot = s.core.t.lslot := rfl
@[simp] theorem State.later_t_ctx (s : State) (n : Nat) (x : Effect) : (s.later n x).core.t.ctx = s.core.t.ctx := rfl
@[simp] theorem State.later_t_gang (s : State) (n : Nat) (x : Effect) : (s.later n x).core.t.gang = s.core.t.gang := rfl
@[simp] theorem State.later_t_gangNo (s : State) (n : Nat) (x : Effect) : (s.later n x).core.t.gangNo = s.core.t.gangNo := rfl
@[simp] theorem State.later_t_dx (s : State) (n : Nat) (x : Effect) : (s.later n x).core.t.dx = s.core.t.dx := rfl
@[simp] theorem State.later_t_dy (s : State) (n : Nat) (x : Effect) : (s.later n x).core.t.dy = s.core.t.dy := rfl
@[simp] theorem State.later_t_lead (s : State) (n : Nat) (x : Effect) : (s.later n x).core.t.lead = s.core.t.lead := rfl
@[simp] theorem State.later_t_task (s : State) (n : Nat) (x : Effect) : (s.later n x).core.t.task = s.core.t.task := rfl
@[simp] theorem State.later_t_taskOpen (s : State) (n : Nat) (x : Effect) : (s.later n x).core.t.taskOpen = s.core.t.taskOpen := rfl
@[simp] theorem State.later_t_rerunnable (s : State) (n : Nat) (x : Effect) : (s.later n x).core.t.rerunnable = s.core.t.rerunnable := rfl
@[simp] theorem State.later_t_regionL1 (s : State) (n : Nat) (x : Effect) : (s.later n x).core.t.regionL1 = s.core.t.regionL1 := rfl
@[simp] theorem State.later_t_codeBase (s : State) (n : Nat) (x : Effect) : (s.later n x).core.t.codeBase = s.core.t.codeBase := rfl
@[simp] theorem State.later_t_codeLen (s : State) (n : Nat) (x : Effect) : (s.later n x).core.t.codeLen = s.core.t.codeLen := rfl
@[simp] theorem State.later_t_code (s : State) (n : Nat) (x : Effect) : (s.later n x).core.t.code = s.core.t.code := rfl
@[simp] theorem State.later_t_codePsn (s : State) (n : Nat) (x : Effect) : (s.later n x).core.t.codePsn = s.core.t.codePsn := rfl
@[simp] theorem State.later_t_rputs (s : State) (n : Nat) (x : Effect) : (s.later n x).core.t.rputs = s.core.t.rputs := rfl
@[simp] theorem State.later_t_egress (s : State) (n : Nat) (x : Effect) : (s.later n x).core.t.egress = s.core.t.egress := rfl
@[simp] theorem State.later_t_xlat (s : State) (n : Nat) (x : Effect) : (s.later n x).core.t.xlat = s.core.t.xlat := rfl
@[simp] theorem State.later_t_passed (s : State) (n : Nat) (x : Effect) : (s.later n x).core.t.passed = s.core.t.passed := rfl
@[simp] theorem State.later_t_chkObjs (s : State) (n : Nat) (x : Effect) : (s.later n x).core.t.chkObjs = s.core.t.chkObjs := rfl
@[simp] theorem State.later_t_fpxNext (s : State) (n : Nat) (x : Effect) : (s.later n x).core.t.fpxNext = s.core.t.fpxNext := rfl
@[simp] theorem State.later_t_froze (s : State) (n : Nat) (x : Effect) : (s.later n x).core.t.froze = s.core.t.froze := rfl
@[simp] theorem State.later_t_windowed (s : State) (n : Nat) (x : Effect) : (s.later n x).core.t.windowed = s.core.t.windowed := rfl
@[simp] theorem State.later_core_l1 (s : State) (n : Nat) (x : Effect) : (s.later n x).core.l1 = s.core.l1 := rfl
@[simp] theorem State.later_core_cid (s : State) (n : Nat) (x : Effect) : (s.later n x).core.cid = s.core.cid := rfl
@[simp] theorem State.later_parked (s : State) (n : Nat) (x : Effect) : (s.later n x).parked = s.parked := rfl
@[simp] theorem State.later_mem (s : State) (n : Nat) (x : Effect) : (s.later n x).mem = s.mem := rfl
@[simp] theorem State.later_ue (s : State) (n : Nat) (x : Effect) : (s.later n x).ue = s.ue := rfl
@[simp] theorem State.later_symErr (s : State) (n : Nat) (x : Effect) : (s.later n x).symErr = s.symErr := rfl
@[simp] theorem State.later_enc (s : State) (n : Nat) (x : Effect) : (s.later n x).enc = s.enc := rfl
@[simp] theorem State.later_l2 (s : State) (n : Nat) (x : Effect) : (s.later n x).l2 = s.l2 := rfl
@[simp] theorem State.later_l3 (s : State) (n : Nat) (x : Effect) : (s.later n x).l3 = s.l3 := rfl
@[simp] theorem State.later_hops (s : State) (n : Nat) (x : Effect) : (s.later n x).hops = s.hops := rfl
@[simp] theorem State.later_ports (s : State) (n : Nat) (x : Effect) : (s.later n x).ports = s.ports := rfl
@[simp] theorem State.later_eths (s : State) (n : Nat) (x : Effect) : (s.later n x).eths = s.eths := rfl
@[simp] theorem State.later_qps (s : State) (n : Nat) (x : Effect) : (s.later n x).qps = s.qps := rfl
@[simp] theorem State.later_keys (s : State) (n : Nat) (x : Effect) : (s.later n x).keys = s.keys := rfl
@[simp] theorem State.later_spareAt (s : State) (n : Nat) (x : Effect) : (s.later n x).spareAt = s.spareAt := rfl
@[simp] theorem State.later_chans (s : State) (n : Nat) (x : Effect) : (s.later n x).chans = s.chans := rfl
@[simp] theorem State.later_dev (s : State) (n : Nat) (x : Effect) : (s.later n x).dev = s.dev := rfl
@[simp] theorem State.later_ctxs (s : State) (n : Nat) (x : Effect) : (s.later n x).ctxs = s.ctxs := rfl
@[simp] theorem State.later_inWins (s : State) (n : Nat) (x : Effect) : (s.later n x).inWins = s.inWins := rfl
@[simp] theorem State.later_outWins (s : State) (n : Nat) (x : Effect) : (s.later n x).outWins = s.outWins := rfl
@[simp] theorem State.later_pools (s : State) (n : Nat) (x : Effect) : (s.later n x).pools = s.pools := rfl
@[simp] theorem State.later_tlbs (s : State) (n : Nat) (x : Effect) : (s.later n x).tlbs = s.tlbs := rfl
@[simp] theorem State.later_launches (s : State) (n : Nat) (x : Effect) : (s.later n x).launches = s.launches := rfl
@[simp] theorem State.later_hubs (s : State) (n : Nat) (x : Effect) : (s.later n x).hubs = s.hubs := rfl
@[simp] theorem State.later_l2Ctx (s : State) (n : Nat) (x : Effect) : (s.later n x).l2Ctx = s.l2Ctx := rfl
@[simp] theorem State.later_l3Ctx (s : State) (n : Nat) (x : Effect) : (s.later n x).l3Ctx = s.l3Ctx := rfl
@[simp] theorem State.later_draws (s : State) (n : Nat) (x : Effect) : (s.later n x).draws = s.draws := rfl
@[simp] theorem State.later_faultLog (s : State) (n : Nat) (x : Effect) : (s.later n x).faultLog = s.faultLog := rfl
@[simp] theorem State.later_msix (s : State) (n : Nat) (x : Effect) : (s.later n x).msix = s.msix := rfl
@[simp] theorem State.later_unmasked (s : State) (n : Nat) (x : Effect) : (s.later n x).unmasked = s.unmasked := rfl
@[simp] theorem State.later_msixTab (s : State) (n : Nat) (x : Effect) : (s.later n x).msixTab = s.msixTab := rfl
@[simp] theorem State.later_heldNotes (s : State) (n : Nat) (x : Effect) : (s.later n x).heldNotes = s.heldNotes := rfl
@[simp] theorem State.later_heldMsix (s : State) (n : Nat) (x : Effect) : (s.later n x).heldMsix = s.heldMsix := rfl
@[simp] theorem State.later_heldOrder (s : State) (n : Nat) (x : Effect) : (s.later n x).heldOrder = s.heldOrder := rfl
@[simp] theorem State.later_waitingReports (s : State) (n : Nat) (x : Effect) : (s.later n x).waitingReports = s.waitingReports := rfl
@[simp] theorem State.later_eqOps (s : State) (n : Nat) (x : Effect) : (s.later n x).eqOps = s.eqOps := rfl
@[simp] theorem State.later_nextId (s : State) (n : Nat) (x : Effect) : (s.later n x).nextId = s.nextId := rfl
@[simp] theorem State.later_peerReads (s : State) (n : Nat) (x : Effect) : (s.later n x).peerReads = s.peerReads := rfl
@[simp] theorem State.later_holds (s : State) (n : Nat) (x : Effect) : (s.later n x).holds = s.holds := rfl
@[simp] theorem State.later_buddies (s : State) (n : Nat) (x : Effect) : (s.later n x).buddies = s.buddies := rfl
@[simp] theorem State.later_catchUp (s : State) (n : Nat) (x : Effect) : (s.later n x).catchUp = s.catchUp := rfl
@[simp] theorem State.later_snaps (s : State) (n : Nat) (x : Effect) : (s.later n x).snaps = s.snaps := rfl
@[simp] theorem State.later_appends (s : State) (n : Nat) (x : Effect) : (s.later n x).appends = s.appends := rfl
@[simp] theorem State.later_mailbox (s : State) (n : Nat) (x : Effect) : (s.later n x).mailbox = s.mailbox := rfl
@[simp] theorem State.later_fwStaged (s : State) (n : Nat) (x : Effect) : (s.later n x).fwStaged = s.fwStaged := rfl
@[simp] theorem State.later_fwImages (s : State) (n : Nat) (x : Effect) : (s.later n x).fwImages = s.fwImages := rfl
@[simp] theorem State.later_fwMin (s : State) (n : Nat) (x : Effect) : (s.later n x).fwMin = s.fwMin := rfl
@[simp] theorem State.later_imgVersion (s : State) (n : Nat) (x : Effect) : (s.later n x).imgVersion = s.imgVersion := rfl
@[simp] theorem State.later_repairThr (s : State) (n : Nat) (x : Effect) : (s.later n x).repairThr = s.repairThr := rfl
@[simp] theorem State.later_repairs (s : State) (n : Nat) (x : Effect) : (s.later n x).repairs = s.repairs := rfl
@[simp] theorem State.later_clockSteps (s : State) (n : Nat) (x : Effect) : (s.later n x).clockSteps = s.clockSteps := rfl
@[simp] theorem State.later_powered (s : State) (n : Nat) (x : Effect) : (s.later n x).powered = s.powered := rfl
@[simp] theorem State.later_pcieUp (s : State) (n : Nat) (x : Effect) : (s.later n x).pcieUp = s.pcieUp := rfl
@[simp] theorem State.later_outbox (s : State) (n : Nat) (x : Effect) : (s.later n x).outbox = s.outbox := rfl
@[simp] theorem State.later_agenda (s : State) (n : Nat) (x : Effect) : (s.later n x).agenda = s.agenda := rfl
@[simp] theorem State.later_tick (s : State) (n : Nat) (x : Effect) : (s.later n x).tick = s.tick := rfl
@[simp] theorem State.later_turn (s : State) (n : Nat) (x : Effect) : (s.later n x).turn = s.turn := rfl

/-! ### A launch, a hub, a core -/

@[simp] theorem State.onLaunch_core (s : State) (l : Nat) (f : Launch → Launch) : (s.onLaunch l f).core = s.core := by
  unfold State.onLaunch; split <;> rfl
@[simp] theorem State.onLaunch_parked (s : State) (l : Nat) (f : Launch → Launch) : (s.onLaunch l f).parked = s.parked := by
  unfold State.onLaunch; split <;> rfl
@[simp] theorem State.onLaunch_mem (s : State) (l : Nat) (f : Launch → Launch) : (s.onLaunch l f).mem = s.mem := by
  unfold State.onLaunch; split <;> rfl
@[simp] theorem State.onLaunch_ue (s : State) (l : Nat) (f : Launch → Launch) : (s.onLaunch l f).ue = s.ue := by
  unfold State.onLaunch; split <;> rfl
@[simp] theorem State.onLaunch_symErr (s : State) (l : Nat) (f : Launch → Launch) : (s.onLaunch l f).symErr = s.symErr := by
  unfold State.onLaunch; split <;> rfl
@[simp] theorem State.onLaunch_enc (s : State) (l : Nat) (f : Launch → Launch) : (s.onLaunch l f).enc = s.enc := by
  unfold State.onLaunch; split <;> rfl
@[simp] theorem State.onLaunch_l2 (s : State) (l : Nat) (f : Launch → Launch) : (s.onLaunch l f).l2 = s.l2 := by
  unfold State.onLaunch; split <;> rfl
@[simp] theorem State.onLaunch_l3 (s : State) (l : Nat) (f : Launch → Launch) : (s.onLaunch l f).l3 = s.l3 := by
  unfold State.onLaunch; split <;> rfl
@[simp] theorem State.onLaunch_hops (s : State) (l : Nat) (f : Launch → Launch) : (s.onLaunch l f).hops = s.hops := by
  unfold State.onLaunch; split <;> rfl
@[simp] theorem State.onLaunch_ports (s : State) (l : Nat) (f : Launch → Launch) : (s.onLaunch l f).ports = s.ports := by
  unfold State.onLaunch; split <;> rfl
@[simp] theorem State.onLaunch_eths (s : State) (l : Nat) (f : Launch → Launch) : (s.onLaunch l f).eths = s.eths := by
  unfold State.onLaunch; split <;> rfl
@[simp] theorem State.onLaunch_qps (s : State) (l : Nat) (f : Launch → Launch) : (s.onLaunch l f).qps = s.qps := by
  unfold State.onLaunch; split <;> rfl
@[simp] theorem State.onLaunch_keys (s : State) (l : Nat) (f : Launch → Launch) : (s.onLaunch l f).keys = s.keys := by
  unfold State.onLaunch; split <;> rfl
@[simp] theorem State.onLaunch_spareAt (s : State) (l : Nat) (f : Launch → Launch) : (s.onLaunch l f).spareAt = s.spareAt := by
  unfold State.onLaunch; split <;> rfl
@[simp] theorem State.onLaunch_chans (s : State) (l : Nat) (f : Launch → Launch) : (s.onLaunch l f).chans = s.chans := by
  unfold State.onLaunch; split <;> rfl
@[simp] theorem State.onLaunch_dev (s : State) (l : Nat) (f : Launch → Launch) : (s.onLaunch l f).dev = s.dev := by
  unfold State.onLaunch; split <;> rfl
@[simp] theorem State.onLaunch_ctxs (s : State) (l : Nat) (f : Launch → Launch) : (s.onLaunch l f).ctxs = s.ctxs := by
  unfold State.onLaunch; split <;> rfl
@[simp] theorem State.onLaunch_inWins (s : State) (l : Nat) (f : Launch → Launch) : (s.onLaunch l f).inWins = s.inWins := by
  unfold State.onLaunch; split <;> rfl
@[simp] theorem State.onLaunch_outWins (s : State) (l : Nat) (f : Launch → Launch) : (s.onLaunch l f).outWins = s.outWins := by
  unfold State.onLaunch; split <;> rfl
@[simp] theorem State.onLaunch_pools (s : State) (l : Nat) (f : Launch → Launch) : (s.onLaunch l f).pools = s.pools := by
  unfold State.onLaunch; split <;> rfl
@[simp] theorem State.onLaunch_tlbs (s : State) (l : Nat) (f : Launch → Launch) : (s.onLaunch l f).tlbs = s.tlbs := by
  unfold State.onLaunch; split <;> rfl
@[simp] theorem State.onLaunch_hubs (s : State) (l : Nat) (f : Launch → Launch) : (s.onLaunch l f).hubs = s.hubs := by
  unfold State.onLaunch; split <;> rfl
@[simp] theorem State.onLaunch_l2Ctx (s : State) (l : Nat) (f : Launch → Launch) : (s.onLaunch l f).l2Ctx = s.l2Ctx := by
  unfold State.onLaunch; split <;> rfl
@[simp] theorem State.onLaunch_l3Ctx (s : State) (l : Nat) (f : Launch → Launch) : (s.onLaunch l f).l3Ctx = s.l3Ctx := by
  unfold State.onLaunch; split <;> rfl
@[simp] theorem State.onLaunch_draws (s : State) (l : Nat) (f : Launch → Launch) : (s.onLaunch l f).draws = s.draws := by
  unfold State.onLaunch; split <;> rfl
@[simp] theorem State.onLaunch_faultLog (s : State) (l : Nat) (f : Launch → Launch) : (s.onLaunch l f).faultLog = s.faultLog := by
  unfold State.onLaunch; split <;> rfl
@[simp] theorem State.onLaunch_msix (s : State) (l : Nat) (f : Launch → Launch) : (s.onLaunch l f).msix = s.msix := by
  unfold State.onLaunch; split <;> rfl
@[simp] theorem State.onLaunch_unmasked (s : State) (l : Nat) (f : Launch → Launch) : (s.onLaunch l f).unmasked = s.unmasked := by
  unfold State.onLaunch; split <;> rfl
@[simp] theorem State.onLaunch_msixTab (s : State) (l : Nat) (f : Launch → Launch) : (s.onLaunch l f).msixTab = s.msixTab := by
  unfold State.onLaunch; split <;> rfl
@[simp] theorem State.onLaunch_heldNotes (s : State) (l : Nat) (f : Launch → Launch) : (s.onLaunch l f).heldNotes = s.heldNotes := by
  unfold State.onLaunch; split <;> rfl
@[simp] theorem State.onLaunch_heldMsix (s : State) (l : Nat) (f : Launch → Launch) : (s.onLaunch l f).heldMsix = s.heldMsix := by
  unfold State.onLaunch; split <;> rfl
@[simp] theorem State.onLaunch_heldOrder (s : State) (l : Nat) (f : Launch → Launch) : (s.onLaunch l f).heldOrder = s.heldOrder := by
  unfold State.onLaunch; split <;> rfl
@[simp] theorem State.onLaunch_waitingReports (s : State) (l : Nat) (f : Launch → Launch) : (s.onLaunch l f).waitingReports = s.waitingReports := by
  unfold State.onLaunch; split <;> rfl
@[simp] theorem State.onLaunch_eqOps (s : State) (l : Nat) (f : Launch → Launch) : (s.onLaunch l f).eqOps = s.eqOps := by
  unfold State.onLaunch; split <;> rfl
@[simp] theorem State.onLaunch_nextId (s : State) (l : Nat) (f : Launch → Launch) : (s.onLaunch l f).nextId = s.nextId := by
  unfold State.onLaunch; split <;> rfl
@[simp] theorem State.onLaunch_peerReads (s : State) (l : Nat) (f : Launch → Launch) : (s.onLaunch l f).peerReads = s.peerReads := by
  unfold State.onLaunch; split <;> rfl
@[simp] theorem State.onLaunch_holds (s : State) (l : Nat) (f : Launch → Launch) : (s.onLaunch l f).holds = s.holds := by
  unfold State.onLaunch; split <;> rfl
@[simp] theorem State.onLaunch_buddies (s : State) (l : Nat) (f : Launch → Launch) : (s.onLaunch l f).buddies = s.buddies := by
  unfold State.onLaunch; split <;> rfl
@[simp] theorem State.onLaunch_catchUp (s : State) (l : Nat) (f : Launch → Launch) : (s.onLaunch l f).catchUp = s.catchUp := by
  unfold State.onLaunch; split <;> rfl
@[simp] theorem State.onLaunch_snaps (s : State) (l : Nat) (f : Launch → Launch) : (s.onLaunch l f).snaps = s.snaps := by
  unfold State.onLaunch; split <;> rfl
@[simp] theorem State.onLaunch_appends (s : State) (l : Nat) (f : Launch → Launch) : (s.onLaunch l f).appends = s.appends := by
  unfold State.onLaunch; split <;> rfl
@[simp] theorem State.onLaunch_mailbox (s : State) (l : Nat) (f : Launch → Launch) : (s.onLaunch l f).mailbox = s.mailbox := by
  unfold State.onLaunch; split <;> rfl
@[simp] theorem State.onLaunch_fwStaged (s : State) (l : Nat) (f : Launch → Launch) : (s.onLaunch l f).fwStaged = s.fwStaged := by
  unfold State.onLaunch; split <;> rfl
@[simp] theorem State.onLaunch_fwImages (s : State) (l : Nat) (f : Launch → Launch) : (s.onLaunch l f).fwImages = s.fwImages := by
  unfold State.onLaunch; split <;> rfl
@[simp] theorem State.onLaunch_fwMin (s : State) (l : Nat) (f : Launch → Launch) : (s.onLaunch l f).fwMin = s.fwMin := by
  unfold State.onLaunch; split <;> rfl
@[simp] theorem State.onLaunch_imgVersion (s : State) (l : Nat) (f : Launch → Launch) : (s.onLaunch l f).imgVersion = s.imgVersion := by
  unfold State.onLaunch; split <;> rfl
@[simp] theorem State.onLaunch_repairThr (s : State) (l : Nat) (f : Launch → Launch) : (s.onLaunch l f).repairThr = s.repairThr := by
  unfold State.onLaunch; split <;> rfl
@[simp] theorem State.onLaunch_repairs (s : State) (l : Nat) (f : Launch → Launch) : (s.onLaunch l f).repairs = s.repairs := by
  unfold State.onLaunch; split <;> rfl
@[simp] theorem State.onLaunch_clockSteps (s : State) (l : Nat) (f : Launch → Launch) : (s.onLaunch l f).clockSteps = s.clockSteps := by
  unfold State.onLaunch; split <;> rfl
@[simp] theorem State.onLaunch_powered (s : State) (l : Nat) (f : Launch → Launch) : (s.onLaunch l f).powered = s.powered := by
  unfold State.onLaunch; split <;> rfl
@[simp] theorem State.onLaunch_pcieUp (s : State) (l : Nat) (f : Launch → Launch) : (s.onLaunch l f).pcieUp = s.pcieUp := by
  unfold State.onLaunch; split <;> rfl
@[simp] theorem State.onLaunch_outbox (s : State) (l : Nat) (f : Launch → Launch) : (s.onLaunch l f).outbox = s.outbox := by
  unfold State.onLaunch; split <;> rfl
@[simp] theorem State.onLaunch_agenda (s : State) (l : Nat) (f : Launch → Launch) : (s.onLaunch l f).agenda = s.agenda := by
  unfold State.onLaunch; split <;> rfl
@[simp] theorem State.onLaunch_tick (s : State) (l : Nat) (f : Launch → Launch) : (s.onLaunch l f).tick = s.tick := by
  unfold State.onLaunch; split <;> rfl
@[simp] theorem State.onLaunch_turn (s : State) (l : Nat) (f : Launch → Launch) : (s.onLaunch l f).turn = s.turn := by
  unfold State.onLaunch; split <;> rfl
@[simp] theorem State.onHub_core (s : State) (d : Nat) (f : Hub → Hub) : (s.onHub d f).core = s.core := rfl
@[simp] theorem State.onHub_parked (s : State) (d : Nat) (f : Hub → Hub) : (s.onHub d f).parked = s.parked := rfl
@[simp] theorem State.onHub_mem (s : State) (d : Nat) (f : Hub → Hub) : (s.onHub d f).mem = s.mem := rfl
@[simp] theorem State.onHub_ue (s : State) (d : Nat) (f : Hub → Hub) : (s.onHub d f).ue = s.ue := rfl
@[simp] theorem State.onHub_symErr (s : State) (d : Nat) (f : Hub → Hub) : (s.onHub d f).symErr = s.symErr := rfl
@[simp] theorem State.onHub_enc (s : State) (d : Nat) (f : Hub → Hub) : (s.onHub d f).enc = s.enc := rfl
@[simp] theorem State.onHub_l2 (s : State) (d : Nat) (f : Hub → Hub) : (s.onHub d f).l2 = s.l2 := rfl
@[simp] theorem State.onHub_l3 (s : State) (d : Nat) (f : Hub → Hub) : (s.onHub d f).l3 = s.l3 := rfl
@[simp] theorem State.onHub_hops (s : State) (d : Nat) (f : Hub → Hub) : (s.onHub d f).hops = s.hops := rfl
@[simp] theorem State.onHub_ports (s : State) (d : Nat) (f : Hub → Hub) : (s.onHub d f).ports = s.ports := rfl
@[simp] theorem State.onHub_eths (s : State) (d : Nat) (f : Hub → Hub) : (s.onHub d f).eths = s.eths := rfl
@[simp] theorem State.onHub_qps (s : State) (d : Nat) (f : Hub → Hub) : (s.onHub d f).qps = s.qps := rfl
@[simp] theorem State.onHub_keys (s : State) (d : Nat) (f : Hub → Hub) : (s.onHub d f).keys = s.keys := rfl
@[simp] theorem State.onHub_spareAt (s : State) (d : Nat) (f : Hub → Hub) : (s.onHub d f).spareAt = s.spareAt := rfl
@[simp] theorem State.onHub_chans (s : State) (d : Nat) (f : Hub → Hub) : (s.onHub d f).chans = s.chans := rfl
@[simp] theorem State.onHub_dev (s : State) (d : Nat) (f : Hub → Hub) : (s.onHub d f).dev = s.dev := rfl
@[simp] theorem State.onHub_ctxs (s : State) (d : Nat) (f : Hub → Hub) : (s.onHub d f).ctxs = s.ctxs := rfl
@[simp] theorem State.onHub_inWins (s : State) (d : Nat) (f : Hub → Hub) : (s.onHub d f).inWins = s.inWins := rfl
@[simp] theorem State.onHub_outWins (s : State) (d : Nat) (f : Hub → Hub) : (s.onHub d f).outWins = s.outWins := rfl
@[simp] theorem State.onHub_pools (s : State) (d : Nat) (f : Hub → Hub) : (s.onHub d f).pools = s.pools := rfl
@[simp] theorem State.onHub_tlbs (s : State) (d : Nat) (f : Hub → Hub) : (s.onHub d f).tlbs = s.tlbs := rfl
@[simp] theorem State.onHub_launches (s : State) (d : Nat) (f : Hub → Hub) : (s.onHub d f).launches = s.launches := rfl
@[simp] theorem State.onHub_l2Ctx (s : State) (d : Nat) (f : Hub → Hub) : (s.onHub d f).l2Ctx = s.l2Ctx := rfl
@[simp] theorem State.onHub_l3Ctx (s : State) (d : Nat) (f : Hub → Hub) : (s.onHub d f).l3Ctx = s.l3Ctx := rfl
@[simp] theorem State.onHub_draws (s : State) (d : Nat) (f : Hub → Hub) : (s.onHub d f).draws = s.draws := rfl
@[simp] theorem State.onHub_faultLog (s : State) (d : Nat) (f : Hub → Hub) : (s.onHub d f).faultLog = s.faultLog := rfl
@[simp] theorem State.onHub_msix (s : State) (d : Nat) (f : Hub → Hub) : (s.onHub d f).msix = s.msix := rfl
@[simp] theorem State.onHub_unmasked (s : State) (d : Nat) (f : Hub → Hub) : (s.onHub d f).unmasked = s.unmasked := rfl
@[simp] theorem State.onHub_msixTab (s : State) (d : Nat) (f : Hub → Hub) : (s.onHub d f).msixTab = s.msixTab := rfl
@[simp] theorem State.onHub_heldNotes (s : State) (d : Nat) (f : Hub → Hub) : (s.onHub d f).heldNotes = s.heldNotes := rfl
@[simp] theorem State.onHub_heldMsix (s : State) (d : Nat) (f : Hub → Hub) : (s.onHub d f).heldMsix = s.heldMsix := rfl
@[simp] theorem State.onHub_heldOrder (s : State) (d : Nat) (f : Hub → Hub) : (s.onHub d f).heldOrder = s.heldOrder := rfl
@[simp] theorem State.onHub_waitingReports (s : State) (d : Nat) (f : Hub → Hub) : (s.onHub d f).waitingReports = s.waitingReports := rfl
@[simp] theorem State.onHub_eqOps (s : State) (d : Nat) (f : Hub → Hub) : (s.onHub d f).eqOps = s.eqOps := rfl
@[simp] theorem State.onHub_nextId (s : State) (d : Nat) (f : Hub → Hub) : (s.onHub d f).nextId = s.nextId := rfl
@[simp] theorem State.onHub_peerReads (s : State) (d : Nat) (f : Hub → Hub) : (s.onHub d f).peerReads = s.peerReads := rfl
@[simp] theorem State.onHub_holds (s : State) (d : Nat) (f : Hub → Hub) : (s.onHub d f).holds = s.holds := rfl
@[simp] theorem State.onHub_buddies (s : State) (d : Nat) (f : Hub → Hub) : (s.onHub d f).buddies = s.buddies := rfl
@[simp] theorem State.onHub_catchUp (s : State) (d : Nat) (f : Hub → Hub) : (s.onHub d f).catchUp = s.catchUp := rfl
@[simp] theorem State.onHub_snaps (s : State) (d : Nat) (f : Hub → Hub) : (s.onHub d f).snaps = s.snaps := rfl
@[simp] theorem State.onHub_appends (s : State) (d : Nat) (f : Hub → Hub) : (s.onHub d f).appends = s.appends := rfl
@[simp] theorem State.onHub_mailbox (s : State) (d : Nat) (f : Hub → Hub) : (s.onHub d f).mailbox = s.mailbox := rfl
@[simp] theorem State.onHub_fwStaged (s : State) (d : Nat) (f : Hub → Hub) : (s.onHub d f).fwStaged = s.fwStaged := rfl
@[simp] theorem State.onHub_fwImages (s : State) (d : Nat) (f : Hub → Hub) : (s.onHub d f).fwImages = s.fwImages := rfl
@[simp] theorem State.onHub_fwMin (s : State) (d : Nat) (f : Hub → Hub) : (s.onHub d f).fwMin = s.fwMin := rfl
@[simp] theorem State.onHub_imgVersion (s : State) (d : Nat) (f : Hub → Hub) : (s.onHub d f).imgVersion = s.imgVersion := rfl
@[simp] theorem State.onHub_repairThr (s : State) (d : Nat) (f : Hub → Hub) : (s.onHub d f).repairThr = s.repairThr := rfl
@[simp] theorem State.onHub_repairs (s : State) (d : Nat) (f : Hub → Hub) : (s.onHub d f).repairs = s.repairs := rfl
@[simp] theorem State.onHub_clockSteps (s : State) (d : Nat) (f : Hub → Hub) : (s.onHub d f).clockSteps = s.clockSteps := rfl
@[simp] theorem State.onHub_powered (s : State) (d : Nat) (f : Hub → Hub) : (s.onHub d f).powered = s.powered := rfl
@[simp] theorem State.onHub_pcieUp (s : State) (d : Nat) (f : Hub → Hub) : (s.onHub d f).pcieUp = s.pcieUp := rfl
@[simp] theorem State.onHub_outbox (s : State) (d : Nat) (f : Hub → Hub) : (s.onHub d f).outbox = s.outbox := rfl
@[simp] theorem State.onHub_agenda (s : State) (d : Nat) (f : Hub → Hub) : (s.onHub d f).agenda = s.agenda := rfl
@[simp] theorem State.onHub_tick (s : State) (d : Nat) (f : Hub → Hub) : (s.onHub d f).tick = s.tick := rfl
@[simp] theorem State.onHub_turn (s : State) (d : Nat) (f : Hub → Hub) : (s.onHub d f).turn = s.turn := rfl
@[simp] theorem State.setCore_mem (s : State) (c : Core) : (s.setCore c).mem = s.mem := by
  unfold State.setCore; split <;> rfl
@[simp] theorem State.setCore_ue (s : State) (c : Core) : (s.setCore c).ue = s.ue := by
  unfold State.setCore; split <;> rfl
@[simp] theorem State.setCore_symErr (s : State) (c : Core) : (s.setCore c).symErr = s.symErr := by
  unfold State.setCore; split <;> rfl
@[simp] theorem State.setCore_enc (s : State) (c : Core) : (s.setCore c).enc = s.enc := by
  unfold State.setCore; split <;> rfl
@[simp] theorem State.setCore_l2 (s : State) (c : Core) : (s.setCore c).l2 = s.l2 := by
  unfold State.setCore; split <;> rfl
@[simp] theorem State.setCore_l3 (s : State) (c : Core) : (s.setCore c).l3 = s.l3 := by
  unfold State.setCore; split <;> rfl
@[simp] theorem State.setCore_hops (s : State) (c : Core) : (s.setCore c).hops = s.hops := by
  unfold State.setCore; split <;> rfl
@[simp] theorem State.setCore_ports (s : State) (c : Core) : (s.setCore c).ports = s.ports := by
  unfold State.setCore; split <;> rfl
@[simp] theorem State.setCore_eths (s : State) (c : Core) : (s.setCore c).eths = s.eths := by
  unfold State.setCore; split <;> rfl
@[simp] theorem State.setCore_qps (s : State) (c : Core) : (s.setCore c).qps = s.qps := by
  unfold State.setCore; split <;> rfl
@[simp] theorem State.setCore_keys (s : State) (c : Core) : (s.setCore c).keys = s.keys := by
  unfold State.setCore; split <;> rfl
@[simp] theorem State.setCore_spareAt (s : State) (c : Core) : (s.setCore c).spareAt = s.spareAt := by
  unfold State.setCore; split <;> rfl
@[simp] theorem State.setCore_chans (s : State) (c : Core) : (s.setCore c).chans = s.chans := by
  unfold State.setCore; split <;> rfl
@[simp] theorem State.setCore_dev (s : State) (c : Core) : (s.setCore c).dev = s.dev := by
  unfold State.setCore; split <;> rfl
@[simp] theorem State.setCore_ctxs (s : State) (c : Core) : (s.setCore c).ctxs = s.ctxs := by
  unfold State.setCore; split <;> rfl
@[simp] theorem State.setCore_inWins (s : State) (c : Core) : (s.setCore c).inWins = s.inWins := by
  unfold State.setCore; split <;> rfl
@[simp] theorem State.setCore_outWins (s : State) (c : Core) : (s.setCore c).outWins = s.outWins := by
  unfold State.setCore; split <;> rfl
@[simp] theorem State.setCore_pools (s : State) (c : Core) : (s.setCore c).pools = s.pools := by
  unfold State.setCore; split <;> rfl
@[simp] theorem State.setCore_tlbs (s : State) (c : Core) : (s.setCore c).tlbs = s.tlbs := by
  unfold State.setCore; split <;> rfl
@[simp] theorem State.setCore_launches (s : State) (c : Core) : (s.setCore c).launches = s.launches := by
  unfold State.setCore; split <;> rfl
@[simp] theorem State.setCore_hubs (s : State) (c : Core) : (s.setCore c).hubs = s.hubs := by
  unfold State.setCore; split <;> rfl
@[simp] theorem State.setCore_l2Ctx (s : State) (c : Core) : (s.setCore c).l2Ctx = s.l2Ctx := by
  unfold State.setCore; split <;> rfl
@[simp] theorem State.setCore_l3Ctx (s : State) (c : Core) : (s.setCore c).l3Ctx = s.l3Ctx := by
  unfold State.setCore; split <;> rfl
@[simp] theorem State.setCore_draws (s : State) (c : Core) : (s.setCore c).draws = s.draws := by
  unfold State.setCore; split <;> rfl
@[simp] theorem State.setCore_faultLog (s : State) (c : Core) : (s.setCore c).faultLog = s.faultLog := by
  unfold State.setCore; split <;> rfl
@[simp] theorem State.setCore_msix (s : State) (c : Core) : (s.setCore c).msix = s.msix := by
  unfold State.setCore; split <;> rfl
@[simp] theorem State.setCore_unmasked (s : State) (c : Core) : (s.setCore c).unmasked = s.unmasked := by
  unfold State.setCore; split <;> rfl
@[simp] theorem State.setCore_msixTab (s : State) (c : Core) : (s.setCore c).msixTab = s.msixTab := by
  unfold State.setCore; split <;> rfl
@[simp] theorem State.setCore_heldNotes (s : State) (c : Core) : (s.setCore c).heldNotes = s.heldNotes := by
  unfold State.setCore; split <;> rfl
@[simp] theorem State.setCore_heldMsix (s : State) (c : Core) : (s.setCore c).heldMsix = s.heldMsix := by
  unfold State.setCore; split <;> rfl
@[simp] theorem State.setCore_heldOrder (s : State) (c : Core) : (s.setCore c).heldOrder = s.heldOrder := by
  unfold State.setCore; split <;> rfl
@[simp] theorem State.setCore_waitingReports (s : State) (c : Core) : (s.setCore c).waitingReports = s.waitingReports := by
  unfold State.setCore; split <;> rfl
@[simp] theorem State.setCore_eqOps (s : State) (c : Core) : (s.setCore c).eqOps = s.eqOps := by
  unfold State.setCore; split <;> rfl
@[simp] theorem State.setCore_nextId (s : State) (c : Core) : (s.setCore c).nextId = s.nextId := by
  unfold State.setCore; split <;> rfl
@[simp] theorem State.setCore_peerReads (s : State) (c : Core) : (s.setCore c).peerReads = s.peerReads := by
  unfold State.setCore; split <;> rfl
@[simp] theorem State.setCore_holds (s : State) (c : Core) : (s.setCore c).holds = s.holds := by
  unfold State.setCore; split <;> rfl
@[simp] theorem State.setCore_buddies (s : State) (c : Core) : (s.setCore c).buddies = s.buddies := by
  unfold State.setCore; split <;> rfl
@[simp] theorem State.setCore_catchUp (s : State) (c : Core) : (s.setCore c).catchUp = s.catchUp := by
  unfold State.setCore; split <;> rfl
@[simp] theorem State.setCore_snaps (s : State) (c : Core) : (s.setCore c).snaps = s.snaps := by
  unfold State.setCore; split <;> rfl
@[simp] theorem State.setCore_appends (s : State) (c : Core) : (s.setCore c).appends = s.appends := by
  unfold State.setCore; split <;> rfl
@[simp] theorem State.setCore_mailbox (s : State) (c : Core) : (s.setCore c).mailbox = s.mailbox := by
  unfold State.setCore; split <;> rfl
@[simp] theorem State.setCore_fwStaged (s : State) (c : Core) : (s.setCore c).fwStaged = s.fwStaged := by
  unfold State.setCore; split <;> rfl
@[simp] theorem State.setCore_fwImages (s : State) (c : Core) : (s.setCore c).fwImages = s.fwImages := by
  unfold State.setCore; split <;> rfl
@[simp] theorem State.setCore_fwMin (s : State) (c : Core) : (s.setCore c).fwMin = s.fwMin := by
  unfold State.setCore; split <;> rfl
@[simp] theorem State.setCore_imgVersion (s : State) (c : Core) : (s.setCore c).imgVersion = s.imgVersion := by
  unfold State.setCore; split <;> rfl
@[simp] theorem State.setCore_repairThr (s : State) (c : Core) : (s.setCore c).repairThr = s.repairThr := by
  unfold State.setCore; split <;> rfl
@[simp] theorem State.setCore_repairs (s : State) (c : Core) : (s.setCore c).repairs = s.repairs := by
  unfold State.setCore; split <;> rfl
@[simp] theorem State.setCore_clockSteps (s : State) (c : Core) : (s.setCore c).clockSteps = s.clockSteps := by
  unfold State.setCore; split <;> rfl
@[simp] theorem State.setCore_powered (s : State) (c : Core) : (s.setCore c).powered = s.powered := by
  unfold State.setCore; split <;> rfl
@[simp] theorem State.setCore_pcieUp (s : State) (c : Core) : (s.setCore c).pcieUp = s.pcieUp := by
  unfold State.setCore; split <;> rfl
@[simp] theorem State.setCore_outbox (s : State) (c : Core) : (s.setCore c).outbox = s.outbox := by
  unfold State.setCore; split <;> rfl
@[simp] theorem State.setCore_agenda (s : State) (c : Core) : (s.setCore c).agenda = s.agenda := by
  unfold State.setCore; split <;> rfl
@[simp] theorem State.setCore_tick (s : State) (c : Core) : (s.setCore c).tick = s.tick := by
  unfold State.setCore; split <;> rfl
@[simp] theorem State.setCore_turn (s : State) (c : Core) : (s.setCore c).turn = s.turn := by
  unfold State.setCore; split <;> rfl
@[simp] theorem State.onCore_mem (s : State) (k : Nat) (f : Core → Core) : (s.onCore k f).mem = s.mem := by
  simp [State.onCore]
@[simp] theorem State.onCore_ue (s : State) (k : Nat) (f : Core → Core) : (s.onCore k f).ue = s.ue := by
  simp [State.onCore]
@[simp] theorem State.onCore_symErr (s : State) (k : Nat) (f : Core → Core) : (s.onCore k f).symErr = s.symErr := by
  simp [State.onCore]
@[simp] theorem State.onCore_enc (s : State) (k : Nat) (f : Core → Core) : (s.onCore k f).enc = s.enc := by
  simp [State.onCore]
@[simp] theorem State.onCore_l2 (s : State) (k : Nat) (f : Core → Core) : (s.onCore k f).l2 = s.l2 := by
  simp [State.onCore]
@[simp] theorem State.onCore_l3 (s : State) (k : Nat) (f : Core → Core) : (s.onCore k f).l3 = s.l3 := by
  simp [State.onCore]
@[simp] theorem State.onCore_hops (s : State) (k : Nat) (f : Core → Core) : (s.onCore k f).hops = s.hops := by
  simp [State.onCore]
@[simp] theorem State.onCore_ports (s : State) (k : Nat) (f : Core → Core) : (s.onCore k f).ports = s.ports := by
  simp [State.onCore]
@[simp] theorem State.onCore_eths (s : State) (k : Nat) (f : Core → Core) : (s.onCore k f).eths = s.eths := by
  simp [State.onCore]
@[simp] theorem State.onCore_qps (s : State) (k : Nat) (f : Core → Core) : (s.onCore k f).qps = s.qps := by
  simp [State.onCore]
@[simp] theorem State.onCore_keys (s : State) (k : Nat) (f : Core → Core) : (s.onCore k f).keys = s.keys := by
  simp [State.onCore]
@[simp] theorem State.onCore_spareAt (s : State) (k : Nat) (f : Core → Core) : (s.onCore k f).spareAt = s.spareAt := by
  simp [State.onCore]
@[simp] theorem State.onCore_chans (s : State) (k : Nat) (f : Core → Core) : (s.onCore k f).chans = s.chans := by
  simp [State.onCore]
@[simp] theorem State.onCore_dev (s : State) (k : Nat) (f : Core → Core) : (s.onCore k f).dev = s.dev := by
  simp [State.onCore]
@[simp] theorem State.onCore_ctxs (s : State) (k : Nat) (f : Core → Core) : (s.onCore k f).ctxs = s.ctxs := by
  simp [State.onCore]
@[simp] theorem State.onCore_inWins (s : State) (k : Nat) (f : Core → Core) : (s.onCore k f).inWins = s.inWins := by
  simp [State.onCore]
@[simp] theorem State.onCore_outWins (s : State) (k : Nat) (f : Core → Core) : (s.onCore k f).outWins = s.outWins := by
  simp [State.onCore]
@[simp] theorem State.onCore_pools (s : State) (k : Nat) (f : Core → Core) : (s.onCore k f).pools = s.pools := by
  simp [State.onCore]
@[simp] theorem State.onCore_tlbs (s : State) (k : Nat) (f : Core → Core) : (s.onCore k f).tlbs = s.tlbs := by
  simp [State.onCore]
@[simp] theorem State.onCore_launches (s : State) (k : Nat) (f : Core → Core) : (s.onCore k f).launches = s.launches := by
  simp [State.onCore]
@[simp] theorem State.onCore_hubs (s : State) (k : Nat) (f : Core → Core) : (s.onCore k f).hubs = s.hubs := by
  simp [State.onCore]
@[simp] theorem State.onCore_l2Ctx (s : State) (k : Nat) (f : Core → Core) : (s.onCore k f).l2Ctx = s.l2Ctx := by
  simp [State.onCore]
@[simp] theorem State.onCore_l3Ctx (s : State) (k : Nat) (f : Core → Core) : (s.onCore k f).l3Ctx = s.l3Ctx := by
  simp [State.onCore]
@[simp] theorem State.onCore_draws (s : State) (k : Nat) (f : Core → Core) : (s.onCore k f).draws = s.draws := by
  simp [State.onCore]
@[simp] theorem State.onCore_faultLog (s : State) (k : Nat) (f : Core → Core) : (s.onCore k f).faultLog = s.faultLog := by
  simp [State.onCore]
@[simp] theorem State.onCore_msix (s : State) (k : Nat) (f : Core → Core) : (s.onCore k f).msix = s.msix := by
  simp [State.onCore]
@[simp] theorem State.onCore_unmasked (s : State) (k : Nat) (f : Core → Core) : (s.onCore k f).unmasked = s.unmasked := by
  simp [State.onCore]
@[simp] theorem State.onCore_msixTab (s : State) (k : Nat) (f : Core → Core) : (s.onCore k f).msixTab = s.msixTab := by
  simp [State.onCore]
@[simp] theorem State.onCore_heldNotes (s : State) (k : Nat) (f : Core → Core) : (s.onCore k f).heldNotes = s.heldNotes := by
  simp [State.onCore]
@[simp] theorem State.onCore_heldMsix (s : State) (k : Nat) (f : Core → Core) : (s.onCore k f).heldMsix = s.heldMsix := by
  simp [State.onCore]
@[simp] theorem State.onCore_heldOrder (s : State) (k : Nat) (f : Core → Core) : (s.onCore k f).heldOrder = s.heldOrder := by
  simp [State.onCore]
@[simp] theorem State.onCore_waitingReports (s : State) (k : Nat) (f : Core → Core) : (s.onCore k f).waitingReports = s.waitingReports := by
  simp [State.onCore]
@[simp] theorem State.onCore_eqOps (s : State) (k : Nat) (f : Core → Core) : (s.onCore k f).eqOps = s.eqOps := by
  simp [State.onCore]
@[simp] theorem State.onCore_nextId (s : State) (k : Nat) (f : Core → Core) : (s.onCore k f).nextId = s.nextId := by
  simp [State.onCore]
@[simp] theorem State.onCore_peerReads (s : State) (k : Nat) (f : Core → Core) : (s.onCore k f).peerReads = s.peerReads := by
  simp [State.onCore]
@[simp] theorem State.onCore_holds (s : State) (k : Nat) (f : Core → Core) : (s.onCore k f).holds = s.holds := by
  simp [State.onCore]
@[simp] theorem State.onCore_buddies (s : State) (k : Nat) (f : Core → Core) : (s.onCore k f).buddies = s.buddies := by
  simp [State.onCore]
@[simp] theorem State.onCore_catchUp (s : State) (k : Nat) (f : Core → Core) : (s.onCore k f).catchUp = s.catchUp := by
  simp [State.onCore]
@[simp] theorem State.onCore_snaps (s : State) (k : Nat) (f : Core → Core) : (s.onCore k f).snaps = s.snaps := by
  simp [State.onCore]
@[simp] theorem State.onCore_appends (s : State) (k : Nat) (f : Core → Core) : (s.onCore k f).appends = s.appends := by
  simp [State.onCore]
@[simp] theorem State.onCore_mailbox (s : State) (k : Nat) (f : Core → Core) : (s.onCore k f).mailbox = s.mailbox := by
  simp [State.onCore]
@[simp] theorem State.onCore_fwStaged (s : State) (k : Nat) (f : Core → Core) : (s.onCore k f).fwStaged = s.fwStaged := by
  simp [State.onCore]
@[simp] theorem State.onCore_fwImages (s : State) (k : Nat) (f : Core → Core) : (s.onCore k f).fwImages = s.fwImages := by
  simp [State.onCore]
@[simp] theorem State.onCore_fwMin (s : State) (k : Nat) (f : Core → Core) : (s.onCore k f).fwMin = s.fwMin := by
  simp [State.onCore]
@[simp] theorem State.onCore_imgVersion (s : State) (k : Nat) (f : Core → Core) : (s.onCore k f).imgVersion = s.imgVersion := by
  simp [State.onCore]
@[simp] theorem State.onCore_repairThr (s : State) (k : Nat) (f : Core → Core) : (s.onCore k f).repairThr = s.repairThr := by
  simp [State.onCore]
@[simp] theorem State.onCore_repairs (s : State) (k : Nat) (f : Core → Core) : (s.onCore k f).repairs = s.repairs := by
  simp [State.onCore]
@[simp] theorem State.onCore_clockSteps (s : State) (k : Nat) (f : Core → Core) : (s.onCore k f).clockSteps = s.clockSteps := by
  simp [State.onCore]
@[simp] theorem State.onCore_powered (s : State) (k : Nat) (f : Core → Core) : (s.onCore k f).powered = s.powered := by
  simp [State.onCore]
@[simp] theorem State.onCore_pcieUp (s : State) (k : Nat) (f : Core → Core) : (s.onCore k f).pcieUp = s.pcieUp := by
  simp [State.onCore]
@[simp] theorem State.onCore_outbox (s : State) (k : Nat) (f : Core → Core) : (s.onCore k f).outbox = s.outbox := by
  simp [State.onCore]
@[simp] theorem State.onCore_agenda (s : State) (k : Nat) (f : Core → Core) : (s.onCore k f).agenda = s.agenda := by
  simp [State.onCore]
@[simp] theorem State.onCore_tick (s : State) (k : Nat) (f : Core → Core) : (s.onCore k f).tick = s.tick := by
  simp [State.onCore]
@[simp] theorem State.onCore_turn (s : State) (k : Nat) (f : Core → Core) : (s.onCore k f).turn = s.turn := by
  simp [State.onCore]

/-! ### The registers of a thread -/

@[simp] theorem Thread.setS_mode (t : Thread) (d : BitVec 5) (v : PWord) : (t.setS d v).mode = t.mode := by
  unfold Thread.setS; split <;> rfl
@[simp] theorem Thread.setS_handler (t : Thread) (d : BitVec 5) (v : PWord) : (t.setS d v).handler = t.handler := by
  unfold Thread.setS; split <;> rfl
@[simp] theorem Thread.setS_pc (t : Thread) (d : BitVec 5) (v : PWord) : (t.setS d v).pc = t.pc := by
  unfold Thread.setS; split <;> rfl
@[simp] theorem Thread.setS_pcn (t : Thread) (d : BitVec 5) (v : PWord) : (t.setS d v).pcn = t.pcn := by
  unfold Thread.setS; split <;> rfl
@[simp] theorem Thread.setS_npc (t : Thread) (d : BitVec 5) (v : PWord) : (t.setS d v).npc = t.npc := by
  unfold Thread.setS; split <;> rfl
@[simp] theorem Thread.setS_cycle (t : Thread) (d : BitVec 5) (v : PWord) : (t.setS d v).cycle = t.cycle := by
  unfold Thread.setS; split <;> rfl
@[simp] theorem Thread.setS_aregs (t : Thread) (d : BitVec 5) (v : PWord) : (t.setS d v).aregs = t.aregs := by
  unfold Thread.setS; split <;> rfl
@[simp] theorem Thread.setS_vregs (t : Thread) (d : BitVec 5) (v : PWord) : (t.setS d v).vregs = t.vregs := by
  unfold Thread.setS; split <;> rfl
@[simp] theorem Thread.setS_kregs (t : Thread) (d : BitVec 5) (v : PWord) : (t.setS d v).kregs = t.kregs := by
  unfold Thread.setS; split <;> rfl
@[simp] theorem Thread.setS_latches (t : Thread) (d : BitVec 5) (v : PWord) : (t.setS d v).latches = t.latches := by
  unfold Thread.setS; split <;> rfl
@[simp] theorem Thread.setS_flights (t : Thread) (d : BitVec 5) (v : PWord) : (t.setS d v).flights = t.flights := by
  unfold Thread.setS; split <;> rfl
@[simp] theorem Thread.setS_rep (t : Thread) (d : BitVec 5) (v : PWord) : (t.setS d v).rep = t.rep := by
  unfold Thread.setS; split <;> rfl
@[simp] theorem Thread.setS_frame (t : Thread) (d : BitVec 5) (v : PWord) : (t.setS d v).frame = t.frame := by
  unfold Thread.setS; split <;> rfl
@[simp] theorem Thread.setS_stat (t : Thread) (d : BitVec 5) (v : PWord) : (t.setS d v).stat = t.stat := by
  unfold Thread.setS; split <;> rfl
@[simp] theorem Thread.setS_fpx (t : Thread) (d : BitVec 5) (v : PWord) : (t.setS d v).fpx = t.fpx := by
  unfold Thread.setS; split <;> rfl
@[simp] theorem Thread.setS_ckptlim (t : Thread) (d : BitVec 5) (v : PWord) : (t.setS d v).ckptlim = t.ckptlim := by
  unfold Thread.setS; split <;> rfl
@[simp] theorem Thread.setS_trappc (t : Thread) (d : BitVec 5) (v : PWord) : (t.setS d v).trappc = t.trappc := by
  unfold Thread.setS; split <;> rfl
@[simp] theorem Thread.setS_trapcause (t : Thread) (d : BitVec 5) (v : PWord) : (t.setS d v).trapcause = t.trapcause := by
  unfold Thread.setS; split <;> rfl
@[simp] theorem Thread.setS_trapval (t : Thread) (d : BitVec 5) (v : PWord) : (t.setS d v).trapval = t.trapval := by
  unfold Thread.setS; split <;> rfl
@[simp] theorem Thread.setS_tscr (t : Thread) (d : BitVec 5) (v : PWord) : (t.setS d v).tscr = t.tscr := by
  unfold Thread.setS; split <;> rfl
@[simp] theorem Thread.setS_sl (t : Thread) (d : BitVec 5) (v : PWord) : (t.setS d v).sl = t.sl := by
  unfold Thread.setS; split <;> rfl
@[simp] theorem Thread.setS_seeda (t : Thread) (d : BitVec 5) (v : PWord) : (t.setS d v).seeda = t.seeda := by
  unfold Thread.setS; split <;> rfl
@[simp] theorem Thread.setS_seedb (t : Thread) (d : BitVec 5) (v : PWord) : (t.setS d v).seedb = t.seedb := by
  unfold Thread.setS; split <;> rfl
@[simp] theorem Thread.setS_prof (t : Thread) (d : BitVec 5) (v : PWord) : (t.setS d v).prof = t.prof := by
  unfold Thread.setS; split <;> rfl
@[simp] theorem Thread.setS_smode (t : Thread) (d : BitVec 5) (v : PWord) : (t.setS d v).smode = t.smode := by
  unfold Thread.setS; split <;> rfl
@[simp] theorem Thread.setS_ebnd (t : Thread) (d : BitVec 5) (v : PWord) : (t.setS d v).ebnd = t.ebnd := by
  unfold Thread.setS; split <;> rfl
@[simp] theorem Thread.setS_waitcnt (t : Thread) (d : BitVec 5) (v : PWord) : (t.setS d v).waitcnt = t.waitcnt := by
  unfold Thread.setS; split <;> rfl
@[simp] theorem Thread.setS_tl (t : Thread) (d : BitVec 5) (v : PWord) : (t.setS d v).tl = t.tl := by
  unfold Thread.setS; split <;> rfl
@[simp] theorem Thread.setS_bars (t : Thread) (d : BitVec 5) (v : PWord) : (t.setS d v).bars = t.bars := by
  unfold Thread.setS; split <;> rfl
@[simp] theorem Thread.setS_qs (t : Thread) (d : BitVec 5) (v : PWord) : (t.setS d v).qs = t.qs := by
  unfold Thread.setS; split <;> rfl
@[simp] theorem Thread.setS_ntActive (t : Thread) (d : BitVec 5) (v : PWord) : (t.setS d v).ntActive = t.ntActive := by
  unfold Thread.setS; split <;> rfl
@[simp] theorem Thread.setS_ntShadow (t : Thread) (d : BitVec 5) (v : PWord) : (t.setS d v).ntShadow = t.ntShadow := by
  unfold Thread.setS; split <;> rfl
@[simp] theorem Thread.setS_arr (t : Thread) (d : BitVec 5) (v : PWord) : (t.setS d v).arr = t.arr := by
  unfold Thread.setS; split <;> rfl
@[simp] theorem Thread.setS_wbuf (t : Thread) (d : BitVec 5) (v : PWord) : (t.setS d v).wbuf = t.wbuf := by
  unfold Thread.setS; split <;> rfl
@[simp] theorem Thread.setS_wbufPsn (t : Thread) (d : BitVec 5) (v : PWord) : (t.setS d v).wbufPsn = t.wbufPsn := by
  unfold Thread.setS; split <;> rfl
@[simp] theorem Thread.setS_objs (t : Thread) (d : BitVec 5) (v : PWord) : (t.setS d v).objs = t.objs := by
  unfold Thread.setS; split <;> rfl
@[simp] theorem Thread.setS_tq0 (t : Thread) (d : BitVec 5) (v : PWord) : (t.setS d v).tq0 = t.tq0 := by
  unfold Thread.setS; split <;> rfl
@[simp] theorem Thread.setS_tq1 (t : Thread) (d : BitVec 5) (v : PWord) : (t.setS d v).tq1 = t.tq1 := by
  unfold Thread.setS; split <;> rfl
@[simp] theorem Thread.setS_moveSeq (t : Thread) (d : BitVec 5) (v : PWord) : (t.setS d v).moveSeq = t.moveSeq := by
  unfold Thread.setS; split <;> rfl
@[simp] theorem Thread.setS_ev (t : Thread) (d : BitVec 5) (v : PWord) : (t.setS d v).ev = t.ev := by
  unfold Thread.setS; split <;> rfl
@[simp] theorem Thread.setS_hold (t : Thread) (d : BitVec 5) (v : PWord) : (t.setS d v).hold = t.hold := by
  unfold Thread.setS; split <;> rfl
@[simp] theorem Thread.setS_ring (t : Thread) (d : BitVec 5) (v : PWord) : (t.setS d v).ring = t.ring := by
  unfold Thread.setS; split <;> rfl
@[simp] theorem Thread.setS_stall (t : Thread) (d : BitVec 5) (v : PWord) : (t.setS d v).stall = t.stall := by
  unfold Thread.setS; split <;> rfl
@[simp] theorem Thread.setS_fetching (t : Thread) (d : BitVec 5) (v : PWord) : (t.setS d v).fetching = t.fetching := by
  unfold Thread.setS; split <;> rfl
@[simp] theorem Thread.setS_fetched (t : Thread) (d : BitVec 5) (v : PWord) : (t.setS d v).fetched = t.fetched := by
  unfold Thread.setS; split <;> rfl
@[simp] theorem Thread.setS_landId (t : Thread) (d : BitVec 5) (v : PWord) : (t.setS d v).landId = t.landId := by
  unfold Thread.setS; split <;> rfl
@[simp] theorem Thread.setS_trapRec (t : Thread) (d : BitVec 5) (v : PWord) : (t.setS d v).trapRec = t.trapRec := by
  unfold Thread.setS; split <;> rfl
@[simp] theorem Thread.setS_allocFail (t : Thread) (d : BitVec 5) (v : PWord) : (t.setS d v).allocFail = t.allocFail := by
  unfold Thread.setS; split <;> rfl
@[simp] theorem Thread.setS_waitPage (t : Thread) (d : BitVec 5) (v : PWord) : (t.setS d v).waitPage = t.waitPage := by
  unfold Thread.setS; split <;> rfl
@[simp] theorem Thread.setS_walkVa (t : Thread) (d : BitVec 5) (v : PWord) : (t.setS d v).walkVa = t.walkVa := by
  unfold Thread.setS; split <;> rfl
@[simp] theorem Thread.setS_walkBad (t : Thread) (d : BitVec 5) (v : PWord) : (t.setS d v).walkBad = t.walkBad := by
  unfold Thread.setS; split <;> rfl
@[simp] theorem Thread.setS_ckpt (t : Thread) (d : BitVec 5) (v : PWord) : (t.setS d v).ckpt = t.ckpt := by
  unfold Thread.setS; split <;> rfl
@[simp] theorem Thread.setS_repeating (t : Thread) (d : BitVec 5) (v : PWord) : (t.setS d v).repeating = t.repeating := by
  unfold Thread.setS; split <;> rfl
@[simp] theorem Thread.setS_susp (t : Thread) (d : BitVec 5) (v : PWord) : (t.setS d v).susp = t.susp := by
  unfold Thread.setS; split <;> rfl
@[simp] theorem Thread.setS_yielded (t : Thread) (d : BitVec 5) (v : PWord) : (t.setS d v).yielded = t.yielded := by
  unfold Thread.setS; split <;> rfl
@[simp] theorem Thread.setS_stop (t : Thread) (d : BitVec 5) (v : PWord) : (t.setS d v).stop = t.stop := by
  unfold Thread.setS; split <;> rfl
@[simp] theorem Thread.setS_tpend (t : Thread) (d : BitVec 5) (v : PWord) : (t.setS d v).tpend = t.tpend := by
  unfold Thread.setS; split <;> rfl
@[simp] theorem Thread.setS_budget (t : Thread) (d : BitVec 5) (v : PWord) : (t.setS d v).budget = t.budget := by
  unfold Thread.setS; split <;> rfl
@[simp] theorem Thread.setS_lslot (t : Thread) (d : BitVec 5) (v : PWord) : (t.setS d v).lslot = t.lslot := by
  unfold Thread.setS; split <;> rfl
@[simp] theorem Thread.setS_ctx (t : Thread) (d : BitVec 5) (v : PWord) : (t.setS d v).ctx = t.ctx := by
  unfold Thread.setS; split <;> rfl
@[simp] theorem Thread.setS_gang (t : Thread) (d : BitVec 5) (v : PWord) : (t.setS d v).gang = t.gang := by
  unfold Thread.setS; split <;> rfl
@[simp] theorem Thread.setS_gangNo (t : Thread) (d : BitVec 5) (v : PWord) : (t.setS d v).gangNo = t.gangNo := by
  unfold Thread.setS; split <;> rfl
@[simp] theorem Thread.setS_dx (t : Thread) (d : BitVec 5) (v : PWord) : (t.setS d v).dx = t.dx := by
  unfold Thread.setS; split <;> rfl
@[simp] theorem Thread.setS_dy (t : Thread) (d : BitVec 5) (v : PWord) : (t.setS d v).dy = t.dy := by
  unfold Thread.setS; split <;> rfl
@[simp] theorem Thread.setS_lead (t : Thread) (d : BitVec 5) (v : PWord) : (t.setS d v).lead = t.lead := by
  unfold Thread.setS; split <;> rfl
@[simp] theorem Thread.setS_task (t : Thread) (d : BitVec 5) (v : PWord) : (t.setS d v).task = t.task := by
  unfold Thread.setS; split <;> rfl
@[simp] theorem Thread.setS_taskOpen (t : Thread) (d : BitVec 5) (v : PWord) : (t.setS d v).taskOpen = t.taskOpen := by
  unfold Thread.setS; split <;> rfl
@[simp] theorem Thread.setS_rerunnable (t : Thread) (d : BitVec 5) (v : PWord) : (t.setS d v).rerunnable = t.rerunnable := by
  unfold Thread.setS; split <;> rfl
@[simp] theorem Thread.setS_regionL1 (t : Thread) (d : BitVec 5) (v : PWord) : (t.setS d v).regionL1 = t.regionL1 := by
  unfold Thread.setS; split <;> rfl
@[simp] theorem Thread.setS_codeBase (t : Thread) (d : BitVec 5) (v : PWord) : (t.setS d v).codeBase = t.codeBase := by
  unfold Thread.setS; split <;> rfl
@[simp] theorem Thread.setS_codeLen (t : Thread) (d : BitVec 5) (v : PWord) : (t.setS d v).codeLen = t.codeLen := by
  unfold Thread.setS; split <;> rfl
@[simp] theorem Thread.setS_code (t : Thread) (d : BitVec 5) (v : PWord) : (t.setS d v).code = t.code := by
  unfold Thread.setS; split <;> rfl
@[simp] theorem Thread.setS_codePsn (t : Thread) (d : BitVec 5) (v : PWord) : (t.setS d v).codePsn = t.codePsn := by
  unfold Thread.setS; split <;> rfl
@[simp] theorem Thread.setS_rputs (t : Thread) (d : BitVec 5) (v : PWord) : (t.setS d v).rputs = t.rputs := by
  unfold Thread.setS; split <;> rfl
@[simp] theorem Thread.setS_egress (t : Thread) (d : BitVec 5) (v : PWord) : (t.setS d v).egress = t.egress := by
  unfold Thread.setS; split <;> rfl
@[simp] theorem Thread.setS_xlat (t : Thread) (d : BitVec 5) (v : PWord) : (t.setS d v).xlat = t.xlat := by
  unfold Thread.setS; split <;> rfl
@[simp] theorem Thread.setS_passed (t : Thread) (d : BitVec 5) (v : PWord) : (t.setS d v).passed = t.passed := by
  unfold Thread.setS; split <;> rfl
@[simp] theorem Thread.setS_chkObjs (t : Thread) (d : BitVec 5) (v : PWord) : (t.setS d v).chkObjs = t.chkObjs := by
  unfold Thread.setS; split <;> rfl
@[simp] theorem Thread.setS_fpxNext (t : Thread) (d : BitVec 5) (v : PWord) : (t.setS d v).fpxNext = t.fpxNext := by
  unfold Thread.setS; split <;> rfl
@[simp] theorem Thread.setS_froze (t : Thread) (d : BitVec 5) (v : PWord) : (t.setS d v).froze = t.froze := by
  unfold Thread.setS; split <;> rfl
@[simp] theorem Thread.setS_windowed (t : Thread) (d : BitVec 5) (v : PWord) : (t.setS d v).windowed = t.windowed := by
  unfold Thread.setS; split <;> rfl
@[simp] theorem Thread.setA_mode (t : Thread) (d : BitVec 4) (v : PDWord) : (t.setA d v).mode = t.mode := rfl
@[simp] theorem Thread.setA_handler (t : Thread) (d : BitVec 4) (v : PDWord) : (t.setA d v).handler = t.handler := rfl
@[simp] theorem Thread.setA_pc (t : Thread) (d : BitVec 4) (v : PDWord) : (t.setA d v).pc = t.pc := rfl
@[simp] theorem Thread.setA_pcn (t : Thread) (d : BitVec 4) (v : PDWord) : (t.setA d v).pcn = t.pcn := rfl
@[simp] theorem Thread.setA_npc (t : Thread) (d : BitVec 4) (v : PDWord) : (t.setA d v).npc = t.npc := rfl
@[simp] theorem Thread.setA_cycle (t : Thread) (d : BitVec 4) (v : PDWord) : (t.setA d v).cycle = t.cycle := rfl
@[simp] theorem Thread.setA_sregs (t : Thread) (d : BitVec 4) (v : PDWord) : (t.setA d v).sregs = t.sregs := rfl
@[simp] theorem Thread.setA_vregs (t : Thread) (d : BitVec 4) (v : PDWord) : (t.setA d v).vregs = t.vregs := rfl
@[simp] theorem Thread.setA_kregs (t : Thread) (d : BitVec 4) (v : PDWord) : (t.setA d v).kregs = t.kregs := rfl
@[simp] theorem Thread.setA_latches (t : Thread) (d : BitVec 4) (v : PDWord) : (t.setA d v).latches = t.latches := rfl
@[simp] theorem Thread.setA_flights (t : Thread) (d : BitVec 4) (v : PDWord) : (t.setA d v).flights = t.flights := rfl
@[simp] theorem Thread.setA_rep (t : Thread) (d : BitVec 4) (v : PDWord) : (t.setA d v).rep = t.rep := rfl
@[simp] theorem Thread.setA_frame (t : Thread) (d : BitVec 4) (v : PDWord) : (t.setA d v).frame = t.frame := rfl
@[simp] theorem Thread.setA_stat (t : Thread) (d : BitVec 4) (v : PDWord) : (t.setA d v).stat = t.stat := rfl
@[simp] theorem Thread.setA_fpx (t : Thread) (d : BitVec 4) (v : PDWord) : (t.setA d v).fpx = t.fpx := rfl
@[simp] theorem Thread.setA_ckptlim (t : Thread) (d : BitVec 4) (v : PDWord) : (t.setA d v).ckptlim = t.ckptlim := rfl
@[simp] theorem Thread.setA_trappc (t : Thread) (d : BitVec 4) (v : PDWord) : (t.setA d v).trappc = t.trappc := rfl
@[simp] theorem Thread.setA_trapcause (t : Thread) (d : BitVec 4) (v : PDWord) : (t.setA d v).trapcause = t.trapcause := rfl
@[simp] theorem Thread.setA_trapval (t : Thread) (d : BitVec 4) (v : PDWord) : (t.setA d v).trapval = t.trapval := rfl
@[simp] theorem Thread.setA_tscr (t : Thread) (d : BitVec 4) (v : PDWord) : (t.setA d v).tscr = t.tscr := rfl
@[simp] theorem Thread.setA_sl (t : Thread) (d : BitVec 4) (v : PDWord) : (t.setA d v).sl = t.sl := rfl
@[simp] theorem Thread.setA_seeda (t : Thread) (d : BitVec 4) (v : PDWord) : (t.setA d v).seeda = t.seeda := rfl
@[simp] theorem Thread.setA_seedb (t : Thread) (d : BitVec 4) (v : PDWord) : (t.setA d v).seedb = t.seedb := rfl
@[simp] theorem Thread.setA_prof (t : Thread) (d : BitVec 4) (v : PDWord) : (t.setA d v).prof = t.prof := rfl
@[simp] theorem Thread.setA_smode (t : Thread) (d : BitVec 4) (v : PDWord) : (t.setA d v).smode = t.smode := rfl
@[simp] theorem Thread.setA_ebnd (t : Thread) (d : BitVec 4) (v : PDWord) : (t.setA d v).ebnd = t.ebnd := rfl
@[simp] theorem Thread.setA_waitcnt (t : Thread) (d : BitVec 4) (v : PDWord) : (t.setA d v).waitcnt = t.waitcnt := rfl
@[simp] theorem Thread.setA_tl (t : Thread) (d : BitVec 4) (v : PDWord) : (t.setA d v).tl = t.tl := rfl
@[simp] theorem Thread.setA_bars (t : Thread) (d : BitVec 4) (v : PDWord) : (t.setA d v).bars = t.bars := rfl
@[simp] theorem Thread.setA_qs (t : Thread) (d : BitVec 4) (v : PDWord) : (t.setA d v).qs = t.qs := rfl
@[simp] theorem Thread.setA_ntActive (t : Thread) (d : BitVec 4) (v : PDWord) : (t.setA d v).ntActive = t.ntActive := rfl
@[simp] theorem Thread.setA_ntShadow (t : Thread) (d : BitVec 4) (v : PDWord) : (t.setA d v).ntShadow = t.ntShadow := rfl
@[simp] theorem Thread.setA_arr (t : Thread) (d : BitVec 4) (v : PDWord) : (t.setA d v).arr = t.arr := rfl
@[simp] theorem Thread.setA_wbuf (t : Thread) (d : BitVec 4) (v : PDWord) : (t.setA d v).wbuf = t.wbuf := rfl
@[simp] theorem Thread.setA_wbufPsn (t : Thread) (d : BitVec 4) (v : PDWord) : (t.setA d v).wbufPsn = t.wbufPsn := rfl
@[simp] theorem Thread.setA_objs (t : Thread) (d : BitVec 4) (v : PDWord) : (t.setA d v).objs = t.objs := rfl
@[simp] theorem Thread.setA_tq0 (t : Thread) (d : BitVec 4) (v : PDWord) : (t.setA d v).tq0 = t.tq0 := rfl
@[simp] theorem Thread.setA_tq1 (t : Thread) (d : BitVec 4) (v : PDWord) : (t.setA d v).tq1 = t.tq1 := rfl
@[simp] theorem Thread.setA_moveSeq (t : Thread) (d : BitVec 4) (v : PDWord) : (t.setA d v).moveSeq = t.moveSeq := rfl
@[simp] theorem Thread.setA_ev (t : Thread) (d : BitVec 4) (v : PDWord) : (t.setA d v).ev = t.ev := rfl
@[simp] theorem Thread.setA_hold (t : Thread) (d : BitVec 4) (v : PDWord) : (t.setA d v).hold = t.hold := rfl
@[simp] theorem Thread.setA_ring (t : Thread) (d : BitVec 4) (v : PDWord) : (t.setA d v).ring = t.ring := rfl
@[simp] theorem Thread.setA_stall (t : Thread) (d : BitVec 4) (v : PDWord) : (t.setA d v).stall = t.stall := rfl
@[simp] theorem Thread.setA_fetching (t : Thread) (d : BitVec 4) (v : PDWord) : (t.setA d v).fetching = t.fetching := rfl
@[simp] theorem Thread.setA_fetched (t : Thread) (d : BitVec 4) (v : PDWord) : (t.setA d v).fetched = t.fetched := rfl
@[simp] theorem Thread.setA_landId (t : Thread) (d : BitVec 4) (v : PDWord) : (t.setA d v).landId = t.landId := rfl
@[simp] theorem Thread.setA_trapRec (t : Thread) (d : BitVec 4) (v : PDWord) : (t.setA d v).trapRec = t.trapRec := rfl
@[simp] theorem Thread.setA_allocFail (t : Thread) (d : BitVec 4) (v : PDWord) : (t.setA d v).allocFail = t.allocFail := rfl
@[simp] theorem Thread.setA_waitPage (t : Thread) (d : BitVec 4) (v : PDWord) : (t.setA d v).waitPage = t.waitPage := rfl
@[simp] theorem Thread.setA_walkVa (t : Thread) (d : BitVec 4) (v : PDWord) : (t.setA d v).walkVa = t.walkVa := rfl
@[simp] theorem Thread.setA_walkBad (t : Thread) (d : BitVec 4) (v : PDWord) : (t.setA d v).walkBad = t.walkBad := rfl
@[simp] theorem Thread.setA_ckpt (t : Thread) (d : BitVec 4) (v : PDWord) : (t.setA d v).ckpt = t.ckpt := rfl
@[simp] theorem Thread.setA_repeating (t : Thread) (d : BitVec 4) (v : PDWord) : (t.setA d v).repeating = t.repeating := rfl
@[simp] theorem Thread.setA_susp (t : Thread) (d : BitVec 4) (v : PDWord) : (t.setA d v).susp = t.susp := rfl
@[simp] theorem Thread.setA_yielded (t : Thread) (d : BitVec 4) (v : PDWord) : (t.setA d v).yielded = t.yielded := rfl
@[simp] theorem Thread.setA_stop (t : Thread) (d : BitVec 4) (v : PDWord) : (t.setA d v).stop = t.stop := rfl
@[simp] theorem Thread.setA_tpend (t : Thread) (d : BitVec 4) (v : PDWord) : (t.setA d v).tpend = t.tpend := rfl
@[simp] theorem Thread.setA_budget (t : Thread) (d : BitVec 4) (v : PDWord) : (t.setA d v).budget = t.budget := rfl
@[simp] theorem Thread.setA_lslot (t : Thread) (d : BitVec 4) (v : PDWord) : (t.setA d v).lslot = t.lslot := rfl
@[simp] theorem Thread.setA_ctx (t : Thread) (d : BitVec 4) (v : PDWord) : (t.setA d v).ctx = t.ctx := rfl
@[simp] theorem Thread.setA_gang (t : Thread) (d : BitVec 4) (v : PDWord) : (t.setA d v).gang = t.gang := rfl
@[simp] theorem Thread.setA_gangNo (t : Thread) (d : BitVec 4) (v : PDWord) : (t.setA d v).gangNo = t.gangNo := rfl
@[simp] theorem Thread.setA_dx (t : Thread) (d : BitVec 4) (v : PDWord) : (t.setA d v).dx = t.dx := rfl
@[simp] theorem Thread.setA_dy (t : Thread) (d : BitVec 4) (v : PDWord) : (t.setA d v).dy = t.dy := rfl
@[simp] theorem Thread.setA_lead (t : Thread) (d : BitVec 4) (v : PDWord) : (t.setA d v).lead = t.lead := rfl
@[simp] theorem Thread.setA_task (t : Thread) (d : BitVec 4) (v : PDWord) : (t.setA d v).task = t.task := rfl
@[simp] theorem Thread.setA_taskOpen (t : Thread) (d : BitVec 4) (v : PDWord) : (t.setA d v).taskOpen = t.taskOpen := rfl
@[simp] theorem Thread.setA_rerunnable (t : Thread) (d : BitVec 4) (v : PDWord) : (t.setA d v).rerunnable = t.rerunnable := rfl
@[simp] theorem Thread.setA_regionL1 (t : Thread) (d : BitVec 4) (v : PDWord) : (t.setA d v).regionL1 = t.regionL1 := rfl
@[simp] theorem Thread.setA_codeBase (t : Thread) (d : BitVec 4) (v : PDWord) : (t.setA d v).codeBase = t.codeBase := rfl
@[simp] theorem Thread.setA_codeLen (t : Thread) (d : BitVec 4) (v : PDWord) : (t.setA d v).codeLen = t.codeLen := rfl
@[simp] theorem Thread.setA_code (t : Thread) (d : BitVec 4) (v : PDWord) : (t.setA d v).code = t.code := rfl
@[simp] theorem Thread.setA_codePsn (t : Thread) (d : BitVec 4) (v : PDWord) : (t.setA d v).codePsn = t.codePsn := rfl
@[simp] theorem Thread.setA_rputs (t : Thread) (d : BitVec 4) (v : PDWord) : (t.setA d v).rputs = t.rputs := rfl
@[simp] theorem Thread.setA_egress (t : Thread) (d : BitVec 4) (v : PDWord) : (t.setA d v).egress = t.egress := rfl
@[simp] theorem Thread.setA_xlat (t : Thread) (d : BitVec 4) (v : PDWord) : (t.setA d v).xlat = t.xlat := rfl
@[simp] theorem Thread.setA_passed (t : Thread) (d : BitVec 4) (v : PDWord) : (t.setA d v).passed = t.passed := rfl
@[simp] theorem Thread.setA_chkObjs (t : Thread) (d : BitVec 4) (v : PDWord) : (t.setA d v).chkObjs = t.chkObjs := rfl
@[simp] theorem Thread.setA_fpxNext (t : Thread) (d : BitVec 4) (v : PDWord) : (t.setA d v).fpxNext = t.fpxNext := rfl
@[simp] theorem Thread.setA_froze (t : Thread) (d : BitVec 4) (v : PDWord) : (t.setA d v).froze = t.froze := rfl
@[simp] theorem Thread.setA_windowed (t : Thread) (d : BitVec 4) (v : PDWord) : (t.setA d v).windowed = t.windowed := rfl
@[simp] theorem Thread.setK_mode (t : Thread) (d : BitVec 3) (v : BitVec 128) : (t.setK d v).mode = t.mode := rfl
@[simp] theorem Thread.setK_handler (t : Thread) (d : BitVec 3) (v : BitVec 128) : (t.setK d v).handler = t.handler := rfl
@[simp] theorem Thread.setK_pc (t : Thread) (d : BitVec 3) (v : BitVec 128) : (t.setK d v).pc = t.pc := rfl
@[simp] theorem Thread.setK_pcn (t : Thread) (d : BitVec 3) (v : BitVec 128) : (t.setK d v).pcn = t.pcn := rfl
@[simp] theorem Thread.setK_npc (t : Thread) (d : BitVec 3) (v : BitVec 128) : (t.setK d v).npc = t.npc := rfl
@[simp] theorem Thread.setK_cycle (t : Thread) (d : BitVec 3) (v : BitVec 128) : (t.setK d v).cycle = t.cycle := rfl
@[simp] theorem Thread.setK_sregs (t : Thread) (d : BitVec 3) (v : BitVec 128) : (t.setK d v).sregs = t.sregs := rfl
@[simp] theorem Thread.setK_aregs (t : Thread) (d : BitVec 3) (v : BitVec 128) : (t.setK d v).aregs = t.aregs := rfl
@[simp] theorem Thread.setK_vregs (t : Thread) (d : BitVec 3) (v : BitVec 128) : (t.setK d v).vregs = t.vregs := rfl
@[simp] theorem Thread.setK_latches (t : Thread) (d : BitVec 3) (v : BitVec 128) : (t.setK d v).latches = t.latches := rfl
@[simp] theorem Thread.setK_flights (t : Thread) (d : BitVec 3) (v : BitVec 128) : (t.setK d v).flights = t.flights := rfl
@[simp] theorem Thread.setK_rep (t : Thread) (d : BitVec 3) (v : BitVec 128) : (t.setK d v).rep = t.rep := rfl
@[simp] theorem Thread.setK_frame (t : Thread) (d : BitVec 3) (v : BitVec 128) : (t.setK d v).frame = t.frame := rfl
@[simp] theorem Thread.setK_stat (t : Thread) (d : BitVec 3) (v : BitVec 128) : (t.setK d v).stat = t.stat := rfl
@[simp] theorem Thread.setK_fpx (t : Thread) (d : BitVec 3) (v : BitVec 128) : (t.setK d v).fpx = t.fpx := rfl
@[simp] theorem Thread.setK_ckptlim (t : Thread) (d : BitVec 3) (v : BitVec 128) : (t.setK d v).ckptlim = t.ckptlim := rfl
@[simp] theorem Thread.setK_trappc (t : Thread) (d : BitVec 3) (v : BitVec 128) : (t.setK d v).trappc = t.trappc := rfl
@[simp] theorem Thread.setK_trapcause (t : Thread) (d : BitVec 3) (v : BitVec 128) : (t.setK d v).trapcause = t.trapcause := rfl
@[simp] theorem Thread.setK_trapval (t : Thread) (d : BitVec 3) (v : BitVec 128) : (t.setK d v).trapval = t.trapval := rfl
@[simp] theorem Thread.setK_tscr (t : Thread) (d : BitVec 3) (v : BitVec 128) : (t.setK d v).tscr = t.tscr := rfl
@[simp] theorem Thread.setK_sl (t : Thread) (d : BitVec 3) (v : BitVec 128) : (t.setK d v).sl = t.sl := rfl
@[simp] theorem Thread.setK_seeda (t : Thread) (d : BitVec 3) (v : BitVec 128) : (t.setK d v).seeda = t.seeda := rfl
@[simp] theorem Thread.setK_seedb (t : Thread) (d : BitVec 3) (v : BitVec 128) : (t.setK d v).seedb = t.seedb := rfl
@[simp] theorem Thread.setK_prof (t : Thread) (d : BitVec 3) (v : BitVec 128) : (t.setK d v).prof = t.prof := rfl
@[simp] theorem Thread.setK_smode (t : Thread) (d : BitVec 3) (v : BitVec 128) : (t.setK d v).smode = t.smode := rfl
@[simp] theorem Thread.setK_ebnd (t : Thread) (d : BitVec 3) (v : BitVec 128) : (t.setK d v).ebnd = t.ebnd := rfl
@[simp] theorem Thread.setK_waitcnt (t : Thread) (d : BitVec 3) (v : BitVec 128) : (t.setK d v).waitcnt = t.waitcnt := rfl
@[simp] theorem Thread.setK_tl (t : Thread) (d : BitVec 3) (v : BitVec 128) : (t.setK d v).tl = t.tl := rfl
@[simp] theorem Thread.setK_bars (t : Thread) (d : BitVec 3) (v : BitVec 128) : (t.setK d v).bars = t.bars := rfl
@[simp] theorem Thread.setK_qs (t : Thread) (d : BitVec 3) (v : BitVec 128) : (t.setK d v).qs = t.qs := rfl
@[simp] theorem Thread.setK_ntActive (t : Thread) (d : BitVec 3) (v : BitVec 128) : (t.setK d v).ntActive = t.ntActive := rfl
@[simp] theorem Thread.setK_ntShadow (t : Thread) (d : BitVec 3) (v : BitVec 128) : (t.setK d v).ntShadow = t.ntShadow := rfl
@[simp] theorem Thread.setK_arr (t : Thread) (d : BitVec 3) (v : BitVec 128) : (t.setK d v).arr = t.arr := rfl
@[simp] theorem Thread.setK_wbuf (t : Thread) (d : BitVec 3) (v : BitVec 128) : (t.setK d v).wbuf = t.wbuf := rfl
@[simp] theorem Thread.setK_wbufPsn (t : Thread) (d : BitVec 3) (v : BitVec 128) : (t.setK d v).wbufPsn = t.wbufPsn := rfl
@[simp] theorem Thread.setK_objs (t : Thread) (d : BitVec 3) (v : BitVec 128) : (t.setK d v).objs = t.objs := rfl
@[simp] theorem Thread.setK_tq0 (t : Thread) (d : BitVec 3) (v : BitVec 128) : (t.setK d v).tq0 = t.tq0 := rfl
@[simp] theorem Thread.setK_tq1 (t : Thread) (d : BitVec 3) (v : BitVec 128) : (t.setK d v).tq1 = t.tq1 := rfl
@[simp] theorem Thread.setK_moveSeq (t : Thread) (d : BitVec 3) (v : BitVec 128) : (t.setK d v).moveSeq = t.moveSeq := rfl
@[simp] theorem Thread.setK_ev (t : Thread) (d : BitVec 3) (v : BitVec 128) : (t.setK d v).ev = t.ev := rfl
@[simp] theorem Thread.setK_hold (t : Thread) (d : BitVec 3) (v : BitVec 128) : (t.setK d v).hold = t.hold := rfl
@[simp] theorem Thread.setK_ring (t : Thread) (d : BitVec 3) (v : BitVec 128) : (t.setK d v).ring = t.ring := rfl
@[simp] theorem Thread.setK_stall (t : Thread) (d : BitVec 3) (v : BitVec 128) : (t.setK d v).stall = t.stall := rfl
@[simp] theorem Thread.setK_fetching (t : Thread) (d : BitVec 3) (v : BitVec 128) : (t.setK d v).fetching = t.fetching := rfl
@[simp] theorem Thread.setK_fetched (t : Thread) (d : BitVec 3) (v : BitVec 128) : (t.setK d v).fetched = t.fetched := rfl
@[simp] theorem Thread.setK_landId (t : Thread) (d : BitVec 3) (v : BitVec 128) : (t.setK d v).landId = t.landId := rfl
@[simp] theorem Thread.setK_trapRec (t : Thread) (d : BitVec 3) (v : BitVec 128) : (t.setK d v).trapRec = t.trapRec := rfl
@[simp] theorem Thread.setK_allocFail (t : Thread) (d : BitVec 3) (v : BitVec 128) : (t.setK d v).allocFail = t.allocFail := rfl
@[simp] theorem Thread.setK_waitPage (t : Thread) (d : BitVec 3) (v : BitVec 128) : (t.setK d v).waitPage = t.waitPage := rfl
@[simp] theorem Thread.setK_walkVa (t : Thread) (d : BitVec 3) (v : BitVec 128) : (t.setK d v).walkVa = t.walkVa := rfl
@[simp] theorem Thread.setK_walkBad (t : Thread) (d : BitVec 3) (v : BitVec 128) : (t.setK d v).walkBad = t.walkBad := rfl
@[simp] theorem Thread.setK_ckpt (t : Thread) (d : BitVec 3) (v : BitVec 128) : (t.setK d v).ckpt = t.ckpt := rfl
@[simp] theorem Thread.setK_repeating (t : Thread) (d : BitVec 3) (v : BitVec 128) : (t.setK d v).repeating = t.repeating := rfl
@[simp] theorem Thread.setK_susp (t : Thread) (d : BitVec 3) (v : BitVec 128) : (t.setK d v).susp = t.susp := rfl
@[simp] theorem Thread.setK_yielded (t : Thread) (d : BitVec 3) (v : BitVec 128) : (t.setK d v).yielded = t.yielded := rfl
@[simp] theorem Thread.setK_stop (t : Thread) (d : BitVec 3) (v : BitVec 128) : (t.setK d v).stop = t.stop := rfl
@[simp] theorem Thread.setK_tpend (t : Thread) (d : BitVec 3) (v : BitVec 128) : (t.setK d v).tpend = t.tpend := rfl
@[simp] theorem Thread.setK_budget (t : Thread) (d : BitVec 3) (v : BitVec 128) : (t.setK d v).budget = t.budget := rfl
@[simp] theorem Thread.setK_lslot (t : Thread) (d : BitVec 3) (v : BitVec 128) : (t.setK d v).lslot = t.lslot := rfl
@[simp] theorem Thread.setK_ctx (t : Thread) (d : BitVec 3) (v : BitVec 128) : (t.setK d v).ctx = t.ctx := rfl
@[simp] theorem Thread.setK_gang (t : Thread) (d : BitVec 3) (v : BitVec 128) : (t.setK d v).gang = t.gang := rfl
@[simp] theorem Thread.setK_gangNo (t : Thread) (d : BitVec 3) (v : BitVec 128) : (t.setK d v).gangNo = t.gangNo := rfl
@[simp] theorem Thread.setK_dx (t : Thread) (d : BitVec 3) (v : BitVec 128) : (t.setK d v).dx = t.dx := rfl
@[simp] theorem Thread.setK_dy (t : Thread) (d : BitVec 3) (v : BitVec 128) : (t.setK d v).dy = t.dy := rfl
@[simp] theorem Thread.setK_lead (t : Thread) (d : BitVec 3) (v : BitVec 128) : (t.setK d v).lead = t.lead := rfl
@[simp] theorem Thread.setK_task (t : Thread) (d : BitVec 3) (v : BitVec 128) : (t.setK d v).task = t.task := rfl
@[simp] theorem Thread.setK_taskOpen (t : Thread) (d : BitVec 3) (v : BitVec 128) : (t.setK d v).taskOpen = t.taskOpen := rfl
@[simp] theorem Thread.setK_rerunnable (t : Thread) (d : BitVec 3) (v : BitVec 128) : (t.setK d v).rerunnable = t.rerunnable := rfl
@[simp] theorem Thread.setK_regionL1 (t : Thread) (d : BitVec 3) (v : BitVec 128) : (t.setK d v).regionL1 = t.regionL1 := rfl
@[simp] theorem Thread.setK_codeBase (t : Thread) (d : BitVec 3) (v : BitVec 128) : (t.setK d v).codeBase = t.codeBase := rfl
@[simp] theorem Thread.setK_codeLen (t : Thread) (d : BitVec 3) (v : BitVec 128) : (t.setK d v).codeLen = t.codeLen := rfl
@[simp] theorem Thread.setK_code (t : Thread) (d : BitVec 3) (v : BitVec 128) : (t.setK d v).code = t.code := rfl
@[simp] theorem Thread.setK_codePsn (t : Thread) (d : BitVec 3) (v : BitVec 128) : (t.setK d v).codePsn = t.codePsn := rfl
@[simp] theorem Thread.setK_rputs (t : Thread) (d : BitVec 3) (v : BitVec 128) : (t.setK d v).rputs = t.rputs := rfl
@[simp] theorem Thread.setK_egress (t : Thread) (d : BitVec 3) (v : BitVec 128) : (t.setK d v).egress = t.egress := rfl
@[simp] theorem Thread.setK_xlat (t : Thread) (d : BitVec 3) (v : BitVec 128) : (t.setK d v).xlat = t.xlat := rfl
@[simp] theorem Thread.setK_passed (t : Thread) (d : BitVec 3) (v : BitVec 128) : (t.setK d v).passed = t.passed := rfl
@[simp] theorem Thread.setK_chkObjs (t : Thread) (d : BitVec 3) (v : BitVec 128) : (t.setK d v).chkObjs = t.chkObjs := rfl
@[simp] theorem Thread.setK_fpxNext (t : Thread) (d : BitVec 3) (v : BitVec 128) : (t.setK d v).fpxNext = t.fpxNext := rfl
@[simp] theorem Thread.setK_froze (t : Thread) (d : BitVec 3) (v : BitVec 128) : (t.setK d v).froze = t.froze := rfl
@[simp] theorem Thread.setK_windowed (t : Thread) (d : BitVec 3) (v : BitVec 128) : (t.setK d v).windowed = t.windowed := rfl
@[simp] theorem Thread.setV_mode (t : Thread) (d : BitVec 6) (m : BitVec 128) (v : Lanes) : (t.setV d m v).mode = t.mode := by
  unfold Thread.setV; split <;> rfl
@[simp] theorem Thread.setV_handler (t : Thread) (d : BitVec 6) (m : BitVec 128) (v : Lanes) : (t.setV d m v).handler = t.handler := by
  unfold Thread.setV; split <;> rfl
@[simp] theorem Thread.setV_pc (t : Thread) (d : BitVec 6) (m : BitVec 128) (v : Lanes) : (t.setV d m v).pc = t.pc := by
  unfold Thread.setV; split <;> rfl
@[simp] theorem Thread.setV_pcn (t : Thread) (d : BitVec 6) (m : BitVec 128) (v : Lanes) : (t.setV d m v).pcn = t.pcn := by
  unfold Thread.setV; split <;> rfl
@[simp] theorem Thread.setV_npc (t : Thread) (d : BitVec 6) (m : BitVec 128) (v : Lanes) : (t.setV d m v).npc = t.npc := by
  unfold Thread.setV; split <;> rfl
@[simp] theorem Thread.setV_cycle (t : Thread) (d : BitVec 6) (m : BitVec 128) (v : Lanes) : (t.setV d m v).cycle = t.cycle := by
  unfold Thread.setV; split <;> rfl
@[simp] theorem Thread.setV_sregs (t : Thread) (d : BitVec 6) (m : BitVec 128) (v : Lanes) : (t.setV d m v).sregs = t.sregs := by
  unfold Thread.setV; split <;> rfl
@[simp] theorem Thread.setV_aregs (t : Thread) (d : BitVec 6) (m : BitVec 128) (v : Lanes) : (t.setV d m v).aregs = t.aregs := by
  unfold Thread.setV; split <;> rfl
@[simp] theorem Thread.setV_kregs (t : Thread) (d : BitVec 6) (m : BitVec 128) (v : Lanes) : (t.setV d m v).kregs = t.kregs := by
  unfold Thread.setV; split <;> rfl
@[simp] theorem Thread.setV_latches (t : Thread) (d : BitVec 6) (m : BitVec 128) (v : Lanes) : (t.setV d m v).latches = t.latches := by
  unfold Thread.setV; split <;> rfl
@[simp] theorem Thread.setV_flights (t : Thread) (d : BitVec 6) (m : BitVec 128) (v : Lanes) : (t.setV d m v).flights = t.flights := by
  unfold Thread.setV; split <;> rfl
@[simp] theorem Thread.setV_rep (t : Thread) (d : BitVec 6) (m : BitVec 128) (v : Lanes) : (t.setV d m v).rep = t.rep := by
  unfold Thread.setV; split <;> rfl
@[simp] theorem Thread.setV_frame (t : Thread) (d : BitVec 6) (m : BitVec 128) (v : Lanes) : (t.setV d m v).frame = t.frame := by
  unfold Thread.setV; split <;> rfl
@[simp] theorem Thread.setV_stat (t : Thread) (d : BitVec 6) (m : BitVec 128) (v : Lanes) : (t.setV d m v).stat = t.stat := by
  unfold Thread.setV; split <;> rfl
@[simp] theorem Thread.setV_fpx (t : Thread) (d : BitVec 6) (m : BitVec 128) (v : Lanes) : (t.setV d m v).fpx = t.fpx := by
  unfold Thread.setV; split <;> rfl
@[simp] theorem Thread.setV_ckptlim (t : Thread) (d : BitVec 6) (m : BitVec 128) (v : Lanes) : (t.setV d m v).ckptlim = t.ckptlim := by
  unfold Thread.setV; split <;> rfl
@[simp] theorem Thread.setV_trappc (t : Thread) (d : BitVec 6) (m : BitVec 128) (v : Lanes) : (t.setV d m v).trappc = t.trappc := by
  unfold Thread.setV; split <;> rfl
@[simp] theorem Thread.setV_trapcause (t : Thread) (d : BitVec 6) (m : BitVec 128) (v : Lanes) : (t.setV d m v).trapcause = t.trapcause := by
  unfold Thread.setV; split <;> rfl
@[simp] theorem Thread.setV_trapval (t : Thread) (d : BitVec 6) (m : BitVec 128) (v : Lanes) : (t.setV d m v).trapval = t.trapval := by
  unfold Thread.setV; split <;> rfl
@[simp] theorem Thread.setV_tscr (t : Thread) (d : BitVec 6) (m : BitVec 128) (v : Lanes) : (t.setV d m v).tscr = t.tscr := by
  unfold Thread.setV; split <;> rfl
@[simp] theorem Thread.setV_sl (t : Thread) (d : BitVec 6) (m : BitVec 128) (v : Lanes) : (t.setV d m v).sl = t.sl := by
  unfold Thread.setV; split <;> rfl
@[simp] theorem Thread.setV_seeda (t : Thread) (d : BitVec 6) (m : BitVec 128) (v : Lanes) : (t.setV d m v).seeda = t.seeda := by
  unfold Thread.setV; split <;> rfl
@[simp] theorem Thread.setV_seedb (t : Thread) (d : BitVec 6) (m : BitVec 128) (v : Lanes) : (t.setV d m v).seedb = t.seedb := by
  unfold Thread.setV; split <;> rfl
@[simp] theorem Thread.setV_prof (t : Thread) (d : BitVec 6) (m : BitVec 128) (v : Lanes) : (t.setV d m v).prof = t.prof := by
  unfold Thread.setV; split <;> rfl
@[simp] theorem Thread.setV_smode (t : Thread) (d : BitVec 6) (m : BitVec 128) (v : Lanes) : (t.setV d m v).smode = t.smode := by
  unfold Thread.setV; split <;> rfl
@[simp] theorem Thread.setV_ebnd (t : Thread) (d : BitVec 6) (m : BitVec 128) (v : Lanes) : (t.setV d m v).ebnd = t.ebnd := by
  unfold Thread.setV; split <;> rfl
@[simp] theorem Thread.setV_waitcnt (t : Thread) (d : BitVec 6) (m : BitVec 128) (v : Lanes) : (t.setV d m v).waitcnt = t.waitcnt := by
  unfold Thread.setV; split <;> rfl
@[simp] theorem Thread.setV_tl (t : Thread) (d : BitVec 6) (m : BitVec 128) (v : Lanes) : (t.setV d m v).tl = t.tl := by
  unfold Thread.setV; split <;> rfl
@[simp] theorem Thread.setV_bars (t : Thread) (d : BitVec 6) (m : BitVec 128) (v : Lanes) : (t.setV d m v).bars = t.bars := by
  unfold Thread.setV; split <;> rfl
@[simp] theorem Thread.setV_qs (t : Thread) (d : BitVec 6) (m : BitVec 128) (v : Lanes) : (t.setV d m v).qs = t.qs := by
  unfold Thread.setV; split <;> rfl
@[simp] theorem Thread.setV_ntActive (t : Thread) (d : BitVec 6) (m : BitVec 128) (v : Lanes) : (t.setV d m v).ntActive = t.ntActive := by
  unfold Thread.setV; split <;> rfl
@[simp] theorem Thread.setV_ntShadow (t : Thread) (d : BitVec 6) (m : BitVec 128) (v : Lanes) : (t.setV d m v).ntShadow = t.ntShadow := by
  unfold Thread.setV; split <;> rfl
@[simp] theorem Thread.setV_arr (t : Thread) (d : BitVec 6) (m : BitVec 128) (v : Lanes) : (t.setV d m v).arr = t.arr := by
  unfold Thread.setV; split <;> rfl
@[simp] theorem Thread.setV_wbuf (t : Thread) (d : BitVec 6) (m : BitVec 128) (v : Lanes) : (t.setV d m v).wbuf = t.wbuf := by
  unfold Thread.setV; split <;> rfl
@[simp] theorem Thread.setV_wbufPsn (t : Thread) (d : BitVec 6) (m : BitVec 128) (v : Lanes) : (t.setV d m v).wbufPsn = t.wbufPsn := by
  unfold Thread.setV; split <;> rfl
@[simp] theorem Thread.setV_objs (t : Thread) (d : BitVec 6) (m : BitVec 128) (v : Lanes) : (t.setV d m v).objs = t.objs := by
  unfold Thread.setV; split <;> rfl
@[simp] theorem Thread.setV_tq0 (t : Thread) (d : BitVec 6) (m : BitVec 128) (v : Lanes) : (t.setV d m v).tq0 = t.tq0 := by
  unfold Thread.setV; split <;> rfl
@[simp] theorem Thread.setV_tq1 (t : Thread) (d : BitVec 6) (m : BitVec 128) (v : Lanes) : (t.setV d m v).tq1 = t.tq1 := by
  unfold Thread.setV; split <;> rfl
@[simp] theorem Thread.setV_moveSeq (t : Thread) (d : BitVec 6) (m : BitVec 128) (v : Lanes) : (t.setV d m v).moveSeq = t.moveSeq := by
  unfold Thread.setV; split <;> rfl
@[simp] theorem Thread.setV_ev (t : Thread) (d : BitVec 6) (m : BitVec 128) (v : Lanes) : (t.setV d m v).ev = t.ev := by
  unfold Thread.setV; split <;> rfl
@[simp] theorem Thread.setV_hold (t : Thread) (d : BitVec 6) (m : BitVec 128) (v : Lanes) : (t.setV d m v).hold = t.hold := by
  unfold Thread.setV; split <;> rfl
@[simp] theorem Thread.setV_ring (t : Thread) (d : BitVec 6) (m : BitVec 128) (v : Lanes) : (t.setV d m v).ring = t.ring := by
  unfold Thread.setV; split <;> rfl
@[simp] theorem Thread.setV_stall (t : Thread) (d : BitVec 6) (m : BitVec 128) (v : Lanes) : (t.setV d m v).stall = t.stall := by
  unfold Thread.setV; split <;> rfl
@[simp] theorem Thread.setV_fetching (t : Thread) (d : BitVec 6) (m : BitVec 128) (v : Lanes) : (t.setV d m v).fetching = t.fetching := by
  unfold Thread.setV; split <;> rfl
@[simp] theorem Thread.setV_fetched (t : Thread) (d : BitVec 6) (m : BitVec 128) (v : Lanes) : (t.setV d m v).fetched = t.fetched := by
  unfold Thread.setV; split <;> rfl
@[simp] theorem Thread.setV_landId (t : Thread) (d : BitVec 6) (m : BitVec 128) (v : Lanes) : (t.setV d m v).landId = t.landId := by
  unfold Thread.setV; split <;> rfl
@[simp] theorem Thread.setV_trapRec (t : Thread) (d : BitVec 6) (m : BitVec 128) (v : Lanes) : (t.setV d m v).trapRec = t.trapRec := by
  unfold Thread.setV; split <;> rfl
@[simp] theorem Thread.setV_allocFail (t : Thread) (d : BitVec 6) (m : BitVec 128) (v : Lanes) : (t.setV d m v).allocFail = t.allocFail := by
  unfold Thread.setV; split <;> rfl
@[simp] theorem Thread.setV_waitPage (t : Thread) (d : BitVec 6) (m : BitVec 128) (v : Lanes) : (t.setV d m v).waitPage = t.waitPage := by
  unfold Thread.setV; split <;> rfl
@[simp] theorem Thread.setV_walkVa (t : Thread) (d : BitVec 6) (m : BitVec 128) (v : Lanes) : (t.setV d m v).walkVa = t.walkVa := by
  unfold Thread.setV; split <;> rfl
@[simp] theorem Thread.setV_walkBad (t : Thread) (d : BitVec 6) (m : BitVec 128) (v : Lanes) : (t.setV d m v).walkBad = t.walkBad := by
  unfold Thread.setV; split <;> rfl
@[simp] theorem Thread.setV_ckpt (t : Thread) (d : BitVec 6) (m : BitVec 128) (v : Lanes) : (t.setV d m v).ckpt = t.ckpt := by
  unfold Thread.setV; split <;> rfl
@[simp] theorem Thread.setV_repeating (t : Thread) (d : BitVec 6) (m : BitVec 128) (v : Lanes) : (t.setV d m v).repeating = t.repeating := by
  unfold Thread.setV; split <;> rfl
@[simp] theorem Thread.setV_susp (t : Thread) (d : BitVec 6) (m : BitVec 128) (v : Lanes) : (t.setV d m v).susp = t.susp := by
  unfold Thread.setV; split <;> rfl
@[simp] theorem Thread.setV_yielded (t : Thread) (d : BitVec 6) (m : BitVec 128) (v : Lanes) : (t.setV d m v).yielded = t.yielded := by
  unfold Thread.setV; split <;> rfl
@[simp] theorem Thread.setV_stop (t : Thread) (d : BitVec 6) (m : BitVec 128) (v : Lanes) : (t.setV d m v).stop = t.stop := by
  unfold Thread.setV; split <;> rfl
@[simp] theorem Thread.setV_tpend (t : Thread) (d : BitVec 6) (m : BitVec 128) (v : Lanes) : (t.setV d m v).tpend = t.tpend := by
  unfold Thread.setV; split <;> rfl
@[simp] theorem Thread.setV_budget (t : Thread) (d : BitVec 6) (m : BitVec 128) (v : Lanes) : (t.setV d m v).budget = t.budget := by
  unfold Thread.setV; split <;> rfl
@[simp] theorem Thread.setV_lslot (t : Thread) (d : BitVec 6) (m : BitVec 128) (v : Lanes) : (t.setV d m v).lslot = t.lslot := by
  unfold Thread.setV; split <;> rfl
@[simp] theorem Thread.setV_ctx (t : Thread) (d : BitVec 6) (m : BitVec 128) (v : Lanes) : (t.setV d m v).ctx = t.ctx := by
  unfold Thread.setV; split <;> rfl
@[simp] theorem Thread.setV_gang (t : Thread) (d : BitVec 6) (m : BitVec 128) (v : Lanes) : (t.setV d m v).gang = t.gang := by
  unfold Thread.setV; split <;> rfl
@[simp] theorem Thread.setV_gangNo (t : Thread) (d : BitVec 6) (m : BitVec 128) (v : Lanes) : (t.setV d m v).gangNo = t.gangNo := by
  unfold Thread.setV; split <;> rfl
@[simp] theorem Thread.setV_dx (t : Thread) (d : BitVec 6) (m : BitVec 128) (v : Lanes) : (t.setV d m v).dx = t.dx := by
  unfold Thread.setV; split <;> rfl
@[simp] theorem Thread.setV_dy (t : Thread) (d : BitVec 6) (m : BitVec 128) (v : Lanes) : (t.setV d m v).dy = t.dy := by
  unfold Thread.setV; split <;> rfl
@[simp] theorem Thread.setV_lead (t : Thread) (d : BitVec 6) (m : BitVec 128) (v : Lanes) : (t.setV d m v).lead = t.lead := by
  unfold Thread.setV; split <;> rfl
@[simp] theorem Thread.setV_task (t : Thread) (d : BitVec 6) (m : BitVec 128) (v : Lanes) : (t.setV d m v).task = t.task := by
  unfold Thread.setV; split <;> rfl
@[simp] theorem Thread.setV_taskOpen (t : Thread) (d : BitVec 6) (m : BitVec 128) (v : Lanes) : (t.setV d m v).taskOpen = t.taskOpen := by
  unfold Thread.setV; split <;> rfl
@[simp] theorem Thread.setV_rerunnable (t : Thread) (d : BitVec 6) (m : BitVec 128) (v : Lanes) : (t.setV d m v).rerunnable = t.rerunnable := by
  unfold Thread.setV; split <;> rfl
@[simp] theorem Thread.setV_regionL1 (t : Thread) (d : BitVec 6) (m : BitVec 128) (v : Lanes) : (t.setV d m v).regionL1 = t.regionL1 := by
  unfold Thread.setV; split <;> rfl
@[simp] theorem Thread.setV_codeBase (t : Thread) (d : BitVec 6) (m : BitVec 128) (v : Lanes) : (t.setV d m v).codeBase = t.codeBase := by
  unfold Thread.setV; split <;> rfl
@[simp] theorem Thread.setV_codeLen (t : Thread) (d : BitVec 6) (m : BitVec 128) (v : Lanes) : (t.setV d m v).codeLen = t.codeLen := by
  unfold Thread.setV; split <;> rfl
@[simp] theorem Thread.setV_code (t : Thread) (d : BitVec 6) (m : BitVec 128) (v : Lanes) : (t.setV d m v).code = t.code := by
  unfold Thread.setV; split <;> rfl
@[simp] theorem Thread.setV_codePsn (t : Thread) (d : BitVec 6) (m : BitVec 128) (v : Lanes) : (t.setV d m v).codePsn = t.codePsn := by
  unfold Thread.setV; split <;> rfl
@[simp] theorem Thread.setV_rputs (t : Thread) (d : BitVec 6) (m : BitVec 128) (v : Lanes) : (t.setV d m v).rputs = t.rputs := by
  unfold Thread.setV; split <;> rfl
@[simp] theorem Thread.setV_egress (t : Thread) (d : BitVec 6) (m : BitVec 128) (v : Lanes) : (t.setV d m v).egress = t.egress := by
  unfold Thread.setV; split <;> rfl
@[simp] theorem Thread.setV_xlat (t : Thread) (d : BitVec 6) (m : BitVec 128) (v : Lanes) : (t.setV d m v).xlat = t.xlat := by
  unfold Thread.setV; split <;> rfl
@[simp] theorem Thread.setV_passed (t : Thread) (d : BitVec 6) (m : BitVec 128) (v : Lanes) : (t.setV d m v).passed = t.passed := by
  unfold Thread.setV; split <;> rfl
@[simp] theorem Thread.setV_chkObjs (t : Thread) (d : BitVec 6) (m : BitVec 128) (v : Lanes) : (t.setV d m v).chkObjs = t.chkObjs := by
  unfold Thread.setV; split <;> rfl
@[simp] theorem Thread.setV_fpxNext (t : Thread) (d : BitVec 6) (m : BitVec 128) (v : Lanes) : (t.setV d m v).fpxNext = t.fpxNext := by
  unfold Thread.setV; split <;> rfl
@[simp] theorem Thread.setV_froze (t : Thread) (d : BitVec 6) (m : BitVec 128) (v : Lanes) : (t.setV d m v).froze = t.froze := by
  unfold Thread.setV; split <;> rfl
@[simp] theorem Thread.setV_windowed (t : Thread) (d : BitVec 6) (m : BitVec 128) (v : Lanes) : (t.setV d m v).windowed = t.windowed := by
  unfold Thread.setV; split <;> rfl

end Sys2Proof.Machine
end

