-- ==== Sys2Proof/Laws/Shared.lean ====
section
/-! SUPPORT. One lemma for each shared operation that says what it does: registers, cores, launches, hub blocks, the check stage, taking a
trap, and the memory that each of them leaves. -/

namespace Sys2Proof.Machine

/-! ### Registers -/

@[simp] theorem Thread.getS_zero (t : Thread) : t.getS 0 = {} := by simp [Thread.getS]

theorem Thread.getS_setS (t : Thread) (d r : BitVec 5) (v : PWord) :
    (t.setS d v).getS r = if r = d ∧ d ≠ 0 then v else t.getS r := by
  by_cases hd : d = 0
  · simp [Thread.setS, hd]
  · simp only [Thread.getS, Thread.setS, if_neg hd]
    by_cases he : r = d
    · subst he
      have hz : ¬ r = 0#5 := hd
      simp [hz]
    · have : ¬ d.toNat = r.toNat := fun h => he (BitVec.eq_of_toNat_eq h.symm)
      simp [he, this]

theorem Thread.getA_setA (t : Thread) (d r : BitVec 4) (v : PDWord) : (t.setA d v).getA r = if r = d then v else t.getA r := by
  unfold Thread.getA Thread.setA
  by_cases he : r = d
  · subst he
    simp
  · have : ¬ d.toNat = r.toNat := fun h => he (BitVec.eq_of_toNat_eq h.symm)
    simp [he, this]

theorem Thread.getK_setK (t : Thread) (d r : BitVec 3) (m : BitVec 128) : (t.setK d m).getK r = if r = d then m else t.getK r := by
  unfold Thread.getK Thread.setK
  by_cases he : r = d
  · subst he
    simp
  · have : ¬ d.toNat = r.toNat := fun h => he (BitVec.eq_of_toNat_eq h.symm)
    simp [he, this]

/-- A v register after a write under a mask: its enabled lanes take the value, every other register and lane stands (R295). -/
theorem Thread.getV_setV (t : Thread) (d r : BitVec 6) (m : BitVec 128) (v : Lanes) (l : Fin 128) :
    ((t.setV d m v).getV r)[l] = if r = d ∧ d.toNat < 48 ∧ m.getLsbD l = true then v[l] else (t.getV r)[l] := by
  unfold Thread.getV Thread.setV
  by_cases hd : d.toNat < 48
  · by_cases he : r = d
    · subst he
      by_cases hm : m.getLsbD l = true <;> simp [hd, hm]
    · have : ¬ d.toNat = r.toNat := fun h => he (BitVec.eq_of_toNat_eq h.symm)
      by_cases hr : r.toNat < 48 <;> simp [hd, hr, he, this]
  · simp [hd]

/-! ### Cores -/

theorem State.coreAt_onCore (s : State) (k j : Nat) (f : Core → Core) :
    (s.onCore k f).coreAt j = if j = k then { f (s.coreAt k) with cid := k } else s.coreAt j := by
  unfold State.onCore State.setCore State.coreAt
  by_cases hk : k = s.core.cid
  · by_cases hj : j = k
    · subst hj
      simp [hk]
    · have : ¬ j = s.core.cid := fun h => hj (h.trans hk.symm)
      simp [← hk, hj]
  · by_cases hj : j = k
    · subst hj
      simp [hk]
    · by_cases hjc : j = s.core.cid
      · have : ¬ s.core.cid = k := fun h => hk h.symm
        simp [hk, hjc, this]
      · simp [hk, hj, hjc, SMap.getD_insert_ne]

/-! ### Launches and hub blocks -/

theorem State.find?_onLaunch (s : State) (l k : Nat) (f : Launch → Launch) :
    SMap.find? (s.onLaunch l f).launches k = if k = l then (SMap.find? s.launches l).map f else SMap.find? s.launches k := by
  unfold State.onLaunch
  cases h : SMap.find? s.launches l with
  | none =>
    by_cases hk : k = l
    · subst hk
      simp [h]
    · simp [hk]
  | some x =>
    by_cases hk : k = l
    · subst hk
      simp
    · simp [hk, SMap.find?_insert]

theorem State.block_onBlock (s : State) (l die die' : Nat) (x : Launch) (f : HubBlock → HubBlock) (h : SMap.find? s.launches l = some x) :
    (s.onBlock l die f).block l die' = if die' = die then f (s.block l die) else s.block l die' := by
  unfold State.block State.onBlock
  rw [State.find?_onLaunch, h]
  by_cases hd : die' = die
  · subst hd
    simp
  · simp [hd, SMap.getD_insert_ne]

/-- What every step of a fold keeps, the fold keeps. -/
theorem foldl_keeps {σ α β : Type} (p : σ → α) (f : σ → β → σ) (h : ∀ s b, p (f s b) = p s) (l : List β) (s : σ) : p (l.foldl f s) = p s := by
  induction l generalizing s with
  | nil => rfl
  | cons b l ih => rw [List.foldl_cons, ih, h]

@[simp] theorem State.pushOnce_launches (s : State) (i : Instr) : (s.pushOnce i).launches = s.launches := by
  unfold State.pushOnce
  split <;> rfl

@[simp] theorem State.chooseAgain_launches (s : State) (r : LaunchRec) : (s.chooseAgain r).launches = s.launches :=
  foldl_keeps State.launches _ (fun s _ => s.pushOnce_launches _) _ s

@[simp] theorem State.refillsDue_launches (s : State) : s.refillsDue.launches = s.launches :=
  foldl_keeps State.launches _ (fun s x => foldl_keeps State.launches _ (fun s h => by
    dsimp only
    split
    · rw [State.pushOnce_launches, foldl_keeps State.launches _ (fun s b => s.pushOnce_launches _)]
    · rw [foldl_keeps State.launches _ (fun s b => s.pushOnce_launches _)]) _ s) _ s

@[simp] theorem State.leaveHubs_launches (s : State) (l : Nat) : (s.leaveHubs l).launches = s.launches := by simp [State.leaveHubs]

/-- A launch that runs and ends is draining, with its status and its first cause (R76, R144). -/
theorem State.find?_endLaunch (s : State) (l : Nat) (st : Status) (cause : Option Cause) (x : Launch) (h : SMap.find? s.launches l = some x)
    (h1 : x.phase ≠ .draining) (h2 : x.phase ≠ .heldReport) :
    ∃ y, SMap.find? (s.endLaunch l st cause).launches l = some y ∧ y.phase = .draining ∧ y.status = st ∧ y.cause = x.cause.or cause
      ∧ y.ctx = x.ctx ∧ y.lrec = x.lrec := by
  unfold State.endLaunch
  simp only [h, h1, h2, decide_false, Bool.or_false, Bool.false_eq_true, ↓reduceIte]
  simp [State.dropLaunch, State.purge]

@[simp] theorem State.pushOnce_mem (s : State) (i : Instr) : (s.pushOnce i).mem = s.mem := by
  unfold State.pushOnce
  split <;> rfl

@[simp] theorem State.chooseAgain_mem (s : State) (r : LaunchRec) : (s.chooseAgain r).mem = s.mem :=
  foldl_keeps State.mem _ (fun s _ => s.pushOnce_mem _) _ s

@[simp] theorem State.refillsDue_mem (s : State) : s.refillsDue.mem = s.mem :=
  foldl_keeps State.mem _ (fun s x => foldl_keeps State.mem _ (fun s h => by
    dsimp only
    split
    · rw [State.pushOnce_mem, foldl_keeps State.mem _ (fun s b => s.pushOnce_mem _)]
    · rw [foldl_keeps State.mem _ (fun s b => s.pushOnce_mem _)]) _ s) _ s

@[simp] theorem State.leaveHubs_mem (s : State) (l : Nat) : (s.leaveHubs l).mem = s.mem := by simp [State.leaveHubs]

@[simp] theorem State.endLaunch_mem (s : State) (l : Nat) (st : Status) (cause : Option Cause) : (s.endLaunch l st cause).mem = s.mem := by
  unfold State.endLaunch
  split
  · rfl
  · split
    · rfl
    · simp [State.dropLaunch, State.purge]

@[simp] theorem State.logFault_mem (s : State) (r : FaultRec) : (s.logFault r).mem = s.mem := rfl

@[simp] theorem State.countFault_mem (s : State) (l : Nat) (c : Cause) : (s.countFault l c).mem = s.mem := by simp [State.countFault]

@[simp] theorem State.launchFault_mem (s : State) (l : Nat) (c : Cause) (r : FaultRec) : (s.launchFault l c r).mem = s.mem := by
  simp [State.launchFault]

@[simp] theorem State.holdTask_mem (s : State) (l die : Nat) (k : Task) : (s.holdTask l die k).mem = s.mem := by
  unfold State.holdTask
  split
  · rfl
  · dsimp only
    split <;> rfl

@[simp] theorem State.raiseGroup_mem (s : State) (l : Nat) : (s.raiseGroup l).mem = s.mem := by simp [State.raiseGroup, State.pauseAll]

@[simp] theorem State.groupHoldTask_mem (s : State) (l die : Nat) (k : Task) : (s.groupHoldTask l die k).mem = s.mem := by
  simp [State.groupHoldTask]

@[simp] theorem State.holdLow_mem (s : State) (l die b : Nat) (k : Task) : (s.holdLow l die b k).mem = s.mem := by
  unfold State.holdLow
  split
  · rfl
  · dsimp only
    split
    · split <;> simp
    · simp

@[simp] theorem State.reenter_mem (s : State) (l die : Nat) (k : Task) : (s.reenter l die k).mem = s.mem := by
  unfold State.reenter
  split
  · rfl
  · dsimp only
    split
    · simp
    · rfl

@[simp] theorem State.replay_mem (s : State) (l : Nat) (r : FaultRec) : (s.replay l r).mem = s.mem := by
  unfold State.replay
  split
  · rfl
  · split
    · simp [State.dropLaunch, State.purge]
    · simp

/-! ### The check stage and traps -/

/-- A word whose sources are clean goes on (R165). -/
theorem State.checked_clean (s : State) (xs : List Psn) (k : Out) (h : ∀ x ∈ xs, x = none) : s.checked xs k = k := by
  have : xs.findSome? id = none := List.findSome?_eq_none_iff.2 (by simpa using h)
  simp [State.checked, this]

/-- A word with a poisoned source is cancelled with POISON (R165). -/
theorem State.checked_poisoned (s : State) (xs : List Psn) (k : Out) (o : Origin) (h : xs.findSome? id = some o) :
    s.checked xs k = s.trap 2 .poison 0 (some o) := by
  simp [State.checked, h]

/-- A check either goes on or cancels. -/
theorem State.checked_cases (s : State) (xs : List Psn) (k : Out) :
    ((∀ x ∈ xs, x = none) ∧ s.checked xs k = k) ∨ ∃ o, s.checked xs k = s.trap 2 .poison 0 (some o) := by
  cases h : xs.findSome? id with
  | none => exact .inl ⟨by simpa using List.findSome?_eq_none_iff.1 h, by simp [State.checked, h]⟩
  | some o => exact .inr ⟨o, s.checked_poisoned xs k o h⟩

/-- A trap always answers a next state. -/
theorem State.trap_next (s : State) (rank : Nat) (c : Cause) (v : DWord) (o : Psn) : ∃ t, s.trap rank c v o = .next t := ⟨_, rfl⟩

/-- A trap of level Trap outside handler mode, with a handler: the thread enters it, and nothing else of the machine changes (R141). -/
theorem State.trap_handler (s : State) (rank : Nat) (c : Cause) (v : DWord) (o : Psn) (hc : c.traps = true) (hh : s.core.t.handler = false)
    (ha : s.handlerAddr ≠ 0) :
    ∃ t, s.trap rank c v o = .next (s.mapT fun _ => t)
      ∧ t = { s.core.t with trapRec := some ⟨rank, c, v, o⟩, hold := none, npc := none }.enterHandler s.handlerAddr c v := by
  refine ⟨_, ?_, rfl⟩
  have hp : c ≠ .poison := by rintro rfl; cases hc
  have hq : c ≠ .prot := by rintro rfl; cases hc
  have ha' : (s.mapT fun t => { t with trapRec := some ⟨rank, c, v, o⟩, hold := none, npc := none }).handlerAddr = s.handlerAddr := rfl
  unfold State.trap State.take
  cases c <;> try cases hc
  all_goals
    simp only [ha']
    rw [if_neg (by decide), if_neg (by rw [hh]; decide), if_neg ha]
    rfl

end Sys2Proof.Machine
end

