-- ==== Sys2Proof/Laws/MemForm.lean ====
section
/-! SUPPORT. What the sector operations leave in device memory: a read changes no byte, and a write keeps the canonical form. -/

namespace Sys2Proof.Machine

@[simp] theorem State.onChan_mem (s : State) (g : Nat) (f : Channel → Channel) : (s.onChan g f).mem = s.mem := by
  unfold State.onChan
  split <;> rfl

@[simp] theorem State.eccDecode_mem (s : State) (sec : Nat) : (s.eccDecode sec).2.mem = s.mem := by
  unfold State.eccDecode
  dsimp only
  split <;> simp

/-- An activation counts at its channel and changes no byte (R35). -/
@[simp] theorem State.activate_mem (s : State) (pa : Nat) : (s.activate pa).mem = s.mem := rfl

@[simp] theorem State.activateAll_mem (s : State) (pa n : Nat) : (s.activateAll pa n).mem = s.mem := rfl

/-- A read of a sector changes no byte (R31, R33). -/
theorem State.sectorRead_mem (s s' : State) (key : Option Nat) (pa n : Nat) (va : DWord) (bs : List PByte)
    (h : s.sectorRead key pa n va = .ok (bs, s')) : s'.mem = s.mem := by
  unfold State.sectorRead at h
  dsimp only at h
  split at h
  · cases h
    simp
  · split at h
    · cases h
      simp
    · cases h

/-- Bytes put into a sector keep the canonical form (R34). -/
theorem State.sectorPut_wf (s s' : State) (key : Option Nat) (pa : Nat) (bs : List PByte) (va : DWord) (hw : s.mem.wf = true)
    (h : s.sectorPut key pa bs va = .ok ((), s')) : s'.mem.wf = true := by
  unfold State.sectorPut at h
  dsimp only at h
  split at h
  · cases h
    exact Mem.wf_write _ _ _ hw
  · split at h
    · cases h
      apply Mem.wf_write
      simpa using hw
    · split at h
      · cases h
      · have h' := Mem.wf_write (plain bs) _ pa (Mem.wf_write ‹List Byte› s.mem (64 * (pa / 64)) hw)
        split at h <;> cases h <;> simpa using h'

/-- A write of a sector keeps the canonical form (R34). -/
theorem State.sectorWrite_wf (s s' : State) (key : Option Nat) (pa : Nat) (bs : List PByte) (va : DWord) (hw : s.mem.wf = true)
    (h : s.sectorWrite key pa bs va = .ok ((), s')) : s'.mem.wf = true :=
  State.sectorPut_wf _ _ key pa bs va (by simpa using hw) h

@[simp] theorem State.physRead_mem (s : State) (pa n : Nat) : (s.physRead pa n).2.mem = s.mem := by
  unfold State.physRead
  split
  · rename_i r h
    exact State.sectorRead_mem s r.2 none pa n 0 r.1 h
  · rfl

theorem State.physWrite_wf (s : State) (pa : Nat) (bs : List Byte) (hw : s.mem.wf = true) : (s.physWrite pa bs).mem.wf = true := by
  unfold State.physWrite
  split
  · rename_i r h
    exact State.sectorWrite_wf s r.2 none pa _ 0 hw h
  · exact hw

@[simp] theorem State.physReadN_mem (s : State) (pa n : Nat) : (s.physReadN pa n).2.mem = s.mem := by
  unfold State.physReadN
  generalize pieces n pa n = ps
  suffices h : ∀ r : List PByte × State, r.2.mem = s.mem →
      (ps.foldl (fun (r : List PByte × State) (x : Nat × Nat) => let q := r.2.physRead x.1 x.2; (r.1 ++ q.1, q.2)) r).2.mem = s.mem from
    h _ rfl
  induction ps with
  | nil => exact fun r h => h
  | cons p ps ih => exact fun r h => ih _ (by simpa using h)

theorem State.physWriteN_wf (s : State) (pa : Nat) (bs : List Byte) (hw : s.mem.wf = true) : (s.physWriteN pa bs).mem.wf = true := by
  unfold State.physWriteN
  generalize pieces bs.length pa bs.length = ps
  induction ps generalizing s with
  | nil => exact hw
  | cons p ps ih => exact ih _ (State.physWrite_wf _ _ _ hw)

@[simp] theorem State.groupRaw_mem (s : State) (e k : Nat) : (s.groupRaw e k).2.mem = s.mem := by
  unfold State.groupRaw
  split <;> simp

@[simp] theorem State.memberEntry_mem (s : State) (member : Nat) : (s.memberEntry member).2.mem = s.mem := by
  simp [State.memberEntry]

@[simp] theorem State.noBuddy_mem (s : State) (e : Nat) : (s.noBuddy e).2.mem = s.mem := by
  simp only [State.noBuddy]
  split
  · simp
  · split
    · simp
    · split <;> simp

@[simp] theorem State.groupWord_mem (s : State) (e k : Nat) : (s.groupWord e k).2.mem = s.mem := by
  simp only [State.groupWord]
  split <;> simp

theorem State.setGroupWord_wf (s : State) (e k : Nat) (v : DWord) (hw : s.mem.wf = true) : (s.setGroupWord e k v).mem.wf = true := by
  unfold State.setGroupWord
  split
  · exact hw
  · exact State.physWrite_wf _ _ _ hw

theorem State.laySave_wf (s : State) (c : Core) (dl : Bool) (a : Saved) (hw : s.mem.wf = true) : (s.laySave c dl a).mem.wf = true := by
  unfold State.laySave
  dsimp only
  generalize s.saveParts c a = ps
  generalize saveArea c.cid dl = base
  induction ps generalizing s with
  | nil => exact hw
  | cons p ps ih =>
    rw [List.foldl_cons]
    apply ih
    have h : ∀ t : State, t.mem = s.mem → (t.mem.lay (base + p.1) p.2.1 p.2.2).wf = true := fun t e => e ▸ Mem.wf_lay _ _ _ _ hw
    exact h _ (State.activateAll_mem ..)

/-- The memories of the machine right after reset stand in their canonical form. -/
theorem State.reset_mem_wf : State.reset.mem.wf = true ∧ State.reset.mailbox.wf = true ∧ State.reset.core.l1.bytes.wf = true :=
  ⟨rfl, rfl, rfl⟩

end Sys2Proof.Machine
end

