-- ==== Sys2Proof/Laws/PerInstr.lean ====
section
/-! SUPPORT. The round trip of encoder and decoder, one lemma for each constructor: no bit of an encoding is dropped. -/

set_option linter.unusedSimpArgs false
set_option linter.unusedVariables false

namespace Sys2Proof.Laws.RoundTrip

/-- Decoding the word of a well-formed instruction gives the instruction back, and the word's chain bit is 0. -/
def Statement (i : Instr) : Prop := i.wf = true → ∀ w, encode i = some w → decode w = .ok i ∧ chainBit w = false

/-- A word reduced to its number. -/
theorem of_nat {i : Instr} {n : Nat} (he : encodeNat i = some n) (hn : n < 2 ^ 31) (hd : decodeRaw n = .ok i) : Statement i := by
  intro hw w h
  simp only [encode, he, Option.map_some, Option.some.injEq] at h
  subst h
  have hm : (BitVec.ofNat 32 n).toNat = n := by rw [BitVec.toNat_ofNat]; exact Nat.mod_eq_of_lt (by omega)
  refine ⟨?_, ?_⟩
  · simp only [decode, hm, hd, hw, if_true]
  · simp only [chainBit, BitVec.getLsbD, hm]
    exact Nat.testBit_lt_two_pow hn

theorem of_none {i : Instr} (he : encodeNat i = none) : Statement i := by
  intro _ w h
  simp [encode, he] at h

theorem nop : Statement (.nop) := by
  apply of_nat rfl (by omega)
  generalize hw : 0x00000000 = word
  have hw2 := hw
  have hM : seg word 26 5 = 0 := by simp only [seg]; omega
  have c0 : seg word 0 7 = 0 := by simp only [seg]; omega
  have c1 : seg word 20 6 = 0 := by simp only [seg]; omega
  have c2 : seg word 19 1 = 0 := by simp only [seg]; omega
  have c3 : seg word 13 6 = 0 := by simp only [seg]; omega
  have c4 : seg word 7 6 = 0 := by simp only [seg]; omega
  simp [decodeRaw, decode00, fld, hM, c0, c1, c2, c3, c4]

theorem tend : Statement (.tend) := by
  apply of_nat rfl (by omega)
  generalize hw : 0x00000001 = word
  have hw2 := hw
  have hM : seg word 26 5 = 0 := by simp only [seg]; omega
  have c0 : seg word 0 7 = 1 := by simp only [seg]; omega
  have c1 : seg word 20 6 = 0 := by simp only [seg]; omega
  have c2 : seg word 19 1 = 0 := by simp only [seg]; omega
  have c3 : seg word 13 6 = 0 := by simp only [seg]; omega
  have c4 : seg word 7 6 = 0 := by simp only [seg]; omega
  simp [decodeRaw, decode00, fld, hM, c0, c1, c2, c3, c4]

theorem tsusp (a : BitVec 6) (b : BitVec 6) : Statement (.tsusp a b) := by
  have b_a : a.toNat < 64 := a.isLt
  have b_b : b.toNat < 64 := b.isLt
  apply of_nat rfl (by simp only [put]; omega)
  generalize hw : 0x00000002 + put 13 a + put 7 b = word
  simp only [put] at hw
  have hM : seg word 26 5 = 0 := by simp only [seg]; omega
  have c0 : seg word 0 7 = 2 := by simp only [seg]; omega
  have c1 : seg word 20 6 = 0 := by simp only [seg]; omega
  have c2 : seg word 19 1 = 0 := by simp only [seg]; omega
  have f_a : seg word 13 6 = a.toNat := by simp only [seg]; omega
  have f_b : seg word 7 6 = b.toNat := by simp only [seg]; omega
  simp [decodeRaw, decode00, fld, hM, c0, c1, c2, f_a, f_b]

theorem tyield : Statement (.tyield) := by
  apply of_nat rfl (by omega)
  generalize hw : 0x00000003 = word
  have hw2 := hw
  have hM : seg word 26 5 = 0 := by simp only [seg]; omega
  have c0 : seg word 0 7 = 3 := by simp only [seg]; omega
  have c1 : seg word 20 6 = 0 := by simp only [seg]; omega
  have c2 : seg word 19 1 = 0 := by simp only [seg]; omega
  have c3 : seg word 13 6 = 0 := by simp only [seg]; omega
  have c4 : seg word 7 6 = 0 := by simp only [seg]; omega
  simp [decodeRaw, decode00, fld, hM, c0, c1, c2, c3, c4]

theorem ckpt (a : BitVec 6) : Statement (.ckpt a) := by
  have b_a : a.toNat < 64 := a.isLt
  apply of_nat rfl (by simp only [put]; omega)
  generalize hw : 0x00000004 + put 13 a = word
  simp only [put] at hw
  have hM : seg word 26 5 = 0 := by simp only [seg]; omega
  have c0 : seg word 0 7 = 4 := by simp only [seg]; omega
  have c1 : seg word 20 6 = 0 := by simp only [seg]; omega
  have c2 : seg word 19 1 = 0 := by simp only [seg]; omega
  have c3 : seg word 7 6 = 0 := by simp only [seg]; omega
  have f_a : seg word 13 6 = a.toNat := by simp only [seg]; omega
  simp [decodeRaw, decode00, fld, hM, c0, c1, c2, c3, f_a]

theorem trap (a : BitVec 6) : Statement (.trap a) := by
  have b_a : a.toNat < 64 := a.isLt
  apply of_nat rfl (by simp only [put]; omega)
  generalize hw : 0x00000005 + put 13 a = word
  simp only [put] at hw
  have hM : seg word 26 5 = 0 := by simp only [seg]; omega
  have c0 : seg word 0 7 = 5 := by simp only [seg]; omega
  have c1 : seg word 20 6 = 0 := by simp only [seg]; omega
  have c2 : seg word 19 1 = 0 := by simp only [seg]; omega
  have c3 : seg word 7 6 = 0 := by simp only [seg]; omega
  have f_a : seg word 13 6 = a.toNat := by simp only [seg]; omega
  simp [decodeRaw, decode00, fld, hM, c0, c1, c2, c3, f_a]

theorem eret : Statement (.eret) := by
  apply of_nat rfl (by omega)
  generalize hw : 0x00000006 = word
  have hw2 := hw
  have hM : seg word 26 5 = 0 := by simp only [seg]; omega
  have c0 : seg word 0 7 = 6 := by simp only [seg]; omega
  have c1 : seg word 20 6 = 0 := by simp only [seg]; omega
  have c2 : seg word 19 1 = 0 := by simp only [seg]; omega
  have c3 : seg word 13 6 = 0 := by simp only [seg]; omega
  have c4 : seg word 7 6 = 0 := by simp only [seg]; omega
  simp [decodeRaw, decode00, fld, hM, c0, c1, c2, c3, c4]

theorem csrd (d : BitVec 6) (w : BitVec 1) (b : BitVec 6) : Statement (.csrd d w b) := by
  have b_d : d.toNat < 64 := d.isLt
  have b_w : w.toNat < 2 := w.isLt
  have b_b : b.toNat < 64 := b.isLt
  apply of_nat rfl (by simp only [put]; omega)
  generalize hw : 0x00000008 + put 20 d + put 19 w + put 7 b = word
  simp only [put] at hw
  have hM : seg word 26 5 = 0 := by simp only [seg]; omega
  have c0 : seg word 0 7 = 8 := by simp only [seg]; omega
  have c1 : seg word 13 6 = 0 := by simp only [seg]; omega
  have f_d : seg word 20 6 = d.toNat := by simp only [seg]; omega
  have f_w : seg word 19 1 = w.toNat := by simp only [seg]; omega
  have f_b : seg word 7 6 = b.toNat := by simp only [seg]; omega
  simp [decodeRaw, decode00, fld, hM, c0, c1, f_d, f_w, f_b]

theorem cswr (a : BitVec 6) (b : BitVec 6) : Statement (.cswr a b) := by
  have b_a : a.toNat < 64 := a.isLt
  have b_b : b.toNat < 64 := b.isLt
  apply of_nat rfl (by simp only [put]; omega)
  generalize hw : 0x00000009 + put 13 a + put 7 b = word
  simp only [put] at hw
  have hM : seg word 26 5 = 0 := by simp only [seg]; omega
  have c0 : seg word 0 7 = 9 := by simp only [seg]; omega
  have c1 : seg word 20 6 = 0 := by simp only [seg]; omega
  have c2 : seg word 19 1 = 0 := by simp only [seg]; omega
  have f_a : seg word 13 6 = a.toNat := by simp only [seg]; omega
  have f_b : seg word 7 6 = b.toNat := by simp only [seg]; omega
  simp [decodeRaw, decode00, fld, hM, c0, c1, c2, f_a, f_b]

theorem csset (a : BitVec 6) (b : BitVec 6) : Statement (.csset a b) := by
  have b_a : a.toNat < 64 := a.isLt
  have b_b : b.toNat < 64 := b.isLt
  apply of_nat rfl (by simp only [put]; omega)
  generalize hw : 0x0000000A + put 13 a + put 7 b = word
  simp only [put] at hw
  have hM : seg word 26 5 = 0 := by simp only [seg]; omega
  have c0 : seg word 0 7 = 0xA := by simp only [seg]; omega
  have c1 : seg word 20 6 = 0 := by simp only [seg]; omega
  have c2 : seg word 19 1 = 0 := by simp only [seg]; omega
  have f_a : seg word 13 6 = a.toNat := by simp only [seg]; omega
  have f_b : seg word 7 6 = b.toNat := by simp only [seg]; omega
  simp [decodeRaw, decode00, fld, hM, c0, c1, c2, f_a, f_b]

theorem csclr (a : BitVec 6) (b : BitVec 6) : Statement (.csclr a b) := by
  have b_a : a.toNat < 64 := a.isLt
  have b_b : b.toNat < 64 := b.isLt
  apply of_nat rfl (by simp only [put]; omega)
  generalize hw : 0x0000000B + put 13 a + put 7 b = word
  simp only [put] at hw
  have hM : seg word 26 5 = 0 := by simp only [seg]; omega
  have c0 : seg word 0 7 = 0xB := by simp only [seg]; omega
  have c1 : seg word 20 6 = 0 := by simp only [seg]; omega
  have c2 : seg word 19 1 = 0 := by simp only [seg]; omega
  have f_a : seg word 13 6 = a.toNat := by simp only [seg]; omega
  have f_b : seg word 7 6 = b.toNat := by simp only [seg]; omega
  simp [decodeRaw, decode00, fld, hM, c0, c1, c2, f_a, f_b]

theorem wfe : Statement (.wfe) := by
  apply of_nat rfl (by omega)
  generalize hw : 0x0000000C = word
  have hw2 := hw
  have hM : seg word 26 5 = 0 := by simp only [seg]; omega
  have c0 : seg word 0 7 = 0xC := by simp only [seg]; omega
  have c1 : seg word 20 6 = 0 := by simp only [seg]; omega
  have c2 : seg word 19 1 = 0 := by simp only [seg]; omega
  have c3 : seg word 13 6 = 0 := by simp only [seg]; omega
  have c4 : seg word 7 6 = 0 := by simp only [seg]; omega
  simp [decodeRaw, decode00, fld, hM, c0, c1, c2, c3, c4]

theorem sleep : Statement (.sleep) := by
  apply of_nat rfl (by omega)
  generalize hw : 0x0000000D = word
  have hw2 := hw
  have hM : seg word 26 5 = 0 := by simp only [seg]; omega
  have c0 : seg word 0 7 = 0xD := by simp only [seg]; omega
  have c1 : seg word 20 6 = 0 := by simp only [seg]; omega
  have c2 : seg word 19 1 = 0 := by simp only [seg]; omega
  have c3 : seg word 13 6 = 0 := by simp only [seg]; omega
  have c4 : seg word 7 6 = 0 := by simp only [seg]; omega
  simp [decodeRaw, decode00, fld, hM, c0, c1, c2, c3, c4]

theorem sadd (d : BitVec 6) (w : BitVec 1) (a : BitVec 6) (b : BitVec 6) : Statement (.sadd d w a b) := by
  have b_d : d.toNat < 64 := d.isLt
  have b_w : w.toNat < 2 := w.isLt
  have b_a : a.toNat < 64 := a.isLt
  have b_b : b.toNat < 64 := b.isLt
  apply of_nat rfl (by simp only [put]; omega)
  generalize hw : 0x04000000 + put 20 d + put 19 w + put 13 a + put 7 b = word
  simp only [put] at hw
  have hM : seg word 26 5 = 1 := by simp only [seg]; omega
  have c0 : seg word 0 7 = 0 := by simp only [seg]; omega
  have f_d : seg word 20 6 = d.toNat := by simp only [seg]; omega
  have f_w : seg word 19 1 = w.toNat := by simp only [seg]; omega
  have f_a : seg word 13 6 = a.toNat := by simp only [seg]; omega
  have f_b : seg word 7 6 = b.toNat := by simp only [seg]; omega
  simp [decodeRaw, decode01, fld, hM, c0, f_d, f_w, f_a, f_b]

theorem ssub (d : BitVec 6) (w : BitVec 1) (a : BitVec 6) (b : BitVec 6) : Statement (.ssub d w a b) := by
  have b_d : d.toNat < 64 := d.isLt
  have b_w : w.toNat < 2 := w.isLt
  have b_a : a.toNat < 64 := a.isLt
  have b_b : b.toNat < 64 := b.isLt
  apply of_nat rfl (by simp only [put]; omega)
  generalize hw : 0x04000001 + put 20 d + put 19 w + put 13 a + put 7 b = word
  simp only [put] at hw
  have hM : seg word 26 5 = 1 := by simp only [seg]; omega
  have c0 : seg word 0 7 = 1 := by simp only [seg]; omega
  have f_d : seg word 20 6 = d.toNat := by simp only [seg]; omega
  have f_w : seg word 19 1 = w.toNat := by simp only [seg]; omega
  have f_a : seg word 13 6 = a.toNat := by simp only [seg]; omega
  have f_b : seg word 7 6 = b.toNat := by simp only [seg]; omega
  simp [decodeRaw, decode01, fld, hM, c0, f_d, f_w, f_a, f_b]

theorem smul (d : BitVec 6) (w : BitVec 1) (a : BitVec 6) (b : BitVec 6) : Statement (.smul d w a b) := by
  have b_d : d.toNat < 64 := d.isLt
  have b_w : w.toNat < 2 := w.isLt
  have b_a : a.toNat < 64 := a.isLt
  have b_b : b.toNat < 64 := b.isLt
  apply of_nat rfl (by simp only [put]; omega)
  generalize hw : 0x04000002 + put 20 d + put 19 w + put 13 a + put 7 b = word
  simp only [put] at hw
  have hM : seg word 26 5 = 1 := by simp only [seg]; omega
  have c0 : seg word 0 7 = 2 := by simp only [seg]; omega
  have f_d : seg word 20 6 = d.toNat := by simp only [seg]; omega
  have f_w : seg word 19 1 = w.toNat := by simp only [seg]; omega
  have f_a : seg word 13 6 = a.toNat := by simp only [seg]; omega
  have f_b : seg word 7 6 = b.toNat := by simp only [seg]; omega
  simp [decodeRaw, decode01, fld, hM, c0, f_d, f_w, f_a, f_b]

theorem smulh (d : BitVec 6) (w : BitVec 1) (a : BitVec 6) (b : BitVec 6) : Statement (.smulh d w a b) := by
  have b_d : d.toNat < 64 := d.isLt
  have b_w : w.toNat < 2 := w.isLt
  have b_a : a.toNat < 64 := a.isLt
  have b_b : b.toNat < 64 := b.isLt
  apply of_nat rfl (by simp only [put]; omega)
  generalize hw : 0x04000003 + put 20 d + put 19 w + put 13 a + put 7 b = word
  simp only [put] at hw
  have hM : seg word 26 5 = 1 := by simp only [seg]; omega
  have c0 : seg word 0 7 = 3 := by simp only [seg]; omega
  have f_d : seg word 20 6 = d.toNat := by simp only [seg]; omega
  have f_w : seg word 19 1 = w.toNat := by simp only [seg]; omega
  have f_a : seg word 13 6 = a.toNat := by simp only [seg]; omega
  have f_b : seg word 7 6 = b.toNat := by simp only [seg]; omega
  simp [decodeRaw, decode01, fld, hM, c0, f_d, f_w, f_a, f_b]

theorem smulhu (d : BitVec 6) (w : BitVec 1) (a : BitVec 6) (b : BitVec 6) : Statement (.smulhu d w a b) := by
  have b_d : d.toNat < 64 := d.isLt
  have b_w : w.toNat < 2 := w.isLt
  have b_a : a.toNat < 64 := a.isLt
  have b_b : b.toNat < 64 := b.isLt
  apply of_nat rfl (by simp only [put]; omega)
  generalize hw : 0x04000004 + put 20 d + put 19 w + put 13 a + put 7 b = word
  simp only [put] at hw
  have hM : seg word 26 5 = 1 := by simp only [seg]; omega
  have c0 : seg word 0 7 = 4 := by simp only [seg]; omega
  have f_d : seg word 20 6 = d.toNat := by simp only [seg]; omega
  have f_w : seg word 19 1 = w.toNat := by simp only [seg]; omega
  have f_a : seg word 13 6 = a.toNat := by simp only [seg]; omega
  have f_b : seg word 7 6 = b.toNat := by simp only [seg]; omega
  simp [decodeRaw, decode01, fld, hM, c0, f_d, f_w, f_a, f_b]

theorem sdiv (d : BitVec 6) (w : BitVec 1) (a : BitVec 6) (b : BitVec 6) : Statement (.sdiv d w a b) := by
  have b_d : d.toNat < 64 := d.isLt
  have b_w : w.toNat < 2 := w.isLt
  have b_a : a.toNat < 64 := a.isLt
  have b_b : b.toNat < 64 := b.isLt
  apply of_nat rfl (by simp only [put]; omega)
  generalize hw : 0x04000005 + put 20 d + put 19 w + put 13 a + put 7 b = word
  simp only [put] at hw
  have hM : seg word 26 5 = 1 := by simp only [seg]; omega
  have c0 : seg word 0 7 = 5 := by simp only [seg]; omega
  have f_d : seg word 20 6 = d.toNat := by simp only [seg]; omega
  have f_w : seg word 19 1 = w.toNat := by simp only [seg]; omega
  have f_a : seg word 13 6 = a.toNat := by simp only [seg]; omega
  have f_b : seg word 7 6 = b.toNat := by simp only [seg]; omega
  simp [decodeRaw, decode01, fld, hM, c0, f_d, f_w, f_a, f_b]

theorem sdivu (d : BitVec 6) (w : BitVec 1) (a : BitVec 6) (b : BitVec 6) : Statement (.sdivu d w a b) := by
  have b_d : d.toNat < 64 := d.isLt
  have b_w : w.toNat < 2 := w.isLt
  have b_a : a.toNat < 64 := a.isLt
  have b_b : b.toNat < 64 := b.isLt
  apply of_nat rfl (by simp only [put]; omega)
  generalize hw : 0x04000006 + put 20 d + put 19 w + put 13 a + put 7 b = word
  simp only [put] at hw
  have hM : seg word 26 5 = 1 := by simp only [seg]; omega
  have c0 : seg word 0 7 = 6 := by simp only [seg]; omega
  have f_d : seg word 20 6 = d.toNat := by simp only [seg]; omega
  have f_w : seg word 19 1 = w.toNat := by simp only [seg]; omega
  have f_a : seg word 13 6 = a.toNat := by simp only [seg]; omega
  have f_b : seg word 7 6 = b.toNat := by simp only [seg]; omega
  simp [decodeRaw, decode01, fld, hM, c0, f_d, f_w, f_a, f_b]

theorem srem (d : BitVec 6) (w : BitVec 1) (a : BitVec 6) (b : BitVec 6) : Statement (.srem d w a b) := by
  have b_d : d.toNat < 64 := d.isLt
  have b_w : w.toNat < 2 := w.isLt
  have b_a : a.toNat < 64 := a.isLt
  have b_b : b.toNat < 64 := b.isLt
  apply of_nat rfl (by simp only [put]; omega)
  generalize hw : 0x04000007 + put 20 d + put 19 w + put 13 a + put 7 b = word
  simp only [put] at hw
  have hM : seg word 26 5 = 1 := by simp only [seg]; omega
  have c0 : seg word 0 7 = 7 := by simp only [seg]; omega
  have f_d : seg word 20 6 = d.toNat := by simp only [seg]; omega
  have f_w : seg word 19 1 = w.toNat := by simp only [seg]; omega
  have f_a : seg word 13 6 = a.toNat := by simp only [seg]; omega
  have f_b : seg word 7 6 = b.toNat := by simp only [seg]; omega
  simp [decodeRaw, decode01, fld, hM, c0, f_d, f_w, f_a, f_b]

theorem sremu (d : BitVec 6) (w : BitVec 1) (a : BitVec 6) (b : BitVec 6) : Statement (.sremu d w a b) := by
  have b_d : d.toNat < 64 := d.isLt
  have b_w : w.toNat < 2 := w.isLt
  have b_a : a.toNat < 64 := a.isLt
  have b_b : b.toNat < 64 := b.isLt
  apply of_nat rfl (by simp only [put]; omega)
  generalize hw : 0x04000008 + put 20 d + put 19 w + put 13 a + put 7 b = word
  simp only [put] at hw
  have hM : seg word 26 5 = 1 := by simp only [seg]; omega
  have c0 : seg word 0 7 = 8 := by simp only [seg]; omega
  have f_d : seg word 20 6 = d.toNat := by simp only [seg]; omega
  have f_w : seg word 19 1 = w.toNat := by simp only [seg]; omega
  have f_a : seg word 13 6 = a.toNat := by simp only [seg]; omega
  have f_b : seg word 7 6 = b.toNat := by simp only [seg]; omega
  simp [decodeRaw, decode01, fld, hM, c0, f_d, f_w, f_a, f_b]

theorem sand (d : BitVec 6) (w : BitVec 1) (a : BitVec 6) (b : BitVec 6) : Statement (.sand d w a b) := by
  have b_d : d.toNat < 64 := d.isLt
  have b_w : w.toNat < 2 := w.isLt
  have b_a : a.toNat < 64 := a.isLt
  have b_b : b.toNat < 64 := b.isLt
  apply of_nat rfl (by simp only [put]; omega)
  generalize hw : 0x04000009 + put 20 d + put 19 w + put 13 a + put 7 b = word
  simp only [put] at hw
  have hM : seg word 26 5 = 1 := by simp only [seg]; omega
  have c0 : seg word 0 7 = 9 := by simp only [seg]; omega
  have f_d : seg word 20 6 = d.toNat := by simp only [seg]; omega
  have f_w : seg word 19 1 = w.toNat := by simp only [seg]; omega
  have f_a : seg word 13 6 = a.toNat := by simp only [seg]; omega
  have f_b : seg word 7 6 = b.toNat := by simp only [seg]; omega
  simp [decodeRaw, decode01, fld, hM, c0, f_d, f_w, f_a, f_b]

theorem sor (d : BitVec 6) (w : BitVec 1) (a : BitVec 6) (b : BitVec 6) : Statement (.sor d w a b) := by
  have b_d : d.toNat < 64 := d.isLt
  have b_w : w.toNat < 2 := w.isLt
  have b_a : a.toNat < 64 := a.isLt
  have b_b : b.toNat < 64 := b.isLt
  apply of_nat rfl (by simp only [put]; omega)
  generalize hw : 0x0400000A + put 20 d + put 19 w + put 13 a + put 7 b = word
  simp only [put] at hw
  have hM : seg word 26 5 = 1 := by simp only [seg]; omega
  have c0 : seg word 0 7 = 0xA := by simp only [seg]; omega
  have f_d : seg word 20 6 = d.toNat := by simp only [seg]; omega
  have f_w : seg word 19 1 = w.toNat := by simp only [seg]; omega
  have f_a : seg word 13 6 = a.toNat := by simp only [seg]; omega
  have f_b : seg word 7 6 = b.toNat := by simp only [seg]; omega
  simp [decodeRaw, decode01, fld, hM, c0, f_d, f_w, f_a, f_b]

theorem sxor (d : BitVec 6) (w : BitVec 1) (a : BitVec 6) (b : BitVec 6) : Statement (.sxor d w a b) := by
  have b_d : d.toNat < 64 := d.isLt
  have b_w : w.toNat < 2 := w.isLt
  have b_a : a.toNat < 64 := a.isLt
  have b_b : b.toNat < 64 := b.isLt
  apply of_nat rfl (by simp only [put]; omega)
  generalize hw : 0x0400000B + put 20 d + put 19 w + put 13 a + put 7 b = word
  simp only [put] at hw
  have hM : seg word 26 5 = 1 := by simp only [seg]; omega
  have c0 : seg word 0 7 = 0xB := by simp only [seg]; omega
  have f_d : seg word 20 6 = d.toNat := by simp only [seg]; omega
  have f_w : seg word 19 1 = w.toNat := by simp only [seg]; omega
  have f_a : seg word 13 6 = a.toNat := by simp only [seg]; omega
  have f_b : seg word 7 6 = b.toNat := by simp only [seg]; omega
  simp [decodeRaw, decode01, fld, hM, c0, f_d, f_w, f_a, f_b]

theorem sshl (d : BitVec 6) (w : BitVec 1) (a : BitVec 6) (b : BitVec 6) : Statement (.sshl d w a b) := by
  have b_d : d.toNat < 64 := d.isLt
  have b_w : w.toNat < 2 := w.isLt
  have b_a : a.toNat < 64 := a.isLt
  have b_b : b.toNat < 64 := b.isLt
  apply of_nat rfl (by simp only [put]; omega)
  generalize hw : 0x0400000C + put 20 d + put 19 w + put 13 a + put 7 b = word
  simp only [put] at hw
  have hM : seg word 26 5 = 1 := by simp only [seg]; omega
  have c0 : seg word 0 7 = 0xC := by simp only [seg]; omega
  have f_d : seg word 20 6 = d.toNat := by simp only [seg]; omega
  have f_w : seg word 19 1 = w.toNat := by simp only [seg]; omega
  have f_a : seg word 13 6 = a.toNat := by simp only [seg]; omega
  have f_b : seg word 7 6 = b.toNat := by simp only [seg]; omega
  simp [decodeRaw, decode01, fld, hM, c0, f_d, f_w, f_a, f_b]

theorem sshr (d : BitVec 6) (w : BitVec 1) (a : BitVec 6) (b : BitVec 6) : Statement (.sshr d w a b) := by
  have b_d : d.toNat < 64 := d.isLt
  have b_w : w.toNat < 2 := w.isLt
  have b_a : a.toNat < 64 := a.isLt
  have b_b : b.toNat < 64 := b.isLt
  apply of_nat rfl (by simp only [put]; omega)
  generalize hw : 0x0400000D + put 20 d + put 19 w + put 13 a + put 7 b = word
  simp only [put] at hw
  have hM : seg word 26 5 = 1 := by simp only [seg]; omega
  have c0 : seg word 0 7 = 0xD := by simp only [seg]; omega
  have f_d : seg word 20 6 = d.toNat := by simp only [seg]; omega
  have f_w : seg word 19 1 = w.toNat := by simp only [seg]; omega
  have f_a : seg word 13 6 = a.toNat := by simp only [seg]; omega
  have f_b : seg word 7 6 = b.toNat := by simp only [seg]; omega
  simp [decodeRaw, decode01, fld, hM, c0, f_d, f_w, f_a, f_b]

theorem ssra (d : BitVec 6) (w : BitVec 1) (a : BitVec 6) (b : BitVec 6) : Statement (.ssra d w a b) := by
  have b_d : d.toNat < 64 := d.isLt
  have b_w : w.toNat < 2 := w.isLt
  have b_a : a.toNat < 64 := a.isLt
  have b_b : b.toNat < 64 := b.isLt
  apply of_nat rfl (by simp only [put]; omega)
  generalize hw : 0x0400000E + put 20 d + put 19 w + put 13 a + put 7 b = word
  simp only [put] at hw
  have hM : seg word 26 5 = 1 := by simp only [seg]; omega
  have c0 : seg word 0 7 = 0xE := by simp only [seg]; omega
  have f_d : seg word 20 6 = d.toNat := by simp only [seg]; omega
  have f_w : seg word 19 1 = w.toNat := by simp only [seg]; omega
  have f_a : seg word 13 6 = a.toNat := by simp only [seg]; omega
  have f_b : seg word 7 6 = b.toNat := by simp only [seg]; omega
  simp [decodeRaw, decode01, fld, hM, c0, f_d, f_w, f_a, f_b]

theorem smin (d : BitVec 6) (w : BitVec 1) (a : BitVec 6) (b : BitVec 6) : Statement (.smin d w a b) := by
  have b_d : d.toNat < 64 := d.isLt
  have b_w : w.toNat < 2 := w.isLt
  have b_a : a.toNat < 64 := a.isLt
  have b_b : b.toNat < 64 := b.isLt
  apply of_nat rfl (by simp only [put]; omega)
  generalize hw : 0x0400000F + put 20 d + put 19 w + put 13 a + put 7 b = word
  simp only [put] at hw
  have hM : seg word 26 5 = 1 := by simp only [seg]; omega
  have c0 : seg word 0 7 = 0xF := by simp only [seg]; omega
  have f_d : seg word 20 6 = d.toNat := by simp only [seg]; omega
  have f_w : seg word 19 1 = w.toNat := by simp only [seg]; omega
  have f_a : seg word 13 6 = a.toNat := by simp only [seg]; omega
  have f_b : seg word 7 6 = b.toNat := by simp only [seg]; omega
  simp [decodeRaw, decode01, fld, hM, c0, f_d, f_w, f_a, f_b]

theorem smax (d : BitVec 6) (w : BitVec 1) (a : BitVec 6) (b : BitVec 6) : Statement (.smax d w a b) := by
  have b_d : d.toNat < 64 := d.isLt
  have b_w : w.toNat < 2 := w.isLt
  have b_a : a.toNat < 64 := a.isLt
  have b_b : b.toNat < 64 := b.isLt
  apply of_nat rfl (by simp only [put]; omega)
  generalize hw : 0x04000010 + put 20 d + put 19 w + put 13 a + put 7 b = word
  simp only [put] at hw
  have hM : seg word 26 5 = 1 := by simp only [seg]; omega
  have c0 : seg word 0 7 = 0x10 := by simp only [seg]; omega
  have f_d : seg word 20 6 = d.toNat := by simp only [seg]; omega
  have f_w : seg word 19 1 = w.toNat := by simp only [seg]; omega
  have f_a : seg word 13 6 = a.toNat := by simp only [seg]; omega
  have f_b : seg word 7 6 = b.toNat := by simp only [seg]; omega
  simp [decodeRaw, decode01, fld, hM, c0, f_d, f_w, f_a, f_b]

theorem sminu (d : BitVec 6) (w : BitVec 1) (a : BitVec 6) (b : BitVec 6) : Statement (.sminu d w a b) := by
  have b_d : d.toNat < 64 := d.isLt
  have b_w : w.toNat < 2 := w.isLt
  have b_a : a.toNat < 64 := a.isLt
  have b_b : b.toNat < 64 := b.isLt
  apply of_nat rfl (by simp only [put]; omega)
  generalize hw : 0x04000011 + put 20 d + put 19 w + put 13 a + put 7 b = word
  simp only [put] at hw
  have hM : seg word 26 5 = 1 := by simp only [seg]; omega
  have c0 : seg word 0 7 = 0x11 := by simp only [seg]; omega
  have f_d : seg word 20 6 = d.toNat := by simp only [seg]; omega
  have f_w : seg word 19 1 = w.toNat := by simp only [seg]; omega
  have f_a : seg word 13 6 = a.toNat := by simp only [seg]; omega
  have f_b : seg word 7 6 = b.toNat := by simp only [seg]; omega
  simp [decodeRaw, decode01, fld, hM, c0, f_d, f_w, f_a, f_b]

theorem smaxu (d : BitVec 6) (w : BitVec 1) (a : BitVec 6) (b : BitVec 6) : Statement (.smaxu d w a b) := by
  have b_d : d.toNat < 64 := d.isLt
  have b_w : w.toNat < 2 := w.isLt
  have b_a : a.toNat < 64 := a.isLt
  have b_b : b.toNat < 64 := b.isLt
  apply of_nat rfl (by simp only [put]; omega)
  generalize hw : 0x04000012 + put 20 d + put 19 w + put 13 a + put 7 b = word
  simp only [put] at hw
  have hM : seg word 26 5 = 1 := by simp only [seg]; omega
  have c0 : seg word 0 7 = 0x12 := by simp only [seg]; omega
  have f_d : seg word 20 6 = d.toNat := by simp only [seg]; omega
  have f_w : seg word 19 1 = w.toNat := by simp only [seg]; omega
  have f_a : seg word 13 6 = a.toNat := by simp only [seg]; omega
  have f_b : seg word 7 6 = b.toNat := by simp only [seg]; omega
  simp [decodeRaw, decode01, fld, hM, c0, f_d, f_w, f_a, f_b]

theorem sclz (d : BitVec 6) (w : BitVec 1) (a : BitVec 6) : Statement (.sclz d w a) := by
  have b_d : d.toNat < 64 := d.isLt
  have b_w : w.toNat < 2 := w.isLt
  have b_a : a.toNat < 64 := a.isLt
  apply of_nat rfl (by simp only [put]; omega)
  generalize hw : 0x04000013 + put 20 d + put 19 w + put 13 a = word
  simp only [put] at hw
  have hM : seg word 26 5 = 1 := by simp only [seg]; omega
  have c0 : seg word 0 7 = 0x13 := by simp only [seg]; omega
  have c1 : seg word 7 6 = 0 := by simp only [seg]; omega
  have f_d : seg word 20 6 = d.toNat := by simp only [seg]; omega
  have f_w : seg word 19 1 = w.toNat := by simp only [seg]; omega
  have f_a : seg word 13 6 = a.toNat := by simp only [seg]; omega
  simp [decodeRaw, decode01, fld, hM, c0, c1, f_d, f_w, f_a]

theorem spopc (d : BitVec 6) (w : BitVec 1) (a : BitVec 6) : Statement (.spopc d w a) := by
  have b_d : d.toNat < 64 := d.isLt
  have b_w : w.toNat < 2 := w.isLt
  have b_a : a.toNat < 64 := a.isLt
  apply of_nat rfl (by simp only [put]; omega)
  generalize hw : 0x04000014 + put 20 d + put 19 w + put 13 a = word
  simp only [put] at hw
  have hM : seg word 26 5 = 1 := by simp only [seg]; omega
  have c0 : seg word 0 7 = 0x14 := by simp only [seg]; omega
  have c1 : seg word 7 6 = 0 := by simp only [seg]; omega
  have f_d : seg word 20 6 = d.toNat := by simp only [seg]; omega
  have f_w : seg word 19 1 = w.toNat := by simp only [seg]; omega
  have f_a : seg word 13 6 = a.toNat := by simp only [seg]; omega
  simp [decodeRaw, decode01, fld, hM, c0, c1, f_d, f_w, f_a]

theorem saddi (d : BitVec 6) (w : BitVec 1) (a : BitVec 6) (i : BitVec 10) : Statement (.saddi d w a i) := by
  have b_d : d.toNat < 64 := d.isLt
  have b_w : w.toNat < 2 := w.isLt
  have b_a : a.toNat < 64 := a.isLt
  have b_i : i.toNat < 1024 := i.isLt
  apply of_nat rfl (by simp only [put]; omega)
  generalize hw : 0x08000000 + put 20 d + put 19 w + put 13 a + put 0 i = word
  simp only [put] at hw
  have hM : seg word 26 5 = 2 := by simp only [seg]; omega
  have c0 : seg word 10 3 = 0 := by simp only [seg]; omega
  have f_d : seg word 20 6 = d.toNat := by simp only [seg]; omega
  have f_w : seg word 19 1 = w.toNat := by simp only [seg]; omega
  have f_a : seg word 13 6 = a.toNat := by simp only [seg]; omega
  have f_i : seg word 0 10 = i.toNat := by simp only [seg]; omega
  simp [decodeRaw, decode02, fld, hM, c0, f_d, f_w, f_a, f_i]

theorem sandi (d : BitVec 6) (w : BitVec 1) (a : BitVec 6) (i : BitVec 10) : Statement (.sandi d w a i) := by
  have b_d : d.toNat < 64 := d.isLt
  have b_w : w.toNat < 2 := w.isLt
  have b_a : a.toNat < 64 := a.isLt
  have b_i : i.toNat < 1024 := i.isLt
  apply of_nat rfl (by simp only [put]; omega)
  generalize hw : 0x08000400 + put 20 d + put 19 w + put 13 a + put 0 i = word
  simp only [put] at hw
  have hM : seg word 26 5 = 2 := by simp only [seg]; omega
  have c0 : seg word 10 3 = 1 := by simp only [seg]; omega
  have f_d : seg word 20 6 = d.toNat := by simp only [seg]; omega
  have f_w : seg word 19 1 = w.toNat := by simp only [seg]; omega
  have f_a : seg word 13 6 = a.toNat := by simp only [seg]; omega
  have f_i : seg word 0 10 = i.toNat := by simp only [seg]; omega
  simp [decodeRaw, decode02, fld, hM, c0, f_d, f_w, f_a, f_i]

theorem sori (d : BitVec 6) (w : BitVec 1) (a : BitVec 6) (i : BitVec 10) : Statement (.sori d w a i) := by
  have b_d : d.toNat < 64 := d.isLt
  have b_w : w.toNat < 2 := w.isLt
  have b_a : a.toNat < 64 := a.isLt
  have b_i : i.toNat < 1024 := i.isLt
  apply of_nat rfl (by simp only [put]; omega)
  generalize hw : 0x08000800 + put 20 d + put 19 w + put 13 a + put 0 i = word
  simp only [put] at hw
  have hM : seg word 26 5 = 2 := by simp only [seg]; omega
  have c0 : seg word 10 3 = 2 := by simp only [seg]; omega
  have f_d : seg word 20 6 = d.toNat := by simp only [seg]; omega
  have f_w : seg word 19 1 = w.toNat := by simp only [seg]; omega
  have f_a : seg word 13 6 = a.toNat := by simp only [seg]; omega
  have f_i : seg word 0 10 = i.toNat := by simp only [seg]; omega
  simp [decodeRaw, decode02, fld, hM, c0, f_d, f_w, f_a, f_i]

theorem sxori (d : BitVec 6) (w : BitVec 1) (a : BitVec 6) (i : BitVec 10) : Statement (.sxori d w a i) := by
  have b_d : d.toNat < 64 := d.isLt
  have b_w : w.toNat < 2 := w.isLt
  have b_a : a.toNat < 64 := a.isLt
  have b_i : i.toNat < 1024 := i.isLt
  apply of_nat rfl (by simp only [put]; omega)
  generalize hw : 0x08000C00 + put 20 d + put 19 w + put 13 a + put 0 i = word
  simp only [put] at hw
  have hM : seg word 26 5 = 2 := by simp only [seg]; omega
  have c0 : seg word 10 3 = 3 := by simp only [seg]; omega
  have f_d : seg word 20 6 = d.toNat := by simp only [seg]; omega
  have f_w : seg word 19 1 = w.toNat := by simp only [seg]; omega
  have f_a : seg word 13 6 = a.toNat := by simp only [seg]; omega
  have f_i : seg word 0 10 = i.toNat := by simp only [seg]; omega
  simp [decodeRaw, decode02, fld, hM, c0, f_d, f_w, f_a, f_i]

theorem sshli (d : BitVec 6) (w : BitVec 1) (a : BitVec 6) (i : BitVec 5) : Statement (.sshli d w a i) := by
  have b_d : d.toNat < 64 := d.isLt
  have b_w : w.toNat < 2 := w.isLt
  have b_a : a.toNat < 64 := a.isLt
  have b_i : i.toNat < 32 := i.isLt
  apply of_nat rfl (by simp only [put]; omega)
  generalize hw : 0x08001000 + put 20 d + put 19 w + put 13 a + put 0 i = word
  simp only [put] at hw
  have hM : seg word 26 5 = 2 := by simp only [seg]; omega
  have c0 : seg word 10 3 = 4 := by simp only [seg]; omega
  have c1 : seg word 7 3 = 0 := by simp only [seg]; omega
  have c2 : seg word 5 2 = 0 := by simp only [seg]; omega
  have f_d : seg word 20 6 = d.toNat := by simp only [seg]; omega
  have f_w : seg word 19 1 = w.toNat := by simp only [seg]; omega
  have f_a : seg word 13 6 = a.toNat := by simp only [seg]; omega
  have f_i : seg word 0 5 = i.toNat := by simp only [seg]; omega
  simp [decodeRaw, decode02, fld, hM, c0, c1, c2, f_d, f_w, f_a, f_i]

theorem sshri (d : BitVec 6) (w : BitVec 1) (a : BitVec 6) (i : BitVec 5) : Statement (.sshri d w a i) := by
  have b_d : d.toNat < 64 := d.isLt
  have b_w : w.toNat < 2 := w.isLt
  have b_a : a.toNat < 64 := a.isLt
  have b_i : i.toNat < 32 := i.isLt
  apply of_nat rfl (by simp only [put]; omega)
  generalize hw : 0x08001400 + put 20 d + put 19 w + put 13 a + put 0 i = word
  simp only [put] at hw
  have hM : seg word 26 5 = 2 := by simp only [seg]; omega
  have c0 : seg word 10 3 = 5 := by simp only [seg]; omega
  have c1 : seg word 7 3 = 0 := by simp only [seg]; omega
  have c2 : seg word 5 2 = 0 := by simp only [seg]; omega
  have f_d : seg word 20 6 = d.toNat := by simp only [seg]; omega
  have f_w : seg word 19 1 = w.toNat := by simp only [seg]; omega
  have f_a : seg word 13 6 = a.toNat := by simp only [seg]; omega
  have f_i : seg word 0 5 = i.toNat := by simp only [seg]; omega
  simp [decodeRaw, decode02, fld, hM, c0, c1, c2, f_d, f_w, f_a, f_i]

theorem ssrai (d : BitVec 6) (w : BitVec 1) (a : BitVec 6) (i : BitVec 5) : Statement (.ssrai d w a i) := by
  have b_d : d.toNat < 64 := d.isLt
  have b_w : w.toNat < 2 := w.isLt
  have b_a : a.toNat < 64 := a.isLt
  have b_i : i.toNat < 32 := i.isLt
  apply of_nat rfl (by simp only [put]; omega)
  generalize hw : 0x08001800 + put 20 d + put 19 w + put 13 a + put 0 i = word
  simp only [put] at hw
  have hM : seg word 26 5 = 2 := by simp only [seg]; omega
  have c0 : seg word 10 3 = 6 := by simp only [seg]; omega
  have c1 : seg word 7 3 = 0 := by simp only [seg]; omega
  have c2 : seg word 5 2 = 0 := by simp only [seg]; omega
  have f_d : seg word 20 6 = d.toNat := by simp only [seg]; omega
  have f_w : seg word 19 1 = w.toNat := by simp only [seg]; omega
  have f_a : seg word 13 6 = a.toNat := by simp only [seg]; omega
  have f_i : seg word 0 5 = i.toNat := by simp only [seg]; omega
  simp [decodeRaw, decode02, fld, hM, c0, c1, c2, f_d, f_w, f_a, f_i]

theorem aaddi (d : BitVec 6) (w : BitVec 1) (a : BitVec 6) (i : BitVec 10) : Statement (.aaddi d w a i) := by
  have b_d : d.toNat < 64 := d.isLt
  have b_w : w.toNat < 2 := w.isLt
  have b_a : a.toNat < 64 := a.isLt
  have b_i : i.toNat < 1024 := i.isLt
  apply of_nat rfl (by simp only [put]; omega)
  generalize hw : 0x08001C00 + put 20 d + put 19 w + put 13 a + put 0 i = word
  simp only [put] at hw
  have hM : seg word 26 5 = 2 := by simp only [seg]; omega
  have c0 : seg word 10 3 = 7 := by simp only [seg]; omega
  have f_d : seg word 20 6 = d.toNat := by simp only [seg]; omega
  have f_w : seg word 19 1 = w.toNat := by simp only [seg]; omega
  have f_a : seg word 13 6 = a.toNat := by simp only [seg]; omega
  have f_i : seg word 0 10 = i.toNat := by simp only [seg]; omega
  simp [decodeRaw, decode02, fld, hM, c0, f_d, f_w, f_a, f_i]

theorem sli (d : BitVec 6) (w : BitVec 1) (i : BitVec 18) : Statement (.sli d w i) := by
  have b_d : d.toNat < 64 := d.isLt
  have b_w : w.toNat < 2 := w.isLt
  have b_i : i.toNat < 262144 := i.isLt
  apply of_nat rfl (by simp only [put]; omega)
  generalize hw : 0x0C000000 + put 20 d + put 19 w + put 0 i = word
  simp only [put] at hw
  have hM : seg word 26 5 = 3 := by simp only [seg]; omega
  have c0 : seg word 18 1 = 0 := by simp only [seg]; omega
  have f_d : seg word 20 6 = d.toNat := by simp only [seg]; omega
  have f_w : seg word 19 1 = w.toNat := by simp only [seg]; omega
  have f_i : seg word 0 18 = i.toNat := by simp only [seg]; omega
  simp [decodeRaw, decode03, fld, hM, c0, f_d, f_w, f_i]

theorem slui (d : BitVec 6) (w : BitVec 1) (i : BitVec 18) : Statement (.slui d w i) := by
  have b_d : d.toNat < 64 := d.isLt
  have b_w : w.toNat < 2 := w.isLt
  have b_i : i.toNat < 262144 := i.isLt
  apply of_nat rfl (by simp only [put]; omega)
  generalize hw : 0x0C040000 + put 20 d + put 19 w + put 0 i = word
  simp only [put] at hw
  have hM : seg word 26 5 = 3 := by simp only [seg]; omega
  have c0 : seg word 18 1 = 1 := by simp only [seg]; omega
  have f_d : seg word 20 6 = d.toNat := by simp only [seg]; omega
  have f_w : seg word 19 1 = w.toNat := by simp only [seg]; omega
  have f_i : seg word 0 18 = i.toNat := by simp only [seg]; omega
  simp [decodeRaw, decode03, fld, hM, c0, f_d, f_w, f_i]

theorem aadd (d : BitVec 6) (w : BitVec 1) (a : BitVec 6) (b : BitVec 6) : Statement (.aadd d w a b) := by
  have b_d : d.toNat < 64 := d.isLt
  have b_w : w.toNat < 2 := w.isLt
  have b_a : a.toNat < 64 := a.isLt
  have b_b : b.toNat < 64 := b.isLt
  apply of_nat rfl (by simp only [put]; omega)
  generalize hw : 0x10000000 + put 20 d + put 19 w + put 13 a + put 7 b = word
  simp only [put] at hw
  have hM : seg word 26 5 = 4 := by simp only [seg]; omega
  have c0 : seg word 0 7 = 0 := by simp only [seg]; omega
  have f_d : seg word 20 6 = d.toNat := by simp only [seg]; omega
  have f_w : seg word 19 1 = w.toNat := by simp only [seg]; omega
  have f_a : seg word 13 6 = a.toNat := by simp only [seg]; omega
  have f_b : seg word 7 6 = b.toNat := by simp only [seg]; omega
  simp [decodeRaw, decode04, fld, hM, c0, f_d, f_w, f_a, f_b]

theorem asub (d : BitVec 6) (w : BitVec 1) (a : BitVec 6) (b : BitVec 6) : Statement (.asub d w a b) := by
  have b_d : d.toNat < 64 := d.isLt
  have b_w : w.toNat < 2 := w.isLt
  have b_a : a.toNat < 64 := a.isLt
  have b_b : b.toNat < 64 := b.isLt
  apply of_nat rfl (by simp only [put]; omega)
  generalize hw : 0x10000001 + put 20 d + put 19 w + put 13 a + put 7 b = word
  simp only [put] at hw
  have hM : seg word 26 5 = 4 := by simp only [seg]; omega
  have c0 : seg word 0 7 = 1 := by simp only [seg]; omega
  have f_d : seg word 20 6 = d.toNat := by simp only [seg]; omega
  have f_w : seg word 19 1 = w.toNat := by simp only [seg]; omega
  have f_a : seg word 13 6 = a.toNat := by simp only [seg]; omega
  have f_b : seg word 7 6 = b.toNat := by simp only [seg]; omega
  simp [decodeRaw, decode04, fld, hM, c0, f_d, f_w, f_a, f_b]

theorem amov (d : BitVec 6) (w : BitVec 1) (a : BitVec 6) : Statement (.amov d w a) := by
  have b_d : d.toNat < 64 := d.isLt
  have b_w : w.toNat < 2 := w.isLt
  have b_a : a.toNat < 64 := a.isLt
  apply of_nat rfl (by simp only [put]; omega)
  generalize hw : 0x10000002 + put 20 d + put 19 w + put 13 a = word
  simp only [put] at hw
  have hM : seg word 26 5 = 4 := by simp only [seg]; omega
  have c0 : seg word 0 7 = 2 := by simp only [seg]; omega
  have c1 : seg word 7 6 = 0 := by simp only [seg]; omega
  have f_d : seg word 20 6 = d.toNat := by simp only [seg]; omega
  have f_w : seg word 19 1 = w.toNat := by simp only [seg]; omega
  have f_a : seg word 13 6 = a.toNat := by simp only [seg]; omega
  simp [decodeRaw, decode04, fld, hM, c0, c1, f_d, f_w, f_a]

theorem aset (d : BitVec 6) (w : BitVec 1) (a : BitVec 6) (b : BitVec 6) : Statement (.aset d w a b) := by
  have b_d : d.toNat < 64 := d.isLt
  have b_w : w.toNat < 2 := w.isLt
  have b_a : a.toNat < 64 := a.isLt
  have b_b : b.toNat < 64 := b.isLt
  apply of_nat rfl (by simp only [put]; omega)
  generalize hw : 0x10000003 + put 20 d + put 19 w + put 13 a + put 7 b = word
  simp only [put] at hw
  have hM : seg word 26 5 = 4 := by simp only [seg]; omega
  have c0 : seg word 0 7 = 3 := by simp only [seg]; omega
  have f_d : seg word 20 6 = d.toNat := by simp only [seg]; omega
  have f_w : seg word 19 1 = w.toNat := by simp only [seg]; omega
  have f_a : seg word 13 6 = a.toNat := by simp only [seg]; omega
  have f_b : seg word 7 6 = b.toNat := by simp only [seg]; omega
  simp [decodeRaw, decode04, fld, hM, c0, f_d, f_w, f_a, f_b]

theorem aget (d : BitVec 6) (w : BitVec 1) (a : BitVec 6) : Statement (.aget d w a) := by
  have b_d : d.toNat < 64 := d.isLt
  have b_w : w.toNat < 2 := w.isLt
  have b_a : a.toNat < 64 := a.isLt
  apply of_nat rfl (by simp only [put]; omega)
  generalize hw : 0x10000004 + put 20 d + put 19 w + put 13 a = word
  simp only [put] at hw
  have hM : seg word 26 5 = 4 := by simp only [seg]; omega
  have c0 : seg word 0 7 = 4 := by simp only [seg]; omega
  have c1 : seg word 7 6 = 0 := by simp only [seg]; omega
  have f_d : seg word 20 6 = d.toNat := by simp only [seg]; omega
  have f_w : seg word 19 1 = w.toNat := by simp only [seg]; omega
  have f_a : seg word 13 6 = a.toNat := by simp only [seg]; omega
  simp [decodeRaw, decode04, fld, hM, c0, c1, f_d, f_w, f_a]

theorem agetHi (d : BitVec 6) (w : BitVec 1) (a : BitVec 6) : Statement (.agetHi d w a) := by
  have b_d : d.toNat < 64 := d.isLt
  have b_w : w.toNat < 2 := w.isLt
  have b_a : a.toNat < 64 := a.isLt
  apply of_nat rfl (by simp only [put]; omega)
  generalize hw : 0x10000005 + put 20 d + put 19 w + put 13 a = word
  simp only [put] at hw
  have hM : seg word 26 5 = 4 := by simp only [seg]; omega
  have c0 : seg word 0 7 = 5 := by simp only [seg]; omega
  have c1 : seg word 7 6 = 0 := by simp only [seg]; omega
  have f_d : seg word 20 6 = d.toNat := by simp only [seg]; omega
  have f_w : seg word 19 1 = w.toNat := by simp only [seg]; omega
  have f_a : seg word 13 6 = a.toNat := by simp only [seg]; omega
  simp [decodeRaw, decode04, fld, hM, c0, c1, f_d, f_w, f_a]

theorem brCc (k : BitVec 4) (p : BitVec 6) (o : BitVec 16) : Statement (.brCc k p o) := by
  have b_k : k.toNat < 16 := k.isLt
  have b_p : p.toNat < 64 := p.isLt
  have b_o : o.toNat < 65536 := o.isLt
  apply of_nat rfl (by simp only [put]; omega)
  generalize hw : 0x14000000 + put 22 k + put 16 p + put 0 o = word
  simp only [put] at hw
  have hM : seg word 26 5 = 5 := by simp only [seg]; omega
  have f_k : seg word 22 4 = k.toNat := by simp only [seg]; omega
  have f_p : seg word 16 6 = p.toNat := by simp only [seg]; omega
  have f_o : seg word 0 16 = o.toNat := by simp only [seg]; omega
  simp [decodeRaw, decode05, fld, hM, f_k, f_p, f_o]

theorem jmp (i : BitVec 19) : Statement (.jmp i) := by
  have b_i : i.toNat < 524288 := i.isLt
  apply of_nat rfl (by simp only [put]; omega)
  generalize hw : 0x18080000 + put 0 i = word
  simp only [put] at hw
  have hM : seg word 26 5 = 6 := by simp only [seg]; omega
  have c0 : seg word 19 1 = 1 := by simp only [seg]; omega
  have c1 : seg word 20 6 = 0 := by simp only [seg]; omega
  have f_i : seg word 0 19 = i.toNat := by simp only [seg]; omega
  simp [decodeRaw, decode06, fld, hM, c0, c1, f_i]

theorem call (d : BitVec 6) (i : BitVec 19) : Statement (.call d i) := by
  have b_d : d.toNat < 64 := d.isLt
  have b_i : i.toNat < 524288 := i.isLt
  apply of_nat rfl (by simp only [put]; omega)
  generalize hw : 0x18000000 + put 20 d + put 0 i = word
  simp only [put] at hw
  have hM : seg word 26 5 = 6 := by simp only [seg]; omega
  have c0 : seg word 19 1 = 0 := by simp only [seg]; omega
  have f_d : seg word 20 6 = d.toNat := by simp only [seg]; omega
  have f_i : seg word 0 19 = i.toNat := by simp only [seg]; omega
  simp [decodeRaw, decode06, fld, hM, c0, f_d, f_i]

theorem jind (a : BitVec 6) : Statement (.jind a) := by
  have b_a : a.toNat < 64 := a.isLt
  apply of_nat rfl (by simp only [put]; omega)
  generalize hw : 0x1C000000 + put 13 a = word
  simp only [put] at hw
  have hM : seg word 26 5 = 7 := by simp only [seg]; omega
  have c0 : seg word 0 7 = 0 := by simp only [seg]; omega
  have c1 : seg word 20 6 = 0 := by simp only [seg]; omega
  have c2 : seg word 19 1 = 0 := by simp only [seg]; omega
  have c3 : seg word 7 6 = 0 := by simp only [seg]; omega
  have f_a : seg word 13 6 = a.toNat := by simp only [seg]; omega
  simp [decodeRaw, decode07, fld, hM, c0, c1, c2, c3, f_a]

theorem jtab (a : BitVec 6) (b : BitVec 6) : Statement (.jtab a b) := by
  have b_a : a.toNat < 64 := a.isLt
  have b_b : b.toNat < 64 := b.isLt
  apply of_nat rfl (by simp only [put]; omega)
  generalize hw : 0x1C000001 + put 13 a + put 7 b = word
  simp only [put] at hw
  have hM : seg word 26 5 = 7 := by simp only [seg]; omega
  have c0 : seg word 0 7 = 1 := by simp only [seg]; omega
  have c1 : seg word 20 6 = 0 := by simp only [seg]; omega
  have c2 : seg word 19 1 = 0 := by simp only [seg]; omega
  have f_a : seg word 13 6 = a.toNat := by simp only [seg]; omega
  have f_b : seg word 7 6 = b.toNat := by simp only [seg]; omega
  simp [decodeRaw, decode07, fld, hM, c0, c1, c2, f_a, f_b]

theorem ret (a : BitVec 6) : Statement (.ret a) := by
  have b_a : a.toNat < 64 := a.isLt
  apply of_nat rfl (by simp only [put]; omega)
  generalize hw : 0x1C000002 + put 13 a = word
  simp only [put] at hw
  have hM : seg word 26 5 = 7 := by simp only [seg]; omega
  have c0 : seg word 0 7 = 2 := by simp only [seg]; omega
  have c1 : seg word 20 6 = 0 := by simp only [seg]; omega
  have c2 : seg word 19 1 = 0 := by simp only [seg]; omega
  have c3 : seg word 7 6 = 0 := by simp only [seg]; omega
  have f_a : seg word 13 6 = a.toNat := by simp only [seg]; omega
  simp [decodeRaw, decode07, fld, hM, c0, c1, c2, c3, f_a]

theorem rep (n : BitVec 6) (d : BitVec 1) (a : BitVec 1) (b : BitVec 1) (x : BitVec 1) : Statement (.rep n d a b x) := by
  have b_n : n.toNat < 64 := n.isLt
  have b_d : d.toNat < 2 := d.isLt
  have b_a : a.toNat < 2 := a.isLt
  have b_b : b.toNat < 2 := b.isLt
  have b_x : x.toNat < 2 := x.isLt
  apply of_nat rfl (by simp only [put]; omega)
  generalize hw : 0x20000000 + put 20 n + put 19 d + put 18 a + put 17 b + put 16 x = word
  simp only [put] at hw
  have hM : seg word 26 5 = 8 := by simp only [seg]; omega
  have c0 : seg word 13 3 = 0 := by simp only [seg]; omega
  have c1 : seg word 7 6 = 0 := by simp only [seg]; omega
  have c2 : seg word 0 7 = 0 := by simp only [seg]; omega
  have f_n : seg word 20 6 = n.toNat := by simp only [seg]; omega
  have f_d : seg word 19 1 = d.toNat := by simp only [seg]; omega
  have f_a : seg word 18 1 = a.toNat := by simp only [seg]; omega
  have f_b : seg word 17 1 = b.toNat := by simp only [seg]; omega
  have f_x : seg word 16 1 = x.toNat := by simp only [seg]; omega
  simp [decodeRaw, decode08, fld, hM, c0, c1, c2, f_n, f_d, f_a, f_b, f_x]

theorem scmpCc (d : BitVec 6) (w : BitVec 1) (a : BitVec 6) (b : BitVec 6) (k : BitVec 4) : Statement (.scmpCc d w a b k) := by
  have b_d : d.toNat < 64 := d.isLt
  have b_w : w.toNat < 2 := w.isLt
  have b_a : a.toNat < 64 := a.isLt
  have b_b : b.toNat < 64 := b.isLt
  have b_k : k.toNat < 16 := k.isLt
  apply of_nat rfl (by simp only [put]; omega)
  generalize hw : 0x24000000 + put 20 d + put 19 w + put 13 a + put 7 b + put 1 k = word
  simp only [put] at hw
  have hM : seg word 26 5 = 9 := by simp only [seg]; omega
  have c0 : seg word 0 1 = 0 := by simp only [seg]; omega
  have c1 : seg word 6 1 = 0 := by simp only [seg]; omega
  have c2 : seg word 5 1 = 0 := by simp only [seg]; omega
  have f_d : seg word 20 6 = d.toNat := by simp only [seg]; omega
  have f_w : seg word 19 1 = w.toNat := by simp only [seg]; omega
  have f_a : seg word 13 6 = a.toNat := by simp only [seg]; omega
  have f_b : seg word 7 6 = b.toNat := by simp only [seg]; omega
  have f_k : seg word 1 4 = k.toNat := by simp only [seg]; omega
  simp [decodeRaw, decode09, fld, hM, c0, c1, c2, f_d, f_w, f_a, f_b, f_k]

theorem scmpiCc (d : BitVec 6) (w : BitVec 1) (a : BitVec 6) (i : BitVec 6) (k : BitVec 4) : Statement (.scmpiCc d w a i k) := by
  have b_d : d.toNat < 64 := d.isLt
  have b_w : w.toNat < 2 := w.isLt
  have b_a : a.toNat < 64 := a.isLt
  have b_i : i.toNat < 64 := i.isLt
  have b_k : k.toNat < 16 := k.isLt
  apply of_nat rfl (by simp only [put]; omega)
  generalize hw : 0x24000040 + put 20 d + put 19 w + put 13 a + put 7 i + put 1 k = word
  simp only [put] at hw
  have hM : seg word 26 5 = 9 := by simp only [seg]; omega
  have c0 : seg word 0 1 = 0 := by simp only [seg]; omega
  have c1 : seg word 6 1 = 1 := by simp only [seg]; omega
  have c2 : seg word 5 1 = 0 := by simp only [seg]; omega
  have f_d : seg word 20 6 = d.toNat := by simp only [seg]; omega
  have f_w : seg word 19 1 = w.toNat := by simp only [seg]; omega
  have f_a : seg word 13 6 = a.toNat := by simp only [seg]; omega
  have f_i : seg word 7 6 = i.toNat := by simp only [seg]; omega
  have f_k : seg word 1 4 = k.toNat := by simp only [seg]; omega
  simp [decodeRaw, decode09, fld, hM, c0, c1, c2, f_d, f_w, f_a, f_i, f_k]

theorem ssel (d : BitVec 6) (w : BitVec 1) (a : BitVec 6) (b : BitVec 6) (e : BitVec 6) : Statement (.ssel d w a b e) := by
  have b_d : d.toNat < 64 := d.isLt
  have b_w : w.toNat < 2 := w.isLt
  have b_a : a.toNat < 64 := a.isLt
  have b_b : b.toNat < 64 := b.isLt
  have b_e : e.toNat < 64 := e.isLt
  apply of_nat rfl (by simp only [put]; omega)
  generalize hw : 0x24000001 + put 20 d + put 19 w + put 13 a + put 7 b + put 1 e = word
  simp only [put] at hw
  have hM : seg word 26 5 = 9 := by simp only [seg]; omega
  have c0 : seg word 0 1 = 1 := by simp only [seg]; omega
  have f_d : seg word 20 6 = d.toNat := by simp only [seg]; omega
  have f_w : seg word 19 1 = w.toNat := by simp only [seg]; omega
  have f_a : seg word 13 6 = a.toNat := by simp only [seg]; omega
  have f_b : seg word 7 6 = b.toNat := by simp only [seg]; omega
  have f_e : seg word 1 6 = e.toNat := by simp only [seg]; omega
  simp [decodeRaw, decode09, fld, hM, c0, f_d, f_w, f_a, f_b, f_e]

theorem vadd (d : BitVec 6) (w : BitVec 1) (a : BitVec 6) (b : BitVec 6) (t : BitVec 1) : Statement (.vadd d w a b t) := by
  have b_d : d.toNat < 64 := d.isLt
  have b_w : w.toNat < 2 := w.isLt
  have b_a : a.toNat < 64 := a.isLt
  have b_b : b.toNat < 64 := b.isLt
  have b_t : t.toNat < 2 := t.isLt
  apply of_nat rfl (by simp only [put]; omega)
  generalize hw : 0x30000000 + put 20 d + put 19 w + put 13 a + put 7 b + put 3 t = word
  simp only [put] at hw
  have hM : seg word 26 5 = 0xC := by simp only [seg]; omega
  have c0 : seg word 0 3 = 0 := by simp only [seg]; omega
  have c1 : seg word 4 3 = 0 := by simp only [seg]; omega
  have f_d : seg word 20 6 = d.toNat := by simp only [seg]; omega
  have f_w : seg word 19 1 = w.toNat := by simp only [seg]; omega
  have f_a : seg word 13 6 = a.toNat := by simp only [seg]; omega
  have f_b : seg word 7 6 = b.toNat := by simp only [seg]; omega
  have f_t : seg word 3 1 = t.toNat := by simp only [seg]; omega
  simp [decodeRaw, decode0C, fld, hM, c0, c1, f_d, f_w, f_a, f_b, f_t]

theorem vsub (d : BitVec 6) (w : BitVec 1) (a : BitVec 6) (b : BitVec 6) (t : BitVec 1) : Statement (.vsub d w a b t) := by
  have b_d : d.toNat < 64 := d.isLt
  have b_w : w.toNat < 2 := w.isLt
  have b_a : a.toNat < 64 := a.isLt
  have b_b : b.toNat < 64 := b.isLt
  have b_t : t.toNat < 2 := t.isLt
  apply of_nat rfl (by simp only [put]; omega)
  generalize hw : 0x30000001 + put 20 d + put 19 w + put 13 a + put 7 b + put 3 t = word
  simp only [put] at hw
  have hM : seg word 26 5 = 0xC := by simp only [seg]; omega
  have c0 : seg word 0 3 = 1 := by simp only [seg]; omega
  have c1 : seg word 4 3 = 0 := by simp only [seg]; omega
  have f_d : seg word 20 6 = d.toNat := by simp only [seg]; omega
  have f_w : seg word 19 1 = w.toNat := by simp only [seg]; omega
  have f_a : seg word 13 6 = a.toNat := by simp only [seg]; omega
  have f_b : seg word 7 6 = b.toNat := by simp only [seg]; omega
  have f_t : seg word 3 1 = t.toNat := by simp only [seg]; omega
  simp [decodeRaw, decode0C, fld, hM, c0, c1, f_d, f_w, f_a, f_b, f_t]

theorem vmul (d : BitVec 6) (w : BitVec 1) (a : BitVec 6) (b : BitVec 6) (t : BitVec 1) : Statement (.vmul d w a b t) := by
  have b_d : d.toNat < 64 := d.isLt
  have b_w : w.toNat < 2 := w.isLt
  have b_a : a.toNat < 64 := a.isLt
  have b_b : b.toNat < 64 := b.isLt
  have b_t : t.toNat < 2 := t.isLt
  apply of_nat rfl (by simp only [put]; omega)
  generalize hw : 0x30000002 + put 20 d + put 19 w + put 13 a + put 7 b + put 3 t = word
  simp only [put] at hw
  have hM : seg word 26 5 = 0xC := by simp only [seg]; omega
  have c0 : seg word 0 3 = 2 := by simp only [seg]; omega
  have c1 : seg word 4 3 = 0 := by simp only [seg]; omega
  have f_d : seg word 20 6 = d.toNat := by simp only [seg]; omega
  have f_w : seg word 19 1 = w.toNat := by simp only [seg]; omega
  have f_a : seg word 13 6 = a.toNat := by simp only [seg]; omega
  have f_b : seg word 7 6 = b.toNat := by simp only [seg]; omega
  have f_t : seg word 3 1 = t.toNat := by simp only [seg]; omega
  simp [decodeRaw, decode0C, fld, hM, c0, c1, f_d, f_w, f_a, f_b, f_t]

theorem vmin (d : BitVec 6) (w : BitVec 1) (a : BitVec 6) (b : BitVec 6) (t : BitVec 1) : Statement (.vmin d w a b t) := by
  have b_d : d.toNat < 64 := d.isLt
  have b_w : w.toNat < 2 := w.isLt
  have b_a : a.toNat < 64 := a.isLt
  have b_b : b.toNat < 64 := b.isLt
  have b_t : t.toNat < 2 := t.isLt
  apply of_nat rfl (by simp only [put]; omega)
  generalize hw : 0x30000003 + put 20 d + put 19 w + put 13 a + put 7 b + put 3 t = word
  simp only [put] at hw
  have hM : seg word 26 5 = 0xC := by simp only [seg]; omega
  have c0 : seg word 0 3 = 3 := by simp only [seg]; omega
  have c1 : seg word 4 3 = 0 := by simp only [seg]; omega
  have f_d : seg word 20 6 = d.toNat := by simp only [seg]; omega
  have f_w : seg word 19 1 = w.toNat := by simp only [seg]; omega
  have f_a : seg word 13 6 = a.toNat := by simp only [seg]; omega
  have f_b : seg word 7 6 = b.toNat := by simp only [seg]; omega
  have f_t : seg word 3 1 = t.toNat := by simp only [seg]; omega
  simp [decodeRaw, decode0C, fld, hM, c0, c1, f_d, f_w, f_a, f_b, f_t]

theorem vmax (d : BitVec 6) (w : BitVec 1) (a : BitVec 6) (b : BitVec 6) (t : BitVec 1) : Statement (.vmax d w a b t) := by
  have b_d : d.toNat < 64 := d.isLt
  have b_w : w.toNat < 2 := w.isLt
  have b_a : a.toNat < 64 := a.isLt
  have b_b : b.toNat < 64 := b.isLt
  have b_t : t.toNat < 2 := t.isLt
  apply of_nat rfl (by simp only [put]; omega)
  generalize hw : 0x30000004 + put 20 d + put 19 w + put 13 a + put 7 b + put 3 t = word
  simp only [put] at hw
  have hM : seg word 26 5 = 0xC := by simp only [seg]; omega
  have c0 : seg word 0 3 = 4 := by simp only [seg]; omega
  have c1 : seg word 4 3 = 0 := by simp only [seg]; omega
  have f_d : seg word 20 6 = d.toNat := by simp only [seg]; omega
  have f_w : seg word 19 1 = w.toNat := by simp only [seg]; omega
  have f_a : seg word 13 6 = a.toNat := by simp only [seg]; omega
  have f_b : seg word 7 6 = b.toNat := by simp only [seg]; omega
  have f_t : seg word 3 1 = t.toNat := by simp only [seg]; omega
  simp [decodeRaw, decode0C, fld, hM, c0, c1, f_d, f_w, f_a, f_b, f_t]

theorem vabs (d : BitVec 6) (w : BitVec 1) (a : BitVec 6) (t : BitVec 1) : Statement (.vabs d w a t) := by
  have b_d : d.toNat < 64 := d.isLt
  have b_w : w.toNat < 2 := w.isLt
  have b_a : a.toNat < 64 := a.isLt
  have b_t : t.toNat < 2 := t.isLt
  apply of_nat rfl (by simp only [put]; omega)
  generalize hw : 0x30000005 + put 20 d + put 19 w + put 13 a + put 3 t = word
  simp only [put] at hw
  have hM : seg word 26 5 = 0xC := by simp only [seg]; omega
  have c0 : seg word 0 3 = 5 := by simp only [seg]; omega
  have c1 : seg word 4 3 = 0 := by simp only [seg]; omega
  have c2 : seg word 7 6 = 0 := by simp only [seg]; omega
  have f_d : seg word 20 6 = d.toNat := by simp only [seg]; omega
  have f_w : seg word 19 1 = w.toNat := by simp only [seg]; omega
  have f_a : seg word 13 6 = a.toNat := by simp only [seg]; omega
  have f_t : seg word 3 1 = t.toNat := by simp only [seg]; omega
  simp [decodeRaw, decode0C, fld, hM, c0, c1, c2, f_d, f_w, f_a, f_t]

theorem vneg (d : BitVec 6) (w : BitVec 1) (a : BitVec 6) (t : BitVec 1) : Statement (.vneg d w a t) := by
  have b_d : d.toNat < 64 := d.isLt
  have b_w : w.toNat < 2 := w.isLt
  have b_a : a.toNat < 64 := a.isLt
  have b_t : t.toNat < 2 := t.isLt
  apply of_nat rfl (by simp only [put]; omega)
  generalize hw : 0x30000006 + put 20 d + put 19 w + put 13 a + put 3 t = word
  simp only [put] at hw
  have hM : seg word 26 5 = 0xC := by simp only [seg]; omega
  have c0 : seg word 0 3 = 6 := by simp only [seg]; omega
  have c1 : seg word 4 3 = 0 := by simp only [seg]; omega
  have c2 : seg word 7 6 = 0 := by simp only [seg]; omega
  have f_d : seg word 20 6 = d.toNat := by simp only [seg]; omega
  have f_w : seg word 19 1 = w.toNat := by simp only [seg]; omega
  have f_a : seg word 13 6 = a.toNat := by simp only [seg]; omega
  have f_t : seg word 3 1 = t.toNat := by simp only [seg]; omega
  simp [decodeRaw, decode0C, fld, hM, c0, c1, c2, f_d, f_w, f_a, f_t]

theorem viadd (d : BitVec 6) (w : BitVec 1) (a : BitVec 6) (b : BitVec 6) (s : BitVec 1) (t : BitVec 2) : Statement (.viadd d w a b s t) := by
  have b_d : d.toNat < 64 := d.isLt
  have b_w : w.toNat < 2 := w.isLt
  have b_a : a.toNat < 64 := a.isLt
  have b_b : b.toNat < 64 := b.isLt
  have b_s : s.toNat < 2 := s.isLt
  have b_t : t.toNat < 4 := t.isLt
  apply of_nat rfl (by simp only [put]; omega)
  generalize hw : 0x34000000 + put 20 d + put 19 w + put 13 a + put 7 b + put 6 s + put 4 t = word
  simp only [put] at hw
  have hM : seg word 26 5 = 0xD := by simp only [seg]; omega
  have c0 : seg word 0 4 = 0 := by simp only [seg]; omega
  have f_d : seg word 20 6 = d.toNat := by simp only [seg]; omega
  have f_w : seg word 19 1 = w.toNat := by simp only [seg]; omega
  have f_a : seg word 13 6 = a.toNat := by simp only [seg]; omega
  have f_b : seg word 7 6 = b.toNat := by simp only [seg]; omega
  have f_s : seg word 6 1 = s.toNat := by simp only [seg]; omega
  have f_t : seg word 4 2 = t.toNat := by simp only [seg]; omega
  simp [decodeRaw, decode0D, fld, hM, c0, f_d, f_w, f_a, f_b, f_s, f_t]

theorem visub (d : BitVec 6) (w : BitVec 1) (a : BitVec 6) (b : BitVec 6) (s : BitVec 1) (t : BitVec 2) : Statement (.visub d w a b s t) := by
  have b_d : d.toNat < 64 := d.isLt
  have b_w : w.toNat < 2 := w.isLt
  have b_a : a.toNat < 64 := a.isLt
  have b_b : b.toNat < 64 := b.isLt
  have b_s : s.toNat < 2 := s.isLt
  have b_t : t.toNat < 4 := t.isLt
  apply of_nat rfl (by simp only [put]; omega)
  generalize hw : 0x34000001 + put 20 d + put 19 w + put 13 a + put 7 b + put 6 s + put 4 t = word
  simp only [put] at hw
  have hM : seg word 26 5 = 0xD := by simp only [seg]; omega
  have c0 : seg word 0 4 = 1 := by simp only [seg]; omega
  have f_d : seg word 20 6 = d.toNat := by simp only [seg]; omega
  have f_w : seg word 19 1 = w.toNat := by simp only [seg]; omega
  have f_a : seg word 13 6 = a.toNat := by simp only [seg]; omega
  have f_b : seg word 7 6 = b.toNat := by simp only [seg]; omega
  have f_s : seg word 6 1 = s.toNat := by simp only [seg]; omega
  have f_t : seg word 4 2 = t.toNat := by simp only [seg]; omega
  simp [decodeRaw, decode0D, fld, hM, c0, f_d, f_w, f_a, f_b, f_s, f_t]

theorem vimul (d : BitVec 6) (w : BitVec 1) (a : BitVec 6) (b : BitVec 6) (s : BitVec 1) (t : BitVec 2) : Statement (.vimul d w a b s t) := by
  have b_d : d.toNat < 64 := d.isLt
  have b_w : w.toNat < 2 := w.isLt
  have b_a : a.toNat < 64 := a.isLt
  have b_b : b.toNat < 64 := b.isLt
  have b_s : s.toNat < 2 := s.isLt
  have b_t : t.toNat < 4 := t.isLt
  apply of_nat rfl (by simp only [put]; omega)
  generalize hw : 0x34000002 + put 20 d + put 19 w + put 13 a + put 7 b + put 6 s + put 4 t = word
  simp only [put] at hw
  have hM : seg word 26 5 = 0xD := by simp only [seg]; omega
  have c0 : seg word 0 4 = 2 := by simp only [seg]; omega
  have f_d : seg word 20 6 = d.toNat := by simp only [seg]; omega
  have f_w : seg word 19 1 = w.toNat := by simp only [seg]; omega
  have f_a : seg word 13 6 = a.toNat := by simp only [seg]; omega
  have f_b : seg word 7 6 = b.toNat := by simp only [seg]; omega
  have f_s : seg word 6 1 = s.toNat := by simp only [seg]; omega
  have f_t : seg word 4 2 = t.toNat := by simp only [seg]; omega
  simp [decodeRaw, decode0D, fld, hM, c0, f_d, f_w, f_a, f_b, f_s, f_t]

theorem vimin (d : BitVec 6) (w : BitVec 1) (a : BitVec 6) (b : BitVec 6) (t : BitVec 2) : Statement (.vimin d w a b t) := by
  have b_d : d.toNat < 64 := d.isLt
  have b_w : w.toNat < 2 := w.isLt
  have b_a : a.toNat < 64 := a.isLt
  have b_b : b.toNat < 64 := b.isLt
  have b_t : t.toNat < 4 := t.isLt
  apply of_nat rfl (by simp only [put]; omega)
  generalize hw : 0x34000003 + put 20 d + put 19 w + put 13 a + put 7 b + put 4 t = word
  simp only [put] at hw
  have hM : seg word 26 5 = 0xD := by simp only [seg]; omega
  have c0 : seg word 0 4 = 3 := by simp only [seg]; omega
  have c1 : seg word 6 1 = 0 := by simp only [seg]; omega
  have f_d : seg word 20 6 = d.toNat := by simp only [seg]; omega
  have f_w : seg word 19 1 = w.toNat := by simp only [seg]; omega
  have f_a : seg word 13 6 = a.toNat := by simp only [seg]; omega
  have f_b : seg word 7 6 = b.toNat := by simp only [seg]; omega
  have f_t : seg word 4 2 = t.toNat := by simp only [seg]; omega
  simp [decodeRaw, decode0D, fld, hM, c0, c1, f_d, f_w, f_a, f_b, f_t]

theorem vimax (d : BitVec 6) (w : BitVec 1) (a : BitVec 6) (b : BitVec 6) (t : BitVec 2) : Statement (.vimax d w a b t) := by
  have b_d : d.toNat < 64 := d.isLt
  have b_w : w.toNat < 2 := w.isLt
  have b_a : a.toNat < 64 := a.isLt
  have b_b : b.toNat < 64 := b.isLt
  have b_t : t.toNat < 4 := t.isLt
  apply of_nat rfl (by simp only [put]; omega)
  generalize hw : 0x34000004 + put 20 d + put 19 w + put 13 a + put 7 b + put 4 t = word
  simp only [put] at hw
  have hM : seg word 26 5 = 0xD := by simp only [seg]; omega
  have c0 : seg word 0 4 = 4 := by simp only [seg]; omega
  have c1 : seg word 6 1 = 0 := by simp only [seg]; omega
  have f_d : seg word 20 6 = d.toNat := by simp only [seg]; omega
  have f_w : seg word 19 1 = w.toNat := by simp only [seg]; omega
  have f_a : seg word 13 6 = a.toNat := by simp only [seg]; omega
  have f_b : seg word 7 6 = b.toNat := by simp only [seg]; omega
  have f_t : seg word 4 2 = t.toNat := by simp only [seg]; omega
  simp [decodeRaw, decode0D, fld, hM, c0, c1, f_d, f_w, f_a, f_b, f_t]

theorem vand (d : BitVec 6) (w : BitVec 1) (a : BitVec 6) (b : BitVec 6) : Statement (.vand d w a b) := by
  have b_d : d.toNat < 64 := d.isLt
  have b_w : w.toNat < 2 := w.isLt
  have b_a : a.toNat < 64 := a.isLt
  have b_b : b.toNat < 64 := b.isLt
  apply of_nat rfl (by simp only [put]; omega)
  generalize hw : 0x34000005 + put 20 d + put 19 w + put 13 a + put 7 b = word
  simp only [put] at hw
  have hM : seg word 26 5 = 0xD := by simp only [seg]; omega
  have c0 : seg word 0 4 = 5 := by simp only [seg]; omega
  have c1 : seg word 6 1 = 0 := by simp only [seg]; omega
  have c2 : seg word 4 2 = 0 := by simp only [seg]; omega
  have f_d : seg word 20 6 = d.toNat := by simp only [seg]; omega
  have f_w : seg word 19 1 = w.toNat := by simp only [seg]; omega
  have f_a : seg word 13 6 = a.toNat := by simp only [seg]; omega
  have f_b : seg word 7 6 = b.toNat := by simp only [seg]; omega
  simp [decodeRaw, decode0D, fld, hM, c0, c1, c2, f_d, f_w, f_a, f_b]

theorem vor (d : BitVec 6) (w : BitVec 1) (a : BitVec 6) (b : BitVec 6) : Statement (.vor d w a b) := by
  have b_d : d.toNat < 64 := d.isLt
  have b_w : w.toNat < 2 := w.isLt
  have b_a : a.toNat < 64 := a.isLt
  have b_b : b.toNat < 64 := b.isLt
  apply of_nat rfl (by simp only [put]; omega)
  generalize hw : 0x34000006 + put 20 d + put 19 w + put 13 a + put 7 b = word
  simp only [put] at hw
  have hM : seg word 26 5 = 0xD := by simp only [seg]; omega
  have c0 : seg word 0 4 = 6 := by simp only [seg]; omega
  have c1 : seg word 6 1 = 0 := by simp only [seg]; omega
  have c2 : seg word 4 2 = 0 := by simp only [seg]; omega
  have f_d : seg word 20 6 = d.toNat := by simp only [seg]; omega
  have f_w : seg word 19 1 = w.toNat := by simp only [seg]; omega
  have f_a : seg word 13 6 = a.toNat := by simp only [seg]; omega
  have f_b : seg word 7 6 = b.toNat := by simp only [seg]; omega
  simp [decodeRaw, decode0D, fld, hM, c0, c1, c2, f_d, f_w, f_a, f_b]

theorem vxor (d : BitVec 6) (w : BitVec 1) (a : BitVec 6) (b : BitVec 6) : Statement (.vxor d w a b) := by
  have b_d : d.toNat < 64 := d.isLt
  have b_w : w.toNat < 2 := w.isLt
  have b_a : a.toNat < 64 := a.isLt
  have b_b : b.toNat < 64 := b.isLt
  apply of_nat rfl (by simp only [put]; omega)
  generalize hw : 0x34000007 + put 20 d + put 19 w + put 13 a + put 7 b = word
  simp only [put] at hw
  have hM : seg word 26 5 = 0xD := by simp only [seg]; omega
  have c0 : seg word 0 4 = 7 := by simp only [seg]; omega
  have c1 : seg word 6 1 = 0 := by simp only [seg]; omega
  have c2 : seg word 4 2 = 0 := by simp only [seg]; omega
  have f_d : seg word 20 6 = d.toNat := by simp only [seg]; omega
  have f_w : seg word 19 1 = w.toNat := by simp only [seg]; omega
  have f_a : seg word 13 6 = a.toNat := by simp only [seg]; omega
  have f_b : seg word 7 6 = b.toNat := by simp only [seg]; omega
  simp [decodeRaw, decode0D, fld, hM, c0, c1, c2, f_d, f_w, f_a, f_b]

theorem vshl (d : BitVec 6) (w : BitVec 1) (a : BitVec 6) (b : BitVec 6) (t : BitVec 2) : Statement (.vshl d w a b t) := by
  have b_d : d.toNat < 64 := d.isLt
  have b_w : w.toNat < 2 := w.isLt
  have b_a : a.toNat < 64 := a.isLt
  have b_b : b.toNat < 64 := b.isLt
  have b_t : t.toNat < 4 := t.isLt
  apply of_nat rfl (by simp only [put]; omega)
  generalize hw : 0x34000008 + put 20 d + put 19 w + put 13 a + put 7 b + put 4 t = word
  simp only [put] at hw
  have hM : seg word 26 5 = 0xD := by simp only [seg]; omega
  have c0 : seg word 0 4 = 8 := by simp only [seg]; omega
  have c1 : seg word 6 1 = 0 := by simp only [seg]; omega
  have f_d : seg word 20 6 = d.toNat := by simp only [seg]; omega
  have f_w : seg word 19 1 = w.toNat := by simp only [seg]; omega
  have f_a : seg word 13 6 = a.toNat := by simp only [seg]; omega
  have f_b : seg word 7 6 = b.toNat := by simp only [seg]; omega
  have f_t : seg word 4 2 = t.toNat := by simp only [seg]; omega
  simp [decodeRaw, decode0D, fld, hM, c0, c1, f_d, f_w, f_a, f_b, f_t]

theorem vshr (d : BitVec 6) (w : BitVec 1) (a : BitVec 6) (b : BitVec 6) (t : BitVec 2) : Statement (.vshr d w a b t) := by
  have b_d : d.toNat < 64 := d.isLt
  have b_w : w.toNat < 2 := w.isLt
  have b_a : a.toNat < 64 := a.isLt
  have b_b : b.toNat < 64 := b.isLt
  have b_t : t.toNat < 4 := t.isLt
  apply of_nat rfl (by simp only [put]; omega)
  generalize hw : 0x34000009 + put 20 d + put 19 w + put 13 a + put 7 b + put 4 t = word
  simp only [put] at hw
  have hM : seg word 26 5 = 0xD := by simp only [seg]; omega
  have c0 : seg word 0 4 = 9 := by simp only [seg]; omega
  have c1 : seg word 6 1 = 0 := by simp only [seg]; omega
  have f_d : seg word 20 6 = d.toNat := by simp only [seg]; omega
  have f_w : seg word 19 1 = w.toNat := by simp only [seg]; omega
  have f_a : seg word 13 6 = a.toNat := by simp only [seg]; omega
  have f_b : seg word 7 6 = b.toNat := by simp only [seg]; omega
  have f_t : seg word 4 2 = t.toNat := by simp only [seg]; omega
  simp [decodeRaw, decode0D, fld, hM, c0, c1, f_d, f_w, f_a, f_b, f_t]

theorem vsra (d : BitVec 6) (w : BitVec 1) (a : BitVec 6) (b : BitVec 6) (t : BitVec 2) : Statement (.vsra d w a b t) := by
  have b_d : d.toNat < 64 := d.isLt
  have b_w : w.toNat < 2 := w.isLt
  have b_a : a.toNat < 64 := a.isLt
  have b_b : b.toNat < 64 := b.isLt
  have b_t : t.toNat < 4 := t.isLt
  apply of_nat rfl (by simp only [put]; omega)
  generalize hw : 0x3400000A + put 20 d + put 19 w + put 13 a + put 7 b + put 4 t = word
  simp only [put] at hw
  have hM : seg word 26 5 = 0xD := by simp only [seg]; omega
  have c0 : seg word 0 4 = 0xA := by simp only [seg]; omega
  have c1 : seg word 6 1 = 0 := by simp only [seg]; omega
  have f_d : seg word 20 6 = d.toNat := by simp only [seg]; omega
  have f_w : seg word 19 1 = w.toNat := by simp only [seg]; omega
  have f_a : seg word 13 6 = a.toNat := by simp only [seg]; omega
  have f_b : seg word 7 6 = b.toNat := by simp only [seg]; omega
  have f_t : seg word 4 2 = t.toNat := by simp only [seg]; omega
  simp [decodeRaw, decode0D, fld, hM, c0, c1, f_d, f_w, f_a, f_b, f_t]

theorem vfma (d : BitVec 6) (w : BitVec 1) (a : BitVec 6) (b : BitVec 6) (t : BitVec 1) : Statement (.vfma d w a b t) := by
  have b_d : d.toNat < 64 := d.isLt
  have b_w : w.toNat < 2 := w.isLt
  have b_a : a.toNat < 64 := a.isLt
  have b_b : b.toNat < 64 := b.isLt
  have b_t : t.toNat < 2 := t.isLt
  apply of_nat rfl (by simp only [put]; omega)
  generalize hw : 0x38000000 + put 20 d + put 19 w + put 13 a + put 7 b + put 3 t = word
  simp only [put] at hw
  have hM : seg word 26 5 = 0xE := by simp only [seg]; omega
  have c0 : seg word 0 3 = 0 := by simp only [seg]; omega
  have c1 : seg word 4 3 = 0 := by simp only [seg]; omega
  have f_d : seg word 20 6 = d.toNat := by simp only [seg]; omega
  have f_w : seg word 19 1 = w.toNat := by simp only [seg]; omega
  have f_a : seg word 13 6 = a.toNat := by simp only [seg]; omega
  have f_b : seg word 7 6 = b.toNat := by simp only [seg]; omega
  have f_t : seg word 3 1 = t.toNat := by simp only [seg]; omega
  simp [decodeRaw, decode0E, fld, hM, c0, c1, f_d, f_w, f_a, f_b, f_t]

theorem vfms (d : BitVec 6) (w : BitVec 1) (a : BitVec 6) (b : BitVec 6) (t : BitVec 1) : Statement (.vfms d w a b t) := by
  have b_d : d.toNat < 64 := d.isLt
  have b_w : w.toNat < 2 := w.isLt
  have b_a : a.toNat < 64 := a.isLt
  have b_b : b.toNat < 64 := b.isLt
  have b_t : t.toNat < 2 := t.isLt
  apply of_nat rfl (by simp only [put]; omega)
  generalize hw : 0x38000001 + put 20 d + put 19 w + put 13 a + put 7 b + put 3 t = word
  simp only [put] at hw
  have hM : seg word 26 5 = 0xE := by simp only [seg]; omega
  have c0 : seg word 0 3 = 1 := by simp only [seg]; omega
  have c1 : seg word 4 3 = 0 := by simp only [seg]; omega
  have f_d : seg word 20 6 = d.toNat := by simp only [seg]; omega
  have f_w : seg word 19 1 = w.toNat := by simp only [seg]; omega
  have f_a : seg word 13 6 = a.toNat := by simp only [seg]; omega
  have f_b : seg word 7 6 = b.toNat := by simp only [seg]; omega
  have f_t : seg word 3 1 = t.toNat := by simp only [seg]; omega
  simp [decodeRaw, decode0E, fld, hM, c0, c1, f_d, f_w, f_a, f_b, f_t]

theorem vcvt (d : BitVec 6) (w : BitVec 1) (a : BitVec 6) (r : BitVec 3) (x : BitVec 1) (f : BitVec 1) (t : BitVec 5) : Statement (.vcvt d w a r x f t) := by
  have b_d : d.toNat < 64 := d.isLt
  have b_w : w.toNat < 2 := w.isLt
  have b_a : a.toNat < 64 := a.isLt
  have b_r : r.toNat < 8 := r.isLt
  have b_x : x.toNat < 2 := x.isLt
  have b_f : f.toNat < 2 := f.isLt
  have b_t : t.toNat < 32 := t.isLt
  apply of_nat rfl (by simp only [put]; omega)
  generalize hw : 0x3C000000 + put 20 d + put 19 w + put 13 a + put 10 r + put 9 x + put 8 f + put 3 t = word
  simp only [put] at hw
  have hM : seg word 26 5 = 0xF := by simp only [seg]; omega
  have c0 : seg word 0 3 = 0 := by simp only [seg]; omega
  have f_d : seg word 20 6 = d.toNat := by simp only [seg]; omega
  have f_w : seg word 19 1 = w.toNat := by simp only [seg]; omega
  have f_a : seg word 13 6 = a.toNat := by simp only [seg]; omega
  have f_r : seg word 10 3 = r.toNat := by simp only [seg]; omega
  have f_x : seg word 9 1 = x.toNat := by simp only [seg]; omega
  have f_f : seg word 8 1 = f.toNat := by simp only [seg]; omega
  have f_t : seg word 3 5 = t.toNat := by simp only [seg]; omega
  simp [decodeRaw, decode0F, fld, hM, c0, f_d, f_w, f_a, f_r, f_x, f_f, f_t]

theorem vexp2 (d : BitVec 6) (w : BitVec 1) (a : BitVec 6) : Statement (.vexp2 d w a) := by
  have b_d : d.toNat < 64 := d.isLt
  have b_w : w.toNat < 2 := w.isLt
  have b_a : a.toNat < 64 := a.isLt
  apply of_nat rfl (by simp only [put]; omega)
  generalize hw : 0x40000000 + put 20 d + put 19 w + put 13 a = word
  simp only [put] at hw
  have hM : seg word 26 5 = 0x10 := by simp only [seg]; omega
  have c0 : seg word 0 7 = 0 := by simp only [seg]; omega
  have c1 : seg word 7 6 = 0 := by simp only [seg]; omega
  have f_d : seg word 20 6 = d.toNat := by simp only [seg]; omega
  have f_w : seg word 19 1 = w.toNat := by simp only [seg]; omega
  have f_a : seg word 13 6 = a.toNat := by simp only [seg]; omega
  simp [decodeRaw, decode10, fld, hM, c0, c1, f_d, f_w, f_a]

theorem vlog2 (d : BitVec 6) (w : BitVec 1) (a : BitVec 6) : Statement (.vlog2 d w a) := by
  have b_d : d.toNat < 64 := d.isLt
  have b_w : w.toNat < 2 := w.isLt
  have b_a : a.toNat < 64 := a.isLt
  apply of_nat rfl (by simp only [put]; omega)
  generalize hw : 0x40000001 + put 20 d + put 19 w + put 13 a = word
  simp only [put] at hw
  have hM : seg word 26 5 = 0x10 := by simp only [seg]; omega
  have c0 : seg word 0 7 = 1 := by simp only [seg]; omega
  have c1 : seg word 7 6 = 0 := by simp only [seg]; omega
  have f_d : seg word 20 6 = d.toNat := by simp only [seg]; omega
  have f_w : seg word 19 1 = w.toNat := by simp only [seg]; omega
  have f_a : seg word 13 6 = a.toNat := by simp only [seg]; omega
  simp [decodeRaw, decode10, fld, hM, c0, c1, f_d, f_w, f_a]

theorem vrcp (d : BitVec 6) (w : BitVec 1) (a : BitVec 6) : Statement (.vrcp d w a) := by
  have b_d : d.toNat < 64 := d.isLt
  have b_w : w.toNat < 2 := w.isLt
  have b_a : a.toNat < 64 := a.isLt
  apply of_nat rfl (by simp only [put]; omega)
  generalize hw : 0x40000002 + put 20 d + put 19 w + put 13 a = word
  simp only [put] at hw
  have hM : seg word 26 5 = 0x10 := by simp only [seg]; omega
  have c0 : seg word 0 7 = 2 := by simp only [seg]; omega
  have c1 : seg word 7 6 = 0 := by simp only [seg]; omega
  have f_d : seg word 20 6 = d.toNat := by simp only [seg]; omega
  have f_w : seg word 19 1 = w.toNat := by simp only [seg]; omega
  have f_a : seg word 13 6 = a.toNat := by simp only [seg]; omega
  simp [decodeRaw, decode10, fld, hM, c0, c1, f_d, f_w, f_a]

theorem vrsq (d : BitVec 6) (w : BitVec 1) (a : BitVec 6) : Statement (.vrsq d w a) := by
  have b_d : d.toNat < 64 := d.isLt
  have b_w : w.toNat < 2 := w.isLt
  have b_a : a.toNat < 64 := a.isLt
  apply of_nat rfl (by simp only [put]; omega)
  generalize hw : 0x40000003 + put 20 d + put 19 w + put 13 a = word
  simp only [put] at hw
  have hM : seg word 26 5 = 0x10 := by simp only [seg]; omega
  have c0 : seg word 0 7 = 3 := by simp only [seg]; omega
  have c1 : seg word 7 6 = 0 := by simp only [seg]; omega
  have f_d : seg word 20 6 = d.toNat := by simp only [seg]; omega
  have f_w : seg word 19 1 = w.toNat := by simp only [seg]; omega
  have f_a : seg word 13 6 = a.toNat := by simp only [seg]; omega
  simp [decodeRaw, decode10, fld, hM, c0, c1, f_d, f_w, f_a]

theorem vhash (d : BitVec 6) (w : BitVec 1) (a : BitVec 6) (b : BitVec 6) : Statement (.vhash d w a b) := by
  have b_d : d.toNat < 64 := d.isLt
  have b_w : w.toNat < 2 := w.isLt
  have b_a : a.toNat < 64 := a.isLt
  have b_b : b.toNat < 64 := b.isLt
  apply of_nat rfl (by simp only [put]; omega)
  generalize hw : 0x40000004 + put 20 d + put 19 w + put 13 a + put 7 b = word
  simp only [put] at hw
  have hM : seg word 26 5 = 0x10 := by simp only [seg]; omega
  have c0 : seg word 0 7 = 4 := by simp only [seg]; omega
  have f_d : seg word 20 6 = d.toNat := by simp only [seg]; omega
  have f_w : seg word 19 1 = w.toNat := by simp only [seg]; omega
  have f_a : seg word 13 6 = a.toNat := by simp only [seg]; omega
  have f_b : seg word 7 6 = b.toNat := by simp only [seg]; omega
  simp [decodeRaw, decode10, fld, hM, c0, f_d, f_w, f_a, f_b]

theorem vdot4 (d : BitVec 6) (w : BitVec 1) (a : BitVec 6) (b : BitVec 6) (u : BitVec 1) (f : BitVec 1) (p : BitVec 3) : Statement (.vdot4 d w a b u f p) := by
  have b_d : d.toNat < 64 := d.isLt
  have b_w : w.toNat < 2 := w.isLt
  have b_a : a.toNat < 64 := a.isLt
  have b_b : b.toNat < 64 := b.isLt
  have b_u : u.toNat < 2 := u.isLt
  have b_f : f.toNat < 2 := f.isLt
  have b_p : p.toNat < 8 := p.isLt
  apply of_nat rfl (by simp only [put]; omega)
  generalize hw : 0x44000000 + put 20 d + put 19 w + put 13 a + put 7 b + put 6 u + put 5 f + put 2 p = word
  simp only [put] at hw
  have hM : seg word 26 5 = 0x11 := by simp only [seg]; omega
  have c0 : seg word 0 2 = 0 := by simp only [seg]; omega
  have f_d : seg word 20 6 = d.toNat := by simp only [seg]; omega
  have f_w : seg word 19 1 = w.toNat := by simp only [seg]; omega
  have f_a : seg word 13 6 = a.toNat := by simp only [seg]; omega
  have f_b : seg word 7 6 = b.toNat := by simp only [seg]; omega
  have f_u : seg word 6 1 = u.toNat := by simp only [seg]; omega
  have f_f : seg word 5 1 = f.toNat := by simp only [seg]; omega
  have f_p : seg word 2 3 = p.toNat := by simp only [seg]; omega
  simp [decodeRaw, decode11, fld, hM, c0, f_d, f_w, f_a, f_b, f_u, f_f, f_p]

theorem vdot2 (d : BitVec 6) (w : BitVec 1) (a : BitVec 6) (b : BitVec 6) : Statement (.vdot2 d w a b) := by
  have b_d : d.toNat < 64 := d.isLt
  have b_w : w.toNat < 2 := w.isLt
  have b_a : a.toNat < 64 := a.isLt
  have b_b : b.toNat < 64 := b.isLt
  apply of_nat rfl (by simp only [put]; omega)
  generalize hw : 0x44000001 + put 20 d + put 19 w + put 13 a + put 7 b = word
  simp only [put] at hw
  have hM : seg word 26 5 = 0x11 := by simp only [seg]; omega
  have c0 : seg word 0 2 = 1 := by simp only [seg]; omega
  have c1 : seg word 2 5 = 0 := by simp only [seg]; omega
  have f_d : seg word 20 6 = d.toNat := by simp only [seg]; omega
  have f_w : seg word 19 1 = w.toNat := by simp only [seg]; omega
  have f_a : seg word 13 6 = a.toNat := by simp only [seg]; omega
  have f_b : seg word 7 6 = b.toNat := by simp only [seg]; omega
  simp [decodeRaw, decode11, fld, hM, c0, c1, f_d, f_w, f_a, f_b]

theorem vbcast (d : BitVec 6) (w : BitVec 1) (a : BitVec 6) : Statement (.vbcast d w a) := by
  have b_d : d.toNat < 64 := d.isLt
  have b_w : w.toNat < 2 := w.isLt
  have b_a : a.toNat < 64 := a.isLt
  apply of_nat rfl (by simp only [put]; omega)
  generalize hw : 0x48000000 + put 20 d + put 19 w + put 13 a = word
  simp only [put] at hw
  have hM : seg word 26 5 = 0x12 := by simp only [seg]; omega
  have c0 : seg word 0 7 = 0 := by simp only [seg]; omega
  have c1 : seg word 7 6 = 0 := by simp only [seg]; omega
  have f_d : seg word 20 6 = d.toNat := by simp only [seg]; omega
  have f_w : seg word 19 1 = w.toNat := by simp only [seg]; omega
  have f_a : seg word 13 6 = a.toNat := by simp only [seg]; omega
  simp [decodeRaw, decode12, fld, hM, c0, c1, f_d, f_w, f_a]

theorem vlane (d : BitVec 6) (w : BitVec 1) (a : BitVec 6) (b : BitVec 6) : Statement (.vlane d w a b) := by
  have b_d : d.toNat < 64 := d.isLt
  have b_w : w.toNat < 2 := w.isLt
  have b_a : a.toNat < 64 := a.isLt
  have b_b : b.toNat < 64 := b.isLt
  apply of_nat rfl (by simp only [put]; omega)
  generalize hw : 0x48000001 + put 20 d + put 19 w + put 13 a + put 7 b = word
  simp only [put] at hw
  have hM : seg word 26 5 = 0x12 := by simp only [seg]; omega
  have c0 : seg word 0 7 = 1 := by simp only [seg]; omega
  have f_d : seg word 20 6 = d.toNat := by simp only [seg]; omega
  have f_w : seg word 19 1 = w.toNat := by simp only [seg]; omega
  have f_a : seg word 13 6 = a.toNat := by simp only [seg]; omega
  have f_b : seg word 7 6 = b.toNat := by simp only [seg]; omega
  simp [decodeRaw, decode12, fld, hM, c0, f_d, f_w, f_a, f_b]

theorem vperm (d : BitVec 6) (w : BitVec 1) (a : BitVec 6) (b : BitVec 6) : Statement (.vperm d w a b) := by
  have b_d : d.toNat < 64 := d.isLt
  have b_w : w.toNat < 2 := w.isLt
  have b_a : a.toNat < 64 := a.isLt
  have b_b : b.toNat < 64 := b.isLt
  apply of_nat rfl (by simp only [put]; omega)
  generalize hw : 0x48000002 + put 20 d + put 19 w + put 13 a + put 7 b = word
  simp only [put] at hw
  have hM : seg word 26 5 = 0x12 := by simp only [seg]; omega
  have c0 : seg word 0 7 = 2 := by simp only [seg]; omega
  have f_d : seg word 20 6 = d.toNat := by simp only [seg]; omega
  have f_w : seg word 19 1 = w.toNat := by simp only [seg]; omega
  have f_a : seg word 13 6 = a.toNat := by simp only [seg]; omega
  have f_b : seg word 7 6 = b.toNat := by simp only [seg]; omega
  simp [decodeRaw, decode12, fld, hM, c0, f_d, f_w, f_a, f_b]

theorem xcopy (d : BitVec 6) (w : BitVec 1) (a : BitVec 6) (n : BitVec 3) : Statement (.xcopy d w a n) := by
  have b_d : d.toNat < 64 := d.isLt
  have b_w : w.toNat < 2 := w.isLt
  have b_a : a.toNat < 64 := a.isLt
  have b_n : n.toNat < 8 := n.isLt
  apply of_nat rfl (by simp only [put]; omega)
  generalize hw : 0x48000003 + put 20 d + put 19 w + put 13 a + put 7 n = word
  simp only [put] at hw
  have hM : seg word 26 5 = 0x12 := by simp only [seg]; omega
  have c0 : seg word 0 7 = 3 := by simp only [seg]; omega
  have c1 : seg word 10 3 = 0 := by simp only [seg]; omega
  have f_d : seg word 20 6 = d.toNat := by simp only [seg]; omega
  have f_w : seg word 19 1 = w.toNat := by simp only [seg]; omega
  have f_a : seg word 13 6 = a.toNat := by simp only [seg]; omega
  have f_n : seg word 7 3 = n.toNat := by simp only [seg]; omega
  simp [decodeRaw, decode12, fld, hM, c0, c1, f_d, f_w, f_a, f_n]

theorem vredAddF32 (d : BitVec 6) (w : BitVec 1) (a : BitVec 6) : Statement (.vredAddF32 d w a) := by
  have b_d : d.toNat < 64 := d.isLt
  have b_w : w.toNat < 2 := w.isLt
  have b_a : a.toNat < 64 := a.isLt
  apply of_nat rfl (by simp only [put]; omega)
  generalize hw : 0x48000008 + put 20 d + put 19 w + put 13 a = word
  simp only [put] at hw
  have hM : seg word 26 5 = 0x12 := by simp only [seg]; omega
  have c0 : seg word 0 7 = 8 := by simp only [seg]; omega
  have c1 : seg word 7 6 = 0 := by simp only [seg]; omega
  have c2 : seg word 10 3 = 0 := by simp only [seg]; omega
  have f_d : seg word 20 6 = d.toNat := by simp only [seg]; omega
  have f_w : seg word 19 1 = w.toNat := by simp only [seg]; omega
  have f_a : seg word 13 6 = a.toNat := by simp only [seg]; omega
  simp [decodeRaw, decode12, fld, hM, c0, c1, c2, f_d, f_w, f_a]

theorem vredMinF32 (d : BitVec 6) (w : BitVec 1) (a : BitVec 6) : Statement (.vredMinF32 d w a) := by
  have b_d : d.toNat < 64 := d.isLt
  have b_w : w.toNat < 2 := w.isLt
  have b_a : a.toNat < 64 := a.isLt
  apply of_nat rfl (by simp only [put]; omega)
  generalize hw : 0x48000009 + put 20 d + put 19 w + put 13 a = word
  simp only [put] at hw
  have hM : seg word 26 5 = 0x12 := by simp only [seg]; omega
  have c0 : seg word 0 7 = 9 := by simp only [seg]; omega
  have c1 : seg word 7 6 = 0 := by simp only [seg]; omega
  have c2 : seg word 10 3 = 0 := by simp only [seg]; omega
  have f_d : seg word 20 6 = d.toNat := by simp only [seg]; omega
  have f_w : seg word 19 1 = w.toNat := by simp only [seg]; omega
  have f_a : seg word 13 6 = a.toNat := by simp only [seg]; omega
  simp [decodeRaw, decode12, fld, hM, c0, c1, c2, f_d, f_w, f_a]

theorem vredMaxF32 (d : BitVec 6) (w : BitVec 1) (a : BitVec 6) : Statement (.vredMaxF32 d w a) := by
  have b_d : d.toNat < 64 := d.isLt
  have b_w : w.toNat < 2 := w.isLt
  have b_a : a.toNat < 64 := a.isLt
  apply of_nat rfl (by simp only [put]; omega)
  generalize hw : 0x4800000A + put 20 d + put 19 w + put 13 a = word
  simp only [put] at hw
  have hM : seg word 26 5 = 0x12 := by simp only [seg]; omega
  have c0 : seg word 0 7 = 0xA := by simp only [seg]; omega
  have c1 : seg word 7 6 = 0 := by simp only [seg]; omega
  have c2 : seg word 10 3 = 0 := by simp only [seg]; omega
  have f_d : seg word 20 6 = d.toNat := by simp only [seg]; omega
  have f_w : seg word 19 1 = w.toNat := by simp only [seg]; omega
  have f_a : seg word 13 6 = a.toNat := by simp only [seg]; omega
  simp [decodeRaw, decode12, fld, hM, c0, c1, c2, f_d, f_w, f_a]

theorem vredAddI32 (d : BitVec 6) (w : BitVec 1) (a : BitVec 6) : Statement (.vredAddI32 d w a) := by
  have b_d : d.toNat < 64 := d.isLt
  have b_w : w.toNat < 2 := w.isLt
  have b_a : a.toNat < 64 := a.isLt
  apply of_nat rfl (by simp only [put]; omega)
  generalize hw : 0x4800000B + put 20 d + put 19 w + put 13 a = word
  simp only [put] at hw
  have hM : seg word 26 5 = 0x12 := by simp only [seg]; omega
  have c0 : seg word 0 7 = 0xB := by simp only [seg]; omega
  have c1 : seg word 7 6 = 0 := by simp only [seg]; omega
  have c2 : seg word 10 3 = 0 := by simp only [seg]; omega
  have f_d : seg word 20 6 = d.toNat := by simp only [seg]; omega
  have f_w : seg word 19 1 = w.toNat := by simp only [seg]; omega
  have f_a : seg word 13 6 = a.toNat := by simp only [seg]; omega
  simp [decodeRaw, decode12, fld, hM, c0, c1, c2, f_d, f_w, f_a]

theorem vredMinI32 (d : BitVec 6) (w : BitVec 1) (a : BitVec 6) : Statement (.vredMinI32 d w a) := by
  have b_d : d.toNat < 64 := d.isLt
  have b_w : w.toNat < 2 := w.isLt
  have b_a : a.toNat < 64 := a.isLt
  apply of_nat rfl (by simp only [put]; omega)
  generalize hw : 0x4800000C + put 20 d + put 19 w + put 13 a = word
  simp only [put] at hw
  have hM : seg word 26 5 = 0x12 := by simp only [seg]; omega
  have c0 : seg word 0 7 = 0xC := by simp only [seg]; omega
  have c1 : seg word 7 6 = 0 := by simp only [seg]; omega
  have c2 : seg word 10 3 = 0 := by simp only [seg]; omega
  have f_d : seg word 20 6 = d.toNat := by simp only [seg]; omega
  have f_w : seg word 19 1 = w.toNat := by simp only [seg]; omega
  have f_a : seg word 13 6 = a.toNat := by simp only [seg]; omega
  simp [decodeRaw, decode12, fld, hM, c0, c1, c2, f_d, f_w, f_a]

theorem vredMaxI32 (d : BitVec 6) (w : BitVec 1) (a : BitVec 6) : Statement (.vredMaxI32 d w a) := by
  have b_d : d.toNat < 64 := d.isLt
  have b_w : w.toNat < 2 := w.isLt
  have b_a : a.toNat < 64 := a.isLt
  apply of_nat rfl (by simp only [put]; omega)
  generalize hw : 0x4800000D + put 20 d + put 19 w + put 13 a = word
  simp only [put] at hw
  have hM : seg word 26 5 = 0x12 := by simp only [seg]; omega
  have c0 : seg word 0 7 = 0xD := by simp only [seg]; omega
  have c1 : seg word 7 6 = 0 := by simp only [seg]; omega
  have c2 : seg word 10 3 = 0 := by simp only [seg]; omega
  have f_d : seg word 20 6 = d.toNat := by simp only [seg]; omega
  have f_w : seg word 19 1 = w.toNat := by simp only [seg]; omega
  have f_a : seg word 13 6 = a.toNat := by simp only [seg]; omega
  simp [decodeRaw, decode12, fld, hM, c0, c1, c2, f_d, f_w, f_a]

theorem vld (d : BitVec 6) (w : BitVec 1) (a : BitVec 6) (i : BitVec 6) (k : BitVec 3) : Statement (.vld d w a i k) := by
  have b_d : d.toNat < 64 := d.isLt
  have b_w : w.toNat < 2 := w.isLt
  have b_a : a.toNat < 64 := a.isLt
  have b_i : i.toNat < 64 := i.isLt
  have b_k : k.toNat < 8 := k.isLt
  apply of_nat rfl (by simp only [put]; omega)
  generalize hw : 0x4C000000 + put 20 d + put 19 w + put 13 a + put 7 i + put 4 k = word
  simp only [put] at hw
  have hM : seg word 26 5 = 0x13 := by simp only [seg]; omega
  have c0 : seg word 0 4 = 0 := by simp only [seg]; omega
  have f_d : seg word 20 6 = d.toNat := by simp only [seg]; omega
  have f_w : seg word 19 1 = w.toNat := by simp only [seg]; omega
  have f_a : seg word 13 6 = a.toNat := by simp only [seg]; omega
  have f_i : seg word 7 6 = i.toNat := by simp only [seg]; omega
  have f_k : seg word 4 3 = k.toNat := by simp only [seg]; omega
  simp [decodeRaw, decode13, fld, hM, c0, f_d, f_w, f_a, f_i, f_k]

theorem vst (d : BitVec 6) (a : BitVec 6) (i : BitVec 6) (k : BitVec 3) : Statement (.vst d a i k) := by
  have b_d : d.toNat < 64 := d.isLt
  have b_a : a.toNat < 64 := a.isLt
  have b_i : i.toNat < 64 := i.isLt
  have b_k : k.toNat < 8 := k.isLt
  apply of_nat rfl (by simp only [put]; omega)
  generalize hw : 0x4C000001 + put 20 d + put 13 a + put 7 i + put 4 k = word
  simp only [put] at hw
  have hM : seg word 26 5 = 0x13 := by simp only [seg]; omega
  have c0 : seg word 0 4 = 1 := by simp only [seg]; omega
  have c1 : seg word 19 1 = 0 := by simp only [seg]; omega
  have f_d : seg word 20 6 = d.toNat := by simp only [seg]; omega
  have f_a : seg word 13 6 = a.toNat := by simp only [seg]; omega
  have f_i : seg word 7 6 = i.toNat := by simp only [seg]; omega
  have f_k : seg word 4 3 = k.toNat := by simp only [seg]; omega
  simp [decodeRaw, decode13, fld, hM, c0, c1, f_d, f_a, f_i, f_k]

theorem vgath (d : BitVec 6) (w : BitVec 1) (a : BitVec 6) (b : BitVec 6) (k : BitVec 3) : Statement (.vgath d w a b k) := by
  have b_d : d.toNat < 64 := d.isLt
  have b_w : w.toNat < 2 := w.isLt
  have b_a : a.toNat < 64 := a.isLt
  have b_b : b.toNat < 64 := b.isLt
  have b_k : k.toNat < 8 := k.isLt
  apply of_nat rfl (by simp only [put]; omega)
  generalize hw : 0x4C000002 + put 20 d + put 19 w + put 13 a + put 7 b + put 4 k = word
  simp only [put] at hw
  have hM : seg word 26 5 = 0x13 := by simp only [seg]; omega
  have c0 : seg word 0 4 = 2 := by simp only [seg]; omega
  have f_d : seg word 20 6 = d.toNat := by simp only [seg]; omega
  have f_w : seg word 19 1 = w.toNat := by simp only [seg]; omega
  have f_a : seg word 13 6 = a.toNat := by simp only [seg]; omega
  have f_b : seg word 7 6 = b.toNat := by simp only [seg]; omega
  have f_k : seg word 4 3 = k.toNat := by simp only [seg]; omega
  simp [decodeRaw, decode13, fld, hM, c0, f_d, f_w, f_a, f_b, f_k]

theorem vscat (d : BitVec 6) (a : BitVec 6) (b : BitVec 6) (k : BitVec 3) : Statement (.vscat d a b k) := by
  have b_d : d.toNat < 64 := d.isLt
  have b_a : a.toNat < 64 := a.isLt
  have b_b : b.toNat < 64 := b.isLt
  have b_k : k.toNat < 8 := k.isLt
  apply of_nat rfl (by simp only [put]; omega)
  generalize hw : 0x4C000003 + put 20 d + put 13 a + put 7 b + put 4 k = word
  simp only [put] at hw
  have hM : seg word 26 5 = 0x13 := by simp only [seg]; omega
  have c0 : seg word 0 4 = 3 := by simp only [seg]; omega
  have c1 : seg word 19 1 = 0 := by simp only [seg]; omega
  have f_d : seg word 20 6 = d.toNat := by simp only [seg]; omega
  have f_a : seg word 13 6 = a.toNat := by simp only [seg]; omega
  have f_b : seg word 7 6 = b.toNat := by simp only [seg]; omega
  have f_k : seg word 4 3 = k.toNat := by simp only [seg]; omega
  simp [decodeRaw, decode13, fld, hM, c0, c1, f_d, f_a, f_b, f_k]

theorem vpushcCfg (q : BitVec 6) (a : BitVec 6) : Statement (.vpushcCfg q a) := by
  have b_q : q.toNat < 64 := q.isLt
  have b_a : a.toNat < 64 := a.isLt
  apply of_nat rfl (by simp only [put]; omega)
  generalize hw : 0x4C000004 + put 20 q + put 13 a = word
  simp only [put] at hw
  have hM : seg word 26 5 = 0x13 := by simp only [seg]; omega
  have c0 : seg word 0 4 = 4 := by simp only [seg]; omega
  have c1 : seg word 19 1 = 0 := by simp only [seg]; omega
  have c2 : seg word 4 3 = 0 := by simp only [seg]; omega
  have c3 : seg word 7 6 = 0 := by simp only [seg]; omega
  have f_q : seg word 20 6 = q.toNat := by simp only [seg]; omega
  have f_a : seg word 13 6 = a.toNat := by simp only [seg]; omega
  simp [decodeRaw, decode13, fld, hM, c0, c1, c2, c3, f_q, f_a]

theorem vpushc (q : BitVec 6) (a : BitVec 6) (k : BitVec 3) : Statement (.vpushc q a k) := by
  by_cases hk : k = 0
  · intro h; simp [Instr.wf, hk] at h
  · have hk' : k.toNat ≠ 0 := fun h => hk (BitVec.eq_of_toNat_eq (by simpa using h))
    have b_q : q.toNat < 64 := q.isLt
    have b_a : a.toNat < 64 := a.isLt
    have b_k : k.toNat < 8 := k.isLt
    apply of_nat rfl (by simp only [put]; omega)
    generalize hw : 0x4C000004 + put 20 q + put 13 a + put 4 k = word
    simp only [put] at hw
    have hM : seg word 26 5 = 0x13 := by simp only [seg]; omega
    have c0 : seg word 0 4 = 4 := by simp only [seg]; omega
    have c1 : seg word 19 1 = 0 := by simp only [seg]; omega
    have c2 : seg word 7 6 = 0 := by simp only [seg]; omega
    have f_q : seg word 20 6 = q.toNat := by simp only [seg]; omega
    have f_a : seg word 13 6 = a.toNat := by simp only [seg]; omega
    have f_k : seg word 4 3 = k.toNat := by simp only [seg]; omega
    simp [decodeRaw, decode13, fld, hM, c0, c1, c2, f_q, f_a, f_k, hk']

theorem vpopc (d : BitVec 6) (w : BitVec 1) (q : BitVec 6) (k : BitVec 3) : Statement (.vpopc d w q k) := by
  have b_d : d.toNat < 64 := d.isLt
  have b_w : w.toNat < 2 := w.isLt
  have b_q : q.toNat < 64 := q.isLt
  have b_k : k.toNat < 8 := k.isLt
  apply of_nat rfl (by simp only [put]; omega)
  generalize hw : 0x4C000005 + put 20 d + put 19 w + put 7 q + put 4 k = word
  simp only [put] at hw
  have hM : seg word 26 5 = 0x13 := by simp only [seg]; omega
  have c0 : seg word 0 4 = 5 := by simp only [seg]; omega
  have c1 : seg word 13 6 = 0 := by simp only [seg]; omega
  have f_d : seg word 20 6 = d.toNat := by simp only [seg]; omega
  have f_w : seg word 19 1 = w.toNat := by simp only [seg]; omega
  have f_q : seg word 7 6 = q.toNat := by simp only [seg]; omega
  have f_k : seg word 4 3 = k.toNat := by simp only [seg]; omega
  simp [decodeRaw, decode13, fld, hM, c0, c1, f_d, f_w, f_q, f_k]

theorem vqbal (q : BitVec 6) : Statement (.vqbal q) := by
  have b_q : q.toNat < 64 := q.isLt
  apply of_nat rfl (by simp only [put]; omega)
  generalize hw : 0x4C000006 + put 20 q = word
  simp only [put] at hw
  have hM : seg word 26 5 = 0x13 := by simp only [seg]; omega
  have c0 : seg word 0 4 = 6 := by simp only [seg]; omega
  have c1 : seg word 19 1 = 0 := by simp only [seg]; omega
  have c2 : seg word 4 3 = 0 := by simp only [seg]; omega
  have c3 : seg word 7 6 = 0 := by simp only [seg]; omega
  have c4 : seg word 13 6 = 0 := by simp only [seg]; omega
  have f_q : seg word 20 6 = q.toNat := by simp only [seg]; omega
  simp [decodeRaw, decode13, fld, hM, c0, c1, c2, c3, c4, f_q]

theorem vqcnt (d : BitVec 6) (w : BitVec 1) (q : BitVec 6) : Statement (.vqcnt d w q) := by
  have b_d : d.toNat < 64 := d.isLt
  have b_w : w.toNat < 2 := w.isLt
  have b_q : q.toNat < 64 := q.isLt
  apply of_nat rfl (by simp only [put]; omega)
  generalize hw : 0x4C000007 + put 20 d + put 19 w + put 7 q = word
  simp only [put] at hw
  have hM : seg word 26 5 = 0x13 := by simp only [seg]; omega
  have c0 : seg word 0 4 = 7 := by simp only [seg]; omega
  have c1 : seg word 4 3 = 0 := by simp only [seg]; omega
  have c2 : seg word 13 6 = 0 := by simp only [seg]; omega
  have f_d : seg word 20 6 = d.toNat := by simp only [seg]; omega
  have f_w : seg word 19 1 = w.toNat := by simp only [seg]; omega
  have f_q : seg word 7 6 = q.toNat := by simp only [seg]; omega
  simp [decodeRaw, decode13, fld, hM, c0, c1, c2, f_d, f_w, f_q]

theorem vcmpCc (d : BitVec 6) (w : BitVec 1) (a : BitVec 6) (b : BitVec 6) (t : BitVec 2) (k : BitVec 4) : Statement (.vcmpCc d w a b t k) := by
  have b_d : d.toNat < 64 := d.isLt
  have b_w : w.toNat < 2 := w.isLt
  have b_a : a.toNat < 64 := a.isLt
  have b_b : b.toNat < 64 := b.isLt
  have b_t : t.toNat < 4 := t.isLt
  have b_k : k.toNat < 16 := k.isLt
  apply of_nat rfl (by simp only [put]; omega)
  generalize hw : 0x50000000 + put 20 d + put 19 w + put 13 a + put 7 b + put 4 t + put 0 k = word
  simp only [put] at hw
  have hM : seg word 26 5 = 0x14 := by simp only [seg]; omega
  have c0 : seg word 6 1 = 0 := by simp only [seg]; omega
  have f_d : seg word 20 6 = d.toNat := by simp only [seg]; omega
  have f_w : seg word 19 1 = w.toNat := by simp only [seg]; omega
  have f_a : seg word 13 6 = a.toNat := by simp only [seg]; omega
  have f_b : seg word 7 6 = b.toNat := by simp only [seg]; omega
  have f_t : seg word 4 2 = t.toNat := by simp only [seg]; omega
  have f_k : seg word 0 4 = k.toNat := by simp only [seg]; omega
  simp [decodeRaw, decode14, fld, hM, c0, f_d, f_w, f_a, f_b, f_t, f_k]

theorem vsel (d : BitVec 6) (w : BitVec 1) (a : BitVec 6) (b : BitVec 6) (m : BitVec 3) : Statement (.vsel d w a b m) := by
  have b_d : d.toNat < 64 := d.isLt
  have b_w : w.toNat < 2 := w.isLt
  have b_a : a.toNat < 64 := a.isLt
  have b_b : b.toNat < 64 := b.isLt
  have b_m : m.toNat < 8 := m.isLt
  apply of_nat rfl (by simp only [put]; omega)
  generalize hw : 0x50000040 + put 20 d + put 19 w + put 13 a + put 7 b + put 3 m = word
  simp only [put] at hw
  have hM : seg word 26 5 = 0x14 := by simp only [seg]; omega
  have c0 : seg word 6 1 = 1 := by simp only [seg]; omega
  have c1 : seg word 0 3 = 0 := by simp only [seg]; omega
  have f_d : seg word 20 6 = d.toNat := by simp only [seg]; omega
  have f_w : seg word 19 1 = w.toNat := by simp only [seg]; omega
  have f_a : seg word 13 6 = a.toNat := by simp only [seg]; omega
  have f_b : seg word 7 6 = b.toNat := by simp only [seg]; omega
  have f_m : seg word 3 3 = m.toNat := by simp only [seg]; omega
  simp [decodeRaw, decode14, fld, hM, c0, c1, f_d, f_w, f_a, f_b, f_m]

theorem kand (d : BitVec 6) (w : BitVec 1) (a : BitVec 6) (b : BitVec 6) : Statement (.kand d w a b) := by
  have b_d : d.toNat < 64 := d.isLt
  have b_w : w.toNat < 2 := w.isLt
  have b_a : a.toNat < 64 := a.isLt
  have b_b : b.toNat < 64 := b.isLt
  apply of_nat rfl (by simp only [put]; omega)
  generalize hw : 0x50000041 + put 20 d + put 19 w + put 13 a + put 7 b = word
  simp only [put] at hw
  have hM : seg word 26 5 = 0x14 := by simp only [seg]; omega
  have c0 : seg word 6 1 = 1 := by simp only [seg]; omega
  have c1 : seg word 0 3 = 1 := by simp only [seg]; omega
  have c2 : seg word 3 3 = 0 := by simp only [seg]; omega
  have f_d : seg word 20 6 = d.toNat := by simp only [seg]; omega
  have f_w : seg word 19 1 = w.toNat := by simp only [seg]; omega
  have f_a : seg word 13 6 = a.toNat := by simp only [seg]; omega
  have f_b : seg word 7 6 = b.toNat := by simp only [seg]; omega
  simp [decodeRaw, decode14, fld, hM, c0, c1, c2, f_d, f_w, f_a, f_b]

theorem kor (d : BitVec 6) (w : BitVec 1) (a : BitVec 6) (b : BitVec 6) : Statement (.kor d w a b) := by
  have b_d : d.toNat < 64 := d.isLt
  have b_w : w.toNat < 2 := w.isLt
  have b_a : a.toNat < 64 := a.isLt
  have b_b : b.toNat < 64 := b.isLt
  apply of_nat rfl (by simp only [put]; omega)
  generalize hw : 0x50000042 + put 20 d + put 19 w + put 13 a + put 7 b = word
  simp only [put] at hw
  have hM : seg word 26 5 = 0x14 := by simp only [seg]; omega
  have c0 : seg word 6 1 = 1 := by simp only [seg]; omega
  have c1 : seg word 0 3 = 2 := by simp only [seg]; omega
  have c2 : seg word 3 3 = 0 := by simp only [seg]; omega
  have f_d : seg word 20 6 = d.toNat := by simp only [seg]; omega
  have f_w : seg word 19 1 = w.toNat := by simp only [seg]; omega
  have f_a : seg word 13 6 = a.toNat := by simp only [seg]; omega
  have f_b : seg word 7 6 = b.toNat := by simp only [seg]; omega
  simp [decodeRaw, decode14, fld, hM, c0, c1, c2, f_d, f_w, f_a, f_b]

theorem knot (d : BitVec 6) (w : BitVec 1) (a : BitVec 6) : Statement (.knot d w a) := by
  have b_d : d.toNat < 64 := d.isLt
  have b_w : w.toNat < 2 := w.isLt
  have b_a : a.toNat < 64 := a.isLt
  apply of_nat rfl (by simp only [put]; omega)
  generalize hw : 0x50000043 + put 20 d + put 19 w + put 13 a = word
  simp only [put] at hw
  have hM : seg word 26 5 = 0x14 := by simp only [seg]; omega
  have c0 : seg word 6 1 = 1 := by simp only [seg]; omega
  have c1 : seg word 0 3 = 3 := by simp only [seg]; omega
  have c2 : seg word 3 3 = 0 := by simp only [seg]; omega
  have c3 : seg word 7 6 = 0 := by simp only [seg]; omega
  have f_d : seg word 20 6 = d.toNat := by simp only [seg]; omega
  have f_w : seg word 19 1 = w.toNat := by simp only [seg]; omega
  have f_a : seg word 13 6 = a.toNat := by simp only [seg]; omega
  simp [decodeRaw, decode14, fld, hM, c0, c1, c2, c3, f_d, f_w, f_a]

theorem kcnt (d : BitVec 6) (w : BitVec 1) (a : BitVec 6) : Statement (.kcnt d w a) := by
  have b_d : d.toNat < 64 := d.isLt
  have b_w : w.toNat < 2 := w.isLt
  have b_a : a.toNat < 64 := a.isLt
  apply of_nat rfl (by simp only [put]; omega)
  generalize hw : 0x50000044 + put 20 d + put 19 w + put 13 a = word
  simp only [put] at hw
  have hM : seg word 26 5 = 0x14 := by simp only [seg]; omega
  have c0 : seg word 6 1 = 1 := by simp only [seg]; omega
  have c1 : seg word 0 3 = 4 := by simp only [seg]; omega
  have c2 : seg word 3 3 = 0 := by simp only [seg]; omega
  have c3 : seg word 7 6 = 0 := by simp only [seg]; omega
  have f_d : seg word 20 6 = d.toNat := by simp only [seg]; omega
  have f_w : seg word 19 1 = w.toNat := by simp only [seg]; omega
  have f_a : seg word 13 6 = a.toNat := by simp only [seg]; omega
  simp [decodeRaw, decode14, fld, hM, c0, c1, c2, c3, f_d, f_w, f_a]

theorem slen (m : BitVec 5) : Statement (.slen m) := by
  have b_m : m.toNat < 32 := m.isLt
  apply of_nat rfl (by simp only [put]; omega)
  generalize hw : 0x58000000 + put 0 m = word
  simp only [put] at hw
  have hM : seg word 26 5 = 0x16 := by simp only [seg]; omega
  have c0 : seg word 22 4 = 0 := by simp only [seg]; omega
  have c1 : seg word 5 17 = 0 := by simp only [seg]; omega
  have f_m : seg word 0 5 = m.toNat := by simp only [seg]; omega
  simp [decodeRaw, decode16, fld, hM, c0, c1, f_m]

theorem sseed (x : BitVec 1) (s : BitVec 5) : Statement (.sseed x s) := by
  have b_x : x.toNat < 2 := x.isLt
  have b_s : s.toNat < 32 := s.isLt
  apply of_nat rfl (by simp only [put]; omega)
  generalize hw : 0x58400000 + put 10 x + put 0 s = word
  simp only [put] at hw
  have hM : seg word 26 5 = 0x16 := by simp only [seg]; omega
  have c0 : seg word 22 4 = 1 := by simp only [seg]; omega
  have c1 : seg word 11 11 = 0 := by simp only [seg]; omega
  have c2 : seg word 5 5 = 0 := by simp only [seg]; omega
  have f_x : seg word 10 1 = x.toNat := by simp only [seg]; omega
  have f_s : seg word 0 5 = s.toNat := by simp only [seg]; omega
  simp [decodeRaw, decode16, fld, hM, c0, c1, c2, f_x, f_s]

theorem sprof (p : BitVec 8) : Statement (.sprof p) := by
  have b_p : p.toNat < 256 := p.isLt
  apply of_nat rfl (by simp only [put]; omega)
  generalize hw : 0x58800000 + put 11 p = word
  simp only [put] at hw
  have hM : seg word 26 5 = 0x16 := by simp only [seg]; omega
  have c0 : seg word 22 4 = 2 := by simp only [seg]; omega
  have c1 : seg word 5 5 = 0 := by simp only [seg]; omega
  have c2 : seg word 19 3 = 0 := by simp only [seg]; omega
  have c3 : seg word 0 11 = 0 := by simp only [seg]; omega
  have f_p : seg word 11 8 = p.toNat := by simp only [seg]; omega
  simp [decodeRaw, decode16, fld, hM, c0, c1, c2, c3, f_p]

theorem smode (s : BitVec 5) : Statement (.smode s) := by
  have b_s : s.toNat < 32 := s.isLt
  apply of_nat rfl (by simp only [put]; omega)
  generalize hw : 0x58C00000 + put 0 s = word
  simp only [put] at hw
  have hM : seg word 26 5 = 0x16 := by simp only [seg]; omega
  have c0 : seg word 22 4 = 3 := by simp only [seg]; omega
  have c1 : seg word 5 17 = 0 := by simp only [seg]; omega
  have c2 : seg word 11 11 = 0 := by simp only [seg]; omega
  have c3 : seg word 5 5 = 0 := by simp only [seg]; omega
  have c4 : seg word 19 3 = 0 := by simp only [seg]; omega
  have f_s : seg word 0 5 = s.toNat := by simp only [seg]; omega
  simp [decodeRaw, decode16, fld, hM, c0, c1, c2, c3, c4, f_s]

theorem ntset (n : BitVec 3) (w : BitVec 5) (s : BitVec 5) : Statement (.ntset n w s) := by
  have b_n : n.toNat < 8 := n.isLt
  have b_w : w.toNat < 32 := w.isLt
  have b_s : s.toNat < 32 := s.isLt
  apply of_nat rfl (by simp only [put]; omega)
  generalize hw : 0x5C000000 + put 19 n + put 5 w + put 0 s = word
  simp only [put] at hw
  have hM : seg word 26 5 = 0x17 := by simp only [seg]; omega
  have c0 : seg word 22 4 = 0 := by simp only [seg]; omega
  have c1 : seg word 10 9 = 0 := by simp only [seg]; omega
  have f_n : seg word 19 3 = n.toNat := by simp only [seg]; omega
  have f_w : seg word 5 5 = w.toNat := by simp only [seg]; omega
  have f_s : seg word 0 5 = s.toNat := by simp only [seg]; omega
  simp [decodeRaw, decode17, fld, hM, c0, c1, f_n, f_w, f_s]

theorem ntclr (n : BitVec 3) : Statement (.ntclr n) := by
  have b_n : n.toNat < 8 := n.isLt
  apply of_nat rfl (by simp only [put]; omega)
  generalize hw : 0x5C400000 + put 19 n = word
  simp only [put] at hw
  have hM : seg word 26 5 = 0x17 := by simp only [seg]; omega
  have c0 : seg word 22 4 = 1 := by simp only [seg]; omega
  have c1 : seg word 10 9 = 0 := by simp only [seg]; omega
  have c2 : seg word 0 19 = 0 := by simp only [seg]; omega
  have f_n : seg word 19 3 = n.toNat := by simp only [seg]; omega
  simp [decodeRaw, decode17, fld, hM, c0, c1, c2, f_n]

theorem wbld (a : BitVec 4) (s : BitVec 5) : Statement (.wbld a s) := by
  have b_a : a.toNat < 16 := a.isLt
  have b_s : s.toNat < 32 := s.isLt
  apply of_nat rfl (by simp only [put]; omega)
  generalize hw : 0x60000000 + put 7 a + put 0 s = word
  simp only [put] at hw
  have hM : seg word 26 5 = 0x18 := by simp only [seg]; omega
  have c0 : seg word 22 4 = 0 := by simp only [seg]; omega
  have c1 : seg word 11 11 = 0 := by simp only [seg]; omega
  have c2 : seg word 5 2 = 0 := by simp only [seg]; omega
  have f_a : seg word 7 4 = a.toNat := by simp only [seg]; omega
  have f_s : seg word 0 5 = s.toNat := by simp only [seg]; omega
  simp [decodeRaw, decode18, fld, hM, c0, c1, c2, f_a, f_s]

theorem wlatch (w : BitVec 2) (s : BitVec 5) : Statement (.wlatch w s) := by
  have b_w : w.toNat < 4 := w.isLt
  have b_s : s.toNat < 32 := s.isLt
  apply of_nat rfl (by simp only [put]; omega)
  generalize hw : 0x60400000 + put 9 w + put 0 s = word
  simp only [put] at hw
  have hM : seg word 26 5 = 0x18 := by simp only [seg]; omega
  have c0 : seg word 22 4 = 1 := by simp only [seg]; omega
  have c1 : seg word 11 11 = 0 := by simp only [seg]; omega
  have c2 : seg word 5 2 = 0 := by simp only [seg]; omega
  have c3 : seg word 5 4 = 0 := by simp only [seg]; omega
  have f_w : seg word 9 2 = w.toNat := by simp only [seg]; omega
  have f_s : seg word 0 5 = s.toNat := by simp only [seg]; omega
  simp [decodeRaw, decode18, fld, hM, c0, c1, c2, c3, f_w, f_s]

theorem sgo (n : BitVec 3) (p : BitVec 8) : Statement (.sgo n p) := by
  have b_n : n.toNat < 8 := n.isLt
  have b_p : p.toNat < 256 := p.isLt
  apply of_nat rfl (by simp only [put]; omega)
  generalize hw : 0x64000000 + put 19 n + put 11 p = word
  simp only [put] at hw
  have hM : seg word 26 5 = 0x19 := by simp only [seg]; omega
  have c0 : seg word 22 4 = 0 := by simp only [seg]; omega
  have c1 : seg word 0 11 = 0 := by simp only [seg]; omega
  have f_n : seg word 19 3 = n.toNat := by simp only [seg]; omega
  have f_p : seg word 11 8 = p.toNat := by simp only [seg]; omega
  simp [decodeRaw, decode19, fld, hM, c0, c1, f_n, f_p]

theorem sconf (v : BitVec 6) (s : BitVec 5) : Statement (.sconf v s) := by
  have b_v : v.toNat < 64 := v.isLt
  have b_s : s.toNat < 32 := s.isLt
  apply of_nat rfl (by simp only [put]; omega)
  generalize hw : 0x64400000 + put 5 v + put 0 s = word
  simp only [put] at hw
  have hM : seg word 26 5 = 0x19 := by simp only [seg]; omega
  have c0 : seg word 22 4 = 1 := by simp only [seg]; omega
  have c1 : seg word 11 11 = 0 := by simp only [seg]; omega
  have f_v : seg word 5 6 = v.toNat := by simp only [seg]; omega
  have f_s : seg word 0 5 = s.toNat := by simp only [seg]; omega
  simp [decodeRaw, decode19, fld, hM, c0, c1, f_v, f_s]

theorem sstop (n : BitVec 3) (j : BitVec 5) : Statement (.sstop n j) := by
  have b_n : n.toNat < 8 := n.isLt
  have b_j : j.toNat < 32 := j.isLt
  apply of_nat rfl (by simp only [put]; omega)
  generalize hw : 0x64800000 + put 19 n + put 0 j = word
  simp only [put] at hw
  have hM : seg word 26 5 = 0x19 := by simp only [seg]; omega
  have c0 : seg word 22 4 = 2 := by simp only [seg]; omega
  have c1 : seg word 5 14 = 0 := by simp only [seg]; omega
  have f_n : seg word 19 3 = n.toNat := by simp only [seg]; omega
  have f_j : seg word 0 5 = j.toNat := by simp only [seg]; omega
  simp [decodeRaw, decode19, fld, hM, c0, c1, f_n, f_j]

theorem spart (v : BitVec 6) (s : BitVec 5) : Statement (.spart v s) := by
  have b_v : v.toNat < 64 := v.isLt
  have b_s : s.toNat < 32 := s.isLt
  apply of_nat rfl (by simp only [put]; omega)
  generalize hw : 0x64C00000 + put 5 v + put 0 s = word
  simp only [put] at hw
  have hM : seg word 26 5 = 0x19 := by simp only [seg]; omega
  have c0 : seg word 22 4 = 3 := by simp only [seg]; omega
  have c1 : seg word 11 11 = 0 := by simp only [seg]; omega
  have f_v : seg word 5 6 = v.toNat := by simp only [seg]; omega
  have f_s : seg word 0 5 = s.toNat := by simp only [seg]; omega
  simp [decodeRaw, decode19, fld, hM, c0, c1, f_v, f_s]

theorem sread (p : BitVec 8) (v : BitVec 6) (s : BitVec 5) : Statement (.sread p v s) := by
  have b_p : p.toNat < 256 := p.isLt
  have b_v : v.toNat < 64 := v.isLt
  have b_s : s.toNat < 32 := s.isLt
  apply of_nat rfl (by simp only [put]; omega)
  generalize hw : 0x68000000 + put 11 p + put 5 v + put 0 s = word
  simp only [put] at hw
  have hM : seg word 26 5 = 0x1A := by simp only [seg]; omega
  have c0 : seg word 22 4 = 0 := by simp only [seg]; omega
  have c1 : seg word 19 3 = 0 := by simp only [seg]; omega
  have f_p : seg word 11 8 = p.toNat := by simp only [seg]; omega
  have f_v : seg word 5 6 = v.toNat := by simp only [seg]; omega
  have f_s : seg word 0 5 = s.toNat := by simp only [seg]; omega
  simp [decodeRaw, decode1A, fld, hM, c0, c1, f_p, f_v, f_s]

theorem sclr : Statement (.sclr) := by
  apply of_nat rfl (by omega)
  generalize hw : 0x68400000 = word
  have hw2 := hw
  have hM : seg word 26 5 = 0x1A := by simp only [seg]; omega
  have c0 : seg word 22 4 = 1 := by simp only [seg]; omega
  have c1 : seg word 19 3 = 0 := by simp only [seg]; omega
  have c2 : seg word 0 22 = 0 := by simp only [seg]; omega
  simp [decodeRaw, decode1A, fld, hM, c0, c1, c2]

theorem sebnd (v : BitVec 6) : Statement (.sebnd v) := by
  have b_v : v.toNat < 64 := v.isLt
  apply of_nat rfl (by simp only [put]; omega)
  generalize hw : 0x68800000 + put 5 v = word
  simp only [put] at hw
  have hM : seg word 26 5 = 0x1A := by simp only [seg]; omega
  have c0 : seg word 22 4 = 2 := by simp only [seg]; omega
  have c1 : seg word 19 3 = 0 := by simp only [seg]; omega
  have c2 : seg word 11 11 = 0 := by simp only [seg]; omega
  have c3 : seg word 0 5 = 0 := by simp only [seg]; omega
  have f_v : seg word 5 6 = v.toNat := by simp only [seg]; omega
  simp [decodeRaw, decode1A, fld, hM, c0, c1, c2, c3, f_v]

theorem ld (z : BitVec 2) (d : BitVec 6) (b : BitVec 4) (x : BitVec 1) (i : BitVec 11) : Statement (.ld z d b x i) := by
  have b_z : z.toNat < 4 := z.isLt
  have b_d : d.toNat < 64 := d.isLt
  have b_b : b.toNat < 16 := b.isLt
  have b_x : x.toNat < 2 := x.isLt
  have b_i : i.toNat < 2048 := i.isLt
  apply of_nat rfl (by simp only [put]; omega)
  generalize hw : 0x6C000000 + put 22 z + put 16 d + put 12 b + put 11 x + put 0 i = word
  simp only [put] at hw
  have hM : seg word 26 5 = 0x1B := by simp only [seg]; omega
  have c0 : seg word 24 2 = 0 := by simp only [seg]; omega
  have f_z : seg word 22 2 = z.toNat := by simp only [seg]; omega
  have f_d : seg word 16 6 = d.toNat := by simp only [seg]; omega
  have f_b : seg word 12 4 = b.toNat := by simp only [seg]; omega
  have f_x : seg word 11 1 = x.toNat := by simp only [seg]; omega
  have f_i : seg word 0 11 = i.toNat := by simp only [seg]; omega
  simp [decodeRaw, decode1B, fld, hM, c0, f_z, f_d, f_b, f_x, f_i]

theorem st (z : BitVec 2) (d : BitVec 6) (b : BitVec 4) (x : BitVec 1) (i : BitVec 11) : Statement (.st z d b x i) := by
  have b_z : z.toNat < 4 := z.isLt
  have b_d : d.toNat < 64 := d.isLt
  have b_b : b.toNat < 16 := b.isLt
  have b_x : x.toNat < 2 := x.isLt
  have b_i : i.toNat < 2048 := i.isLt
  apply of_nat rfl (by simp only [put]; omega)
  generalize hw : 0x6D000000 + put 22 z + put 16 d + put 12 b + put 11 x + put 0 i = word
  simp only [put] at hw
  have hM : seg word 26 5 = 0x1B := by simp only [seg]; omega
  have c0 : seg word 24 2 = 1 := by simp only [seg]; omega
  have f_z : seg word 22 2 = z.toNat := by simp only [seg]; omega
  have f_d : seg word 16 6 = d.toNat := by simp only [seg]; omega
  have f_b : seg word 12 4 = b.toNat := by simp only [seg]; omega
  have f_x : seg word 11 1 = x.toNat := by simp only [seg]; omega
  have f_i : seg word 0 11 = i.toNat := by simp only [seg]; omega
  simp [decodeRaw, decode1B, fld, hM, c0, f_z, f_d, f_b, f_x, f_i]

theorem ldl (z : BitVec 2) (d : BitVec 5) (b : BitVec 3) (o : BitVec 4) (l : BitVec 10) : Statement (.ldl z d b o l) := by
  have b_z : z.toNat < 4 := z.isLt
  have b_d : d.toNat < 32 := d.isLt
  have b_b : b.toNat < 8 := b.isLt
  have b_o : o.toNat < 16 := o.isLt
  have b_l : l.toNat < 1024 := l.isLt
  apply of_nat rfl (by simp only [put]; omega)
  generalize hw : 0x6E000000 + put 22 z + put 17 d + put 14 b + put 10 o + put 0 l = word
  simp only [put] at hw
  have hM : seg word 26 5 = 0x1B := by simp only [seg]; omega
  have c0 : seg word 24 2 = 2 := by simp only [seg]; omega
  have f_z : seg word 22 2 = z.toNat := by simp only [seg]; omega
  have f_d : seg word 17 5 = d.toNat := by simp only [seg]; omega
  have f_b : seg word 14 3 = b.toNat := by simp only [seg]; omega
  have f_o : seg word 10 4 = o.toNat := by simp only [seg]; omega
  have f_l : seg word 0 10 = l.toNat := by simp only [seg]; omega
  simp [decodeRaw, decode1B, fld, hM, c0, f_z, f_d, f_b, f_o, f_l]

theorem str (z : BitVec 2) (d : BitVec 6) (b : BitVec 4) (x : BitVec 1) (i : BitVec 11) : Statement (.str z d b x i) := by
  have b_z : z.toNat < 4 := z.isLt
  have b_d : d.toNat < 64 := d.isLt
  have b_b : b.toNat < 16 := b.isLt
  have b_x : x.toNat < 2 := x.isLt
  have b_i : i.toNat < 2048 := i.isLt
  apply of_nat rfl (by simp only [put]; omega)
  generalize hw : 0x6F000000 + put 22 z + put 16 d + put 12 b + put 11 x + put 0 i = word
  simp only [put] at hw
  have hM : seg word 26 5 = 0x1B := by simp only [seg]; omega
  have c0 : seg word 24 2 = 3 := by simp only [seg]; omega
  have f_z : seg word 22 2 = z.toNat := by simp only [seg]; omega
  have f_d : seg word 16 6 = d.toNat := by simp only [seg]; omega
  have f_b : seg word 12 4 = b.toNat := by simp only [seg]; omega
  have f_x : seg word 11 1 = x.toNat := by simp only [seg]; omega
  have f_i : seg word 0 11 = i.toNat := by simp only [seg]; omega
  simp [decodeRaw, decode1B, fld, hM, c0, f_z, f_d, f_b, f_x, f_i]

theorem tmov (q : BitVec 1) (r : BitVec 1) (o : BitVec 6) (b : BitVec 4) (s : BitVec 5) : Statement (.tmov q r o b s) := by
  have b_q : q.toNat < 2 := q.isLt
  have b_r : r.toNat < 2 := r.isLt
  have b_o : o.toNat < 64 := o.isLt
  have b_b : b.toNat < 16 := b.isLt
  have b_s : s.toNat < 32 := s.isLt
  apply of_nat rfl (by simp only [put]; omega)
  generalize hw : 0x70000000 + put 23 q + put 22 r + put 16 o + put 12 b + put 7 s = word
  simp only [put] at hw
  have hM : seg word 26 5 = 0x1C := by simp only [seg]; omega
  have c0 : seg word 24 2 = 0 := by simp only [seg]; omega
  have c1 : seg word 0 7 = 0 := by simp only [seg]; omega
  have f_q : seg word 23 1 = q.toNat := by simp only [seg]; omega
  have f_r : seg word 22 1 = r.toNat := by simp only [seg]; omega
  have f_o : seg word 16 6 = o.toNat := by simp only [seg]; omega
  have f_b : seg word 12 4 = b.toNat := by simp only [seg]; omega
  have f_s : seg word 7 5 = s.toNat := by simp only [seg]; omega
  simp [decodeRaw, decode1C, fld, hM, c0, c1, f_q, f_r, f_o, f_b, f_s]

theorem tmovq (q : BitVec 1) (r : BitVec 1) (o : BitVec 6) (b : BitVec 4) (s : BitVec 5) : Statement (.tmovq q r o b s) := by
  have b_q : q.toNat < 2 := q.isLt
  have b_r : r.toNat < 2 := r.isLt
  have b_o : o.toNat < 64 := o.isLt
  have b_b : b.toNat < 16 := b.isLt
  have b_s : s.toNat < 32 := s.isLt
  apply of_nat rfl (by simp only [put]; omega)
  generalize hw : 0x71000000 + put 23 q + put 22 r + put 16 o + put 12 b + put 7 s = word
  simp only [put] at hw
  have hM : seg word 26 5 = 0x1C := by simp only [seg]; omega
  have c0 : seg word 24 2 = 1 := by simp only [seg]; omega
  have c1 : seg word 0 7 = 0 := by simp only [seg]; omega
  have f_q : seg word 23 1 = q.toNat := by simp only [seg]; omega
  have f_r : seg word 22 1 = r.toNat := by simp only [seg]; omega
  have f_o : seg word 16 6 = o.toNat := by simp only [seg]; omega
  have f_b : seg word 12 4 = b.toNat := by simp only [seg]; omega
  have f_s : seg word 7 5 = s.toNat := by simp only [seg]; omega
  simp [decodeRaw, decode1C, fld, hM, c0, c1, f_q, f_r, f_o, f_b, f_s]

theorem tfill (q : BitVec 1) (o : BitVec 6) (b : BitVec 4) (s : BitVec 5) : Statement (.tfill q o b s) := by
  have b_q : q.toNat < 2 := q.isLt
  have b_o : o.toNat < 64 := o.isLt
  have b_b : b.toNat < 16 := b.isLt
  have b_s : s.toNat < 32 := s.isLt
  apply of_nat rfl (by simp only [put]; omega)
  generalize hw : 0x72000000 + put 23 q + put 16 o + put 12 b + put 7 s = word
  simp only [put] at hw
  have hM : seg word 26 5 = 0x1C := by simp only [seg]; omega
  have c0 : seg word 24 2 = 2 := by simp only [seg]; omega
  have c1 : seg word 0 7 = 0 := by simp only [seg]; omega
  have c2 : seg word 22 1 = 0 := by simp only [seg]; omega
  have f_q : seg word 23 1 = q.toNat := by simp only [seg]; omega
  have f_o : seg word 16 6 = o.toNat := by simp only [seg]; omega
  have f_b : seg word 12 4 = b.toNat := by simp only [seg]; omega
  have f_s : seg word 7 5 = s.toNat := by simp only [seg]; omega
  simp [decodeRaw, decode1C, fld, hM, c0, c1, c2, f_q, f_o, f_b, f_s]

theorem amoOp (e : BitVec 3) (o : BitVec 3) (r : BitVec 2) (d : BitVec 5) (b : BitVec 3) (l : BitVec 10) : Statement (.amoOp e o r d b l) := by
  by_cases he5 : e.toNat ≤ 4
  · have h5 : e.toNat ≠ 5 := by omega
    have h6 : e.toNat ≠ 6 := by omega
    have h7 : e.toNat ≠ 7 := by omega
    have b_e : e.toNat < 8 := e.isLt
    have b_o : o.toNat < 8 := o.isLt
    have b_r : r.toNat < 4 := r.isLt
    have b_d : d.toNat < 32 := d.isLt
    have b_b : b.toNat < 8 := b.isLt
    have b_l : l.toNat < 1024 := l.isLt
    apply of_nat rfl (by simp only [put]; omega)
    generalize hw : 0x74000000 + put 23 e + put 20 o + put 18 r + put 13 d + put 10 b + put 0 l = word
    simp only [put] at hw
    have hM : seg word 26 5 = 0x1D := by simp only [seg]; omega
    have f_e : seg word 23 3 = e.toNat := by simp only [seg]; omega
    have f_o : seg word 20 3 = o.toNat := by simp only [seg]; omega
    have f_r : seg word 18 2 = r.toNat := by simp only [seg]; omega
    have f_d : seg word 13 5 = d.toNat := by simp only [seg]; omega
    have f_b : seg word 10 3 = b.toNat := by simp only [seg]; omega
    have f_l : seg word 0 10 = l.toNat := by simp only [seg]; omega
    simp [decodeRaw, decode1D, fld, hM, f_e, f_o, f_r, f_d, f_b, f_l, h5, h6, h7]
  · intro h; simp [Instr.wf, he5] at h

theorem ldAcq (e : BitVec 3) (z : BitVec 2) (d : BitVec 5) (b : BitVec 3) (l : BitVec 10) : Statement (.ldAcq e z d b l) := by
  have b_e : e.toNat < 8 := e.isLt
  have b_z : z.toNat < 4 := z.isLt
  have b_d : d.toNat < 32 := d.isLt
  have b_b : b.toNat < 8 := b.isLt
  have b_l : l.toNat < 1024 := l.isLt
  apply of_nat rfl (by simp only [put]; omega)
  generalize hw : 0x76800000 + put 20 e + put 18 z + put 13 d + put 10 b + put 0 l = word
  simp only [put] at hw
  have hM : seg word 26 5 = 0x1D := by simp only [seg]; omega
  have c0 : seg word 23 3 = 5 := by simp only [seg]; omega
  have f_e : seg word 20 3 = e.toNat := by simp only [seg]; omega
  have f_z : seg word 18 2 = z.toNat := by simp only [seg]; omega
  have f_d : seg word 13 5 = d.toNat := by simp only [seg]; omega
  have f_b : seg word 10 3 = b.toNat := by simp only [seg]; omega
  have f_l : seg word 0 10 = l.toNat := by simp only [seg]; omega
  simp [decodeRaw, decode1D, fld, hM, c0, f_e, f_z, f_d, f_b, f_l]

theorem stRel (e : BitVec 3) (z : BitVec 2) (s : BitVec 5) (b : BitVec 3) : Statement (.stRel e z s b) := by
  have b_e : e.toNat < 8 := e.isLt
  have b_z : z.toNat < 4 := z.isLt
  have b_s : s.toNat < 32 := s.isLt
  have b_b : b.toNat < 8 := b.isLt
  apply of_nat rfl (by simp only [put]; omega)
  generalize hw : 0x77000000 + put 17 e + put 15 z + put 10 s + put 7 b = word
  simp only [put] at hw
  have hM : seg word 26 5 = 0x1D := by simp only [seg]; omega
  have c0 : seg word 23 3 = 6 := by simp only [seg]; omega
  have c1 : seg word 20 3 = 0 := by simp only [seg]; omega
  have c2 : seg word 0 7 = 0 := by simp only [seg]; omega
  have f_e : seg word 17 3 = e.toNat := by simp only [seg]; omega
  have f_z : seg word 15 2 = z.toNat := by simp only [seg]; omega
  have f_s : seg word 10 5 = s.toNat := by simp only [seg]; omega
  have f_b : seg word 7 3 = b.toNat := by simp only [seg]; omega
  simp [decodeRaw, decode1D, fld, hM, c0, c1, c2, f_e, f_z, f_s, f_b]

theorem fence (e : BitVec 3) : Statement (.fence e) := by
  have b_e : e.toNat < 8 := e.isLt
  apply of_nat rfl (by simp only [put]; omega)
  generalize hw : 0x77100000 + put 17 e = word
  simp only [put] at hw
  have hM : seg word 26 5 = 0x1D := by simp only [seg]; omega
  have c0 : seg word 23 3 = 6 := by simp only [seg]; omega
  have c1 : seg word 20 3 = 1 := by simp only [seg]; omega
  have c2 : seg word 0 7 = 0 := by simp only [seg]; omega
  have c3 : seg word 0 17 = 0 := by simp only [seg]; omega
  have f_e : seg word 17 3 = e.toNat := by simp only [seg]; omega
  simp [decodeRaw, decode1D, fld, hM, c0, c1, c2, c3, f_e]

theorem waittl (t : BitVec 3) (a : BitVec 6) : Statement (.waittl t a) := by
  have b_t : t.toNat < 8 := t.isLt
  have b_a : a.toNat < 64 := a.isLt
  apply of_nat rfl (by simp only [put]; omega)
  generalize hw : 0x77200000 + put 17 t + put 11 a = word
  simp only [put] at hw
  have hM : seg word 26 5 = 0x1D := by simp only [seg]; omega
  have c0 : seg word 23 3 = 6 := by simp only [seg]; omega
  have c1 : seg word 20 3 = 2 := by simp only [seg]; omega
  have c2 : seg word 0 7 = 0 := by simp only [seg]; omega
  have c3 : seg word 0 11 = 0 := by simp only [seg]; omega
  have f_t : seg word 17 3 = t.toNat := by simp only [seg]; omega
  have f_a : seg word 11 6 = a.toNat := by simp only [seg]; omega
  simp [decodeRaw, decode1D, fld, hM, c0, c1, c2, c3, f_t, f_a]

theorem tlget (t : BitVec 3) (d : BitVec 6) : Statement (.tlget t d) := by
  have b_t : t.toNat < 8 := t.isLt
  have b_d : d.toNat < 64 := d.isLt
  apply of_nat rfl (by simp only [put]; omega)
  generalize hw : 0x77300000 + put 17 t + put 11 d = word
  simp only [put] at hw
  have hM : seg word 26 5 = 0x1D := by simp only [seg]; omega
  have c0 : seg word 23 3 = 6 := by simp only [seg]; omega
  have c1 : seg word 20 3 = 3 := by simp only [seg]; omega
  have c2 : seg word 0 7 = 0 := by simp only [seg]; omega
  have c3 : seg word 0 11 = 0 := by simp only [seg]; omega
  have f_t : seg word 17 3 = t.toNat := by simp only [seg]; omega
  have f_d : seg word 11 6 = d.toNat := by simp only [seg]; omega
  simp [decodeRaw, decode1D, fld, hM, c0, c1, c2, c3, f_t, f_d]

theorem tlbump (t : BitVec 3) (a : BitVec 6) : Statement (.tlbump t a) := by
  have b_t : t.toNat < 8 := t.isLt
  have b_a : a.toNat < 64 := a.isLt
  apply of_nat rfl (by simp only [put]; omega)
  generalize hw : 0x77400000 + put 17 t + put 11 a = word
  simp only [put] at hw
  have hM : seg word 26 5 = 0x1D := by simp only [seg]; omega
  have c0 : seg word 23 3 = 6 := by simp only [seg]; omega
  have c1 : seg word 20 3 = 4 := by simp only [seg]; omega
  have c2 : seg word 0 7 = 0 := by simp only [seg]; omega
  have c3 : seg word 0 11 = 0 := by simp only [seg]; omega
  have f_t : seg word 17 3 = t.toNat := by simp only [seg]; omega
  have f_a : seg word 11 6 = a.toNat := by simp only [seg]; omega
  simp [decodeRaw, decode1D, fld, hM, c0, c1, c2, c3, f_t, f_a]

theorem bari (b : BitVec 7) (a : BitVec 6) : Statement (.bari b a) := by
  have b_b : b.toNat < 128 := b.isLt
  have b_a : a.toNat < 64 := a.isLt
  apply of_nat rfl (by simp only [put]; omega)
  generalize hw : 0x77800000 + put 13 b + put 7 a = word
  simp only [put] at hw
  have hM : seg word 26 5 = 0x1D := by simp only [seg]; omega
  have c0 : seg word 23 3 = 7 := by simp only [seg]; omega
  have c1 : seg word 20 3 = 0 := by simp only [seg]; omega
  have c2 : seg word 0 7 = 0 := by simp only [seg]; omega
  have f_b : seg word 13 7 = b.toNat := by simp only [seg]; omega
  have f_a : seg word 7 6 = a.toNat := by simp only [seg]; omega
  simp [decodeRaw, decode1D, fld, hM, c0, c1, c2, f_b, f_a]

theorem bara (b : BitVec 7) : Statement (.bara b) := by
  have b_b : b.toNat < 128 := b.isLt
  apply of_nat rfl (by simp only [put]; omega)
  generalize hw : 0x77900000 + put 13 b = word
  simp only [put] at hw
  have hM : seg word 26 5 = 0x1D := by simp only [seg]; omega
  have c0 : seg word 23 3 = 7 := by simp only [seg]; omega
  have c1 : seg word 20 3 = 1 := by simp only [seg]; omega
  have c2 : seg word 0 7 = 0 := by simp only [seg]; omega
  have c3 : seg word 0 11 = 0 := by simp only [seg]; omega
  have c4 : seg word 0 13 = 0 := by simp only [seg]; omega
  have f_b : seg word 13 7 = b.toNat := by simp only [seg]; omega
  simp [decodeRaw, decode1D, fld, hM, c0, c1, c2, c3, c4, f_b]

theorem barw (b : BitVec 7) : Statement (.barw b) := by
  have b_b : b.toNat < 128 := b.isLt
  apply of_nat rfl (by simp only [put]; omega)
  generalize hw : 0x77A00000 + put 13 b = word
  simp only [put] at hw
  have hM : seg word 26 5 = 0x1D := by simp only [seg]; omega
  have c0 : seg word 23 3 = 7 := by simp only [seg]; omega
  have c1 : seg word 20 3 = 2 := by simp only [seg]; omega
  have c2 : seg word 0 7 = 0 := by simp only [seg]; omega
  have c3 : seg word 0 11 = 0 := by simp only [seg]; omega
  have c4 : seg word 0 13 = 0 := by simp only [seg]; omega
  have f_b : seg word 13 7 = b.toNat := by simp only [seg]; omega
  simp [decodeRaw, decode1D, fld, hM, c0, c1, c2, c3, c4, f_b]

theorem racq (r : BitVec 6) (s : BitVec 1) (d : BitVec 6) : Statement (.racq r s d) := by
  have b_r : r.toNat < 64 := r.isLt
  have b_s : s.toNat < 2 := s.isLt
  have b_d : d.toNat < 64 := d.isLt
  apply of_nat rfl (by simp only [put]; omega)
  generalize hw : 0x77B00000 + put 14 r + put 13 s + put 7 d = word
  simp only [put] at hw
  have hM : seg word 26 5 = 0x1D := by simp only [seg]; omega
  have c0 : seg word 23 3 = 7 := by simp only [seg]; omega
  have c1 : seg word 20 3 = 3 := by simp only [seg]; omega
  have c2 : seg word 0 7 = 0 := by simp only [seg]; omega
  have f_r : seg word 14 6 = r.toNat := by simp only [seg]; omega
  have f_s : seg word 13 1 = s.toNat := by simp only [seg]; omega
  have f_d : seg word 7 6 = d.toNat := by simp only [seg]; omega
  simp [decodeRaw, decode1D, fld, hM, c0, c1, c2, f_r, f_s, f_d]

theorem rrel (r : BitVec 6) (s : BitVec 1) : Statement (.rrel r s) := by
  have b_r : r.toNat < 64 := r.isLt
  have b_s : s.toNat < 2 := s.isLt
  apply of_nat rfl (by simp only [put]; omega)
  generalize hw : 0x77C00000 + put 14 r + put 13 s = word
  simp only [put] at hw
  have hM : seg word 26 5 = 0x1D := by simp only [seg]; omega
  have c0 : seg word 23 3 = 7 := by simp only [seg]; omega
  have c1 : seg word 20 3 = 4 := by simp only [seg]; omega
  have c2 : seg word 0 7 = 0 := by simp only [seg]; omega
  have c3 : seg word 0 11 = 0 := by simp only [seg]; omega
  have c4 : seg word 0 13 = 0 := by simp only [seg]; omega
  have f_r : seg word 14 6 = r.toNat := by simp only [seg]; omega
  have f_s : seg word 13 1 = s.toNat := by simp only [seg]; omega
  simp [decodeRaw, decode1D, fld, hM, c0, c1, c2, c3, c4, f_r, f_s]

theorem rinfo (r : BitVec 6) (d : BitVec 6) : Statement (.rinfo r d) := by
  have b_r : r.toNat < 64 := r.isLt
  have b_d : d.toNat < 64 := d.isLt
  apply of_nat rfl (by simp only [put]; omega)
  generalize hw : 0x77D00000 + put 14 r + put 7 d = word
  simp only [put] at hw
  have hM : seg word 26 5 = 0x1D := by simp only [seg]; omega
  have c0 : seg word 23 3 = 7 := by simp only [seg]; omega
  have c1 : seg word 20 3 = 5 := by simp only [seg]; omega
  have c2 : seg word 0 7 = 0 := by simp only [seg]; omega
  have c3 : seg word 13 1 = 0 := by simp only [seg]; omega
  have f_r : seg word 14 6 = r.toNat := by simp only [seg]; omega
  have f_d : seg word 7 6 = d.toNat := by simp only [seg]; omega
  simp [decodeRaw, decode1D, fld, hM, c0, c1, c2, c3, f_r, f_d]

theorem wlpush (d : BitVec 5) (b : BitVec 4) (l : BitVec 10) : Statement (.wlpush d b l) := by
  have b_d : d.toNat < 32 := d.isLt
  have b_b : b.toNat < 16 := b.isLt
  have b_l : l.toNat < 1024 := l.isLt
  apply of_nat rfl (by simp only [put]; omega)
  generalize hw : 0x78000000 + put 18 d + put 14 b + put 0 l = word
  simp only [put] at hw
  have hM : seg word 26 5 = 0x1E := by simp only [seg]; omega
  have c0 : seg word 23 3 = 0 := by simp only [seg]; omega
  have c1 : seg word 10 4 = 0 := by simp only [seg]; omega
  have f_d : seg word 18 5 = d.toNat := by simp only [seg]; omega
  have f_b : seg word 14 4 = b.toNat := by simp only [seg]; omega
  have f_l : seg word 0 10 = l.toNat := by simp only [seg]; omega
  simp [decodeRaw, decode1E, fld, hM, c0, c1, f_d, f_b, f_l]

theorem wlpushr (k : BitVec 1) (b : BitVec 4) (s : BitVec 5) : Statement (.wlpushr k b s) := by
  have b_k : k.toNat < 2 := k.isLt
  have b_b : b.toNat < 16 := b.isLt
  have b_s : s.toNat < 32 := s.isLt
  apply of_nat rfl (by simp only [put]; omega)
  generalize hw : 0x78800000 + put 22 k + put 18 b + put 13 s = word
  simp only [put] at hw
  have hM : seg word 26 5 = 0x1E := by simp only [seg]; omega
  have c0 : seg word 23 3 = 1 := by simp only [seg]; omega
  have c1 : seg word 0 13 = 0 := by simp only [seg]; omega
  have f_k : seg word 22 1 = k.toNat := by simp only [seg]; omega
  have f_b : seg word 18 4 = b.toNat := by simp only [seg]; omega
  have f_s : seg word 13 5 = s.toNat := by simp only [seg]; omega
  simp [decodeRaw, decode1E, fld, hM, c0, c1, f_k, f_b, f_s]

theorem wlfloor (d : BitVec 5) (l : BitVec 10) : Statement (.wlfloor d l) := by
  have b_d : d.toNat < 32 := d.isLt
  have b_l : l.toNat < 1024 := l.isLt
  apply of_nat rfl (by simp only [put]; omega)
  generalize hw : 0x79000000 + put 18 d + put 0 l = word
  simp only [put] at hw
  have hM : seg word 26 5 = 0x1E := by simp only [seg]; omega
  have c0 : seg word 23 3 = 2 := by simp only [seg]; omega
  have c1 : seg word 10 4 = 0 := by simp only [seg]; omega
  have c2 : seg word 10 8 = 0 := by simp only [seg]; omega
  have f_d : seg word 18 5 = d.toNat := by simp only [seg]; omega
  have f_l : seg word 0 10 = l.toNat := by simp only [seg]; omega
  simp [decodeRaw, decode1E, fld, hM, c0, c1, c2, f_d, f_l]

theorem wlnest (b : BitVec 4) : Statement (.wlnest b) := by
  have b_b : b.toNat < 16 := b.isLt
  apply of_nat rfl (by simp only [put]; omega)
  generalize hw : 0x79800000 + put 18 b = word
  simp only [put] at hw
  have hM : seg word 26 5 = 0x1E := by simp only [seg]; omega
  have c0 : seg word 23 3 = 3 := by simp only [seg]; omega
  have c1 : seg word 10 4 = 0 := by simp only [seg]; omega
  have c2 : seg word 0 13 = 0 := by simp only [seg]; omega
  have c3 : seg word 10 8 = 0 := by simp only [seg]; omega
  have c4 : seg word 22 1 = 0 := by simp only [seg]; omega
  have c5 : seg word 0 18 = 0 := by simp only [seg]; omega
  have f_b : seg word 18 4 = b.toNat := by simp only [seg]; omega
  simp [decodeRaw, decode1E, fld, hM, c0, c1, c2, c3, c4, c5, f_b]

theorem tsucc (s : BitVec 5) : Statement (.tsucc s) := by
  have b_s : s.toNat < 32 := s.isLt
  apply of_nat rfl (by simp only [put]; omega)
  generalize hw : 0x7A000000 + put 13 s = word
  simp only [put] at hw
  have hM : seg word 26 5 = 0x1E := by simp only [seg]; omega
  have c0 : seg word 23 3 = 4 := by simp only [seg]; omega
  have c1 : seg word 0 13 = 0 := by simp only [seg]; omega
  have c2 : seg word 22 1 = 0 := by simp only [seg]; omega
  have c3 : seg word 18 4 = 0 := by simp only [seg]; omega
  have f_s : seg word 13 5 = s.toNat := by simp only [seg]; omega
  simp [decodeRaw, decode1E, fld, hM, c0, c1, c2, c3, f_s]

theorem rput (k : BitVec 1) (a : BitVec 4) (t : BitVec 4) (l : BitVec 5) (v : BitVec 5) : Statement (.rput k a t l v) := by
  have b_k : k.toNat < 2 := k.isLt
  have b_a : a.toNat < 16 := a.isLt
  have b_t : t.toNat < 16 := t.isLt
  have b_l : l.toNat < 32 := l.isLt
  have b_v : v.toNat < 32 := v.isLt
  apply of_nat rfl (by simp only [put]; omega)
  generalize hw : 0x7A800000 + put 22 k + put 18 a + put 14 t + put 9 l + put 4 v = word
  simp only [put] at hw
  have hM : seg word 26 5 = 0x1E := by simp only [seg]; omega
  have c0 : seg word 23 3 = 5 := by simp only [seg]; omega
  have c1 : seg word 0 4 = 0 := by simp only [seg]; omega
  have f_k : seg word 22 1 = k.toNat := by simp only [seg]; omega
  have f_a : seg word 18 4 = a.toNat := by simp only [seg]; omega
  have f_t : seg word 14 4 = t.toNat := by simp only [seg]; omega
  have f_l : seg word 9 5 = l.toNat := by simp only [seg]; omega
  have f_v : seg word 4 5 = v.toNat := by simp only [seg]; omega
  simp [decodeRaw, decode1E, fld, hM, c0, c1, f_k, f_a, f_t, f_l, f_v]

theorem rred (k : BitVec 1) (a : BitVec 4) (n : BitVec 5) (t : BitVec 5) : Statement (.rred k a n t) := by
  have b_k : k.toNat < 2 := k.isLt
  have b_a : a.toNat < 16 := a.isLt
  have b_n : n.toNat < 32 := n.isLt
  have b_t : t.toNat < 32 := t.isLt
  apply of_nat rfl (by simp only [put]; omega)
  generalize hw : 0x7B000000 + put 22 k + put 18 a + put 9 n + put 4 t = word
  simp only [put] at hw
  have hM : seg word 26 5 = 0x1E := by simp only [seg]; omega
  have c0 : seg word 23 3 = 6 := by simp only [seg]; omega
  have c1 : seg word 0 4 = 0 := by simp only [seg]; omega
  have c2 : seg word 14 4 = 0 := by simp only [seg]; omega
  have f_k : seg word 22 1 = k.toNat := by simp only [seg]; omega
  have f_a : seg word 18 4 = a.toNat := by simp only [seg]; omega
  have f_n : seg word 9 5 = n.toNat := by simp only [seg]; omega
  have f_t : seg word 4 5 = t.toNat := by simp only [seg]; omega
  simp [decodeRaw, decode1E, fld, hM, c0, c1, c2, f_k, f_a, f_n, f_t]

theorem objld (o : BitVec 6) (s : BitVec 5) : Statement (.objld o s) := by
  have b_o : o.toNat < 64 := o.isLt
  have b_s : s.toNat < 32 := s.isLt
  apply of_nat rfl (by simp only [put]; omega)
  generalize hw : 0x7B800000 + put 16 o + put 11 s = word
  simp only [put] at hw
  have hM : seg word 26 5 = 0x1E := by simp only [seg]; omega
  have c0 : seg word 23 3 = 7 := by simp only [seg]; omega
  have c1 : seg word 22 1 = 0 := by simp only [seg]; omega
  have c2 : seg word 0 4 = 0 := by simp only [seg]; omega
  have c3 : seg word 0 11 = 0 := by simp only [seg]; omega
  have f_o : seg word 16 6 = o.toNat := by simp only [seg]; omega
  have f_s : seg word 11 5 = s.toNat := by simp only [seg]; omega
  simp [decodeRaw, decode1E, fld, hM, c0, c1, c2, c3, f_o, f_s]

theorem objpub : Statement (.objpub) := by
  apply of_nat rfl (by omega)
  generalize hw : 0x7BC00000 = word
  have hw2 := hw
  have hM : seg word 26 5 = 0x1E := by simp only [seg]; omega
  have c0 : seg word 23 3 = 7 := by simp only [seg]; omega
  have c1 : seg word 10 4 = 0 := by simp only [seg]; omega
  have c2 : seg word 0 13 = 0 := by simp only [seg]; omega
  have c3 : seg word 10 8 = 0 := by simp only [seg]; omega
  have c4 : seg word 22 1 = 1 := by simp only [seg]; omega
  have c5 : seg word 0 18 = 0 := by simp only [seg]; omega
  have c6 : seg word 18 4 = 0 := by simp only [seg]; omega
  have c7 : seg word 0 4 = 0 := by simp only [seg]; omega
  have c8 : seg word 14 4 = 0 := by simp only [seg]; omega
  have c9 : seg word 0 11 = 0 := by simp only [seg]; omega
  have c10 : seg word 0 22 = 0 := by simp only [seg]; omega
  simp [decodeRaw, decode1E, fld, hM, c0, c1, c2, c3, c4, c5, c6, c7, c8, c9, c10]

theorem eqinit (d : BitVec 5) (b : BitVec 4) (l : BitVec 10) : Statement (.eqinit d b l) := by
  have b_d : d.toNat < 32 := d.isLt
  have b_b : b.toNat < 16 := b.isLt
  have b_l : l.toNat < 1024 := l.isLt
  apply of_nat rfl (by simp only [put]; omega)
  generalize hw : 0x7C000000 + put 17 d + put 13 b + put 0 l = word
  simp only [put] at hw
  have hM : seg word 26 5 = 0x1F := by simp only [seg]; omega
  have c0 : seg word 22 4 = 0 := by simp only [seg]; omega
  have c1 : seg word 10 3 = 0 := by simp only [seg]; omega
  have f_d : seg word 17 5 = d.toNat := by simp only [seg]; omega
  have f_b : seg word 13 4 = b.toNat := by simp only [seg]; omega
  have f_l : seg word 0 10 = l.toNat := by simp only [seg]; omega
  simp [decodeRaw, decode1F, fld, hM, c0, c1, f_d, f_b, f_l]

theorem equn (d : BitVec 5) (b : BitVec 4) (l : BitVec 10) : Statement (.equn d b l) := by
  have b_d : d.toNat < 32 := d.isLt
  have b_b : b.toNat < 16 := b.isLt
  have b_l : l.toNat < 1024 := l.isLt
  apply of_nat rfl (by simp only [put]; omega)
  generalize hw : 0x7C400000 + put 17 d + put 13 b + put 0 l = word
  simp only [put] at hw
  have hM : seg word 26 5 = 0x1F := by simp only [seg]; omega
  have c0 : seg word 22 4 = 1 := by simp only [seg]; omega
  have c1 : seg word 10 3 = 0 := by simp only [seg]; omega
  have f_d : seg word 17 5 = d.toNat := by simp only [seg]; omega
  have f_b : seg word 13 4 = b.toNat := by simp only [seg]; omega
  have f_l : seg word 0 10 = l.toNat := by simp only [seg]; omega
  simp [decodeRaw, decode1F, fld, hM, c0, c1, f_d, f_b, f_l]

theorem eqfd (d : BitVec 5) (b : BitVec 4) (l : BitVec 10) : Statement (.eqfd d b l) := by
  have b_d : d.toNat < 32 := d.isLt
  have b_b : b.toNat < 16 := b.isLt
  have b_l : l.toNat < 1024 := l.isLt
  apply of_nat rfl (by simp only [put]; omega)
  generalize hw : 0x7C800000 + put 17 d + put 13 b + put 0 l = word
  simp only [put] at hw
  have hM : seg word 26 5 = 0x1F := by simp only [seg]; omega
  have c0 : seg word 22 4 = 2 := by simp only [seg]; omega
  have c1 : seg word 10 3 = 0 := by simp only [seg]; omega
  have f_d : seg word 17 5 = d.toNat := by simp only [seg]; omega
  have f_b : seg word 13 4 = b.toNat := by simp only [seg]; omega
  have f_l : seg word 0 10 = l.toNat := by simp only [seg]; omega
  simp [decodeRaw, decode1F, fld, hM, c0, c1, f_d, f_b, f_l]

theorem eqsz (d : BitVec 5) (b : BitVec 4) (l : BitVec 10) : Statement (.eqsz d b l) := by
  have b_d : d.toNat < 32 := d.isLt
  have b_b : b.toNat < 16 := b.isLt
  have b_l : l.toNat < 1024 := l.isLt
  apply of_nat rfl (by simp only [put]; omega)
  generalize hw : 0x7CC00000 + put 17 d + put 13 b + put 0 l = word
  simp only [put] at hw
  have hM : seg word 26 5 = 0x1F := by simp only [seg]; omega
  have c0 : seg word 22 4 = 3 := by simp only [seg]; omega
  have c1 : seg word 10 3 = 0 := by simp only [seg]; omega
  have f_d : seg word 17 5 = d.toNat := by simp only [seg]; omega
  have f_b : seg word 13 4 = b.toNat := by simp only [seg]; omega
  have f_l : seg word 0 10 = l.toNat := by simp only [seg]; omega
  simp [decodeRaw, decode1F, fld, hM, c0, c1, f_d, f_b, f_l]

theorem eqcnt (d : BitVec 5) (b : BitVec 4) (l : BitVec 10) : Statement (.eqcnt d b l) := by
  have b_d : d.toNat < 32 := d.isLt
  have b_b : b.toNat < 16 := b.isLt
  have b_l : l.toNat < 1024 := l.isLt
  apply of_nat rfl (by simp only [put]; omega)
  generalize hw : 0x7D000000 + put 17 d + put 13 b + put 0 l = word
  simp only [put] at hw
  have hM : seg word 26 5 = 0x1F := by simp only [seg]; omega
  have c0 : seg word 22 4 = 4 := by simp only [seg]; omega
  have c1 : seg word 10 3 = 0 := by simp only [seg]; omega
  have f_d : seg word 17 5 = d.toNat := by simp only [seg]; omega
  have f_b : seg word 13 4 = b.toNat := by simp only [seg]; omega
  have f_l : seg word 0 10 = l.toNat := by simp only [seg]; omega
  simp [decodeRaw, decode1F, fld, hM, c0, c1, f_d, f_b, f_l]

theorem eqrl (d : BitVec 5) (b : BitVec 4) (l : BitVec 10) : Statement (.eqrl d b l) := by
  have b_d : d.toNat < 32 := d.isLt
  have b_b : b.toNat < 16 := b.isLt
  have b_l : l.toNat < 1024 := l.isLt
  apply of_nat rfl (by simp only [put]; omega)
  generalize hw : 0x7D400000 + put 17 d + put 13 b + put 0 l = word
  simp only [put] at hw
  have hM : seg word 26 5 = 0x1F := by simp only [seg]; omega
  have c0 : seg word 22 4 = 5 := by simp only [seg]; omega
  have c1 : seg word 10 3 = 0 := by simp only [seg]; omega
  have f_d : seg word 17 5 = d.toNat := by simp only [seg]; omega
  have f_b : seg word 13 4 = b.toNat := by simp only [seg]; omega
  have f_l : seg word 0 10 = l.toNat := by simp only [seg]; omega
  simp [decodeRaw, decode1F, fld, hM, c0, c1, f_d, f_b, f_l]

theorem eqsnap (d : BitVec 5) (b : BitVec 4) (l : BitVec 10) : Statement (.eqsnap d b l) := by
  have b_d : d.toNat < 32 := d.isLt
  have b_b : b.toNat < 16 := b.isLt
  have b_l : l.toNat < 1024 := l.isLt
  apply of_nat rfl (by simp only [put]; omega)
  generalize hw : 0x7D800000 + put 17 d + put 13 b + put 0 l = word
  simp only [put] at hw
  have hM : seg word 26 5 = 0x1F := by simp only [seg]; omega
  have c0 : seg word 22 4 = 6 := by simp only [seg]; omega
  have c1 : seg word 10 3 = 0 := by simp only [seg]; omega
  have f_d : seg word 17 5 = d.toNat := by simp only [seg]; omega
  have f_b : seg word 13 4 = b.toNat := by simp only [seg]; omega
  have f_l : seg word 0 10 = l.toNat := by simp only [seg]; omega
  simp [decodeRaw, decode1F, fld, hM, c0, c1, f_d, f_b, f_l]

theorem equndo (d : BitVec 5) (b : BitVec 4) (l : BitVec 10) : Statement (.equndo d b l) := by
  have b_d : d.toNat < 32 := d.isLt
  have b_b : b.toNat < 16 := b.isLt
  have b_l : l.toNat < 1024 := l.isLt
  apply of_nat rfl (by simp only [put]; omega)
  generalize hw : 0x7DC00000 + put 17 d + put 13 b + put 0 l = word
  simp only [put] at hw
  have hM : seg word 26 5 = 0x1F := by simp only [seg]; omega
  have c0 : seg word 22 4 = 7 := by simp only [seg]; omega
  have c1 : seg word 10 3 = 0 := by simp only [seg]; omega
  have f_d : seg word 17 5 = d.toNat := by simp only [seg]; omega
  have f_b : seg word 13 4 = b.toNat := by simp only [seg]; omega
  have f_l : seg word 0 10 = l.toNat := by simp only [seg]; omega
  simp [decodeRaw, decode1F, fld, hM, c0, c1, f_d, f_b, f_l]

theorem eqdrop (d : BitVec 5) (b : BitVec 4) (l : BitVec 10) : Statement (.eqdrop d b l) := by
  have b_d : d.toNat < 32 := d.isLt
  have b_b : b.toNat < 16 := b.isLt
  have b_l : l.toNat < 1024 := l.isLt
  apply of_nat rfl (by simp only [put]; omega)
  generalize hw : 0x7E000000 + put 17 d + put 13 b + put 0 l = word
  simp only [put] at hw
  have hM : seg word 26 5 = 0x1F := by simp only [seg]; omega
  have c0 : seg word 22 4 = 8 := by simp only [seg]; omega
  have c1 : seg word 10 3 = 0 := by simp only [seg]; omega
  have f_d : seg word 17 5 = d.toNat := by simp only [seg]; omega
  have f_b : seg word 13 4 = b.toNat := by simp only [seg]; omega
  have f_l : seg word 0 10 = l.toNat := by simp only [seg]; omega
  simp [decodeRaw, decode1F, fld, hM, c0, c1, f_d, f_b, f_l]

theorem hopRepairResume (h : Nat) : Statement (.hopRepairResume h) := of_none rfl
theorem taskPacketSend (d : Nat) : Statement (.taskPacketSend d) := of_none rfl
theorem taskPacketReceive (d : Nat) (hdr : RemoteHdr) (pkt : (List Byte)) : Statement (.taskPacketReceive d hdr pkt) := of_none rfl
theorem isaledinWriteRx (qp : Nat) (psn : Nat) (ce : Bool) (key : Word) (va : DWord) (bytes : (List Byte)) : Statement (.isaledinWriteRx qp psn ce key va bytes) := of_none rfl
theorem isaledinReadRequestRx (qp : Nat) (psn : Nat) (ce : Bool) (key : Word) (va : DWord) (len : Nat) : Statement (.isaledinReadRequestRx qp psn ce key va len) := of_none rfl
theorem slotArm (die : Nat) (slot : Nat) : Statement (.slotArm die slot) := of_none rfl
theorem slotDisarm (die : Nat) (slot : Nat) : Statement (.slotDisarm die slot) := of_none rfl
theorem contributionStaged (die : Nat) (con : Contribution) : Statement (.contributionStaged die con) := of_none rfl
theorem contributionAdd (die : Nat) : Statement (.contributionAdd die) := of_none rfl
theorem slotDeadline (die : Nat) (slot : Nat) : Statement (.slotDeadline die slot) := of_none rfl
theorem journalAppendAck (die : Nat) (slot : Nat) : Statement (.journalAppendAck die slot) := of_none rfl
theorem snapGo (e : Nat) : Statement (.snapGo e) := of_none rfl
theorem launchRecordConsume (ctx : Nat) : Statement (.launchRecordConsume ctx) := of_none rfl
theorem recordRepoll (ctx : Nat) : Statement (.recordRepoll ctx) := of_none rfl
theorem launchFirstRead (l : Nat) : Statement (.launchFirstRead l) := of_none rfl
theorem launchReport (l : Nat) : Statement (.launchReport l) := of_none rfl
theorem msixCoalesceExpiry (v : Nat) : Statement (.msixCoalesceExpiry v) := of_none rfl
theorem inboundRead (req : Nat) (off : Nat) (len : Nat) : Statement (.inboundRead req off len) := of_none rfl
theorem inboundWrite (req : Nat) (off : Nat) (bytes : Posted (List Byte)) : Statement (.inboundWrite req off bytes) := of_none rfl
theorem outboundTimeout (tag : Nat) : Statement (.outboundTimeout tag) := of_none rfl
theorem gangStart (l : Nat) (g : Nat) : Statement (.gangStart l g) := of_none rfl
theorem taskDispatch (die : Nat) : Statement (.taskDispatch die) := of_none rfl
theorem regionCopyInDone (cid : Nat) : Statement (.regionCopyInDone cid) := of_none rfl
theorem tendCopyOut (cid : Nat) : Statement (.tendCopyOut cid) := of_none rfl
theorem taskRetire (l : Nat) (uid : Nat) : Statement (.taskRetire l uid) := of_none rfl
theorem taskPreload (cid : Nat) : Statement (.taskPreload cid) := of_none rfl
theorem packetAccept (die : Nat) (l : Nat) (arr : Arrival) (pkt : (List Byte)) : Statement (.packetAccept die l arr pkt) := of_none rfl
theorem nestWalkerSpawn (l : Nat) (uid : Nat) : Statement (.nestWalkerSpawn l uid) := of_none rfl
theorem continuationReady (l : Nat) (uid : Nat) : Statement (.continuationReady l uid) := of_none rfl
theorem budgetExceeded (cid : Nat) : Statement (.budgetExceeded cid) := of_none rfl
theorem terminationWave (l : Nat) (shares : (List WaveShare)) : Statement (.terminationWave l shares) := of_none rfl
theorem floorPropose (l : Nat) : Statement (.floorPropose l) := of_none rfl
theorem proposeReceive (l : Nat) (hub : Nat) (p : Nat) : Statement (.proposeReceive l hub p) := of_none rfl
theorem proposeAckReceive (l : Nat) (hub : Nat) (b : Nat) : Statement (.proposeAckReceive l hub b) := of_none rfl
theorem commitReceive (l : Nat) (hub : Nat) (fc : Nat) : Statement (.commitReceive l hub fc) := of_none rfl
theorem holdReceive (l : Nat) (hub : Nat) : Statement (.holdReceive l hub) := of_none rfl
theorem pauseReceive (l : Nat) (hub : Nat) : Statement (.pauseReceive l hub) := of_none rfl
theorem pauseAckReceive (l : Nat) (hub : Nat) (present : Nat) (heldB : Nat) : Statement (.pauseAckReceive l hub present heldB) := of_none rfl
theorem resumeReceive (l : Nat) (hub : Nat) (fc : Nat) : Statement (.resumeReceive l hub fc) := of_none rfl
theorem bucketRefill (l : Nat) (hub : Nat) (b : Nat) : Statement (.bucketRefill l hub b) := of_none rfl
theorem reachUpdate (l : Nat) (v : Nat) : Statement (.reachUpdate l v) := of_none rfl
theorem stealRequest (l : Nat) (hub : Nat) : Statement (.stealRequest l hub) := of_none rfl
theorem stealRequestReceive (l : Nat) (giver : Nat) (thief : Nat) : Statement (.stealRequestReceive l giver thief) := of_none rfl
theorem stealTransferReceive (l : Nat) (giver : Nat) (thief : Nat) : Statement (.stealTransferReceive l giver thief) := of_none rfl
theorem stealAckReceive (l : Nat) (giver : Nat) (thief : Nat) : Statement (.stealAckReceive l giver thief) := of_none rfl
theorem stealRetry (l : Nat) (hub : Nat) : Statement (.stealRetry l hub) := of_none rfl
theorem deviceStealRequest (l : Nat) (from' : (Option Nat)) : Statement (.deviceStealRequest l from') := of_none rfl
theorem preemptRequest (cid : Nat) (why : StopWhy) : Statement (.preemptRequest cid why) := of_none rfl
theorem ckptlimExpiry (cid : Nat) : Statement (.ckptlimExpiry cid) := of_none rfl
theorem saveComplete (cid : Nat) : Statement (.saveComplete cid) := of_none rfl
theorem contextRestore (cid : Nat) : Statement (.contextRestore cid) := of_none rfl
theorem shadowCopyDone (l : Nat) (page : Nat) : Statement (.shadowCopyDone l page) := of_none rfl
theorem coreWake (cid : Nat) : Statement (.coreWake cid) := of_none rfl
theorem landingDataReturn (cid : Nat) (id : Nat) : Statement (.landingDataReturn cid id) := of_none rfl
theorem fetchComplete (cid : Nat) : Statement (.fetchComplete cid) := of_none rfl
theorem pageWalkDone (die : Nat) (ctx : Nat) (va : DWord) : Statement (.pageWalkDone die ctx va) := of_none rfl
theorem allocHoldTimeout (who : HoldWho) : Statement (.allocHoldTimeout who) := of_none rfl
theorem tileMoveComplete (cid : Nat) (q : Nat) : Statement (.tileMoveComplete cid q) := of_none rfl
theorem objldComplete (cid : Nat) : Statement (.objldComplete cid) := of_none rfl
theorem objpubComplete (cid : Nat) : Statement (.objpubComplete cid) := of_none rfl
theorem vqbalComplete (cid : Nat) : Statement (.vqbalComplete cid) := of_none rfl
theorem arrayOpStart (cid : Nat) : Statement (.arrayOpStart cid) := of_none rfl
theorem nestPark (cid : Nat) : Statement (.nestPark cid) := of_none rfl
theorem arrayOpComplete (cid : Nat) : Statement (.arrayOpComplete cid) := of_none rfl
theorem eqFindHop (op : Nat) : Statement (.eqFindHop op) := of_none rfl
theorem eqLink (op : Nat) : Statement (.eqLink op) := of_none rfl
theorem eqSizeDelta (op : Nat) : Statement (.eqSizeDelta op) := of_none rfl
theorem eqHoldEnd (op : Nat) : Statement (.eqHoldEnd op) := of_none rfl
theorem eqOpComplete (op : Nat) : Statement (.eqOpComplete op) := of_none rfl
theorem ackArrival (cid : Nat) (l : Nat) (n : Nat) (fate : Nat) : Statement (.ackArrival cid l n fate) := of_none rfl
theorem rputArrival (put : PutReq) : Statement (.rputArrival put) := of_none rfl
theorem windowAccessArrival (cid : Nat) (acc : WindowAccess) : Statement (.windowAccessArrival cid acc) := of_none rfl
theorem barrierArrival (way : Passage) (l : Nat) (bar : Nat) (rect : Rect) : Statement (.barrierArrival way l bar rect) := of_none rfl
theorem barrierPhaseDelivery (cid : Nat) (l : Nat) (bar : Nat) (phase : (BitVec 16)) : Statement (.barrierPhaseDelivery cid l bar phase) := of_none rfl
theorem ringUpdate (cid : Nat) : Statement (.ringUpdate cid) := of_none rfl
theorem flitReplay (h : Nat) : Statement (.flitReplay h) := of_none rfl
theorem retryWindowEnd (h : Nat) : Statement (.retryWindowEnd h) := of_none rfl
theorem hopRepair (h : Nat) (repaired : Bool) : Statement (.hopRepair h repaired) := of_none rfl
theorem sectorRead (ctx : Nat) (enc : Bool) (pa : Nat) : Statement (.sectorRead ctx enc pa) := of_none rfl
theorem sectorWrite (ctx : Nat) (enc : Bool) (pa : Nat) (bytes : (List Byte)) : Statement (.sectorWrite ctx enc pa bytes) := of_none rfl
theorem patrolScrub (pa : Nat) : Statement (.patrolScrub pa) := of_none rfl
theorem refreshManagement (ch : Nat) (row : Nat) : Statement (.refreshManagement ch row) := of_none rfl
theorem refreshManagementDone (ch : Nat) : Statement (.refreshManagementDone ch) := of_none rfl
theorem refreshWindowEnd (ch : Nat) : Statement (.refreshWindowEnd ch) := of_none rfl
theorem powerCapWindow (watts : Nat) : Statement (.powerCapWindow watts) := of_none rfl
theorem thermalThrottle : Statement (.thermalThrottle) := of_none rfl
theorem thermalShutdown : Statement (.thermalShutdown) := of_none rfl
theorem xogusFlitReplay (d : Nat) : Statement (.xogusFlitReplay d) := of_none rfl
theorem portRetrain (d : Nat) (ok : Bool) : Statement (.portRetrain d ok) := of_none rfl
theorem taskCreditReturn (d : Nat) (l : Nat) : Statement (.taskCreditReturn d l) := of_none rfl
theorem isaledinReadResponseRx (qp : Nat) (psn : Nat) (ce : Bool) (bytes : (List Byte)) : Statement (.isaledinReadResponseRx qp psn ce bytes) := of_none rfl
theorem isaledinAckRx (qp : Nat) (psn : Nat) (ce : Bool) (nak : Bool) : Statement (.isaledinAckRx qp psn ce nak) := of_none rfl
theorem isaledinReduceRx (qp : Nat) (psn : Nat) (ce : Bool) (con : Contribution) : Statement (.isaledinReduceRx qp psn ce con) := of_none rfl
theorem isaledinEnqueueRx (qp : Nat) (psn : Nat) (ce : Bool) (hdr : RemoteHdr) (pkt : (List Byte)) : Statement (.isaledinEnqueueRx qp psn ce hdr pkt) := of_none rfl
theorem isaledinUnsupportedRx (p : Nat) : Statement (.isaledinUnsupportedRx p) := of_none rfl
theorem isaledinRetransmitTimeout (qp : Nat) : Statement (.isaledinRetransmitTimeout qp) := of_none rfl
theorem pfcPauseRx (p : Nat) (prio : Nat) (on : Bool) : Statement (.pfcPauseRx p prio on) := of_none rfl
theorem ethLinkChange (p : Nat) (up : Bool) : Statement (.ethLinkChange p up) := of_none rfl
theorem viewInstall (e : Nat) (view : Word) : Statement (.viewInstall e view) := of_none rfl
theorem journalAppend (e : Nat) (entry : (List Byte)) : Statement (.journalAppend e entry) := of_none rfl
theorem snapshotComplete (e : Nat) (data : (Option (List Byte))) : Statement (.snapshotComplete e data) := of_none rfl
theorem qtailWrite (ctx : Nat) (v : Posted Word) : Statement (.qtailWrite ctx v) := of_none rfl
theorem msixUnmask (v : Nat) : Statement (.msixUnmask v) := of_none rfl
theorem contextEnable (ctx : Nat) : Statement (.contextEnable ctx) := of_none rfl
theorem contextDisable (ctx : Nat) : Statement (.contextDisable ctx) := of_none rfl
theorem contextFrozenClear (ctx : Nat) : Statement (.contextFrozenClear ctx) := of_none rfl
theorem inboundAtomicop (req : Nat) (off : Nat) : Statement (.inboundAtomicop req off) := of_none rfl
theorem outboundCompletion (tag : Nat) (ok : Bool) (bytes : (List Byte)) : Statement (.outboundCompletion tag ok bytes) := of_none rfl
theorem telemetry : Statement (.telemetry) := of_none rfl
theorem readBlock (off : Nat) : Statement (.readBlock off) := of_none rfl
theorem faultLog : Statement (.faultLog) := of_none rfl
theorem freeze (target : (Option Nat)) : Statement (.freeze target) := of_none rfl
theorem release (target : (Option Nat)) : Statement (.release target) := of_none rfl
theorem reset : Statement (.reset) := of_none rfl
theorem linkService (cmd : LinkCmd) : Statement (.linkService cmd) := of_none rfl
theorem fwUpdate (cmd : FwCmd) : Statement (.fwUpdate cmd) := of_none rfl
theorem attest (nonce : (List Byte)) : Statement (.attest nonce) := of_none rfl
theorem attestMailboxStart : Statement (.attestMailboxStart) := of_none rfl
theorem powerOn : Statement (.powerOn) := of_none rfl
theorem bringUpStageDone (ok : Bool) : Statement (.bringUpStageDone ok) := of_none rfl
theorem invGo : Statement (.invGo) := of_none rfl
theorem invDone : Statement (.invDone) := of_none rfl
theorem poolTailWrite (s : Nat) (big : Bool) (tail : Word) : Statement (.poolTailWrite s big tail) := of_none rfl
theorem counterClear (off : Nat) (ones : DWord) : Statement (.counterClear off ones) := of_none rfl
theorem registerWrite (off : Nat) (v : Posted DWord) : Statement (.registerWrite off v) := of_none rfl
theorem hubSoftError (die : Nat) (l : Nat) : Statement (.hubSoftError die l) := of_none rfl
theorem powerGate (cid : Nat) : Statement (.powerGate cid) := of_none rfl
theorem padSoftError (pad : PadId) (off : Nat) (bits : Nat) : Statement (.padSoftError pad off bits) := of_none rfl
theorem memorySymbolError (pa : Nat) (symbols : Nat) : Statement (.memorySymbolError pa symbols) := of_none rfl
theorem uncorrectableFabricError (chiplet : Nat) : Statement (.uncorrectableFabricError chiplet) := of_none rfl
theorem modulePowerLoss : Statement (.modulePowerLoss) := of_none rfl
theorem pcieLinkTraining (up : Bool) : Statement (.pcieLinkTraining up) := of_none rfl

end Sys2Proof.Laws.RoundTrip
end

