-- ==== Sys2Proof/Laws/Sectors.lean ====
section
/-! SUPPORT. Accesses to device memory: what needs no key answers, whatever the decoder of R31 finds and whatever the row that is activated; a sound
sector without an owner reads as memory holds it (R31 to R34). -/

namespace Sys2Proof.Machine
/-- A place that is reached without keys, or that is no device memory. -/
def Loc.keyless : Loc → Bool
  | .dev _ key _ => key.isNone
  | _ => true

/-- A sector read without keys answers (R32, R33). -/
theorem State.sectorRead_keyless (s : State) (pa n : Nat) (va : DWord) : ∃ bs t, s.sectorRead none pa n va = .ok (bs, t) := by
  simp only [State.sectorRead]
  split
  · exact ⟨_, _, rfl⟩
  · simp only [State.sectorView]
    cases SMap.find? ((s.activate pa).eccDecode (pa / 64)).2.enc (pa / 64) <;> exact ⟨_, _, rfl⟩

/-- What is read of a sound sector without keys and without an owner is what memory holds (R31, R33). -/
theorem State.sectorRead_sound (s : State) (pa n : Nat) (va : DWord) (h1 : SMap.find? s.ue (pa / 64) = none)
    (h2 : SMap.find? s.symErr (pa / 64) = none) (h3 : SMap.find? s.enc (pa / 64) = none) :
    s.sectorRead none pa n va = .ok (clean (Mem.read s.mem pa n), s.activate pa) := by
  have e : (s.activate pa).ue = s.ue ∧ (s.activate pa).symErr = s.symErr ∧ (s.activate pa).enc = s.enc ∧ (s.activate pa).mem = s.mem :=
    ⟨rfl, rfl, rfl, rfl⟩
  obtain ⟨a, b, c, d⟩ := e
  simp [State.sectorRead, State.eccDecode, State.sectorView, a, b, c, d, h1, h2, h3]

/-- A sector written without keys answers (R32, R34). -/
theorem State.sectorPut_keyless (s : State) (pa : Nat) (bs : List PByte) (va : DWord) : ∃ t, s.sectorPut none pa bs va = .ok ((), t) := by
  simp only [State.sectorPut]
  split
  · exact ⟨_, rfl⟩
  · split
    · exact ⟨_, rfl⟩
    · simp only [State.sectorView, Nat.mul_div_cancel_left _ (show 0 < 64 by decide)]
      cases SMap.find? (s.eccDecode (pa / 64)).2.enc (pa / 64) <;> exact ⟨_, rfl⟩

theorem State.sectorWrite_keyless (s : State) (pa : Nat) (bs : List PByte) (va : DWord) : ∃ t, s.sectorWrite none pa bs va = .ok ((), t) :=
  (s.activate pa).sectorPut_keyless pa bs va

theorem State.readLoc_keyless (s : State) (loc : Loc) (n : Nat) (va : DWord) (h : loc.keyless = true) : ∃ bs t, s.readLoc loc n va = .ok (bs, t) := by
  cases loc with
  | dev pa key kind => cases key with
    | none => exact s.sectorRead_keyless pa n va
    | some k => cases h
  | _ => exact ⟨_, _, rfl⟩

theorem State.writeLoc_keyless (s : State) (w : Who) (loc : Loc) (bs : List PByte) (va : DWord) (h : loc.keyless = true) :
    ∃ t, s.writeLoc w loc bs va = .ok ((), t) := by
  cases loc with
  | dev pa key kind => cases key with
    | none => obtain ⟨t, e⟩ := s.sectorWrite_keyless pa bs va; simp only [State.writeLoc, devStored, Access.bind, e]; exact ⟨_, rfl⟩
    | some k => cases h
  | group off => simp only [State.writeLoc]; split <;> exact ⟨_, rfl⟩
  | _ => exact ⟨_, rfl⟩

/-- Places that need no key are all read. -/
theorem State.readAll_keyless : ∀ (ps : List (Loc × Nat × Nat)) (s : State), (∀ p ∈ ps, p.1.keyless = true) → ∃ bs t, State.readAll ps s = .ok (bs, t)
  | [], s, _ => ⟨_, _, rfl⟩
  | (loc, a, n) :: ps, s, h => by
    obtain ⟨x, t, e⟩ := s.readLoc_keyless loc n (BitVec.ofNat 64 a) (h _ (List.mem_cons_self ..))
    obtain ⟨y, u, f⟩ := State.readAll_keyless ps t (fun p hp => h p (List.mem_cons_of_mem _ hp))
    exact ⟨x ++ y, u, by simp only [State.readAll, e, Access.bind, f]⟩

/-- Places that need no key are all written. -/
theorem State.writeAll_keyless (w : Who) : ∀ (ps : List (Loc × Nat × Nat)) (bs : List PByte) (s : State), (∀ p ∈ ps, p.1.keyless = true) →
    ∃ t, State.writeAll w ps bs s = .ok ((), t)
  | [], bs, s, _ => ⟨_, rfl⟩
  | (loc, a, n) :: ps, bs, s, h => by
    obtain ⟨t, e⟩ := s.writeLoc_keyless w loc (bs.take n) (BitVec.ofNat 64 a) (h _ (List.mem_cons_self ..))
    obtain ⟨u, f⟩ := State.writeAll_keyless w ps (bs.drop n) t (fun p hp => h p (List.mem_cons_of_mem _ hp))
    exact ⟨u, by simp only [State.writeAll, e, Access.bind, f]⟩

theorem State.readVa_keyless (s t : State) (w : Who) (va n : Nat) (ps : List (Loc × Nat × Nat))
    (h : State.resolveAll w .rd (pieces n va n) s = .ok (ps, t)) (k : ∀ p ∈ ps, p.1.keyless = true) : ∃ bs u, s.readVa w va n = .ok (bs, u) := by
  obtain ⟨bs, u, e⟩ := State.readAll_keyless ps t k
  exact ⟨bs, u, by simp only [State.readVa, h, Access.bind, e]⟩

theorem State.writeVa_keyless (s t : State) (w : Who) (va : Nat) (bs : List PByte) (ps : List (Loc × Nat × Nat))
    (h : State.resolveAll w .w (pieces bs.length va bs.length) s = .ok (ps, t)) (k : ∀ p ∈ ps, p.1.keyless = true) :
    ∃ u, s.writeVa w va bs = .ok ((), u) := by
  obtain ⟨u, e⟩ := State.writeAll_keyless w ps bs t k
  exact ⟨u, by simp only [State.writeVa, h, Access.bind, e]⟩
end Sys2Proof.Machine
end

