-- ==== Sys2Proof/Tests/Slice0.lean ====
section
/-! SUPPORT. Tests: terms that the well-formedness check refuses, words written out from the spec's encodings, small single steps, and for each
statement of the obligations concrete states and operands that meet its hypotheses. -/

namespace Sys2Proof.Tests

open Sys2Proof Sys2Proof.Machine

-- One theorem after another: the tests wait for the definitions before them, and many that wait at once hold a thread each.
set_option Elab.async false

/-! ### Helpers -/

/-- A task launch over die 0 that runs, with a handler. -/
def launch : Launch := { ctx := 0, lrec := { task := true, handler := 0x1000, log2w := 2, log2h := 2, weight := 1, objCount := 2 }, phase := .running }

/-- The reset state with a launch in slot 0 and a thread on core 0. -/
def with0 (t : Thread) (x : Launch := launch) : State := { State.reset with core := { cid := 0, t := t }, launches := [(0, x)] }

/-- A thread that runs. -/
def running : Thread := { mode := .run, taskOpen := true }

/-- Core 0 with one s register set. -/
def withS (n : BitVec 5) (v : Word) : State := with0 (running.setS n ⟨v, none⟩)

/-- Core 0 with one a register set. -/
def withA (n : BitVec 4) (v : DWord) : State := with0 (running.setA n ⟨v, none⟩)

/-- An address of the own L1. -/
def own (off : Nat) : DWord := BitVec.ofNat 64 (0xFF000000000000 + off)

/-- Whether an access answers. -/
def answers {α : Type} : Access α → Bool
  | .ok _ => true
  | .error _ => false

theorem of_answers {α : Type} (x : Access α) (h : answers x = true) : ∃ v s, x = .ok (v, s) := by
  cases x with
  | ok p => exact ⟨p.1, p.2, rfl⟩
  | error e => cases h

/-- Whether an access answers with a value and a state of a kind. -/
def answering {α : Type} (p : α → State → Bool) : Access α → Bool
  | .ok x => p x.1 x.2
  | .error _ => false

theorem of_answering {α : Type} (p : α → State → Bool) (x : Access α) (h : answering p x = true) : ∃ v s, x = .ok (v, s) ∧ p v s = true := by
  cases x with
  | ok q => exact ⟨q.1, q.2, rfl, h⟩
  | error e => cases h

/-- The state of an access that answers, and that an access answers with a value. -/
def stOf {α : Type} : Access α → State
  | .ok x => x.2
  | .error _ => State.reset
def gives {α : Type} [DecidableEq α] (v : α) : Access α → Bool
  | .ok x => decide (x.1 = v)
  | .error _ => false

theorem ok_of {α : Type} [DecidableEq α] (x : Access α) (v : α) (h : gives v x = true) : x = .ok (v, stOf x) := by
  cases x with
  | ok q => simp only [gives, decide_eq_true_eq] at h; simp only [stOf, ← h]
  | error e => cases h

theorem of_found {α : Type} (x : Option α × State) (h : x.1.isSome = true) : ∃ v s, x = (some v, s) := by
  obtain ⟨v, hv⟩ := Option.isSome_iff_exists.mp h
  exact ⟨v, x.2, Prod.ext hv rfl⟩

theorem of_missing {α : Type} (x : Option α × State) (h : x.1.isNone = true) : ∃ s, x = (none, s) :=
  ⟨x.2, Prod.ext (Option.isNone_iff_eq_none.mp h) rfl⟩

/-- The state with page tables that map 1 GiB at virtual address 0 of context 0 to the second GiB of device memory. -/
def walked (s : State) (bytes : List Host.Cell := []) : State :=
  { s with mem := [(1, 0x10), (5, 1), (0x1003, 0x40), (0x1005, 2), (0x1007, 0x0E)] ++ bytes }

/-- The state with a page of 1 GiB at virtual address 0 for context 0, readable, writable and executable, in die 0's translation cache. -/
def mapped (s : State) (bytes : List Host.Cell := []) : State :=
  { s with tlbs := [(0, [⟨0, 0, 30, 0x0E00020040000000⟩])], mem := bytes }

/-- Whether an outcome is a next state. -/
def goesOn : Out → Bool
  | .next _ => true
  | _ => false

theorem of_goesOn (x : Out) (h : goesOn x = true) : ∃ s, x = .next s := by
  cases x with
  | next s => exact ⟨s, rfl⟩
  | fault f => cases h
  | refused r => cases h


/-- An access whose places need no key answers. -/
theorem reads_at (s : State) (w : Who) (va n : Nat) (ps : List (Loc × Nat × Nat)) (h : gives ps (State.resolveAll w .rd (pieces n va n) s) = true)
    (k : ps.all (fun p => p.1.keyless) = true) : ∃ bs u, s.readVa w va n = .ok (bs, u) :=
  State.readVa_keyless s _ w va n ps (ok_of _ _ h) (by simpa using k)

theorem writes_at (s : State) (w : Who) (va : Nat) (bs : List PByte) (ps : List (Loc × Nat × Nat))
    (h : gives ps (State.resolveAll w .w (pieces bs.length va bs.length) s) = true)
    (k : ps.all (fun p => p.1.keyless) = true) : ∃ u, s.writeVa w va bs = .ok ((), u) :=
  State.writeVa_keyless s _ w va bs ps (ok_of _ _ h) (by simpa using k)
/-! ### Ill-formed terms, one for each check -/

theorem test_wf_refuses_operands :
    Instr.wf (.tsusp 31 0) = false ∧ Instr.wf (.tsusp 32 62) = false ∧ Instr.wf (.ckpt 5) = false ∧ Instr.wf (.trap 40) = false
    ∧ Instr.wf (.sadd 4 0 32 0) = false ∧ Instr.wf (.sadd 4 0 0 47) = false ∧ Instr.wf (.sclz 4 0 33) = false ∧ Instr.wf (.saddi 4 0 32 0) = false
    ∧ Instr.wf (.aaddi 32 0 4 0) = false ∧ Instr.wf (.aadd 32 0 32 33) = false ∧ Instr.wf (.aset 32 0 32 0) = false
    ∧ Instr.wf (.aget 4 0 31) = false ∧ Instr.wf (.brCc 10 0 0) = false ∧ Instr.wf (.brCc 0 62 0) = false ∧ Instr.wf (.call 4 0) = false
    ∧ Instr.wf (.jtab 4 4) = false ∧ Instr.wf (.scmpCc 4 0 0 0 10) = false ∧ Instr.wf (.ssel 4 0 0 0 32) = false := by decide

theorem test_wf_refuses_destinations :
    Instr.wf (.sadd 4 1 0 0) = false ∧ Instr.wf (.sadd 32 0 0 0) = false ∧ Instr.wf (.csrd 48 0 0) = false ∧ Instr.wf (.aadd 31 0 32 0) = false
    ∧ Instr.wf (.vadd 48 0 0 0 0) = false ∧ Instr.wf (.vcmpCc 8 0 0 0 0 0) = false ∧ Instr.wf (.ld 2 48 0 0 0) = false
    ∧ Instr.wf (.tlget 0 48) = false ∧ Instr.wf (.racq 0 0 31) = false ∧ Instr.wf (.rinfo 0 32) = false := by decide

theorem test_wf_refuses_limits :
    Instr.wf (.csrd 4 0 24) = false ∧ Instr.wf (.cswr 4 9) = false ∧ Instr.wf (.viadd 0 0 0 0 0 3) = false
    ∧ Instr.wf (.vcvt 0 0 0 5 0 0 0) = false ∧ Instr.wf (.vcvt 0 0 0 0 0 0 3) = false ∧ Instr.wf (.vcvt 0 0 0 0 0 1 0) = false
    ∧ Instr.wf (.vdot4 0 0 0 0 0 0 0) = false ∧ Instr.wf (.vld 0 0 31 0 0) = false ∧ Instr.wf (.vpushc 4 0 1) = false
    ∧ Instr.wf (.vpushc 0 0 0) = false ∧ Instr.wf (.vcmpCc 0 0 0 0 0 6) = false ∧ Instr.wf (.kand 0 0 8 0) = false
    ∧ Instr.wf (.slen 3) = false ∧ Instr.wf (.sprof 13) = false ∧ Instr.wf (.sgo 0 13) = false ∧ Instr.wf (.sstop 0 17) = false
    ∧ Instr.wf (.sread 1 0 0) = false ∧ Instr.wf (.ld 2 4 0 1 32) = false ∧ Instr.wf (.ldl 2 4 0 0 0) = false
    ∧ Instr.wf (.amoOp 5 0 0 0 0 1) = false ∧ Instr.wf (.amoOp 0 7 0 31 0 1) = false ∧ Instr.wf (.fence 6) = false
    ∧ Instr.wf (.tlbump 5 0) = false ∧ Instr.wf (.equn 31 0 1) = false ∧ Instr.wf (.wlfloor 0 0) = false := by decide

/-! ### Words of the spec's worked examples -/

/-- The words of R268's example and of the chapter on control, with the fields that the spec lists for them. -/
theorem test_decode_example_scalar :
    (decode 0xEE880008#32).toOption = some (.ldl 2 4 0 0 8) ∧ chainBit 0xEE880008#32 = true
    ∧ (decode 0x04090480#32).toOption = some (.sadd 0 1 8 9) ∧ (decode 0x04360500#32).toOption = some (.sadd 3 0 48 10)
    ∧ (decode 0x20420000#32).toOption = some (.rep 4 0 0 1 0) ∧ (decode 0x04306580#32).toOption = some (.sadd 3 0 3 11)
    ∧ (decode 0x6D831000#32).toOption = some (.st 2 3 1 0 0) ∧ (decode 0x6D851004#32).toOption = some (.st 2 5 1 0 4)
    ∧ (decode 0x0870E001#32).toOption = some (.saddi 7 0 7 1) ∧ (decode 0x12402103#32).toOption = some (.aset 36 0 1 2) := by decide

/-- The words of the examples of the chapters on the V pipe, the stream array, and memory. -/
theorem test_decode_example_units :
    (decode 0xCC040000#32).toOption = some (.vld 0 0 32 0 0) ∧ chainBit 0xCC040000#32 = true
    ∧ (decode 0x50101C02#32).toOption = some (.vcmpCc 1 0 0 56 0 2) ∧ (decode 0x50170048#32).toOption = some (.vsel 1 0 56 0 1)
    ∧ (decode 0x4C004004#32).toOption = some (.vpushcCfg 0 2) ∧ (decode 0x4C006014#32).toOption = some (.vpushc 0 3 1)
    ∧ (decode 0x4C400005#32).toOption = some (.vpopc 4 0 0 0) ∧ (decode 0x58000006#32).toOption = some (.slen 6)
    ∧ (decode 0x58400403#32).toOption = some (.sseed 1 3) ∧ (decode 0x58802800#32).toOption = some (.sprof 5)
    ∧ (decode 0x58C00007#32).toOption = some (.smode 7) ∧ (decode 0x0C104000#32).toOption = some (.sli 1 0 0x4000)
    ∧ (decode 0x6D854004#32).toOption = some (.st 2 5 4 0 4) ∧ (decode 0x75FCC9F4#32).toOption = some (.amoOp 3 7 3 6 2 500)
    ∧ (decode 0x7790A000#32).toOption = some (.bara 5) ∧ (decode 0x7B500A60#32).toOption = some (.rred 1 4 5 6)
    ∧ (decode 0x7A848640#32).toOption = some (.rput 0 1 2 3 4) ∧ (decode 0x7C48612C#32).toOption = some (.equn 4 3 300) := by decide

/-- Words that are no instruction are refused by name (R267). -/
theorem test_decode_refuses :
    (match decode 0x28000000#32 with | .error e => e == .major | _ => false) = true
    ∧ (match decode 0x00000007#32 with | .error e => e == .operation | _ => false) = true
    ∧ (match decode 0x04480480#32 with | .error e => e == .operand | _ => false) = true
    ∧ (match decodeBytes [0, 0, 0] with | .error e => e == .short | _ => false) = true := by decide

/-! ### Every word of the opcode table, with distinct operands at the bit places that the table gives -/

theorem test_decode_major_00 :
    (decode 0x00000000#32).toOption = some (.nop)
    ∧ (decode 0x00000001#32).toOption = some (.tend)
    ∧ (decode 0x00052982#32).toOption = some (.tsusp 41 19)
    ∧ (decode 0x00000003#32).toOption = some (.tyield)
    ∧ (decode 0x0005C004#32).toOption = some (.ckpt 46)
    ∧ (decode 0x0000C005#32).toOption = some (.trap 6)
    ∧ (decode 0x00000006#32).toOption = some (.eret)
    ∧ (decode 0x01200508#32).toOption = some (.csrd 18 0 10)
    ∧ (decode 0x00038289#32).toOption = some (.cswr 28 5)
    ∧ (decode 0x0007438A#32).toOption = some (.csset 58 7)
    ∧ (decode 0x00074A0B#32).toOption = some (.csclr 58 20)
    ∧ (decode 0x0000000C#32).toOption = some (.wfe)
    ∧ (decode 0x0000000D#32).toOption = some (.sleep) := by decide

theorem test_decode_major_01 :
    (decode 0x05834380#32).toOption = some (.sadd 24 0 26 7)
    ∧ (decode 0x04E3E801#32).toOption = some (.ssub 14 0 31 16)
    ∧ (decode 0x04363A82#32).toOption = some (.smul 3 0 49 53)
    ∧ (decode 0x0481BE83#32).toOption = some (.smulh 8 0 13 61)
    ∧ (decode 0x04D25804#32).toOption = some (.smulhu 13 0 18 48)
    ∧ (decode 0x04529C05#32).toOption = some (.sdiv 5 0 20 56)
    ∧ (decode 0x05437A86#32).toOption = some (.sdivu 20 0 27 53)
    ∧ (decode 0x05D64507#32).toOption = some (.srem 29 0 50 10)
    ∧ (decode 0x0483ED08#32).toOption = some (.sremu 8 0 31 26)
    ∧ (decode 0x0582FB09#32).toOption = some (.sand 24 0 23 54)
    ∧ (decode 0x05D1A48A#32).toOption = some (.sor 29 0 13 9)
    ∧ (decode 0x0422410B#32).toOption = some (.sxor 2 0 18 2)
    ∧ (decode 0x05733E8C#32).toOption = some (.sshl 23 0 25 61)
    ∧ (decode 0x05D20A8D#32).toOption = some (.sshr 29 0 16 21)
    ∧ (decode 0x0541E30E#32).toOption = some (.ssra 20 0 15 6)
    ∧ (decode 0x0541618F#32).toOption = some (.smin 20 0 11 3)
    ∧ (decode 0x05B62310#32).toOption = some (.smax 27 0 49 6)
    ∧ (decode 0x04819B91#32).toOption = some (.sminu 8 0 12 55)
    ∧ (decode 0x04133812#32).toOption = some (.smaxu 1 0 25 48)
    ∧ (decode 0x05F34013#32).toOption = some (.sclz 31 0 26)
    ∧ (decode 0x05930014#32).toOption = some (.spopc 25 0 24) := by decide

theorem test_decode_major_02 :
    (decode 0x09902349#32).toOption = some (.saddi 25 0 1 841)
    ∧ (decode 0x0932859B#32).toOption = some (.sandi 19 0 20 411)
    ∧ (decode 0x09A74A33#32).toOption = some (.sori 26 0 58 563)
    ∧ (decode 0x09428D5F#32).toOption = some (.sxori 20 0 20 351)
    ∧ (decode 0x0862501F#32).toOption = some (.sshli 6 0 18 31)
    ∧ (decode 0x09F0D405#32).toOption = some (.sshri 31 0 6 5)
    ∧ (decode 0x09429808#32).toOption = some (.ssrai 20 0 20 8)
    ∧ (decode 0x0A045DFB#32).toOption = some (.aaddi 32 0 34 507) := by decide

theorem test_decode_major_03 :
    (decode 0x0C6185FD#32).toOption = some (.sli 6 0 99837)
    ∧ (decode 0x0C8545B8#32).toOption = some (.slui 8 0 83384) := by decide

theorem test_decode_major_04 :
    (decode 0x12970500#32).toOption = some (.aadd 41 0 56 10)
    ∧ (decode 0x12976101#32).toOption = some (.asub 41 0 59 2)
    ∧ (decode 0x12148002#32).toOption = some (.amov 33 0 36)
    ∧ (decode 0x1236C503#32).toOption = some (.aset 35 0 54 10)
    ∧ (decode 0x1086E004#32).toOption = some (.aget 8 0 55)
    ∧ (decode 0x11D40005#32).toOption = some (.agetHi 29 0 32) := by decide

theorem test_decode_major_05 :
    (decode 0x151DC179#32).toOption = some (.brCc 4 29 49529) := by decide

theorem test_decode_major_06 :
    (decode 0x180B070F#32).toOption = some (.jmp 198415)
    ∧ (decode 0x1AD30065#32).toOption = some (.call 45 196709) := by decide

theorem test_decode_major_07 :
    (decode 0x1C05A000#32).toOption = some (.jind 45)
    ∧ (decode 0x1C04E481#32).toOption = some (.jtab 39 9)
    ∧ (decode 0x1C04C002#32).toOption = some (.ret 38) := by decide

theorem test_decode_major_08 :
    (decode 0x23C40000#32).toOption = some (.rep 60 0 1 0 0) := by decide

theorem test_decode_major_09 :
    (decode 0x24B2038C#32).toOption = some (.scmpCc 11 0 16 7 6)
    ∧ (decode 0x2403214E#32).toOption = some (.scmpiCc 0 0 25 2 7)
    ∧ (decode 0x24B0A921#32).toOption = some (.ssel 11 0 5 18 16) := by decide

theorem test_decode_major_0C :
    (decode 0x30733880#32).toOption = some (.vadd 7 0 25 49 0)
    ∧ (decode 0x31014201#32).toOption = some (.vsub 16 0 10 4 0)
    ∧ (decode 0x3025EF02#32).toOption = some (.vmul 2 0 47 30 0)
    ∧ (decode 0x30A09103#32).toOption = some (.vmin 10 0 4 34 0)
    ∧ (decode 0x31200004#32).toOption = some (.vmax 18 0 0 0 0)
    ∧ (decode 0x30124005#32).toOption = some (.vabs 1 0 18 0)
    ∧ (decode 0x32E4000E#32).toOption = some (.vneg 46 0 32 1) := by decide

theorem test_decode_major_0D :
    (decode 0x3646BEC0#32).toOption = some (.viadd 36 0 53 61 1 0)
    ∧ (decode 0x36D15ED1#32).toOption = some (.visub 45 0 10 61 1 1)
    ∧ (decode 0x34F75152#32).toOption = some (.vimul 15 0 58 34 1 1)
    ∧ (decode 0x34369913#32).toOption = some (.vimin 3 0 52 50 1)
    ∧ (decode 0x34965D04#32).toOption = some (.vimax 9 0 50 58 0)
    ∧ (decode 0x36357605#32).toOption = some (.vand 35 0 43 44)
    ∧ (decode 0x35C17806#32).toOption = some (.vor 28 0 11 48)
    ∧ (decode 0x3432C187#32).toOption = some (.vxor 3 0 22 3)
    ∧ (decode 0x36017E18#32).toOption = some (.vshl 32 0 11 60 1)
    ∧ (decode 0x36E1E189#32).toOption = some (.vshr 46 0 15 3 0)
    ∧ (decode 0x3587599A#32).toOption = some (.vsra 24 0 58 51 1) := by decide

theorem test_decode_major_0E :
    (decode 0x39932380#32).toOption = some (.vfma 25 0 25 7 0)
    ∧ (decode 0x39C23C09#32).toOption = some (.vfms 28 0 17 56 1) := by decide

theorem test_decode_major_0F :
    (decode 0x3CB300F0#32).toOption = some (.vcvt 11 0 24 0 0 0 30) := by decide

theorem test_decode_major_10 :
    (decode 0x4295E000#32).toOption = some (.vexp2 41 0 47)
    ∧ (decode 0x42634001#32).toOption = some (.vlog2 38 0 26)
    ∧ (decode 0x4004E002#32).toOption = some (.vrcp 0 0 39)
    ∧ (decode 0x4222A003#32).toOption = some (.vrsq 34 0 21)
    ∧ (decode 0x40826784#32).toOption = some (.vhash 8 0 19 15) := by decide

theorem test_decode_major_11 :
    (decode 0x45F15CE4#32).toOption = some (.vdot4 31 0 10 57 1 1 1)
    ∧ (decode 0x4452C601#32).toOption = some (.vdot2 5 0 22 12) := by decide

theorem test_decode_major_12 :
    (decode 0x4AF78000#32).toOption = some (.vbcast 47 0 60)
    ∧ (decode 0x4956B881#32).toOption = some (.vlane 21 0 53 49)
    ∧ (decode 0x4836DD82#32).toOption = some (.vperm 3 0 54 59)
    ∧ (decode 0x4A31C003#32).toOption = some (.xcopy 35 0 14 0)
    ∧ (decode 0x4A56E008#32).toOption = some (.vredAddF32 37 0 55)
    ∧ (decode 0x4A364009#32).toOption = some (.vredMinF32 35 0 50)
    ∧ (decode 0x4AC5200A#32).toOption = some (.vredMaxF32 44 0 41)
    ∧ (decode 0x4965C00B#32).toOption = some (.vredAddI32 22 0 46)
    ∧ (decode 0x4872600C#32).toOption = some (.vredMinI32 7 0 19)
    ∧ (decode 0x4871200D#32).toOption = some (.vredMaxI32 7 0 9) := by decide

theorem test_decode_major_13 :
    (decode 0x4CF4C500#32).toOption = some (.vld 15 0 38 10 0)
    ∧ (decode 0x4DE52CA1#32).toOption = some (.vst 30 41 25 2)
    ∧ (decode 0x4CA5E372#32).toOption = some (.vgath 10 0 47 6 7)
    ∧ (decode 0x4F756513#32).toOption = some (.vscat 55 43 10 1)
    ∧ (decode 0x4C360004#32).toOption = some (.vpushcCfg 3 48)
    ∧ (decode 0x4C220044#32).toOption = some (.vpushc 2 16 4)
    ∧ (decode 0x4D600125#32).toOption = some (.vpopc 22 0 2 2)
    ∧ (decode 0x4C000006#32).toOption = some (.vqbal 0)
    ∧ (decode 0x4DA00007#32).toOption = some (.vqcnt 26 0 0) := by decide

theorem test_decode_major_14 :
    (decode 0x50503A24#32).toOption = some (.vcmpCc 5 0 1 52 2 4)
    ∧ (decode 0x51701B58#32).toOption = some (.vsel 23 0 0 54 3)
    ∧ (decode 0x5030A341#32).toOption = some (.kand 3 0 5 6)
    ∧ (decode 0x5030A342#32).toOption = some (.kor 3 0 5 6)
    ∧ (decode 0x50004043#32).toOption = some (.knot 0 0 2)
    ∧ (decode 0x50C0E044#32).toOption = some (.kcnt 12 0 7) := by decide

theorem test_decode_major_16 :
    (decode 0x5800000C#32).toOption = some (.slen 12)
    ∧ (decode 0x58400413#32).toOption = some (.sseed 1 19)
    ∧ (decode 0x58800800#32).toOption = some (.sprof 1)
    ∧ (decode 0x58C00014#32).toOption = some (.smode 20) := by decide

theorem test_decode_major_17 :
    (decode 0x5C38000C#32).toOption = some (.ntset 7 0 12)
    ∧ (decode 0x5C580000#32).toOption = some (.ntclr 3) := by decide

theorem test_decode_major_18 :
    (decode 0x60000486#32).toOption = some (.wbld 9 6)
    ∧ (decode 0x6040000A#32).toOption = some (.wlatch 0 10) := by decide

theorem test_decode_major_19 :
    (decode 0x64284000#32).toOption = some (.sgo 5 8)
    ∧ (decode 0x644005E1#32).toOption = some (.sconf 47 1)
    ∧ (decode 0x64A0000E#32).toOption = some (.sstop 4 14)
    ∧ (decode 0x64C002D8#32).toOption = some (.spart 22 24) := by decide

theorem test_decode_major_1A :
    (decode 0x6804A4D6#32).toOption = some (.sread 148 38 22)
    ∧ (decode 0x68400000#32).toOption = some (.sclr)
    ∧ (decode 0x688003E0#32).toOption = some (.sebnd 31) := by decide

theorem test_decode_major_1B :
    (decode 0x6C002566#32).toOption = some (.ld 0 0 2 0 1382)
    ∧ (decode 0x6DCB242C#32).toOption = some (.st 3 11 2 0 1068)
    ∧ (decode 0x6E558EEC#32).toOption = some (.ldl 1 10 6 3 748)
    ∧ (decode 0x6F348788#32).toOption = some (.str 0 52 8 0 1928) := by decide

theorem test_decode_major_1C :
    (decode 0x704DF700#32).toOption = some (.tmov 0 1 13 15 14)
    ∧ (decode 0x71512C00#32).toOption = some (.tmovq 0 1 17 2 24)
    ∧ (decode 0x72A9CE00#32).toOption = some (.tfill 1 41 12 28) := by decide

theorem test_decode_major_1D :
    (decode 0x75FAA646#32).toOption = some (.amoOp 3 7 2 21 1 582)
    ∧ (decode 0x768DAB66#32).toOption = some (.ldAcq 0 3 13 2 870)
    ∧ (decode 0x77016F80#32).toOption = some (.stRel 0 2 27 7)
    ∧ (decode 0x77160000#32).toOption = some (.fence 3)
    ∧ (decode 0x7726D000#32).toOption = some (.waittl 3 26)
    ∧ (decode 0x773F1800#32).toOption = some (.tlget 7 35)
    ∧ (decode 0x774EA800#32).toOption = some (.tlbump 7 21)
    ∧ (decode 0x7782EB00#32).toOption = some (.bari 23 22)
    ∧ (decode 0x77966000#32).toOption = some (.bara 51)
    ∧ (decode 0x77A78000#32).toOption = some (.barw 60)
    ∧ (decode 0x77B11300#32).toOption = some (.racq 4 0 38)
    ∧ (decode 0x77C2A000#32).toOption = some (.rrel 10 1)
    ∧ (decode 0x77D2C980#32).toOption = some (.rinfo 11 19) := by decide

theorem test_decode_major_1E :
    (decode 0x784C80FE#32).toOption = some (.wlpush 19 2 254)
    ∧ (decode 0x78A9E000#32).toOption = some (.wlpushr 0 10 15)
    ∧ (decode 0x7904020F#32).toOption = some (.wlfloor 1 527)
    ∧ (decode 0x79A40000#32).toOption = some (.wlnest 9)
    ∧ (decode 0x7A008000#32).toOption = some (.tsucc 4)
    ∧ (decode 0x7AF605B0#32).toOption = some (.rput 1 13 8 2 27)
    ∧ (decode 0x7B303450#32).toOption = some (.rred 0 12 26 5)
    ∧ (decode 0x7B847800#32).toOption = some (.objld 4 15)
    ∧ (decode 0x7BC00000#32).toOption = some (.objpub) := by decide

theorem test_decode_major_1F :
    (decode 0x7C39E30B#32).toOption = some (.eqinit 28 15 779)
    ∧ (decode 0x7C48C05D#32).toOption = some (.equn 4 6 93)
    ∧ (decode 0x7CB32283#32).toOption = some (.eqfd 25 9 643)
    ∧ (decode 0x7CFBA2D9#32).toOption = some (.eqsz 29 13 729)
    ∧ (decode 0x7D00A2D9#32).toOption = some (.eqcnt 0 5 729)
    ∧ (decode 0x7D6D21F1#32).toOption = some (.eqrl 22 9 497)
    ∧ (decode 0x7D9B20CD#32).toOption = some (.eqsnap 13 9 205)
    ∧ (decode 0x7DE963A8#32).toOption = some (.equndo 20 11 936)
    ∧ (decode 0x7E1DA147#32).toOption = some (.eqdrop 14 13 327) := by decide

/-! ### Single steps and values, each with its result from a worked example of the spec or by hand from the rule named -/

/-- What an outcome put in flight last. -/
def sent (x : Out) : Option Flight :=
  match x with
  | .next s => s.core.t.flights.getLast?
  | _ => none

/-- R272: SDIV of 17 by 0 gives 0xFFFF_FFFF and SREM 0x0000_0011; SREM of −7 by 2 gives −1. -/
theorem test_divide :
    sent (exec (.sdiv 4 0 8 9) (withS 8 17)) = some ⟨12, .cResult 4 false ⟨0xFFFFFFFFFFFFFFFF, none⟩⟩
    ∧ sent (exec (.srem 4 0 8 9) (withS 8 17)) = some ⟨12, .cResult 4 false ⟨0x11, none⟩⟩
    ∧ sent (exec (.srem 4 0 8 9) (with0 ((running.setS 8 ⟨-7, none⟩).setS 9 ⟨2, none⟩))) = some ⟨12, .cResult 4 false ⟨0xFFFFFFFFFFFFFFFF, none⟩⟩ := by
  decide +kernel

/-- R271: a sum wraps; a shift takes the low five bits of b; a right shift with sign keeps it. -/
theorem test_scalar_wraps :
    sent (exec (.sadd 4 0 8 8) (withS 8 0x80000001)) = some ⟨1, .cResult 4 false ⟨2, none⟩⟩
    ∧ sent (exec (.sshl 4 0 8 8) (withS 8 0x80000021)) = some ⟨1, .cResult 4 false ⟨0x42, none⟩⟩
    ∧ sent (exec (.ssra 4 0 8 8) (withS 8 0x80000024)) = some ⟨1, .cResult 4 false ⟨0xFFFFFFFFF8000002, none⟩⟩ := by decide +kernel

/-- R274: 0x1234_5678 by SLI of 0x1678 and SLUI of 0x48D1 over it. -/
theorem test_constant :
    sent (exec (.sli 4 0 0x1678) (withS 8 0)) = some ⟨1, .cResult 4 false ⟨0x1678, none⟩⟩
    ∧ sent (exec (.slui 4 0 0x48D1) (withS 4 0x1678)) = some ⟨1, .cResult 4 false ⟨0x12345678, none⟩⟩ := by decide +kernel

/-- R30: PA 0x41_2345_6800 lies on channel 45. -/
theorem test_channel : channelOf 0x4123456800 = 45 := by decide

/-- R304's example: 1.3 to signed binary8p4 by RNE and by SR with two rounding operands. -/
theorem test_convert :
    vcvtLane .rne false false 0x14 0x3FA66666 0 = (0x42, Exc.nx) ∧ vcvtLane .sr false false 0x14 0x3FA66666 0x000A0000 = (0x43, Exc.nx)
    ∧ vcvtLane .sr false false 0x14 0x3FA66666 0x00010000 = (0x42, Exc.nx) := by decide +kernel

/-- R305's example: 2^24 and two products of 0.75 rounded once. -/
theorem test_dot : toF32 (dotSum (decodeF32 0x4B800000) (dotPairs4 false false 4 0x00003C3C 0x00004040)) = (0x4B800001, Exc.nx) := by decide +kernel

/-- The example of the chapter on numerics: the streams of 5 and 12 at m = 4 with seeds 0, and the decoded product −3. -/
theorem test_streams :
    (List.range 16).filter (fun i => 5 > thresholdA 4 0 0 i) = (List.range 16).filter (fun i => (0x1115).testBit i)
    ∧ (List.range 16).filter (fun i => 12 > thresholdB 4 0 i) = (List.range 16).filter (fun i => (0xDE7B).testBit i)
    ∧ decodedProduct ⟨4, false, 0, 0, false, ⟨0, 0, 0⟩⟩ 0 0 16 5 12 true = -3 := by decide +kernel

/-- The words of the examples of the chapter on the stream array. -/
theorem test_decode_example_stream :
    (decode 0x60000186#32).toOption = some (.wbld 3 6) ∧ (decode 0x60400406#32).toOption = some (.wlatch 2 6)
    ∧ (decode 0x64081800#32).toOption = some (.sgo 1 3) ∧ (decode 0x64880005#32).toOption = some (.sstop 1 5)
    ∧ (decode 0x64C00144#32).toOption = some (.spart 10 4) ∧ (decode 0x64400127#32).toOption = some (.sconf 9 7)
    ∧ (decode 0x68000104#32).toOption = some (.sread 0 8 4) ∧ (decode 0x68040904#32).toOption = some (.sread 0x81 8 4) := by decide

/-- R344, R345: the bytes of a little-endian word; a byte loaded into an s register carries its sign, into an a register not. -/
theorem test_load :
    let s := { withA 1 (own 0x100) with core := { (withA 1 (own 0x100)).core with l1 := { bytes := [(0x100, 0x80), (0x101, 0x12)] } } }
    sent (exec (.ld 0 4 1 0 0) s) = some ⟨4, .mResult 4 ⟨0xFFFFFFFFFFFFFF80, none⟩ 0xFFFFFFFFFFFFFF80⟩
    ∧ sent (exec (.ld 0 36 1 0 0) s) = some ⟨4, .mResult 36 ⟨0x80, none⟩ 0x80⟩
    ∧ sent (exec (.ld 1 36 1 0 0) s) = some ⟨4, .mResult 36 ⟨0x1280, none⟩ 0x1280⟩ := by decide +kernel

/-- R197: AMO.ADD in the own L1 lands the old value sign-extended and leaves the sum. -/
theorem test_amo :
    let s := { withA 1 (own 0x100) with core := { cid := 0, t := (running.setA 1 ⟨own 0x100, none⟩).setS 4 ⟨1, none⟩, l1 := { bytes := [(0x103, 0x80)] } } }
    (match exec (.amoOp 0 0 0 4 1 9) s with
      | .next t => decide (t.core.l1.bytes = [(0x100, 1), (0x103, 0x80)]) && decide (t.core.t.flights = [⟨9, .land 0 4 (some ⟨0xFFFFFFFF80000000, none⟩) (some 4)⟩])
      | _ => false) = true := by decide +kernel

/-- A contribution of one fixed-point element to slot 0 of die 0. -/
def aThird (elems : List (BitVec 8)) : Contribution :=
  { die := 0, slot := 0, group := 0, view := 0, sender := 0, type := 0, count := 1, elems := elems, poison := false, ack := none, lslot := 0 }

/-- The example of the chapter on collectives: 2.0, 1.25 and −0.5 leave 0x0002_C000 in a fixed-point slot. -/
theorem test_combine :
    let p : Pad := { bytes := [(0xFFF008, 0x60), (0xFFF00A, 1)] }
    leNat ((((p.addContribution (aThird [0, 0, 2, 0])).addContribution (aThird [0, 0x40, 1, 0])).addContribution (aThird [0, 0x80, 0xFF, 0xFF])).read 0 4)
      = 0x0002C000 := by decide +kernel
/-! ### Hypotheses of the statements: encodings, the step, results -/

theorem witness_DecodeEncode : ∃ i w, Instr.wf i = true ∧ encode i = some w := ⟨.sdiv 4 0 8 9, 0x04410485#32, by decide, by decide⟩

theorem witness_DecodeIsLegal : ∃ w i, decode w = .ok i := ⟨0x04410485#32, .sdiv 4 0 8 9, rfl⟩

theorem witness_StepRunsDecoded : ∃ (s : State) (i : Instr),
    s.turn = 0 ∧ s.powered = true ∧ s.core.protFrozen = false ∧ s.core.t.mode = .run ∧ s.core.t.gang = false ∧
    s.overBudget = false ∧ s.core.t.late = false ∧ s.core.t.hold ≠ some .eretDrain ∧ s.core.t.stall = 0 ∧
    s.core.t.fetching = none ∧ s.stopsHere = false ∧
    (let s1 := s.mapT Thread.settle
     let t := s1.core.t
     let off := t.pc.toNat - t.codeBase.toNat
     t.tpend = none ∧ t.rep.left = 0 ∧ t.codeBase.toNat ≤ t.pc.toNat ∧ off + 4 ≤ t.codeLen ∧
     SMap.find? t.codePsn (off / 8) = none ∧ decodeBytes (Mem.read t.code off 4) = .ok (false, i, [])) :=
  ⟨State.reset.withFetchWord 32 0x04410485, .sdiv 4 0 8 9, by and_intros <;> first | decide +kernel | rfl⟩

theorem witness_UndecodableTraps : ∃ (s : State) (w : Word) (e : Reject),
    decode w = .error e ∧ chainBit w = false ∧ s.core.t.rep.left = 0 ∧ s.core.t.handler = false ∧ s.handlerAddr ≠ 0 :=
  ⟨with0 running, 0x28000000#32, .major, rfl, by decide, rfl, rfl, by decide⟩

theorem witness_StepKeepsMemoryForm : ∃ s s' : State, s.mem.wf = true ∧ step s = .next s' := by
  obtain ⟨t, h⟩ := of_goesOn (step (State.reset.withFetchWord 32 0x04410485)) (by decide +kernel)
  exact ⟨_, t, rfl, h⟩

theorem witness_ResultAtItsCycle :
    (∃ (t : Thread) (d : BitVec 6) (v : PDWord) (n k : Nat), t.flights = [⟨n, .cResult d false v⟩] ∧ k < n)
    ∧ (∃ (t : Thread) (d : BitVec 6) (v : PDWord) (n k : Nat), t.flights = [⟨n, .cResult d false v⟩] ∧ k = n ∧ d < 32 ∧ d ≠ 0)
    ∧ (∃ (t : Thread) (d : BitVec 6) (v : PDWord) (n k : Nat), t.flights = [⟨n, .cResult d false v⟩] ∧ k = n ∧ 32 ≤ d ∧ d < 48) :=
  ⟨⟨{ flights := [⟨3, .cResult 4 false {}⟩] }, 4, {}, 3, 2, rfl, by decide⟩, ⟨{ flights := [⟨3, .cResult 31 false {}⟩] }, 31, {}, 3, 3, rfl, rfl, by decide, by decide⟩,
    ⟨{ flights := [⟨0, .cResult 47 false {}⟩] }, 47, {}, 0, 0, rfl, rfl, by decide, by decide⟩⟩

/-- A thread with two results due, the earlier a C-pipe write of s1, and a third in flight. -/
def twoDue (y : Effect) : Thread := { flights := [⟨0, .cResult 1 false ⟨5, none⟩⟩, ⟨0, y⟩, ⟨1, .cResult 2 false {}⟩] }

theorem witness_LaterWriteStands : ∀ y : Effect, y.isUpdate = false → (∀ id d v k, y = .land id d v k → k = some 0) →
    ∃ (t : Thread) (x : Effect) (rest : List Flight),
      t.flights = ⟨0, x⟩ :: ⟨0, y⟩ :: rest ∧ (∀ f ∈ rest, f.off ≠ 0) ∧ t.late = false ∧ x.isUpdate = false ∧ y.isUpdate = false := by
  intro y hy hl
  refine ⟨twoDue y, .cResult 1 false ⟨5, none⟩, [⟨1, .cResult 2 false {}⟩], rfl, by decide, ?_, rfl, hy⟩
  cases y <;> try rfl
  rename_i id d v k
  cases hl id d v k rfl
  rfl

theorem witness_ResultFrame :
    (∃ (d : BitVec 6) (r : BitVec 5) (w : Bool), r.zeroExtend 6 ≠ d ∨ w = true) ∧ (∃ (d : BitVec 6) (r : BitVec 4) (w : Bool), 32 + r.zeroExtend 6 ≠ d ∨ w = true)
    ∧ (∃ (r d : BitVec 6) (w : Bool), r ≠ d ∨ w = true) ∧ (∃ (d : BitVec 6) (w : Bool), w = false ∧ d < 48)
    ∧ (∃ (d : BitVec 6) (r : BitVec 3) (w : Bool), r ≠ d.truncate 3 ∨ w = true) :=
  ⟨⟨5, 4, false, by decide⟩, ⟨33, 0, false, by decide⟩, ⟨1, 2, false, by decide⟩, ⟨47, false, rfl, by decide⟩, ⟨1, 2, false, by decide⟩⟩

/-! ### Scalar words, branches, control -/

theorem witness_ScalarArithmetic : ∃ (s : State) (a b : BitVec 6), (s.srcC a).psn = none ∧ (s.srcC b).psn = none :=
  ⟨withS 8 7, 8, 48, by decide +kernel, by decide +kernel⟩

theorem witness_ScalarDivision :
    (∃ (s : State) (a b : BitVec 6), (s.srcC a).psn = none ∧ (s.srcC b).psn = none ∧ (s.srcC b).val.low = 0 ∧ fpxEidz s.core.t.fpxAtCheck = true)
    ∧ (∃ (s : State) (a b : BitVec 6), (s.srcC a).psn = none ∧ (s.srcC b).psn = none ∧ (s.srcC b).val.low = 0 ∧ fpxEidz s.core.t.fpxAtCheck = false)
    ∧ (∃ (s : State) (a b : BitVec 6), (s.srcC a).psn = none ∧ (s.srcC b).psn = none ∧ (s.srcC b).val.low ≠ 0) :=
  ⟨⟨with0 { running with fpx := 0x2000 }, 8, 9, by decide +kernel, by decide +kernel, by decide +kernel, by decide +kernel⟩,
    ⟨withS 8 7, 8, 9, by decide +kernel, by decide +kernel, by decide +kernel, by decide +kernel⟩,
    ⟨withS 8 7, 9, 8, by decide +kernel, by decide +kernel, by decide +kernel⟩⟩

theorem witness_ScalarImmediate : ∃ (s : State) (a : BitVec 6), (s.srcC a).psn = none := ⟨withS 8 7, 8, by decide +kernel⟩

theorem witness_ScalarConstantCompareSelect : ∃ (s : State) (d a b c : BitVec 6),
    (s.srcC a).psn = none ∧ (s.srcC b).psn = none ∧ (s.srcC c).psn = none ∧ (s.srcC d).psn = none :=
  ⟨withS 8 7, 4, 8, 9, 56, by decide +kernel, by decide +kernel, by decide +kernel, by decide +kernel⟩

theorem witness_AddressWords : ∃ (s : State) (a b : BitVec 6), (s.srcC a).psn = none ∧ (s.srcC b).psn = none :=
  ⟨withA 0 7, 32, 8, by decide +kernel, by decide +kernel⟩

theorem witness_PoisonCancels : ∃ (s : State) (a b : BitVec 6) (o : Origin), (s.srcC a).psn = some o ∧ (s.srcC b).psn = none :=
  ⟨with0 (running.setS 8 ⟨7, some .eccUe⟩), 8, 9, .eccUe, by decide +kernel, by decide +kernel⟩

theorem witness_BranchesAndJumps :
    let s := withS 3 1
    let u := withA 1 0x1000
    (s.follows = false ∧ (s.srcC 3).psn = none ∧ (s.srcC 32).psn = none
      ∧ Machine.cond 0 (s.srcC 3).val 0 = false ∧ Machine.cond 1 (s.srcC 3).val 0 = true
      ∧ (s.core.t.pc + BitVec.ofInt 64 (4 * (4#16).toInt)).toNat < 2 ^ 56 ∧ (s.core.t.pc + BitVec.ofInt 64 (4 * (4#19).toInt)).toNat < 2 ^ 56
      ∧ 2 ^ 56 ≤ (s.core.t.pc + BitVec.ofInt 64 (4 * (0x40000#19).toInt)).toNat)
    ∧ (u.follows = false ∧ (u.srcC 33).psn = none ∧ (u.srcC 33).val.toNat % 4 = 0 ∧ (u.srcC 33).val.toNat < 2 ^ 56)
    ∧ (withA 1 0x1002).follows = false ∧ ((withA 1 0x1002).srcC 33).psn = none ∧ ((withA 1 0x1002).srcC 33).val.toNat % 4 ≠ 0
    ∧ ((withA 1 0x100000000000000).srcC 33).val.toNat % 4 = 0 ∧ 2 ^ 56 ≤ ((withA 1 0x100000000000000).srcC 33).val.toNat := by
  decide +kernel

/-- A thread on core 0 with a jump table of two entries at offset 0 of its L1, an address of it in a1 and an index in s2. -/
def tableState (i : Word) : State :=
  { with0 ((running.setA 1 ⟨own 0, none⟩).setS 2 ⟨i, none⟩) with
    core := { cid := 0, t := (running.setA 1 ⟨own 0, none⟩).setS 2 ⟨i, none⟩, l1 := { bytes := [(0, 2), (4, 1), (8, 3)] } } }

/-- Whether a word of a table may be read at once: in the own L1, or with nothing before it and no hop under repair on its way. -/
def tableGoes (s : State) (va : Nat) : Prop := (ownOff (BitVec.ofNat 64 va)).isSome = true ∨ (s.core.t.mayLeave false = true
  ∧ ∀ places s', State.resolveAll s.me .rd (pieces 4 va 4) s = .ok (places, s') → s.placesHeld places = false)

theorem witness_JumpTableAndRepeat :
    (∃ (s s1 : State) (a b : BitVec 6) (n : Word), tableGoes s (s.srcC a).val.toNat ∧ s.follows = false ∧ (s.srcC a).psn = none ∧ (s.srcC b).psn = none
      ∧ (s.srcC a).val.toNat % 4 = 0 ∧ (s.srcC a).val.toNat < 2 ^ 56
      ∧ s.readVa s.me (s.srcC a).val.toNat 4 = .ok (clean (leBytes 4 n.toNat), s1) ∧ n.toNat ≤ (s.srcC b).val.low.toNat)
    ∧ (∃ (s s1 s2 : State) (a b : BitVec 6) (n e : Word), tableGoes s (s.srcC a).val.toNat
      ∧ tableGoes s1 ((s.srcC a).val.toNat + 4 + 4 * (s.srcC b).val.low.toNat) ∧ s.follows = false ∧ (s.srcC a).psn = none ∧ (s.srcC b).psn = none
      ∧ (s.srcC a).val.toNat % 4 = 0 ∧ (s.srcC a).val.toNat < 2 ^ 56
      ∧ s.readVa s.me (s.srcC a).val.toNat 4 = .ok (clean (leBytes 4 n.toNat), s1) ∧ (s.srcC b).val.low.toNat < n.toNat
      ∧ s1.readVa s1.me ((s.srcC a).val.toNat + 4 + 4 * (s.srcC b).val.low.toNat) 4 = .ok (clean (leBytes 4 e.toNat), s2)
      ∧ (s2.relative e.sext).toNat < 2 ^ 56)
    ∧ (∃ (s s1 : State) (a b : BitVec 6) (places : List (Loc × Nat × Nat)), s.follows = false ∧ (s.srcC a).psn = none ∧ (s.srcC b).psn = none
      ∧ (s.srcC a).val.toNat % 4 = 0 ∧ (s.srcC a).val.toNat < 2 ^ 56 ∧ ownOff (s.srcC a).val = none
      ∧ State.resolveAll s.me .rd (pieces 4 (s.srcC a).val.toNat 4) s = .ok (places, s1) ∧ s.core.t.mayLeave false = false) :=
  ⟨⟨tableState 2, tableState 2, 33, 2, 2, .inl (by decide +kernel), by decide +kernel, by decide +kernel, by decide +kernel, by decide +kernel, by decide +kernel, by rfl, by decide +kernel⟩,
    ⟨tableState 1, tableState 1, tableState 1, 33, 2, 2, 3, .inl (by decide +kernel), .inl (by decide +kernel), by decide +kernel, by decide +kernel, by decide +kernel, by decide +kernel, by decide +kernel,
      by rfl, by decide +kernel, by rfl, by decide +kernel⟩,
    ⟨mapped (with0 { running.setA 1 ⟨0x1000, none⟩ with egress := [⟨0, false, .fence, 0⟩] }), _, 33, 2, [(.dev 0x40001000 none 0, 0x1000, 4)],
      by decide +kernel, by decide +kernel, by decide +kernel, by decide +kernel, by decide +kernel, by decide +kernel,
      ok_of _ _ (by decide +kernel), by decide +kernel⟩⟩

/-! ### Control registers, task control, traps, waits -/

theorem witness_ControlRegisters :
    (∃ (s : State) (a n : BitVec 6), (s.srcC a).psn = none ∧ n ≠ 7 ∧ (n = 8 → s.core.t.handler = true) ∧ s.lrec.task = true ∧ s.core.t.handler = false)
    ∧ (∃ (s : State) (a n : BitVec 6), (s.srcC a).psn = none ∧ n = 8 ∧ n ≠ 7 ∧ (n = 8 → s.core.t.handler = true) ∧ s.lrec.task = false) :=
  ⟨⟨withS 8 7, 8, 63, by decide +kernel, by decide, by decide, rfl, rfl⟩,
    ⟨with0 { running with handler := true } { launch with lrec := {} }, 8, 8, by decide +kernel, rfl, by decide, fun _ => rfl, rfl⟩⟩

theorem witness_TaskControl : ∃ (s : State) (a b : BitVec 6),
    (s.srcC a).psn = none ∧ (s.srcC b).psn = none ∧ s.core.t.handler = false ∧ s.core.t.gang = false ∧ s.core.t.prefixOpen = false
    ∧ s.core.t.stop = none
    ∧ liveOk ((s.srcC a).val.toNat / 2 ^ 32) = true ∧ (s.srcC b).val.low.toNat < 2 ^ 13
    ∧ s.lrec.has (cidOf ((s.srcC b).val.low.toNat / 8 % 32) ((s.srcC b).val.low.toNat / 256 % 32)) = true
    ∧ dieOf (cidOf ((s.srcC b).val.low.toNat / 8 % 32) ((s.srcC b).val.low.toNat / 256 % 32)) = dieOf s.core.cid :=
  ⟨with0 ((running.setA 1 ⟨0x00FFFF0000000005, none⟩).setS 2 ⟨0x30B, none⟩), 33, 2, by decide +kernel⟩

theorem witness_TaskControl_gang : ∃ s : State, s.core.t.handler = false ∧ s.core.t.gang = true := ⟨with0 { running with gang := true }, rfl, rfl⟩

theorem witness_TrapEntry : ∃ (s : State) (a : BitVec 6), (s.srcC a).psn = none ∧ s.core.t.handler = false ∧ s.handlerAddr ≠ 0
    ∧ ∀ f ∈ s.core.t.flights, f.fx.isUpdate = false ∧ ∀ d k, f.fx ≠ .tlRead d k :=
  ⟨with0 { running with flights := [⟨3, .cResult 4 false {}⟩] }, 8, by decide +kernel, rfl, by decide,
    fun f h => by cases List.mem_singleton.mp h; exact ⟨rfl, nofun⟩⟩

theorem witness_TrapWithoutHandler :
    (∃ (s : State) (a : BitVec 6) (x : Launch), (s.srcC a).psn = none ∧ SMap.find? s.launches s.core.t.lslot = some x ∧ x.phase = .running
      ∧ s.launches.Pairwise (fun p q => p.1 < q.1) ∧ s.core.t.handler = false ∧ x.lrec.handler = 0 ∧ x.cause = none)
    ∧ (∃ (s : State) (a : BitVec 6) (x : Launch), (s.srcC a).psn = none ∧ SMap.find? s.launches s.core.t.lslot = some x ∧ x.phase = .running
      ∧ s.launches.Pairwise (fun p q => p.1 < q.1) ∧ s.core.t.handler = true ∧ x.cause = none) :=
  ⟨⟨with0 running { launch with lrec := {} }, 8, { launch with lrec := {} }, by decide +kernel, rfl, rfl, List.pairwise_singleton _ _, rfl, rfl, rfl⟩,
    ⟨with0 { running with handler := true }, 8, launch, by decide +kernel, rfl, rfl, List.pairwise_singleton _ _, rfl, rfl⟩⟩

theorem witness_TrapReturn : (∃ s : State, s.core.t.handler = true) ∧ (∃ s : State, s.core.t.handler = false)
    ∧ (∃ s : State, s.core.t.gang = false ∧ s.core.t.hold = some .eretDrain ∧ s.core.t.flights = [] ∧ s.core.t.frame.rep.left = 0)
    ∧ ∃ (s : State) (w : Word), s.core.t.gang = false ∧ s.core.t.hold = some .eretDrain ∧ s.core.t.flights = [] ∧ s.core.t.frame.rep.left ≠ 0
      ∧ (let v := (s.each Thread.settle).each Thread.leaveHandler
         v.codeWord s.core.cid (s.core.t.trappc.toNat - 4) = .ok (w, v)) :=
  ⟨⟨with0 { running with handler := true }, rfl⟩, ⟨with0 running, rfl⟩, ⟨with0 { running with handler := true, hold := some .eretDrain }, rfl, rfl, rfl, rfl⟩,
    ⟨with0 { running with handler := true, hold := some .eretDrain, frame := { rep := { n := 5, left := 3 } }, trappc := 4, codeLen := 4 }, 0,
      rfl, rfl, rfl, by decide, by rfl⟩⟩

theorem witness_EventWaits : (∃ s : State, s.core.t.ev = true)
    ∧ ∃ s : State, s.core.t.ev = false ∧ s.core.t.gang = false ∧ s.core.t.waitcnt.toNat + 1 < 2 ^ 64 :=
  ⟨⟨with0 { running with ev := true }, rfl⟩, ⟨with0 running, rfl, rfl, by decide⟩⟩

/-! ### The V pipe -/

theorem witness_ElementsAlone : ∃ (t : BitVec 2) (e : Nat), t ≠ 3 ∧ e < 32 / tiWidth t := ⟨2, 3, by decide, by decide⟩

/-- Core 0 with v1 of equal lanes and v2 of lanes rising from 0. -/
def withV (x : Word) (fpx : DWord := 0) : State :=
  with0 { running with fpx := fpx, vregs := (running.vregs.set 1 (lanesOf fun _ => x)).set 2 (lanesOf fun l => BitVec.ofNat 32 l.val) }

theorem witness_VectorInteger : ∃ (s : State) (a b : BitVec 6), (s.srcV a).psn = none ∧ (s.srcV b).psn = none :=
  ⟨withV 7, 1, 2, by decide +kernel, by decide +kernel⟩

theorem witness_VectorFloat :
    (∃ (s : State) (d a b : BitVec 6), (s.srcV a).psn = none ∧ (s.srcV b).psn = none ∧ (s.srcV d).psn = none ∧ fpxEn s.core.t.fpxAtCheck = 0)
    ∧ (∃ (s : State) (d a b : BitVec 6) (t : BitVec 1), (s.srcV a).psn = none ∧ (s.srcV b).psn = none ∧ (s.srcV d).psn = none
      ∧ excOf (Vector.ofFn fun l : Fin 128 => elems2 t fsum (s.srcV a)[l].val (s.srcV b)[l].val) &&& fpxEn s.core.t.fpxAtCheck ≠ 0) :=
  ⟨⟨withV 0x3F800000, 3, 1, 2, by decide +kernel, by decide +kernel, by decide +kernel, by decide +kernel⟩,
    ⟨withV 0x3FFFFFFF 0x1F00, 3, 1, 2, 0, by decide +kernel, by decide +kernel, by decide +kernel, by decide +kernel⟩⟩

theorem witness_VectorConvertDotSpecial : ∃ (s : State) (d a b : BitVec 6),
    (s.srcV a).psn = none ∧ (s.srcV b).psn = none ∧ (s.srcV d).psn = none ∧ fpxEn s.core.t.fpxAtCheck = 0 :=
  ⟨withV 0x3F800000, 3, 1, 2, by decide +kernel, by decide +kernel, by decide +kernel, by decide +kernel⟩

theorem witness_VectorCompareMask : ∃ (s : State) (a b : BitVec 6), (s.srcV a).psn = none ∧ (s.srcV b).psn = none ∧ fpxEn s.core.t.fpxAtCheck = 0 :=
  ⟨withV 0x3F800000, 1, 2, by decide +kernel, by decide +kernel, by decide +kernel⟩

theorem witness_VectorLanes : ∃ (s : State) (a b : BitVec 6), (s.srcV a).psn = none ∧ (s.srcV b).psn = none
    ∧ (s.srcVS a).psn = none ∧ (s.srcVS b).psn = none ∧ fpxEn s.core.t.fpxAtCheck = 0 :=
  ⟨withV 0x3F800000, 1, 2, by decide +kernel, by decide +kernel, by decide +kernel, by decide +kernel, by decide +kernel⟩

theorem witness_VectorMemory :
    (∃ (s : State) (d a i : BitVec 6) (k : BitVec 3) (off : Nat), (s.srcA (a.truncate 4)).psn = none
      ∧ ((s.srcA (a.truncate 4)).val + BitVec.ofInt 64 (64 * i.toInt)).toNat % 64 = 0
      ∧ ownOff ((s.srcA (a.truncate 4)).val + BitVec.ofInt 64 (64 * i.toInt)) = some off ∧ off + 512 ≤ 2 ^ 21 ∧ (s.srcV d).psnIn (s.km k) = none)
    ∧ (∃ (s : State) (d a i : BitVec 6) (k : BitVec 3), (s.srcA (a.truncate 4)).psn = none ∧ (s.srcV d).psnIn (s.km k) = none
      ∧ ((s.srcA (a.truncate 4)).val + BitVec.ofInt 64 (64 * i.toInt)).toNat % 64 ≠ 0)
    ∧ (∃ (s : State) (d a i : BitVec 6) (k : BitVec 3), (s.srcA (a.truncate 4)).psn = none ∧ (s.srcV d).psnIn (s.km k) = none
      ∧ ((s.srcA (a.truncate 4)).val + BitVec.ofInt 64 (64 * i.toInt)).toNat % 64 = 0
      ∧ (ownOff ((s.srcA (a.truncate 4)).val + BitVec.ofInt 64 (64 * i.toInt))).all (fun off => 2 ^ 21 < off + 512) = true)
    ∧ (∃ (s : State) (d a b : BitVec 6) (k : BitVec 3), (s.srcA (a.truncate 4)).psn = none ∧ (s.srcV b).psnIn (s.km k) = none ∧ (s.srcV d).psnIn (s.km k) = none
      ∧ ∀ l : Fin 128, (s.km k).getLsbD l = true → ((s.srcA (a.truncate 4)).val + ((s.srcV b)[l].val.zeroExtend 64)).toNat % 4 = 0
        ∧ (ownOff ((s.srcA (a.truncate 4)).val + ((s.srcV b)[l].val.zeroExtend 64))).isSome)
    ∧ (∃ (s : State) (d a b : BitVec 6) (k : BitVec 3) (l : Fin 128), (s.srcA (a.truncate 4)).psn = none ∧ (s.srcV b).psnIn (s.km k) = none
      ∧ (s.srcV d).psnIn (s.km k) = none ∧ (s.km k).getLsbD l = true
      ∧ (∀ l' : Fin 128, l' < l → (s.km k).getLsbD l' = true → ((s.srcA (a.truncate 4)).val + ((s.srcV b)[l'].val.zeroExtend 64)).toNat % 4 = 0
        ∧ (ownOff ((s.srcA (a.truncate 4)).val + ((s.srcV b)[l'].val.zeroExtend 64))).isSome)
      ∧ ownOff ((s.srcA (a.truncate 4)).val + ((s.srcV b)[l].val.zeroExtend 64)) = none) :=
  ⟨⟨withA 1 (own 0x1FFE40), 3, 1, 63, 0, 0x1FFE00, by decide +kernel, by decide +kernel, by decide +kernel, by decide +kernel, by decide +kernel⟩,
    ⟨withA 1 (own 0x20), 3, 1, 0, 0, by decide +kernel, by decide +kernel, by decide +kernel⟩,
    ⟨withA 1 (own 0x1FFE00), 3, 1, 1, 0, by decide +kernel, by decide +kernel, by decide +kernel, by decide +kernel⟩,
    ⟨withA 1 (own 0x1FFFFC), 3, 1, 1, 0, by decide +kernel, by decide +kernel, by decide +kernel, by decide +kernel⟩,
    ⟨withA 1 (own 0x200000), 3, 1, 1, 0, 0, by decide +kernel, by decide +kernel, by decide +kernel, by decide +kernel, by decide +kernel, by decide +kernel⟩⟩

/-- An object of one tile of 4 by 4 elements of 4 bytes. -/
def lockObj : Obj :=
  { base := 0x1000, rows := 4, cols := 4, rstride := 16, estride := 4, type := 8, trows := 4, tcols := 4, bact := 0, quant := false, digest := false,
    rd := true, wr := true, peer := false, inf := false, oute := 0, lo := 0, hi := 0 }

/-- Core 0 with compaction queue 2. -/
def withQ (c : CQueue) : State := with0 { running with qs := running.qs.set 2 c }

/-- The same with lane 127 alone in k1. -/
def oneLane (c : CQueue) : State := with0 (Thread.setK { running with qs := running.qs.set 2 c } 1 (1 <<< 127))

/-- Core 0 with, or without, a move that fills the storage of queue 2 in its own L1. -/
def lockedQ (b : Bool) : State :=
  with0 { running with qs := running.qs.set 2 { cap := 9 }, objs := [(63, lockObj)], tq0 := if b then [.tmov 0 1 false false 63 0 0 0 0] else [] }

theorem witness_CompactionQueues :
    (∃ (s : State) (q : BitVec 2), (s.queue q).busy ≠ 0) ∧ (∃ (s : State) (q : BitVec 2), (s.queue q).hbusy ≠ 0)
    ∧ (∀ b : Bool, ∃ (s : State) (q : BitVec 2) (a : BitVec 6), (s.queue q).busy = 0 ∧ (s.queue q).hbusy = 0 ∧ (s.srcV a).psn = none
      ∧ (((s.srcV a)[(0 : Fin 128)]).val.toNat % 2 ^ 15 ≠ 0
        ∧ 64 * (((s.srcV a)[(0 : Fin 128)]).val.toNat / 2 ^ 17)
          + 4 * (((s.srcV a)[(0 : Fin 128)]).val.toNat / 2 ^ 15 % 4 + 1) * (((s.srcV a)[(0 : Fin 128)]).val.toNat % 2 ^ 15) ≤ 2 ^ 21 ↔ b = true))
    ∧ (∃ (s : State) (q : BitVec 2) (a : BitVec 6), (s.queue q).busy = 0 ∧ (s.queue q).hbusy = 0 ∧ 47 < a.toNat + (s.queue q).recw.toNat)
    ∧ (∃ (s : State) (q : BitVec 2) (a d : BitVec 6) (k : BitVec 3), (s.queue q).busy = 0 ∧ (s.queue q).hbusy = 0 ∧ a.toNat + (s.queue q).recw.toNat ≤ 47
      ∧ (∀ i ≤ (s.queue q).recw.toNat, (s.srcV (a + BitVec.ofNat 6 i)).psnIn (s.km k) = none)
      ∧ d.toNat + (s.queue q).recw.toNat ≤ 47 ∧ (s.queue q).count.toNat + (lanesIn (s.km k)).length ≤ (s.queue q).cap.toNat)
    ∧ (∃ (u : State) (q : BitVec 2), (u.queue q).count.toNat = (u.queue q).cap.toNat)
    ∧ (∀ b : Bool, ∃ (s : State) (q : BitVec 2), (s.queue q).busy = 0 ∧ (s.queue q).hbusy = 0
      ∧ s.core.t.locked ((s.queue q).slot 0, (s.queue q).recBytes * (s.queue q).cap.toNat) = b)
    ∧ (∀ b : Bool, ∃ (s : State) (q : BitVec 2) (k : BitVec 3) (l : Fin 128), (s.queue q).busy = 0 ∧ (s.queue q).hbusy = 0 ∧ lanesIn (s.km k) = [l]
      ∧ ((s.queue q).count = 0 ↔ b = true)) := by
  refine ⟨⟨withQ { busy := 1 }, 2, by decide +kernel⟩, ⟨withQ { hbusy := 1 }, 2, by decide +kernel⟩, fun b => ?_,
    ⟨withQ { recw := 3 }, 2, 45, by decide +kernel, by decide +kernel, by decide +kernel⟩,
    ⟨withQ { recw := 3, cap := 128 }, 2, 44, 44, 0, by decide +kernel, by decide +kernel, by decide +kernel, by decide +kernel, by decide +kernel, by decide +kernel⟩,
    ⟨withQ { cap := 9, count := 9 }, 2, by decide +kernel⟩, fun b => ⟨lockedQ b, 2, by cases b <;> decide +kernel⟩, fun b => ?_⟩ <;> cases b
  · exact ⟨withV 0xFFFE0021, 3, 1, by decide +kernel, by decide +kernel, by decide +kernel, by decide +kernel⟩
  · exact ⟨withV 0xFFFE0010, 3, 1, by decide +kernel, by decide +kernel, by decide +kernel, by decide +kernel⟩
  · exact ⟨oneLane { cap := 9, count := 1 }, 2, 1, 127, by decide +kernel, by decide +kernel, by decide +kernel, by decide +kernel⟩
  · exact ⟨oneLane { cap := 9 }, 2, 1, 127, by decide +kernel, by decide +kernel, by decide +kernel, by decide +kernel⟩


/-! ### The stream array -/

theorem witness_StreamConfiguration :
    (∃ (s : State) (r : BitVec 5), (s.srcS r).psn = none ∧ ∀ f ∈ s.core.t.flights, ∀ z, f.fx ≠ .ebnd z)
    ∧ (∃ (nt w : Nat) (n k : Fin 8) (i : Fin 32), nt = n.val ∧ w = i.val ∧ nt < 8 ∧ k.val ≠ nt)
    ∧ (∃ (nt w : Nat) (k : Fin 8) (i : Fin 32), nt < 8 ∧ k.val = nt ∧ i.val ≠ w) :=
  ⟨⟨withS 8 7, 8, by decide +kernel, fun _ h => nomatch h⟩, ⟨7, 31, 7, 0, 31, rfl, rfl, by decide, by decide⟩, ⟨0, 31, 0, 0, by decide, rfl, by decide⟩⟩

/-- A shadow table of one iteration at every level, A in L1 as e4m3fn, and no prefix. -/
def onePass (pfx : Word) : NestTab := (Vector.ofFn fun i : Fin 32 => if i.val < 6 then 0x10000#32 else 0#32).set 20 (0x11000000#32 ||| pfx <<< 8)

/-- A thread with tl2 just before its limit of sixteen numbers. -/
def nearlyFull (n : Nat) : Thread := { running with tl := running.tl.set 2 { val := 0, issued := n } }

theorem witness_ArrayQueueing :
    (∃ (s : State) (a : BitVec 4) (r : BitVec 5) (off : Nat), s.core.t.arrayFull 1 = false ∧ (s.srcA a).psn = none ∧ (s.srcS r).psn = none
      ∧ (s.srcA a).val.toNat % 64 = 0 ∧ ownOff (s.srcA a).val = some off ∧ off + 64 * ((s.srcS r).val.toNat / 2 ^ 13 % 2 ^ 13) ≤ 2 ^ 21
      ∧ (s.srcS r).val.toNat % 2 ^ 13 + (s.srcS r).val.toNat / 2 ^ 13 % 2 ^ 13 ≤ 8192)
    ∧ (∃ (s : State) (r : BitVec 5), s.core.t.arrayFull 1 = false ∧ (s.srcS r).psn = none ∧ (s.srcS r).val.toNat / 2 ^ 14 % 8 ≠ 0
      ∧ (s.srcS r).val.toNat % 2 ^ 13 + (if (s.srcS r).val.toNat / 2 ^ 13 % 2 = 1 then 52 else 68) ≤ 8192)
    ∧ (∃ (s : State) (n : BitVec 3) (p : BitVec 8),
      let t := s.core.t
      let tab : NestTab := t.ntShadow[n.toNat]
      let cfg := t.nestCfg p.toNat
      t.tableBusy n.toNat = false ∧ t.arrayFull (if tab.pfx = 0 then 1 else 2) = false ∧ tab.malformed cfg.m cfg.sr = none
      ∧ ∀ r ∈ tab.rowsReached, SMap.getD t.arr.queued r 0 + (tab.kb + 1) * tab.total ≤ 2 ^ 20)
    ∧ (∃ (s : State) (n : BitVec 3) (j : BitVec 5) (at' num : Nat) (cfg : NestCfg), s.core.t.arr.queue = [.sgo at' num n.toNat cfg none]
      ∧ (s.core.t.activeTab n.toNat).pfx ≠ 0 ∧ (s.core.t.activeTab n.toNat).pfx ≤ j.toNat ∧ j.toNat ≤ cfg.m)
    ∧ (∃ s : State, s.core.t.arrayFull 1 = true) :=
  ⟨⟨with0 (((nearlyFull 15).setA 1 ⟨own 0x1FFF80, none⟩).setS 2 ⟨0x5FFE, none⟩), 1, 2, 0x1FFF80, by decide +kernel⟩,
    ⟨with0 ((nearlyFull 15).setS 2 ⟨0x5FBC, none⟩), 2, by decide +kernel⟩,
    ⟨with0 { nearlyFull 14 with ntShadow := running.ntShadow.set 7 (onePass 4), sl := 5 }, 7, 0, by decide +kernel⟩,
    ⟨with0 { running with ntActive := running.ntActive.set 7 (onePass 4), arr := { queue := [.sgo 0 1 7 (running.nestCfg 0) none] } }, 7, 4, 0, 1,
      running.nestCfg 0, rfl, by decide +kernel⟩,
    ⟨with0 (nearlyFull 16), by decide +kernel⟩⟩

theorem witness_ArrayReads :
    (∃ (s : State) (r : BitVec 5) (p : BitVec 8), (s.srcS r).psn = none ∧ fpxEn s.core.t.fpxAtCheck = 0
      ∧ (s.srcS r).val.toNat / 2 ^ 12 % 8 ≠ 0 ∧ (s.srcS r).val.toNat / 2 ^ 12 % 8 ≠ 7
      ∧ s.core.t.readOut p ((s.srcS r).val.toNat % 64) = ⟨0, 0, (s.core.t.readOut p ((s.srcS r).val.toNat % 64)).prof⟩)
    ∧ (∃ (s : State) (v : BitVec 6) (r : BitVec 5) (p : BitVec 8), (s.srcS r).psn = none ∧ fpxEn s.core.t.fpxAtCheck = 0
      ∧ (s.core.t.readOut p ((s.srcS r).val.toNat % 64)).rm = 4 ∧ (s.srcV v).psn = none) :=
  ⟨⟨withS 8 0x603F, 8, 0x80, by decide +kernel⟩, ⟨withS 8 0x603F, 0, 8, 0xC0, by decide +kernel⟩⟩

/-! ### Loads, stores, atomics -/

/-- Core 0 with one a register set, in a launch without objects. -/
def plainA (n : BitVec 4) (v : DWord) : State :=
  with0 (running.setA n ⟨v, none⟩) { launch with lrec := { launch.lrec with objCount := 0 } }

/-- Core 0 with a binary32 object of its own L1, bounded by TRAP to 0, in slot 63; and its element 0 as a store of 1 would leave it. -/
def boundObj : Obj := { lockObj with base := 0xFF000000001000, bact := 3 }
def boundState : State := with0 { (running.setA 1 ⟨own 0x1000, none⟩).setS 4 ⟨0x3F800000, none⟩ with objs := [(63, boundObj)] }
  { launch with lrec := { launch.lrec with objCount := 0 } }
def boundStored : Stored := ⟨boundObj, 0xFF000000001000, 0x3F800000⟩

theorem witness_LocalLoadStore :
    (∃ (s : State) (z : BitVec 2) (d : BitVec 6) (b : BitVec 4) (x : BitVec 1) (i : BitVec 11) (off : Nat), (∀ o ∈ (s.ea b x i).2, o = none)
      ∧ ownOff (s.ea b x i).1 = some off ∧ off + 2 ^ z.toNat ≤ 2 ^ 21 ∧ (∀ p ∈ s.core.l1.psn, p.1 < off / 8 ∨ (off + 2 ^ z.toNat - 1) / 8 < p.1)
      ∧ (s.srcM d).psn = none ∧ s.boundElems (s.ea b x i).1.toNat (2 ^ z.toNat) = [])
    ∧ (∀ denied : Bool, ∃ (s : State) (z : BitVec 2) (b : BitVec 4) (x : BitVec 1) (i : BitVec 11), (∀ o ∈ (s.ea b x i).2, o = none)
      ∧ ownOff (s.ea b x i).1 = none
      ∧ decide (targetOf' s.core.cid (s.ea b x i).1.toNat (2 ^ z.toNat) = .pad ∧ s.padDenied (s.ea b x i).1.toNat = true) = denied)
    ∧ (∃ (s : State) (z : BitVec 2) (d : BitVec 6) (b : BitVec 4) (x : BitVec 1) (i : BitVec 11) (es : List Stored) (el : Stored) (s1 : State),
      (∀ o ∈ (s.ea b x i).2, o = none) ∧ targetOf' s.core.cid (s.ea b x i).1.toNat (2 ^ z.toNat) = .own ∧ (s.srcM d).psn = none
      ∧ State.storedElems (s.ea b x i).1.toNat (leBytes (2 ^ z.toNat) (s.srcM d).val.toNat) (s.boundElems (s.ea b x i).1.toNat (2 ^ z.toNat)) s = .ok (es, s1)
      ∧ es.find? (fun y => y.obj.bact == 3 && y.obj.violates y.code) = some el)
    ∧ (∃ (s : State) (z : BitVec 2) (d : BitVec 6) (b : BitVec 4) (x : BitVec 1) (i : BitVec 11), (∀ o ∈ (s.ea b x i).2, o = none)
      ∧ targetOf' s.core.cid (s.ea b x i).1.toNat (2 ^ z.toNat) = .none ∧ (s.srcM d).psn = none) := by
  refine ⟨⟨plainA 1 (own 0x1FFFF9), 3, 4, 1, 0, 0x7FF, 0x1FFFF8, by decide +kernel⟩, fun b => ?_,
    ⟨boundState, 2, 4, 1, 0, 0, [boundStored], boundStored, _, by decide +kernel, by decide +kernel, by decide +kernel, ok_of _ _ (by decide +kernel),
      by decide +kernel⟩, ⟨withA 1 (own 0x200000), 2, 4, 1, 1, 8, by decide +kernel⟩⟩
  cases b
  · exact ⟨withA 1 (own 0x800000), 2, 1, 1, 0, by decide +kernel⟩
  · exact ⟨withA 1 (own 0x202800000), 2, 1, 1, 0, by decide +kernel⟩

/-- Core 0 that stores eight bytes at a page it has mapped, with or without a fence that waits to leave, and what the translation leaves. -/
def storer (clear : Bool) : State :=
  mapped (with0 { running.setA 1 ⟨0x1038, none⟩ with egress := if clear then [] else [⟨0, false, .fence, 0⟩] }
    { launch with lrec := { launch.lrec with objCount := 0 } })
def stored (clear : Bool) : State := stOf ((storer clear).resolve (storer clear).me .w ((storer clear).ea 1 0 0).1.toNat)

theorem witness_DistantStores :
    (∃ (s : State) (z : BitVec 2) (d : BitVec 6) (b : BitVec 4) (x : BitVec 1) (i : BitVec 11) (pa : Nat) (key : Option Nat) (kind : Nat) (s1 s2 : State),
      (∀ o ∈ (s.ea b x i).2, o = none) ∧ (s.srcM d).psn = none ∧ (s.ea b x i).1.toNat % 64 + 2 ^ z.toNat ≤ 64
      ∧ targetOf' s.core.cid (s.ea b x i).1.toNat (2 ^ z.toNat) = .dev ∧ s.boundElems (s.ea b x i).1.toNat (2 ^ z.toNat) = []
      ∧ s.resolve s.me .w (s.ea b x i).1.toNat = .ok (.dev pa key kind, s1)
      ∧ s1.goesNow false [(.dev pa key kind, (s.ea b x i).1.toNat, 2 ^ z.toNat)] = true
      ∧ s1.sectorWrite key pa (clean (leBytes (2 ^ z.toNat) (s.srcM d).val.toNat)) (s.ea b x i).1 = .ok ((), s2) ∧ pa % 64 + 2 ^ z.toNat ≤ 64)
    ∧ (∃ (s : State) (z : BitVec 2) (d : BitVec 6) (b : BitVec 4) (x : BitVec 1) (i : BitVec 11) (cl off : Nat) (s1 : State),
      (∀ o ∈ (s.ea b x i).2, o = none) ∧ (s.srcM d).psn = none ∧ (s.ea b x i).1.toNat % 64 + 2 ^ z.toNat ≤ 64
      ∧ targetOf' s.core.cid (s.ea b x i).1.toNat (2 ^ z.toNat) = .pad ∧ s.padDenied (s.ea b x i).1.toNat = false
      ∧ s.resolve s.me .w (s.ea b x i).1.toNat = .ok (.l2 cl off, s1)
      ∧ s1.goesNow false [(.l2 cl off, (s.ea b x i).1.toNat, 2 ^ z.toNat)] = true ∧ off + 2 ^ z.toNat ≤ 0x7FFC00)
    ∧ (∃ (s : State) (z : BitVec 2) (d : BitVec 6) (b : BitVec 4) (x : BitVec 1) (i : BitVec 11) (places : List (Loc × Nat × Nat)) (s1 : State),
      (∀ o ∈ (s.ea b x i).2, o = none) ∧ (s.srcM d).psn = none ∧ (s.ea b x i).1.toNat % 64 + 2 ^ z.toNat ≤ 64
      ∧ State.resolveAll s.me .w (pieces (2 ^ z.toNat) (s.ea b x i).1.toNat (2 ^ z.toNat)) s = .ok (places, s1) ∧ s1.goesNow false places = false
      ∧ targetOf' s.core.cid (s.ea b x i).1.toNat (2 ^ z.toNat) = .dev ∧ s.boundElems (s.ea b x i).1.toNat (2 ^ z.toNat) = [])
    ∧ (∃ (s : State) (z : BitVec 2) (d : BitVec 6) (b : BitVec 4) (x : BitVec 1) (i : BitVec 11) (places : List (Loc × Nat × Nat)) (s1 : State),
      (∀ o ∈ (s.ea b x i).2, o = none) ∧ (s.srcM d).psn = none ∧ (s.ea b x i).1.toNat % 64 + 2 ^ z.toNat ≤ 64
      ∧ State.resolveAll s.me .w (pieces (2 ^ z.toNat) (s.ea b x i).1.toNat (2 ^ z.toNat)) s = .ok (places, s1) ∧ s1.goesNow false places = false
      ∧ targetOf' s.core.cid (s.ea b x i).1.toNat (2 ^ z.toNat) = .pad ∧ s.padDenied (s.ea b x i).1.toNat = false)
    ∧ (∃ (s : State) (z : BitVec 2) (d : BitVec 6) (b : BitVec 4) (x : BitVec 1) (i : BitVec 11),
      (∀ o ∈ (s.ea b x i).2, o = none) ∧ (s.srcM d).psn = none ∧ (s.ea b x i).1.toNat % 64 + 2 ^ z.toNat ≤ 64
      ∧ targetOf' s.core.cid (s.ea b x i).1.toNat (2 ^ z.toNat) = .stat) :=
  ⟨by
      obtain ⟨s2, h2⟩ := State.sectorWrite_keyless (stored true) 0x40001038 (clean (leBytes (2 ^ (3#2).toNat) ((storer true).srcM 4).val.toNat))
        ((storer true).ea 1 0 0).1
      exact ⟨storer true, 3, 4, 1, 0, 0, _, none, 0, stored true, s2, by decide +kernel, by decide +kernel, by decide +kernel, by decide +kernel, by decide +kernel,
        ok_of _ (Loc.dev 0x40001038 none 0) (by decide +kernel), by decide +kernel, h2, by decide⟩,
    ⟨withA 1 (own 0xFFFBF8), 3, 4, 1, 0, 0, 0, 0x7FFBF8, _, by decide +kernel, by decide +kernel, by decide +kernel, by decide +kernel, by decide +kernel,
      ok_of _ (Loc.l2 0 0x7FFBF8) (by decide +kernel), by decide +kernel, by decide +kernel⟩,
    ⟨storer false, 3, 4, 1, 0, 0, [(.dev 0x40001038 none 0, 0x1038, 8)], _, by decide +kernel, by decide +kernel, by decide +kernel,
      ok_of _ _ (by decide +kernel), by decide +kernel, by decide +kernel, by decide +kernel⟩,
    ⟨with0 { running.setA 1 ⟨own 0xFFFBF8, none⟩ with egress := [⟨0, false, .fence, 0⟩] }, 3, 4, 1, 0, 0, [(.l2 0 0x7FFBF8, (own 0xFFFBF8).toNat, 8)], _,
      by decide +kernel, by decide +kernel, by decide +kernel, ok_of _ _ (by decide +kernel), by decide +kernel, by decide +kernel, by decide +kernel⟩,
    ⟨withA 1 (own 0x2000000), 3, 4, 1, 0, 0, by decide +kernel⟩⟩

/-- A thread with n landing loads in flight. -/
def landing (n : Nat) : Thread := { running with flights := (List.range n).map fun i => ⟨9, .land i 4 none none⟩ }

/-- The own-L1 place, and the device place, of eight bytes; states whose core is about to read or write there, and what the translation leaves. -/
def ownPlace : List (Loc × Nat × Nat) := [(.l1 0 0x1FFFF8 true, (own 0x1FFFF8).toNat, 8)]
def devPlace : List (Loc × Nat × Nat) := [(.dev 0x40001000 none 0, 0x1000, 8)]
def lander (a : DWord) : State := mapped (with0 ((landing 31).setA 1 ⟨a, none⟩))
def landed (a : DWord) (r : Right) : State := stOf (State.resolveAll (lander a).me r (pieces 8 a.toNat 8) (lander a))

theorem witness_LandingAndOrder :
    (∃ (s s1 s2 : State) (places : List (Loc × Nat × Nat)) (bs : List PByte) (z : BitVec 2) (b : BitVec 3) (o : BitVec 4),
      let ea := (s.srcA (b.zeroExtend 4)).val + BitVec.ofNat 64 (2 ^ z.toNat * o.toNat)
      (s.srcA (b.zeroExtend 4)).psn = none ∧ s.core.t.landings < 32 ∧ targetOf' s.core.cid ea.toNat (2 ^ z.toNat) ≠ .none
      ∧ State.resolveAll s.me .rd (pieces (2 ^ z.toNat) ea.toNat (2 ^ z.toNat)) s = .ok (places, s1)
      ∧ targetOf' s.core.cid ea.toNat (2 ^ z.toNat) = .own ∧ State.readAll places s1 = .ok (bs, s2))
    ∧ (∃ (s s1 : State) (places : List (Loc × Nat × Nat)) (z : BitVec 2) (b : BitVec 3) (o : BitVec 4),
      let ea := (s.srcA (b.zeroExtend 4)).val + BitVec.ofNat 64 (2 ^ z.toNat * o.toNat)
      (s.srcA (b.zeroExtend 4)).psn = none ∧ s.core.t.landings < 32 ∧ targetOf' s.core.cid ea.toNat (2 ^ z.toNat) = .dev
      ∧ State.resolveAll s.me .rd (pieces (2 ^ z.toNat) ea.toNat (2 ^ z.toNat)) s = .ok (places, s1) ∧ s1.goesNow false places = false)
    ∧ (∃ (s : State) (b : BitVec 3), (s.srcA (b.zeroExtend 4)).psn = none ∧ 32 ≤ s.core.t.landings)
    ∧ (∃ (s s1 s2 : State) (places : List (Loc × Nat × Nat)) (bs : List PByte) (z : BitVec 2) (b : BitVec 3),
      let a := s.srcA (b.zeroExtend 4)
      a.psn = none ∧ s.core.t.landings < 32 ∧ a.val.toNat % 2 ^ z.toNat = 0 ∧ ownOff a.val = none
      ∧ targetOf' s.core.cid a.val.toNat (2 ^ z.toNat) ≠ .none ∧ targetOf' s.core.cid a.val.toNat (2 ^ z.toNat) ≠ .own
      ∧ State.resolveAll s.me .rd (pieces (2 ^ z.toNat) a.val.toNat (2 ^ z.toNat)) s = .ok (places, s1) ∧ s1.goesNow false places = true
      ∧ State.readAll places s1 = .ok (bs, s2))
    ∧ (∃ (s : State) (z : BitVec 2) (b : BitVec 3), (s.srcA (b.zeroExtend 4)).psn = none ∧ s.core.t.landings < 32
      ∧ (s.srcA (b.zeroExtend 4)).val.toNat % 2 ^ z.toNat ≠ 0)
    ∧ (∃ (s s1 s2 : State) (places : List (Loc × Nat × Nat)) (e : BitVec 3) (z : BitVec 2) (d : BitVec 5) (b : BitVec 3),
      let a := s.srcA (b.zeroExtend 4)
      a.psn = none ∧ (s.srcS d).psn = none ∧ a.val.toNat % 2 ^ z.toNat = 0 ∧ targetOf' s.core.cid a.val.toNat (2 ^ z.toNat) = .dev
      ∧ State.resolveAll s.me .w (pieces (2 ^ z.toNat) a.val.toNat (2 ^ z.toNat)) s = .ok (places, s1) ∧ s1.goesNow (e == 4) places = true
      ∧ State.writeAll s1.me places (clean (leBytes (2 ^ z.toNat) (s.srcS d).val.sext.toNat)) s1 = .ok ((), s2))
    ∧ (∃ (s s1 : State) (places : List (Loc × Nat × Nat)) (e : BitVec 3) (z : BitVec 2) (d : BitVec 5) (b : BitVec 3),
      let a := s.srcA (b.zeroExtend 4)
      a.psn = none ∧ (s.srcS d).psn = none ∧ a.val.toNat % 2 ^ z.toNat = 0 ∧ targetOf' s.core.cid a.val.toNat (2 ^ z.toNat) = .dev
      ∧ State.resolveAll s.me .w (pieces (2 ^ z.toNat) a.val.toNat (2 ^ z.toNat)) s = .ok (places, s1) ∧ s1.goesNow (e == 4) places = false)
    ∧ (∃ f : Egress, f.op = .fence) := by
  refine ⟨?_, ?_, ⟨with0 (landing 32), 1, by decide +kernel, by decide +kernel⟩, ?_,
    ⟨with0 ((landing 31).setA 1 ⟨0x1001, none⟩), 1, 1, by decide +kernel, by decide +kernel, by decide +kernel⟩, ?_, ?_, ⟨⟨0, true, .fence, 0⟩, rfl⟩⟩
  · obtain ⟨bs, u, h⟩ := State.readAll_keyless ownPlace (landed (own 0x1FFFF8) .rd) (by decide)
    exact ⟨lander (own 0x1FFFF8), landed (own 0x1FFFF8) .rd, u, ownPlace, bs, 3, 1, 0, by decide +kernel, by decide +kernel, by decide +kernel, ok_of _ _ (by decide +kernel), by decide +kernel, h⟩
  · exact ⟨mapped (with0 { (landing 31).setA 1 ⟨0x1000, none⟩ with egress := [⟨0, false, .fence, 0⟩] }), _, [(.dev 0x40001000 none 0, 0x1000, 8)], 3, 1, 0,
      by decide +kernel, by decide +kernel, by decide +kernel, ok_of _ _ (by decide +kernel), by decide +kernel⟩
  · obtain ⟨bs, u, h⟩ := State.readAll_keyless devPlace (landed 0x1000 .rd) (by decide)
    exact ⟨lander 0x1000, landed 0x1000 .rd, u, devPlace, bs, 3, 1, by decide +kernel, by decide +kernel, by decide +kernel, by decide +kernel, by decide +kernel, by decide +kernel,
      ok_of _ _ (by decide +kernel), by decide +kernel, h⟩
  · obtain ⟨u, h⟩ := State.writeAll_keyless (landed 0x1000 .w).me devPlace (clean (leBytes 8 ((lander 0x1000).srcS 4).val.sext.toNat)) (landed 0x1000 .w)
      (by decide)
    exact ⟨lander 0x1000, landed 0x1000 .w, u, devPlace, 4, 3, 4, 1, by decide +kernel, by decide +kernel, by decide +kernel, by decide +kernel, ok_of _ _ (by decide +kernel),
      by decide +kernel, h⟩
  · exact ⟨mapped (with0 { running.setA 1 ⟨0x1000, none⟩ with rputs := 1 }), _, [(.dev 0x40001000 none 0, 0x1000, 8)], 4, 3, 4, 1,
      by decide +kernel, by decide +kernel, by decide +kernel, by decide +kernel, ok_of _ _ (by decide +kernel), by decide +kernel⟩

/-- The store of an AMO at a place that needs no key answers. -/
theorem amoStore_at (s : State) (w : Who) (loc : Loc) (bs : List PByte) (ea : DWord) (k : loc.keyless = true) : ∃ u, s.amoStore w loc bs ea = .ok ((), u) := by
  cases loc with
  | dev pa key kind => cases key with
    | none => obtain ⟨u, e⟩ := s.sectorPut_keyless pa bs ea; simp only [State.amoStore, devStored, Access.bind, e]; exact ⟨_, rfl⟩
    | some n => cases k
  | _ => exact s.writeLoc_keyless w _ bs ea k

/-- An AMO at a place that needs no key answers. -/
theorem amo_at (s : State) (w : Who) (o : BitVec 3) (loc : Loc) (ea : DWord) (x y : Word) (k : loc.keyless = true) :
    ∃ old t, s.amoDo w o loc ea x y = .ok (old, t) := by
  obtain ⟨bs, t, e⟩ := s.readLoc_keyless loc 4 ea k
  obtain ⟨v, f⟩ := amoStore_at t w loc (clean (leBytes 4 (amoNew o (loaded 4 bs).val.low x y).toNat)) ea k
  simp only [Access.bind, State.amoDo, e, f]
  split <;> exact ⟨_, _, rfl⟩

theorem witness_Atomics :
    (∃ (s : State) (d : BitVec 5) (b : BitVec 3), s.core.t.landings < 32 ∧ (s.srcA (b.zeroExtend 4)).psn = none ∧ (s.srcS d).psn = none
      ∧ (s.srcS (d + 1)).psn = none ∧ (s.srcA (b.zeroExtend 4)).val.toNat % 4 ≠ 0)
    ∧ (∃ (s : State) (d : BitVec 5) (b : BitVec 3) (off : Nat), s.core.t.landings < 32 ∧ (s.srcA (b.zeroExtend 4)).psn = none
      ∧ (s.srcS d).psn = none ∧ (s.srcS (d + 1)).psn = none ∧ (s.srcA (b.zeroExtend 4)).val.toNat % 4 = 0
      ∧ ownOff (s.srcA (b.zeroExtend 4)).val = some off ∧ SMap.find? s.core.l1.psn (off / 8) = none)
    ∧ (∃ (s s1 s2 : State) (o : BitVec 3) (d : BitVec 5) (b : BitVec 3) (loc : Loc) (old : PDWord), s.core.t.landings < 32
      ∧ (s.srcA (b.zeroExtend 4)).psn = none ∧ (s.srcS d).psn = none ∧ (s.srcS (d + 1)).psn = none ∧ (s.srcA (b.zeroExtend 4)).val.toNat % 4 = 0
      ∧ targetOf s.core.cid (s.srcA (b.zeroExtend 4)).val.toNat = .dev ∧ s.amoPlace (s.srcA (b.zeroExtend 4)).val = .ok (loc, s1)
      ∧ s1.goesNow true [(loc, (s.srcA (b.zeroExtend 4)).val.toNat, 4)] = true
      ∧ s1.amoDo s1.me o loc (s.srcA (b.zeroExtend 4)).val (s.srcS d).val (s.srcS (d + 1)).val = .ok (old, s2))
    ∧ (∃ (s s1 : State) (d : BitVec 5) (b : BitVec 3) (loc : Loc), s.core.t.landings < 32 ∧ (s.srcA (b.zeroExtend 4)).psn = none
      ∧ (s.srcS d).psn = none ∧ (s.srcS (d + 1)).psn = none ∧ (s.srcA (b.zeroExtend 4)).val.toNat % 4 = 0
      ∧ targetOf s.core.cid (s.srcA (b.zeroExtend 4)).val.toNat = .pad ∧ s.padDenied (s.srcA (b.zeroExtend 4)).val.toNat = false
      ∧ s.amoPlace (s.srcA (b.zeroExtend 4)).val = .ok (loc, s1) ∧ s1.goesNow true [(loc, (s.srcA (b.zeroExtend 4)).val.toNat, 4)] = false) := by
  refine ⟨⟨withA 1 (own 2), 4, 1, by decide +kernel⟩, ⟨withA 1 (own 0x1FFFFC), 4, 1, 0x1FFFFC, by decide +kernel⟩, ?_, ?_⟩
  · let s := mapped (withA 1 0x1000)
    let s1 := stOf (s.amoPlace 0x1000)
    obtain ⟨old, t, h⟩ := amo_at s1 s1.me 0 (.dev 0x40001000 none 0) 0x1000 (s.srcS 4).val (s.srcS (4 + 1)).val (by decide)
    exact ⟨s, s1, t, 0, 4, 1, .dev 0x40001000 none 0, old, by decide +kernel, by decide +kernel, by decide +kernel, by decide +kernel, by decide +kernel,
      by decide +kernel, ok_of _ _ (by decide +kernel), by decide +kernel, h⟩
  · exact ⟨with0 { running.setA 1 ⟨own 0xFFFBFC, none⟩ with rputs := 1 }, _, 4, 1, .l2 0 0x7FFBFC, by decide +kernel, by decide +kernel,
      by decide +kernel, by decide +kernel, by decide +kernel, by decide +kernel, by decide +kernel, ok_of _ _ (by decide +kernel), by decide +kernel⟩



/-! ### Tiles, timelines, barriers, rings -/

/-- An object of 8 by 8 elements of 4 bytes in tiles of 4 by 4, read and written. -/
def anObj : Obj :=
  { base := 0x1000, rows := 8, cols := 8, rstride := 32, estride := 4, type := 8, trows := 4, tcols := 4, bact := 0, quant := false, digest := false,
    rd := true, wr := true, peer := false, inf := false, oute := 0, lo := 0, hi := 0 }

/-- Core 0 with the object in slot 63, an own-L1 address at the last place of a tile in a1, and a word in s2. -/
def withObj (o : Obj) (a : DWord) (v : Word) : State := with0 (({ running with objs := [(63, o)] }.setA 1 ⟨a, none⟩).setS 2 ⟨v, none⟩)

theorem witness_TileWords :
    (∃ (s : State) (q r : BitVec 1) (slot : BitVec 6) (b : BitVec 4) (z : BitVec 5) (o : Obj) (off : Nat), (s.srcA b).psn = none ∧ (s.srcS z).psn = none
      ∧ SMap.find? s.core.t.objs slot.toNat = some o ∧ (s.srcA b).val.toNat % 64 = 0 ∧ ownOff (s.srcA b).val = some off
      ∧ s.core.t.queueFull q = false ∧ off + o.tileBytes ≤ 2 ^ 21
      ∧ o.hasTile ((s.srcS z).val.toNat / 2 ^ 16 % 2 ^ 14) ((s.srcS z).val.toNat % 2 ^ 14) = true ∧ o.peer = false
      ∧ off + o.moveArea false ≤ 2 ^ 21 ∧ o.forbids false (r == 1) = false)
    ∧ (∃ (s : State) (q r : BitVec 1) (slot : BitVec 6) (b : BitVec 4) (z : BitVec 5) (o : Obj) (off : Nat), (s.srcA b).psn = none ∧ (s.srcS z).psn = none
      ∧ SMap.find? s.core.t.objs slot.toNat = some o ∧ (s.srcA b).val.toNat % 64 = 0 ∧ ownOff (s.srcA b).val = some off
      ∧ s.core.t.queueFull q = false ∧ o.hasTile ((s.srcS z).val.toNat / 2 ^ 16 % 2 ^ 14) ((s.srcS z).val.toNat % 2 ^ 14) = true ∧ o.peer = false
      ∧ off + o.moveArea true ≤ 2 ^ 21 ∧ o.forbids true (r == 1) = false)
    ∧ (∃ (s : State) (slot : BitVec 6) (b : BitVec 4) (z : BitVec 5), (s.srcA b).psn = none ∧ (s.srcS z).psn = none
      ∧ SMap.find? s.core.t.objs slot.toNat = none ∧ (s.srcS z).val.toNat % 2 ^ 16 < s.lrec.objCount ∧ s.core.t.handler = false)
    ∧ (∃ s : State, s.core.t.handler = true) :=
  ⟨⟨withObj anObj (own 0x1FFF00) 0x00010001, 1, 1, 63, 1, 2, anObj, 0x1FFF00, by decide +kernel⟩,
    ⟨withObj { anObj with quant := true, type := 0x11 } (own 0x1FFF00) 0x00010001, 0, 1, 63, 1, 2, { anObj with quant := true, type := 0x11 }, 0x1FFF00,
      by decide +kernel⟩,
    ⟨withObj anObj 0 1, 62, 1, 2, by decide +kernel⟩, ⟨with0 { running with handler := true }, rfl⟩⟩

/-- Core 0 with ring 63 of its cluster: four buffers and the given counts. -/
def withRing (nheld nfull : Byte) (t : Thread := running) : State :=
  { with0 t with l2 := [(0, { bytes := [(0x7FFFF8, nheld), (0x7FFFF9, nfull), (0x7FFFFC, 4)] })], l2Ctx := [(0, 0)] }

/-- The same with barrier 127 and, or without, an access that holds back later ones. -/
def heldOut (clear : Bool) (nheld nfull : Byte) : State :=
  withRing nheld nfull { running.setBar 127 { valid := true } with egress := if clear then [] else [⟨0, false, .fence, 0⟩] }

theorem witness_Timelines :
    (∃ (s : State) (t : BitVec 3) (a : BitVec 6), (s.srcM a).psn = none ∧ (s.srcM a).val.toNat ≤ s.core.t.tl[tlIx t].val
      ∧ (t.toNat ≤ 5 → (s.srcM a).val.toNat ≤ s.core.t.tl[tlIx t].issued))
    ∧ (∃ (s : State) (t : BitVec 3) (a : BitVec 6), (s.srcM a).psn = none ∧ s.core.t.tl[tlIx t].val < (s.srcM a).val.toNat
      ∧ (t.toNat ≤ 5 → (s.srcM a).val.toNat ≤ s.core.t.tl[tlIx t].issued))
    ∧ (∃ (s : State) (t : BitVec 3) (a : BitVec 6), (s.srcM a).psn = none ∧ t.toNat ≤ 5 ∧ s.core.t.tl[tlIx t].issued < (s.srcM a).val.toNat)
    ∧ (∀ b : Bool, ∃ (s : State) (a : BitVec 6), (s.srcM a).psn = none ∧ s.core.t.egressClear = b) :=
  ⟨⟨withS 8 0, 5, 8, by decide +kernel⟩, ⟨with0 ((nearlyFull 16).setS 8 ⟨16, none⟩), 2, 8, by decide +kernel⟩, ⟨withS 8 1, 5, 8, by decide +kernel⟩,
    fun b => ⟨heldOut b 0 0, 8, by cases b <;> decide +kernel⟩⟩

/-- A thread whose barrier 127 is a copy of the barrier of core 0 alone. -/
def withBar (pending : Bool) : Thread := running.setBar 127 { valid := true, pending := pending }

theorem witness_BarriersAndRings :
    (∀ same : Bool, ∃ (s : State) (b : BitVec 7) (a : BitVec 6), (s.srcM a).psn = none ∧ (s.srcM a).val.low.toNat / 2 ^ 18 = 0
      ∧ (s.srcM a).val.low.toNat / 2 ^ 6 % 4 = 0 ∧ (rectOf (s.srcM a).val.low.toNat).aligned = true
      ∧ (rectOf (s.srcM a).val.low.toNat).inside s.lrec = true ∧ (rectOf (s.srcM a).val.low.toNat).has s.core.cid = true
      ∧ decide ((s.core.t.bar b).valid = true ∧ (s.core.t.bar b).rect = rectOf (s.srcM a).val.low.toNat) = same)
    ∧ (∀ c : Bool, ∃ (s : State) (b : BitVec 7) (a : BitVec 6), (s.srcM a).psn = none ∧ (s.core.t.bar b).valid = true ∧ (s.core.t.bar b).pending = false
      ∧ s.core.t.egressClear = c)
    ∧ (∃ (s : State) (b : BitVec 7) (a : BitVec 6), (s.srcM a).psn = none ∧ (s.core.t.bar b).valid = true ∧ (s.core.t.bar b).pending = true)
    ∧ (∃ (s : State) (b : BitVec 7) (a : BitVec 6), (s.srcM a).psn = none ∧ (s.core.t.bar b).valid = false)
    ∧ (∃ (s : State) (n : Nat) (a : PDWord), s.core.t.ring = some (.granted n a))
    ∧ (∃ (s : State) (n at' : Nat) (sd : Bool), s.core.t.ring = some (.asked n sd at'))
    ∧ (∃ (s : State) (r : BitVec 6), s.core.t.ring = none ∧ (s.atBank.ring r).nbuf = 0)
    ∧ (∀ c : Bool, ∃ (s : State) (r : BitVec 6), s.core.t.ring = none ∧ (s.atBank.ring r).nbuf ≠ 0 ∧ s.core.t.egressClear = c)
    ∧ (∃ (s : State) (r : BitVec 6), (s.atBank.ring r).nbuf ≠ 0 ∧ s.core.t.egressClear = true ∧ (s.atBank.ring r).nheld = 0)
    ∧ (∃ (s : State) (r : BitVec 6), (s.atBank.ring r).nbuf ≠ 0 ∧ s.core.t.egressClear = true ∧ (s.atBank.ring r).nheld ≠ 0
      ∧ (s.atBank.ring r).nfull < 255) := by
  refine ⟨fun c => ⟨with0 ((running.setS 8 ⟨0x12, none⟩).setBar 127 { valid := c, rect := rectOf 0x12 }), 127, 8, by cases c <;> decide +kernel⟩,
    fun c => ⟨heldOut c 0 0, 127, 8, by cases c <;> decide +kernel⟩, ⟨with0 (withBar true), 127, 8, by decide +kernel⟩,
    ⟨with0 running, 127, 8, by decide +kernel⟩, ⟨with0 { running with ring := some (.granted 63 {}) }, 63, {}, rfl⟩,
    ⟨with0 { running with ring := some (.asked 63 true 0) }, 63, 0, true, rfl⟩,
    ⟨with0 running, 63, rfl, by decide +kernel⟩, fun c => ⟨heldOut c 1 1, 63, by cases c <;> decide +kernel⟩,
    ⟨withRing 0 1, 63, by decide +kernel⟩, ⟨withRing 1 254, 63, by decide +kernel⟩⟩

/-! ### Worklist, other devices, equivalence engine -/

/-- Core 0 with a packet in its own L1, its address in a1, and a code object with one entry in the L2 of its cluster. The packet's first
doubleword has its high byte alone: its length and its kind. -/
def withPacket (off : Nat) (b : Byte) (t : Thread := running) : State :=
  { with0 t { launch with lrec := { launch.lrec with codeAddr := own 0x800000 } } with
    core := { cid := 0, t := t.setA 1 ⟨own off, none⟩, l1 := { bytes := [(off + 7, b)] } }, l2 := [(0, { bytes := [(0, 1), (4, 3)] })], l2Ctx := [(0, 0)] }

/-- Whether the hub accepts, and whether it refuses a bad packet. -/
def accepts : Except Cause Word → Bool
  | .ok _ => true
  | .error _ => false
def refuses : Except Cause Word → Bool
  | .error .badPacket => true
  | _ => false

theorem of_accepts (x : Except Cause Word) (h : accepts x = true) : ∃ w, x = .ok w := by
  cases x with
  | ok w => exact ⟨w, rfl⟩
  | error c => cases h

theorem of_refuses (x : Except Cause Word) (h : refuses x = true) : x = .error .badPacket := by
  cases x with
  | ok w => cases h
  | error c => cases c <;> first | rfl | cases h

theorem witness_WorklistWords :
    (∃ s : State, s.core.t.gang = true ∧ s.core.t.landings < 32)
    ∧ (∃ (s s1 : State) (b : BitVec 4) (off n : Nat) (h : Word), s.core.t.gang = false ∧ (s.srcA b).psn = none ∧ (s.srcA b).val.toNat % 32 = 0
      ∧ ownOff (s.srcA b).val = some off ∧ n = packetLen (plain (s.core.l1.readP off 8)) ∧ 0 < n ∧ n ≤ 256 ∧ off + n ≤ 2 ^ 21
      ∧ psnOf (s.core.l1.readP off 8) = none ∧ psnOf (s.core.l1.readP off n) = none
      ∧ s.hubAccept s.core.t.lslot (dieOf s.core.cid) [0] false none (some s.core.cid) (plain (s.core.l1.readP off n)) = .ok (.ok h, s1)
      ∧ s1.core.t.mode = .run ∧ s.core.t.landings < 32 ∧ s.pushClear = true)
    ∧ (∃ (s s1 : State) (b : BitVec 4) (off n : Nat), s.core.t.gang = false ∧ (s.srcA b).psn = none ∧ (s.srcA b).val.toNat % 32 = 0
      ∧ ownOff (s.srcA b).val = some off ∧ n = packetLen (plain (s.core.l1.readP off 8)) ∧ 0 < n ∧ n ≤ 256 ∧ off + n ≤ 2 ^ 21
      ∧ psnOf (s.core.l1.readP off 8) = none ∧ psnOf (s.core.l1.readP off n) = none
      ∧ s.hubAccept s.core.t.lslot (dieOf s.core.cid) [0] false none (some s.core.cid) (plain (s.core.l1.readP off n)) = .ok (.error .badPacket, s1)
      ∧ s.core.t.landings < 32 ∧ s.pushClear = true)
    ∧ (∃ (s s1 : State) (b : BitVec 4) (off n : Nat) (h : Word), s.core.t.gang = false ∧ (s.srcA b).psn = none ∧ (s.srcA b).val.toNat % 32 = 0
      ∧ ownOff (s.srcA b).val = some off ∧ n = packetLen (plain (s.core.l1.readP off 8)) ∧ 0 < n ∧ n ≤ 256 ∧ off + n ≤ 2 ^ 21
      ∧ psnOf (s.core.l1.readP off 8) = none ∧ psnOf (s.core.l1.readP off n) = none
      ∧ s.hubAccept s.core.t.lslot (dieOf s.core.cid) [2] false none (some s.core.cid) (plain (s.core.l1.readP off n)) = .ok (.ok h, s1)
      ∧ s1.core.t.mode = .run)
    ∧ (∃ s : State, s.pushClear = false ∧ s.core.t.landings < 32)
    ∧ (∃ (s : State) (r : BitVec 5), s.core.t.gang = false ∧ (s.srcS r).psn = none ∧ s.core.t.task.succ.length < 7)
    ∧ (∃ (s : State) (r : BitVec 5), s.core.t.gang = false ∧ (s.srcS r).psn = none ∧ 7 ≤ s.core.t.task.succ.length) := by
  refine ⟨⟨with0 { running with gang := true }, rfl, by decide⟩, ?_, ?_, ?_, ⟨with0 { running with egress := [⟨0, false, .fence, 0⟩] }, by decide, by decide⟩,
    ⟨with0 { running with task := { succ := List.replicate 6 0 } }, 0, by decide +kernel⟩,
    ⟨with0 { running with task := { succ := List.replicate 7 0 } }, 0, by decide +kernel⟩⟩
  · obtain ⟨h, s1, e, p⟩ := of_answering (fun h s1 => accepts h && s1.core.t.mode == .run) ((withPacket 0x1FFFE0 0x10).hubAccept 0 0 [0] false none (some 0)
      (plain ((withPacket 0x1FFFE0 0x10).core.l1.readP 0x1FFFE0 32))) (by decide +kernel)
    rw [Bool.and_eq_true, beq_iff_eq] at p
    obtain ⟨w, rfl⟩ := of_accepts h p.1
    exact ⟨withPacket 0x1FFFE0 0x10, s1, 1, 0x1FFFE0, 32, w, by decide +kernel, by decide +kernel, by decide +kernel, by decide +kernel, by decide +kernel,
      by decide, by decide, by decide, by decide +kernel, by decide +kernel, e, p.2, by decide +kernel, by decide +kernel⟩
  · obtain ⟨h, s1, e, p⟩ := of_answering (fun h _ => refuses h) ((withPacket 0x1FFF00 0x8C).hubAccept 0 0 [0] false none (some 0)
      (plain ((withPacket 0x1FFF00 0x8C).core.l1.readP 0x1FFF00 256))) (by decide +kernel)
    obtain rfl := of_refuses h p
    exact ⟨withPacket 0x1FFF00 0x8C, s1, 1, 0x1FFF00, 256, by decide +kernel, by decide +kernel, by decide +kernel, by decide +kernel, by decide +kernel,
      by decide, by decide, by decide, by decide +kernel, by decide +kernel, e, by decide +kernel, by decide +kernel⟩
  · obtain ⟨h, s1, e, p⟩ := of_answering (fun h s1 => accepts h && s1.core.t.mode == .run) ((withPacket 0x1FFFC0 0x28).hubAccept 0 0 [2] false none (some 0)
      (plain ((withPacket 0x1FFFC0 0x28).core.l1.readP 0x1FFFC0 64))) (by decide +kernel)
    rw [Bool.and_eq_true, beq_iff_eq] at p
    obtain ⟨w, rfl⟩ := of_accepts h p.1
    exact ⟨withPacket 0x1FFFC0 0x28, s1, 1, 0x1FFFC0, 64, w, by decide +kernel, by decide +kernel, by decide +kernel, by decide +kernel, by decide +kernel,
      by decide, by decide, by decide, by decide +kernel, by decide +kernel, e, p.2⟩

/-- A thread with 63 numbers of tl4 outstanding, the address of its L1's last 64 bytes in a1 and the given words in s2 to s4. -/
def sender (x y z : Word) : Thread :=
  ((({ running with tl := running.tl.set 4 { val := 0, issued := 63 } }.setA 1 ⟨own 0x1FFFC0, none⟩).setS 2 ⟨x, none⟩).setS 3 ⟨y, none⟩).setS 4 ⟨z, none⟩

/-- Core 0 about to put 64 bytes, and about to send eight elements of 8 bytes, to itself. -/
def putter : State := with0 (sender 64 0 0)
def adder : State := with0 (sender 0x40000008 0 0)

/-- A contribution of member 0 to slot 63 of die 0. -/
def aCon : Contribution :=
  { die := 0, slot := 63, group := 0, view := 0, sender := 0, type := 0, count := 2, elems := [1, 0, 0, 0, 2, 0, 0, 0], poison := false, ack := none, lslot := 0 }

theorem witness_RemoteWords :
    (∃ (s : State) (a t : BitVec 4) (l v : BitVec 5), (s.srcA a).psn = none ∧ (s.srcA t).psn = none ∧ (s.srcS l).psn = none ∧ (s.srcS v).psn = none
      ∧ (s.srcS l).val.toNat < 64)
    ∧ (∃ (s : State) (a t : BitVec 4) (l v : BitVec 5),
      let g := s.selfOf s.lrec.group
      let len := (s.srcS l).val.toNat
      (s.srcA a).psn = none ∧ (s.srcA t).psn = none ∧ (s.srcS l).psn = none ∧ (s.srcS v).psn = none ∧ len % 64 = 0 ∧ 64 ≤ len ∧ len ≤ 2 ^ 24
      ∧ (s.srcS v).val.toNat = g.1 ∧ (s.srcS v).val.toNat < 2 ^ 18 ∧ g.2.core.t.tl4Full true = false ∧ (s.srcA t).val.toNat % 64 = 0
      ∧ (s.srcA t).val.toNat < 2 ^ 56 ∧ (s.srcA a).val.toNat % 64 = 0 ∧ targetOf' g.2.core.cid (s.srcA a).val.toNat len = .own)
    ∧ (∃ (s : State) (a : BitVec 4) (n l : BitVec 5),
      let g := s.selfOf s.lrec.group
      let w := g.2.viewOf s.lrec.group
      let c := (s.srcS n).val.toNat
      let size := if c / 2 ^ 30 = 1 then 8 else 4
      (s.srcA a).psn = none ∧ (s.srcS n).psn = none ∧ (s.srcS l).psn = none ∧ c / 2 ^ 30 ≠ 3 ∧ c / 2 ^ 17 % 2 ^ 13 = 0 ∧ c % 2 ^ 17 ≠ 0
      ∧ c % 2 ^ 17 ≤ 65536 ∧ c % 2 ^ 17 * size ≤ 2 ^ 18 ∧ (s.srcS l).val.toNat / 2 ^ 30 = 0 ∧ (s.srcS l).val.toNat % 2 ^ 18 = g.1
      ∧ w.2.core.t.tl4Full true = false ∧ (s.srcA a).val.toNat % 64 = 0
      ∧ targetOf' w.2.core.cid (s.srcA a).val.toNat (c % 2 ^ 17 * size) = .own)
    ∧ (∃ (s : State) (a : BitVec 4) (z : BitVec 5) (off m : Nat), s.core.t.gang = false ∧ (s.srcA a).psn = none ∧ (s.srcA a).val.toNat % 32 = 0
      ∧ ownOff (s.srcA a).val = some off ∧ m = packetLen (plain (s.core.l1.readP off 8)) ∧ 0 < m ∧ m ≤ 256 ∧ off + m ≤ 2 ^ 21
      ∧ psnOf (s.core.l1.readP off 8) = none ∧ psnOf (s.core.l1.readP off m) = none ∧ (s.srcS z).psn = none ∧ (s.srcS z).val.toNat / 2 ^ 24 = 0
      ∧ (s.srcS z).val.toNat % 2 ^ 18 = (s.selfOf s.lrec.group).1
      ∧ ((s.selfOf s.lrec.group).2.viewOf s.lrec.group).2.core.t.tl4Full true = false)
    ∧ (∃ (s : State) (p : PutReq), p.member = p.sender ∧ p.ack = some (5, 64) ∧ s.catchUp = [])
    ∧ (∃ (s : State) (con : Contribution), con.ack = some (5, 0) ∧ SMap.find? s.catchUp con.group = none) :=
  ⟨⟨withS 8 63, 0, 0, 8, 9, by decide +kernel⟩, ⟨putter, 1, 0, 2, 3, by decide +kernel⟩, ⟨adder, 1, 2, 3, by decide +kernel⟩,
    ⟨withPacket 0x1FFFE0 0x10 (sender 0 0 0), 1, 2, 0x1FFFE0, 32, by decide +kernel⟩,
    ⟨State.reset, ⟨0, 0, 0, 0, 0, [], [], some (5, 64), 0⟩, rfl, rfl, rfl⟩, ⟨State.reset, { aCon with ack := some (5, 0) }, rfl, rfl⟩⟩

theorem witness_EquivalenceWords :
    (∃ (s : State) (d : BitVec 5) (b : BitVec 4), s.core.t.landings < 32 ∧ (s.srcA b).psn = none ∧ (s.srcA b).val.toNat % 64 = 0 ∧ (s.srcS d).psn = none
      ∧ d ≠ 31 ∧ (s.srcS (d + 1)).psn = none)
    ∧ (∃ (s : State) (b : BitVec 4), s.core.t.landings < 32 ∧ (s.srcA b).psn = none ∧ (s.srcA b).val.toNat % 64 ≠ 0) :=
  ⟨⟨with0 ((landing 31).setA 1 ⟨0x1000, none⟩), 30, 1, by decide +kernel⟩, ⟨withA 1 0x1020, 1, by decide +kernel⟩⟩

/-! ### Steps of the engines that work for a core -/

theorem witness_UnitSteps :
    (∃ (s : State) (f : Flight) (id : Nat) (d : BitVec 5) (v : PDWord) (k : Option Nat), f ∈ (s.coreAt 0).t.flights ∧ f.fx = .land id d (some v) k)
    ∧ (∃ (s : State) (k : Nat), (s.coreAt 0).t.fetching = some k)
    ∧ (∃ (s : State) (seq num slot l1 : Nat) (v pc : DWord) (o : Obj), (s.coreAt 0).t.tq0 = [.tfill seq num slot l1 v pc]
      ∧ SMap.find? (s.coreAt 0).t.objs slot = some o ∧ l1 + o.tileBytes ≤ 2 ^ 21 ∧ (s.coreAt 0).t.tileWaits 0 (.tfill seq num slot l1 v pc) = false
      ∧ num = ((s.coreAt 0).t.tl[0]).val + 1 ∧ ((s.coreAt 0).t.tl[0]).done = [])
    ∧ (∃ (s s1 s2 : State) (seq num slot l1 ty tx : Nat) (quant : Bool) (pc : DWord) (o : Obj),
      (s.coreAt 0).t.tq0 = [.tmov seq num false quant slot l1 ty tx pc] ∧ SMap.find? (s.coreAt 0).t.objs slot = some o ∧ o.hasTile ty tx = true
      ∧ o.forbids quant false = false ∧ l1 + o.moveArea quant ≤ 2 ^ 21 ∧ o.peer = false
      ∧ (s.coreAt 0).t.tileWaits 0 (.tmov seq num false quant slot l1 ty tx pc) = false
      ∧ s.eqBefore 0 (s.coreAt 0).t.lslot seq (((s.coreAt 0).t.opMem (.tmov seq num false quant slot l1 ty tx pc)).map (fun m => m.1)) = false
      ∧ s.moveIn 0 0 num (s.engineOf 0) o quant l1 ty tx = .ok (s1, s2))
    ∧ (∃ (s s1 : State) (seq num slot index : Nat) (pc : DWord) (o : Option Obj), (s.coreAt 0).t.tq0 = [.objld seq num slot index pc]
      ∧ (s.coreAt 0).t.tileWaits 0 (.objld seq num slot index pc) = false
      ∧ s.readObj (s.engineOf 0) ((SMap.find? s.launches (s.coreAt 0).t.lslot).map (fun x => x.lrec.objAddr) |>.getD 0) index = .ok (o, s1))
    ∧ (∃ (s : State) (seq num : Nat) (x : Launch), (s.coreAt 0).t.tq0 = [.objpub seq num] ∧ (s.coreAt 0).t.tileWaits 0 (.objpub seq num) = false
      ∧ SMap.find? s.launches (s.coreAt 0).t.lslot = some x)
    ∧ (∃ s : State, (s.coreAt 0).arrayRuns = true ∧ s.arrayFrozen 0 = false ∧ (s.coreAt 0).t.arr.queue ≠ [] ∧ (s.coreAt 0).t.arr.phase = .idle)
    ∧ (∃ s : State, (s.coreAt 0).arrayRuns = true ∧ s.arrayFrozen 0 = false ∧ (s.coreAt 0).t.arr.phase = .running
      ∧ (∃ o ∈ (s.coreAt 0).t.arr.queue.head?, (s.coreAt 0).t.isPrefix o = true) ∧ (s.coreAt 0).t.arrayLocked = false)
    ∧ (∃ (s : State) (num : Nat), (s.coreAt 0).arrayRuns = true ∧ s.arrayFrozen 0 = false ∧ (s.coreAt 0).t.arrayEnds = true ∧ (s.coreAt 0).t.arrayLocked = false
      ∧ (s.coreAt 0).t.arr.queue = [.sclr num])
    ∧ (∃ (s : State) (num src len place : Nat), (s.coreAt 0).arrayRuns = true ∧ s.arrayFrozen 0 = false ∧ (s.coreAt 0).t.arrayEnds = true ∧ (s.coreAt 0).t.arrayLocked = false
      ∧ (s.coreAt 0).t.arr.queue = [.wbld 0 num src len place])
    ∧ (∃ (s : State) (r : PeerRead) (seq num l1 len : Nat) (data : List (BitVec 8)), s.peerReads = [r] ∧ r.got = none
      ∧ (s.coreAt r.cid).t.tq r.q = [.peer seq num r.group l1 len] ∧ data.length = r.size ∧ 0 < r.size ∧ r.oute < 16) := by
  refine ⟨⟨with0 { running with flights := [⟨0, .land 7 4 (some {}) none⟩] }, ⟨0, .land 7 4 (some {}) none⟩, 7, 4, {}, none, List.mem_singleton.mpr rfl, rfl⟩,
    ⟨with0 { running with fetching := some 1 }, 1, rfl⟩,
    ⟨with0 { running with tq0 := [.tfill 0 1 63 0x1FFF00 5 0], objs := [(63, anObj)] }, 0, 1, 63, 0x1FFF00, 5, 0, anObj, by decide +kernel⟩, ?_, ?_,
    ⟨with0 { running with tq0 := [.objpub 0 1] }, 0, 1, launch, rfl, by decide +kernel, rfl⟩,
    ⟨with0 { running with arr := { queue := [.sclr 1] } }, by decide +kernel⟩,
    ⟨with0 { running with ntActive := running.ntActive.set 7 (onePass 4), arr := { queue := [.sgo 0 1 7 (running.nestCfg 0) none], phase := .running } },
      by decide +kernel, by decide +kernel, by decide +kernel, ⟨_, rfl, by decide +kernel⟩, by decide +kernel⟩,
    ⟨with0 { running with arr := { queue := [.sclr 1], phase := .running } }, 1, by decide +kernel⟩,
    ⟨with0 { running with arr := { queue := [.wbld 0 1 0x1FFFC0 1 8191], phase := .running } }, 1, 0x1FFFC0, 1, 8191, by decide +kernel⟩,
    ⟨{ with0 { running with tq1 := [.peer 0 1 9 0x1FFF00 256] } with peerReads := [⟨5, 15, 0, 0x1FFF00, 4, 1, 9, none⟩] }, ⟨5, 15, 0, 0x1FFF00, 4, 1, 9, none⟩, 0, 1, 0x1FFF00,
      256, [1, 2, 3, 4], rfl, rfl, rfl, rfl, by decide, by decide⟩⟩
  · let s := mapped (with0 { running with tq0 := [.tmov 0 1 false false 63 0x1FFF00 1 1 0], objs := [(63, anObj)] })
    obtain ⟨s1, s2, h⟩ := of_answers (s.moveIn 0 0 1 (s.engineOf 0) anObj false 0x1FFF00 1 1) (by decide +kernel)
    exact ⟨s, s1, s2, 0, 1, 63, 0x1FFF00, 1, 1, false, 0, anObj, by decide +kernel, by decide +kernel, by decide +kernel, by decide +kernel, by decide +kernel,
      by decide +kernel, by decide +kernel, by decide +kernel, h⟩
  · let s := mapped (with0 { running with tq0 := [.objld 0 1 5 1 0] })
    obtain ⟨o, s1, h⟩ := of_answers (s.readObj (s.engineOf 0) 0 1) (by decide +kernel)
    exact ⟨s, s1, 0, 1, 5, 1, 0, o, by decide +kernel, by decide +kernel, h⟩

/-- An operation on the forest at virtual address 0, and the state that holds it: two elements, 1 below 0 or both roots. -/
def anOp (kind : EqKind) (phase : EqPhase) (x ra : Nat) : EqOp :=
  { id := 1, cid := 0, ctx := 0, lslot := 0, num := 1, pc := 0, land := none, kind := kind, desc := 0, x := x, ra := ra, phase := phase }
def forestState (below : Bool) (o : EqOp) : State :=
  { walked (with0 running) ([(0x40000001, 1), (0x40000008, 0x40), (0x40000009, 1), (0x40000018, 2), (0x40000024, 2)]
      ++ (if below then [] else [(0x40000104, 1)]) ++ [(0x40000140, 1), (0x40000144, 1)]) with eqOps := [o] }

/-- The forest itself as its descriptor gives it. -/
def aForest : Forest :=
  { at' := 0, parent := 0x100, size := 0x140, log := 0, logcap := 0, n := 2, count := 2, snap := 0, used := 0, resv := 0, undoing := false, isOpen := false }

/-- What an access of an operation that answers leaves, its marks kept and its hold ended. -/
def kept (o : EqOp) (u v : State) : State := (v.eqKeep u o).unhold (.engine o.cid)

/-- The states of a link, of a delta and of an operation that holds, access by access. -/
def lnk : EqOp := anOp .un .link 0 1
def link0 : State := forestState false lnk
def link1 : State := stOf (link0.eqForest lnk.who 0)
def link2 : State := stOf ((kept lnk link0 link1).putForest lnk.who aForest)
def link3 : State := stOf (((kept lnk link1 link2).setEqOp lnk).eqForest lnk.who 0)
def link4 : State := stOf (link3.eqRead lnk.who (aForest.parentAt 1) 4)
def link5 : State := stOf ((kept lnk link3 link4).eqRead lnk.who (aForest.sizeAt 1) 4)
def link6 : State := stOf (link5.eqWrite lnk.who (aForest.parentAt 1) 4 0)
def dlt : EqOp := anOp .un .delta 0 1
def delta0 : State := forestState true dlt
def delta1 : State := stOf (delta0.eqForest dlt.who 0)
def delta2 : State := stOf (delta1.eqRead dlt.who (aForest.parentAt 0) 4)
def delta3 : State := stOf ((kept dlt delta0 delta2).eqRead dlt.who (aForest.sizeAt 0) 4)
def deltaUp0 : State := forestState true { dlt with x := 1 }
def deltaUp1 : State := stOf (deltaUp0.eqForest dlt.who 0)

/-- A find at element x, in the part of a hop that up and back give; and what its first accesses leave. -/
def fnd (x : Nat) (up : Option Nat := none) (back : Option (Nat × Nat) := none) : EqOp := { anOp .fd (.find false) x 0 with up := up, back := back }
def fnd0 (o : EqOp) : State := forestState true o
def fnd1 (o : EqOp) : State := stOf ((fnd0 o).eqForest o.who 0)
def fnd2 (o : EqOp) : State := stOf ((kept o (fnd0 o) (fnd1 o)).eqRead o.who (aForest.parentAt o.x) 4)
def find0 (k : EqKind) (p : EqPhase) (x : Nat) : State := forestState true (anOp k p x 0)
def find1 (k : EqKind) (p : EqPhase) (x : Nat) : State := stOf ((find0 k p x).eqForest (anOp k p x 0).who 0)
def check1 (k : EqKind) : State := stOf ((find0 k .start 0).eqCheck (anOp k .start 0 0).who 0)

theorem forest_found (k : EqKind) (p : EqPhase) (x : Nat) (h : gives (some aForest) ((find0 k p x).eqForest (anOp k p x 0).who 0) = true) :
    (find0 k p x).eqForest (anOp k p x 0).who 0 = .ok (some aForest, find1 k p x) := ok_of _ _ h

/-- A find that may move: the forest is read, and the parent of its element is the one given. -/
theorem find_reads (o : EqOp) (q : Nat) (d : o.desc = 0) (h1 : gives (some aForest) ((fnd0 o).eqForest o.who 0) = true)
    (h2 : gives (some q) ((kept o (fnd0 o) (fnd1 o)).eqRead o.who (aForest.parentAt o.x) 4) = true) :
    (fnd0 o).eqForest o.who o.desc = .ok (some aForest, fnd1 o)
    ∧ (kept o (fnd0 o) (fnd1 o)).eqRead o.who (aForest.parentAt o.x) 4 = .ok (some q, fnd2 o) := by
  rw [d]
  exact ⟨ok_of _ _ h1, ok_of _ _ h2⟩

theorem witness_EquivalenceSteps :
    (∀ c : Fin 4, ∃ (s s1 s2 : State) (o : EqOp) (f : Forest) (p : Nat), s.eqOp? o.id = some o ∧ o.kind = .fd ∧ o.phase = .find false ∧ o.back = none
      ∧ (if c = 0 then o.up = none ∧ p = o.x else if c = 1 then o.up = none ∧ p ≠ o.x else if c = 2 then o.up.isSome = true ∧ p = o.x
        else o.up.isSome = true ∧ p ≠ o.x)
      ∧ s.eqForest o.who o.desc = .ok (some f, s1) ∧ (kept o s s1).eqRead o.who (f.parentAt o.x) 4 = .ok (some p, s2))
    ∧ (∃ (s s1 s2 : State) (o : EqOp) (f : Forest) (p g : Nat), s.eqOp? o.id = some o ∧ o.phase = .find false ∧ o.back = some (p, g)
      ∧ s.eqForest o.who o.desc = .ok (some f, s1) ∧ (kept o s s1).compress o.who f o.x p g = .ok (some (), s2))
    ∧ (∃ (s s1 s2 s3 s4 s5 s6 s7 : State) (o : EqOp) (f : Forest) (sz : Nat), s.eqOp? o.id = some o ∧ o.kind = .un ∧ o.phase = .link ∧ o.resv = 0
      ∧ o.ra ≠ o.rb ∧ f.isOpen = false ∧ s.eqForest o.who o.desc = .ok (some f, s1) ∧ (kept o s s1).putForest o.who f = .ok (some (), s2)
      ∧ ((kept o s1 s2).setEqOp o).eqForest o.who o.desc = .ok (some f, s3)
      ∧ s3.eqRead o.who (f.parentAt (max o.ra o.rb)) 4 = .ok (some (max o.ra o.rb), s4)
      ∧ (kept o s3 s4).eqRead o.who (f.sizeAt (max o.ra o.rb)) 4 = .ok (some sz, s5)
      ∧ s5.eqWrite o.who (f.parentAt (max o.ra o.rb)) 4 (min o.ra o.rb) = .ok (some (), s6)
      ∧ s6.putForest o.who { f with count := f.count + 2 ^ 32 - 1 } = .ok (some (), s7))
    ∧ (∃ (s s1 s2 : State) (o : EqOp) (f : Forest) (p : Nat), s.eqOp? o.id = some o ∧ o.kind = .un ∧ o.phase = .delta ∧ f.isOpen = false
      ∧ s.eqForest o.who o.desc = .ok (some f, s1) ∧ s1.eqRead o.who (f.parentAt o.x) 4 = .ok (some p, s2) ∧ p ≠ o.x)
    ∧ (∃ (s s1 s2 s3 s4 : State) (o : EqOp) (f : Forest) (sz : Nat), s.eqOp? o.id = some o ∧ o.kind = .un ∧ o.phase = .delta ∧ f.isOpen = false
      ∧ s.eqForest o.who o.desc = .ok (some f, s1) ∧ s1.eqRead o.who (f.parentAt o.x) 4 = .ok (some o.x, s2)
      ∧ (kept o s s2).eqRead o.who (f.sizeAt o.x) 4 = .ok (some sz, s3)
      ∧ s3.eqWrite o.who (f.sizeAt o.x) 4 ((sz + o.dval) % 2 ^ 32) = .ok (some (), s4))
    ∧ (∃ (s s1 s2 : State) (o : EqOp) (f : Forest), s.eqOp? o.id = some o ∧ o.kind ∈ [EqKind.init, .snap, .undo, .drop, .label, .reduce] ∧ o.phase = .start
      ∧ s.eqWaits o = false ∧ o.objsFit f = true
      ∧ s.eqCheck o.who o.desc = .ok (some f, s1) ∧ (kept o s s1).putForest o.who { f with undoing := true } = .ok (some (), s2))
    ∧ (∃ (s s1 s2 : State) (o : EqOp) (f : Forest), s.eqOp? o.id = some o ∧ o.phase = .hold ∧ s.eqOthers o = false
      ∧ s.eqForest o.who o.desc = .ok (some f, s1) ∧ s1.eqHeld o f = .ok (some (), s2))
    ∧ (∀ k ∈ [EqKind.snap, EqKind.drop, EqKind.undo], ∀ b : Bool, ∃ (s : State) (o : EqOp) (f : Forest), s.eqOp? o.id = some o ∧ o.kind = k ∧ f.isOpen = b)
    ∧ (∃ (s s1 : State) (o : EqOp) (f : Forest), s.eqOp? o.id = some o ∧ o.phase = .start ∧ o.kind = .cnt ∧ s.eqWaits o = false
      ∧ s.eqCheck o.who o.desc = .ok (some f, s1))
    ∧ (∃ (s : State) (o : EqOp), s.eqOp? o.id = some o ∧ o.phase = .done ∧ (s.coreAt o.cid).t.mode = .run ∧ (s.coreAt o.cid).t.lslot = o.lslot
      ∧ o.num = ((s.coreAt o.cid).t.tl[3]).val + 1 ∧ ((s.coreAt o.cid).t.tl[3]).done = []) := by
  refine ⟨fun c => ?_, ⟨fnd0 (fnd 1 none (some (0, 0))), fnd1 (fnd 1 none (some (0, 0))), _, fnd 1 none (some (0, 0)), aForest, 0, 0, by decide +kernel, rfl, rfl,
      ok_of _ _ (by decide +kernel), ok_of _ _ (by decide +kernel)⟩,
    ⟨link0, link1, link2, link3, link4, link5, link6, _, lnk, aForest, 1, by decide +kernel, rfl, rfl, rfl, by decide, rfl,
      ok_of _ (some aForest) (by decide +kernel), ok_of _ (some ()) (by decide +kernel), ok_of _ (some aForest) (by decide +kernel),
      ok_of _ (some 1) (by decide +kernel), ok_of _ (some 1) (by decide +kernel), ok_of _ (some ()) (by decide +kernel), ok_of _ (some ()) (by decide +kernel)⟩,
    ⟨deltaUp0, deltaUp1, _, { dlt with x := 1 }, aForest, 0, by decide +kernel, rfl, rfl, rfl, ok_of _ (some aForest) (by decide +kernel),
      ok_of _ (some 0) (by decide +kernel), by decide⟩,
    ⟨delta0, delta1, delta2, delta3, _, dlt, aForest, 1, by decide +kernel, rfl, rfl, rfl, ok_of _ (some aForest) (by decide +kernel),
      ok_of _ (some 0) (by decide +kernel), ok_of _ (some 1) (by decide +kernel), ok_of _ (some ()) (by decide +kernel)⟩,
    ⟨find0 .snap .start 0, check1 .snap, _, anOp .snap .start 0 0, aForest, by decide +kernel, by decide, rfl, by decide +kernel, by decide +kernel,
      ok_of _ (some aForest) (by decide +kernel), ok_of _ (some ()) (by decide +kernel)⟩,
    ⟨find0 .init .hold 0, find1 .init .hold 0, _, anOp .init .hold 0 0, aForest, by decide +kernel, rfl, by decide +kernel,
      forest_found _ _ _ (by decide +kernel), ok_of _ (some ()) (by decide +kernel)⟩,
    fun k _ b => ⟨find0 k .hold 0, anOp k .hold 0 0, { aForest with isOpen := b }, by rfl, rfl, rfl⟩,
    ⟨find0 .cnt .start 0, check1 .cnt, anOp .cnt .start 0 0, aForest, by decide +kernel, rfl, rfl, by decide +kernel, ok_of _ (some aForest) (by decide +kernel)⟩,
    ⟨find0 .cnt .done 0, anOp .cnt .done 0 0, by decide +kernel, rfl, by decide +kernel, by decide +kernel, by decide +kernel, by decide +kernel⟩⟩
  match c with
  | 0 => obtain ⟨a, b⟩ := find_reads (fnd 0) 0 rfl (by decide +kernel) (by decide +kernel)
         exact ⟨fnd0 (fnd 0), _, _, fnd 0, aForest, 0, by decide +kernel, rfl, rfl, rfl, ⟨rfl, rfl⟩, a, b⟩
  | 1 => obtain ⟨a, b⟩ := find_reads (fnd 1) 0 rfl (by decide +kernel) (by decide +kernel)
         exact ⟨fnd0 (fnd 1), _, _, fnd 1, aForest, 0, by decide +kernel, rfl, rfl, rfl, ⟨rfl, by decide⟩, a, b⟩
  | 2 => obtain ⟨a, b⟩ := find_reads (fnd 0 (some 1)) 0 rfl (by decide +kernel) (by decide +kernel)
         exact ⟨fnd0 (fnd 0 (some 1)), _, _, fnd 0 (some 1), aForest, 0, by decide +kernel, rfl, rfl, rfl, ⟨rfl, rfl⟩, a, b⟩
  | 3 => obtain ⟨a, b⟩ := find_reads (fnd 1 (some 1)) 0 rfl (by decide +kernel) (by decide +kernel)
         exact ⟨fnd0 (fnd 1 (some 1)), _, _, fnd 1 (some 1), aForest, 0, by decide +kernel, rfl, rfl, rfl, ⟨rfl, by decide⟩, a, b⟩

/-- A put of core 0's own member of four bytes at an own page. -/
def aPut : PutReq := { member := 0, target := 0x1000, bytes := [1, 2, 3, 4], poisoned := [], sender := 0, ctx := 0, lslot := 0, ack := none, group := 0 }

/-- Whether an access meets a trap. -/
def traps {α : Type} : Access α → Bool
  | .error (.trap ..) => true
  | _ => false

theorem of_traps {α : Type} (x : Access α) (h : traps x = true) : ∃ rank cause val origin s, x = .error (.trap rank cause val origin s) := by
  cases x with
  | ok p => cases h
  | error e => cases e <;> first | exact ⟨_, _, _, _, _, rfl⟩ | cases h

/-- A page that may be read only. -/
def readOnly : State := { with0 running with tlbs := [(0, [⟨0, 0, 30, 0x0200020040000000⟩])] }

theorem witness_Arrivals :
    (∀ last : Bool, ∃ (s : State) (bar : Nat) (x : Bar), bar < 128 ∧ (s.coreAt 0).t.mode = .run ∧ (s.coreAt 0).t.lslot = 0 ∧ x = (s.coreAt 0).t.bar (BitVec.ofNat 7 bar)
      ∧ x.valid = true ∧ (if last then x.arrived + 1 = x.rect.w * x.rect.h else x.arrived + 1 < x.rect.w * x.rect.h))
    ∧ (∃ (s : State) (r at' : Nat) (side : Bool) (x : Ring) (a : DWord), (s.coreAt 0).t.ring = some (.asked r side at')
      ∧ SMap.find? s.l2Ctx (clusterOf 0) = some (s.coreAt 0).t.ctx
      ∧ s.firstAsker (clusterOf 0) r side = some 0 ∧ ((s.l2At (clusterOf 0)).ring r).acquire side = some (x, a))
    ∧ (∃ (s : State) (n fate : Nat), (s.coreAt 0).t.mode = .run ∧ (s.coreAt 0).t.lslot = 0 ∧ n ≠ 0 ∧ fate < 2 ^ 32
      ∧ n = ((s.coreAt 0).t.tl[4]).val + 1 ∧ ((s.coreAt 0).t.tl[4]).done = [])
    ∧ (∃ (s s1 : State) (p : PutReq) (x : Launch), p.sender = p.member ∧ SMap.find? s.launches p.lslot = some x
      ∧ p.target.toNat + p.bytes.length ≤ 0xFF000000000000 ∧ p.target.toNat < 0xFF000000000000
      ∧ s.writeVa ⟨x.lrec.cores.headD 0, x.ctx, some p.lslot, true, dieOf (x.lrec.cores.headD 0)⟩ p.target.toNat (repoison p.bytes p.poisoned)
        = .ok ((), s1))
    ∧ (∃ (s s1 : State) (p : PutReq) (x : Launch) (rank : Nat) (cause : Cause) (val : DWord) (origin : Psn), p.sender = p.member
      ∧ SMap.find? s.launches p.lslot = some x ∧ p.target.toNat + p.bytes.length ≤ 0xFF000000000000 ∧ p.target.toNat < 0xFF000000000000
      ∧ s.writeVa ⟨x.lrec.cores.headD 0, x.ctx, some p.lslot, true, dieOf (x.lrec.cores.headD 0)⟩ p.target.toNat (repoison p.bytes p.poisoned)
        = .error (.trap rank cause val origin s1))
    ∧ (∃ (s : State) (p : PutReq) (x : Launch), p.sender = p.member ∧ SMap.find? s.launches p.lslot = some x ∧ 0xFF000000000000 ≤ p.target.toNat)
    ∧ (∃ (off : Nat) (bs : List Byte), 0 < bs.length ∧ off + bs.length = 0x7FFC00)
    ∧ (∃ (off : Nat) (bs : List Byte), 0 < bs.length ∧ off + bs.length = 0xFFF000) := by
  obtain ⟨rank, cause, val, origin, s1, h⟩ := of_traps (readOnly.writeVa ⟨0, 0, some 0, true, 0⟩ aPut.target.toNat (repoison aPut.bytes aPut.poisoned))
    (by decide +kernel)
  exact ⟨fun b => ⟨with0 (running.setBar 127 { valid := true, rect := rectOf (if b then 0 else 0x12) }), 127,
      { valid := true, rect := rectOf (if b then 0 else 0x12) }, by decide, rfl, rfl, by cases b <;> decide +kernel, rfl, by cases b <;> decide⟩,
    ⟨{ with0 { running with ring := some (.asked 63 true 0), hold := some .racq } with l2 := (withRing 0 255).l2, l2Ctx := [(0, 0)] }, 63, 0, true, _, _, rfl, rfl, by decide +kernel,
      Option.eq_some_of_isSome (by decide +kernel)⟩,
    ⟨with0 (sender 0 0 0), 1, 2 ^ 32 - 1, rfl, rfl, by decide, by decide, by decide +kernel, by decide +kernel⟩,
    ⟨mapped (with0 running), _, aPut, launch, rfl, rfl, by decide, by decide, ok_of _ () (by decide +kernel)⟩,
    ⟨readOnly, s1, aPut, launch, rank, cause, val, origin, rfl, rfl, by decide, by decide, h⟩,
    ⟨with0 running, { aPut with target := 0xFF000000000000 }, launch, rfl, rfl, by decide⟩,
    ⟨0x7FFBFF, [1], by decide, by decide⟩, ⟨0xFFEFFF, [1], by decide, by decide⟩⟩

/-! ### Tasks, gangs and contexts -/

/-- A task launch whose hub on die 0 holds what a block says, with core 0 idle and a code object of one entry mapped at 0. -/
def withHub (h : HubBlock) (t : Thread := {}) (x : Launch := launch) : State :=
  mapped (with0 t { x with hubs := [(0, h)] }) [(0x40000000, 1), (0x40000004, 3)]

/-- A packet of 32 bytes with every field 0 but its length. -/
def aPacket : List (BitVec 8) := List.replicate 7 0 ++ [0x10] ++ List.replicate 24 0

/-- A task and a nest record as a hub holds them. -/
def aTask : Task := { uid := 7, handle := 0x4000, start := 3 }
def aNest : Task := { uid := 8, kind := 2, counts := [1, 1, 1, 1, 1, 2], walked := 1 }
def sleeper : Task := { uid := 9, suspended := true, waitv := 2 ^ 32 - 1, tln := 7 }

def launchWithHub : Launch := { launch with hubs := [(0, {})] }

/-- Core 0 as it loads the task, with two objects in the table. -/
def loading : State := withHub {} { mode := .loading, task := aTask }

theorem witness_TaskLife :
    (∃ (s s1 : State) (x : Launch) (pkt : List (BitVec 8)) (h : Word), SMap.find? s.launches 0 = some x
      ∧ s.hubAccept 0 0 [0, 2] false (some 0) none pkt = .ok (.ok h, s1))
    ∧ (∃ (s s1 : State) (x : Launch) (pkt : List (BitVec 8)) (why : Cause), SMap.find? s.launches 0 = some x
      ∧ s.hubAccept 0 0 [0, 2] false (some 0) none pkt = .ok (.error why, s1))
    ∧ (∃ (s s1 : State) (x : Launch) (k : Task) (rs : List Region) (ps : List Placed), SMap.find? s.launches 0 = some x
      ∧ x.dieWith (fun h => h.walking.any (fun q => q.uid == k.uid)) = some 0
      ∧ (s.block 0 0).walking.find? (fun q => q.uid == k.uid) = some k ∧ k.walked < k.counts.foldl (· * ·) 1
      ∧ (k.regions.zip k.coeffs).mapM (fun p => childRegion p.1 p.2 (iteration k.counts k.walked)) = some rs
      ∧ State.regionObjs 0 (x.whoAt 0 0) rs s = .ok (some ps, s1) ∧ regionsFit ps = true)
    ∧ (∃ (s s1 : State) (x : Launch), SMap.find? s.launches 0 = some x ∧ s.choose 0 = some s1)
    ∧ (∃ (s : State) (x : Launch) (k : Task), SMap.find? s.launches 0 = some x ∧ k.suspended = false ∧ k.regions.length ≤ 8 ∧ k.idx.length ≤ 6
      ∧ k.payload.length ≤ 16)
    ∧ (∃ (s s1 s2 : State) (x : Launch), SMap.find? s.launches 0 = some x ∧ (s.coreAt 0).t.lslot = 0 ∧ (s.coreAt 0).t.mode = .loading
      ∧ (s.coreAt 0).t.gang = false ∧ (s.coreAt 0).t.codeLen = 0 ∧ s.ctxFrozen x.ctx = false ∧ (s.coreAt 0).t.windowed = false
      ∧ s.readTable 0 0 x = .ok ((), s1)
      ∧ State.bringRegions 0 (s.engineOf 0) (s1.coreAt 0).t.task (s.coreAt 0).t.task.regions.zipIdx s1 = .ok ((), s2))
    ∧ (∃ (s s2 : State) (x : Launch), SMap.find? s.launches 0 = some x ∧ (s.coreAt 0).t.lslot = 0 ∧ (s.coreAt 0).t.mode = .loading
      ∧ (s.coreAt 0).t.gang = false ∧ (s.coreAt 0).t.codeLen = 0 ∧ s.ctxFrozen x.ctx = false ∧ (s.coreAt 0).t.windowed = true
      ∧ State.bringRegions 0 (s.engineOf 0) (s.coreAt 0).t.task (s.coreAt 0).t.task.regions.zipIdx s = .ok ((), s2))
    ∧ (∃ (s : State) (x : Launch), SMap.find? s.launches 0 = some x ∧ (s.coreAt 0).t.lslot = 0 ∧ (s.coreAt 0).t.mode = .ending ∧ (s.coreAt 0).t.hold = none
      ∧ (s.coreAt 0).t.gang = false ∧ (s.coreAt 0).t.susp = false ∧ (s.hub 0).copyQ.head? = some 0
      ∧ s.poolUsed 0 + outBytes (s.coreAt 0).outputs ≤ poolBytes)
    ∧ (∃ (s s1 : State) (x x1 : Launch) (uid : Nat) (r : Retire), SMap.find? s.launches 0 = some x
      ∧ x.retiring.find? (fun q => q.task.uid == uid) = some r ∧ r.task.succ = []
      ∧ State.storeOuts 0 ⟨r.cid, x.ctx, some 0, true, dieOf r.cid⟩ r.task r.outs s = .ok (none, s1) ∧ SMap.find? s1.launches 0 = some x1)
    ∧ (∃ (s : State) (x y : Launch) (b : Nat) (cr : SMap Nat) (k : Task) (dep : Bool), SMap.find? s.launches 0 = some x ∧ s.preloadFor 0 = some (b, k, dep)
      ∧ SMap.find? s.launches (s.coreAt 0).t.lslot = some y ∧ s.preloadTurn (s.coreAt 0).t.lslot (dieOf 0) y.lrec = some cr)
    ∧ (∃ (s : State) (x : Launch) (k : Task), SMap.find? s.launches 0 = some x
      ∧ x.dieWith (fun h => h.suspended.any (fun q => q.uid == k.uid)) = some 0
      ∧ (s.block 0 0).suspended.find? (fun q => q.uid == k.uid) = some k
      ∧ (s.tlAt (cidOf k.cx k.cy) 0 k.tln + (2 ^ 32 - k.waitv.toNat)) % 2 ^ 32 < 2 ^ 31)
    ∧ (∃ (s : State) (x : Launch), SMap.find? s.launches 0 = some x ∧ (s.coreAt 0).t.lslot = 0 ∧ (s.coreAt 0).t.taskOpen = true ∧ (s.coreAt 0).t.mode = .run
      ∧ x.lrec.task = true ∧ x.lrec.tbudget ≠ 0 ∧ x.lrec.tbudget < (s.coreAt 0).t.budget ∧ x.phase = .running ∧ x.cause = none)
    ∧ (∃ (s s1 : State) (x : Launch) (g e : Nat), SMap.find? s.launches 0 = some x ∧ x.phase = .running ∧ x.gangsLeft.contains g = true
      ∧ s.ctxFrozen x.ctx = false ∧ x.lrec.glog2w ≤ 2 ∧ x.lrec.glog2h ≤ 2
      ∧ (∀ m ∈ x.lrec.gangCores g, (s.coreAt m.1).freeFor x.lrec.deadline = true)
      ∧ s.codeEntry (x.whoAt 0 (dieOf (x.lrec.gangLead g))) x.lrec.codeAddr 0 = .ok (some e, s1)) := by
  refine ⟨?_, ?_,
    ⟨withHub { walking := [aNest] }, _, _, aNest, [], [], rfl, by decide +kernel, by decide +kernel, by decide, rfl, rfl, rfl⟩,
    ⟨withHub { buckets := [(0, [aTask])] }, _, _, rfl, Option.eq_some_of_isSome (by decide +kernel)⟩,
    ⟨withHub {}, _, { aTask with regions := List.replicate 8 ⟨0, 0, 0, 0, 0, 0⟩, idx := List.replicate 6 1, payload := List.replicate 16 1 }, rfl, rfl,
      by decide, by decide, by decide⟩, ?_, ⟨{ withHub {} { loading.core.t with windowed := true } with mem := [] }, _, _, rfl, rfl, rfl, rfl, rfl,
        by decide +kernel, rfl, rfl⟩,
    ⟨{ withHub {} { running with mode := .ending, task := aTask } with hubs := [(0, { copyQ := [0] })] }, _, rfl, rfl, rfl, rfl, rfl, rfl, by decide +kernel,
      by decide +kernel⟩,
    ⟨withHub {} {} { launch with retiring := [⟨aTask, 0, 0, [], 0⟩] }, _, _, _, 7, ⟨aTask, 0, 0, [], 0⟩, rfl, by decide +kernel, rfl, rfl, rfl⟩,
    ⟨withHub { buckets := [(0, [aTask])] } { running with task := { aTask with uid := 6 } }, _, _, _, _, _, _, rfl, Option.eq_some_of_isSome (by decide +kernel),
      rfl, Option.eq_some_of_isSome (by decide +kernel)⟩,
    ⟨withHub { suspended := [sleeper] } running, _, sleeper, rfl, by decide +kernel, by decide +kernel, by decide +kernel⟩,
    ⟨withHub {} { running with budget := 2 } { launch with lrec := { launch.lrec with tbudget := 1 } }, _, rfl, rfl, rfl, rfl, rfl, by decide, by decide +kernel,
      rfl, rfl⟩,
    ⟨withHub {} {} { launch with gangsLeft := [3], lrec := { launch.lrec with task := false, glog2w := 1, glog2h := 1 } }, _, _, 3, 3, rfl, rfl, by decide,
      by decide +kernel, by decide, by decide, by decide +kernel, ok_of _ (some 3) (by decide +kernel)⟩⟩
  · obtain ⟨h, s1, e, p⟩ := of_answering (fun h _ => accepts h) ((withHub {}).hubAccept 0 0 [0, 2] false (some 0) none aPacket) (by decide +kernel)
    obtain ⟨w, rfl⟩ := of_accepts h p
    exact ⟨withHub {}, s1, _, aPacket, w, rfl, e⟩
  · obtain ⟨h, s1, e, p⟩ := of_answering (fun h _ => refuses h) ((withHub {}).hubAccept 0 0 [0, 2] false (some 0) none []) (by decide +kernel)
    obtain rfl := of_refuses h p
    exact ⟨withHub {}, s1, _, [], _, rfl, e⟩
  · obtain ⟨u, s1, e, p⟩ := of_answering (fun _ s1 => answers (State.bringRegions 0 (loading.engineOf 0) (s1.coreAt 0).t.task [] s1))
      (loading.readTable 0 0 launchWithHub) (by decide +kernel)
    obtain ⟨u, s2, e2⟩ := of_answers _ p
    exact ⟨loading, s1, s2, launchWithHub, rfl, rfl, rfl, rfl, rfl, by decide +kernel, rfl, e, e2⟩

/-- A saved context of core 0. -/
def aSaved (kind : SaveKind) (complete : Bool) : Saved :=
  { kind := kind, thread := running, l1 := {}, cktab := 0, ranges := [], mask := 0, complete := complete, version := 0x00090001 }

/-- Core 0 with a thread and its throughput save area. -/
def savedCore (t : Thread) (a : Option Saved) : State := { with0 t with core := { cid := 0, t := t, savedT := a } }

/-- A launch whose first write to a page of 64 KiB waits for its copy, and a free page in every pool. -/
def shadowing : State :=
  { with0 running { launch with shadowPending := [(0x10000, 1023, false)] } with pools := Vector.replicate 8 { ret64 := [0x20000] } }

theorem witness_ContextSteps :
    (∃ s : State, (s.coreAt 0).t.gang = false ∧ (s.coreAt 0).t.mode = .run ∧ (s.coreAt 0).t.stop = none ∧ (s.coreAt 0).preload = none)
    ∧ (∃ s : State, (s.coreAt 0).t.gang = false ∧ (s.coreAt 0).t.stop.isSome = true ∧ 0 = s.core.cid ∧ (s.coreAt 0).t.handler = false
      ∧ (s.coreAt 0).t.rep.left = 0 ∧ (s.coreAt 0).t.hold = none ∧ (s.coreAt 0).t.ring = none)
    ∧ (∀ k ∈ [SaveKind.immediate, .ckpt], ∃ (s : State) (a : Saved), (s.coreAt 0).t.mode = .stopping ∧ (s.coreAt 0).saved? = true
      ∧ (s.coreAt 0).savedT = some a ∧ a.complete = false ∧ a.thread.lslot = (s.coreAt 0).t.lslot ∧ a.kind = k)
    ∧ (∃ (s s1 : State) (dl : Bool) (a : Saved), (s.coreAt 0).restorable = some (dl, a) ∧ (s.coreAt 0).t.mode = .idle ∧ (s.coreAt 0).t.egress = []
      ∧ (s.coreAt 0).protFrozen = false
      ∧ s.ctxFrozen a.thread.ctx = false ∧ a.version = s.imgVersion ∧ s.areaRead (s.coreAt 0) dl a = (a, none, s1) ∧ a.thread.rep.left = 0)
    ∧ (∃ (s s1 : State) (die ctx : Nat) (va e : DWord) (log2 : Nat), s.walk die ctx va.toNat = (.leaf e log2, s1))
    ∧ (∃ (s s1 : State) (page first pg : Nat) (enc : Bool) (x : Launch), SMap.find? s.launches 0 = some x
      ∧ x.shadowPending.find? (fun p => p.1 == page) = some (page, first, enc) ∧ s.shadowedByOther (some 0) (page - page % 2) = false
      ∧ s.makeShadow 0 (strandOf first) (page - page % 2) (if page % 2 = 1 then 21 else 16) (if enc = true then some (s.keyNo x.ctx) else none)
        (BitVec.ofNat 64 (page - page % 2)) = .ok (some pg, s1))
    ∧ (∃ (s : State) (page first : Nat) (enc : Bool) (x : Launch), SMap.find? s.launches 0 = some x
      ∧ x.shadowPending.find? (fun p => p.1 == page) = some (page, first, enc) ∧ s.shadowedByOther (some 0) (page - page % 2) = true)
    ∧ (∃ s : State, (s.coreAt 0).t.hold = some .allocHold)
    ∧ (∃ s : State, (s.coreAt 0).t.mode = .idle ∧ 4096 ≤ (s.coreAt 0).idleCycles) := by
  refine ⟨⟨with0 running, rfl, rfl, rfl, rfl⟩, ⟨with0 { running with stop := some ⟨.deadline, 0⟩ }, rfl, rfl, rfl, rfl, rfl, rfl, rfl⟩,
    fun k h => ⟨savedCore { running with mode := .stopping } (some (aSaved k false)), aSaved k false, rfl, ?_, rfl, rfl, rfl, rfl⟩,
    ⟨savedCore {} (some (aSaved .immediate true)), _, false, aSaved .immediate true, rfl, rfl, rfl, rfl, by decide +kernel, rfl, by rfl, rfl⟩,
    ⟨walked (with0 running), ((walked (with0 running)).walk 63 0 0x3FFFFFFF).2, 63, 0, 0x3FFFFFFF, 0x0E00020040000000, 30,
      Prod.ext (by decide +kernel : ((walked (with0 running)).walk 63 0 0x3FFFFFFF).1 = .leaf 0x0E00020040000000 30) rfl⟩, ?_,
    ⟨{ with0 running { launch with shadowPending := [(0x10000, 1023, true)] } with
      launches := [(0, { launch with shadowPending := [(0x10000, 1023, true)] }), (1, { launch with shadows := [(0x10000, 0x20000)] })] }, 0x10000, 1023, true, _, rfl,
      by decide +kernel, by decide +kernel⟩,
    ⟨with0 { running with hold := some .allocHold }, rfl⟩, ⟨{ with0 {} with core := { cid := 0, idleCycles := 4096 } }, rfl, by decide +kernel⟩⟩
  · rcases List.mem_cons.mp h with rfl | h
    · decide +kernel
    · obtain rfl := List.mem_singleton.mp h
      decide +kernel
  · exact ⟨shadowing, _, 0x10000, 1023, 0x20000, false, _, rfl, by decide +kernel, by decide +kernel, ok_of _ (some 0x20000) (by decide +kernel)⟩

/-! ### The worklist of a launch -/

/-- A launch of two dies by what its hubs hold. -/
def twoDies (a b : HubBlock) (x : Launch := launch) : State :=
  with0 {} { x with lrec := { x.lrec with log2w := 3 }, hubs := [(0, a), (1, b)] }

theorem witness_FloorProtocol :
    (∃ (s : State) (x : Launch), SMap.find? s.launches 0 = some x ∧ x.works = true ∧ x.lastWave = some (s.waveCounts 0 x [])
      ∧ waveEmpty (s.waveCounts 0 x []) = true)
    ∧ (∃ (s : State) (x : Launch), SMap.find? s.launches 0 = some x ∧ x.works = true ∧ x.lastWave = some (s.waveCounts 0 x [])
      ∧ waveEmpty (s.waveCounts 0 x []) = false ∧ (s.waveCounts 0 x []).getD 5 0 = 1)
    ∧ (∃ (s : State) (x : Launch), SMap.find? s.launches 0 = some x ∧ x.works = true ∧ x.lastWave ≠ some (s.waveCounts 0 x []) ∧ x.lrec.multi = false
      ∧ x.keeper = .rest ∧ x.kfc < (x.lrec.dies.map (fun d => s.lowestAt 0 d)).foldl min noBucket
      ∧ (x.lrec.dies.map (fun d => s.lowestAt 0 d)).foldl min noBucket < noBucket ∧ x.lrec.dies.contains 1 = true)
    ∧ (∃ (s : State) (x : Launch) (hub b p : Nat), SMap.find? s.launches 0 = some x ∧ x.works = true ∧ x.keeper = .proposing p
      ∧ x.lrec.dies.all (fun d => (SMap.find? (SMap.insert x.acks hub (b, noBucket)) d).isSome) = false)
    ∧ (∃ (s : State) (x : Launch) (hub b p : Nat), SMap.find? s.launches 0 = some x ∧ x.works = true ∧ x.keeper = .proposing p
      ∧ x.lrec.dies.all (fun d => (SMap.find? (SMap.insert x.acks hub (b, noBucket)) d).isSome) = true)
    ∧ (∃ (s : State) (x : Launch) (fc : Nat), SMap.find? s.launches 0 = some x ∧ x.works = true ∧ (∀ q ∈ (s.block 0 1).buckets, q.1 < fc + 64)
      ∧ (∀ k ∈ (s.block 0 1).far, fc + 64 ≤ bucketOf x.lrec k.key) ∧ (s.block 0 1).held = [] ∧ (s.block 0 1).late = [] ∧ x.groupHold = .none)
    ∧ (∃ (s : State) (x : Launch) (b b' : Nat), SMap.find? s.launches 0 = some x ∧ x.works = true ∧ x.keeper = .pausing
      ∧ x.lrec.dies.all (fun d => (SMap.find? (SMap.insert x.acks 1 (b, b')) d).isSome) = true)
    ∧ (∃ (s s1 : State) (x : Launch) (b pa : Nat) (k : Task) (handle : Word), SMap.find? s.launches 0 = some x ∧ x.works = true ∧ b ≠ farQueue
      ∧ (s.block 0 1).queue b = [k] ∧ k.page = some pa ∧ 256 < (s.hub 1).free ∧ s.takeSlot 0 1 = some (handle, s1))
    ∧ (∃ (s : State) (x : Launch) (b : Nat) (ks : List Task), SMap.find? s.launches 0 = some x ∧ x.works = true ∧ s.giverFor 0 0 = some 1
      ∧ (s.block 0 1).gift x.lrec (fun _ => true) = some (b, ks))
    ∧ (∃ (s s1 : State) (x : Launch) (k : Task) (handle : Word), SMap.find? s.launches 0 = some x ∧ x.works = true
      ∧ ((s.block 0 1).giving.filter (fun q => q.1 == 0)) = [(0, k)] ∧ (s.hub 0).tight = false
      ∧ ((s.block 0 0).queue (bucketOf x.lrec k.key)).any (fun q => q.page.isSome) = false ∧ s.takeSlot 0 0 = some (handle, s1))
    ∧ (∃ (s : State) (x : Launch) (m : Nat), SMap.find? s.launches 0 = some x ∧ x.works = true ∧ x.lrec.multi = true ∧ x.stealFrom = some m) :=
  ⟨⟨twoDies {} {} { launch with lastWave := some [0, 0, 0, 0, 1, 0] }, _, rfl, rfl, by decide +kernel, by decide +kernel⟩,
    ⟨twoDies { pushed := 1, pending := [aTask] } {} { launch with lastWave := some [1, 0, 0, 0, 1, 1] }, _, rfl, rfl, by decide +kernel, by decide +kernel,
      by decide +kernel⟩,
    ⟨twoDies {} { buckets := [(5, [{ aTask with key := 5 }])] } { launch with lastWave := some [0, 0, 0, 0, 0, 0] }, _, rfl, rfl, by decide +kernel, rfl, rfl,
      by decide +kernel, by decide +kernel, by decide +kernel⟩,
    ⟨twoDies {} {} { launch with keeper := .proposing 5 }, _, 1, 5, 5, rfl, rfl, rfl, by decide +kernel⟩,
    ⟨twoDies {} {} { launch with keeper := .proposing 5, acks := [(0, (5, noBucket))] }, _, 1, 5, 5, rfl, rfl, rfl, by decide +kernel⟩,
    ⟨twoDies {} { buckets := [(68, [{ aTask with key := 68 }])], far := [{ aTask with key := 69 }] }, _, 5, rfl, rfl, by decide +kernel, by decide +kernel,
      rfl, rfl, rfl⟩,
    ⟨twoDies {} {} { launch with keeper := .pausing, acks := [(0, (5, noBucket))] }, _, 5, 6, rfl, rfl, rfl, by decide +kernel⟩,
    ⟨twoDies {} { buckets := [(0, [{ aTask with page := some 0x20000 }])] }, _, _, 0, 0x20000, { aTask with page := some 0x20000 }, _, rfl, rfl, by decide,
      by decide +kernel, rfl, by decide +kernel, Option.eq_some_of_isSome (by decide +kernel)⟩,
    ⟨twoDies {} { buckets := [(0, [aTask])] }, _, _, _, rfl, rfl, by decide +kernel, Option.eq_some_of_isSome (by decide +kernel)⟩,
    ⟨twoDies {} { giving := [(0, aTask)] }, _, _, aTask, _, rfl, rfl, by decide +kernel, by decide +kernel, by decide +kernel,
      Option.eq_some_of_isSome (by decide +kernel)⟩,
    ⟨twoDies {} {} { launch with lrec := { launch.lrec with multi := true }, stealFrom := some 3 }, _, 3, rfl, rfl, rfl, rfl⟩⟩

/-! ### The host interface -/


/-- A context whose queue holds one record, and the state that its record is read from: SEQ is 1. -/
def oneRecord : Ctx := { en := true, qStat := .running, tail := 1, qBase := 0x10000 }
def noRecord (tries : Nat) : Ctx := { oneRecord with qBase := 0, tries := tries }
def recordState (c : Ctx) : State := { State.reset with ctxs := Vector.replicate 64 c, mem := [(0x1007C, 1)] }

/-- Inbound window 63 over the mapped page. -/
def window : InWin := { vbase := 0, en := true, wr := true, rd := true, ctx := 0, reqId := 9, len := 16384 }
def windowed : State := { walked State.reset with inWins := Vector.replicate 64 window }

/-- A launch that has faulted and has nothing to write. -/
def failed : State := with0 {} { launch with phase := .draining, status := .faulted }

/-- Whether a report's writes end with the launch of slot 0 free to go. -/
def reported : Except State State → Bool
  | .ok s => (SMap.find? s.launches 0).any fun y => !s.reportHeld y
  | .error _ => false

theorem of_reported (x : Except State State) (h : reported x = true) :
    ∃ s, x = .ok s ∧ ∃ y, SMap.find? s.launches 0 = some y ∧ s.reportHeld y = false := by
  cases x with
  | ok s =>
    simp only [reported] at h
    cases hy : SMap.find? s.launches 0 with
    | none => rw [hy] at h; cases h
    | some y => rw [hy] at h; exact ⟨s, rfl, y, hy, by simpa using h⟩
  | error e => cases h

theorem witness_HostSteps :
    (∃ (s s1 : State) (ctx : Nat) (r : LaunchRec), (s.ctxAt ctx).waiting = true ∧ s.polling ctx = false ∧ s.launches.length < 256 ∧ s.nextQueue = some ctx
      ∧ s.readRecord ctx = (some r, s1))
    ∧ (∃ (s s1 : State) (ctx : Nat) (r : LaunchRec), ctx < 64 ∧ (s.ctxAt ctx).waiting = true ∧ s.launches.length < 256
      ∧ s.readRecord ctx = (some r, s1))
    ∧ (∃ (s s1 : State) (ctx : Nat), ctx < 64 ∧ (s.ctxAt ctx).waiting = true ∧ s.launches.length < 256
      ∧ s.readRecord ctx = (none, s1) ∧ (s.ctxAt ctx).tries + 1 < 8)
    ∧ (∃ (s s1 : State) (ctx : Nat), ctx < 64 ∧ (s.ctxAt ctx).waiting = true ∧ s.launches.length < 256
      ∧ s.readRecord ctx = (none, s1) ∧ 8 ≤ (s.ctxAt ctx).tries + 1)
    ∧ (∃ (s : State) (ctx : Nat), (s.ctxAt ctx).waiting = false)
    ∧ (∃ (s s1 : State) (l : Nat) (x : Launch) (bs : List PByte), SMap.find? s.launches l = some x ∧ x.phase = .accepted ∧ (s.ctxAt x.ctx).mgmtFrozen = false
      ∧ (s.ctxAt x.ctx).frozen = false ∧ x.first = [] ∧ s.readFirst l x = .ok (bs, s1) ∧ psnOf bs = none ∧ x.lrec.task = true)
    ∧ (∃ (s s1 : State) (l : Nat) (x y : Launch), SMap.find? s.launches l = some x ∧ x.phase = .draining ∧ x.status ≠ .ok ∧ s.draining l x = false ∧ x.ctx < 64 ∧ x.reported = 0
      ∧ (s.onLaunch l fun x => { x with tEnd := s.dev.devTime, reported := 1 }).reportWrites l x.lrec 0 = .ok s1 ∧ SMap.find? s1.launches l = some y ∧ s1.reportHeld y = false)
    ∧ (∃ (s : State) (l : Nat) (x : Launch), SMap.find? s.launches l = some x ∧ x.phase = .draining ∧ 64 ≤ x.ctx)
    ∧ (∀ masked : Bool, ∃ (s : State) (v : DWord) (k : Nat), s.hostReaches = true ∧ k < 2048 ∧ v.getLsbD 32 = masked
      ∧ s.msix.find? (fun m => m.vector == k && m.due) = none)
    ∧ (∃ (s : State) (v : Nat) (m : Msix) (e : DWord), s.msix.find? (fun m => m.vector == v && !m.due) = some m ∧ m.expiry = some e ∧ e ≤ s.dev.devTime
      ∧ s.dev.hostFrozen = false ∧ s.unmasked.contains v = true)
    ∧ (∃ (s s1 s2 : State) (req off len : Nat) (ps : List (Loc × Nat × Nat)) (bs : List PByte) (h : off / 2 ^ 30 < 64) (w : InWin), s.inWins[off / 2 ^ 30] = w ∧ s.pcieUp = true ∧ s.dev.hostFrozen = false
      ∧ w.refuses req (off % 2 ^ 30) false = false
      ∧ s.inPlaces (hostWho w.ctx.toNat) .rd (w.vbase.toNat * 65536 + off % 2 ^ 30) len = .ok (ps, s1)
      ∧ State.readAll ps s1 = .ok (bs, s2))
    ∧ (∃ (s s1 s2 : State) (req off : Nat) (bytes : List (BitVec 8)) (ps : List (Loc × Nat × Nat)) (h : off / 2 ^ 30 < 64) (w : InWin), s.inWins[off / 2 ^ 30] = w ∧ s.pcieUp = true
      ∧ s.dev.hostFrozen = false ∧ w.refuses req (off % 2 ^ 30) true = false
      ∧ s.inPlaces (hostWho w.ctx.toNat) .w (w.vbase.toNat * 65536 + off % 2 ^ 30) bytes.length = .ok (ps, s1)
      ∧ State.writeAll (hostWho w.ctx.toNat) ps (clean bytes) s1 = .ok ((), s2))
    ∧ (∃ (s : State) (ctx : Nat) (v : Word), s.hostReaches = true ∧ ctx < 64 ∧ (s.ctxAt ctx).en = true
      ∧ (v - (s.ctxAt ctx).qHead).toNat ≤ 2 ^ (s.ctxAt ctx).qLog2.toNat ∧ s.dev.devState = 6)
    ∧ (∃ (s : State) (ctx v : Nat), s.hostReaches = true ∧ ctx < 64 ∧ (s.ctxAt ctx).en = false ∧ s.dev.devState = 6 ∧ s.dev.invGo = false ∧ v < 2048
      ∧ (s.msix.find? (fun m => m.vector == v && m.due)) = none)
    ∧ (∃ s : State, s.hostReaches = false)
    ∧ (∃ s : State, s.dev.invGo = true ∧ ∀ c ∈ s.core :: s.parked.map Prod.snd, c.t.translated = []) := by
  obtain ⟨r, s1, h⟩ := of_found ((recordState oneRecord).readRecord 0) (by decide +kernel)
  obtain ⟨s2, h2⟩ := of_missing ((recordState (noRecord 6)).readRecord 63) (by decide +kernel)
  obtain ⟨s3, h3⟩ := of_missing ((recordState (noRecord 7)).readRecord 63) (by decide +kernel)
  obtain ⟨r', s1', h'⟩ := of_found ((recordState oneRecord).readRecord 63) (by decide +kernel)
  refine ⟨⟨recordState oneRecord, s1, 0, r, by decide +kernel, by decide +kernel, by decide, by decide +kernel, h⟩,
    ⟨recordState oneRecord, s1', 63, r', by decide, by decide +kernel, by decide, h'⟩,
    ⟨recordState (noRecord 6), s2, 63, by decide, by decide +kernel, by decide, h2, by decide +kernel⟩,
    ⟨recordState (noRecord 7), s3, 63, by decide, by decide +kernel, by decide, h3, by decide +kernel⟩, ⟨State.reset, 63, by decide +kernel⟩, ?_, ?_,
    ⟨{ failed with launches := [(0, { launch with ctx := 64, phase := .draining })] }, 0, _, rfl, rfl, by decide⟩,
    fun b => ⟨State.reset, if b then 1 <<< 32 else 0, 2047, rfl, by decide, by cases b <;> decide, rfl⟩,
    ⟨{ State.reset with msix := [⟨2047, some 0, [], false⟩], unmasked := [2047] }, 2047, _, 0, rfl, rfl, by decide +kernel, rfl, by decide +kernel⟩, ?_, ?_,
    ⟨{ recordState oneRecord with dev := { devState := 6 } }, 63, 16, rfl, by decide, by decide +kernel, by decide +kernel, rfl⟩,
    ⟨{ State.reset with dev := { devState := 6 } }, 63, 2047, rfl, by decide, by decide +kernel, rfl, rfl, by decide, rfl⟩,
    ⟨{ State.reset with pcieUp := false }, rfl⟩, ⟨{ State.reset with dev := { invGo := true } }, rfl, by decide +kernel⟩⟩
  · let s := walked (with0 {} { launch with phase := .accepted })
    obtain ⟨bs, s1, h, p⟩ := of_answering (fun bs _ => (psnOf bs).isNone) (s.readFirst 0 { launch with phase := .accepted }) (by decide +kernel)
    exact ⟨s, s1, 0, { launch with phase := .accepted }, bs, rfl, rfl, by decide +kernel, by decide +kernel, rfl, h, Option.isNone_iff_eq_none.mp p, rfl⟩
  · have key : reported ((failed.onLaunch 0 fun x => { x with tEnd := failed.dev.devTime, reported := 1 }).reportWrites 0 launch.lrec 0) = true := by decide +kernel
    obtain ⟨s1, e, y, h, p⟩ := of_reported _ key
    exact ⟨failed, s1, 0, _, y, rfl, rfl, by decide, by decide +kernel, by decide, rfl, e, h, p⟩
  · obtain ⟨ps, s1, h, p⟩ := of_answering (fun ps s1 => answers (State.readAll ps s1)) (windowed.inPlaces (hostWho window.ctx.toNat) .rd
      (window.vbase.toNat * 65536 + (63 * 2 ^ 30 + 0x3FFFFFFC) % 2 ^ 30) 4) (by decide +kernel)
    obtain ⟨bs, s2, h2⟩ := of_answers _ p
    exact ⟨windowed, s1, s2, 9, 63 * 2 ^ 30 + 0x3FFFFFFC, 4, ps, bs, by decide, window, by decide +kernel, rfl, rfl, by decide +kernel, h, h2⟩
  · obtain ⟨ps, s1, h, p⟩ := of_answering (fun ps s1 => answers (State.writeAll (hostWho window.ctx.toNat) ps (clean [1, 2, 3, 4]) s1))
      (windowed.inPlaces (hostWho window.ctx.toNat) .w (window.vbase.toNat * 65536 + (63 * 2 ^ 30 + 0x3FFFFFFC) % 2 ^ 30) [1, 2, 3, 4].length) (by decide +kernel)
    obtain ⟨u, s2, h2⟩ := of_answers _ p
    exact ⟨windowed, s1, s2, 9, 63 * 2 ^ 30 + 0x3FFFFFFC, [1, 2, 3, 4], ps, by decide, window, by decide +kernel, rfl, rfl, by decide +kernel, h, h2⟩

/-! ### Device memory, pads and fabric, management -/

/-- Every hop in a state, and every window with replays. -/
def hopsAt (st : HopState) (w : Nat := 0) (s : State := State.reset) : State := { s with hops := Vector.replicate 89 { state := st, window := w } }

theorem witness_MemoryAndFabric :
    (∃ pa : Nat, 2 ^ 40 ≤ pa)
    ∧ (∃ (s : State) (pa : Nat) (bytes : List (BitVec 8)), pa < 2 ^ 40 ∧ SMap.find? s.symErr (pa / 64) = none ∧ SMap.find? s.ue (pa / 64) = none
      ∧ SMap.find? s.enc (pa / 64) = none ∧ bytes ≠ [] ∧ pa % 64 + bytes.length ≤ 64)
    ∧ (∃ (s : State) (pa : Nat), pa < 2 ^ 40 ∧ SMap.find? s.symErr (pa / 64) = some 1 ∧ SMap.find? s.ue (pa / 64) = none)
    ∧ (∃ (s : State) (pa n : Nat), pa < 2 ^ 40 ∧ n ≠ 1 ∧ n ≠ 0 ∧ SMap.find? s.symErr (pa / 64) = some n ∧ SMap.find? s.ue (pa / 64) = none)
    ∧ (∃ (s : State) (pa : Nat) (bytes : List (BitVec 8)) (o : Origin), pa < 2 ^ 40 ∧ SMap.find? s.ue (pa / 64) = some o ∧ bytes.length = 64
      ∧ pa % 64 + bytes.length ≤ 64)
    ∧ (∃ (s : State) (ctx pa : Nat), pa < 2 ^ 40 ∧ SMap.find? s.symErr (pa / 64) = none ∧ SMap.find? s.ue (pa / 64) = none
      ∧ SMap.find? s.enc (pa / 64) ≠ some (s.keyNo ctx))
    ∧ (∃ (s : State) (h : Nat), h < 89 ∧ min 255 (s.hops.toList.getD h {}).window ≤ s.repairThr)
    ∧ (∃ (s : State) (h : Nat), h < 89 ∧ s.repairThr < min 255 (s.hops.toList.getD h {}).window ∧ (s.hops.toList.getD h {}).state = .up
      ∧ s.repairing = false ∧ s.repairs = [])
    ∧ (∃ (s : State) (h : Nat), h < 89 ∧ s.repairThr < min 255 (s.hops.toList.getD h {}).window ∧ (s.hops.toList.getD h {}).state = .degraded
      ∧ s.repairing = true ∧ ∀ r ∈ s.repairs, r.2.1 ≠ h)
    ∧ (∃ (s : State) (h : Nat), h < 89 ∧ (s.hops.toList.getD h {}).state ≠ .down ∧ (s.hops.toList.getD h {}).state ≠ .retraining ∧ s.repairing = false
      ∧ (s.hops.toList.getD h {}).spareUsed = false ∧ s.repairs = []
      ∧ ∀ i < 89, i ≠ h → ringOf i = ringOf h → (s.hops.toList.getD i {}).state ≠ .down)
    ∧ (∃ (s : State) (h : Nat), h < 89 ∧ (s.hops.toList.getD h {}).state = .retraining ∧ s.repairs = [])
    ∧ (∃ (s : State) (h tm i : Nat) (retrain : Bool), h < 89 ∧ (s.hops.toList.getD h {}).state = .retraining ∧ s.repairs = [(tm, i, retrain)] ∧ i < 89 ∧ i ≠ h
      ∧ ∀ k < 89, k ≠ h → (s.hops.toList.getD k {}).state ≠ .paused ∧ (s.hops.toList.getD k {}).state ≠ .retraining)
    ∧ (∃ (s : State) (l : Nat) (x : Launch), SMap.find? s.launches l = some x ∧ x.phase = .running ∧ x.lrec.recov = true ∧ x.replayable = true ∧ x.replays < 2)
    ∧ (∃ (s : State) (l : Nat) (x : Launch), SMap.find? s.launches l = some x ∧ x.phase = .running ∧ x.lrec.recov = false ∧ s.faultLog.length < 1024) :=
  ⟨⟨2 ^ 40, Nat.le_refl _⟩, ⟨State.reset, 2 ^ 40 - 1, [7], by decide, rfl, rfl, rfl, by decide, by decide⟩,
    ⟨{ State.reset with symErr := [(2 ^ 34 - 1, 1)] }, 2 ^ 40 - 1, by decide, by decide +kernel, rfl⟩,
    ⟨{ State.reset with symErr := [(0, 2)] }, 0, 2, by decide, by decide, by decide, by decide +kernel, rfl⟩,
    ⟨{ State.reset with ue := [(1, .eccUe)] }, 64, List.replicate 64 5, .eccUe, by decide, by decide +kernel, by decide, by decide⟩,
    ⟨State.reset, 63, 2 ^ 40 - 1, by decide, rfl, rfl, by decide +kernel⟩,
    ⟨{ hopsAt .up 255 with repairThr := 255 }, 88, by decide, by decide +kernel⟩,
    ⟨{ hopsAt .up 256 with repairThr := 254 }, 88, by decide, by decide +kernel, by decide +kernel, by decide +kernel, rfl⟩,
    ⟨{ State.reset with hops := (Vector.replicate 89 { state := .degraded, window := 255 }).set 0 { state := .paused }, repairThr := 254, repairs := [(9, 2, false)] },
      1, by decide, by decide +kernel, by decide +kernel, by decide +kernel, by decide⟩,
    ⟨State.reset, 88, by decide, by decide +kernel, by decide +kernel, by decide +kernel, by decide +kernel, rfl, by decide +kernel⟩,
    ⟨hopsAt .retraining, 88, by decide, by decide +kernel, rfl⟩,
    ⟨{ State.reset with hops := (Vector.replicate 89 {}).set 0 { state := .retraining }, repairs := [(9, 88, false)] }, 0, 9, 88, false, by decide,
      by decide +kernel, rfl, by decide, by decide, by decide +kernel⟩,
    ⟨with0 running { launch with lrec := { launch.lrec with recov := true }, replays := 1 }, 0, _, rfl, rfl, rfl, rfl, by decide⟩,
    ⟨with0 running, 0, _, rfl, rfl, rfl, by decide⟩⟩

/-- R23: the route of the example, from hub 43 to hub 69. -/
theorem test_route : State.reset.route 43 69 = [53, 52, 51, 50, 85, 84, 83, 20, 21, 22, 23, 24] := by decide +kernel

/-- A record of a freeze by a TAG fault on core 0. -/
def aFault : FaultRec :=
  { time := 0, launchId := 0, cause := .tag, level := 0, ctx := 0, chiplet := 0, core := 0, origin := none, handle := 0, pc := 0, value := 0, save := 0,
    frozenCid := some 0 }

theorem witness_ManagementSteps :
    (∃ s : State, s.hostReaches = true ∧ s.faultLog = [])
    ∧ (∃ (s : State) (r : FaultRec) (rest : List FaultRec) (cid : Nat), s.faultLog = r :: rest ∧ r.frozenCid = some cid
      ∧ (s.coreAt cid).t.mode ≠ .stopping)
    ∧ (∃ (s : State) (ctx : Nat), ctx < 64 ∧ s.runners ctx = [])
    ∧ (∃ (s : State) (l : Nat) (x : Launch), SMap.find? s.launches l = some x ∧ x.ctx < 64 ∧ x.phase = .running)
    ∧ (∃ (s : State) (n : Nat), ∀ h < 89, (s.hops.toList.getD h {}).winRetry.toNat ≤ n)
    ∧ (∃ (s : State) (n h : Nat), h < 89 ∧ n < (s.hops.toList.getD h {}).winRetry.toNat
      ∧ (∀ i < 89, i ≠ h → (s.hops.toList.getD i {}).winRetry.toNat ≤ n) ∧ s.repairing = false ∧ s.repairs = [] ∧ (s.hops.toList.getD h {}).state = .degraded)
    ∧ (∃ (s : State) (h : Nat), h < 89 ∧ (s.hops.toList.getD h {}).state = .up ∧ s.repairing = false ∧ s.repairs = []
      ∧ ∀ i < 89, i ≠ h → ringOf i = ringOf h → (s.hops.toList.getD i {}).state ≠ .down)
    ∧ (∃ (s : State) (n : Nat), s.dev.devState = BitVec.ofNat 4 n ∧ n < 6 ∧ n = 0 ∧ ∀ x ∈ s.launches, x.2.phase = .heldReport)
    ∧ (∀ n < 5, n ≠ 0 → ∃ s : State, s.dev.devState = BitVec.ofNat 4 n)
    ∧ (∃ s : State, s.dev.devState = 5 ∧ ∃ x ∈ s.launches, x.2.phase = .running)
    ∧ (∃ s : State, s.dev.devState = 5 ∧ ∀ x ∈ s.launches, x.2.phase ≠ .running)
    ∧ (∃ (s : State) (w : Nat), s.dev.powerCap.toNat < w) ∧ (∃ (s : State) (w : Nat), w ≤ s.dev.powerCap.toNat)
    ∧ (∃ s : State, s.powered = false) :=
  ⟨⟨State.reset, rfl, rfl⟩, ⟨{ State.reset with faultLog := [aFault] }, aFault, [], 0, rfl, rfl, by decide⟩, ⟨with0 {}, 63, by decide, by decide +kernel⟩,
    ⟨with0 running, 0, _, rfl, by decide, rfl⟩, ⟨State.reset, 0, by decide +kernel⟩,
    ⟨{ State.reset with hops := (Vector.replicate 89 { winRetry := 254 }).set 88 { winRetry := 255, state := .degraded } }, 254, 88, by decide, by decide +kernel,
      by decide +kernel, by decide +kernel, rfl, by decide +kernel⟩,
    ⟨State.reset, 88, by decide, by decide +kernel, by decide +kernel, rfl, by decide +kernel⟩,
    ⟨with0 {} { launch with phase := .heldReport }, 0, rfl, by decide, rfl, by decide +kernel⟩,
    fun n _ _ => ⟨{ State.reset with dev := { devState := BitVec.ofNat 4 n } }, rfl⟩,
    ⟨{ with0 running with dev := { devState := 5 } }, rfl, _, List.mem_singleton.mpr rfl, rfl⟩,
    ⟨{ State.reset with dev := { devState := 5 } }, rfl, fun _ h => nomatch h⟩,
    ⟨State.reset, 3601, by decide +kernel⟩, ⟨State.reset, 3600, by decide +kernel⟩, ⟨{ State.reset with powered := false }, rfl⟩⟩

/-! ### Groups of devices -/

/-- Die 0's L3 with combining slot 63 in a state, with a byte of its deadline, for two elements of 4 bytes. -/
def slotPad (st dl : Byte) : Pad := { bytes := [(0xFFFFCA, 2), (0xFFFFE8, dl), (0xFFFFF8, st)] }
def grouped (st dl : Byte) (bytes : List Host.Cell := []) : State := walked { with0 {} with l3 := [(0, slotPad st dl)], l3Ctx := [(0, 0)] } bytes

/-- Slot 63 armed, with a contributor map whose entry for member 0 is given. -/
def armed (e : Nat) : State := grouped 1 0 [(0x40000000, BitVec.ofNat 8 e)]

theorem witness_CollectiveSteps_slots :
    (∃ (s : State) (die k : Nat), ((s.atSlots die).l3At die).slotState k = 0 ∧ SMap.find? s.catchUp (((s.atSlots die).l3At die).slotGroup k) = none ∧ k < 64)
    ∧ (∃ (s : State) (die k : Nat), ((s.atSlots die).l3At die).slotState k = 1 ∧ ((s.atSlots die).l3At die).slotDeadline k ≠ 0 ∧ ((s.atSlots die).l3At die).slotDeadline k ≤ s.dev.devTime.toNat
      ∧ ((s.atSlots die).port die).staged.find? (fun c => c.slot == k) = none ∧ ((s.atSlots die).l3At die).slotJournal k = false ∧ k < 64)
    ∧ (∃ (s : State) (die k : Nat), ((s.atSlots die).l3At die).slotState k = 1 ∧ ((s.atSlots die).l3At die).slotDeadline k ≠ 0 ∧ s.dev.devTime.toNat < ((s.atSlots die).l3At die).slotDeadline k)
    ∧ (∃ (s : State) (con : Contribution), con.view < (s.viewOf con.group).1)
    ∧ (∃ (s : State) (con : Contribution), (s.viewOf con.group).1 ≤ con.view ∧ (((s.viewOf con.group).2.atSlots con.die).l3At con.die).slotState con.slot ≠ 1)
    ∧ (∃ (s : State) (con : Contribution), (s.viewOf con.group).1 ≤ con.view ∧ (((s.viewOf con.group).2.atSlots con.die).l3At con.die).slotState con.slot = 1
      ∧ (((s.viewOf con.group).2.atSlots con.die).l3At con.die).slotDeadline con.slot = 0 ∧ con.view.toNat ≠ (((s.viewOf con.group).2.atSlots con.die).l3At con.die).slotView con.slot)
    ∧ (∀ e < 4, ∃ (s s1 : State) (con : Contribution) (l : Nat) (w : Who) (bs : List PByte), (s.viewOf con.group).1 ≤ con.view
      ∧ (((s.viewOf con.group).2.atSlots con.die).l3At con.die).slotState con.slot = 1 ∧ (((s.viewOf con.group).2.atSlots con.die).l3At con.die).slotDeadline con.slot = 0
      ∧ con.view.toNat = (((s.viewOf con.group).2.atSlots con.die).l3At con.die).slotView con.slot
      ∧ ((s.viewOf con.group).2.atSlots con.die).slotWho con.die con.slot = some (l, w)
      ∧ ((s.viewOf con.group).2.atSlots con.die).readVa w ((((s.viewOf con.group).2.atSlots con.die).l3At con.die).slotMask con.slot + con.sender / 4) 1 = .ok (bs, s1)
      ∧ bits (leNat (plain bs)) (2 * (con.sender % 4) + 1) (2 * (con.sender % 4)) = e)
    ∧ (∀ b : Bool, ∃ (s s1 s2 : State) (con : Contribution), ((s.viewOf con.group).2.atSlots con.die).readVa ⟨0, 0, some 0, true, 0⟩
        ((((s.viewOf con.group).2.atSlots con.die).l3At con.die).slotMask con.slot + con.sender / 4) 1 = .ok (clean [0], s1)
      ∧ (con.count = (((s.viewOf con.group).2.atSlots con.die).l3At con.die).slotElems con.slot ∧ con.type = (((s.viewOf con.group).2.atSlots con.die).l3At con.die).slotType con.slot
        ∧ con.poison = false ↔ b = true)
      ∧ s1.writeVa ⟨0, 0, some 0, true, 0⟩ ((((s.viewOf con.group).2.atSlots con.die).l3At con.die).slotMask con.slot + con.sender / 4)
        (clean (leBytes 1 (0 + (if b then 1 else 2) * 2 ^ (2 * (con.sender % 4))))) = .ok ((), s2))
    ∧ (∃ (s : State) (die : Nat) (con : Contribution) (rest : List Contribution), die < 64 ∧ (s.port die).staged = con :: rest) := by
  refine ⟨⟨grouped 0 0, 0, 63, by decide +kernel, by decide +kernel, by decide⟩,
    ⟨{ grouped 1 5 with dev := { devTime := 5 } }, 0, 63, by decide +kernel, by decide +kernel, by decide +kernel, by decide +kernel, by decide +kernel, by decide⟩,
    ⟨{ grouped 1 5 with dev := { devTime := 4 } }, 0, 63, by decide +kernel, by decide +kernel, by decide +kernel⟩,
    ⟨{ State.reset with mem := [(0x2004, 1)], dev := { groupTab := 0x2000 } }, aCon, by decide +kernel⟩,
    ⟨grouped 2 0, aCon, by decide +kernel, by decide +kernel⟩,
    ⟨grouped 1 0, { aCon with view := 1 }, by decide +kernel, by decide +kernel, by decide +kernel, by decide +kernel⟩, fun e h => ?_, fun b => ?_,
    ⟨{ State.reset with ports := Vector.replicate 64 { staged := [aCon] } }, 63, aCon, [], by decide, by decide +kernel⟩⟩
  · have a0 : ∀ e < 4, gives (clean [BitVec.ofNat 8 e]) ((((armed e).viewOf 0).2.atSlots 0).readVa ⟨0, 0, some 0, true, 0⟩ (((((armed e).viewOf 0).2.atSlots 0).l3At 0).slotMask 63 + 0 / 4) 1)
        = true := by decide +kernel
    have r := ok_of _ _ (a0 e h)
    have a1 : ∀ e < 4, ((armed e).viewOf 0).1 ≤ 0 := by decide +kernel
    have a2 : ∀ e < 4, (((armed e).viewOf 0).2.atSlots 0).l3At 0 = slotPad 1 0 := by decide +kernel
    have a3 : ∀ e < 4, (((armed e).viewOf 0).2.atSlots 0).slotWho 0 63 = some (0, ⟨0, 0, some 0, true, 0⟩) := by decide +kernel
    have a4 : ∀ e < 4, bits (leNat (plain (clean [BitVec.ofNat 8 e]))) 1 0 = e := by decide +kernel
    have a5 : (slotPad 1 0).slotState 63 = 1 ∧ (slotPad 1 0).slotDeadline 63 = 0 ∧ (slotPad 1 0).slotView 63 = 0 := by decide +kernel
    exact ⟨armed e, _, aCon, 0, ⟨0, 0, some 0, true, 0⟩, _, a1 e h, by rw [show aCon.group = 0 from rfl, show aCon.die = 0 from rfl, a2 e h]; exact a5.1,
      by rw [show aCon.group = 0 from rfl, show aCon.die = 0 from rfl, a2 e h]; exact a5.2.1,
      by rw [show aCon.group = 0 from rfl, show aCon.die = 0 from rfl, a2 e h]; exact a5.2.2.symm, a3 e h, r, a4 e h⟩
  · have r0 : gives (clean [0]) ((((grouped 1 0).viewOf 0).2.atSlots 0).readVa ⟨0, 0, some 0, true, 0⟩ ((((grouped 1 0).viewOf 0).2.atSlots 0).l3At 0 |>.slotMask 63) 1) = true := by decide +kernel
    cases b
    · exact ⟨grouped 1 0, _, _, { aCon with poison := true }, ok_of _ (clean [0]) r0, by decide +kernel, ok_of _ () (by decide +kernel)⟩
    · exact ⟨grouped 1 0, _, _, aCon, ok_of _ (clean [0]) r0, by decide +kernel, ok_of _ () (by decide +kernel)⟩

/-- A group table whose entry 0 names a mirror table with one region of four bytes, and member 1, at port 0's link, as the buddy. -/
def mirroring : State := { walked (with0 {}) [(0x2010, 1), (0x2019, 0x30), (0x3008, 4)] with dev := { groupTab := 0x2000 } }

/-- The reads that SNAP_GO makes. -/
def snapReads (s : State) (e : Nat) (w : Who) : Access (List (Nat × List (BitVec 8))) :=
  let b := (s.setGroupWord e 7 1).buddyLine e w.ctx
  let tab := b.2.groupWord e 3
  let rs := tab.2.mirrorRegions tab.1.val.toNat
  State.readRegions w rs.1 rs.2

/-- Port 63 with one task packet in its queue, or on its way. -/
def aRemote : OutPacket := { hdr := ⟨0, 0, 0, 0, none, []⟩, member := 1, lslot := 0, pkt := aPacket, die := 0 }
def onPort (l : TaskLine) (x : Launch := launch) : State := { with0 {} x with ports := Vector.replicate 64 { line := l } }

/-- A group table with a launch of group 15 and members that its bitmap gives. -/
def tabled (x : Launch) (bytes : List Host.Cell) : State := { with0 {} x with dev := { groupTab := 0x2000 }, mem := bytes }

theorem witness_CollectiveSteps_groups :
    (∃ (s : State) (e : Nat) (entry : List (BitVec 8)), (SMap.getD s.buddies e {}).overflowed = false ∧ (SMap.getD s.buddies e {}).journal.length < 64
      ∧ (SMap.getD s.buddies e {}).journal.foldl (fun n x => n + x.length) 0 + entry.length ≤ 2 ^ 32)
    ∧ (∃ (s : State) (e : Nat), 64 ≤ (SMap.getD s.buddies e {}).journal.length)
    ∧ (∃ (s : State) (e : Nat), (s.groupWord e 7).1.val.getLsbD 0 = true)
    ∧ (∃ (s : State) (e : Nat), s.dev.groupTab ≠ 0 ∧ (s.setGroupWord e 7 1).snapWho e = none)
    ∧ (∃ (s s1 : State) (e l line : Nat) (w : Who) (ds : List (Nat × List (BitVec 8))), s.dev.groupTab ≠ 0 ∧ (s.setGroupWord e 7 1).snapWho e = some (l, w)
      ∧ ((s.setGroupWord e 7 1).buddyLine e w.ctx).1 = some line
      ∧ snapReads s e w = .ok (ds, s1))
    ∧ (∃ (s : State) (e l : Nat) (w : Who), s.dev.groupTab ≠ 0 ∧ (s.setGroupWord e 7 1).snapWho e = some (l, w)
      ∧ ((s.setGroupWord e 7 1).buddyLine e w.ctx).1 = none)
    ∧ (∃ (s : State) (e : Nat) (view : Word), (s.groupWord e 0).2.dev.groupTab ≠ 0 ∧ e < 16 ∧ bits (s.groupWord e 0).1.val.toNat 63 32 < view.toNat
      ∧ ∀ d ∈ ((s.groupWord e 0).2.setGroupWord e 0 (putBits (s.groupWord e 0).1.val 63 32 view.toNat)).l3, ∀ k < 64, d.2.slotState k = 1 →
        d.2.slotGroup k = e → view.toNat ≤ d.2.slotView k)
    ∧ (∃ (s : State) (e : Nat) (view : Word) (die k : Nat) (p : Pad), (s.groupWord e 0).2.dev.groupTab ≠ 0 ∧ e < 16
      ∧ bits (s.groupWord e 0).1.val.toNat 63 32 < view.toNat
      ∧ ((s.groupWord e 0).2.setGroupWord e 0 (putBits (s.groupWord e 0).1.val 63 32 view.toNat)).l3 = [(die, p)] ∧ k < 64 ∧ p.slotState k = 1
      ∧ p.slotGroup k = e ∧ p.slotView k < view.toNat ∧ (∀ i < 64, i ≠ k → p.slotState i ≠ 1) ∧ p.slotDeadline k = 0)
    ∧ (∃ (s : State) (d : Nat) (pkt : OutPacket), d < 64 ∧ (s.taskLine d).queue = [pkt] ∧ (s.taskLine d).credits ≠ 0)
    ∧ (∃ (s : State) (hdr : RemoteHdr), hdr.view < (s.viewOf hdr.group).1)
    ∧ (∃ (s : State) (hdr : RemoteHdr), (s.viewOf hdr.group).1 ≤ hdr.view ∧ ((s.viewOf hdr.group).2.inView hdr.group hdr.sender).1 = false)
    ∧ (∃ (s : State) (hdr : RemoteHdr), (s.viewOf hdr.group).1 ≤ hdr.view ∧ ((s.viewOf hdr.group).2.inView hdr.group hdr.sender).1 = true
      ∧ ((s.viewOf hdr.group).2.inView hdr.group hdr.sender).2.launchOf hdr.group = none)
    ∧ (∃ (s : State) (hdr : RemoteHdr) (l : Nat), (s.viewOf hdr.group).1 ≤ hdr.view ∧ ((s.viewOf hdr.group).2.inView hdr.group hdr.sender).1 = true
      ∧ ((s.viewOf hdr.group).2.inView hdr.group hdr.sender).2.launchOf hdr.group = some l)
    ∧ (∃ (s : State) (d l : Nat) (pkt : OutPacket), (s.taskLine d).flying.find? (fun p => p.lslot == l) = some pkt ∧ pkt.given = none)
    ∧ (∃ (s : State) (d l uid : Nat) (pkt : OutPacket) (x : Nat × Task), (s.taskLine d).flying.find? (fun p => p.lslot == l) = some pkt ∧ pkt.given = some uid
      ∧ (((s.onLine d fun t => { t with credits := t.credits + 1, flying := t.flying.erase pkt, heard := t.heard + 1 }).onLaunch l
          fun x => { x with heard := x.heard + 1 }).block l pkt.die).giving.find? (fun x => x.2.uid == uid) = some x) := by
  refine ⟨⟨State.reset, 15, [1], rfl, by decide, by decide⟩,
    ⟨{ State.reset with buddies := [(15, { journal := List.replicate 64 [] })] }, 15, by decide +kernel⟩,
    ⟨tabled launch [(0x23F8, 1)], 15, by decide +kernel⟩, ⟨tabled launch [], 15, by decide +kernel, by decide +kernel⟩, ?_,
    ⟨tabled launch [], 0, 0, ⟨0, 0, some 0, true, 0⟩, by decide +kernel, by decide +kernel, by decide +kernel⟩,
    ⟨tabled launch [], 15, 1, by decide +kernel, by decide, by decide +kernel, by decide +kernel⟩,
    ⟨{ tabled launch [] with l3 := [(63, slotPad 1 0)] }, 0, 1, 63, 63, slotPad 1 0, by decide +kernel, by decide, by decide +kernel, by rfl, by decide,
      by decide +kernel, by decide +kernel, by decide +kernel, by decide +kernel, by decide +kernel⟩,
    ⟨onPort { queue := [aRemote], credits := 1 }, 63, aRemote, by decide, by decide +kernel, by decide +kernel⟩,
    ⟨tabled launch [(0x23C4, 1)], ⟨1023, 15, 0, 0, none, []⟩, by decide +kernel⟩,
    ⟨tabled launch [(0x23C9, 0x30)], ⟨1023, 15, 0, 0, none, []⟩, by decide +kernel, by decide +kernel⟩,
    ⟨tabled launch [(0x23C9, 0x30), (0x307F, 0x80)], ⟨1023, 15, 0, 0, none, []⟩, by decide +kernel, by decide +kernel, by decide +kernel⟩,
    ⟨tabled { launch with lrec := { launch.lrec with multi := true, group := 15 } } [(0x23C9, 0x30), (0x307F, 0x80)], ⟨1023, 15, 0, 0, none, []⟩, 0,
      by decide +kernel, by decide +kernel, by decide +kernel⟩,
    ⟨onPort { flying := [aRemote] }, 63, 0, aRemote, by decide +kernel, rfl⟩,
    ⟨onPort { flying := [{ aRemote with given := some 7 }] } { launch with hubs := [(0, { giving := [(1, aTask)] })] }, 63, 0, 7, { aRemote with given := some 7 },
      (1, aTask), by decide +kernel, rfl, by decide +kernel⟩⟩
  obtain ⟨line, hl⟩ := Option.isSome_iff_exists.mp (by decide +kernel : ((mirroring.setGroupWord 0 7 1).buddyLine 0 0).1.isSome = true)
  obtain ⟨ds, s3, h⟩ := of_answers (snapReads mirroring 0 ⟨0, 0, some 0, true, 0⟩) (by decide +kernel)
  exact ⟨mirroring, s3, 0, 0, line, ⟨0, 0, some 0, true, 0⟩, ds, by decide +kernel, by decide +kernel, hl, h⟩

/-- A queue pair bound to port 1, and a key that covers 64 bytes at virtual address 0. -/
def aPair : QPair := { port := 1, rxPsn := 0xFFFFFF, unacked := [(3, [1])] }
def aKey : MemKey := ⟨0, 0, 64, true⟩
def paired : State := { walked State.reset with qps := [(7, aPair)], keys := [(5, aKey)] }

theorem witness_CollectiveSteps_transport :
    (∃ (s s1 s2 : State) (qp psn : Nat) (q : QPair) (ce : Bool) (key : Word) (va : DWord) (bytes : List (BitVec 8)) (k : MemKey)
      (ps : List (Loc × Nat × Nat)), SMap.find? s.qps qp = some q ∧ q.counted ≠ some psn ∧ (psn + 2 ^ 24 - q.rxPsn.toNat) % 2 ^ 24 = 0 ∧ bytes.length ≤ 4096
      ∧ ((s.countRx qp q ce 1).keyFor key).1 = some k ∧ k.covers va bytes.length true = true
      ∧ ((s.countRx qp q ce 1).keyFor key).2.inPlaces (hostWho k.ctx) .w va.toNat bytes.length = .ok (ps, s1)
      ∧ State.writeAll (hostWho k.ctx) ps (clean bytes) s1 = .ok ((), s2))
    ∧ (∃ (s s1 s2 : State) (qp psn len : Nat) (q : QPair) (ce : Bool) (key : Word) (va : DWord) (k : MemKey) (ps : List (Loc × Nat × Nat)) (bs : List PByte),
      SMap.find? s.qps qp = some q ∧ q.counted ≠ some psn ∧ (psn + 2 ^ 24 - q.rxPsn.toNat) % 2 ^ 24 = 0
      ∧ ((s.countRx qp q ce 1).keyFor key).1 = some k ∧ k.covers va len false = true
      ∧ ((s.countRx qp q ce 1).keyFor key).2.inPlaces (hostWho k.ctx) .rd va.toNat len = .ok (ps, s1) ∧ State.readAll ps s1 = .ok (bs, s2))
    ∧ (∃ (s : State) (qp psn : Nat) (q : QPair) (ce : Bool) (key : Word) (va : DWord) (bytes : List (BitVec 8)) (k : MemKey),
      SMap.find? s.qps qp = some q ∧ q.counted ≠ some psn ∧ (psn + 2 ^ 24 - q.rxPsn.toNat) % 2 ^ 24 = 0 ∧ bytes.length ≤ 4096
      ∧ ((s.countRx qp q ce 1).keyFor key).1 = some k ∧ k.covers va bytes.length true = false)
    ∧ (∃ (s : State) (qp psn : Nat) (q : QPair), SMap.find? s.qps qp = some q ∧ (psn + 2 ^ 24 - q.rxPsn.toNat) % 2 ^ 24 ≠ 0
      ∧ (psn + 2 ^ 24 - q.rxPsn.toNat) % 2 ^ 24 < 2 ^ 23 ∧ s.pausedQp q = false)
    ∧ (∃ (s : State) (qp : Nat) (q : QPair), SMap.find? s.qps qp = some q ∧ s.pausedQp q = true)
    ∧ (∃ (s s1 s2 : State) (qp psn len : Nat) (q : QPair) (ce : Bool) (key : Word) (va : DWord) (k : MemKey) (ps : List (Loc × Nat × Nat)) (bs : List PByte),
      SMap.find? s.qps qp = some q ∧ q.counted ≠ some psn ∧ 2 ^ 23 ≤ (psn + 2 ^ 24 - q.rxPsn.toNat) % 2 ^ 24
      ∧ ((s.countRx qp q ce 1).keyFor key).1 = some k ∧ k.covers va len false = true
      ∧ ((s.countRx qp q ce 1).keyFor key).2.inPlaces (hostWho k.ctx) .rd va.toNat len = .ok (ps, s1) ∧ State.readAll ps s1 = .ok (bs, s2))
    ∧ (∃ (s : State) (n p prio : Nat) (q : QPair), p < 2 ∧ prio < 4 ∧ s.qps = [(n, q)] ∧ q.port = p ∧ q.prio = prio) := by
  refine ⟨?_, ?_, ⟨paired, 7, 0xFFFFFF, aPair, false, 5, 60, [1, 2, 3, 4, 5], aKey, rfl, by decide, by decide, by decide, by decide +kernel, by decide +kernel⟩,
    ⟨paired, 7, 0, aPair, rfl, by decide, by decide, by decide +kernel⟩,
    ⟨{ paired with eths := Vector.replicate 2 { paused := 1 } }, 7, aPair, rfl, by decide +kernel⟩, ?_,
    ⟨{ State.reset with qps := [(7, { aPair with prio := 3 })] }, 7, 1, 3, _, by decide, by decide, rfl, rfl, rfl⟩⟩
  · obtain ⟨ps, s1, h, p⟩ := of_answering (fun ps s1 => answers (State.writeAll (hostWho 0) ps (clean [1, 2, 3, 4]) s1))
      (((paired.countRx 7 aPair true 1).keyFor 5).2.inPlaces (hostWho 0) .w 60 4) (by decide +kernel)
    obtain ⟨u, s2, h2⟩ := of_answers _ p
    exact ⟨paired, s1, s2, 7, 0xFFFFFF, aPair, true, 5, 60, [1, 2, 3, 4], aKey, ps, rfl, by decide, by decide, by decide, by decide +kernel, by decide +kernel, h, h2⟩
  · obtain ⟨ps, s1, h, p⟩ := of_answering (fun ps s1 => answers (State.readAll ps s1)) (((paired.countRx 7 aPair true 1).keyFor 5).2.inPlaces (hostWho 0) .rd 60 4)
      (by decide +kernel)
    obtain ⟨bs, s2, h2⟩ := of_answers _ p
    exact ⟨paired, s1, s2, 7, 0xFFFFFF, 4, aPair, true, 5, 60, aKey, ps, bs, rfl, by decide, by decide, by decide +kernel, by decide +kernel, h, h2⟩
  · obtain ⟨ps, s1, h, p⟩ := of_answering (fun ps s1 => answers (State.readAll ps s1)) (((paired.countRx 7 aPair true 1).keyFor 5).2.inPlaces (hostWho 0) .rd 60 4)
      (by decide +kernel)
    obtain ⟨bs, s2, h2⟩ := of_answers _ p
    exact ⟨paired, s1, s2, 7, 0x7FFFFF, 4, aPair, true, 5, 60, aKey, ps, bs, rfl, by decide, by decide, by decide +kernel, by decide +kernel, h, h2⟩

end Sys2Proof.Tests
end

section
/-! Proofs of the statements about results in flight and about one step: what a register write, a result that is written and a counted
cycle change, when a result is written (R15, R16), and how a step comes to the word at the program counter (R236). -/

namespace Sys2Proof.Machine

/-! ### A write to an s or a register by its code (R240, R241) -/

/-- A write by a code is one to an s register, one to an a register, or none. -/
theorem Thread.setR_cases (t : Thread) (d : BitVec 6) (v : PDWord) (P : Thread → Prop) (hs : ∀ r x, P (t.setS r x)) (ha : ∀ r x, P (t.setA r x))
    (ht : P t) : P (t.setR d v) := by
  unfold Thread.setR
  split
  · exact hs _ _
  · split
    · exact ha _ _
    · exact ht

@[simp] theorem Thread.setR_vregs (t : Thread) (d : BitVec 6) (v : PDWord) : (t.setR d v).vregs = t.vregs :=
  t.setR_cases d v (fun u => u.vregs = t.vregs) (by simp) (by simp) rfl
@[simp] theorem Thread.setR_kregs (t : Thread) (d : BitVec 6) (v : PDWord) : (t.setR d v).kregs = t.kregs :=
  t.setR_cases d v (fun u => u.kregs = t.kregs) (by simp) (by simp) rfl
@[simp] theorem Thread.setR_latches (t : Thread) (d : BitVec 6) (v : PDWord) : (t.setR d v).latches = t.latches :=
  t.setR_cases d v (fun u => u.latches = t.latches) (by simp) (by simp) rfl
@[simp] theorem Thread.setR_gang (t : Thread) (d : BitVec 6) (v : PDWord) : (t.setR d v).gang = t.gang :=
  t.setR_cases d v (fun u => u.gang = t.gang) (by simp) (by simp) rfl

@[simp] theorem Thread.getA_setS (t : Thread) (d : BitVec 5) (r : BitVec 4) (v : PWord) : (t.setS d v).getA r = t.getA r := by
  simp [Thread.getA]

@[simp] theorem Thread.getS_setA (t : Thread) (d : BitVec 4) (r : BitVec 5) (v : PDWord) : (t.setA d v).getS r = t.getS r := rfl

theorem Thread.getS_setR (t : Thread) (d : BitVec 6) (r : BitVec 5) (v : PDWord) :
    (t.setR d v).getS r = if r.zeroExtend 6 = d ∧ d ≠ 0 then ⟨v.val.low, v.psn⟩ else t.getS r := by
  unfold Thread.setR
  split
  · have hr : (r = d.truncate 5 ∧ d.truncate 5 ≠ (0 : BitVec 5)) ↔ (r.zeroExtend 6 = d ∧ d ≠ 0) := by bv_omega
    simp only [Thread.getS_setS, hr]
  · have hr : ¬ (r.zeroExtend 6 = d ∧ d ≠ 0) := by bv_omega
    rw [if_neg hr]
    split <;> simp

theorem Thread.getA_setR (t : Thread) (d : BitVec 6) (r : BitVec 4) (v : PDWord) :
    (t.setR d v).getA r = if 32 + r.zeroExtend 6 = d then v else t.getA r := by
  unfold Thread.setR
  split
  · have hr : ¬ 32 + r.zeroExtend 6 = d := by bv_omega
    rw [if_neg hr, Thread.getA_setS]
  · split
    · have hr : r = d.truncate 4 ↔ 32 + r.zeroExtend 6 = d := by bv_omega
      simp only [Thread.getA_setA, hr]
    · have hr : ¬ 32 + r.zeroExtend 6 = d := by bv_omega
      rw [if_neg hr]

/-- A v register of another code stands. -/
theorem Thread.getV_setV_ne (t : Thread) (d r : BitVec 6) (m : BitVec 128) (v : Lanes) (h : r ≠ d) : (t.setV d m v).getV r = t.getV r := by
  apply Vector.ext
  intro l hl
  simpa [h] using t.getV_setV d r m v ⟨l, hl⟩

/-! ### What register writes leave of the control state -/

theorem Thread.sameControl_refl (t : Thread) : t.sameControl t := by simp [Thread.sameControl]

theorem Thread.sameControl_setS (t : Thread) (d : BitVec 5) (v : PWord) : t.sameControl (t.setS d v) := by simp [Thread.sameControl]
theorem Thread.sameControl_setA (t : Thread) (d : BitVec 4) (v : PDWord) : t.sameControl (t.setA d v) := by simp [Thread.sameControl]
theorem Thread.sameControl_setV (t : Thread) (d : BitVec 6) (m : BitVec 128) (v : Lanes) : t.sameControl (t.setV d m v) := by
  simp [Thread.sameControl]
theorem Thread.sameControl_setK (t : Thread) (d : BitVec 3) (m : BitVec 128) : t.sameControl (t.setK d m) := by simp [Thread.sameControl]

theorem Thread.sameControl_setR (t : Thread) (d : BitVec 6) (v : PDWord) : t.sameControl (t.setR d v) :=
  t.setR_cases d v t.sameControl t.sameControl_setS t.sameControl_setA t.sameControl_refl

/-- A latch push is no change of the control state. -/
theorem Thread.sameControl_latches {t u : Thread} (l : Latches) (h : t.sameControl u) : t.sameControl { u with latches := l } := h

/-! ### A result that is written (R15, R162) -/

theorem Thread.apply_cResult (t : Thread) (d : BitVec 6) (w : Bool) (v : PDWord) :
    t.apply (.cResult d w v) = { (if w then t else t.setR d v) with latches := { t.latches with c := latchPush t.latches.c v } } := by
  cases w <;> simp [Thread.apply]

theorem Thread.apply_mResult (t : Thread) (d : BitVec 6) (v : PDWord) (q : DWord) :
    t.apply (.mResult d v q) = { t.setR d v with latches := { t.latches with m := latchPush t.latches.m ⟨q, v.psn⟩ } } := by
  simp [Thread.apply]

theorem Thread.apply_vResult (t : Thread) (d : BitVec 6) (w : Bool) (m : BitVec 128) (v : Lanes) :
    t.apply (.vResult d w m v)
      = { (if w then t else t.setV d m v) with latches := { t.latches with v := latchPush t.latches.v (Lanes.masked m v) } } := by
  cases w <;> simp [Thread.apply]

theorem Thread.apply_kResult (t : Thread) (d : BitVec 6) (w : Bool) (m : BitVec 128) :
    t.apply (.kResult d w m)
      = { (if w then t else t.setK (d.truncate 3) m) with latches := { t.latches with v := latchPush t.latches.v (kLanes m) } } := by
  cases w <;> simp [Thread.apply]

theorem Thread.cResult_frame (t : Thread) (d : BitVec 6) (w : Bool) (v : PDWord) :
    let u := t.apply (.cResult d w v)
    t.sameControl u ∧ u.vregs = t.vregs ∧ u.kregs = t.kregs ∧ u.latches = { t.latches with c := latchPush t.latches.c v }
    ∧ (∀ r : BitVec 5, r.zeroExtend 6 ≠ d ∨ w = true → u.getS r = t.getS r)
    ∧ (∀ r : BitVec 4, 32 + r.zeroExtend 6 ≠ d ∨ w = true → u.getA r = t.getA r) := by
  dsimp only
  rw [Thread.apply_cResult]
  cases w with
  | true => exact ⟨Thread.sameControl_latches _ t.sameControl_refl, rfl, rfl, rfl, fun _ _ => rfl, fun _ _ => rfl⟩
  | false =>
    refine ⟨Thread.sameControl_latches _ (t.sameControl_setR d v), t.setR_vregs d v, t.setR_kregs d v, rfl, fun r h => ?_, fun r h => ?_⟩
    · exact (t.getS_setR d r v).trans (if_neg fun e => h.resolve_right (by decide) e.1)
    · exact (t.getA_setR d r v).trans (if_neg (h.resolve_right (by decide)))

theorem Thread.mResult_frame (t : Thread) (d : BitVec 6) (v : PDWord) (q : DWord) :
    let u := t.apply (.mResult d v q)
    t.sameControl u ∧ u.vregs = t.vregs ∧ u.kregs = t.kregs ∧ u.latches = { t.latches with m := latchPush t.latches.m ⟨q, v.psn⟩ }
    ∧ (∀ r : BitVec 5, r.zeroExtend 6 ≠ d → u.getS r = t.getS r) ∧ (∀ r : BitVec 4, 32 + r.zeroExtend 6 ≠ d → u.getA r = t.getA r) := by
  dsimp only
  rw [Thread.apply_mResult]
  refine ⟨Thread.sameControl_latches _ (t.sameControl_setR d v), t.setR_vregs d v, t.setR_kregs d v, rfl, fun r h => ?_, fun r h => ?_⟩
  · exact (t.getS_setR d r v).trans (if_neg fun e => h e.1)
  · exact (t.getA_setR d r v).trans (if_neg h)

theorem Thread.vResult_frame (t : Thread) (d : BitVec 6) (w : Bool) (m : BitVec 128) (v : Lanes) :
    let u := t.apply (.vResult d w m v)
    t.sameControl u ∧ u.sregs = t.sregs ∧ u.aregs = t.aregs ∧ u.kregs = t.kregs
    ∧ u.latches = { t.latches with v := latchPush t.latches.v (Lanes.masked m v) }
    ∧ (∀ r : BitVec 6, r ≠ d ∨ w = true → u.getV r = t.getV r)
    ∧ (∀ l : Fin 128, w = false → d < 48 → (u.getV d)[l] = if m.getLsbD l then v[l] else (t.getV d)[l]) := by
  dsimp only
  rw [Thread.apply_vResult]
  cases w with
  | true => exact ⟨Thread.sameControl_latches _ t.sameControl_refl, rfl, rfl, rfl, rfl, fun _ _ => rfl, nofun⟩
  | false =>
    refine ⟨Thread.sameControl_latches _ (t.sameControl_setV d m v), t.setV_sregs d m v, t.setV_aregs d m v, t.setV_kregs d m v, rfl,
      fun r h => ?_, fun l _ hd => ?_⟩
    · exact t.getV_setV_ne d r m v (h.resolve_right (by decide))
    · have hd' : d.toNat < 48 := hd
      have hl := t.getV_setV d d m v l
      simp only [hd', true_and] at hl
      exact hl

theorem Thread.kResult_frame (t : Thread) (d : BitVec 6) (w : Bool) (m : BitVec 128) :
    let u := t.apply (.kResult d w m)
    t.sameControl u ∧ u.sregs = t.sregs ∧ u.aregs = t.aregs ∧ u.vregs = t.vregs
    ∧ u.latches = { t.latches with v := latchPush t.latches.v (kLanes m) }
    ∧ (∀ r : BitVec 3, r ≠ d.truncate 3 ∨ w = true → u.getK r = t.getK r) ∧ (w = false → u.getK (d.truncate 3) = m) := by
  dsimp only
  rw [Thread.apply_kResult]
  cases w with
  | true => exact ⟨Thread.sameControl_latches _ t.sameControl_refl, rfl, rfl, rfl, rfl, fun _ _ => rfl, nofun⟩
  | false =>
    refine ⟨Thread.sameControl_latches _ (t.sameControl_setK _ m), rfl, rfl, rfl, rfl, fun r h => ?_, fun _ => ?_⟩
    · exact (t.getK_setK _ r m).trans (if_neg (h.resolve_right (by decide)))
    · exact (t.getK_setK _ _ m).trans (if_pos rfl)

/-- Settles O12, one frame lemma for each of the four results. -/
theorem resultFrame : Obligations.ResultFrame := fun t w =>
  ⟨fun d v => t.cResult_frame d w v, t.mResult_frame, fun d m v => t.vResult_frame d w m v, fun d m => t.kResult_frame d w m⟩

/-! ### A counted cycle (R16) -/

theorem Thread.sameRegs_refl (t : Thread) : t.sameRegs t := ⟨rfl, rfl, rfl, rfl, rfl⟩

theorem Thread.sameRegs_trans {t u v : Thread} (h : t.sameRegs u) (k : u.sameRegs v) : t.sameRegs v := by
  obtain ⟨hs, ha, hv, hk, hl⟩ := h
  obtain ⟨ks, ka, kv, kk, kl⟩ := k
  exact ⟨ks.trans hs, ka.trans ha, kv.trans hv, kk.trans hk, kl.trans hl⟩

/-- What neither a completion on a timeline nor the queue descriptors touch, the end of queue rewrites keeps (R318). -/
theorem Thread.endVqbal_keeps {α : Type} (p : Thread → α) (hc : ∀ t k n, p (Thread.complete t k n) = p t)
    (hq : ∀ (t : Thread) qs, p { t with qs := qs } = p t) (t : Thread) : p t.endVqbal = p t :=
  (hq _ _).trans (foldl_keeps p _ (fun t n => hc t 5 n) _ t)

theorem Thread.endVqbal_sameRegs (t : Thread) : t.sameRegs t.endVqbal := by
  refine ⟨?_, ?_, ?_, ?_, ?_⟩ <;> exact Thread.endVqbal_keeps _ (fun _ _ _ => rfl) (fun _ _ => rfl) t

theorem Thread.tickFlights_sameRegs (t : Thread) : t.sameRegs t.tickFlights := Thread.endVqbal_sameRegs _

theorem Thread.tickFlights_flights (t : Thread) : t.tickFlights.flights = t.flights.map fun f => { off := f.off - 1, fx := f.fx.cycle } :=
  Thread.endVqbal_keeps Thread.flights (fun _ _ _ => rfl) (fun _ _ => rfl) _

theorem Thread.cycles_sameRegs (k : Nat) (t : Thread) : t.sameRegs (Thread.cycles k t) := by
  induction k with
  | zero => exact t.sameRegs_refl
  | succ k ih => exact Thread.sameRegs_trans ih (Thread.tickFlights_sameRegs _)

/-- A lone result in flight that no data is awaited for comes k cycles nearer in k cycles. -/
theorem Thread.cycles_flights (k n : Nat) (x : Effect) (t : Thread) (hx : x.cycle = x) (h : t.flights = [⟨n, x⟩]) :
    (Thread.cycles k t).flights = [⟨n - k, x⟩] := by
  induction k with
  | zero => exact h
  | succ k ih => simp [Thread.cycles, Thread.tickFlights_flights, ih, hx, Nat.sub_sub]

/-! ### Results due (R163, R286) -/

/-- Nothing is written while no result is due. -/
theorem Thread.settle_not_due (t : Thread) (h : ∀ f ∈ t.flights, f.off ≠ 0) : t.settle = t := by
  have hdue : t.flights.filter (fun f => f.off == 0) = [] := by simpa using h
  have hrest : t.flights.filter (fun f => f.off != 0) = t.flights := by simpa using h
  unfold Thread.settle
  simp [hdue, hrest]

/-- A lone result that is due is written. -/
theorem Thread.settle_due (t : Thread) (x : Effect) (h : t.flights = [⟨0, x⟩]) (hl : t.late = false) :
    t.settle = ({ t with flights := [] } : Thread).apply x := by
  unfold Thread.settle
  cases hx : x.isUpdate <;> simp [hl, h, hx]

/-- Settles O9: before its cycle the result is not due, and at its cycle it is written by `Thread.apply_cResult`. -/
theorem resultAtItsCycle : Obligations.ResultAtItsCycle := by
  intro t d v n k hf
  have hfl := Thread.cycles_flights k n _ t rfl hf
  obtain ⟨hs, ha, hv, hk, hl⟩ := Thread.cycles_sameRegs k t
  refine ⟨fun hkn => ?_, fun hkn => ?_⟩
  · rw [Thread.settle_not_due _ (by simp [hfl]; omega)]
    exact ⟨hs, ha, hv, hk, hl⟩
  · subst hkn
    rw [Nat.sub_self] at hfl
    rw [Thread.settle_due _ _ hfl (by simp [Thread.late, hfl, Flight.late]), Thread.apply_cResult]
    refine ⟨by simp [hl], fun hd h0 => ?_, fun hd1 hd2 => ?_⟩
    · have hr : (d.truncate 5).zeroExtend 6 = d ∧ d ≠ 0 := by bv_omega
      exact (Thread.getS_setR _ d _ v).trans (if_pos hr)
    · have hr : 32 + (d.truncate 4).zeroExtend 6 = d := by bv_omega
      exact (Thread.getA_setR _ d _ v).trans (if_pos hr)

/-! ### A result put in flight (R16) -/

theorem State.later_sameRegs (s : State) (n : Nat) (x : Effect) : s.core.t.sameRegs (s.later n x).core.t := by simp [Thread.sameRegs]
theorem State.later_sameControl (s : State) (n : Nat) (x : Effect) : s.core.t.sameControl (s.later n x).core.t := by
  simp [Thread.sameControl]
theorem State.later_sameMemory (s : State) (n : Nat) (x : Effect) : s.sameMemory (s.later n x) := by simp [State.sameMemory]

/-- Settles O13: a result put in flight is appended to the flights, and no other field of the machine moves. -/
theorem issueFrame : Obligations.IssueFrame := fun s n fx =>
  ⟨s.later_sameRegs n fx, s.later_sameControl n fx, s.later_sameMemory n fx, s.later_t_pc n fx, s.later_flights n fx, s.later_launches n fx,
    s.later_hubs n fx, s.later_agenda n fx, s.later_outbox n fx⟩

end Sys2Proof.Machine
end

section
/-! How a step of a core outside a gang comes to the word at its program counter and performs it (R16, R236, R237, R278). -/

namespace Sys2Proof.Machine

/-! ### What a written result leaves alone -/

@[simp] theorem Thread.setCsr_gang (t : Thread) (n : Nat) (v : DWord) : (t.setCsr n v).gang = t.gang := by
  unfold Thread.setCsr; split <;> rfl
@[simp] theorem Thread.csrWrite_gang (t : Thread) (n : Nat) (op : CsrOp) (v : DWord) : (t.csrWrite n op v).gang = t.gang := by
  unfold Thread.csrWrite; split <;> simp
@[simp] theorem Thread.setNt_gang (t : Thread) (nt w : Nat) (v : Word) : (t.setNt nt w v).gang = t.gang := by
  unfold Thread.setNt
  split
  · split <;> rfl
  · rfl

/-- No result puts a core into a gang or out of one. -/
@[simp] theorem Thread.apply_gang (t : Thread) (x : Effect) : (t.apply x).gang = t.gang := by
  cases x with
  | cResult d w v => cases w <;> simp [Thread.apply]
  | vResult d w m v => cases w <;> simp [Thread.apply]
  | kResult d w m => cases w <;> simp [Thread.apply]
  | vsResult d w v => cases w <;> simp [Thread.apply]
  | ntClear nt => simp only [Thread.apply]; split <;> rfl
  | _ => simp [Thread.apply, Thread.raise]

/-- What no written result changes, the results of a cycle keep. -/
theorem Thread.settle_keeps {α : Type} (p : Thread → α) (ha : ∀ t x, p (Thread.apply t x) = p t)
    (hf : ∀ (t : Thread) fs, p { t with flights := fs } = p t) (t : Thread) : p t.settle = p t := by
  have hfold : ∀ (fs : List Flight) (u : Thread), p (fs.foldl (fun t f => t.apply f.fx) u) = p u := foldl_keeps p _ fun t f => ha t f.fx
  unfold Thread.settle
  split
  · rfl
  · simp only [hfold, hf]

@[simp] theorem Thread.settle_gang (t : Thread) : t.settle.gang = t.gang :=
  Thread.settle_keeps Thread.gang Thread.apply_gang (fun _ _ => rfl) t

/-! ### A core outside a gang (R88, R89) -/

theorem State.members_solo (s : State) (h : s.core.t.gang = false) : s.members = [s.core.cid] := by
  simp [State.members, State.gangOf, State.coreAt, h]

theorem State.each_solo (s : State) (f : Thread → Thread) (h : s.core.t.gang = false) : s.each f = s.mapT f := by
  simp [State.each, h]

theorem State.anyT_solo (s : State) (p : Thread → Bool) (h : s.core.t.gang = false) : s.anyT p = p s.core.t := by
  simp [State.anyT, h]

theorem State.pendingAt_solo (s : State) (h : s.core.t.gang = false) (hp : s.core.t.tpend = none) : s.pendingAt = none := by
  simp [State.pendingAt, s.members_solo h, State.coreAt, hp]

/-- With an empty egress nothing leaves the core (R194). -/
theorem State.drain_empty (s : State) (h : s.core.t.egress = []) : s.drain = s := by simp [State.drain, h]

/-! ### Fetch (R236, R237) -/

/-- A word that lies in the code buffer without poison is fetched out of it. -/
theorem State.fetchWord_buffer (s : State) (pc : Nat) (hlo : s.core.t.codeBase.toNat ≤ pc)
    (hhi : pc - s.core.t.codeBase.toNat + 4 ≤ s.core.t.codeLen)
    (hp : SMap.find? s.core.t.codePsn ((pc - s.core.t.codeBase.toNat) / 8) = none) :
    s.fetchWord pc = .word (BitVec.ofNat 32 (leNat (Mem.read s.core.t.code (pc - s.core.t.codeBase.toNat) 4))) s := by
  simp [State.fetchWord, hlo, hhi, hp]

/-- A word with CH = 0 is a bundle of its own. -/
theorem State.fetchBundle_last (s s' : State) (fuel pc : Nat) (w : Word) (hf : s.fetchWord pc = .word w s') (hc : chainBit w = false) :
    State.fetchBundle (fuel + 1) s pc = .words [w] s' := by
  simp [State.fetchBundle, hf, hc]

/-- What four bytes decode to is what the word that they hold decodes to. -/
theorem decode_of_decodeBytes_read (m : Mem) (a : Nat) (c : Bool) (i : Instr) (h : decodeBytes (Mem.read m a 4) = .ok (c, i, [])) :
    decode (BitVec.ofNat 32 (leNat (Mem.read m a 4))) = .ok i ∧ chainBit (BitVec.ofNat 32 (leNat (Mem.read m a 4))) = c := by
  simp only [Mem.read, decodeBytes, wordOfBytes] at h ⊢
  split at h
  next j hj =>
    cases h
    exact ⟨hj, rfl⟩
  next => cases h

/-! ### Issue of a bundle of one word -/

theorem bundleInstrs_single (r : Rep) (w : Word) (i : Instr) (hr : r.left = 0) (hc : chainBit w = false) (hd : decode w = .ok i) :
    bundleInstrs r [w] = some [i] := by
  have hp : pipesApart [w] = true := rfl
  simp [bundleInstrs, bundleShape, hr, hc, hp, decodeAll, hd]

theorem State.issueRep_single (s : State) (i : Instr) (hr : s.core.t.rep.left = 0) : s.issueRep [i] = s.word i := by
  simp [State.issueRep, State.issueAll, hr]

@[simp] theorem State.atIssue_rep (s : State) (is : List Instr) (pcn : DWord) : (s.atIssue is pcn).core.t.rep = s.core.t.rep := rfl
@[simp] theorem State.atIssue_passed (s : State) (is : List Instr) (pcn : DWord) : (s.atIssue is pcn).core.t.passed = s.core.t.passed := rfl

theorem State.soloBundle_single (s : State) (w : Word) (i : Instr) (hr : s.core.t.rep.left = 0) (hc : chainBit w = false)
    (hd : decode w = .ok i) :
    s.soloBundle [w] = onNext ((s.atIssue [i] (s.core.t.pc + 4)).word i) (s.retire (s.core.t.pc + 4)) := by
  simp only [State.soloBundle, bundleInstrs_single _ w i hr hc hd]
  rw [State.issueRep_single _ _ (by simpa using hr)]
  rfl

/-- A word of a bundle whose check stage has not passed yet is performed as exec says (R165). -/
theorem State.word_eq_exec (s : State) (i : Instr) (h : s.core.t.passed = false) : s.word i = exec i s := by
  unfold State.word State.uncancelled
  split
  · simp [h]
  · rfl

/-! ### The turn of the core -/

theorem onNext_onNext (o : Out) (f g : State → State) : onNext (onNext o f) g = onNext o fun s => g (f s) := by cases o <;> rfl

/-- A running core outside a gang that nothing stops, holds, freezes or stalls writes the results due and issues the bundle it fetches. -/
theorem State.run_issues (s s' : State) (ws : List Word) (hm : s.core.t.mode = .run) (hg : s.core.t.gang = false) (hp : s.core.t.tpend = none)
    (hs : s.stopsHere = false) (hh : s.core.t.hold ≠ some .eretDrain) (hl : s.core.t.late = false) (hst : s.core.t.stall = 0)
    (hf : s.core.t.fetching = none) (hg' : s'.core.t.gang = false)
    (hb : State.fetchBundle 4 (s.mapT Thread.settle) s.core.t.settle.pc.toNat = .words ws s') : s.run = s'.soloBundle ws := by
  simp [State.run, State.anyT_solo _ _ hg, State.each_solo _ _ hg, s.pendingAt_solo hg hp, hm, hs, hh, hl, hst, hf, hb, hg']

/-- The core's turn, when nothing waits to leave it and it is within its budget, is a step of its work (R108, R194). -/
theorem step_of_run (s : State) (ht : s.turn = 0) (hw : s.powered = true) (hz : s.core.protFrozen = false) (he : s.core.t.egress = [])
    (hm : s.core.t.mode = .run) (hg : s.core.t.gang = false) (ho : s.overBudget = false) : step s = onNext s.run State.endTurn := by
  simp [step, State.turnStep, State.coreStep, s.drain_empty he, ht, hw, hz, hm, hg, ho]

/-- Settles O4: the step runs the core, the core fetches a bundle of one word out of its code buffer, and the bundle issues that word. -/
theorem stepRunsDecoded : Obligations.StepRunsDecoded := by
  intro s i ht hw hz he hm hg ho hp hl hh hst hf hs s1 t off hr hlo hhi hpsn hdec
  obtain ⟨hd, hc⟩ := decode_of_decodeBytes_read _ _ _ _ hdec
  have hb := s1.fetchBundle_last s1 3 _ _ (s1.fetchWord_buffer _ hlo hhi hpsn) hc
  have hrun : s.run = s1.soloBundle [_] := s.run_issues s1 _ hm hg hp hs hh hl hst hf (s.core.t.settle_gang.trans hg) hb
  refine ⟨?_, fun hpass => State.word_eq_exec _ i hpass⟩
  rw [step_of_run s ht hw hz he hm hg ho, hrun, s1.soloBundle_single _ i hr hc hd, onNext_onNext]

end Sys2Proof.Machine
end

section
/-! The machine right after reset (R83): its register files, latches and memories. -/

namespace Sys2Proof.Machine

theorem getS_reset (d : BitVec 5) : State.reset.core.t.getS d = {} := by
  unfold Thread.getS
  split
  · rfl
  · exact Vector.getElem_replicate ..

theorem getA_reset (d : BitVec 4) : State.reset.core.t.getA d = {} := Vector.getElem_replicate ..

theorem getK_reset (d : BitVec 3) : State.reset.core.t.getK d = 0 := Vector.getElem_replicate ..

/-- A v register is zero after reset, and a code past the file reads as zero. -/
theorem getV_reset (d : BitVec 6) : State.reset.core.t.getV d = Lanes.zero := by
  unfold Thread.getV
  split
  · exact Vector.getElem_replicate ..
  · rfl

/-- Settles O6: the register files by their reads, the control state and memory as they stand in the reset state. -/
theorem resetState : Obligations.ResetState :=
  ⟨getS_reset, getA_reset, getK_reset, getV_reset, rfl, rfl, rfl, rfl, rfl, fun _ => rfl, rfl, rfl⟩

/-- Settles O7: every memory of the reset state is empty, and an empty memory is in canonical form. -/
theorem resetMemoryCanonical : Obligations.ResetMemoryCanonical := rfl

end Sys2Proof.Machine
end

section
/-! How the launch controller, BAR 0, BAR 4 and the inbound windows step (R63 to R79, R109, R175, R177): what queues, contexts, launches, vectors and
registers hold after each of their operations. -/

namespace Sys2Proof.Machine

/-! ### What only puts steps on the agenda, or takes them off -/

theorem State.pushOnce_keeps {α : Type} (p : State → α) (h : ∀ s a, p { s with agenda := a } = p s) (s : State) (i : Instr) :
    p (s.pushOnce i) = p s := by
  unfold State.pushOnce
  split
  · rfl
  · exact h s _

theorem State.refillsDue_keeps {α : Type} (p : State → α) (h : ∀ s a, p { s with agenda := a } = p s) (s : State) : p s.refillsDue = p s :=
  foldl_keeps p _ (fun s _ => foldl_keeps p _ (fun s _ => by
    dsimp only
    split
    · rw [State.pushOnce_keeps p h, foldl_keeps p _ (fun s _ => State.pushOnce_keeps p h s _)]
    · rw [foldl_keeps p _ (fun s _ => State.pushOnce_keeps p h s _)]) _ s) _ s

theorem State.chooseAgain_keeps {α : Type} (p : State → α) (h : ∀ s a, p { s with agenda := a } = p s) (s : State) (r : LaunchRec) :
    p (s.chooseAgain r) = p s :=
  foldl_keeps p _ (fun s _ => State.pushOnce_keeps p h s _) _ s

/-- Serving the queues makes steps due, and moves nothing else (R69). -/
theorem State.serveQueues_keeps {α : Type} (p : State → α) (h : ∀ s a, p { s with agenda := a } = p s) (s : State) : p s.serveQueues = p s :=
  foldl_keeps p _ (fun s c => by
    split
    · exact State.pushOnce_keeps p h s _
    · rfl) _ s

@[simp] theorem State.serveQueues_mem (s : State) : s.serveQueues.mem = s.mem := State.serveQueues_keeps _ (fun _ _ => rfl) s
@[simp] theorem State.serveQueues_core (s : State) : s.serveQueues.core = s.core := State.serveQueues_keeps _ (fun _ _ => rfl) s
@[simp] theorem State.serveQueues_parked (s : State) : s.serveQueues.parked = s.parked := State.serveQueues_keeps _ (fun _ _ => rfl) s
@[simp] theorem State.serveQueues_outbox (s : State) : s.serveQueues.outbox = s.outbox := State.serveQueues_keeps _ (fun _ _ => rfl) s
@[simp] theorem State.serveQueues_launches (s : State) : s.serveQueues.launches = s.launches := State.serveQueues_keeps _ (fun _ _ => rfl) s
@[simp] theorem State.serveQueues_ctxAt (s : State) (c : Nat) : s.serveQueues.ctxAt c = s.ctxAt c :=
  State.serveQueues_keeps (fun s => s.ctxAt c) (fun _ _ => rfl) s

/-! ### The entry of a context (R66) -/

@[simp] theorem State.onCtx_mem (s : State) (c : Nat) (f : Ctx → Ctx) : (s.onCtx c f).mem = s.mem := by unfold State.onCtx; split <;> rfl
@[simp] theorem State.onCtx_core (s : State) (c : Nat) (f : Ctx → Ctx) : (s.onCtx c f).core = s.core := by unfold State.onCtx; split <;> rfl
@[simp] theorem State.onCtx_parked (s : State) (c : Nat) (f : Ctx → Ctx) : (s.onCtx c f).parked = s.parked := by unfold State.onCtx; split <;> rfl
@[simp] theorem State.onCtx_outbox (s : State) (c : Nat) (f : Ctx → Ctx) : (s.onCtx c f).outbox = s.outbox := by unfold State.onCtx; split <;> rfl
@[simp] theorem State.onCtx_launches (s : State) (c : Nat) (f : Ctx → Ctx) : (s.onCtx c f).launches = s.launches := by
  unfold State.onCtx; split <;> rfl

theorem State.ctxAt_onCtx (s : State) {c : Nat} (f : Ctx → Ctx) (h : c < 64) : (s.onCtx c f).ctxAt c = f (s.ctxAt c) := by
  simp [State.onCtx, State.ctxAt, h]

/-- What a context's entry is depends on the table alone. -/
theorem State.ctxAt_congr {s t : State} (h : t.ctxs = s.ctxs) (c : Nat) : t.ctxAt c = s.ctxAt c := by simp [State.ctxAt, h]

/-- The frame of the host interface's registers: memory, the cores and what has left the device stand. -/
def State.sameWork (s t : State) : Prop := t.mem = s.mem ∧ t.core = s.core ∧ t.parked = s.parked ∧ t.outbox = s.outbox

theorem State.sameWork_onCtx (s : State) (c : Nat) (f : Ctx → Ctx) : s.sameWork (s.onCtx c f) := by simp [State.sameWork]

theorem State.sameWork_serveQueues {s t : State} (h : s.sameWork t) : s.sameWork t.serveQueues := by simpa [State.sameWork] using h

/-! ### A record consumed (R69, R72, R73) -/

theorem State.nextQueue_lt {s : State} {c : Nat} (h : s.nextQueue = some c) : c < 64 := by
  obtain ⟨k, -, rfl⟩ := List.mem_map.1 (List.mem_of_find?_eq_some h)
  omega

/-- A draw range declared is entered in the table of draws, and nothing else moves (R73). -/
theorem State.declareDraw_eq (s : State) (r : LaunchRec) : ∃ d, (s.declareDraw r).2 = { s with draws := d } := by
  unfold State.declareDraw
  split
  · exact ⟨s.draws, rfl⟩
  · exact ⟨_, rfl⟩

/-- A record accepted stands in the lowest free slot with the status of its checks; memory, the core and the contexts stand. -/
theorem State.acceptRecord_spec (s : State) (ctx : Nat) (r : LaunchRec) :
    ∃ x, SMap.find? (s.acceptRecord ctx r).launches (firstGap 0 s.launches) = some x ∧ x.ctx = ctx ∧ x.lrec = r
      ∧ x.status = (s.ctxAt ctx).judge r ∧ (s.acceptRecord ctx r).mem = s.mem ∧ (s.acceptRecord ctx r).core = s.core
      ∧ (s.acceptRecord ctx r).ctxs = s.ctxs := by
  obtain ⟨d, hd⟩ := s.declareDraw_eq r
  by_cases hok : (s.ctxAt ctx).judge r = .ok
  · simp [State.acceptRecord, hok, hd]
  · simp [State.acceptRecord, hok]

theorem State.consume_spec (s : State) {ctx : Nat} (r : LaunchRec) (h : ctx < 64) :
    ∃ x, SMap.find? (s.consume ctx r).launches (firstGap 0 s.launches) = some x ∧ x.ctx = ctx ∧ x.lrec = r ∧ x.status = (s.ctxAt ctx).judge r
      ∧ ((s.consume ctx r).ctxAt ctx).qHead = (s.ctxAt ctx).qHead + 1 ∧ (s.consume ctx r).mem = s.mem ∧ (s.consume ctx r).core = s.core := by
  obtain ⟨x, hx, hctx, hrec, hst, hmem, hcore, hctxs⟩ := s.acceptRecord_spec ctx r
  have hq : ((s.consume ctx r).ctxAt ctx).qHead = (s.ctxAt ctx).qHead + 1 := by
    calc ((s.consume ctx r).ctxAt ctx).qHead
        = (((s.acceptRecord ctx r).onCtx ctx fun c => { c with qHead := c.qHead + 1, tries := 0 }).ctxAt ctx).qHead :=
          congrArg Ctx.qHead (State.serveQueues_ctxAt _ ctx)
      _ = (s.ctxAt ctx).qHead + 1 := by rw [State.ctxAt_onCtx _ _ h, State.ctxAt_congr hctxs]
  exact ⟨x, by simpa [State.consume] using hx, hctx, hrec, hst, hq, by simp [State.consume, hmem], by simp [State.consume, hcore]⟩

/-! ### A message asked for (R77, R81) -/

@[simp] theorem State.sendMsix_mem (s : State) (v : Nat) (ids : List Word) : (s.sendMsix v ids).mem = s.mem := by
  unfold State.sendMsix
  split
  · rfl
  · split
    · split <;> rfl
    · rfl
@[simp] theorem State.sendMsix_ctxs (s : State) (v : Nat) (ids : List Word) : (s.sendMsix v ids).ctxs = s.ctxs := by
  unfold State.sendMsix
  split
  · rfl
  · split
    · split <;> rfl
    · rfl

/-- Neither frozen nor masked, a message leaves at once. -/
theorem State.sendMsix_open (s : State) (v : Nat) (ids : List Word) (hf : s.dev.hostFrozen = false) (hv : s.unmasked.contains v = true) :
    s.sendMsix v ids = s.emit (.msix v ids) := by
  rw [State.sendMsix, if_neg (by simp [hf]), if_neg (by rw [hv]; decide)]

/-! ### The start of a launch (R72, R87, R90, R109) -/

@[simp] theorem State.returnPage_launches (s : State) (pa : Nat) (big : Bool) : (s.returnPage pa big).launches = s.launches := by
  unfold State.returnPage
  split
  · split <;> (dsimp only; split <;> rfl)
  · rfl

theorem State.foldl_push {α : Type} (f : α → Instr) (l : List α) (s : State) :
    l.foldl (fun s a => s.push (f a)) s = { s with agenda := s.agenda ++ l.map f } := by
  induction l generalizing s with
  | nil => simp
  | cons a l ih => rw [List.foldl_cons, ih]; simp [State.push]

@[simp] theorem State.foldl_returnPage_launches (ps : List (Nat × Bool)) (s : State) :
    (ps.foldl (fun (s : State) p => s.returnPage p.1 p.2) s).launches = s.launches :=
  foldl_keeps State.launches _ (fun s p => s.returnPage_launches p.1 p.2) ps s

@[simp] theorem State.unhold_launches (s : State) (w : HoldWho) : (s.unhold w).launches = s.launches := rfl

/-- A launch that begins runs with its first data and with empty hubs. -/
theorem State.find?_beginLaunch (s : State) (l : Nat) (x : Launch) (first : List Byte) :
    ∃ y, SMap.find? (s.beginLaunch l x first).launches l = some y ∧ y.phase = .running ∧ y.first = first
      ∧ y.hubs = x.lrec.dies.map (fun d => (d, { reach := x.lrec.reach })) := by
  by_cases ht : x.lrec.task = true
  · by_cases hm : x.lrec.multi = true <;> simp [State.beginLaunch, ht, hm]
  · simp [State.beginLaunch, ht, State.foldl_push]

/-- A task launch sends FIRST to its first hub. -/
theorem State.beginLaunch_first (s : State) (l : Nat) (x : Launch) (first : List Byte) (ht : x.lrec.task = true) :
    .packetAccept (x.lrec.dies.headD 0) l .first first ∈ (s.beginLaunch l x first).agenda := by
  by_cases hm : x.lrec.multi = true <;> simp [State.beginLaunch, ht, hm]

/-- A launch without a worklist starts each of its gangs. -/
theorem State.beginLaunch_gangs (s : State) (l : Nat) (x : Launch) (first : List Byte) (ht : x.lrec.task = false) (g : Nat)
    (hg : g < 2 ^ (x.lrec.log2w - x.lrec.glog2w) * 2 ^ (x.lrec.log2h - x.lrec.glog2h)) :
    .gangStart l g ∈ (s.beginLaunch l x first).agenda := by
  simp [State.beginLaunch, ht, State.foldl_push, hg]

/-! ### A slot freed (R69) -/

theorem State.find?_freeLaunch (s : State) (l : Nat) : SMap.find? (s.freeLaunch l).launches l = none := by
  unfold State.freeLaunch
  split
  · assumption
  · simp

/-! ### A context switched off (R66, R76) -/

theorem State.find?_endLaunch_ne (s : State) {l k : Nat} (st : Status) (cause : Option Cause) (h : k ≠ l) :
    SMap.find? (s.endLaunch l st cause).launches k = SMap.find? s.launches k := by
  unfold State.endLaunch
  split
  · rfl
  · split
    · rfl
    · simp [State.dropLaunch, State.purge, SMap.find?_insert_ne _ _ h]

@[simp] theorem State.endLaunch_ctxAt (s : State) (l : Nat) (st : Status) (cause : Option Cause) (c : Nat) :
    (s.endLaunch l st cause).ctxAt c = s.ctxAt c := by
  have hagenda : ∀ (s : State) a, ({ s with agenda := a } : State).ctxAt c = s.ctxAt c := fun _ _ => rfl
  unfold State.endLaunch
  split
  · rfl
  · split
    · rfl
    · exact (State.chooseAgain_keeps (fun s => s.ctxAt c) hagenda _ _).trans (State.refillsDue_keeps (fun s => s.ctxAt c) hagenda _)

/-- The launch of a slot has been aborted and drains. -/
def State.aborted (s : State) (l : Nat) : Prop := ∃ y, SMap.find? s.launches l = some y ∧ y.status = .aborted ∧ y.phase = .draining

/-- What has been aborted stays so while other launches, or itself again, are aborted. -/
theorem State.aborted_endLaunch {s : State} {l : Nat} (k : Nat) (h : s.aborted l) : (s.endLaunch k .aborted none).aborted l := by
  by_cases hk : l = k
  · subst hk
    obtain ⟨y, hy, hst, hph⟩ := h
    exact ⟨y, by simp [State.endLaunch, hy, hph], hst, hph⟩
  · simpa [State.aborted, s.find?_endLaunch_ne _ _ hk] using h

theorem State.aborted_foldl {s : State} {l : Nat} (ls : List Nat) (h : s.aborted l) :
    (ls.foldl (fun (s : State) k => s.endLaunch k .aborted none) s).aborted l := by
  induction ls generalizing s with
  | nil => exact h
  | cons k ls ih => exact ih (State.aborted_endLaunch k h)

/-- A running launch among those that are aborted one after another is aborted. -/
theorem State.aborted_foldl_of_mem {s : State} {l : Nat} {x : Launch} {ls : List Nat} (hl : l ∈ ls) (hx : SMap.find? s.launches l = some x)
    (hr : x.phase = .running) : (ls.foldl (fun (s : State) k => s.endLaunch k .aborted none) s).aborted l := by
  induction ls generalizing s with
  | nil => cases hl
  | cons k ls ih =>
    by_cases hk : l = k
    · subst hk
      obtain ⟨y, hy, hph, hst, -⟩ := s.find?_endLaunch l .aborted none x hx (by simp [hr]) (by simp [hr])
      exact State.aborted_foldl ls ⟨y, hy, hst, hph⟩
    · exact ih ((List.mem_cons.1 hl).resolve_left hk) ((s.find?_endLaunch_ne _ _ hk).trans hx)

theorem State.mem_launchesOf {s : State} {l : Nat} {x : Launch} (hx : SMap.find? s.launches l = some x) : l ∈ s.launchesOf x.ctx :=
  List.mem_map.2 ⟨(l, x), List.mem_filter.2 ⟨SMap.mem_of_find? _ _ _ hx, beq_self_eq_true _⟩, rfl⟩

theorem State.abortContext_aborted {s : State} {l : Nat} {x : Launch} (hx : SMap.find? s.launches l = some x) (hr : x.phase = .running) :
    (s.abortContext x.ctx).aborted l := State.aborted_foldl_of_mem (State.mem_launchesOf hx) hx hr

@[simp] theorem State.abortContext_ctxAt (s : State) (ctx c : Nat) : (s.abortContext ctx).ctxAt c = s.ctxAt c :=
  foldl_keeps (fun s => State.ctxAt s c) _ (fun s l => s.endLaunch_ctxAt l _ _ c) _ s

/-! ### The steps of the launch controller (R69, R72, R74) -/

theorem execLaunchRecordConsume_found {s s1 : State} {ctx : Nat} {r : LaunchRec} (hw : (s.ctxAt ctx).waiting = true) (hp : s.polling ctx = false)
    (hn : s.launches.length < 256) (hq : s.nextQueue = some ctx) (hr : s.readRecord ctx = (some r, s1)) :
    execLaunchRecordConsume ctx s = .next (s1.consume ctx r) := by
  simp [execLaunchRecordConsume, hw, hp, hq, hr, Nat.not_le.2 hn]

theorem execRecordRepoll_idle {s : State} {ctx : Nat} (hw : (s.ctxAt ctx).waiting = false) :
    execRecordRepoll ctx s = .next (s.onCtx ctx fun c => { c with tries := 0 }) := by
  simp [execRecordRepoll, hw]

theorem execRecordRepoll_found {s s1 : State} {ctx : Nat} {r : LaunchRec} (hw : (s.ctxAt ctx).waiting = true) (hn : s.launches.length < 256)
    (hr : s.readRecord ctx = (some r, s1)) : execRecordRepoll ctx s = .next (s1.consume ctx r) := by
  simp [execRecordRepoll, hw, hr, Nat.not_le.2 hn]

/-- A read that finds no record is made again until the eighth, which tears the queue (R69). -/
theorem execRecordRepoll_missing {s s1 : State} {ctx : Nat} (hw : (s.ctxAt ctx).waiting = true) (hn : s.launches.length < 256)
    (hr : s.readRecord ctx = (none, s1)) :
    execRecordRepoll ctx s =
      if (s.ctxAt ctx).tries + 1 < 8 then .next ((s1.onCtx ctx fun c => { c with tries := c.tries + 1 }).push (.recordRepoll ctx))
      else .next ((s1.onCtx ctx fun c => { c with qStat := .torn, tries := 0 }).sendMsix (s.ctxAt ctx).errVec.toNat []) := by
  simp [execRecordRepoll, hw, hr, Nat.not_le.2 hn]

theorem execLaunchFirstRead_begins {s s1 : State} {l : Nat} {x : Launch} {bs : List PByte} (hx : SMap.find? s.launches l = some x)
    (hp : x.phase = .accepted) (hm : (s.ctxAt x.ctx).mgmtFrozen = false) (hf : (s.ctxAt x.ctx).frozen = false) (h0 : x.first = [])
    (hr : s.readFirst l x = .ok (bs, s1)) (hc : psnOf bs = none) : execLaunchFirstRead l s = .next (s1.beginLaunch l x (plain bs)) := by
  simp [execLaunchFirstRead, hx, hp, hm, hf, h0, hr, hc]

/-- A launch that has failed and drained writes its report, tells the host and frees its slot (R74, R110). -/
theorem execLaunchReport_reports {s s1 : State} {l : Nat} {x y : Launch} (hx : SMap.find? s.launches l = some x) (hp : x.phase = .draining)
    (hst : x.status ≠ .ok) (hd : s.draining l x = false) (hc : x.ctx < 64) (h0 : x.reported = 0)
    (hw : (s.onLaunch l fun x => { x with tEnd := s.dev.devTime, reported := 1 }).reportWrites l x.lrec 0 = .ok s1)
    (hy : SMap.find? s1.launches l = some y) (hh : s1.reportHeld y = false) :
    execLaunchReport l s = .next ((s1.tellHost y).freeLaunch l) := by
  simp [execLaunchReport, hx, hp, hst, hd, Nat.not_le.2 hc, h0, hw, hy, hh]

theorem execLaunchReport_selfTest {s : State} {l : Nat} {x : Launch} (hx : SMap.find? s.launches l = some x) (hp : x.phase = .draining)
    (hc : 64 ≤ x.ctx) : execLaunchReport l s = .next (s.freeLaunch l) := by
  simp [execLaunchReport, hx, hp, hc]

/-! ### The MSI-X table (R63, R77) -/

/-- One message leaves for a vector that is neither masked nor frozen, and covers what was pending on it. -/
theorem State.fireVector_open {s : State} {v : Nat} {m : Msix} (hm : s.msix.find? (fun m => m.vector == v && !m.due) = some m)
    (hf : s.dev.hostFrozen = false) (hv : s.unmasked.contains v = true) :
    s.fireVector v [] = ({ s with msix := s.msix.filter (fun m => m.vector != v || m.due) } : State).emit (.msix v m.covers) := by
  have hsend : s.fireVector v [] = ({ s with msix := s.msix.filter (fun m => m.vector != v || m.due) } : State).sendMsix v m.covers := by
    simp [State.fireVector, hm]
  exact hsend.trans (State.sendMsix_open _ _ _ hf hv)

theorem execMsixCoalesceExpiry_fires {s : State} {v : Nat} {m : Msix} {e : DWord} (hm : s.msix.find? (fun m => m.vector == v && !m.due) = some m)
    (he : m.expiry = some e) (ht : e ≤ s.dev.devTime) (hf : s.dev.hostFrozen = false) :
    execMsixCoalesceExpiry v s = .next (s.fireVector v []) := by
  simp [execMsixCoalesceExpiry, hm, he, ht, hf]

/-- A vector whose mask bit is cleared, with nothing held back, joins the vectors that send (R77). -/
theorem execMsixUnmask_idle {s : State} {v : Nat} (hr : s.hostReaches = true) (hv : v < 2048)
    (hm : s.msix.find? (fun m => m.vector == v && m.due) = none) :
    execMsixUnmask v s = .next { s with unmasked := if s.unmasked.contains v then s.unmasked else s.unmasked ++ [v] } := by
  unfold execMsixUnmask
  rw [if_neg (by simp [hr, hv])]
  dsimp only
  rw [hm]

/-- A vector that joins a list unless it stands there is in the list then. -/
theorem contains_addAbsent (vs : List Nat) (v : Nat) : (if vs.contains v then vs else vs ++ [v]).contains v = true := by
  split
  · assumption
  · simp

@[simp] theorem leBytes_length (n x : Nat) : (leBytes n x).length = n := by
  induction n generalizing x with
  | zero => rfl
  | succ n ih => simp [leBytes, ih]

/-- A number written to a memory in n bytes is read back in them. -/
theorem Mem.read_write_leBytes (m : Mem) (a n x : Nat) : Mem.read (Mem.write m a (leBytes n x)) a n = leBytes n x := by
  simpa using Mem.read_write m a (leBytes n x)

/-- The address of an entry of the table. -/
theorem State.writeBar4_address (s : State) {k : Nat} (v : DWord) (hk : k < 2048) :
    s.writeBar4 (16 * k) v = { s with msixTab := Mem.write s.msixTab (16 * k) (leBytes 8 v.toNat) } := by
  unfold State.writeBar4
  rw [if_neg (by omega), if_pos (by omega)]

/-- The data of an entry, with its mask bit set. -/
theorem State.writeBar4_mask (s : State) {k : Nat} {v : DWord} (hk : k < 2048) (hv : v.getLsbD 32 = true) :
    s.writeBar4 (16 * k + 8) v
      = { s with msixTab := Mem.write s.msixTab (16 * k + 8) (leBytes 4 v.toNat), unmasked := s.unmasked.filter (fun x => x != k) } := by
  have hdiv : (16 * k + 8) / 16 = k := by omega
  unfold State.writeBar4
  rw [if_neg (by omega), if_neg (by omega), hdiv]
  exact if_pos hv

/-- The data of an entry, with its mask bit clear: the mask held nothing back. -/
theorem State.writeBar4_unmask {s : State} {k : Nat} {v : DWord} (hr : s.hostReaches = true) (hk : k < 2048) (hv : v.getLsbD 32 = false)
    (hm : s.msix.find? (fun m => m.vector == k && m.due) = none) :
    s.writeBar4 (16 * k + 8) v = { s with
      msixTab := Mem.write s.msixTab (16 * k + 8) (leBytes 4 v.toNat)
      unmasked := if s.unmasked.contains k then s.unmasked else s.unmasked ++ [k] } := by
  have hdiv : (16 * k + 8) / 16 = k := by omega
  have hidle := execMsixUnmask_idle (s := { s with msixTab := Mem.write s.msixTab (16 * k + 8) (leBytes 4 v.toNat) }) hr hk hm
  unfold State.writeBar4
  rw [if_neg (by omega), if_neg (by omega), hdiv]
  dsimp only
  rw [if_neg (by rw [hv]; decide), hidle]

theorem State.writeBar4_past (s : State) {off : Nat} (v : DWord) (h : 0x8000 ≤ off) : s.writeBar4 off v = s := if_pos h

/-! ### The registers of BAR 0 (R64, R65, R66, R82) -/

theorem execRegisterWrite_bar0 {s : State} {off : Nat} (v : Posted DWord) (hr : s.hostReaches = true) (h8 : off % 8 = 0) (ho : off < 2 ^ 25) :
    execRegisterWrite off v s = .next (s.writeBar0 off v.val) := by
  unfold execRegisterWrite
  rw [if_pos (by simp [hr, h8]), if_pos ho]

theorem execRegisterWrite_bar4 {s : State} {off : Nat} (v : Posted DWord) (hr : s.hostReaches = true) (h8 : off % 8 = 0) :
    execRegisterWrite (2 ^ 25 + off) v s = .next (s.writeBar4 off v.val) := by
  unfold execRegisterWrite
  rw [if_pos (by simp [hr]; omega), if_neg (by omega), Nat.add_sub_cancel_left]

theorem execRegisterWrite_unserved {s : State} (off : Nat) (v : Posted DWord) (hr : s.hostReaches = false) :
    execRegisterWrite off v s = .next s := by
  simp [execRegisterWrite, hr]

theorem State.writeBar0_powerCap (s : State) (v : DWord) : s.writeBar0 0x018 v =
    if 1200 ≤ v.toNat % 2 ^ 16 ∧ v.toNat % 2 ^ 16 ≤ 3600 then { s with dev := { s.dev with powerCap := BitVec.ofNat 16 v.toNat } } else s := rfl

theorem State.writeBar0_groupTab (s : State) (v : DWord) :
    s.writeBar0 0x020 v = { s with dev := { s.dev with groupTab := BitVec.ofNat 64 (v.toNat / 64 * 64) } } := rfl

/-- A doubleword of a context's entry other than its first (R66). -/
theorem State.writeBar0_ctx (s : State) {c k : Nat} (v : DWord) (hc : c < 64) (hk : k < 32) (h0 : k ≠ 0) :
    s.writeBar0 (0x40000 + 0x100 * c + 8 * k) v = s.onCtx c fun x => x.write k v := by
  have hctx : (0x40000 + 0x100 * c + 8 * k - 0x40000) / 0x100 = c := by omega
  have hword : (0x40000 + 0x100 * c + 8 * k) % 0x100 / 8 = k := by omega
  unfold State.writeBar0
  rw [if_neg (by omega), if_neg (by omega), if_pos (by omega), hctx, hword]
  exact if_neg (by omega)

/-- A doubleword of the mailbox other than its last, which starts an attestation (R82). -/
theorem State.writeBar0_mailbox (s : State) {k : Nat} (v : DWord) (hk : k < 511) :
    s.writeBar0 (0x60000 + 8 * k) v = { s with mailbox := Mem.write s.mailbox (8 * k) (leBytes 8 v.toNat) } := by
  have hlast : ¬ 0x60000 + 8 * k = 0x60FF8 := by omega
  unfold State.writeBar0
  rw [if_neg (by omega), if_neg (by omega), if_neg (by omega), if_neg (by omega), if_neg (by omega), if_pos (by omega), Nat.add_sub_cancel_left]
  simp [hlast]

/-! ### Doorbells, contexts, pools, counters, invalidation (R25, R66, R68, R175, R177) -/

theorem execQtailWrite_moves {s : State} {ctx : Nat} (v : Word) (ro : Bool) (hr : s.hostReaches = true) (hc : ctx < 64)
    (hen : (s.ctxAt ctx).en = true) (hv : (v - (s.ctxAt ctx).qHead).toNat ≤ 2 ^ (s.ctxAt ctx).qLog2.toNat) :
    execQtailWrite ctx ⟨v, ro⟩ s = .next (s.onCtx ctx fun c => { c with tail := v, qStat := .running }).serveQueues := by
  have hin : ¬ (!(s.ctxAt ctx).en || decide ((v - (s.ctxAt ctx).qHead).toNat > 2 ^ (s.ctxAt ctx).qLog2.toNat)) = true := by
    rw [hen, Bool.not_true, Bool.false_or, decide_eq_true_iff]
    exact Nat.not_lt.2 hv
  unfold execQtailWrite
  rw [if_neg (by simp [hr, hc]), if_neg hin]

theorem execQtailWrite_bad {s : State} {ctx : Nat} (v : Word) (ro : Bool) (hr : s.hostReaches = true) (hc : ctx < 64)
    (hv : (s.ctxAt ctx).en = false ∨ 2 ^ (s.ctxAt ctx).qLog2.toNat < (v - (s.ctxAt ctx).qHead).toNat) :
    execQtailWrite ctx ⟨v, ro⟩ s = .next (s.onCtx ctx fun c => { c with dbBad := sat32 c.dbBad }) := by
  have hout : (!(s.ctxAt ctx).en || decide ((v - (s.ctxAt ctx).qHead).toNat > 2 ^ (s.ctxAt ctx).qLog2.toNat)) = true := by
    rw [Bool.or_eq_true, Bool.not_eq_true', decide_eq_true_iff]
    exact hv
  unfold execQtailWrite
  rw [if_neg (by simp [hr, hc]), if_pos hout]

theorem execContextEnable_enables {s : State} {ctx : Nat} (hr : s.hostReaches = true) (hc : ctx < 64) (hd : s.dev.devState = 6)
    (hen : (s.ctxAt ctx).en = false) : execContextEnable ctx s = .next (s.onCtx ctx fun c =>
      { c with en := true, qHead := 0, tail := 0, tries := 0, qStat := .running, keyGen := c.keyGen + 1 }) := by
  unfold execContextEnable
  exact if_neg (by simp [hr, hd, hc, hen])

theorem execContextFrozenClear_clears {s : State} {ctx : Nat} (hr : s.hostReaches = true) (hc : ctx < 64) :
    execContextFrozenClear ctx s = .next (s.onCtx ctx fun c => { c with frozen := false }) := by
  unfold execContextFrozenClear
  exact if_neg (by simp [hr, hc])

/-- A context switched off: its entry says so, and each launch of it that ran is aborted (R66, R76). -/
theorem execContextDisable_spec {s : State} {ctx : Nat} (hr : s.hostReaches = true) (hc : ctx < 64) (hd : s.dev.devState = 6)
    (hen : (s.ctxAt ctx).en = true) :
    ∃ t, execContextDisable ctx s = .next t ∧ t.ctxAt ctx = { s.ctxAt ctx with en := false, qStat := .disabled, tries := 0 }
      ∧ ∀ l x, SMap.find? s.launches l = some x → x.ctx = ctx → x.phase = .running → t.aborted l := by
  let off := s.onCtx ctx fun c => { c with en := false, qStat := .disabled, tries := 0 }
  let s' : State := { off with agenda := off.agenda.filter fun i => i != Instr.recordRepoll ctx && i != Instr.launchRecordConsume ctx }
  have hs' : s'.ctxAt ctx = { s.ctxAt ctx with en := false, qStat := .disabled, tries := 0 } := s.ctxAt_onCtx _ hc
  have hl : s'.launches = s.launches := s.onCtx_launches ctx _
  refine ⟨s'.abortContext ctx, ?_, (s'.abortContext_ctxAt ctx ctx).trans hs', fun l x hx hctx hph => ?_⟩
  · unfold execContextDisable
    exact if_neg (by simp [hr, hc, hen, hd])
  · subst hctx
    exact State.abortContext_aborted (hl ▸ hx) hph

theorem execInvGo_starts {s : State} (hr : s.hostReaches = true) (hg : s.dev.invGo = false) :
    execInvGo s = .next (({ s with dev := { s.dev with invGo := true } } : State).push .invDone) := by
  simp [execInvGo, State.startInv, hr, hg]

theorem execPoolTailWrite_sets {s : State} {k : Nat} (big : Bool) (tail : Word) (hr : s.hostReaches = true) (h : k < 8) :
    execPoolTailWrite k big tail s
      = .next { s with pools := s.pools.set k (if big then { s.pools[k] with tail2m := tail } else { s.pools[k] with tail64 := tail }) h } := by
  simp [execPoolTailWrite, State.onPool, hr, h]

theorem execCounterClear_hop {s : State} {k : Nat} (v : DWord) (hr : s.hostReaches = true) (h : k < 89) :
    execCounterClear (0x10000 + 8 * k) v s = .next { s with hops := s.hops.set k (s.hops[k].clear v) h } := by
  have hk : (0x10000 + 8 * k - 0x10000) / 8 = k := by omega
  unfold execCounterClear State.clearCounter
  rw [if_pos hr, dif_pos (by omega)]
  simp only [hk]

/-- An invalidation ends when no core has an access under way: no translation unit keeps an entry that it names (R175). -/
theorem execInvDone_drops {s : State} (hg : s.dev.invGo = true) (hc : ∀ c ∈ s.core :: s.parked.map Prod.snd, c.t.translated = []) :
    execInvDone s = .next { s with
      tlbs := s.tlbs.map (fun x => (x.1, x.2.filter (fun e =>
        !(e.ctx == s.dev.invCtx.toNat && (s.dev.invAll || s.dev.invVa.toNat / 2 ^ e.log2 == e.vpage))))), dev := { s.dev with invGo := false } } := by
  unfold execInvDone
  dsimp only
  rw [if_neg (by simp [hg]), if_neg]
  rw [Bool.not_eq_true, List.any_eq_false]
  intro c h
  simp [hc c h]

/-! ### Inbound windows (R78, R81) -/

/-- A request that its window admits and whose places answer is done. -/
theorem State.inbound_done {α : Type} {s s1 : State} {req off : Nat} {write : Bool} {again : Instr} {run : Who → Nat → Access α}
    {abort : State → State} {done : α → State → State} {a : α} (h : off / 2 ^ 30 < 64) (hup : s.pcieUp = true) (hf : s.dev.hostFrozen = false)
    (hw : s.inWins[off / 2 ^ 30].refuses req (off % 2 ^ 30) write = false)
    (hrun : run (hostWho s.inWins[off / 2 ^ 30].ctx.toNat) (s.inWins[off / 2 ^ 30].vbase.toNat * 65536 + off % 2 ^ 30) = .ok (a, s1)) :
    s.inbound req off write again run abort done = .next (done a (s1.unhold .host)) := by
  unfold State.inbound
  dsimp only
  rw [dif_pos h, if_neg (by simp [hup]), if_neg (by simp [hf]), if_neg (by rw [hw]; decide), hrun]

theorem execInboundRead_completes {s s1 s2 : State} {req off len : Nat} {ps : List (Loc × Nat × Nat)} {bs : List PByte} (h : off / 2 ^ 30 < 64)
    (hup : s.pcieUp = true) (hf : s.dev.hostFrozen = false) (hw : s.inWins[off / 2 ^ 30].refuses req (off % 2 ^ 30) false = false)
    (hp : s.inPlaces (hostWho s.inWins[off / 2 ^ 30].ctx.toNat) .rd (s.inWins[off / 2 ^ 30].vbase.toNat * 65536 + off % 2 ^ 30) len = .ok (ps, s1))
    (hr : State.readAll ps s1 = .ok (bs, s2)) :
    execInboundRead req off len s = .next ((s2.unhold .host).emit (.completion req (plain bs) (psnOf bs).isSome)) :=
  State.inbound_done h hup hf hw (by rw [hp]; exact hr)

theorem execInboundWrite_performed {s s1 s2 : State} {req off : Nat} {bytes : List Byte} {ro : Bool} {ps : List (Loc × Nat × Nat)}
    (h : off / 2 ^ 30 < 64) (hup : s.pcieUp = true) (hf : s.dev.hostFrozen = false)
    (hw : s.inWins[off / 2 ^ 30].refuses req (off % 2 ^ 30) true = false)
    (hp : s.inPlaces (hostWho s.inWins[off / 2 ^ 30].ctx.toNat) .w (s.inWins[off / 2 ^ 30].vbase.toNat * 65536 + off % 2 ^ 30) bytes.length
      = .ok (ps, s1))
    (hr : State.writeAll (hostWho s.inWins[off / 2 ^ 30].ctx.toNat) ps (clean bytes) s1 = .ok ((), s2)) :
    execInboundWrite req off ⟨bytes, ro⟩ s = .next (s2.unhold .host) :=
  State.inbound_done h hup hf hw (by dsimp only; rw [hp]; exact hr)

theorem execInboundAtomicop_unsupported {s : State} (req off : Nat) (hup : s.pcieUp = true) (hf : s.dev.hostFrozen = false) :
    execInboundAtomicop req off s = .next (s.emit (.unsupportedRequest req)) := by
  simp [execInboundAtomicop, hup, hf]

/-! ### The statement about the host interface -/

/-- Settles O57: each clause is the equation of its step, and the laws of the operation that the step comes to. -/
theorem hostSteps : Obligations.HostSteps := by
  intro s kept
  refine ⟨fun ctx r s1 hw hp hn hq hr => ?consume, fun ctx hw => execRecordRepoll_idle hw,
    fun ctx hc hw hn => ⟨fun r s1 hr => execRecordRepoll_found hw hn hr, fun s1 hr => ⟨fun ht => ?again, fun ht => ?torn⟩⟩,
    fun l x bs s1 hx hp hm hf h0 hr hpsn => ?begins,
    fun l x s1 y hx hp hst hd hc h0 hw hy hh => ⟨_, execLaunchReport_reports hx hp hst hd hc h0 hw hy hh, rfl, State.find?_freeLaunch _ l⟩,
    fun l x hx hp hc => execLaunchReport_selfTest hx hp hc, fun v m e hm he ht hf hv => ?expiry,
    fun req off len ps bs s1 s2 h hup hf hw hp hr => execInboundRead_completes h hup hf hw hp hr,
    fun req off bytes ro ps s1 s2 h hup hf hw hp hr => execInboundWrite_performed h hup hf hw hp hr,
    fun req off hup hf => execInboundAtomicop_unsupported req off hup hf, fun up => rfl,
    fun hr => ⟨fun v hv hm => ⟨_, execMsixUnmask_idle hr hv hm, contains_addAbsent .., rfl, rfl, rfl, rfl, rfl⟩,
      fun ctx v ro hc => ⟨fun hen hv => ?doorbell, fun hv => ?badDoorbell⟩,
      fun ctx hc hd => ⟨fun hen => ?enable, fun hen => execContextDisable_spec hr hc hd hen, ?thaw⟩,
      fun v ro => ⟨fun off h8 ho => execRegisterWrite_bar0 _ hr h8 ho,
        fun k hk => ⟨?msixAddress, fun hv => ?msixMask, fun hv hm => ?msixUnmask⟩, fun off h8 ho => ?pastTable,
        ?groupTab, ?powerCap, fun c hc => ?ptRoot, fun k hk => ?mailbox⟩,
      fun hg => ⟨_, execInvGo_starts hr hg, rfl, rfl, rfl, rfl, rfl, rfl⟩, fun k h tail => ?pools, fun k h v => ?counters⟩,
    fun hr off v ro => execRegisterWrite_unserved off ⟨v, ro⟩ hr, fun hg hc => ?invalidation⟩
  case consume =>
    obtain ⟨x, hx⟩ := s1.consume_spec r (State.nextQueue_lt hq)
    exact ⟨_, x, execLaunchRecordConsume_found hw hp hn hq hr, hx⟩
  case again => exact (execRecordRepoll_missing hw hn hr).trans (if_pos ht)
  case torn =>
    refine ⟨_, (execRecordRepoll_missing hw hn hr).trans (if_neg (by omega)), ?_, by simp⟩
    rw [State.ctxAt_congr (State.sendMsix_ctxs ..), State.ctxAt_onCtx _ _ hc]
  case begins =>
    obtain ⟨y, hy, hph, hfirst, hhubs⟩ := s1.find?_beginLaunch l x (plain bs)
    exact ⟨_, y, execLaunchFirstRead_begins hx hp hm hf h0 hr hpsn, hy, hph, hfirst, hhubs, s1.beginLaunch_first l x _, s1.beginLaunch_gangs l x _⟩
  case expiry =>
    exact ⟨_, (execMsixCoalesceExpiry_fires hm he ht hf).trans (congrArg _ (State.fireVector_open hm hf hv)), rfl, rfl, rfl⟩
  case doorbell =>
    exact ⟨_, execQtailWrite_moves v ro hr hc hen hv, (State.serveQueues_ctxAt ..).trans (s.ctxAt_onCtx _ hc),
      State.sameWork_serveQueues (s.sameWork_onCtx ctx _)⟩
  case badDoorbell => exact ⟨_, execQtailWrite_bad v ro hr hc hv, s.ctxAt_onCtx _ hc, s.sameWork_onCtx ctx _⟩
  case enable => exact ⟨_, execContextEnable_enables hr hc hd hen, s.sameWork_onCtx ctx _, s.ctxAt_onCtx _ hc⟩
  case thaw => exact ⟨_, execContextFrozenClear_clears hr hc, s.ctxAt_onCtx _ hc, s.sameWork_onCtx ctx _⟩
  case msixAddress =>
    exact ⟨_, (execRegisterWrite_bar4 ⟨v, ro⟩ hr (by omega)).trans (congrArg _ (s.writeBar4_address v hk)), Mem.read_write_leBytes ..,
      rfl, rfl, rfl, rfl, rfl⟩
  case msixMask =>
    exact ⟨_, (execRegisterWrite_bar4 ⟨v, ro⟩ hr (by omega)).trans (congrArg _ (s.writeBar4_mask hk hv)), Mem.read_write_leBytes ..,
      by simp, rfl, rfl, rfl, rfl⟩
  case msixUnmask =>
    exact ⟨_, (execRegisterWrite_bar4 ⟨v, ro⟩ hr (by omega)).trans (congrArg _ (State.writeBar4_unmask hr hk hv hm)), Mem.read_write_leBytes ..,
      contains_addAbsent .., rfl, rfl, rfl, rfl⟩
  case pastTable =>
    obtain ⟨off, rfl⟩ := Nat.exists_eq_add_of_le (Nat.le_trans (Nat.le_add_right ..) ho)
    exact (execRegisterWrite_bar4 ⟨v, ro⟩ hr (by omega)).trans (congrArg _ (s.writeBar4_past v (by omega)))
  case groupTab => exact ⟨_, (execRegisterWrite_bar0 ⟨v, ro⟩ hr rfl (by decide)).trans (congrArg _ (s.writeBar0_groupTab v)), rfl, rfl, rfl, rfl, rfl⟩
  case powerCap =>
    refine ⟨_, (execRegisterWrite_bar0 ⟨v, ro⟩ hr rfl (by decide)).trans (congrArg _ (s.writeBar0_powerCap v)), ?_⟩
    split <;> exact ⟨⟨rfl, rfl, rfl, rfl⟩, rfl⟩
  case ptRoot =>
    have hoff : 0x40008 + 0x100 * c = 0x40000 + 0x100 * c + 8 * 1 := by omega
    rw [hoff]
    exact ⟨_, (execRegisterWrite_bar0 ⟨v, ro⟩ hr (by omega) (by omega)).trans (congrArg _ (s.writeBar0_ctx v hc (by decide) (by decide))),
      s.sameWork_onCtx c _, s.ctxAt_onCtx _ hc⟩
  case mailbox =>
    exact ⟨_, (execRegisterWrite_bar0 ⟨v, ro⟩ hr (by omega) (by omega)).trans (congrArg _ (s.writeBar0_mailbox v hk)), Mem.read_write_leBytes ..,
      rfl, rfl, rfl, rfl⟩
  case pools =>
    exact ⟨⟨_, execPoolTailWrite_sets true tail hr h, Vector.getElem_set_self .., rfl, rfl, rfl, rfl⟩,
      ⟨_, execPoolTailWrite_sets false tail hr h, Vector.getElem_set_self .., rfl, rfl, rfl, rfl⟩⟩
  case counters => exact ⟨_, execCounterClear_hop v hr h, Vector.getElem_set_self .., rfl, rfl, rfl, rfl⟩
  case invalidation =>
    refine ⟨_, execInvDone_drops hg hc, rfl, ⟨rfl, rfl, rfl, rfl⟩, fun die es hmem e he hctx => ?_⟩
    obtain ⟨x, -, hx⟩ := List.mem_map.1 hmem
    cases hx
    have hkept := (List.mem_filter.1 he).2
    simp only [hctx, beq_self_eq_true, Bool.true_and, Bool.not_eq_true', Bool.or_eq_false_iff, beq_eq_false_iff_ne] at hkept
    exact ⟨hkept.1, hkept.2.symm⟩

end Sys2Proof.Machine
end

section
/-! What a trap saves and where it goes, how a launch without a handler ends, and the return from a trap (R141, R142, R144, R245). -/

namespace Sys2Proof.Machine

/-! ### Check stages made ahead (R165) -/

/-- A result that neither updates by hardware nor reads a timeline is in flight as before. -/
theorem Thread.pinOne_plain (t : Thread) {f : Flight} (hu : f.fx.isUpdate = false) (hr : ∀ d k, f.fx ≠ .tlRead d k) :
    t.pinOne f = { t with flights := t.flights ++ [f] } := by
  unfold Thread.pinOne
  rw [if_neg (by simp [hu])]
  split
  next d k h => exact absurd h (hr d k)
  next => rfl

/-- Results of which none updates by hardware or reads a timeline stay in flight as they are. -/
theorem Thread.pin_plain (t : Thread) (h : ∀ f ∈ t.flights, f.fx.isUpdate = false ∧ ∀ d k, f.fx ≠ .tlRead d k) : t.pin = t := by
  have hfold : ∀ (fs : List Flight) (u : Thread), (∀ f ∈ fs, f.fx.isUpdate = false ∧ ∀ d k, f.fx ≠ .tlRead d k) →
      fs.foldl Thread.pinOne u = { u with flights := u.flights ++ fs } := by
    intro fs
    induction fs with
    | nil => intro u _; simp
    | cons f fs ih =>
      intro u hfs
      obtain ⟨hu, hr⟩ := hfs f List.mem_cons_self
      rw [List.foldl_cons, u.pinOne_plain hu hr, ih _ fun g hg => hfs g (List.mem_cons_of_mem _ hg)]
      simp
  exact (hfold t.flights _ h).trans (by simp)

/-! ### Taking a trap (R141, R144) -/

/-- TRAP with a clean operand raises the trap with it as TRAPVAL (R291). -/
theorem exec_trap_clean {s : State} {a : BitVec 6} (h : (s.srcC a).psn = none) :
    exec (.trap a) s = s.trap 3 .trap (s.srcC a).val.low.zext :=
  s.checked_clean _ _ (by simpa using h)

/-- A thread whose results in flight are plain enters the handler with them in its frame. -/
theorem Thread.enterHandler_plain (t : Thread) (handler : DWord) (c : Cause) (v : DWord)
    (h : ∀ f ∈ t.flights, f.fx.isUpdate = false ∧ ∀ d k, f.fx ≠ .tlRead d k) :
    t.enterHandler handler c v = { t with
      trappc := t.savedPc.1, trapcause := c.code, trapval := v
      frame := { flights := t.flights, latches := t.latches, rep := t.savedPc.2 }
      flights := [], latches := {}, rep := {}, handler := true, pc := handler, npc := none, hold := none, ring := none
      xlat := [], walkBad := [], passed := false, chkObjs := none, fpxNext := [] } := by
  unfold Thread.enterHandler
  rw [t.pin_plain h]

/-- Settles O25: the thread enters the handler, and pinning leaves its results in flight as they are. -/
theorem trapEntry : Obligations.TrapEntry := by
  intro s a hpsn hh ha hfl
  obtain ⟨u, hexec, rfl⟩ := s.trap_handler 3 .trap (s.srcC a).val.low.zext none rfl hh ha
  refine ⟨_, (exec_trap_clean hpsn).trans hexec, ?_⟩
  rw [Thread.enterHandler_plain { s.core.t with trapRec := _, hold := none, npc := none } _ _ _ hfl]
  exact ⟨rfl, rfl, rfl, rfl, rfl, rfl, rfl, rfl, rfl, rfl, rfl, rfl, rfl, rfl, ⟨rfl, rfl, rfl, rfl, rfl, rfl, rfl⟩, rfl⟩

/-- The state in which a failure of the check stage is taken: it is on record, and nothing holds the bundle. -/
def State.raised (s : State) (r : TrapRec) : State := s.mapT fun t => { t with trapRec := some r, hold := none, npc := none }

/-- The cause under which a trap that no handler can take faults the launch: DOUBLE in handler mode, else its own (R141). -/
def Thread.faultCause (t : Thread) (c : Cause) : Cause := if t.handler then .double else c

/-- A trap that no handler can take is a fault of the launch (R141). -/
theorem State.trap_launchFault (s : State) (rank : Nat) {c : Cause} (v : DWord) (o : Psn) (hc : c.traps = true)
    (h : s.core.t.handler = true ∨ s.handlerAddr = 0) :
    let u := s.raised ⟨rank, c, v, o⟩
    let d := s.core.t.faultCause c
    s.trap rank c v o = .next (u.launchFault s.core.t.lslot d (u.coreFault s.core d 2 o v 0)) := by
  have hp : c ≠ .poison := by rintro rfl; cases hc
  have hq : c ≠ .prot := by rintro rfl; cases hc
  have ha : (s.raised ⟨rank, c, v, o⟩).handlerAddr = s.handlerAddr := rfl
  unfold State.raised at ha
  cases hh : s.core.t.handler with
  | true => simp [State.trap, State.take, State.raised, Thread.faultCause, hc, hh]
  | false =>
    have h0 : s.handlerAddr = 0 := h.resolve_left (by simp [hh])
    simp [State.trap, State.take, State.raised, Thread.faultCause, hc, hh, ha, h0]

/-- The first fault of a launch that runs ends it FAULTED with that cause, and it drains (R75, R76, R144). -/
theorem State.find?_launchFault (s : State) {l : Nat} {x : Launch} (c : Cause) (r : FaultRec) (hx : SMap.find? s.launches l = some x)
    (hp : x.phase = .running) (hc : x.cause = none) :
    ∃ y, SMap.find? (s.launchFault l c r).launches l = some y ∧ y.status = .faulted ∧ y.cause = some c ∧ y.phase = .draining := by
  have hcount : SMap.find? ((s.logFault r).countFault l c).launches l
      = some { x with faults := BitVec.ofNat 32 (satAdd 32 x.faults.toNat 1), cause := x.cause.or (some c) } := by
    have hlog : SMap.find? (s.logFault r).launches l = some x := hx
    simp [State.countFault, State.find?_onLaunch, hlog]
  obtain ⟨y, hy, hph, hst, hca, -, -⟩ := State.find?_endLaunch _ l .faulted (some c) _ hcount (by simp [hp]) (by simp [hp])
  exact ⟨y, hy, hst, by simpa [hc] using hca, hph⟩

/-- Settles O26: neither trap can be taken by a handler, and the fault that follows is the launch's first. -/
theorem trapWithoutHandler : Obligations.TrapWithoutHandler := by
  intro s a x hpsn hx hrun _
  have hfault : x.cause = none → (s.core.t.handler = true ∨ s.handlerAddr = 0) → ∃ t y, exec (.trap a) s = .next t
      ∧ SMap.find? t.launches s.core.t.lslot = some y ∧ y.status = .faulted
      ∧ y.cause = some (s.core.t.faultCause .trap) ∧ y.phase = .draining := by
    intro hcause hno
    have htrap := s.trap_launchFault 3 (c := .trap) (s.srcC a).val.low.zext none rfl hno
    obtain ⟨y, hy⟩ := State.find?_launchFault (s.raised ⟨3, .trap, (s.srcC a).val.low.zext, none⟩) _ _ hx hrun hcause
    exact ⟨_, y, (exec_trap_clean hpsn).trans htrap, hy⟩
  refine ⟨fun hh h0 hcause => ?_, fun hh hcause => ?_⟩
  · have ha : s.handlerAddr = 0 := by simp [State.handlerAddr, State.lrec, State.launch?, hx, h0]
    simpa [Thread.faultCause, hh] using hfault hcause (.inr ha)
  · simpa [Thread.faultCause, hh] using hfault hcause (.inl hh)

/-! ### The return from a trap (R142, R245) -/

/-- The REP word read again gives n of a repeat that goes on; one that is over keeps its n. -/
theorem State.rereads_rep (s : State) {n : Nat} (h : (s.core.t.rep.left = 0 ∧ n = s.core.t.rep.n)
      ∨ (s.core.t.rep.left ≠ 0 ∧ ∃ w, s.codeWord s.core.cid (s.core.t.pc.toNat - 4) = .ok (w, s) ∧ n = w.toNat / 2 ^ 20 % 64 + 1)) :
    (s.rereads s.core.cid).core.t = { s.core.t with rep := { s.core.t.rep with n := n } } := by
  have hat : s.coreAt s.core.cid = s.core := if_pos rfl
  rcases h with ⟨hleft, rfl⟩ | ⟨hleft, w, hword, rfl⟩
  · have hsame : s.rereads s.core.cid = s := by simp [State.rereads, State.rereadRep, hat, hleft]
    rw [hsame]
  · simp [State.rereads, State.rereadRep, Access.bind, hat, hleft, hword, State.onCore, State.setCore, bits, Nat.shiftRight_eq_div_pow]

/-- With nothing of handler mode in flight a core outside a gang returns at once (R142). -/
theorem State.tryLeave_solo (s : State) (hg : s.core.t.gang = false) (hh : s.core.t.hold = some .eretDrain) (hf : s.core.t.flights = []) :
    (s.each Thread.settle).each Thread.leaveHandler = s.mapT Thread.leaveHandler
    ∧ s.tryLeave = (s.mapT Thread.leaveHandler).rereads s.core.cid := by
  have hsettle : s.each Thread.settle = s := by
    rw [s.each_solo _ hg]
    unfold State.mapT
    rw [s.core.t.settle_not_due (by simp [hf])]
  have hleave := s.each_solo Thread.leaveHandler hg
  refine ⟨by rw [hsettle, hleave], ?_⟩
  simp [State.tryLeave, s.anyT_solo _ hg, hh, hsettle, hf, hleave, s.members_solo hg]

/-- Settles O27: ERET holds the bundle, and once nothing is in flight `State.tryLeave_solo` returns and `State.rereads_rep` reads n again. -/
theorem trapReturn : Obligations.TrapReturn := by
  intro s
  refine ⟨fun hh => ⟨_, if_pos hh, rfl, s.core.t.sameRegs_refl, s.core.t.sameControl_refl, ⟨rfl, rfl, rfl, rfl, rfl, rfl, rfl⟩⟩,
    fun hh => if_neg (by simp [hh]), fun hg hhold hfl => ?_⟩
  obtain ⟨hv, hu⟩ := s.tryLeave_solo hg hhold hfl
  dsimp only
  rw [hv, hu]
  intro n hn
  have hrep := (s.mapT Thread.leaveHandler).rereads_rep (n := n) hn
  rw [State.mapT_core_cid] at hrep
  rw [hrep]
  exact ⟨rfl, rfl, rfl, rfl, rfl, rfl, rfl, rfl, rfl⟩

end Sys2Proof.Machine
end

section
/-! Loads and stores of the own L1 (R147, R150, R190, R344, R345): bytes in little-endian order, clean bytes stored into a pad, and what an address in
the own-L1 window leads to. -/

namespace Sys2Proof.Machine

/-! ### Bytes in little-endian order (R11) -/

theorem leNat_lt (bs : List Byte) : leNat bs < 2 ^ (8 * bs.length) := by
  induction bs with
  | nil => simp [leNat]
  | cons b bs ih =>
    have hb : b.toNat < 256 := b.isLt
    have hp : 2 ^ (8 * (bs.length + 1)) = 256 * 2 ^ (8 * bs.length) := by rw [Nat.mul_add, Nat.pow_add, Nat.mul_comm]
    simp only [leNat, List.length_cons, hp]
    omega

theorem leNat_leBytes (n x : Nat) : leNat (leBytes n x) = x % 2 ^ (8 * n) := by
  induction n generalizing x with
  | zero => simp [leNat, leBytes, Nat.mod_one]
  | succ n ih =>
    have hp : 2 ^ (8 * (n + 1)) = 256 * 2 ^ (8 * n) := by rw [Nat.mul_add, Nat.pow_add, Nat.mul_comm]
    simp only [leNat, leBytes, ih, hp, Nat.mod_mul, BitVec.toNat_ofNat]

theorem getElem_leBytes (n x k : Nat) (h : k < (leBytes n x).length) : (leBytes n x)[k] = BitVec.ofNat 8 (x / 2 ^ (8 * k)) := by
  induction n generalizing x k with
  | zero => simp [leBytes] at h
  | succ n ih =>
    cases k with
    | zero => simp [leBytes]
    | succ k =>
      have hp : 2 ^ (8 * (k + 1)) = 256 * 2 ^ (8 * k) := by rw [Nat.mul_add, Nat.pow_add, Nat.mul_comm]
      simp only [leBytes, List.getElem_cons_succ]
      rw [ih, Nat.div_div_eq_div_mul, hp]

/-- A number read as a signed field of the full width is the number itself (R17, R18). -/
theorem ofInt_sextInt (w x : Nat) : BitVec.ofInt w (sextInt x w) = BitVec.ofNat w x := by
  apply BitVec.eq_of_toNat_eq
  have hv : ((x % 2 ^ w : Nat) : Int) = (x : Int) % 2 ^ w := by push_cast; rfl
  have hm : (sextInt x w) % ((2 ^ w : Nat) : Int) = ((x % 2 ^ w : Nat) : Int) := by
    unfold sextInt
    dsimp only
    split <;> push_cast <;> simp
  rw [BitVec.toNat_ofInt, hm, BitVec.toNat_ofNat, Int.toNat_natCast]

/-! ### Bytes of a pad with their poison marks (R147) -/

@[simp] theorem plain_clean (bs : List Byte) : plain (clean bs) = bs := by simp [plain, clean, Function.comp_def]
@[simp] theorem clean_length (bs : List Byte) : (clean bs).length = bs.length := by simp [clean]

@[simp] theorem Pad.plain_readP (p : Pad) (a n : Nat) : plain (p.readP a n) = Mem.read p.bytes a n := by
  induction n generalizing a with
  | zero => rfl
  | succ n ih => simpa [Pad.readP, Mem.read, plain] using ih (a + 1)

/-- Bytes read where no 64-bit word is poisoned are clean. -/
theorem Pad.psnOf_readP_clean (p : Pad) (a n : Nat) (h : ∀ k < n, SMap.find? p.psn ((a + k) / 8) = none) : psnOf (p.readP a n) = none := by
  induction n generalizing a with
  | zero => rfl
  | succ n ih =>
    have h0 : SMap.find? p.psn (a / 8) = none := h 0 (by omega)
    have hs : psnOf (p.readP (a + 1) n) = none := ih (a + 1) fun k hk => by simpa [Nat.add_assoc, Nat.add_comm 1] using h (k + 1) (by omega)
    simpa [psnOf, Pad.readP, h0] using hs

/-- A key that no entry has is not found. -/
theorem SMap.find?_eq_none {α : Type} (m : SMap α) (a : Nat) (h : ∀ x ∈ m, x.1 ≠ a) : SMap.find? m a = none := by
  cases hf : SMap.find? m a with
  | none => rfl
  | some v => exact absurd rfl (h _ (SMap.mem_of_find? m a v hf))

/-- Clean bytes are stored as bytes without marks are. -/
@[simp] theorem Pad.writeP_clean (p : Pad) (a : Nat) (bs : List Byte) : p.writeP a (clean bs) = p.write a bs := by
  have hfold : ∀ (xs : List (PByte × Nat)) (q : Pad), (∀ x ∈ xs, x.1.2 = none) →
      xs.foldl (fun q (x : PByte × Nat) => match x.1.2 with
        | some o => { q with psn := SMap.insert q.psn ((a + x.2) / 8) o }
        | none => q) q = q := by
    intro xs
    induction xs with
    | nil => exact fun _ _ => rfl
    | cons x xs ih =>
      intro q hx
      rw [List.foldl_cons, hx x List.mem_cons_self]
      exact ih q fun y hy => hx y (List.mem_cons_of_mem _ hy)
  unfold Pad.writeP
  rw [plain_clean]
  refine hfold _ _ fun x hx => ?_
  obtain ⟨b, -, hb⟩ := List.mem_map.1 (List.fst_mem_of_mem_zipIdx hx)
  exact hb ▸ rfl

/-! ### The own-L1 window (R169, R344) -/

theorem ownOff_eq_some {va : DWord} {off : Nat} (h : ownOff va = some off) :
    0xFF000000000000 ≤ va.toNat ∧ va.toNat < 0xFF000000200000 ∧ off = va.toNat - 0xFF000000000000 := by
  unfold ownOff at h
  split at h
  next hb => exact ⟨hb.1, hb.2, (Option.some.inj h).symm⟩
  next => cases h

theorem targetOf_own (cid : Nat) {va : Nat} (hlo : 0xFF000000000000 ≤ va) (hhi : va < 0xFF000000200000) : targetOf cid va = .own := by
  have hw : windowOf cid va = some (.l1 cid (va - 0xFF000000000000) true) := by
    rw [windowOf, if_neg (by omega), if_pos (by omega)]
  rw [targetOf, if_neg (by omega), if_pos hlo, hw]

/-- An access that lies in the own-L1 window as a whole leads to the own L1. -/
theorem targetOf'_own (cid : Nat) {va : DWord} {off n : Nat} (ho : ownOff va = some off) (hn : 0 < n) (hle : off + n ≤ 2 ^ 21) :
    targetOf' cid va.toNat n = .own := by
  obtain ⟨hlo, hhi, hoff⟩ := ownOff_eq_some ho
  rw [targetOf', targetOf_own cid hlo hhi, targetOf_own cid (by omega) (by omega), if_pos rfl]

/-! ### LD (R345) -/

/-- A number of at most eight bytes as a load of them gives it: sign-extended (R345). -/
theorem loaded_readP_val (p : Pad) (off n : Nat) (h : n ≤ 8) :
    (loaded n (p.readP off n)).val = BitVec.ofInt 64 (sextInt (leNat (Mem.read p.bytes off n)) (8 * n)) := by
  have hlt : leNat (Mem.read p.bytes off n) < 2 ^ 64 :=
    Nat.lt_of_lt_of_le (leNat_lt _) (Nat.pow_le_pow_right (by decide) (by simp; omega))
  by_cases h8 : n = 8
  · subst h8
    simp [loaded, pvalue, ofInt_sextInt]
  · rw [loaded, if_neg h8]
    simp only [pvalue, Pad.plain_readP, BitVec.toNat_ofNat, Nat.mod_eq_of_lt hlt]

theorem loaded_psn (n : Nat) (bs : List PByte) : (loaded n bs).psn = psnOf bs := by unfold loaded; split <;> rfl

theorem exec_ld_own {s : State} {z : BitVec 2} {d : BitVec 6} {b : BitVec 4} {x : BitVec 1} {i : BitVec 11} {off : Nat}
    (hc : ∀ o ∈ (s.ea b x i).2, o = none) (ho : ownOff (s.ea b x i).1 = some off) (hle : off + 2 ^ z.toNat ≤ 2 ^ 21) :
    let n := 2 ^ z.toNat
    let raw := pvalue (s.core.l1.readP off n)
    let v := loaded n (s.core.l1.readP off n)
    exec (.ld z d b x i) s = .next (s.later 4 (.mResult d (if d < 32 then v else raw) (if n < 4 && d ≥ 32 then raw.val else v.val))) := by
  refine (s.checked_clean _ _ hc).trans ?_
  simp only [ho, sizeOf]
  exact if_neg (by omega)

theorem exec_ld_elsewhere {s : State} {z : BitVec 2} {d : BitVec 6} {b : BitVec 4} {x : BitVec 1} {i : BitVec 11}
    (hc : ∀ o ∈ (s.ea b x i).2, o = none) (ho : ownOff (s.ea b x i).1 = none) :
    exec (.ld z d b x i) s = s.trap 3 (if targetOf' s.core.cid (s.ea b x i).1.toNat (2 ^ z.toNat) = .pad
      ∧ s.padDenied (s.ea b x i).1.toNat = true then .prot else .page) (s.ea b x i).1 := by
  refine (s.checked_clean _ _ hc).trans ?_
  simp [ho, sizeOf]

/-! ### ST and STR (R150, R345) -/

theorem storeWord_clean {s : State} (engine : Bool) {z : BitVec 2} {d : BitVec 6} {b : BitVec 4} {x : BitVec 1} {i : BitVec 11}
    (hc : ∀ o ∈ (s.ea b x i).2, o = none) (hd : (s.srcM d).psn = none) :
    storeWord engine z d b x i s = s.store engine (s.ea b x i).1 (clean (leBytes (2 ^ z.toNat) (s.srcM d).val.toNat)) :=
  s.checked_clean _ _ (by simpa [hd] using hc)

theorem State.store_none {s : State} (engine : Bool) {ea : DWord} {bs : List PByte} (h : targetOf' s.core.cid ea.toNat bs.length = .none) :
    s.store engine ea bs = s.trap 3 .page ea := by
  unfold State.store
  rw [h]

theorem State.store_own {s : State} {ea : DWord} {bs : List PByte} (h : targetOf' s.core.cid ea.toNat bs.length = .own) :
    s.store false ea bs = s.storeBound (fun a bs k s => k (s.storeL1 ((ownOff a).getD 0) bs)) ea bs := by
  unfold State.store
  rw [h]
  rfl

theorem State.store_dev {s : State} {ea : DWord} {bs : List PByte} (h : targetOf' s.core.cid ea.toNat bs.length = .dev) :
    s.store false ea bs = s.storeBound (fun a bs k s => s.coreWrite false a bs k) ea bs := by
  unfold State.store
  rw [h]
  rfl

/-- A store that overlaps no element under a bound action is made as it is. -/
theorem State.storeBound_free {s : State} (put : DWord → List PByte → (State → Out) → State → Out) {ea : DWord} {bs : List PByte}
    (h : s.boundElems ea.toNat bs.length = []) : s.storeBound put ea bs = put ea bs .next s := by
  simp [State.storeBound, h, State.storedElems]

/-- A store that takes an element past a TRAP bound of its object traps (R150). -/
theorem State.storeBound_traps {s s1 : State} (put : DWord → List PByte → (State → Out) → State → Out) {ea : DWord} {bs : List PByte}
    {es : List Stored} {e : Stored} (h : State.storedElems ea.toNat (plain bs) (s.boundElems ea.toNat bs.length) s = .ok (es, s1))
    (hf : es.find? (fun y => y.obj.bact == 3 && y.obj.violates y.code) = some e) :
    s.storeBound put ea bs = s1.trap 3 .bound (BitVec.ofNat 64 e.addr) := by
  simp [State.storeBound, h, hf]

/-- A store into the own L1 changes its bytes and, outside the task's regions, its rerunnability. -/
theorem State.storeL1_clean (s : State) (off : Nat) (bs : List Byte) :
    ∃ r, s.storeL1 off (clean bs) = (s.mapL1 fun p => p.write off bs).mapT fun t => { t with rerunnable := r } := by
  have hw : (fun p : Pad => p.writeP off (clean bs)) = fun p => p.write off bs := funext fun p => p.writeP_clean off bs
  unfold State.storeL1
  rw [hw]
  split
  · exact ⟨s.core.t.rerunnable, rfl⟩
  · exact ⟨false, rfl⟩

theorem exec_st_own {s : State} {z : BitVec 2} {d : BitVec 6} {b : BitVec 4} {x : BitVec 1} {i : BitVec 11} {off : Nat}
    (hc : ∀ o ∈ (s.ea b x i).2, o = none) (hd : (s.srcM d).psn = none) (ho : ownOff (s.ea b x i).1 = some off)
    (hle : off + 2 ^ z.toNat ≤ 2 ^ 21) (hb : s.boundElems (s.ea b x i).1.toNat (2 ^ z.toNat) = []) :
    exec (.st z d b x i) s = .next (s.storeL1 off (clean (leBytes (2 ^ z.toNat) (s.srcM d).val.toNat))) := by
  have ht := targetOf'_own s.core.cid ho (Nat.two_pow_pos _) hle
  refine (storeWord_clean false hc hd).trans ?_
  rw [State.store_own (by simpa using ht), State.storeBound_free _ (by simpa using hb), ho]
  rfl

/-- Settles O41: an access of the own-L1 window leads to the own L1, whose bytes a load reads and a store writes; every other target by its lemma. -/
theorem localLoadStore : Obligations.LocalLoadStore := by
  intro s z d b x i e n hc
  have hz : n ≤ 8 := by
    have hpow : n ≤ 2 ^ 3 := Nat.pow_le_pow_right (by decide) (by omega)
    exact hpow
  refine ⟨fun off ho hle => ⟨?load, ?store⟩, fun ho => exec_ld_elsewhere hc ho, fun es el s1 ht hd hst hf => ?bound,
    fun ht hd => ⟨?none, ?noneR⟩⟩
  case load =>
    intro raw
    have hv := loaded_readP_val s.core.l1 off n hz
    have hraw : (pvalue (s.core.l1.readP off n)).val = BitVec.ofNat 64 raw := by simp [pvalue, raw]
    refine ⟨_, _, exec_ld_own hc ho hle, fun hd => ?_, fun hd => ?_, ?_, fun hp => ?_⟩
    · rw [if_pos hd]
      exact hv
    · rw [if_neg (by simpa using hd)]
      exact hraw
    · rw [hraw, hv]
      simp [and_comm, n, raw]
    · have hclean : psnOf (s.core.l1.readP off n) = none := by
        refine Pad.psnOf_readP_clean _ _ _ fun k hk => SMap.find?_eq_none _ _ fun p hm => ?_
        have := hp p hm
        omega
      split
      · exact (loaded_psn ..).trans hclean
      · exact hclean
  case store =>
    intro hd hb
    obtain ⟨r, hr⟩ := s.storeL1_clean off (leBytes n (s.srcM d).val.toNat)
    refine ⟨_, (exec_st_own hc hd ho hle hb).trans (congrArg _ hr), fun k hk => ?_, fun p hp => ?_, s.core.t.sameRegs_refl,
      s.core.t.sameControl_refl, rfl, rfl, rfl, rfl, rfl, rfl⟩
    · have hlen : k < (leBytes n (s.srcM d).val.toNat).length := by simpa using hk
      exact (Mem.get_write_inside _ _ _ _ hlen).trans (getElem_leBytes _ _ _ hlen)
    · exact Mem.get_write_outside _ _ _ _ (by simpa using hp)
  case bound =>
    have hst' : State.storedElems e.1.toNat (plain (clean (leBytes n (s.srcM d).val.toNat)))
        (s.boundElems e.1.toNat (clean (leBytes n (s.srcM d).val.toNat)).length) s = .ok (es, s1) := by simpa using hst
    refine (storeWord_clean false hc hd).trans ?_
    rcases ht with ht | ht
    · exact (State.store_own (by simpa using ht)).trans (State.storeBound_traps _ hst' hf)
    · exact (State.store_dev (by simpa using ht)).trans (State.storeBound_traps _ hst' hf)
  case none => exact (storeWord_clean false hc hd).trans (State.store_none false (by simpa using ht))
  case noneR => exact (storeWord_clean true hc hd).trans (State.store_none true (by simpa using ht))

end Sys2Proof.Machine
end

section
/-! What reaches a core or a pad: arrivals at barriers, granted rings, answers of remote operations, puts, accesses through windows, wakes
(R154, R170, R186, R356, R361, R362). -/

namespace Sys2Proof.Machine

/-! ### The core that something reaches -/

theorem State.coreAt_onCore_self (s : State) (k : Nat) (f : Core → Core) : (s.onCore k f).coreAt k = { f (s.coreAt k) with cid := k } := by
  simp [State.coreAt_onCore]

/-- Which core a number names depends on the core that moves and the parked ones alone. -/
theorem State.coreAt_congr {s t : State} (hc : t.core = s.core) (hp : t.parked = s.parked) (k : Nat) : t.coreAt k = s.coreAt k := by
  simp [State.coreAt, hc, hp]

theorem State.coreAt_agenda (s : State) (is : List Instr) (k : Nat) : ({ s with agenda := is } : State).coreAt k = s.coreAt k :=
  State.coreAt_congr rfl rfl k

/-- A launch's work that runs on a core is changed there (R135, R161). -/
theorem Core.onWork_run (c : Core) {l : Nat} (f : Thread → Pad → Thread × Pad) (hm : c.t.mode = .run) (hl : c.t.lslot = l) :
    c.onWork l f = { c with t := (f c.t c.l1).1, l1 := (f c.t c.l1).2 } := by
  simp [Core.onWork, hm, hl]

theorem Core.contextOf_run (c : Core) {l : Nat} (hm : c.t.mode = .run) (hl : c.t.lslot = l) : c.contextOf l = some c.t := by
  simp [Core.contextOf, hm, hl]

theorem State.coreAt_onContext_run (s : State) {cid l : Nat} (f : Thread → Thread) (hm : (s.coreAt cid).t.mode = .run)
    (hl : (s.coreAt cid).t.lslot = l) : ((s.onContext cid l f).coreAt cid).t = f (s.coreAt cid).t := by
  rw [State.onContext, State.coreAt_onCore_self, Core.onContext, Core.onWork_run _ _ hm hl]

/-! ### Barriers (R186, R355) -/

@[simp] theorem Thread.bar_setBar (t : Thread) (b : BitVec 7) (x : Bar) : (t.setBar b x).bar b = x := by simp [Thread.bar, Thread.setBar]

section
variable {s : State} {cid l bar : Nat}

/-- An arrival that is not the last of its phase counts. -/
theorem execBarrierArrival_counts (hm : (s.coreAt cid).t.mode = .run) (hl : (s.coreAt cid).t.lslot = l) {x : Bar}
    (hx : x = (s.coreAt cid).t.bar (BitVec.ofNat 7 bar)) (hv : x.valid = true) (hlt : x.arrived + 1 < x.rect.w * x.rect.h) (k : Nat) :
    execBarrierArrival ⟨k, cid⟩ l bar x.rect s
      = .next (s.onContext cid l fun t => t.setBar (BitVec.ofNat 7 bar) { x with arrived := x.arrived + 1 }) := by
  subst hx
  simp [execBarrierArrival, Core.contextOf_run _ hm hl, hv, hlt]

/-- The last arrival of a phase sends the next phase to every participant. -/
theorem execBarrierArrival_completes (hm : (s.coreAt cid).t.mode = .run) (hl : (s.coreAt cid).t.lslot = l) {x : Bar}
    (hx : x = (s.coreAt cid).t.bar (BitVec.ofNat 7 bar)) (hv : x.valid = true) (hlast : x.arrived + 1 = x.rect.w * x.rect.h) (k : Nat) :
    let u := s.onContext cid l fun t => t.setBar (BitVec.ofNat 7 bar) { x with arrived := 0, phase := x.phase + 1 }
    execBarrierArrival ⟨k, cid⟩ l bar x.rect s
      = .next { u with agenda := u.agenda ++ x.rect.cores.map fun c => .barrierPhaseDelivery c l bar (x.phase + 1) } := by
  subst hx
  simp [execBarrierArrival, Core.contextOf_run _ hm hl, hv, hlast, State.foldl_push]

end

/-! ### Rings (R161, R356) -/

/-- A cluster pad that serves the context already is left as it is (R161). -/
theorem State.serve_l2_same {s : State} {ctx cl : Nat} (off : Nat) (h : SMap.find? s.l2Ctx cl = some ctx) : s.serve ctx (.l2 cl off) = s :=
  if_pos h

/-- The bank grants the request that came first (R356). -/
theorem execRingUpdate_grants {s : State} {cid r at' : Nat} {side : Bool} {x : Ring} {a : DWord}
    (hr : (s.coreAt cid).t.ring = some (.asked r side at')) (hctx : SMap.find? s.l2Ctx (clusterOf cid) = some (s.coreAt cid).t.ctx)
    (hf : s.firstAsker (clusterOf cid) r side = some cid) (ha : ((s.l2At (clusterOf cid)).ring r).acquire side = some (x, a)) :
    execRingUpdate cid s = .next (({ s with l2 := SMap.insert s.l2 (clusterOf cid) ((s.l2At (clusterOf cid)).setRing r x) } : State).onCore cid
      fun c => { c with t := { c.t with ring := some (.granted r ⟨a, x.psn⟩) } }) := by
  simp [execRingUpdate, hr, State.serve_l2_same 0 hctx, hf, ha]

/-! ### Answers (R185, R362) -/

/-- The next number of a timeline with none completed out of order completes it (R185). -/
theorem Thread.complete_next (t : Thread) (k : Fin 8) (hd : t.tl[k].done = []) :
    ((t.complete k (t.tl[k].val + 1)).tl[k]).val = t.tl[k].val + 1 := by
  have hd' : t.tl[k.val].done = [] := hd
  simp [Thread.complete, hd', tlCatch]

theorem Mem.leNat_read_write_leBytes (m : Mem) (a : Nat) {n x : Nat} (h : x < 2 ^ (8 * n)) :
    leNat (Mem.read (Mem.write m a (leBytes n x)) a n) = x := by
  rw [Mem.read_write_leBytes, leNat_leBytes, Nat.mod_eq_of_lt h]

/-- The answer of a numbered operation, but for what the launch and the queue pairs count, is a change to the work that issued it. -/
theorem execAckArrival_numbered (s : State) (cid l : Nat) {n : Nat} (fate : Nat) (hn : n ≠ 0) :
    ∃ u : State, u.core = s.core ∧ u.parked = s.parked ∧ execAckArrival cid l n fate s = .next (u.onCore cid (Core.onWork l fun t p =>
      (({ t with rputs := t.rputs - 1 } : Thread).complete 4 n, p.write (fateOff n) (leBytes 4 fate)))) := by
  refine ⟨{ s.onLaunch l (fun x => { x with remotes := x.remotes - 1 }) with
    qps := s.qps.map fun (q : Nat × QPair) => (q.1, { q.2 with ops := q.2.ops.erase (cid, n, l) }) }, s.onLaunch_core .., s.onLaunch_parked .., ?_⟩
  simp [execAckArrival, hn]

/-- The answer of a numbered operation completes it and leaves its fate in the L1 of the core that issued it (R362). -/
theorem execAckArrival_fate {s : State} {cid l n : Nat} (fate : Nat) (hm : (s.coreAt cid).t.mode = .run) (hl : (s.coreAt cid).t.lslot = l)
    (hn : n ≠ 0) :
    ∃ t, execAckArrival cid l n fate s = .next t
      ∧ (t.coreAt cid).t = ({ (s.coreAt cid).t with rputs := (s.coreAt cid).t.rputs - 1 } : Thread).complete 4 n
      ∧ (t.coreAt cid).l1 = (s.coreAt cid).l1.write (fateOff n) (leBytes 4 fate) := by
  obtain ⟨u, hcore, hparked, hexec⟩ := execAckArrival_numbered s cid l fate hn
  refine ⟨_, hexec, ?_, ?_⟩ <;> rw [State.coreAt_onCore_self, State.coreAt_congr hcore hparked, Core.onWork_run _ _ hm hl]

/-! ### Puts (R361) -/

section
variable {s : State} {p : PutReq} {x : Launch}

/-- Whom a put that reached its launch on this device writes for. -/
def putWho (p : PutReq) (x : Launch) : Who := ⟨x.lrec.cores.headD 0, x.ctx, some p.lslot, true, dieOf (x.lrec.cores.headD 0)⟩

/-- A put of the own device is judged by the bytes that it writes at its target (R361). -/
theorem execRputArrival_performed {s1 : State} (hp : p.sender = p.member) (hx : SMap.find? s.launches p.lslot = some x)
    (h : s.putBytes (putWho p x) p.target.toNat (repoison p.bytes p.poisoned) = .ok ((), s1)) :
    execRputArrival p s = .next ((s1.unhold (.launch p.lslot)).answer true p.sender p.lslot p.ack Fate.ok) := by
  simp only [putWho, List.headD_eq_head?_getD] at h
  simp [execRputArrival, State.staleSender, State.receiver, hp, hx, h]

theorem execRputArrival_refused {s1 : State} {rank : Nat} {c : Cause} {v : DWord} {o : Psn} (hp : p.sender = p.member)
    (hx : SMap.find? s.launches p.lslot = some x)
    (h : s.putBytes (putWho p x) p.target.toNat (repoison p.bytes p.poisoned) = .error (.trap rank c v o s1)) :
    execRputArrival p s = .next (s1.answer true p.sender p.lslot p.ack Fate.page) := by
  simp only [putWho, List.headD_eq_head?_getD] at h
  simp [execRputArrival, State.staleSender, State.receiver, hp, hx, h]

@[simp] theorem repoison_length (bs : List Byte) (ws : List Nat) : (repoison bs ws).length = bs.length := by simp [repoison]

/-- A put writes device memory below the windows only (R361). -/
theorem State.putBytes_inMemory (w : Who) {va : Nat} {bs : List PByte} (h : va < 0xFF000000000000 ∧ va + bs.length ≤ 0xFF000000000000) :
    s.putBytes w va bs = s.writeVa w va bs := by
  rw [State.putBytes, if_neg (by simp; omega)]

theorem State.putBytes_outside (w : Who) {va : Nat} {bs : List PByte} (h : ¬ (va < 0xFF000000000000 ∧ va + bs.length ≤ 0xFF000000000000)) :
    s.putBytes w va bs = .error (.trap 4 .page (BitVec.ofNat 64 va) none s) := by
  rw [State.putBytes, if_pos (by simp; omega)]

end

/-! ### Accesses through windows (R170) -/

/-- Bytes stored into a pad stand at their places, and no other byte changes. -/
theorem Pad.get_write (p : Pad) (off : Nat) (bs : List Byte) :
    (∀ i (h : i < bs.length), Mem.get (p.write off bs).bytes (off + i) = bs[i])
    ∧ (∀ a, a < off ∨ off + bs.length ≤ a → Mem.get (p.write off bs).bytes a = Mem.get p.bytes a) :=
  ⟨fun i h => Mem.get_write_inside bs p.bytes off i h, fun a h => Mem.get_write_outside bs p.bytes off a h⟩

section
variable (s : State) (cid n off : Nat) (bs : List Byte) (size : Nat)

theorem execWindowAccessArrival_writeL1 (k : Nat) :
    execWindowAccessArrival k ⟨.l1 cid, off, some bs, size, none⟩ s
      = .next ((s.onCore cid fun c => { c with l1 := c.l1.write off bs }).setEv cid) := by
  simp [execWindowAccessArrival, windowLoc, State.writeLoc, afterAccess]

theorem execWindowAccessArrival_writeL2 (h : off + bs.length ≤ 0x7FFC00) :
    execWindowAccessArrival cid ⟨.l2 n, off, some bs, size, none⟩ s = .next { s with l2 := SMap.insert s.l2 n ((s.l2At n).write off bs) } := by
  simp [execWindowAccessArrival, windowLoc, State.writeLoc, afterAccess, h]

theorem execWindowAccessArrival_writeL3 (h : off < 0xFFF000) :
    execWindowAccessArrival cid ⟨.l3 n, off, some bs, size, none⟩ s = .next { s with l3 := SMap.insert s.l3 n ((s.l3At n).write off bs) } := by
  have h' : ¬ 0xFFF000 ≤ off := by omega
  simp [execWindowAccessArrival, windowLoc, State.writeLoc, afterAccess, h, h']

end

/-! ### The statement -/

/-- Settles O53: each arrival by the lemma above that says what its step leaves. -/
theorem arrivals : Obligations.Arrivals := by
  intro s cid l c
  refine ⟨fun bar x hbar hm hl hx hv => ⟨?last, ?count, ?phase⟩, ?ring, ?ack, fun p x hp hx => ⟨?put, ?refused, ?outside⟩, ?l1, ?l2, ?l3, ?wake⟩
  case last =>
    intro hlast k
    have ht := s.coreAt_onContext_run (fun t => t.setBar (BitVec.ofNat 7 bar) { x with arrived := 0, phase := x.phase + 1 }) hm hl
    refine ⟨_, execBarrierArrival_completes hm hl hx hv hlast k, ?_, ?_, by simp [State.onContext]⟩ <;>
    · rw [State.coreAt_agenda, ht, Thread.bar_setBar]
  case count =>
    intro hlt k
    have ht := s.coreAt_onContext_run (fun t => t.setBar (BitVec.ofNat 7 bar) { x with arrived := x.arrived + 1 }) hm hl
    refine ⟨_, execBarrierArrival_counts hm hl hx hv hlt k, ?_, by simp [State.onContext], ?_, by simp [State.onContext]⟩
    · rw [ht, Thread.bar_setBar]
    · rw [ht]
      exact c.t.sameRegs_refl
  case phase =>
    intro phase
    have ht := s.coreAt_onContext_run (fun t => if (t.bar (BitVec.ofNat 7 bar)).valid then
      { t.setBar (BitVec.ofNat 7 bar) { t.bar (BitVec.ofNat 7 bar) with phase := phase, pending := false } with ev := true } else t) hm hl
    have hv' : ((s.coreAt cid).t.bar (BitVec.ofNat 7 bar)).valid = true := hx ▸ hv
    rw [if_pos hv'] at ht
    refine ⟨_, rfl, ?_, ?_, ?_, by simp [State.onContext]⟩
    · rw [ht, hx]
      exact Thread.bar_setBar ..
    · rw [ht]
    · rw [ht]
      exact c.t.sameRegs_refl
  case ring =>
    intro r side at' x a hr hctx hf ha
    refine ⟨_, execRingUpdate_grants hr hctx hf ha, ?_, fun k hk => ?_, ?_, by simp⟩
    · rw [State.coreAt_onCore_self]
    · simp [State.l2At, SMap.getD_insert_ne _ _ _ hk]
    · rw [State.coreAt_onCore_self]
      exact c.t.sameRegs_refl
  case ack =>
    intro n fate hm hl hn hfate
    obtain ⟨t, hexec, ht, hl1⟩ := execAckArrival_fate fate hm hl hn
    have hput := ((s.coreAt cid).l1.get_write (fateOff n) (leBytes 4 fate)).2
    refine ⟨t, hexec, ?_, fun p hp => ?_, ?_, fun hnext hd => ?_⟩
    · rw [hl1]
      exact Mem.leNat_read_write_leBytes _ _ hfate
    · rw [hl1]
      exact hput p (by simpa [fateOff] using hp)
    · rw [ht]
      rfl
    · rw [ht, hnext]
      exact Thread.complete_next { c.t with rputs := c.t.rputs - 1 } 4 hd
  case put =>
    intro s1 hin h
    exact execRputArrival_performed hp hx ((State.putBytes_inMemory _ (by simpa using hin)).trans h)
  case refused =>
    intro rank cause val origin s1 hin h
    exact execRputArrival_refused hp hx ((State.putBytes_inMemory _ (by simpa using hin)).trans h)
  case outside =>
    intro hout
    exact execRputArrival_refused hp hx (State.putBytes_outside _ (by simpa using hout))
  case l1 =>
    intro off bs size k id
    refine ⟨_, execWindowAccessArrival_writeL1 s cid off bs size cid, ?_⟩
    have hc : ((s.onCore cid fun c => { c with l1 := c.l1.write off bs }).setEv cid).coreAt cid
        = { c with l1 := c.l1.write off bs, t := { c.t with ev := true }, cid := cid } := by
      rw [State.setEv, State.coreAt_onCore_self, State.coreAt_onCore_self]
    rw [hc]
    obtain ⟨hin, hout⟩ := c.l1.get_write off bs
    exact ⟨hin, hout, rfl, rfl⟩
  case l2 =>
    intro n off bs size k id _ hle
    refine ⟨_, execWindowAccessArrival_writeL2 s cid n off bs size hle, ?_⟩
    have hpad : ({ s with l2 := SMap.insert s.l2 n ((s.l2At n).write off bs) } : State).l2At n = (s.l2At n).write off bs :=
      SMap.getD_insert_self ..
    rw [hpad]
    obtain ⟨hin, hout⟩ := (s.l2At n).get_write off bs
    exact ⟨hin, hout, fun m hm => SMap.getD_insert_ne _ _ _ hm, rfl, rfl, rfl⟩
  case l3 =>
    intro n off bs size k id hpos hle
    refine ⟨_, execWindowAccessArrival_writeL3 s cid n off bs size (by omega), ?_⟩
    have hpad : ({ s with l3 := SMap.insert s.l3 n ((s.l3At n).write off bs) } : State).l3At n = (s.l3At n).write off bs :=
      SMap.getD_insert_self ..
    rw [hpad]
    obtain ⟨hin, hout⟩ := (s.l3At n).get_write off bs
    exact ⟨hin, hout, fun m hm => SMap.getD_insert_ne _ _ _ hm, rfl, rfl, rfl⟩
  case wake =>
    refine ⟨_, rfl, ?_, ?_, ?_, by simp⟩ <;> rw [State.coreAt_onCore_self]

end Sys2Proof.Machine
end

section
/-! What a finished save leaves in the save area (R132, R133, R136, R145), and an area for which it is not what its KIND says. -/

namespace Sys2Proof.Machine

/-! ### A save that completes (R133) -/

/-- New contents of device memory leave a state's cores as they are. -/
theorem State.cores_withMem (s : State) (m : Mem) (ue : SMap Origin) (symErr enc : SMap Nat) :
    ({ s with mem := m, ue := ue, symErr := symErr, enc := enc } : State).core = s.core
    ∧ ({ s with mem := m, ue := ue, symErr := symErr, enc := enc } : State).parked = s.parked := ⟨rfl, rfl⟩

theorem State.cores_activateAll (s : State) (pa n : Nat) : (s.activateAll pa n).core = s.core ∧ (s.activateAll pa n).parked = s.parked :=
  ⟨rfl, rfl⟩

/-- A save area laid into memory leaves the cores as they are. -/
theorem State.laySave_coreAt (s : State) (c : Core) (dl : Bool) (a : Saved) (k : Nat) : (s.laySave c dl a).coreAt k = s.coreAt k := by
  unfold State.laySave
  dsimp only
  refine State.coreAt_congr ?_ ?_ k
  · exact foldl_keeps State.core _ (fun t _ => (State.cores_withMem _ _ _ _ _).1.trans (t.cores_activateAll _ _).1) _ s
  · exact foldl_keeps State.parked _ (fun t _ => (State.cores_withMem _ _ _ _ _).2.trans (t.cores_activateAll _ _).2) _ s

/-- An area that is laid keeps the context that was saved in it, under the keys that it then lies under (R136). -/
theorem State.layArea_savedT (s : State) {cid : Nat} (dl : Bool) {b : Saved} (h : (s.coreAt cid).savedT = some b) :
    ∃ key, ((s.layArea cid dl).coreAt cid).savedT = some { b with key := key } := by
  unfold State.layArea
  cases dl with
  | false =>
    simp only [h, Bool.false_eq_true, ↓reduceIte, State.laySave_coreAt, State.coreAt_onCore_self]
    exact ⟨_, rfl⟩
  | true =>
    simp only [↓reduceIte]
    split
    · simp only [State.laySave_coreAt, State.coreAt_onCore_self, h]
      exact ⟨b.key, rfl⟩
    · exact ⟨b.key, h⟩

theorem execSaveComplete_done {s : State} {cid : Nat} (hm : (s.coreAt cid).t.mode = .stopping) (hs : (s.coreAt cid).saved? = true) :
    let u := s.onCore cid Core.finishSave
    execSaveComplete cid s = .next ((u.layArea cid (u.isDeadline (s.coreAt cid).t.lslot)).push (.taskDispatch (dieOf cid))) := by
  simp [execSaveComplete, hm, hs]

/-- A save that may complete fills the area of the core's work with its thread and its L1. -/
theorem execSaveComplete_fills {s : State} {cid : Nat} {a : Saved} (hm : (s.coreAt cid).t.mode = .stopping) (hs : (s.coreAt cid).saved? = true)
    (ha : (s.coreAt cid).savedT = some a) (hc : a.complete = false) (hl : a.thread.lslot = (s.coreAt cid).t.lslot) :
    ∃ t key, execSaveComplete cid s = .next t
      ∧ (t.coreAt cid).savedT = some { a.fill (s.coreAt cid).t (s.coreAt cid).l1 with key := key } := by
  have hfin : ((s.onCore cid Core.finishSave).coreAt cid).savedT = some (a.fill (s.coreAt cid).t (s.coreAt cid).l1) := by
    simp [State.coreAt_onCore_self, Core.finishSave, ha, hc, hl]
  obtain ⟨key, hkey⟩ := State.layArea_savedT _ ((s.onCore cid Core.finishSave).isDeadline (s.coreAt cid).t.lslot) hfin
  exact ⟨_, key, execSaveComplete_done hm hs, hkey⟩

/-- An area that takes KIND 1 again after a reset is filled as one of KIND 1 (R132, R145): of the L1 the table's ranges only. -/
theorem Saved.fill_resumesCkpt (a : Saved) (t : Thread) (l1 : Pad) (h : a.resumes = some .ckpt) :
    (a.fill t l1).l1.bytes = keepRanges a.tab.2 false l1.bytes := by
  simp [Saved.fill, h]

/-! ### The statement -/

/-- An area of KIND 2 that is to take KIND 1 again, with no range of a table. -/
def mixedArea : Saved :=
  { kind := .immediate, thread := {}, l1 := {}, cktab := 0, mask := 0, complete := false, version := 0, resumes := some .ckpt }

/-- A stopping core, with one byte in its L1, whose save is under way into that area. -/
def mixedState : State :=
  { State.reset with core := { cid := 0, t := { mode := .stopping }, l1 := { bytes := [(0, 1)] }, savedT := some mixedArea } }

/-- Refutes O55, by its clause on SAVE_COMPLETE: the hypotheses do not say that an area of KIND 2 has no KIND to take again, and one that is to
take KIND 1 is filled by the ranges of its table, so that the byte in the L1 of `mixedState` is not saved. The steps of the model set `resumes` on areas of
KIND 3 only. -/
theorem not_contextSteps : ¬ Obligations.ContextSteps := by
  intro h
  obtain ⟨-, -, -, hsave, -⟩ := h mixedState 0
  obtain ⟨t, b, hexec, -, hb, -, -, -, -, himm, -⟩ := hsave mixedArea rfl rfl rfl rfl rfl
  obtain ⟨t', key, hexec', hfill⟩ := execSaveComplete_fills (s := mixedState) (cid := 0) (a := mixedArea) rfl rfl rfl rfl rfl
  have ht : t = t' := Host.Outcome.next.inj (hexec.symm.trans hexec')
  have hbf : b = { mixedArea.fill (mixedState.coreAt 0).t (mixedState.coreAt 0).l1 with key := key } :=
    Option.some.inj (hb.symm.trans (ht ▸ hfill))
  have hl1 : b.l1 = { bytes := [(0, 1)] } := (himm rfl).2
  have hnone : b.l1.bytes = [] := by
    rw [hbf]
    exact Saved.fill_resumesCkpt mixedArea (mixedState.coreAt 0).t (mixedState.coreAt 0).l1 rfl
  exact absurd (hl1 ▸ hnone) (by decide)

end Sys2Proof.Machine
end

section
/-! Atomics (R197, R348): where an AMO is performed, what one in the own L1 lands and leaves, and where it traps. -/

namespace Sys2Proof.Machine

/-! ### A sign-extended word (R17, R241) -/

theorem sextInt_eq_toInt (w x : Nat) : sextInt x w = (BitVec.ofNat w x).toInt := by
  have hmsb : (BitVec.ofNat w x).msb = (x % 2 ^ w).testBit (w - 1) := by
    rw [BitVec.msb_eq_getLsbD_last, BitVec.getLsbD, BitVec.toNat_ofNat]
  simp [sextInt, BitVec.toInt_eq_msb_cond, hmsb]

theorem ofInt_sextInt_word (x : Nat) : BitVec.ofInt 64 (sextInt x 32) = Word.sext (BitVec.ofNat 32 x) := by
  rw [sextInt_eq_toInt]
  rfl

theorem Word.low_sext (x : Word) : x.sext.low = x := by
  ext i hi
  have : i < 64 := by omega
  simp [BitVec.getElem_signExtend, hi, this]

/-! ### The own-L1 place of an AMO (R169, R197) -/

/-- An address of the own-L1 window is a place that every launch may use, and that nothing is zeroed for (R161, R171). -/
theorem State.resolve_own (s : State) (r : Right) {va : DWord} {off : Nat} (ho : ownOff va = some off) :
    s.resolve s.me r va.toNat = .ok (.l1 s.core.cid off true, s) := by
  obtain ⟨hlo, hhi, hoff⟩ := ownOff_eq_some ho
  have hw : windowOf s.core.cid va.toNat = some (.l1 s.core.cid off true) := by
    rw [windowOf, if_neg (by omega), if_pos (by omega), hoff]
  unfold State.resolve
  rw [if_neg (by omega), if_pos hlo]
  simp only [State.me, hw]
  cases r <;> simp [LaunchRec.windowPlace, LaunchRec.mayUse, State.serve]

theorem State.amoPlace_own (s : State) {va : DWord} {off : Nat} (ho : ownOff va = some off) :
    s.amoPlace va = .ok (.l1 s.core.cid off true, s) := by
  simp [State.amoPlace, s.resolve_own _ ho, Access.bind]

/-! ### The one access of an AMO (R197) -/

/-- Where an AMO of a clean old value writes nothing, it is a CAS that failed, and the old value stays. -/
theorem amoNew_of_not_writes {o : BitVec 3} {old x : Word} (y : Word) (h : amoWrites o ⟨old, none⟩ x = false) : amoNew o old x y = old := by
  obtain ⟨rfl, hne⟩ : o = 7 ∧ old ≠ x := by simpa [amoWrites] using h
  simp [amoNew, hne]

/-- Four bytes at a multiple of four lie in one 64-bit word, whose mark they carry (R147). -/
theorem Pad.loaded_word (p : Pad) {off : Nat} (ha : off % 4 = 0) (hp : SMap.find? p.psn (off / 8) = none) :
    loaded 4 (p.readP off 4) = ⟨Word.sext (BitVec.ofNat 32 (leNat (Mem.read p.bytes off 4))), none⟩ := by
  have hpsn : psnOf (p.readP off 4) = none := Pad.psnOf_readP_clean _ _ _ fun k hk => by
    rw [show (off + k) / 8 = off / 8 by omega]
    exact hp
  have hval := (loaded_readP_val p off 4 (by decide)).trans (ofInt_sextInt_word _)
  exact congr (congrArg PDWord.mk hval) ((loaded_psn 4 _).trans hpsn)

theorem State.writeLoc_own (s : State) (w : Who) (off : Nat) (bs : List Byte) (va : DWord) :
    s.writeLoc w (.l1 s.core.cid off true) (clean bs) va = .ok ((), s.mapL1 fun p => p.write off bs) := by
  simp [State.writeLoc, State.onCore, State.setCore, State.coreAt, State.mapL1]

/-- An AMO at a clean word of the own L1 answers the old value, and leaves its new value there and every other byte as it was. -/
theorem State.amoDo_own (s : State) (w : Who) (o : BitVec 3) {off : Nat} (ea : DWord) (x y : Word) (ha : off % 4 = 0)
    (hp : SMap.find? s.core.l1.psn (off / 8) = none) :
    let old : Word := BitVec.ofNat 32 (leNat (Mem.read s.core.l1.bytes off 4))
    ∃ p : Pad, s.amoDo w o (.l1 s.core.cid off true) ea x y = .ok (⟨old.sext, none⟩, s.mapL1 fun _ => p)
      ∧ leNat (Mem.read p.bytes off 4) = (amoNew o old x y).toNat
      ∧ (∀ a, a < off ∨ off + 4 ≤ a → Mem.get p.bytes a = Mem.get s.core.l1.bytes a) := by
  intro old
  have hread : s.readLoc (.l1 s.core.cid off true) 4 ea = .ok (s.core.l1.readP off 4, s) := by simp [State.readLoc, State.coreAt]
  have hold : loaded 4 (s.core.l1.readP off 4) = ⟨old.sext, none⟩ := s.core.l1.loaded_word ha hp
  cases hw : amoWrites o ⟨old, none⟩ x with
  | true =>
    refine ⟨s.core.l1.write off (leBytes 4 (amoNew o old x y).toNat), ?_, ?_, ?_⟩
    · simp only [State.amoDo, hread, Access.bind, hold, Word.low_sext, hw, if_true, State.amoStore, State.writeLoc_own]
      rfl
    · exact Mem.leNat_read_write_leBytes _ _ (BitVec.isLt _)
    · exact fun a h => Mem.get_write_outside _ _ _ _ (by simpa using h)
  | false =>
    refine ⟨s.core.l1, ?_, ?_, fun _ _ => rfl⟩
    · simp only [State.amoDo, hread, Access.bind, hold, Word.low_sext, hw]
      rfl
    · have hlt : leNat (Mem.read s.core.l1.bytes off 4) < 2 ^ 32 := by simpa using leNat_lt (Mem.read s.core.l1.bytes off 4)
      rw [amoNew_of_not_writes y hw, BitVec.toNat_ofNat, Nat.mod_eq_of_lt hlt]

/-! ### AMO (R348) -/

/-- A word with a landing slot free and clean sources goes on (R165, R166). -/
theorem State.slotFree_clean (s : State) {xs : List Psn} (k : Out) (hs : s.core.t.landings < 32) (hc : ∀ x ∈ xs, x = none) :
    s.slotFree (s.checked xs k) = k :=
  (if_neg (Nat.not_le.2 hs)).trans (s.checked_clean xs k hc)

/-- The targets at which the core performs an AMO: its own L1, if the AMO is unordered, a pad of its launch, and device memory (R197). -/
def State.amoReaches (s : State) (r : BitVec 2) (va : Nat) : Prop :=
  targetOf s.core.cid va = .own ∧ r = 0 ∨ targetOf s.core.cid va = .dev ∨ targetOf s.core.cid va = .pad ∧ s.padDenied va = false

section
variable {s : State} {e o : BitVec 3} {r : BitVec 2} {d : BitVec 5} {b : BitVec 3} {l : BitVec 10} {a : PDWord}
  (hea : s.srcA (b.zeroExtend 4) = a) (hs : s.core.t.landings < 32)
  (hc : ∀ p ∈ [a.psn, (s.srcS d).psn, if o = 7 then (s.srcS (d + 1)).psn else none], p = none)
include hea hs hc

theorem exec_amoOp_misaligned (ha : a.val.toNat % 4 ≠ 0) : exec (.amoOp e o r d b l) s = s.trap 3 .align a.val := by
  subst hea
  exact (s.slotFree_clean _ hs hc).trans (if_pos (bne_iff_ne.2 ha))

variable (ha : a.val.toNat % 4 = 0)
include ha

theorem exec_amoOp_ordered_own (ht : targetOf s.core.cid a.val.toNat = .own) (hr : r ≠ 0) :
    exec (.amoOp e o r d b l) s = s.trap 3 .page a.val := by
  subst hea
  refine (s.slotFree_clean _ hs hc).trans ((if_neg (by simp [ha])).trans ?_)
  rw [ht]
  exact if_pos ⟨rfl, hr⟩

variable {loc : Loc} {s1 : State} (ht : s.amoReaches r a.val.toNat) (hp : s.amoPlace a.val = .ok (loc, s1))
include ht hp

/-- An AMO that nothing holds back is performed as it issues, and lands the old value. -/
theorem exec_amoOp_performed {old : PDWord} {s2 : State}
    (hgo : (targetOf s.core.cid a.val.toNat == .own || s1.goesNow (e == 4 && r.getLsbD 1) [(loc, a.val.toNat, 4)]) = true)
    (hd : s1.amoDo s1.me o loc a.val (s.srcS d).val (s.srcS (d + 1)).val = .ok (old, s2)) :
    exec (.amoOp e o r d b l) s = .next (s2.noRerun.land d l.toNat (some old) (targetOf s.core.cid a.val.toNat == .own)) := by
  subst hea
  refine (s.slotFree_clean _ hs hc).trans ((if_neg (by simp [ha])).trans ?_)
  rcases ht with ⟨ht, hr⟩ | ht | ⟨ht, hden⟩ <;> rw [ht] at hgo ⊢
  · simp only [hr, hp, hd, ne_eq, not_true_eq_false, and_false, reduceCtorEq, false_and, if_false, BEq.rfl, Bool.true_or, if_true]
  · simp only [hp, hd, hgo, reduceCtorEq, false_and, if_false, if_true]
  · simp only [hden, hp, hd, hgo, reduceCtorEq, false_and, and_false, if_false, if_true, Bool.false_eq_true]

/-- An AMO that something before it holds back leaves later, with its landing slot taken (R194). -/
theorem exec_amoOp_held
    (hgo : (targetOf s.core.cid a.val.toNat == .own || s1.goesNow (e == 4 && r.getLsbD 1) [(loc, a.val.toNat, 4)]) = false) :
    exec (.amoOp e o r d b l) s = .next ((s1.noRerun.land d l.toNat none false).leave (e == 4 && r.getLsbD 1)
      (.amo s1.core.t.landId o loc a.val (s.srcS d).val (s.srcS (d + 1)).val)) := by
  subst hea
  refine (s.slotFree_clean _ hs hc).trans ((if_neg (by simp [ha])).trans ?_)
  rcases ht with ⟨ht, -⟩ | ht | ⟨ht, hden⟩ <;> rw [ht] at hgo ⊢
  · cases hgo
  · simp only [hp, hgo, reduceCtorEq, false_and, if_false, Bool.false_eq_true]
  · simp only [hden, hp, hgo, reduceCtorEq, false_and, and_false, if_false, Bool.false_eq_true]

end

/-- Settles O44: an AMO of the own L1 is `State.amoDo_own` performed as it issues, and one elsewhere is performed or joins the egress. -/
theorem atomics : Obligations.Atomics := by
  intro s e o r d b l a x y hs ha hx hy
  have hc : ∀ p ∈ [a.psn, (s.srcS d).psn, if o = 7 then (s.srcS (d + 1)).psn else none], p = none := by
    rw [ha, hx, hy, ite_self]
    simp
  refine ⟨exec_amoOp_misaligned rfl hs hc, fun hal ho hr => ?ordered, ?own, ?elsewhere⟩
  case ordered =>
    obtain ⟨off, ho⟩ := Option.isSome_iff_exists.1 ho
    obtain ⟨hlo, hhi, -⟩ := ownOff_eq_some ho
    exact exec_amoOp_ordered_own rfl hs hc hal (targetOf_own _ hlo hhi) hr
  case own =>
    intro off hal ho hr hp old new
    obtain ⟨hlo, hhi, hoff⟩ := ownOff_eq_some ho
    have ht := targetOf_own s.core.cid hlo hhi
    obtain ⟨p, hdo, hnew, hframe⟩ := s.amoDo_own s.me o a.val x y (by omega) hp
    refine ⟨_, exec_amoOp_performed rfl hs hc hal (.inl ⟨ht, hr⟩) (s.amoPlace_own ho) (by rw [ht]; rfl) hdo, ?_⟩
    rw [ht]
    exact ⟨rfl, hnew, hframe, s.core.t.sameRegs_refl, s.core.t.sameControl_refl, rfl, rfl, rfl⟩
  case elsewhere =>
    intro hal ht sys loc s1 hplace
    have hfar : (targetOf s.core.cid a.val.toNat == .own) = false := by
      rcases ht with ht | ⟨ht, -⟩ <;> rw [ht] <;> rfl
    refine ⟨fun old s2 hgo hdo => ?_, fun hgo => exec_amoOp_held rfl hs hc hal (.inr ht) hplace (by rw [hfar]; exact hgo)⟩
    rw [exec_amoOp_performed rfl hs hc hal (.inr ht) hplace (by rw [hfar]; exact hgo) hdo, hfar]

end Sys2Proof.Machine
end

section
/-! Remote operations (R194, R360 to R362): what one that passes its checks puts behind the accesses that wait to leave the core, and one to the
member itself as it is sent. -/

namespace Sys2Proof.Machine

/-- A bit field by division (R17). -/
theorem bits_eq_div_mod (x hi lo : Nat) : bits x hi lo = x / 2 ^ lo % 2 ^ (hi - lo + 1) := by rw [bits, Nat.shiftRight_eq_div_pow]

/-! ### A remote operation joins what waits to leave the core (R108, R194, R362) -/

theorem Thread.takeNum_issued (t : Thread) (k : Fin 8) : ((t.takeNum k).1.tl[k]).issued = (t.tl[k]).issued + 1 :=
  congrArg _ (Vector.getElem_set_self k.isLt)

/-- The number of a remote operation: the next of tl4 in an .ACK form, else 0. -/
theorem State.startRemote_num (s : State) (ack : Bool) : (s.startRemote ack).2 = if ack then (s.core.t.tl[4]).issued + 1 else 0 := by
  cases ack <;> rfl

/-- A remote operation that has its number stands behind what waits to leave the core; of the thread, tl4, the task and its rerunnability
have changed besides. -/
theorem State.startRemote_leave (s : State) (ack : Bool) (op : EgressOp) :
    let u := (s.startRemote ack).1.leave false op
    u.core.t.egress = s.core.t.egress ++ [⟨s.core.t.moveSeq, false, op, s.core.t.pc⟩]
    ∧ (u.core.t.tl[4]).issued = (s.core.t.tl[4]).issued + (if ack then 1 else 0) ∧ s.core.t.sameRegs u.core.t ∧ s.sameMemory u
    ∧ u.core.t.rerunnable = false := by
  cases ack with
  | false => simp [State.startRemote, State.noReplay, State.leave, Thread.sameRegs, State.sameMemory]
  | true =>
    refine ⟨?_, ?num, ?_, ?_, ?_⟩
    case num =>
      simp only [State.startRemote, State.noReplay, State.leave, State.mapT_t, State.onLaunch_core, if_true]
      exact Thread.takeNum_issued _ 4
    all_goals simp [State.startRemote, State.noReplay, State.leave, Thread.takeNum, Thread.sameRegs, State.sameMemory]

/-! ### The checks of a remote operation (R360, R361) -/

/-- A word without bits above its fields, which names a member that the launch may name, passes that check. -/
theorem State.mayName_passes {s : State} {rest member self : Nat} (hr : rest = 0) (h : s.lrec.multi = true ∨ member = self) :
    ¬ (rest != 0 || !s.mayName member self) = true := by
  rcases h with h | h <;> simp [State.mayName, hr, h]

theorem State.remoteSource_ok (s : State) {a : DWord} {n : Nat} (k : Out) (ha : a.toNat % 64 = 0)
    (ht : targetOf' s.core.cid a.toNat n = .own ∨ targetOf' s.core.cid a.toNat n = .dev) : s.remoteSource a n k = k := by
  unfold State.remoteSource
  rw [if_neg (by simp [ha])]
  rcases ht with ht | ht <;> rw [ht]

/-! ### RPUT (R361) -/

/-- The put that the core's launch sends in the name of a member, its source not yet read. -/
def State.putFrom (s : State) (self member num : Nat) (target : DWord) : PutReq :=
  { member := member, sender := self, ctx := s.core.t.ctx, group := s.lrec.group, target := target, bytes := [], poisoned := []
    ack := some (s.core.cid, num), lslot := s.core.t.lslot }

section
variable {s : State} {k : BitVec 1} {a t : BitVec 4} {l v : BitVec 5}
  (hc : ∀ p ∈ [(s.srcA a).psn, (s.srcA t).psn, (s.srcS l).psn, (s.srcS v).psn], p = none)
include hc

theorem exec_rput_badLength (h : (s.srcS l).val.toNat % 64 ≠ 0 ∨ (s.srcS l).val.toNat < 64 ∨ 2 ^ 24 < (s.srcS l).val.toNat) :
    exec (.rput k a t l v) s = (s.selfOf s.lrec.group).2.trap 1 .illegal (s.srcS l).val.zext :=
  (s.checked_clean _ _ hc).trans (if_pos (by simpa [or_assoc] using h))

theorem exec_rput_leaves (h0 : (s.srcS l).val.toNat % 64 = 0) (h1 : 64 ≤ (s.srcS l).val.toNat) (h2 : (s.srcS l).val.toNat ≤ 2 ^ 24)
    (hv : (s.srcS v).val.toNat < 2 ^ 18) :
    let g := s.selfOf s.lrec.group
    (g.2.lrec.multi = true ∨ (s.srcS v).val.toNat = g.1) → g.2.core.t.tl4Full (k == 1) = false →
    (s.srcA t).val.toNat % 64 = 0 → (s.srcA t).val.toNat < 2 ^ 56 → (s.srcA a).val.toNat % 64 = 0 →
    targetOf' g.2.core.cid (s.srcA a).val.toNat (s.srcS l).val.toNat = .own
      ∨ targetOf' g.2.core.cid (s.srcA a).val.toNat (s.srcS l).val.toNat = .dev →
    exec (.rput k a t l v) s = .next ((g.2.startRemote (k == 1)).1.leave false
      (.put (g.2.putFrom g.1 (s.srcS v).val.toNat (g.2.startRemote (k == 1)).2 (s.srcA t).val) (s.srcA a).val (s.srcS l).val.toNat
        g.2.core.t.pc)) := by
  intro g hname hfull ht htlt ha htgt
  have hhigh : bits (s.srcS v).val.toNat 31 18 = 0 := by rw [bits_eq_div_mod]; omega
  have hmember : bits (s.srcS v).val.toNat 17 0 = (s.srcS v).val.toNat := by rw [bits_eq_div_mod]; omega
  refine (s.checked_clean _ _ hc).trans ?_
  rw [hmember, if_neg (by simp; omega), if_neg (State.mayName_passes hhigh hname), if_neg (Bool.eq_false_iff.1 hfull), if_neg (by simp [ht]),
    State.remoteSource_ok _ _ ha htgt, if_neg (by omega)]
  rfl

end

/-! ### RRED (R361) -/

/-- The contribution that the two words of RRED name, for a group under a view, its elements not yet read. -/
def State.contributionFrom (s : State) (group self num : Nat) (view : Word) (c v : Nat) : Contribution :=
  { die := v / 2 ^ 18 % 2 ^ 6, slot := v / 2 ^ 24 % 2 ^ 6, group := group, view := view, sender := self, type := c / 2 ^ 30
    count := c % 2 ^ 17, elems := [], poison := false, ack := some (s.core.cid, num), lslot := s.core.t.lslot }

theorem exec_rred_leaves {s : State} {k : BitVec 1} {a : BitVec 4} {n l : BitVec 5}
    (hc : ∀ p ∈ [(s.srcA a).psn, (s.srcS n).psn, (s.srcS l).psn], p = none) :
    let g := s.selfOf s.lrec.group
    let w := g.2.viewOf s.lrec.group
    let c := (s.srcS n).val.toNat
    let v := (s.srcS l).val.toNat
    let bytes := c % 2 ^ 17 * (if c / 2 ^ 30 = 1 then 8 else 4)
    c / 2 ^ 30 ≠ 3 → c / 2 ^ 17 % 2 ^ 13 = 0 → c % 2 ^ 17 ≠ 0 → c % 2 ^ 17 ≤ 65536 → bytes ≤ 2 ^ 18 → v / 2 ^ 30 = 0 →
    (w.2.lrec.multi = true ∨ v % 2 ^ 18 = g.1) → w.2.core.t.tl4Full (k == 1) = false → (s.srcA a).val.toNat % 64 = 0 →
    targetOf' w.2.core.cid (s.srcA a).val.toNat bytes = .own ∨ targetOf' w.2.core.cid (s.srcA a).val.toNat bytes = .dev →
    exec (.rred k a n l) s = .next ((w.2.startRemote (k == 1)).1.leave false
      (.red (w.2.contributionFrom s.lrec.group g.1 (w.2.startRemote (k == 1)).2 w.1 c v) (v % 2 ^ 18) (s.srcA a).val bytes w.2.core.t.pc)) := by
  intro g w c v bytes hty hmid hne hle hsize hv hname hfull ha htgt
  have hc32 : c < 2 ^ 32 := (s.srcS n).val.isLt
  have htype : bits c 31 30 = c / 2 ^ 30 := by rw [bits_eq_div_mod]; omega
  have hcount : bits c 16 0 = c % 2 ^ 17 := by simp [bits_eq_div_mod]
  have hzero : bits c 29 17 = 0 := (bits_eq_div_mod ..).trans hmid
  have hhigh : bits v 31 30 = 0 := by rw [bits_eq_div_mod, hv, Nat.zero_mod]
  have hmember : bits v 17 0 = v % 2 ^ 18 := by simp [bits_eq_div_mod]
  have hdie : bits v 23 18 = v / 2 ^ 18 % 2 ^ 6 := bits_eq_div_mod ..
  have hslot : bits v 29 24 = v / 2 ^ 24 % 2 ^ 6 := bits_eq_div_mod ..
  have hfields : ¬ (c / 2 ^ 30 = 3 || bits c 29 17 != 0 || c % 2 ^ 17 = 0 || c % 2 ^ 17 > 65536 || bytes > 2 ^ 18) = true := by
    simp only [Bool.or_eq_true, decide_eq_true_eq, bne_iff_ne, not_or, Nat.not_lt]
    exact ⟨⟨⟨⟨hty, not_not_intro hzero⟩, hne⟩, hle⟩, hsize⟩
  refine (s.checked_clean _ _ hc).trans ?_
  rw [htype, hcount, hmember, hdie, hslot, if_neg hfields, if_neg (State.mayName_passes hhigh hname), if_neg (Bool.eq_false_iff.1 hfull),
    State.remoteSource_ok _ _ ha htgt]
  rfl

/-! ### WLPUSHR (R357, R360) -/

/-- A clean packet at a multiple of 32 in the own L1 is read whole (R357). -/
theorem State.packetAt_own {s : State} {b : BitVec 4} {more : List Psn} {off m : Nat} (k : DWord → List Byte → Out)
    (hg : s.core.t.gang = false) (hc : ∀ p ∈ (s.srcA b).psn :: more, p = none) (ha : (s.srcA b).val.toNat % 32 = 0)
    (ho : ownOff (s.srcA b).val = some off) (hm : m = packetLen (plain (s.core.l1.readP off 8))) (h0 : 0 < m) (h256 : m ≤ 256)
    (hle : off + m ≤ 2 ^ 21) (hhead : psnOf (s.core.l1.readP off 8) = none) (hall : psnOf (s.core.l1.readP off m) = none) :
    s.packetAt b more k = k (s.srcA b).val (plain (s.core.l1.readP off m)) := by
  have hlen : (if packetLen (plain (s.core.l1.readP off 8)) = 0 || packetLen (plain (s.core.l1.readP off 8)) > 256 then 32
      else packetLen (plain (s.core.l1.readP off 8))) = m := by
    rw [← hm, if_neg (by simp; omega)]
  unfold State.packetAt
  simp only [hg, Bool.false_eq_true, if_false]
  rw [s.checked_clean _ _ hc, if_neg (by simp [ha]), ho]
  simp only [hlen]
  rw [s.checked_clean _ _ (by simpa using hhead), if_neg (by omega), s.checked_clean _ _ (by simpa using hall)]

/-- The header of a packet that WLPUSHR sends to the die its second word names, in the name of a member and under a view. -/
def State.pushrHdr (s : State) (self num : Nat) (view : Word) (v : Nat) : RemoteHdr :=
  { sender := self, group := s.lrec.group, view := view, die := v / 2 ^ 18 % 2 ^ 6, ack := some (s.core.cid, num) }

theorem exec_wlpushr_leaves {s : State} {k : BitVec 1} {a : BitVec 4} {z : BitVec 5} {off m : Nat}
    (hg : s.core.t.gang = false) (hc : ∀ p ∈ [(s.srcA a).psn, (s.srcS z).psn], p = none) (ha : (s.srcA a).val.toNat % 32 = 0)
    (ho : ownOff (s.srcA a).val = some off) (hm : m = packetLen (plain (s.core.l1.readP off 8))) (h0 : 0 < m) (h256 : m ≤ 256)
    (hle : off + m ≤ 2 ^ 21) (hhead : psnOf (s.core.l1.readP off 8) = none) (hall : psnOf (s.core.l1.readP off m) = none) :
    let g := s.selfOf s.lrec.group
    let w := g.2.viewOf s.lrec.group
    let v := (s.srcS z).val.toNat
    v / 2 ^ 24 = 0 → (w.2.lrec.multi = true ∨ v % 2 ^ 18 = g.1) → w.2.core.t.tl4Full (k == 1) = false →
    exec (.wlpushr k a z) s = .next ((w.2.startRemote (k == 1)).1.leave false
      (.pushr (w.2.pushrHdr g.1 (w.2.startRemote (k == 1)).2 w.1 v) (v % 2 ^ 18) (plain (s.core.l1.readP off m)))) := by
  intro g w v hv hname hfull
  have hhigh : bits v 31 24 = 0 := by rw [bits_eq_div_mod, hv, Nat.zero_mod]
  have hmember : bits v 17 0 = v % 2 ^ 18 := by simp [bits_eq_div_mod]
  have hdie : bits v 23 18 = v / 2 ^ 18 % 2 ^ 6 := bits_eq_div_mod ..
  change execWlpushr k a z s = _
  rw [execWlpushr, State.packetAt_own _ hg hc ha ho hm h0 h256 hle hhead hall]
  dsimp only
  rw [hmember, hdie, if_neg (State.mayName_passes hhigh hname), if_neg (Bool.eq_false_iff.1 hfull)]
  rfl

/-! ### An operation to the member itself is sent (R194, R361) -/

/-- What arrives at the own device of an operation that leaves a core is due, and the core counts it as undelivered. -/
theorem State.undelivered_push (s : State) (cid l : Nat) (i : Instr) :
    let u := (s.undelivered cid l).push i
    u.agenda = s.agenda ++ [i] ∧ (u.coreAt cid).t.rputs = (s.coreAt cid).t.rputs + 1 ∧ u.mem = s.mem ∧ u.outbox = s.outbox := by
  refine ⟨by simp [State.undelivered], ?_, by simp [State.undelivered], by simp [State.undelivered]⟩
  rw [State.coreAt_congr (s := s.onCore cid fun c => { c with t := { c.t with rputs := c.t.rputs + 1 } }) (by simp [State.undelivered])
    (by simp [State.undelivered]), State.coreAt_onCore_self]

theorem State.sendPut_self (s : State) {p : PutReq} (bs : List PByte) {cid n : Nat} (h : p.member = p.sender) (ha : p.ack = some (cid, n)) :
    s.sendPut p bs = (s.undelivered cid p.lslot).push (.rputArrival { p with bytes := plain bs, poisoned := poisonedWords bs }) := by
  simp [State.sendPut, h, ha]

theorem State.sendRed_self (s : State) {con : Contribution} (bs : List PByte) {cid n : Nat} (ha : con.ack = some (cid, n))
    (hc : SMap.find? s.catchUp con.group = none) :
    s.sendRed con con.sender bs
      = (s.undelivered cid con.lslot).push (.contributionStaged con.die { con with elems := plain bs, poison := (psnOf bs).isSome }) := by
  simp [State.sendRed, State.undelivered, ha, hc]

theorem State.sendPushr_self (s : State) (hdr : RemoteHdr) (bs : List Byte) (l cid : Nat) :
    s.sendPushr hdr hdr.sender bs l cid = (s.undelivered cid l).push (.packetAccept hdr.die l (.remote hdr none) bs) :=
  if_pos rfl

/-! ### The statement -/

/-- Settles O49: each word by the lemma that says what it puts behind the waiting accesses, and each operation sent to the member itself by what
`State.undelivered` and the arrival that is due leave. -/
theorem remoteWords : Obligations.RemoteWords := by
  refine ⟨?issue, ?send⟩
  case issue =>
    intro s k a t l v n z e g w ack line left num
    refine ⟨fun ha ht hl hv => ?put, fun ha hn hl => ?red, ?pushr⟩
    case put =>
      have hc : ∀ p ∈ [(s.srcA a).psn, (s.srcA t).psn, (s.srcS l).psn, (s.srcS v).psn], p = none := by simp [ha, ht, hl, hv]
      refine ⟨exec_rput_badLength hc, fun h0 h1 h2 hmem hname hfull htal htlt haal htgt => ?_⟩
      exact ⟨_, _, exec_rput_leaves hc h0 h1 h2 hmem hname hfull htal htlt haal htgt, g.2.startRemote_leave ack _, rfl, rfl, rfl,
        by rw [State.putFrom, State.startRemote_num]⟩
    case red =>
      have hc : ∀ p ∈ [(s.srcA a).psn, (s.srcS n).psn, (s.srcS l).psn], p = none := by simp [ha, hn, hl]
      intro c v ty count size hty hmid hne hle hsize hhigh hname hfull hal htgt
      exact ⟨_, _, exec_rred_leaves hc hty hmid hne hle hsize hhigh hname hfull hal htgt, w.2.startRemote_leave ack _, rfl, rfl, rfl, rfl, rfl,
        rfl, by rw [State.contributionFrom, State.startRemote_num]⟩
    case pushr =>
      intro off m hg ha hal ho hm h0 h256 hle hhead hall hz hhigh hname hfull
      exact ⟨_, _, exec_wlpushr_leaves hg (by simp [ha, hz]) hal ho hm h0 h256 hle hhead hall hhigh hname hfull, w.2.startRemote_leave ack _, rfl,
        rfl, rfl, by rw [State.pushrHdr, State.startRemote_num]⟩
  case send =>
    intro s p con hdr bs pkt cid n l sent
    refine ⟨fun h ha => ?_, fun ha hcatch => ?_, ?_⟩
    · rw [s.sendPut_self bs h ha]
      exact s.undelivered_push ..
    · rw [s.sendRed_self bs ha hcatch]
      exact s.undelivered_push ..
    · rw [s.sendPushr_self]
      exact s.undelivered_push ..

end Sys2Proof.Machine
end

section
/-! Exact sums and products of decoded values (R202, R298, R299): what rounding starts from, read as rational numbers. -/

namespace Sys2Proof.Machine

/-! ### Dyadic values as rationals (R202) -/

/-- The rational number that a dyadic value stands for. -/
def Dy.toRat (x : Dy) : Rat := x.num * (2 : Rat) ^ x.exp

theorem two_zpow_add (e g : Int) : (2 : Rat) ^ (e + g) = 2 ^ e * 2 ^ g := Rat.zpow_add (by decide) e g

/-- A dyadic value brought to a lower exponent stands for the same number. -/
theorem Dy.at_mul_two_zpow (x : Dy) {e : Int} (h : e ≤ x.exp) : (x.at e : Rat) * 2 ^ e = x.toRat := by
  have hpow : ((pow2 (x.exp - e) : Nat) : Rat) = 2 ^ (x.exp - e) := by
    rw [pow2, Rat.natCast_pow, Rat.natCast_ofNat, ← Rat.zpow_natCast, Int.toNat_of_nonneg (by omega)]
  rw [Dy.at, Dy.toRat, Rat.intCast_mul, Rat.intCast_natCast, hpow, Rat.mul_assoc, ← two_zpow_add, Int.sub_add_cancel]

theorem Dy.toRat_add (x y : Dy) : (x.add y).toRat = x.toRat + y.toRat := by
  rw [← x.at_mul_two_zpow (Int.min_le_left _ y.exp), ← y.at_mul_two_zpow (Int.min_le_right x.exp _), ← Rat.add_mul, ← Rat.intCast_add]
  rfl

theorem Dy.toRat_eq_zero_iff (x : Dy) : x.toRat = 0 ↔ x.num = 0 := by
  have hpow : (2 : Rat) ^ x.exp ≠ 0 := (Rat.ne_of_lt (Rat.zpow_pos (by decide))).symm
  rw [Dy.toRat, Rat.mul_eq_zero, Rat.intCast_eq_zero_iff, or_iff_left hpow]

/-- Sign and magnitude written out, as the exact value of a finite number. -/
theorem ratOf_false (a : Nat) (e : Int) : ratOf false a e = a * 2 ^ e := by
  rw [ratOf, if_neg Bool.false_ne_true, Rat.one_mul]

theorem ratOf_true (a : Nat) (e : Int) : ratOf true a e = -(a * 2 ^ e) := by
  rw [ratOf, if_pos rfl, Rat.neg_mul, Rat.one_mul, Rat.neg_mul]

theorem ratOf_zero (n : Bool) (e : Int) : ratOf n 0 e = 0 := by
  rw [ratOf, Rat.natCast_eq_zero_iff.2 rfl, Rat.mul_zero, Rat.zero_mul]

theorem FVal.toRat_dy (n : Bool) (a : Nat) (e : Int) : (FVal.fin n a e).dy.toRat = ratOf n a e := by
  cases n with
  | false => rw [ratOf_false, ← Rat.intCast_natCast]; rfl
  | true => rw [ratOf_true, ← Rat.intCast_natCast, ← Rat.neg_mul, ← Rat.intCast_neg]; rfl

/-- Sign and magnitude of a dyadic value give it back; a zero may take either sign. -/
theorem Dy.ratOf_natAbs (z : Dy) {k : Bool} (h : z.num ≠ 0 → k = decide (z.num < 0)) : ratOf k z.num.natAbs z.exp = z.toRat := by
  rcases Int.lt_trichotomy z.num 0 with hneg | hzero | hpos
  · rw [h (Int.ne_of_lt hneg), decide_eq_true hneg, ratOf_true, ← Rat.intCast_natCast, Int.ofNat_natAbs_of_nonpos (Int.le_of_lt hneg),
      Rat.intCast_neg, Rat.neg_mul, Rat.neg_neg, Dy.toRat]
  · rw [hzero, Int.natAbs_zero, ratOf_zero, z.toRat_eq_zero_iff.2 hzero]
  · rw [h (Int.ne_of_gt hpos), decide_eq_false (Int.lt_asymm hpos), ratOf_false, ← Rat.intCast_natCast,
      Int.natAbs_of_nonneg (Int.le_of_lt hpos), Dy.toRat]

/-! ### Sums and products of finite values (R298) -/

/-- The sum before rounding of two finite values; its sign is that of the sum, and that of an exact zero as R298 says. -/
theorem fsum_fin (n m : Bool) (a b : Nat) (e g : Int) :
    ∃ k c f, fsum (.fin n a e) (.fin m b g) = (.fin k c f, 0) ∧ ratOf k c f = ratOf n a e + ratOf m b g
      ∧ (ratOf n a e + ratOf m b g = 0 → k = (n && m && a == 0 && b == 0)) := by
  let z := Dy.add (FVal.fin n a e).dy (FVal.fin m b g).dy
  have hz : z.toRat = ratOf n a e + ratOf m b g := by rw [Dy.toRat_add, FVal.toRat_dy, FVal.toRat_dy]
  refine ⟨_, _, _, rfl, (z.ratOf_natAbs fun hne => if_neg hne).trans hz, fun h0 => ?_⟩
  have hnum : z.num = 0 := z.toRat_eq_zero_iff.1 (hz.trans h0)
  rw [if_pos hnum]
  simp only [Bool.and_assoc, Bool.and_comm, Bool.and_left_comm]

theorem ratOf_mul (n m : Bool) (a b : Nat) (e g : Int) : ratOf (n != m) (a * b) (e + g) = ratOf n a e * ratOf m b g := by
  have hsign : (if (n != m) = true then -1 else 1 : Rat) = (if n = true then -1 else 1) * (if m = true then -1 else 1) := by
    cases n <;> cases m <;> grind
  rw [ratOf, ratOf, ratOf, hsign, Rat.natCast_mul, two_zpow_add]
  grind

/-- Settles O31: the sum by `fsum_fin`, the product by `ratOf_mul`; the invalid operations are cases of the definitions. -/
theorem floatExact : Obligations.FloatExact := by
  refine ⟨fsum_fin, fun n m a b e g => ⟨_, _, _, rfl, ratOf_mul n m a b e g, rfl⟩, rfl, rfl, fun n m e => ⟨rfl, rfl⟩⟩

end Sys2Proof.Machine
end

section
/-! How a word of the stream array queues its operation and takes its numbers of tl2 (R326, R330, R333). -/

namespace Sys2Proof.Machine

/-! ### A step that is due stands on the agenda -/

@[simp] theorem State.pushOnce_core (s : State) (i : Instr) : (s.pushOnce i).core = s.core := s.pushOnce_keeps State.core (fun _ _ => rfl) i

theorem State.mem_pushOnce_agenda (s : State) (i : Instr) : i ∈ (s.pushOnce i).agenda := by
  unfold State.pushOnce
  split
  next h => simpa using h
  next => exact List.mem_append_right _ (List.mem_singleton_self i)

/-- A step that becomes due changes no memory. -/
theorem State.sameMemory_pushOnce {s u : State} (i : Instr) (h : s.sameMemory u) : s.sameMemory (u.pushOnce i) :=
  (u.pushOnce_keeps s.sameMemory (fun _ _ => rfl) i).mpr h

/-! ### An operation queued (R326) -/

/-- A thread with one more operation in the queue of its array, which takes the next numbers of tl2. -/
def Thread.withArrayOp (t : Thread) (numbers : Nat) (op : ArrayOp) : Thread :=
  { t with
    tl := t.tl.set 2 { t.tl[2] with issued := t.tl[2].issued + numbers }
    arr := { t.arr with queue := t.arr.queue ++ [op] } }

theorem State.enqueue_eq (s : State) {numbers : Nat} (h : numbers = 1 ∨ numbers = 2) (f : Nat → ArrayOp) :
    s.enqueue numbers f
      = (s.mapT fun t => t.withArrayOp numbers (f (t.tl[2].issued + 1))).pushOnce (.arrayOpStart s.core.cid) := by
  rcases h with rfl | rfl <;> simp [State.enqueue, State.mapT, Thread.withArrayOp, Thread.takeNum]

/-- Queueing an operation moves tl2 and the queue of the thread alone. -/
theorem State.enqueue_thread (s : State) {numbers : Nat} (h : numbers = 1 ∨ numbers = 2) (f : Nat → ArrayOp) :
    (s.enqueue numbers f).core.t = s.core.t.withArrayOp numbers (f (s.core.t.tl[2].issued + 1)) := by
  rw [s.enqueue_eq h, State.pushOnce_core, State.mapT_t]

/-- From s to u one operation of the array has been queued with so many numbers of tl2 and is due to begin, and no register, latch or memory
has changed (R326). -/
def State.queues (s u : State) (numbers : Nat) (op : ArrayOp) : Prop :=
  u.core.t.arr.queue = s.core.t.arr.queue ++ [op] ∧ u.core.t.tl[2].issued = s.core.t.tl[2].issued + numbers
  ∧ u.core.t.tl[2].val = s.core.t.tl[2].val ∧ .arrayOpStart s.core.cid ∈ u.agenda ∧ s.core.t.sameRegs u.core.t ∧ s.sameMemory u

theorem State.queues_enqueue (s : State) {numbers : Nat} (h : numbers = 1 ∨ numbers = 2) (f : Nat → ArrayOp) :
    s.queues (s.enqueue numbers f) numbers (f (s.core.t.tl[2].issued + 1)) := by
  rw [s.enqueue_eq h]
  refine ⟨by simp [Thread.withArrayOp], by simp [Thread.withArrayOp], by simp [Thread.withArrayOp], State.mem_pushOnce_agenda _ _, ?_,
    State.sameMemory_pushOnce _ ⟨rfl, rfl, rfl, rfl, rfl, rfl, rfl⟩⟩
  rw [State.pushOnce_core]
  exact s.core.t.sameRegs_refl

/-! ### R326's limit -/

theorem State.room_passes {s : State} {numbers : Nat} (k : Out) (h : s.core.t.arrayFull numbers = false) : s.room numbers k = k :=
  if_neg (by simp [h])

theorem State.room_full {s : State} {numbers : Nat} (k : Out) (h : s.core.t.arrayFull numbers = true) :
    s.room numbers k = s.trap 1 .illegal 33 := if_pos h

/-! ### WBLD, WLATCH, SCLR (R327, R329, R337) -/

theorem exec_wbld_queues {s : State} {a : BitVec 4} {r : BitVec 5} {off : Nat} (hroom : s.core.t.arrayFull 1 = false)
    (ha : (s.srcA a).psn = none) (hr : (s.srcS r).psn = none) (hal : (s.srcA a).val.toNat % 64 = 0) (ho : ownOff (s.srcA a).val = some off) :
    let y := (s.srcS r).val.toNat
    off + 64 * (y / 2 ^ 13 % 2 ^ 13) ≤ 2 ^ 21 → y % 2 ^ 13 + y / 2 ^ 13 % 2 ^ 13 ≤ 8192 →
    exec (.wbld a r) s = .next (s.enqueue 1 fun n => .wbld s.core.t.moveSeq n off (y / 2 ^ 13 % 2 ^ 13) (y % 2 ^ 13)) := by
  intro y hsrc hdst
  have hlen : bits y 25 13 = y / 2 ^ 13 % 2 ^ 13 := bits_eq_div_mod ..
  have hplace : bits y 12 0 = y % 2 ^ 13 := by simp [bits_eq_div_mod]
  refine (State.room_passes _ hroom).trans ((s.checked_clean _ _ (by simp [ha, hr])).trans ?_)
  dsimp only
  rw [if_neg (by simp [hal]), ho, hlen, hplace]
  dsimp only
  rw [if_neg (by omega), if_neg (by omega)]

theorem exec_wlatch_queues {s : State} {w : BitVec 2} {r : BitVec 5} (hroom : s.core.t.arrayFull 1 = false) (hr : (s.srcS r).psn = none) :
    let y := (s.srcS r).val.toNat
    y / 2 ^ 14 % 8 ≠ 0 → y % 2 ^ 13 + (if y / 2 ^ 13 % 2 = 1 then 52 else 68) ≤ 8192 →
    exec (.wlatch w r) s = .next (s.enqueue 1 fun n =>
      .wlatch n w.toNat (y.testBit 18) (y.testBit 17) (y / 2 ^ 14 % 8) (y / 2 ^ 13 % 2 == 1) (y % 2 ^ 13)) := by
  intro y hp hplace
  have hprec : bits y 16 14 = y / 2 ^ 14 % 8 := bits_eq_div_mod ..
  have hplace' : bits y 12 0 = y % 2 ^ 13 := by simp [bits_eq_div_mod]
  have hbit : ∀ i, bits y i i = y / 2 ^ i % 2 := fun i => by simp [bits_eq_div_mod]
  have htest : ∀ i, (bits y i i == 1) = y.testBit i := fun i => by rw [hbit, Nat.testBit_eq_decide_div_mod_eq]; rfl
  refine (State.room_passes _ hroom).trans ((s.checked_clean _ _ (by simp [hr])).trans ?_)
  dsimp only
  rw [htest 18, htest 17, hbit 13, hprec, hplace', if_neg hp, if_neg (by simpa using hplace)]

theorem exec_sclr_queues {s : State} (hroom : s.core.t.arrayFull 1 = false) :
    exec .sclr s = .next ((s.mapT fun t => { t with arr := { t.arr with queued := [] } }).enqueue 1 fun n => .sclr n) :=
  State.room_passes _ hroom

/-! ### SGO (R330) -/

/-- The state in which SGO queues its nest: the table is active, and its pairs are counted for the rows that it reaches. -/
def State.sgoReady (s : State) (n : BitVec 3) : State :=
  let tab : NestTab := s.core.t.ntShadow[n.toNat]
  s.mapT fun t => { t with
    ntActive := t.ntActive.set n.toNat tab n.isLt
    arr := { t.arr with
      queued := tab.rowsReached.foldl (fun m r => SMap.insert m r (SMap.getD m r 0 + (tab.kb + 1) * tab.total)) t.arr.queued } }

theorem exec_sgo_queues {s : State} {n : BitVec 3} {p : BitVec 8} :
    let t := s.core.t
    let tab : NestTab := t.ntShadow[n.toNat]
    let cfg := t.nestCfg p.toNat
    let numbers := if tab.pfx = 0 then 1 else 2
    t.tableBusy n.toNat = false → t.arrayFull numbers = false → tab.malformed cfg.m cfg.sr = none →
    (∀ r ∈ tab.rowsReached, SMap.getD t.arr.queued r 0 + (tab.kb + 1) * tab.total ≤ 2 ^ 20) →
    exec (.sgo n p) s = .next (((s.sgoReady n).enqueue numbers fun k => .sgo t.moveSeq k n.toNat cfg none).later 1
      (.ebnd (ebndOf tab.products cfg.m cfg.m cfg.xnor))) := by
  intro t tab cfg numbers hbusy hroom hform hrows
  have hcount : ¬ tab.rowsReached.any (fun r => SMap.getD t.arr.queued r 0 + (tab.kb + 1) * tab.total > 2 ^ 20) = true := by
    simpa using hrows
  refine (if_neg (by rw [hbusy]; decide)).trans ((State.room_passes _ hroom).trans ?_)
  rw [hform]
  exact if_neg hcount

theorem State.sgoReady_activates (s : State) (n : BitVec 3) :
    (s.sgoReady n).core.t.activeTab n.toNat = s.core.t.ntShadow[n.toNat]
    ∧ (∀ k : Fin 8, k.val ≠ n.toNat → (s.sgoReady n).core.t.ntActive[k] = s.core.t.ntActive[k]) := by
  refine ⟨?_, fun k hk => ?_⟩
  · have hn : n.toNat < 8 := n.isLt
    simp [State.sgoReady, Thread.activeTab, hn]
  · exact Vector.getElem_set_ne n.isLt k.isLt (Ne.symm hk)

/-! ### SSTOP (R333) -/

/-- The state in which SSTOP has set the stop of the operation at the head of the queue: one that is parked is due to go on. -/
def State.sstopReady (s : State) (j : Nat) : State :=
  let u := s.mapT fun t => { t with arr := { t.arr with queue := t.arr.queue.modify 0 (ArrayOp.stopAt j) } }
  if s.core.t.arr.phase == .parked then u.pushOnce (.arrayOpComplete s.core.cid) else u

theorem State.sstopReady_thread (s : State) (j : Nat) :
    (s.sstopReady j).core.t = { s.core.t with
      arr := { s.core.t.arr with queue := s.core.t.arr.queue.modify 0 (ArrayOp.stopAt j) } } := by
  unfold State.sstopReady
  dsimp only
  split
  · rw [State.pushOnce_core, State.mapT_t]
  · rfl

theorem State.sstopReady_sameMemory (s : State) (j : Nat) : s.sameMemory (s.sstopReady j) := by
  unfold State.sstopReady
  dsimp only
  split
  · exact State.sameMemory_pushOnce _ ⟨rfl, rfl, rfl, rfl, rfl, rfl, rfl⟩
  · exact ⟨rfl, rfl, rfl, rfl, rfl, rfl, rfl⟩

/-- SSTOP where the only operation of the queue is a nest of its table that parks and has no stop: EBND follows at +2. -/
theorem exec_sstop_lone {s : State} {n : BitVec 3} {j : BitVec 5} {at' num : Nat} {cfg : NestCfg} :
    let t := s.core.t
    let tab := t.activeTab n.toNat
    t.arr.queue = [.sgo at' num n.toNat cfg none] → tab.pfx ≠ 0 → tab.pfx ≤ j.toNat → j.toNat ≤ cfg.m →
    exec (.sstop n j) s = .next ((s.sstopReady j.toNat).later 2 (.ebnd (ebndOf tab.products cfg.m j.toNat cfg.xnor))) := by
  intro t tab hq hpfx hlo hhi
  have hwait : t.waitsStop n.toNat (.sgo at' num n.toNat cfg none) = true := by simpa [Thread.waitsStop] using hpfx
  have hfind : t.arr.queue.findIdx? (t.waitsStop n.toNat) = some 0 := by rw [hq]; simp [hwait]
  have hj : ¬ (decide (j.toNat < tab.pfx) || decide (cfg.m < j.toNat)) = true := by simp; omega
  change execSstop n j s = _
  unfold execSstop
  dsimp only
  rw [hfind, hq]
  dsimp only [List.getElem?_cons_zero]
  rw [if_neg hj]
  simp [State.sstopReady, State.mapT, hq, t, tab]

/-! ### The statement -/

/-- Settles O39: each word by the lemma that says what it queues, and what queueing leaves by `State.queues_enqueue`. -/
theorem arrayQueueing : Obligations.ArrayQueueing := by
  intro s a r w n p j t num y queued
  refine ⟨fun hroom ha hr => ⟨fun off hal ho hsrc hdst => ?wbld, fun hp hplace => ?wlatch, ?sclr⟩, ?sgo, ?sstop, fun hfull => ?full⟩
  case wbld => exact ⟨_, exec_wbld_queues hroom ha hr hal ho hsrc hdst, s.queues_enqueue (.inl rfl) _⟩
  case wlatch => exact ⟨_, exec_wlatch_queues hroom hr hp hplace, s.queues_enqueue (.inl rfl) _⟩
  case sclr =>
    refine ⟨_, exec_sclr_queues hroom, State.queues_enqueue _ (.inl rfl) _, ?_⟩
    rw [State.enqueue_thread _ (.inl rfl)]
    rfl
  case sgo =>
    intro tab cfg numbers hbusy hroom hform hrows
    have hnumbers : numbers = 1 ∨ numbers = 2 := (Decidable.em _).imp (if_pos ·) (if_neg ·)
    have hthread := (s.sgoReady n).enqueue_thread hnumbers fun k => .sgo t.moveSeq k n.toNat cfg none
    obtain ⟨hactive, hothers⟩ := s.sgoReady_activates n
    refine ⟨_, exec_sgo_queues hbusy hroom hform hrows, (s.sgoReady n).queues_enqueue hnumbers _, ?_, ?_, ?_⟩
    · exact (congrArg (Thread.activeTab · n.toNat) hthread).trans hactive
    · rw [State.later_t_ntActive, hthread]
      exact hothers
    · rw [State.later_flights, hthread]
      rfl
  case sstop =>
    intro at' num cfg hq hpfx hlo hhi
    have hthread := s.sstopReady_thread j.toNat
    refine ⟨_, exec_sstop_lone hq hpfx hlo hhi, ?_, ?_, ?_, s.sstopReady_sameMemory j.toNat, ?_⟩
    · rw [State.later_t_arr, hthread, hq]
      rfl
    · rw [State.later_flights, hthread]
    · exact Thread.sameRegs_trans (hthread ▸ t.sameRegs_refl) (State.later_sameRegs _ _ _)
    · rw [State.later_t_tl, hthread]
  case full => exact ⟨State.room_full _ hfull, State.room_full _ hfull, State.room_full _ hfull⟩

end Sys2Proof.Machine
end

section
/-! Equivalence words (R234, R364): an equivalence word whose descriptor lies beyond the virtual addresses traps (R277). -/

namespace Sys2Proof.Machine

/-! ### EQINIT with a descriptor at no virtual address (R173, R277) -/

/-- An address register with a bit of 63:56 set holds no virtual address: EQINIT of it is PAGE. -/
theorem exec_eqinit_beyond {s : State} {d : BitVec 5} {b : BitVec 4} {l : BitVec 10} (hs : s.core.t.landings < 32) (hp : (s.srcA b).psn = none)
    (ha : (s.srcA b).val.toNat % 64 = 0) (hhi : 2 ^ 56 ≤ (s.srcA b).val.toNat) : exec (.eqinit d b l) s = s.trap 3 .page (s.srcA b).val :=
  (s.slotFree_clean _ hs (by simpa using hp)).trans ((if_neg (by simp [ha])).trans (if_pos hhi))

/-- The reset state with 2^56 in a1: a multiple of 64 that is no virtual address. -/
def descBeyond : State := State.reset.mapT fun t => t.setA 1 ⟨0x0100000000000000, none⟩

theorem descBeyond_srcA : descBeyond.srcA 1 = ⟨0x0100000000000000, none⟩ := (Thread.getA_setA ..).trans (if_pos rfl)

/-- In that state EQINIT is a fault of the launch, and no operation is in flight. -/
theorem exec_eqinit_descBeyond : ∃ t, exec (.eqinit 0 1 0) descBeyond = .next t ∧ t.eqOps = [] := by
  have ha := congrArg PDWord.val descBeyond_srcA
  have htrap := exec_eqinit_beyond (s := descBeyond) (d := 0) (b := 1) (l := 0) (by decide) (by rw [descBeyond_srcA]) (by rw [ha]; decide)
    (by rw [ha]; decide)
  have hfault := descBeyond.trap_launchFault 3 (c := .page) (descBeyond.srcA 1).val none rfl (.inr rfl)
  exact ⟨_, htrap.trans hfault, rfl⟩

/-- Refutes O50, by its clause on EQINIT: the hypotheses do not say that bits 63:56 of the descriptor's address are 0, and for a multiple of 64 with
one of them set the word is PAGE (R277), as in `descBeyond`. -/
theorem not_equivalenceWords : ¬ Obligations.EquivalenceWords := by
  intro h
  have ha := congrArg PDWord.val descBeyond_srcA
  obtain ⟨hwords, -, -⟩ := h descBeyond 0 1 0 (by decide) (by rw [descBeyond_srcA])
  obtain ⟨⟨t, o, hexec, hops, -⟩, -⟩ := hwords (by rw [ha]; decide)
  obtain ⟨t', hexec', hnone⟩ := exec_eqinit_descBeyond
  have ht : t = t' := Host.Outcome.next.inj (hexec.symm.trans hexec')
  have hgrown : [] = descBeyond.eqOps ++ [o] := (ht ▸ hnone).symm.trans hops
  exact absurd hgrown (by simp)

end Sys2Proof.Machine
end

section
/-! Steps of the equivalence engine (R223, R226 to R234, R364): what an access that answers hands on, then the step of each phase of an operation. -/

namespace Sys2Proof.Machine

/-! ### Accesses of an operation that answer (R235, R378) -/

/-- An access that answers hands its value on, in the state that it leaves with the marks of the launch kept and the hold ended. -/
theorem State.eqThen_ok {α : Type} {s s' : State} {o : EqOp} {again : Instr} {x : EqAccess α} {v : α} (k : α → State → Out)
    (h : x = .ok (some v, s')) : s.eqThen o again x k = k v ((s'.eqKeep s o).unhold (.engine o.cid)) := by
  rw [h]
  rfl

theorem EqAccess.bind_ok {α β : Type} {x : EqAccess α} {v : α} {s : State} (k : α → State → EqAccess β) (h : x = .ok (some v, s)) :
    EqAccess.bind x k = k v s := by
  rw [h]
  rfl

/-- Two accesses of which both answer give both values. -/
theorem EqAccess.bind_pair {α β : Type} {x : EqAccess α} {v : α} {s s' : State} {y : α → State → EqAccess β} {u : β} (hx : x = .ok (some v, s))
    (hy : y v s = .ok (some u, s')) :
    (EqAccess.bind x fun a s => EqAccess.bind (y a s) fun b s => .ok (some (a, b), s)) = .ok (some (v, u), s') := by
  rw [EqAccess.bind_ok _ hx, EqAccess.bind_ok _ hy]

/-- An operation that counts as a write of device memory keeps no mark of its launch (R235). -/
theorem State.eqKeep_stores {o : EqOp} (h : o.kind.stores = true) (s s0 : State) : s.eqKeep s0 o = s := by
  refine if_neg ?_
  rintro (hk | hk | hk) <;> rw [hk] at h <;> cases h

theorem EqKind.stores_of_holder {k : EqKind} (h : k ∈ [EqKind.init, .snap, .undo, .drop, .label, .reduce]) : k.stores = true := by
  cases k with
  | fd | sz | cnt => exact absurd h (by decide)
  | _ => rfl

/-- With the log closed a write has no entry (R230). -/
theorem State.logged_closed {s s' : State} {w : Who} {f : Forest} (kind i old : Nat) {new : Nat} (reserved : Bool) (hc : f.isOpen = false)
    (hw : s.eqWrite w (if kind = 0 then f.parentAt i else f.sizeAt i) 4 new = .ok (some (), s')) :
    s.logged w f kind i old new reserved = .ok (some f, s') := by
  rw [State.logged, if_pos (by simp [hc])]
  exact EqAccess.bind_ok _ hw

section
variable {s s1 s2 : State} {o : EqOp} {f : Forest} (ho : s.eqOp? o.id = some o)
include ho

/-! ### Find (R223, R226) -/

/-- A find under way reads the descriptor and makes its next access. -/
theorem execEqFindHop_find {second : Bool} (hp : o.phase = .find second) (hf : s.eqForest o.who o.desc = .ok (some f, s1)) :
    execEqFindHop o.id s = ((s1.eqKeep s o).unhold (.engine o.cid)).findHop o f := by
  simp only [execEqFindHop, ho, hp]
  exact State.eqThen_ok _ hf

omit ho

/-- The access of a find that is back at an element to compress it. -/
theorem State.findHop_back {p g : Nat} (hb : o.back = some (p, g)) (hc : s.compress o.who f o.x p g = .ok (some (), s1)) :
    s.findHop o f = .next ((((s1.eqKeep s o).unhold (.engine o.cid)).setEqOp { o.goTo p with back := none }).push (.eqFindHop o.id)) := by
  simp only [State.findHop, hb]
  exact State.eqThen_ok _ hc

/-- The access of a find that reads the parent of an element of which no child is named. -/
theorem State.findHop_forth {p : Nat} (hb : o.back = none) (hu : o.up = none)
    (hr : s.eqRead o.who (f.parentAt o.x) 4 = .ok (some p, s1)) :
    let u := (s1.eqKeep s o).unhold (.engine o.cid)
    s.findHop o f = if p = o.x then u.foundRoot o f p else .next ((u.setEqOp { o.goTo p with up := some o.x }).push (.eqFindHop o.id)) := by
  simp only [State.findHop, hb, hu]
  exact State.eqThen_ok _ hr

/-- The access of a find that reads the parent of the parent of the element x. -/
theorem State.findHop_up {p x : Nat} (hb : o.back = none) (hu : o.up = some x)
    (hr : s.eqRead o.who (f.parentAt o.x) 4 = .ok (some p, s1)) :
    let u := (s1.eqKeep s o).unhold (.engine o.cid)
    s.findHop o f = .next ((u.setEqOp (if p = o.x then { o with up := none } else { o.goTo x with up := none, back := some (o.x, p) })).push
      (.eqFindHop o.id)) := by
  simp only [State.findHop, hb, hu]
  refine (State.eqThen_ok _ hr).trans ?_
  split <;> rfl

include ho

/-! ### Link (R227) -/

/-- The link of two roots on a closed log: the reservation of none is written, and the compare-and-swap comes. -/
theorem execEqLink_closed (hk : o.kind = .un) (hp : o.phase = .link) (hne : o.ra ≠ o.rb) (hc : f.isOpen = false)
    (hf : s.eqForest o.who o.desc = .ok (some f, s1)) (hput : (s1.unhold (.engine o.cid)).putForest o.who f = .ok (some (), s2)) :
    execEqLink o.id s = ((s2.unhold (.engine o.cid)).setEqOp o).eqCas o (min o.ra o.rb) (max o.ra o.rb) := by
  have hkeep := State.eqKeep_stores (o := o) (by rw [hk]; rfl)
  have hdiff : min o.ra o.rb ≠ max o.ra o.rb := by omega
  have hneed : (if f.isOpen && o.resv == 0 then 2 else 0) = 0 := by simp [hc]
  unfold execEqLink
  simp only [ho]
  rw [if_neg (by simp [hp]), State.eqThen_ok _ hf, hkeep, if_neg hdiff]
  simp only [hneed, Nat.add_zero]
  rw [if_neg (by simp), State.eqThen_ok _ hput, hkeep]

omit ho

/-- The compare-and-swap of a root's parent on a closed log makes the higher root a child of the lower, and takes one from COUNT. -/
theorem State.eqCas_root {s3 s4 s5 : State} {lo hi sz : Nat} (hk : o.kind = .un) (hc : f.isOpen = false)
    (hf : s.eqForest o.who o.desc = .ok (some f, s1)) (hr : s1.eqRead o.who (f.parentAt hi) 4 = .ok (some hi, s2))
    (hsz : (s2.unhold (.engine o.cid)).eqRead o.who (f.sizeAt hi) 4 = .ok (some sz, s3))
    (hw : s3.eqWrite o.who (f.parentAt hi) 4 lo = .ok (some (), s4))
    (hput : s4.putForest o.who { f with count := f.count + 2 ^ 32 - 1 } = .ok (some (), s5)) :
    s.eqCas o lo hi = .next (((s5.unhold (.engine o.cid)).setEqOp { o.goTo lo with dval := sz, resv := o.resv - 1, phase := .delta }).push
      (.eqSizeDelta o.id)) := by
  have hkeep := State.eqKeep_stores (o := o) (by rw [hk]; rfl)
  have hlink : (EqAccess.bind ((s2.unhold (.engine o.cid)).eqRead o.who (f.sizeAt hi) 4) fun sz s =>
      EqAccess.bind (s.logged o.who f 0 hi hi lo (0 < o.resv)) fun f s =>
        EqAccess.bind (s.putForest o.who { f with count := f.count + 2 ^ 32 - 1 }) fun _ s => .ok (some sz, s)) = .ok (some sz, s5) := by
    rw [EqAccess.bind_ok _ hsz, EqAccess.bind_ok _ (State.logged_closed 0 hi hi (0 < o.resv) hc hw), EqAccess.bind_ok _ hput]
  unfold State.eqCas
  dsimp only
  rw [State.eqThen_ok _ (EqAccess.bind_pair hf hr), hkeep, if_neg (by simp), State.eqThen_ok _ hlink, hkeep]

include ho

/-! ### Size delta (R228) -/

/-- A delta that has come to an element with a parent is sent on to that parent. -/
theorem execEqSizeDelta_sent {p : Nat} (hk : o.kind = .un) (hp : o.phase = .delta) (hf : s.eqForest o.who o.desc = .ok (some f, s1))
    (hr : s1.eqRead o.who (f.parentAt o.x) 4 = .ok (some p, s2)) (hne : p ≠ o.x) :
    execEqSizeDelta o.id s = .next (((s2.unhold (.engine o.cid)).setEqOp (o.goTo p)).push (.eqSizeDelta o.id)) := by
  have hkeep := State.eqKeep_stores (o := o) (by rw [hk]; rfl)
  simp only [execEqSizeDelta, ho, hp, bne_self_eq_false, Bool.false_eq_true, if_false]
  rw [State.eqThen_ok _ (EqAccess.bind_pair hf hr), hkeep, if_pos (bne_iff_ne.2 hne)]

/-- A delta that has come to a root is added to its SIZE, on a closed log. -/
theorem execEqSizeDelta_added {s3 s4 : State} {sz : Nat} (hk : o.kind = .un) (hp : o.phase = .delta) (hc : f.isOpen = false)
    (hf : s.eqForest o.who o.desc = .ok (some f, s1)) (hr : s1.eqRead o.who (f.parentAt o.x) 4 = .ok (some o.x, s2))
    (hsz : (s2.unhold (.engine o.cid)).eqRead o.who (f.sizeAt o.x) 4 = .ok (some sz, s3))
    (hw : s3.eqWrite o.who (f.sizeAt o.x) 4 ((sz + o.dval) % 2 ^ 32) = .ok (some (), s4)) :
    execEqSizeDelta o.id s = .next ((s4.unhold (.engine o.cid)).eqDone { o with resv := 0 } (word32 0)) := by
  have hkeep := State.eqKeep_stores (o := o) (by rw [hk]; rfl)
  have hadd : (EqAccess.bind ((s2.unhold (.engine o.cid)).eqRead o.who (f.sizeAt o.x) 4) fun sz s =>
      s.logged o.who f 1 o.x sz ((sz + o.dval) % 2 ^ 32) (0 < o.resv)) = .ok (some f, s4) := by
    rw [EqAccess.bind_ok _ hsz]
    exact State.logged_closed 1 o.x sz (0 < o.resv) hc hw
  simp only [execEqSizeDelta, ho, hp, bne_self_eq_false, Bool.false_eq_true, if_false]
  rw [State.eqThen_ok _ (EqAccess.bind_pair hf hr), hkeep, if_neg (by simp), State.eqThen_ok _ hadd, hkeep]

/-! ### Operations that hold the forest (R230, R232) -/

/-- A holder that need not wait and passes its checks marks UNDOING and holds the forest, with its status by R229. -/
theorem execEqHoldEnd_accepted (hk : o.kind.stores = true) (hp : o.phase = .start) (hwait : s.eqWaits o = false) (hfit : o.objsFit f = true)
    (hf : s.eqCheck o.who o.desc = .ok (some f, s1))
    (hput : (s1.unhold (.engine o.cid)).putForest o.who { f with undoing := true } = .ok (some (), s2)) :
    execEqHoldEnd o.id s = .next ((((s2.unhold (.engine o.cid)).eqMark o f).setEqOp
      { o with phase := .hold, result := word32 (o.status f) }).push (.eqHoldEnd o.id)) := by
  have hkeep := State.eqKeep_stores hk
  simp only [execEqHoldEnd, ho, hp, hwait, Bool.false_eq_true, if_false]
  rw [State.eqThen_ok _ hf, hkeep, if_neg (by simp [hfit]), State.eqThen_ok _ hput, hkeep]

/-- A holder that has the forest for itself makes its writes, and its status lands. -/
theorem execEqHoldEnd_performed (hp : o.phase = .hold) (hothers : s.eqOthers o = false) (hf : s.eqForest o.who o.desc = .ok (some f, s1))
    (hheld : s1.eqHeld o f = .ok (some (), s2)) :
    execEqHoldEnd o.id s = .next (((s2.eqKeep s o).unhold (.engine o.cid)).eqDone o o.result) := by
  simp only [execEqHoldEnd, ho, hp, hothers, hf, Bool.false_eq_true, if_false]
  exact State.eqThen_ok _ hheld

omit ho

/-- EQSNAP whose check passes opens the log. -/
theorem State.eqHeld_snap (hk : o.kind = .snap) (h0 : o.status f = 0) :
    s.eqHeld o f = s.putForest o.who { f with isOpen := true, used := 0, snap := f.count, undoing := false } := by
  simp [State.eqHeld, h0, hk]

/-- EQDROP whose check passes closes the log. -/
theorem State.eqHeld_drop (hk : o.kind = .drop) (h0 : o.status f = 0) :
    s.eqHeld o f = s.putForest o.who { f with isOpen := false, used := 0, undoing := false } := by
  simp [State.eqHeld, h0, hk]

include ho

/-! ### COUNT and completion (R229, R234) -/

/-- An EQCNT that need not wait delivers COUNT. -/
theorem execEqOpComplete_count (hp : o.phase = .start) (hk : o.kind = .cnt) (hwait : s.eqWaits o = false)
    (hf : s.eqCheck o.who o.desc = .ok (some f, s1)) :
    execEqOpComplete o.id s = .next (((s1.eqKeep s o).unhold (.engine o.cid)).eqDone o (word32 f.count)) := by
  simp only [execEqOpComplete, ho, hp, hk, hwait, bne_self_eq_false, Bool.false_eq_true, if_false]
  exact State.eqThen_ok _ hf

theorem execEqOpComplete_retires (hp : o.phase = .done) : execEqOpComplete o.id s = .next (s.eqRetire o) := by
  simp only [execEqOpComplete, ho, hp]

end

/-! ### What is left of an operation that retires -/

theorem State.eqRetire_eqOps (s : State) (o : EqOp) : (s.eqRetire o).eqOps = s.eqOps.filter fun p => p.id != o.id :=
  congrArg (List.filter _) (s.onCore_eqOps ..)

theorem State.eqRetire_gone (s : State) (o : EqOp) : (s.eqRetire o).eqOp? o.id = none := by
  rw [State.eqOp?, s.eqRetire_eqOps]
  simp

theorem State.eqRetire_others {s : State} {o p : EqOp} (hp : p ∈ s.eqOps) (hne : p.id ≠ o.id) : p ∈ (s.eqRetire o).eqOps := by
  rw [s.eqRetire_eqOps]
  exact List.mem_filter.2 ⟨hp, bne_iff_ne.2 hne⟩

/-- The next number of tl3, with none completed out of order, raises it in the thread that runs (R185). -/
theorem State.eqRetire_tl3 {s : State} {o : EqOp} (hm : (s.coreAt o.cid).t.mode = .run) (hl : (s.coreAt o.cid).t.lslot = o.lslot)
    (hn : o.num = ((s.coreAt o.cid).t.tl[3]).val + 1) (hd : ((s.coreAt o.cid).t.tl[3]).done = []) :
    (((s.eqRetire o).coreAt o.cid).t.tl[3]).val = o.num := by
  have ht : ((s.eqRetire o).coreAt o.cid).t = (s.coreAt o.cid).t.complete 3 o.num :=
    (congrArg Core.t (State.coreAt_congr rfl rfl o.cid)).trans (s.coreAt_onContext_run _ hm hl)
  rw [ht, hn]
  exact Thread.complete_next _ 3 hd

/-! ### The statement -/

/-- Settles O52, one lemma above for each phase of an operation; an operation that writes keeps no mark of its launch (`State.eqKeep_stores`). -/
theorem equivalenceSteps : Obligations.EquivalenceSteps := by
  intro s o f s1 w lo hi go on ho
  have hgo : o.kind.stores = true → ∀ u v, go u v = v.unhold (.engine o.cid) := fun hk u v =>
    congrArg (State.unhold · _) (State.eqKeep_stores hk v u)
  refine ⟨fun p s2 hp hf => ⟨fun hb hr => ⟨?root, ?forth, ?upRoot, ?upForth⟩, ?back⟩, ?link, fun s2 s3 s4 p sz hk hp hc hf hr => ⟨?sent, ?added⟩,
    ?accepted, ?performed, ?snap, ?drop, ?undo, ?count, ?retires⟩
  case root =>
    intro hu hroot hk
    refine (execEqFindHop_find ho hp hf).trans ((State.findHop_forth hb hu hr).trans ((if_pos hroot).trans ?_))
    simp only [State.foundRoot, hk]
    rfl
  case forth => exact fun hu hne => (execEqFindHop_find ho hp hf).trans ((State.findHop_forth hb hu hr).trans (if_neg hne))
  case upRoot =>
    intro x hu hroot
    refine (execEqFindHop_find ho hp hf).trans ((State.findHop_up hb hu hr).trans ?_)
    rw [if_pos hroot]
  case upForth =>
    intro x hu hne
    refine (execEqFindHop_find ho hp hf).trans ((State.findHop_up hb hu hr).trans ?_)
    rw [if_neg hne]
    rfl
  case back => exact fun g hb hc => (execEqFindHop_find ho hp hf).trans (State.findHop_back hb hc)
  case link =>
    intro s2 s3 s4 s5 s6 s7 sz hk hp hv hne hc hf hput hf' hr hsz hw hput'
    rw [hgo (by rw [hk]; rfl)] at hput hf' hsz ⊢
    refine (execEqLink_closed ho hk hp hne hc hf hput).trans ((State.eqCas_root hk hc hf' hr hsz hw hput').trans ?_)
    simp only [EqOp.goTo, hv]
  case sent =>
    intro hne
    rw [hgo (by rw [hk]; rfl)]
    exact execEqSizeDelta_sent ho hk hp hf hr hne
  case added =>
    rintro rfl hsz hw
    rw [hgo (by rw [hk]; rfl)] at hsz ⊢
    exact execEqSizeDelta_added ho hk hp hc hf hr hsz hw
  case accepted =>
    intro s2 hk hp hwait hfit hf hput
    rw [hgo (EqKind.stores_of_holder hk)] at hput ⊢
    exact execEqHoldEnd_accepted ho (EqKind.stores_of_holder hk) hp hwait hfit hf hput
  case performed => exact fun s2 hp hothers hf hheld => execEqHoldEnd_performed ho hp hothers hf hheld
  case snap => exact fun hk => ⟨by simp [EqOp.status, hk], State.eqHeld_snap hk⟩
  case drop => exact fun hk => ⟨by simp [EqOp.status, hk], State.eqHeld_drop hk⟩
  case undo => exact fun hk => by simp [EqOp.status, hk]
  case count => exact fun hp hk hwait hf => execEqOpComplete_count ho hp hk hwait hf
  case retires =>
    exact fun hp => ⟨_, execEqOpComplete_retires ho hp, s.eqRetire_gone o, fun _ => State.eqRetire_others, s.onCore_mem .., State.eqRetire_tl3⟩

end Sys2Proof.Machine
end

section
/-! Proofs of the statements about encodings (R236 to R267) and about a bundle that is none (R237): every word comes back from its encoding, what
the decoder reads has an encoding, and a word without a meaning enters the handler with ILLEGAL. -/

namespace Sys2Proof.Machine

open Sys2Proof.Laws

/-! ### Decoding after encoding -/

/-- The round trip of every constructor, each by its own lemma; the steps of the device have no word. -/
theorem roundTrip_statement (i : Instr) : RoundTrip.Statement i := by
  cases i with
  | nop => exact RoundTrip.nop | tend => exact RoundTrip.tend | tsusp a b => exact RoundTrip.tsusp a b | tyield => exact RoundTrip.tyield
  | ckpt a => exact RoundTrip.ckpt a | trap a => exact RoundTrip.trap a | eret => exact RoundTrip.eret
  | csrd d w b => exact RoundTrip.csrd d w b | cswr a b => exact RoundTrip.cswr a b | csset a b => exact RoundTrip.csset a b
  | csclr a b => exact RoundTrip.csclr a b | wfe => exact RoundTrip.wfe | sleep => exact RoundTrip.sleep
  | sadd d w a b => exact RoundTrip.sadd d w a b | ssub d w a b => exact RoundTrip.ssub d w a b
  | smul d w a b => exact RoundTrip.smul d w a b | smulh d w a b => exact RoundTrip.smulh d w a b
  | smulhu d w a b => exact RoundTrip.smulhu d w a b | sdiv d w a b => exact RoundTrip.sdiv d w a b
  | sdivu d w a b => exact RoundTrip.sdivu d w a b | srem d w a b => exact RoundTrip.srem d w a b
  | sremu d w a b => exact RoundTrip.sremu d w a b | sand d w a b => exact RoundTrip.sand d w a b
  | sor d w a b => exact RoundTrip.sor d w a b | sxor d w a b => exact RoundTrip.sxor d w a b | sshl d w a b => exact RoundTrip.sshl d w a b
  | sshr d w a b => exact RoundTrip.sshr d w a b | ssra d w a b => exact RoundTrip.ssra d w a b
  | smin d w a b => exact RoundTrip.smin d w a b | smax d w a b => exact RoundTrip.smax d w a b
  | sminu d w a b => exact RoundTrip.sminu d w a b | smaxu d w a b => exact RoundTrip.smaxu d w a b
  | sclz d w a => exact RoundTrip.sclz d w a | spopc d w a => exact RoundTrip.spopc d w a | saddi d w a i => exact RoundTrip.saddi d w a i
  | sandi d w a i => exact RoundTrip.sandi d w a i | sori d w a i => exact RoundTrip.sori d w a i
  | sxori d w a i => exact RoundTrip.sxori d w a i | sshli d w a i => exact RoundTrip.sshli d w a i
  | sshri d w a i => exact RoundTrip.sshri d w a i | ssrai d w a i => exact RoundTrip.ssrai d w a i
  | aaddi d w a i => exact RoundTrip.aaddi d w a i | sli d w i => exact RoundTrip.sli d w i | slui d w i => exact RoundTrip.slui d w i
  | aadd d w a b => exact RoundTrip.aadd d w a b | asub d w a b => exact RoundTrip.asub d w a b | amov d w a => exact RoundTrip.amov d w a
  | aset d w a b => exact RoundTrip.aset d w a b | aget d w a => exact RoundTrip.aget d w a | agetHi d w a => exact RoundTrip.agetHi d w a
  | brCc k p o => exact RoundTrip.brCc k p o | jmp i => exact RoundTrip.jmp i | call d i => exact RoundTrip.call d i
  | jind a => exact RoundTrip.jind a | jtab a b => exact RoundTrip.jtab a b | ret a => exact RoundTrip.ret a
  | rep n d a b x => exact RoundTrip.rep n d a b x | scmpCc d w a b k => exact RoundTrip.scmpCc d w a b k
  | scmpiCc d w a i k => exact RoundTrip.scmpiCc d w a i k | ssel d w a b e => exact RoundTrip.ssel d w a b e
  | vadd d w a b t => exact RoundTrip.vadd d w a b t | vsub d w a b t => exact RoundTrip.vsub d w a b t
  | vmul d w a b t => exact RoundTrip.vmul d w a b t | vmin d w a b t => exact RoundTrip.vmin d w a b t
  | vmax d w a b t => exact RoundTrip.vmax d w a b t | vabs d w a t => exact RoundTrip.vabs d w a t
  | vneg d w a t => exact RoundTrip.vneg d w a t | viadd d w a b s t => exact RoundTrip.viadd d w a b s t
  | visub d w a b s t => exact RoundTrip.visub d w a b s t | vimul d w a b s t => exact RoundTrip.vimul d w a b s t
  | vimin d w a b t => exact RoundTrip.vimin d w a b t | vimax d w a b t => exact RoundTrip.vimax d w a b t
  | vand d w a b => exact RoundTrip.vand d w a b | vor d w a b => exact RoundTrip.vor d w a b | vxor d w a b => exact RoundTrip.vxor d w a b
  | vshl d w a b t => exact RoundTrip.vshl d w a b t | vshr d w a b t => exact RoundTrip.vshr d w a b t
  | vsra d w a b t => exact RoundTrip.vsra d w a b t | vfma d w a b t => exact RoundTrip.vfma d w a b t
  | vfms d w a b t => exact RoundTrip.vfms d w a b t | vcvt d w a r x f t => exact RoundTrip.vcvt d w a r x f t
  | vexp2 d w a => exact RoundTrip.vexp2 d w a | vlog2 d w a => exact RoundTrip.vlog2 d w a | vrcp d w a => exact RoundTrip.vrcp d w a
  | vrsq d w a => exact RoundTrip.vrsq d w a | vhash d w a b => exact RoundTrip.vhash d w a b
  | vdot4 d w a b u f p => exact RoundTrip.vdot4 d w a b u f p | vdot2 d w a b => exact RoundTrip.vdot2 d w a b
  | vbcast d w a => exact RoundTrip.vbcast d w a | vlane d w a b => exact RoundTrip.vlane d w a b
  | vperm d w a b => exact RoundTrip.vperm d w a b | xcopy d w a n => exact RoundTrip.xcopy d w a n
  | vredAddF32 d w a => exact RoundTrip.vredAddF32 d w a | vredMinF32 d w a => exact RoundTrip.vredMinF32 d w a
  | vredMaxF32 d w a => exact RoundTrip.vredMaxF32 d w a | vredAddI32 d w a => exact RoundTrip.vredAddI32 d w a
  | vredMinI32 d w a => exact RoundTrip.vredMinI32 d w a | vredMaxI32 d w a => exact RoundTrip.vredMaxI32 d w a
  | vld d w a i k => exact RoundTrip.vld d w a i k | vst d a i k => exact RoundTrip.vst d a i k
  | vgath d w a b k => exact RoundTrip.vgath d w a b k | vscat d a b k => exact RoundTrip.vscat d a b k
  | vpushcCfg q a => exact RoundTrip.vpushcCfg q a | vpushc q a k => exact RoundTrip.vpushc q a k
  | vpopc d w q k => exact RoundTrip.vpopc d w q k | vqbal q => exact RoundTrip.vqbal q | vqcnt d w q => exact RoundTrip.vqcnt d w q
  | vcmpCc d w a b t k => exact RoundTrip.vcmpCc d w a b t k | vsel d w a b m => exact RoundTrip.vsel d w a b m
  | kand d w a b => exact RoundTrip.kand d w a b | kor d w a b => exact RoundTrip.kor d w a b | knot d w a => exact RoundTrip.knot d w a
  | kcnt d w a => exact RoundTrip.kcnt d w a | slen m => exact RoundTrip.slen m | sseed x s => exact RoundTrip.sseed x s
  | sprof p => exact RoundTrip.sprof p | smode s => exact RoundTrip.smode s | ntset n w s => exact RoundTrip.ntset n w s
  | ntclr n => exact RoundTrip.ntclr n | wbld a s => exact RoundTrip.wbld a s | wlatch w s => exact RoundTrip.wlatch w s
  | sgo n p => exact RoundTrip.sgo n p | sconf v s => exact RoundTrip.sconf v s | sstop n j => exact RoundTrip.sstop n j
  | spart v s => exact RoundTrip.spart v s | sread p v s => exact RoundTrip.sread p v s | sclr => exact RoundTrip.sclr
  | sebnd v => exact RoundTrip.sebnd v | ld z d b x i => exact RoundTrip.ld z d b x i | st z d b x i => exact RoundTrip.st z d b x i
  | ldl z d b o l => exact RoundTrip.ldl z d b o l | str z d b x i => exact RoundTrip.str z d b x i
  | tmov q r o b s => exact RoundTrip.tmov q r o b s | tmovq q r o b s => exact RoundTrip.tmovq q r o b s
  | tfill q o b s => exact RoundTrip.tfill q o b s | amoOp e o r d b l => exact RoundTrip.amoOp e o r d b l
  | ldAcq e z d b l => exact RoundTrip.ldAcq e z d b l | stRel e z s b => exact RoundTrip.stRel e z s b | fence e => exact RoundTrip.fence e
  | waittl t a => exact RoundTrip.waittl t a | tlget t d => exact RoundTrip.tlget t d | tlbump t a => exact RoundTrip.tlbump t a
  | bari b a => exact RoundTrip.bari b a | bara b => exact RoundTrip.bara b | barw b => exact RoundTrip.barw b
  | racq r s d => exact RoundTrip.racq r s d | rrel r s => exact RoundTrip.rrel r s | rinfo r d => exact RoundTrip.rinfo r d
  | wlpush d b l => exact RoundTrip.wlpush d b l | wlpushr k b s => exact RoundTrip.wlpushr k b s
  | wlfloor d l => exact RoundTrip.wlfloor d l | wlnest b => exact RoundTrip.wlnest b | tsucc s => exact RoundTrip.tsucc s
  | rput k a t l v => exact RoundTrip.rput k a t l v | rred k a n t => exact RoundTrip.rred k a n t | objld o s => exact RoundTrip.objld o s
  | objpub => exact RoundTrip.objpub | eqinit d b l => exact RoundTrip.eqinit d b l | equn d b l => exact RoundTrip.equn d b l
  | eqfd d b l => exact RoundTrip.eqfd d b l | eqsz d b l => exact RoundTrip.eqsz d b l | eqcnt d b l => exact RoundTrip.eqcnt d b l
  | eqrl d b l => exact RoundTrip.eqrl d b l | eqsnap d b l => exact RoundTrip.eqsnap d b l | equndo d b l => exact RoundTrip.equndo d b l
  | eqdrop d b l => exact RoundTrip.eqdrop d b l
  | _ => exact RoundTrip.of_none rfl

/-- Settles O1, by the round trip of each constructor. -/
theorem decodeEncode : Obligations.DecodeEncode := fun i w hwf henc => roundTrip_statement i hwf w henc

/-! ### What the decoder reads -/

/-- Whether a decoder's answer is an instruction that has an encoding, or a refusal. -/
def readsWords : Except Reject Instr → Bool
  | .ok i => (encode i).isSome
  | .error _ => true

/-- A row of the opcode table put before others: its instruction has an encoding, and so has whatever the others read. -/
theorem readsWords_row {p : Prop} [Decidable p] {i : Instr} {rest : Except Reject Instr} (hi : (encode i).isSome = true)
    (hrest : readsWords rest = true) : readsWords (if p then .ok i else rest) = true := by
  split
  · exact hi
  · exact hrest

/-- Under every major the table is a list of rows, each the word of an instruction; behind the last stands a refusal or one more word. -/
theorem readsWords_decodeRaw (w : Nat) : readsWords (decodeRaw w) = true := by
  unfold decodeRaw
  split
  all_goals
    repeat refine readsWords_row rfl ?_
    rfl

/-- A word decodes to what the table of its major reads, if the operands pass their checks (R267). -/
theorem decode_eq_ok_iff {w : Word} {i : Instr} : decode w = .ok i ↔ decodeRaw w.toNat = .ok i ∧ i.wf = true := by
  unfold decode
  cases decodeRaw w.toNat with
  | error e => simp
  | ok j =>
    simp only [Except.ok.injEq]
    split
    next hj => exact ⟨fun h => by cases h; exact ⟨rfl, hj⟩, fun h => congrArg _ h.1⟩
    next hj => exact ⟨fun h => (by cases h), fun ⟨h, hi⟩ => absurd (h ▸ hi) hj⟩

/-- Settles O2: the operand checks make it legal, and the tables hold words alone. -/
theorem decodeIsLegal : Obligations.DecodeIsLegal := by
  intro w i hdec
  obtain ⟨hraw, hwf⟩ := decode_eq_ok_iff.1 hdec
  have hword := readsWords_decodeRaw w.toNat
  rw [hraw] at hword
  exact ⟨hwf, hword⟩

/-! ### The thread at a trap outside a repeat (R141, R165, R245) -/

/-- The address and the repeat that a trap saves are those of the bundle. -/
theorem Thread.savedPc_noRepeat (t : Thread) (h : t.rep.left = 0) : t.savedPc = (t.pc, t.rep) := by
  simp [Thread.savedPc, h]

/-- The bundle traps where it stands, not at a REP word before it. -/
theorem Thread.atRep_noRepeat (t : Thread) (h : t.rep.left = 0) : t.atRep = t := by
  simp [Thread.atRep, h]

/-- The bundle in line: its address, the repeat it stands under and the failure on record for it. -/
def Thread.inLine (t : Thread) : DWord × Rep × Option TrapRec := (t.pc, t.rep, t.trapRec)

/-- A check stage made ahead is of a bundle already issued: hardware updates write other fields than those of the bundle in line (R286). -/
theorem Thread.pinOne_inLine (t : Thread) (f : Flight) : (t.pinOne f).inLine = t.inLine := by
  unfold Thread.pinOne
  split
  next hupdate =>
    generalize f.fx = x at hupdate ⊢
    cases x with
    | ebnd | fpFlags | statBit | tlRaise => rfl
    | _ => cases hupdate
  next => split <;> rfl

theorem Thread.pin_inLine (t : Thread) : t.pin.inLine = t.inLine := foldl_keeps Thread.inLine _ Thread.pinOne_inLine _ _

theorem Thread.enterHandler_trappc (t : Thread) (handler : DWord) (c : Cause) (v : DWord) :
    (t.enterHandler handler c v).trappc = t.savedPc.1 := by
  have hline := t.pin_inLine
  simp only [Thread.inLine, Prod.mk.injEq] at hline
  obtain ⟨hpc, hrep, -⟩ := hline
  simp only [Thread.enterHandler, Thread.savedPc, hpc, hrep]

theorem Thread.enterHandler_trapRec (t : Thread) (handler : DWord) (c : Cause) (v : DWord) :
    (t.enterHandler handler c v).trapRec = t.trapRec :=
  congrArg (fun x => x.2.2) t.pin_inLine

/-! ### A word that is no bundle (R237) -/

theorem bundleInstrs_undecodable {r : Rep} {w : Word} {e : Reject} (hr : r.left = 0) (hd : decode w = .error e) : bundleInstrs r [w] = none := by
  simp [bundleInstrs, hr, decodeAll, hd]

/-- A bundle that raised a trap ends there, and its failure is off the record. -/
theorem State.retire_trapped (s0 s : State) (pcn : DWord) (h : s.core.t.trapRec.isSome = true) : s0.retire pcn s = s.mapT Thread.calm :=
  if_pos h

/-- Words that are no bundle, outside a gang and a repeat: ILLEGAL is raised where they stand, and the core enters its handler (R141, R237). -/
theorem State.soloBundle_illegal (s : State) {ws : List Word} (hb : bundleInstrs s.core.t.rep ws = none) (hr : s.core.t.rep.left = 0)
    (hh : s.core.t.handler = false) (ha : s.handlerAddr ≠ 0) :
    let judged := s.mapT fun t => t.ready (s.core.t.pc + BitVec.ofNat 64 (4 * ws.length))
    s.soloBundle ws
      = .next ((judged.raised ⟨1, .illegal, 0, none⟩).mapT fun t => (t.enterHandler s.handlerAddr .illegal 0).calm) := by
  intro judged
  have hrep : judged.mapT Thread.atRep = judged := congrArg (fun t => s.mapT fun _ => t) (Thread.atRep_noRepeat _ hr)
  obtain ⟨u, htrap, hu⟩ := judged.trap_handler 1 .illegal 0 none rfl hh ha
  have hrec : u.trapRec.isSome = true := by
    rw [hu, Thread.enterHandler_trapRec]
    rfl
  calc s.soloBundle ws
    _ = onNext (judged.mapT Thread.atRep).illegal (s.retire _) := by simp only [State.soloBundle, hb]; rfl
    _ = .next (s.retire _ (judged.mapT fun _ => u)) := by rw [hrep, State.illegal, htrap]; rfl
    _ = .next ((judged.mapT fun _ => u).mapT Thread.calm) := congrArg _ (s.retire_trapped _ _ hrec)
    _ = _ := by rw [hu]; rfl

/-- Settles O5: the word is no bundle, and entering the handler writes what the rule says. -/
theorem undecodableTraps : Obligations.UndecodableTraps := by
  intro s w e hdec _ hr hh ha
  refine ⟨_, s.soloBundle_illegal (bundleInstrs_undecodable hr hdec) hr hh ha, rfl, rfl, ?trappc, rfl, rfl⟩
  case trappc => exact (Thread.enterHandler_trappc _ s.handlerAddr .illegal 0).trans (congrArg Prod.fst (Thread.savedPc_noRepeat _ hr))

end Sys2Proof.Machine
end

section
/-! Scalar and address words of the C pipe (R243, R270 to R276): one lemma for each shape of word on clean sources, and the word functions of the
model as exact integers narrowed to their width. -/

namespace Sys2Proof.Machine

/-! ### The shapes of a C-pipe word on clean sources (R165, R270) -/

theorem scalarOp_clean {s : State} (lat : Nat) (f : Word → Word → Word) {d : BitVec 6} {w : BitVec 1} {a b : BitVec 6} {v : Word}
    (ha : (s.srcC a).psn = none) (hb : (s.srcC b).psn = none) (hv : f (s.srcC a).val.low (s.srcC b).val.low = v) :
    scalarOp lat f d w a b s = .next (s.putC lat d w v) :=
  hv ▸ s.checked_clean _ _ (by simp [ha, hb])

theorem immOp_clean {s : State} (f : Word → Word → Word) {d : BitVec 6} {w : BitVec 1} {a : BitVec 6} {y v : Word}
    (ha : (s.srcC a).psn = none) (hv : f (s.srcC a).val.low y = v) : immOp f d w a y s = .next (s.putC 1 d w v) :=
  hv ▸ s.checked_clean _ _ (by simp [ha])

theorem addrOp_clean {s : State} (f : DWord → DWord → DWord) {d : BitVec 6} {w : BitVec 1} {a b : BitVec 6} {v : DWord}
    (ha : (s.srcC a).psn = none) (hb : (s.srcC b).psn = none) (hv : f (s.srcC a).val (s.srcC b).val = v) :
    addrOp f d w a b s = .next (s.putC64 1 d w v) :=
  hv ▸ s.checked_clean _ _ (by simp [ha, hb])

theorem addrOne_clean {s : State} (f : DWord → DWord) {d : BitVec 6} {w : BitVec 1} {a : BitVec 6} {v : DWord} (ha : (s.srcC a).psn = none)
    (hv : f (s.srcC a).val = v) : addrOne f d w a s = .next (s.putC64 1 d w v) :=
  hv ▸ s.checked_clean _ _ (by simp [ha])

/-- A division by zero traps with ARITH where EIDZ is set at the check stage (R272). -/
theorem divOp_traps {s : State} (f : Word → Word → Word) {d : BitVec 6} {w : BitVec 1} {a b : BitVec 6} (ha : (s.srcC a).psn = none)
    (hb : (s.srcC b).psn = none) (hy : (s.srcC b).val.low = 0) (he : fpxEidz s.core.t.fpxAtCheck = true) :
    divOp f d w a b s = s.trap 3 .arith (s.srcC a).val.low.zext :=
  (s.checked_clean _ _ (by simp [ha, hb])).trans (if_pos ⟨hy, he⟩)

theorem divOp_divides {s : State} (f : Word → Word → Word) {d : BitVec 6} {w : BitVec 1} {a b : BitVec 6} {v : Word}
    (ha : (s.srcC a).psn = none) (hb : (s.srcC b).psn = none) (h : (s.srcC b).val.low = 0 → fpxEidz s.core.t.fpxAtCheck = false)
    (hv : f (s.srcC a).val.low (s.srcC b).val.low = v) : divOp f d w a b s = .next (s.putC 12 d w v) :=
  hv ▸ (s.checked_clean _ _ (by simp [ha, hb])).trans (if_neg fun ⟨hy, he⟩ => Bool.false_ne_true ((h hy).symm.trans he))

/-! ### Sums, products and their upper halves (R271, R276) -/

theorem ofInt_toInt_add {n : Nat} (x y : BitVec n) : BitVec.ofInt n (x.toInt + y.toInt) = x + y :=
  BitVec.eq_of_toInt_eq (by rw [BitVec.toInt_ofInt, BitVec.toInt_add])

theorem ofInt_toInt_sub {n : Nat} (x y : BitVec n) : BitVec.ofInt n (x.toInt - y.toInt) = x - y :=
  BitVec.eq_of_toInt_eq (by rw [BitVec.toInt_ofInt, BitVec.toInt_sub])

theorem ofInt_toInt_mul {n : Nat} (x y : BitVec n) : BitVec.ofInt n (x.toInt * y.toInt) = x * y :=
  BitVec.eq_of_toInt_eq (by rw [BitVec.toInt_ofInt, BitVec.toInt_mul])

/-- A word sign-extended stands for the same integer (R241). -/
theorem Word.toInt_sext (x : Word) : x.sext.toInt = x.toInt := BitVec.toInt_signExtend_of_le (by decide)

/-- Bits 63:32 of an integer are its quotient by 2^32, narrowed (R17). -/
theorem DWord.high_ofInt (n : Int) : DWord.high (BitVec.ofInt 64 n) = BitVec.ofInt 32 (n / 2 ^ 32) := by
  apply BitVec.eq_of_toNat_eq
  simp only [BitVec.extractLsb'_toNat, BitVec.toNat_ofInt, Nat.shiftRight_eq_div_pow]
  omega

theorem DWord.high_ofNat (n : Nat) : DWord.high (BitVec.ofNat 64 n) = BitVec.ofNat 32 (n / 2 ^ 32) := by
  apply BitVec.eq_of_toNat_eq
  simp only [BitVec.extractLsb'_toNat, BitVec.toNat_ofNat, Nat.shiftRight_eq_div_pow]
  omega

theorem mulHigh_eq (x y : Word) : mulHigh x y = BitVec.ofInt 32 (x.toInt * y.toInt / 2 ^ 32) := by
  rw [← DWord.high_ofInt, mulHigh, ← ofInt_toInt_mul, Word.toInt_sext, Word.toInt_sext]

theorem mulHighU_eq (x y : Word) : mulHighU x y = BitVec.ofNat 32 (x.toNat * y.toNat / 2 ^ 32) := by
  rw [← DWord.high_ofNat, mulHighU, BitVec.ofNat_mul, BitVec.ofNat_toNat, BitVec.ofNat_toNat]

/-! ### Shifts (R271, R273) -/

theorem shl5_eq (x y : Word) : shl5 x y = BitVec.ofNat 32 (x.toNat * 2 ^ (y.toNat % 32)) := by
  apply BitVec.eq_of_toNat_eq
  rw [shl5, BitVec.toNat_shiftLeft, Nat.shiftLeft_eq, BitVec.toNat_ofNat]

theorem shr5_eq (x y : Word) : shr5 x y = BitVec.ofNat 32 (x.toNat / 2 ^ (y.toNat % 32)) := by
  apply BitVec.eq_of_toNat_eq
  have hlt : x.toNat / 2 ^ (y.toNat % 32) < 2 ^ 32 := Nat.lt_of_le_of_lt (Nat.div_le_self _ _) x.isLt
  rw [shr5, BitVec.toNat_ushiftRight, Nat.shiftRight_eq_div_pow, BitVec.toNat_ofNat, Nat.mod_eq_of_lt hlt]

theorem sra5_eq (x y : Word) : sra5 x y = BitVec.ofInt 32 (x.toInt / 2 ^ (y.toNat % 32)) := by
  rw [sra5, ← BitVec.ofInt_toInt (x := x.sshiftRight _), BitVec.toInt_sshiftRight, Int.shiftRight_eq_div_pow]
  push_cast
  rfl

/-! ### Minimum and maximum (R271) -/

theorem sminW_eq (x y : Word) : sminW x y = BitVec.ofInt 32 (min x.toInt y.toInt) := by
  simp only [sminW, BitVec.sle_iff_toInt_le, Int.min_def]
  split <;> simp

theorem smaxW_eq (x y : Word) : smaxW x y = BitVec.ofInt 32 (max x.toInt y.toInt) := by
  simp only [smaxW, BitVec.sle_iff_toInt_le, Int.max_def]
  split <;> simp

theorem uminW_eq (x y : Word) : uminW x y = BitVec.ofNat 32 (min x.toNat y.toNat) := by
  simp only [uminW, BitVec.le_def, Nat.min_def]
  split <;> simp

theorem umaxW_eq (x y : Word) : umaxW x y = BitVec.ofNat 32 (max x.toNat y.toNat) := by
  simp only [umaxW, BitVec.le_def, Nat.max_def]
  split <;> simp

/-! ### Counts (R18, R271) -/

/-- popc counts the bits that are 1. -/
theorem popcNat_eq_countP (n x : Nat) : popcNat n x = (List.range n).countP fun i => x.testBit i := by
  induction n generalizing x with
  | zero => rfl
  | succ n ih =>
    have hstep : (fun i => x.testBit i) ∘ Nat.succ = fun i => (x / 2).testBit i := funext fun i => Nat.testBit_succ x i
    have hbit : x % 2 = if x.testBit 0 = true then 1 else 0 := by
      rw [Nat.testBit_zero]
      rcases Nat.mod_two_eq_zero_or_one x with h | h <;> simp [h]
    rw [popcNat, ih, List.range_succ_eq_map, List.countP_cons, List.countP_map, hstep, hbit, Nat.add_comm]

/-- clz is the distance of the highest bit that is 1 from the top, and the whole width for 0. -/
theorem clzNat_eq_log2 (n x : Nat) (h : x < 2 ^ n) : clzNat n x = if x = 0 then n else n - 1 - Nat.log2 x := by
  induction n with
  | zero => simp [clzNat, Nat.lt_one_iff.1 (by simpa using h)]
  | succ n ih =>
    by_cases hb : x.testBit n = true
    · have hge : 2 ^ n ≤ x := Nat.ge_two_pow_of_testBit hb
      have hne : x ≠ 0 := fun h0 => by simp [h0] at hb
      have hlog : Nat.log2 x = n := (Nat.log2_eq_iff hne).2 ⟨hge, h⟩
      simp [clzNat, hb, hne, hlog]
    · have hlt : x < 2 ^ n := by
        refine Nat.lt_pow_two_of_testBit x fun i hi => ?_
        rcases Nat.eq_or_lt_of_le hi with rfl | hlt
        · exact eq_false_of_ne_true hb
        · exact Nat.testBit_lt_two_pow (Nat.lt_of_lt_of_le h (Nat.pow_le_pow_right (by decide) hlt))
      rw [clzNat, if_neg hb, ih hlt]
      split
      · omega
      · next hne => have := (Nat.log2_lt hne).2 hlt; omega

theorem clzNat_word (x : Word) : clzNat 32 x.toNat = if x = 0 then 32 else 31 - Nat.log2 x.toNat := by
  have hz : x.toNat = 0 ↔ x = 0 := BitVec.toNat_inj (y := 0)
  simp only [clzNat_eq_log2 32 x.toNat x.isLt, hz]

/-- Settles O14: each word is a SALU word on clean sources (`scalarOp_clean`, `immOp_clean`), and its function is the exact one narrowed. -/
theorem scalarArithmetic : Obligations.ScalarArithmetic := by
  intro s d w a b ha hb x y n
  exact ⟨scalarOp_clean 1 _ ha hb (ofInt_toInt_add x y).symm, scalarOp_clean 1 _ ha hb (ofInt_toInt_sub x y).symm,
    scalarOp_clean 3 _ ha hb (ofInt_toInt_mul _ _).symm, scalarOp_clean 3 mulHigh ha hb (mulHigh_eq _ _),
    scalarOp_clean 3 mulHighU ha hb (mulHighU_eq _ _),
    scalarOp_clean 1 _ ha hb rfl, scalarOp_clean 1 _ ha hb rfl, scalarOp_clean 1 _ ha hb rfl,
    scalarOp_clean 1 _ ha hb (shl5_eq x y), scalarOp_clean 1 _ ha hb (shr5_eq x y), scalarOp_clean 1 _ ha hb (sra5_eq x y),
    scalarOp_clean 1 _ ha hb (sminW_eq x y), scalarOp_clean 1 _ ha hb (smaxW_eq x y), scalarOp_clean 1 _ ha hb (uminW_eq x y),
    scalarOp_clean 1 _ ha hb (umaxW_eq x y),
    immOp_clean (y := 0) (fun x _ => BitVec.ofNat 32 (clzNat 32 x.toNat)) ha (congrArg (BitVec.ofNat 32) (clzNat_word x)),
    immOp_clean (y := 0) (fun x _ => BitVec.ofNat 32 (popcNat 32 x.toNat)) ha (congrArg (BitVec.ofNat 32) (popcNat_eq_countP 32 x.toNat))⟩

/-! ### Quotients and remainders (R272) -/

/-- The quotient rounded toward zero; −2^31 / −1 narrows to −2^31. -/
theorem divS_eq {x y : Word} (hy : y ≠ 0) : divS x y = BitVec.ofInt 32 (x.toInt.tdiv y.toInt) := by
  rw [divS, if_neg hy]
  exact BitVec.eq_of_toInt_eq (by rw [BitVec.toInt_sdiv, BitVec.toInt_ofInt])

theorem remS_eq {x y : Word} (hy : y ≠ 0) : remS x y = BitVec.ofInt 32 (x.toInt - y.toInt * x.toInt.tdiv y.toInt) := by
  rw [remS, if_neg hy, ← Int.tmod_def, ← BitVec.toInt_srem, BitVec.ofInt_toInt]

theorem divU_eq {x y : Word} (hy : y ≠ 0) : divU x y = BitVec.ofNat 32 (x.toNat / y.toNat) := by
  rw [divU, if_neg hy, ← BitVec.toNat_udiv, BitVec.ofNat_toNat, BitVec.setWidth_eq]

theorem remU_eq {x y : Word} (hy : y ≠ 0) : remU x y = BitVec.ofNat 32 (x.toNat - y.toNat * (x.toNat / y.toNat)) := by
  have hmod : x.toNat - y.toNat * (x.toNat / y.toNat) = (x % y).toNat := by
    rw [BitVec.toNat_umod]
    exact Nat.sub_eq_of_eq_add' (Nat.div_add_mod _ _).symm
  rw [remU, if_neg hy, hmod, BitVec.ofNat_toNat, BitVec.setWidth_eq]

/-- Settles O15, by the three ways of a division word: it traps, it meets a zero divisor, or it divides. -/
theorem scalarDivision : Obligations.ScalarDivision := by
  intro s d w a b ha hb x y trap
  refine ⟨fun hy he => ?traps, fun hy he => ?zero, fun hy => ?divides⟩
  case traps => exact ⟨divOp_traps _ ha hb hy he, divOp_traps _ ha hb hy he, divOp_traps _ ha hb hy he, divOp_traps _ ha hb hy he⟩
  case zero =>
    have he' := fun _ : y = 0 => he
    exact ⟨divOp_divides _ ha hb he' (if_pos hy), divOp_divides _ ha hb he' (if_pos hy), divOp_divides _ ha hb he' (if_pos hy),
      divOp_divides _ ha hb he' (if_pos hy)⟩
  case divides =>
    have he' : y = 0 → fpxEidz s.core.t.fpxAtCheck = false := (absurd · hy)
    exact ⟨divOp_divides _ ha hb he' (divS_eq hy), divOp_divides _ ha hb he' (remS_eq hy), divOp_divides _ ha hb he' (divU_eq hy),
      divOp_divides _ ha hb he' (remU_eq hy)⟩

/-! ### Immediates (R249, R273) -/

/-- An immediate shift count is the amount that a shift takes of the immediate's word. -/
theorem toNat_zeroExtend_mod (n : BitVec 5) : (n.zeroExtend 32).toNat % 32 = n.toNat := by
  have := n.isLt
  simp
  omega

/-- Settles O16: an immediate is sign-extended, a shift count has five bits, and each word is `immOp_clean` of its function. -/
theorem scalarImmediate : Obligations.ScalarImmediate := by
  intro s d w a i n ha x y
  have hn := toNat_zeroExtend_mod n
  have hi : (i.signExtend 64).toInt = i.toInt := BitVec.toInt_signExtend_of_le (by decide)
  refine ⟨immOp_clean _ ha rfl, immOp_clean _ ha rfl, immOp_clean _ ha rfl, immOp_clean _ ha rfl, immOp_clean shl5 ha ?shl,
    immOp_clean shr5 ha ?shr, immOp_clean sra5 ha ?sra, addrOne_clean (fun x => x + i.signExtend 64) ha ?aaddi⟩
  case shl => rw [shl5_eq, hn]
  case shr => rw [shr5_eq, hn]
  case sra => rw [sra5_eq, hn]
  case aaddi => rw [← hi, ofInt_toInt_add]

/-! ### Constants, compares and the select (R243, R274, R275) -/

/-- SLUI puts its immediate above the low 14 bits of d. -/
theorem slui_word (i : BitVec 18) (x : Word) : (i.zeroExtend 32 <<< 14) ||| (x &&& 0x3FFF)
    = BitVec.ofNat 32 (i.toNat * 2 ^ 14 + x.toNat % 2 ^ 14) := by
  apply BitVec.eq_of_toNat_eq
  have hi := i.isLt
  have hx : x.toNat % 2 ^ 14 < 2 ^ 14 := Nat.mod_lt _ (by decide)
  have hlow : (x &&& 0x3FFF).toNat = x.toNat % 2 ^ 14 := by
    rw [BitVec.toNat_and]
    exact Nat.and_two_pow_sub_one_eq_mod _ 14
  have hhigh : (i.zeroExtend 32 <<< 14).toNat = 2 ^ 14 * i.toNat := by
    simp [Nat.shiftLeft_eq]
    omega
  rw [BitVec.toNat_or, hlow, hhigh, ← Nat.two_pow_add_eq_or_of_lt hx, BitVec.toNat_ofNat]
  omega

/-- A condition code compares as the integers that it names (R243): codes 0 and 1 the words, 2 to 5 signed, 6 to 9 unsigned. -/
theorem cond_eq {w : Nat} (k : Nat) (u v : BitVec w) : cond k u v = (match k with
      | 0 => decide (u = v) | 1 => decide (u ≠ v)
      | 2 => decide (u.toInt < v.toInt) | 3 => decide (u.toInt ≥ v.toInt) | 4 => decide (u.toInt > v.toInt) | 5 => decide (u.toInt ≤ v.toInt)
      | 6 => decide (u.toNat < v.toNat) | 7 => decide (u.toNat ≥ v.toNat) | 8 => decide (u.toNat > v.toNat) | 9 => decide (u.toNat ≤ v.toNat)
      | _ => false : Bool) := by
  unfold cond condInt
  split <;> simp [← BitVec.toNat_inj, Bool.beq_eq_decide_eq, bne, Int.ofNat_inj]

theorem execSsel_clean {s : State} {d : BitVec 6} {w : BitVec 1} {a b e : BitVec 6} (ha : (s.srcC a).psn = none) (hb : (s.srcC b).psn = none)
    (he : (s.srcC e).psn = none) :
    execSsel d w a b e s = .next (s.putC 1 d w (if (s.srcC e).val.low ≠ 0 then (s.srcC a).val.low else (s.srcC b).val.low)) := by
  simp [execSsel, State.checked_clean, ha, hb, he]

/-- Settles O17: the compares by `cond_eq`, each word by its shape on clean sources. -/
theorem scalarConstantCompareSelect : Obligations.ScalarConstantCompareSelect := by
  intro s d w a b c i k ha hb hc hd x y lt
  have hcond : ∀ u v : Word, Machine.cond k.toNat u v = lt u v := cond_eq k.toNat
  have hbit : ∀ u v : Word, (if Machine.cond k.toNat u v then 1 else 0 : Word) = if lt u v then 1 else 0 := fun u v => by rw [hcond]
  refine ⟨rfl, (s.checked_clean _ _ (by simp [hd])).trans ?slui,
    scalarOp_clean 1 (fun x y => if Machine.cond k.toNat x y then 1 else 0) ha hb (hbit x y),
    immOp_clean (fun x y => if Machine.cond k.toNat x y then 1 else 0) ha (hbit x _), execSsel_clean ha hb hc⟩
  case slui => rw [slui_word]

/-! ### Address words (R276) -/

/-- The lower halves of two doublewords, one above the other. -/
theorem aset_dword (x y : DWord) : (y.low.zext <<< 32) ||| x.low.zext = BitVec.ofNat 64 (y.low.toNat * 2 ^ 32 + x.toNat % 2 ^ 32) := by
  apply BitVec.eq_of_toNat_eq
  have hx : x.toNat % 2 ^ 32 < 2 ^ 32 := Nat.mod_lt _ (by decide)
  have hlow : x.low.zext.toNat = x.toNat % 2 ^ 32 := by
    simp
    omega
  have hhigh : (y.low.zext <<< 32).toNat = 2 ^ 32 * y.low.toNat := by
    have := y.low.isLt
    simp [Nat.shiftLeft_eq]
    omega
  rw [BitVec.toNat_or, hlow, hhigh, ← Nat.two_pow_add_eq_or_of_lt hx, BitVec.toNat_ofNat]
  have := y.low.isLt
  omega

theorem DWord.low_eq_ofNat (x : DWord) : x.low = BitVec.ofNat 32 (x.toNat % 2 ^ 32) := BitVec.eq_of_toNat_eq (by simp)

theorem DWord.high_eq_ofNat (x : DWord) : x.high = BitVec.ofNat 32 (x.toNat / 2 ^ 32) := by
  rw [← DWord.high_ofNat, BitVec.ofNat_toNat, BitVec.setWidth_eq]

/-- Settles O18: sums and differences wrap, with the second source at 32 bits; the halves are remainder and quotient by 2^32. -/
theorem addressWords : Obligations.AddressWords := by
  intro s d w a b ha hb x y
  refine ⟨addrOp_clean (fun x y => x + y.low.sext) ha hb ?aadd, addrOp_clean (fun x y => x - y.low.sext) ha hb ?asub,
    addrOne_clean (fun x => x) ha rfl, addrOp_clean (fun x y => (y.low.zext <<< 32) ||| x.low.zext) ha hb (aset_dword _ _),
    (s.checked_clean _ _ (by simp [ha])).trans ?aget, (s.checked_clean _ _ (by simp [ha])).trans ?agetHi⟩
  case aadd => rw [← Word.toInt_sext, ofInt_toInt_add]
  case asub => rw [← Word.toInt_sext, ofInt_toInt_sub]
  case aget => rw [DWord.low_eq_ofNat]
  case agetHi => rw [DWord.high_eq_ofNat]

end Sys2Proof.Machine
end

section
/-! Branches and jumps (R278 to R281): where a transfer goes, and where its target traps (R277). -/

namespace Sys2Proof.Machine

/-! ### Targets (R239, R277, R278) -/

/-- An address is a device virtual address exactly if its bits 63:56 are zero (R277). -/
theorem bits_63_56_eq_zero (x : DWord) : bits x.toNat 63 56 = 0 ↔ x.toNat < 2 ^ 56 := by
  have := x.isLt
  rw [bits_eq_div_mod]
  omega

theorem State.relative_signExtend (s : State) {w : Nat} (o : BitVec w) :
    s.relative (o.signExtend 64) = s.core.t.pc + BitVec.ofInt 64 (4 * o.toInt) := by
  have hshift : (o.signExtend 64) <<< 2 = BitVec.ofInt 64 (4 * o.toInt) := by
    rw [BitVec.ofInt_mul, BitVec.shiftLeft_eq_mul_twoPow, BitVec.mul_comm]
    rfl
  rw [State.relative, hshift]

/-- A transfer is taken: the next bundle is at the target, one frozen cycle later (R278, R283). -/
theorem State.jumpTo_goes {s : State} {target : DWord} (hf : s.follows = false) (ht : target.toNat < 2 ^ 56) :
    s.jumpTo target = .next (s.mapT fun t => { t with npc := some target, stall := t.stall + 1 }) := by
  simp [State.jumpTo, hf, (bits_63_56_eq_zero target).2 ht]

theorem State.jumpTo_traps {s : State} {target : DWord} (hf : s.follows = false) (ht : 2 ^ 56 ≤ target.toNat) :
    s.jumpTo target = s.trap 3 .page target := by
  have hne : bits target.toNat 63 56 ≠ 0 := fun h => by
    have := (bits_63_56_eq_zero target).1 h
    omega
  simp [State.jumpTo, hf, hne]

/-! ### CALL, JIND and RET (R280, R281) -/

theorem execCall_jumps {s : State} {d : BitVec 6} {i : BitVec 19} (ht : (s.relative (i.signExtend 64)).toNat < 2 ^ 56) :
    execCall d i s = (s.putC64 1 d 0 s.core.t.pcn).jumpTo (s.relative (i.signExtend 64)) := by
  simp [execCall, (bits_63_56_eq_zero _).2 ht]

theorem State.jumpInd_aligned {s : State} {a : BitVec 6} (ha : (s.srcC a).psn = none) (h4 : (s.srcC a).val.toNat % 4 = 0) :
    s.jumpInd a = s.jumpTo (s.srcC a).val := by
  have hb : bits (s.srcC a).val.toNat 1 0 = 0 := by simpa [bits_eq_div_mod] using h4
  simp [State.jumpInd, State.checked_clean, ha, hb]

theorem State.jumpInd_misaligned {s : State} {a : BitVec 6} (hf : s.follows = false) (ha : (s.srcC a).psn = none)
    (h4 : (s.srcC a).val.toNat % 4 ≠ 0) : s.jumpInd a = s.trap 3 .align (s.srcC a).val := by
  have hb : bits (s.srcC a).val.toNat 1 0 ≠ 0 := by simpa [bits_eq_div_mod] using h4
  simp [State.jumpInd, State.checked_clean, ha, hf, hb]

/-! ### The statement -/

/-- Settles O20: every transfer is `State.jumpTo` its target, which goes there or traps. -/
theorem branchesAndJumps : Obligations.BranchesAndJumps := by
  intro s k p a o i d hf hp ha go to16 to19
  have h16 : s.relative (o.signExtend 64) = to16 := s.relative_signExtend o
  have h19 : s.relative (i.signExtend 64) = to19 := s.relative_signExtend i
  have hbr : exec (.brCc k p o) s = if Machine.cond k.toNat (s.srcC p).val 0 then s.jumpTo to16 else .next s :=
    h16 ▸ s.checked_clean _ _ (by simp [hp])
  refine ⟨fun hc => hbr.trans (if_neg (ne_true_of_eq_false hc)), fun hc ht => (hbr.trans (if_pos hc)).trans (State.jumpTo_goes hf ht),
    fun ht => ⟨?jmp, ?call⟩, fun h4 ht => ⟨?jind, ?jind⟩, fun h4 => ⟨?misaligned, ?misaligned⟩, fun h4 ht => ?indPage,
    fun ht => ?jmpPage⟩
  case jmp => exact h19 ▸ State.jumpTo_goes hf (h19 ▸ ht)
  case call => exact h19 ▸ (execCall_jumps (h19 ▸ ht)).trans (State.jumpTo_goes hf (h19 ▸ ht))
  case jind => exact (State.jumpInd_aligned ha h4).trans (State.jumpTo_goes hf ht)
  case misaligned => exact State.jumpInd_misaligned hf ha h4
  case indPage => exact (State.jumpInd_aligned ha h4).trans (State.jumpTo_traps hf ht)
  case jmpPage => exact h19 ▸ State.jumpTo_traps hf (h19 ▸ ht)

end Sys2Proof.Machine
end

section
/-! Control registers, task control and the event latch (R157, R158, R160, R285 to R293). -/

namespace Sys2Proof.Machine

/-! ### A write of a control register (R143, R157, R285) -/

theorem csrOp_writes {s : State} (op : CsrOp) {a b : BitVec 6} (ha : (s.srcC a).psn = none) (h7 : b ≠ 7)
    (h8 : b = 8 → s.core.t.handler = true) : csrOp op a b s = .next (s.later 1 (.csr b.toNat op (s.srcC a).val)) := by
  have hn : ¬ (b = 8 ∧ s.core.t.handler = false) := fun ⟨hb, hh⟩ => Bool.false_ne_true (hh.symm.trans (h8 hb))
  exact (if_neg hn).trans ((s.checked_clean _ _ (by simp [ha])).trans (if_neg h7))

/-- TRAPPC outside handler mode is ILLEGAL, whatever its source holds (R143). -/
theorem csrOp_trappc {s : State} (op : CsrOp) (a : BitVec 6) (hh : s.core.t.handler = false) : csrOp op a 8 s = s.trap 1 .illegal 0 :=
  if_pos ⟨rfl, hh⟩

/-- A write of WLREACH goes to the keeper of the launch's hub, in a task launch (R128). -/
theorem execCswr_wlreach {s : State} {a : BitVec 6} (ha : (s.srcC a).psn = none) :
    execCswr a 7 s = if s.lrec.task then .next (s.push (.reachUpdate s.core.t.lslot ((s.srcC a).val.toNat % 64))) else .next s := by
  have hbits : bits (s.srcC a).val.toNat 5 0 = (s.srcC a).val.toNat % 64 := by simp [bits_eq_div_mod]
  have h8 : ¬ ((7 : BitVec 6) = 8 ∧ s.core.t.handler = false) := fun h => absurd h.1 (by decide)
  unfold execCswr csrOp
  rw [if_neg h8, s.checked_clean _ _ (by simp [ha]), if_pos rfl, ← hbits]

/-- Settles O22, by the ways of a control-register write: to the register at +1, to the keeper, or ILLEGAL. -/
theorem controlRegisters : Obligations.ControlRegisters := by
  intro s d a n w ha v
  exact ⟨rfl, fun h7 h8 => ⟨csrOp_writes .write ha h7 h8, csrOp_writes .set ha h7 h8, csrOp_writes .clear ha h7 h8⟩,
    fun ht => (execCswr_wlreach ha).trans (if_pos ht), fun ht => (execCswr_wlreach ha).trans (if_neg (by simp [ht])),
    fun hh => ⟨csrOp_trappc .write a hh, csrOp_trappc .set a hh⟩⟩

/-! ### What a control register holds after a write (R157, R285) -/

/-- The control registers without reserved bits: CKPTLIM, TRAPPC, TSCR0 to TSCR3 and WAITCNT. -/
def wholeCsrs : List Nat := [6, 8, 11, 12, 13, 14, 22]

/-- The value that a write, a set or a clear gives a register without reserved bits. -/
def CsrOp.full (op : CsrOp) (old v : DWord) : DWord :=
  match op with
  | .write => v
  | .set => old ||| v
  | .clear => old &&& ~~~v

theorem Thread.csrWrite_of_mask (t : Thread) {n : Nat} {mask : DWord} (op : CsrOp) (v : DWord) (h : csrMask n = some mask) :
    t.csrWrite n op v = t.setCsr n (csrLimits n (t.csrVal n) ((t.csrVal n &&& ~~~mask) ||| (op.full (t.csrVal n) v &&& mask))) := by
  unfold Thread.csrWrite
  rw [h]
  cases op <;> rfl

theorem Thread.csrWrite_readOnly (t : Thread) {n : Nat} (op : CsrOp) (v : DWord) (h : csrMask n = none) : t.csrWrite n op v = t := by
  unfold Thread.csrWrite
  rw [h]

theorem csrMask_whole {n : Nat} (h : n ∈ wholeCsrs) : csrMask n = some (BitVec.allOnes 64) := by
  revert n; decide

theorem csrLimits_whole {n : Nat} (old new : DWord) (h : n ∈ wholeCsrs) : csrLimits n old new = new := by
  unfold csrLimits
  split
  · exact absurd h (by decide)
  · exact absurd h (by decide)
  · exact absurd h (by decide)
  · rfl

theorem Thread.csrVal_setCsr_whole (t : Thread) {n : Nat} (v : DWord) (h : n ∈ wholeCsrs) : (t.setCsr n v).csrVal n = v := by
  simp only [wholeCsrs, List.mem_cons, List.not_mem_nil, or_false] at h
  rcases h with rfl | rfl | rfl | rfl | rfl | rfl | rfl <;> simp [Thread.setCsr, Thread.csrVal]

theorem Thread.csrVal_csrWrite_whole (t : Thread) {n : Nat} (op : CsrOp) (v : DWord) (h : n ∈ wholeCsrs) :
    (t.csrWrite n op v).csrVal n = op.full (t.csrVal n) v := by
  rw [t.csrWrite_of_mask op v (csrMask_whole h), csrLimits_whole _ _ h, t.csrVal_setCsr_whole _ h]
  simp only [BitVec.not_allOnes, BitVec.and_zero, BitVec.zero_or, BitVec.and_allOnes]

/-- Bits outside a mask keep their value when a write is made under it. -/
theorem and_not_of_masked (old new mask : DWord) : ((old &&& ~~~mask) ||| (new &&& mask)) &&& ~~~mask = old &&& ~~~mask := by
  ext i hi
  cases hm : mask[i] <;> simp [hm]

/-- Settles O23: registers without reserved bits take the whole value, reserved fields lie outside the mask, and read-only registers have none. -/
theorem controlWrites : Obligations.ControlWrites := by
  intro t v
  refine ⟨fun n hn => ⟨t.csrVal_csrWrite_whole .write v hn, t.csrVal_csrWrite_whole .set v hn, t.csrVal_csrWrite_whole .clear v hn⟩,
    fun op => ?stat, fun op => ?fpx, fun op n hn => ?readOnly⟩
  case stat =>
    rw [t.csrWrite_of_mask (n := 0) op v rfl]
    exact and_not_of_masked t.stat _ 0xFFFFFFFFFFF000E0
  case fpx =>
    rw [t.csrWrite_of_mask (n := 5) op v rfl]
    exact and_not_of_masked t.fpx _ 0x3F1F
  case readOnly =>
    have hmask : ∀ n ∈ [1, 2, 3, 4, 9, 10, 15, 21, 23], csrMask n = none := by decide
    exact t.csrWrite_readOnly op v (hmask n hn)

/-! ### The end and the suspension of work (R287 to R290) -/

@[simp] theorem State.queueOut_core (s : State) : s.queueOut.core = s.core := by unfold State.queueOut; split <;> rfl

theorem State.queueOut_sameMemory (s : State) : s.sameMemory s.queueOut := by
  unfold State.queueOut
  split <;> simp [State.sameMemory]

/-- TSUSP of a record that passes the checks: at most 16 registers live, a core of the launch's rectangle and die, outside a gang (R288). -/
theorem execTsusp_suspends {s : State} {a b : BitVec 6} (ha : (s.srcC a).psn = none) (hb : (s.srcC b).psn = none)
    (hh : s.core.t.handler = false) (hg : s.core.t.gang = false) (hp : s.core.t.prefixOpen = false) :
    let live := (s.srcC a).val.toNat / 2 ^ 32
    let v := (s.srcC b).val.low.toNat
    let there := cidOf (v / 8 % 32) (v / 256 % 32)
    liveOk live = true → v < 2 ^ 13 → s.lrec.has there = true → dieOf there = dieOf s.core.cid →
    execTsusp a b s = .next (s.mapT fun t => { t.finish .tsusp with task := { t.task with
      live := BitVec.ofNat 32 live, waitv := (s.srcC a).val.low, tln := v % 8, cx := v / 8 % 32, cy := v / 256 % 32 } }) := by
  intro live v there hl hv hr hd
  have hlive : bits (s.srcC a).val.toNat 63 32 = live := by
    have := (s.srcC a).val.isLt
    rw [bits_eq_div_mod]
    omega
  have htln : bits v 2 0 = v % 8 := by simp [bits_eq_div_mod]
  have hcx : bits v 7 3 = v / 8 % 32 := bits_eq_div_mod ..
  have hcy : bits v 12 8 = v / 256 % 32 := bits_eq_div_mod ..
  have hrest : bits v 31 13 = 0 := by rw [bits_eq_div_mod]; omega
  unfold execTsusp
  simp only [hh, hp, Bool.or_self, Bool.false_eq_true, if_false]
  rw [s.checked_clean _ _ (by simp [ha, hb]), hlive, htln, hcx, hcy, hrest, if_neg (by simp [hl, hr, hd, hg, there])]

/-- CKPT without a request does nothing (R290). -/
theorem execCkpt_idle {s : State} {a : BitVec 6} (ha : (s.srcC a).psn = none) (hs : s.core.t.stop = none) : execCkpt a s = .next s := by
  refine (s.checked_clean _ _ (by simp [ha])).trans (if_neg ?_)
  simp [State.ckptDue, hs]

/-- Settles O24: each word by the state that it leaves, whose registers and memories stand. -/
theorem taskControl : Obligations.TaskControl := by
  intro s a b ha hb
  refine ⟨rfl, fun hh => ⟨_, if_neg (by simp [hh]), ?tend⟩, fun hh hg => ?gang, fun hh hg hp => ?tyield, ?tsusp,
    execCkpt_idle ha⟩
  case tend =>
    rw [State.queueOut_core]
    exact ⟨rfl, rfl, Thread.sameRegs_refl _, State.queueOut_sameMemory _⟩
  case gang => exact (if_neg (by simp [hh])).trans (if_pos hg)
  case tyield =>
    exact ⟨_, (if_neg (by simp [hh])).trans ((if_neg (by simp [hg])).trans (if_neg (by simp [hp]))), rfl, rfl, rfl, s.core.t.sameRegs_refl,
      rfl, rfl, rfl, rfl, rfl, rfl, rfl⟩
  case tsusp =>
    intro live v there hh hg hp hl hv hr hd
    exact ⟨_, execTsusp_suspends ha hb hh hg hp hl hv hr hd, rfl, rfl, rfl, rfl, rfl, s.core.t.sameRegs_refl, rfl, rfl, rfl, rfl, rfl, rfl, rfl⟩

/-! ### Waits for the event latch (R167, R292, R293) -/

/-- The state in which WFE or SLEEP has issued: EV is cleared, and the core is not gated. -/
def State.woken (s : State) : State := { s with core := { s.core with gated := false, t := { s.core.t with ev := false } } }

theorem waitEvent_issues {s : State} (h : Hold) (he : s.core.t.ev = true) : waitEvent h s = .next s.woken := if_pos (by simp [he])

theorem waitEvent_waits {s : State} (he : s.core.t.ev = false) (hg : s.core.t.gang = false) :
    waitEvent .wfe s = s.wait .wfe
    ∧ waitEvent .sleep s = ({ s with core := { s.core with gated := s.core.gated || !s.core.t.passed } } : State).wait .sleep :=
  ⟨if_neg (by simp [he, hg]), if_neg (by simp [he, hg])⟩

/-- WAITCNT counts one until it saturates (R157). -/
theorem satAdd_waitcnt (x : DWord) (h : x.toNat + 1 < 2 ^ 64) : BitVec.ofNat 64 (satAdd 64 x.toNat 1) = x + 1 := by
  apply BitVec.eq_of_toNat_eq
  simp [satAdd]
  omega

/-- Settles O28: the two words issue alike, and wait alike but for the power gating of SLEEP. -/
theorem eventWaits : Obligations.EventWaits := by
  intro s
  refine ⟨fun he => ⟨s.woken, waitEvent_issues .wfe he, waitEvent_issues .sleep he, rfl, rfl, s.core.t.sameRegs_refl,
    s.core.t.sameControl_refl, rfl, rfl, rfl, rfl, rfl, rfl, rfl⟩, fun he hg => ?_⟩
  obtain ⟨hwfe, hsleep⟩ := waitEvent_waits he hg
  exact ⟨⟨_, hwfe, rfl, rfl, rfl, satAdd_waitcnt _⟩, ⟨_, hsleep, rfl, rfl, rfl⟩⟩

end Sys2Proof.Machine
end

section
/-! Words of the worked examples (R272, R274, R279, R284). -/

namespace Sys2Proof.Machine

/-- Settles O3: the decoder is run on each of the eleven words. -/
theorem specWordsDecode : Obligations.SpecWordsDecode :=
  ⟨rfl, rfl, rfl, rfl, rfl, rfl, rfl, rfl, rfl, rfl, rfl⟩

end Sys2Proof.Machine
end

section
/-! The V pipe on elements and lanes (R294 to R297, R300 to R311): fields of a word, folds over the lanes, the flags of words whose exceptions are
not enabled, and the tree of a reduction. -/

namespace Sys2Proof.Machine

/-! ### Elements of a lane (R294) -/

/-- The fields of width w that lie side by side, as a number. -/
def packed (w : Nat) (g : Nat → Nat) (n : Nat) : Nat := (List.range n).foldl (fun acc e => acc + g e * 2 ^ (w * e)) 0

theorem packed_succ (w : Nat) (g : Nat → Nat) (n : Nat) : packed w g (n + 1) = packed w g n + g n * 2 ^ (w * n) := by
  simp [packed, List.range_succ]

theorem packed_lt (w : Nat) (g : Nat → Nat) (n : Nat) (hg : ∀ e, g e < 2 ^ w) : packed w g n < 2 ^ (w * n) := by
  induction n with
  | zero => simp [packed]
  | succ n ih =>
    have hp : 2 ^ (w * (n + 1)) = 2 ^ w * 2 ^ (w * n) := by rw [Nat.mul_succ, Nat.pow_add, Nat.mul_comm]
    have hn : (g n + 1) * 2 ^ (w * n) ≤ 2 ^ w * 2 ^ (w * n) := Nat.mul_le_mul_right _ (hg n)
    rw [packed_succ, hp]
    rw [Nat.add_mul] at hn
    omega

/-- Each field of a packed number is the one packed there. -/
theorem packed_field (w : Nat) (g : Nat → Nat) (n e : Nat) (hg : ∀ e, g e < 2 ^ w) (he : e < n) :
    packed w g n / 2 ^ (w * e) % 2 ^ w = g e := by
  induction n with
  | zero => omega
  | succ n ih =>
    have hpos := Nat.two_pow_pos (w * e)
    rw [packed_succ]
    rcases Nat.lt_succ_iff_lt_or_eq.1 he with hlt | rfl
    · obtain ⟨k, rfl⟩ := Nat.exists_eq_add_of_lt hlt
      have hp : g (e + k + 1) * 2 ^ (w * (e + k + 1)) = 2 ^ w * (g (e + k + 1) * 2 ^ (w * k)) * 2 ^ (w * e) := by
        rw [Nat.mul_succ, Nat.mul_add, Nat.pow_add, Nat.pow_add]
        ac_rfl
      rw [hp, Nat.add_mul_div_right _ _ hpos, Nat.add_mul_mod_self_left]
      exact ih hlt
    · rw [Nat.add_mul_div_right _ _ hpos, Nat.div_eq_of_lt (packed_lt w g e hg), Nat.zero_add, Nat.mod_eq_of_lt (hg e)]

/-- The element widths of TI (R254). -/
theorem tiWidth_cases (t : BitVec 2) : tiWidth t = 32 ∨ tiWidth t = 16 ∨ tiWidth t = 8 := by
  revert t; decide

theorem bits_elem (w e x : Nat) (h : 0 < w) : bits x (w * e + w - 1) (w * e) = x / 2 ^ (w * e) % 2 ^ w := by
  rw [bits_eq_div_mod, show w * e + w - 1 - w * e + 1 = w by omega]

theorem elemsI_eq_packed (w : Nat) (f : Nat → Nat → Nat) (x y : Word) (h : 0 < w) :
    elemsI w f x y = BitVec.ofNat 32 (packed w (fun e => f (elemOf w e x) (elemOf w e y) % 2 ^ w) (32 / w)) := by
  simp only [elemsI, packed, elemOf, bits_elem w _ _ h]

theorem elemOf_elemsI (t : BitVec 2) (f : Nat → Nat → Nat) (x y : Word) (e : Nat) (he : e < 32 / tiWidth t) :
    elemOf (tiWidth t) e (elemsI (tiWidth t) f x y) = f (elemOf (tiWidth t) e x) (elemOf (tiWidth t) e y) % 2 ^ tiWidth t := by
  have hw : 0 < tiWidth t ∧ tiWidth t * (32 / tiWidth t) = 32 := by rcases tiWidth_cases t with h | h | h <;> simp [h]
  have hlt := fun e => Nat.mod_lt (f (elemOf (tiWidth t) e x) (elemOf (tiWidth t) e y)) (Nat.two_pow_pos (tiWidth t))
  have h32 := packed_lt (tiWidth t) _ (32 / tiWidth t) hlt
  rw [hw.2] at h32
  rw [elemsI_eq_packed _ _ _ _ hw.1, elemOf, BitVec.toNat_ofNat, Nat.mod_eq_of_lt h32, packed_field _ _ _ _ hlt he]

/-! ### Masks made lane by lane (R294) -/

/-- Bit e of a mask made lane by lane, as a number. -/
def maskBit (f : Fin 128 → Bool) (e : Nat) : Nat := if h : e < 128 then (f ⟨e, h⟩).toNat else 0

theorem maskBit_lt (f : Fin 128 → Bool) (e : Nat) : maskBit f e < 2 ^ 1 := by
  unfold maskBit
  split
  · exact Bool.toNat_lt _
  · decide

theorem maskOf_eq_packed (f : Fin 128 → Bool) : maskOf f = BitVec.ofNat 128 (packed 1 (maskBit f) 128) := by
  have hstep : (fun (m : Nat) (l : Fin 128) => if f l then m + 2 ^ l.val else m) = fun m l => m + maskBit f l.val * 2 ^ (1 * l.val) := by
    funext m l
    cases hl : f l <;> simp [maskBit, hl]
  have hlanes : List.range 128 = (List.finRange 128).map Fin.val := List.ext_getElem (by simp) fun i _ _ => by simp
  rw [maskOf, hstep, packed, hlanes, List.foldl_map]

theorem getLsbD_maskOf (f : Fin 128 → Bool) (l : Fin 128) : (maskOf f).getLsbD l = f l := by
  have hfield := packed_field 1 (maskBit f) 128 l.val (maskBit_lt f) l.isLt
  have hbit : maskBit f l.val = (f l).toNat := by simp [maskBit]
  rw [maskOf_eq_packed, BitVec.getLsbD_ofNat, Nat.testBit_eq_decide_div_mod_eq]
  rw [Nat.one_mul, hbit, Nat.pow_one] at hfield
  rw [hfield]
  cases f l <;> simp

/-- Settles O29: the elements of a lane are packed side by side, and so are the bits of a mask. -/
theorem elementsAlone : Obligations.ElementsAlone := ⟨fun t f x y e _ he => elemOf_elemsI t f x y e he, getLsbD_maskOf⟩

/-! ### Integer words (R300, R307) -/

theorem vint2_clean {s : State} (lat : Nat) (f : Word → Word → Word) {d : BitVec 6} {w : BitVec 1} {a b : BitVec 6} {g : Word → Word → Word}
    (ha : (s.srcV a).psn = none) (hb : (s.srcV b).psn = none) (hf : f = g) :
    vint2 lat f d w a b s = .next (s.putV lat d w (lanesOf fun l => g (s.srcV a)[l].val (s.srcV b)[l].val)) :=
  hf ▸ s.checked_clean _ _ (by simp [ha, hb])

/-- A word with the Z field saturates when it is 1, and wraps otherwise (R300). -/
theorem signedOp_sat (n : Nat) (z : BitVec 1) (f : Int → Int → Int) :
    signedOp n (z == 1) f = fun x y => let v := f (sextInt x n) (sextInt y n); if z = 1 then clampTo n v else codeTo n v := by
  funext x y
  simp only [signedOp, beq_iff_eq]

theorem signedOp_min (n : Nat) :
    signedOp n false (fun x y => if x ≤ y then x else y) = fun x y => codeTo n (min (sextInt x n) (sextInt y n)) := by
  funext x y
  simp [signedOp, Int.min_def]

theorem signedOp_max (n : Nat) :
    signedOp n false (fun x y => if x ≤ y then y else x) = fun x y => codeTo n (max (sextInt x n) (sextInt y n)) := by
  funext x y
  simp [signedOp, Int.max_def]

/-- Settles O30: each word is `vint2_clean` of its function, which acts on the elements by `elemOf_elemsI`. -/
theorem vectorInteger : Obligations.VectorInteger := by
  intro s d w a b z t ha hb n put arith
  have elems : ∀ f {g : Nat → Nat → Nat}, f (tiWidth t) = g → vintT t f d w a b s = put 2 (elemsI n g) :=
    fun f _ hf => vint2_clean 2 _ ha hb (congrArg (elemsI n) hf)
  refine ⟨elems (fun n => signedOp n (z == 1) fun x y => x + y) (signedOp_sat n z _),
    elems (fun n => signedOp n (z == 1) fun x y => x - y) (signedOp_sat n z _),
    elems (fun n => signedOp n (z == 1) fun x y => x * y) (signedOp_sat n z _),
    elems (fun n => signedOp n false fun x y => if x ≤ y then x else y) (signedOp_min n),
    elems (fun n => signedOp n false fun x y => if x ≤ y then y else x) (signedOp_max n), vint2_clean 2 _ ha hb rfl, vint2_clean 2 _ ha hb rfl,
    vint2_clean 2 _ ha hb rfl, elems (fun n x y => x * 2 ^ (y % n)) rfl, elems (fun n x y => x / 2 ^ (y % n)) rfl,
    elems (fun n x y => codeTo n (sextInt x n / (2 ^ (y % n) : Nat))) ?sra, vint2_clean 3 _ ha hb rfl⟩
  case sra =>
    push_cast
    rfl

/-! ### Words whose exceptions are not enabled (R160, R297) -/

@[simp] theorem State.fpSticky_zero (s : State) : s.fpSticky 0 = s := if_pos rfl

theorem State.raising_disabled {s : State} (e : Exc) (k : State → Out) (h : fpxEn s.core.t.fpxAtCheck = 0) :
    s.raising e k = k (s.fpSticky e) := by
  simp [State.raising, h]

/-- A float word on clean sources sets its flags and puts its lanes in flight. -/
theorem State.checked_floatV {s : State} {xs : List Psn} (lat : Nat) {d : BitVec 6} {w : BitVec 1} (r : Vector (Word × Exc) 128)
    (hx : ∀ x ∈ xs, x = none) (h : fpxEn s.core.t.fpxAtCheck = 0) :
    s.checked xs (s.floatV lat d w r) = .next ((s.fpSticky (excOf r)).putV lat d w (wordsOf r)) :=
  (s.checked_clean _ _ hx).trans (State.raising_disabled _ _ h)

/-- Settles O33: each word is a float word of its lane function on clean sources. -/
theorem vectorConvertDotSpecial : Obligations.VectorConvertDotSpecial := by
  intro s d w a b r p x f u ty ha hb hd he done fn
  have one : ∀ p ∈ [(s.srcV a).psn], p = none := by simp [ha]
  have three : ∀ p ∈ [(s.srcV a).psn, (s.srcV b).psn, (s.srcV d).psn], p = none := by simp [ha, hb, hd]
  have cvt : ∀ p ∈ (s.srcV a).psn :: (if rmOf r.toNat = .sr then [(s.srcV d).psn] else []), p = none := by
    split <;> simp [ha, hd]
  exact ⟨State.checked_floatV 4 _ cvt he, State.checked_floatV 5 _ three he, State.checked_floatV 5 _ three he, State.checked_floatV 8 _ one he,
    State.checked_floatV 8 _ one he, State.checked_floatV 8 _ one he, State.checked_floatV 8 _ one he⟩

/-! ### Compares, selects and masks (R301 to R303) -/

/-- Only a compare of binary32 lanes raises exceptions. -/
theorem vcmpLane_exc {t : BitVec 2} (k : BitVec 4) (x y : Word) (h : t ≠ 0) : (vcmpLane t k x y).2 = 0 := by
  unfold vcmpLane
  split
  · next h0 => exact absurd (BitVec.eq_of_toNat_eq h0) h
  · rfl
  · rfl

theorem foldl_or_zero {α : Type} (g : α → Exc) (xs : List α) (h : ∀ x ∈ xs, g x = 0) : xs.foldl (fun e x => e ||| g x) 0 = 0 := by
  induction xs with
  | nil => rfl
  | cons x xs ih =>
    rw [List.foldl_cons, h x List.mem_cons_self]
    exact ih fun y hy => h y (List.mem_cons_of_mem _ hy)

/-- A field of class k that names p reads p (R303). -/
theorem truncate_zeroExtend_3 (p : BitVec 3) : (p.zeroExtend 6).truncate 3 = p := by
  revert p; decide

/-- Settles O34: compares by their lanes, masks by the k registers that their fields name. -/
theorem vectorCompareMask : Obligations.VectorCompareMask := by
  intro s d w a b t k m p q ha hb he kres
  have hp := truncate_zeroExtend_3 p
  have hq := truncate_zeroExtend_3 q
  have two : ∀ p ∈ [(s.srcV a).psn, (s.srcV b).psn], p = none := by simp [ha, hb]
  have hcmp : exec (.vcmpCc d w a b t k) s
      = .next ((s.fpSticky ((List.finRange 128).foldl (fun (e : Exc) l => e ||| (vcmpLane t k (s.srcV a)[l].val (s.srcV b)[l].val).2) 0)).later 2
        (.kResult d (w == 1) (maskOf fun l => (vcmpLane t k (s.srcV a)[l].val (s.srcV b)[l].val).1))) :=
    (s.checked_clean _ _ two).trans (State.raising_disabled _ _ he)
  refine ⟨fun ht => ?cmp, fun _ => ⟨_, hcmp⟩, s.checked_clean _ _ two, ?kand, ?kor, ?knot, ?kcnt⟩
  case cmp => rw [hcmp, foldl_or_zero _ _ fun l _ => vcmpLane_exc k _ _ ht, State.fpSticky_zero]
  case kand => exact (congrArg (fun x => kres (s.core.t.getK x &&& _)) hp).trans (congrArg (fun y => kres (s.core.t.getK p &&& s.core.t.getK y)) hq)
  case kor => exact (congrArg (fun x => kres (s.core.t.getK x ||| _)) hp).trans (congrArg (fun y => kres (s.core.t.getK p ||| s.core.t.getK y)) hq)
  case knot => exact congrArg (fun x => kres (~~~(s.core.t.getK x))) hp
  case kcnt =>
    have hk : exec (.kcnt d w (p.zeroExtend 6)) s = .next (s.later 2
        (.vsResult d (w == 1) ⟨BitVec.ofNat 32 (popcNat 128 (s.core.t.getK ((p.zeroExtend 6).truncate 3)).toNat), none⟩)) := rfl
    rw [hk, hp, popcNat_eq_countP]
    rfl

/-! ### Reductions (R311) -/

/-- A map that goes through each step of a tree goes through the tree. -/
theorem map_treeLevel {α β : Type} {f : α → α → α} {g : β → β → β} (p : α → β) (h : ∀ x y, p (f x y) = g (p x) (p y))
    (xs : List α) : (treeLevel f xs).map p = treeLevel g (xs.map p) := by
  induction xs using treeLevel.induct with
  | case1 x y rest ih => simp [treeLevel, h, ih]
  | case2 xs hshort =>
    rw [treeLevel.eq_def f xs]
    match xs with
    | [] => rfl
    | [x] => rfl
    | x :: y :: rest => exact absurd rfl (hshort x y rest)

theorem map_tree16 {α β : Type} {f : α → α → α} {g : β → β → β} (p : α → β) (h : ∀ x y, p (f x y) = g (p x) (p y))
    (xs : List α) : (tree16 f xs).map p = tree16 g (xs.map p) := by
  simp only [tree16, map_treeLevel p h]

/-- The result of a section with the exceptions that its tree has gathered. -/
def sectionTree (f : Word × Exc → Word × Exc → Word × Exc) (x : Lanes) (n : Nat) : Word × Exc :=
  (tree16 f ((sectionOf x n).map fun v => (v, 0))).headD (0, 0)

theorem sectionTree_proj {β : Type} {f : Word × Exc → Word × Exc → Word × Exc} {g : β → β → β} (p : Word × Exc → β)
    (h : ∀ x y, p (f x y) = g (p x) (p y)) (x : Lanes) (n : Nat) :
    p (sectionTree f x n) = (tree16 g ((sectionOf x n).map fun v => p (v, 0))).headD (p (0, 0)) := by
  have hmap := map_tree16 p h ((sectionOf x n).map fun v => (v, 0))
  rw [List.map_map, Function.comp_def] at hmap
  rw [← hmap, sectionTree]
  cases tree16 f ((sectionOf x n).map fun v => (v, 0)) <;> rfl

/-- The exceptions of all eight sections together. -/
def sectionsExc (f : Word × Exc → Word × Exc → Word × Exc) (x : Lanes) : Exc :=
  ((List.range 8).map (sectionTree f x)).foldl (fun (e : Exc) y => e ||| y.2) 0

/-- A reduction on a clean source: each lane takes the tree of its section, and the exceptions of the steps gather. -/
theorem vred_clean {s : State} {f : Word × Exc → Word × Exc → Word × Exc} (g : Word → Word → Word) {d : BitVec 6} {w : BitVec 1}
    {a : BitVec 6} (hf : ∀ x y, (f x y).1 = g x.1 y.1) (ha : (s.srcV a).psn = none) (he : fpxEn s.core.t.fpxAtCheck = 0) :
    vred f d w a s = .next ((s.fpSticky (sectionsExc f (s.srcV a))).putV 6 d w
      (lanesOf fun l => (tree16 g (sectionOf (s.srcV a) (l.val / 16))).headD 0)) := by
  have hlane : ∀ l : Fin 128, (((List.range 8).map (sectionTree f (s.srcV a))).getD (l.val / 16) (0, 0)).1
      = (tree16 g (sectionOf (s.srcV a) (l.val / 16))).headD 0 := fun l => by
    have hl : l.val / 16 < 8 := by omega
    simp [hl, sectionTree_proj Prod.fst hf]
  refine (s.checked_clean _ _ (by simp [ha])).trans ((State.raising_disabled _ _ he).trans ?_)
  simp only [← hlane]
  rfl

/-- A step that raises nothing leaves nothing to gather. -/
theorem sectionsExc_zero {f : Word × Exc → Word × Exc → Word × Exc} (h : ∀ x y, (f x y).2 = 0) (x : Lanes) : sectionsExc f x = 0 := by
  have htree : ∀ n, (sectionTree f x n).2 = 0 := fun n => sectionTree_proj (g := fun _ _ => 0) Prod.snd h x n
  rw [sectionsExc, List.foldl_map]
  exact foldl_or_zero _ _ fun n _ => htree n

theorem vredI_clean {s : State} (g : Word → Word → Word) {d : BitVec 6} {w : BitVec 1} {a : BitVec 6} (ha : (s.srcV a).psn = none)
    (he : fpxEn s.core.t.fpxAtCheck = 0) :
    vred (vredI g) d w a s = .next (s.putV 6 d w (lanesOf fun l => (tree16 g (sectionOf (s.srcV a) (l.val / 16))).headD 0)) := by
  rw [vred_clean g (fun _ _ => rfl) ha he, sectionsExc_zero (fun _ _ => rfl), State.fpSticky_zero]

/-! ### Lanes by number (R308 to R310) -/

theorem laneAt_congr {m n : Nat} (h : m % 128 = n % 128) : laneAt m = laneAt n := Fin.ext h

theorem Lanes.all_eq_lanesOf (v : Word) : Lanes.all ⟨v, none⟩ = lanesOf fun _ => v := by
  apply Vector.ext
  intro i hi
  simp [Lanes.all, lanesOf]

/-- Settles O35: lanes by their numbers modulo 128, reductions by their trees. -/
theorem vectorLanes : Obligations.VectorLanes := by
  intro s d w a b n ha hb hva hvb he x red
  refine ⟨(s.checked_clean _ _ (by simp [hva])).trans ?bcast, (s.checked_clean _ _ (by simp [ha, hvb])).trans ?lane,
    (s.checked_clean _ _ (by simp [ha, hb])).trans ?perm, (s.checked_clean _ _ (by simp [ha])).trans ?copy, vredI_clean _ ha he, vredI_clean _ ha he,
    vredI_clean _ ha he, ⟨_, vred_clean _ (fun _ _ => rfl) ha he⟩, ⟨_, vred_clean _ (fun _ _ => rfl) ha he⟩,
    ⟨_, vred_clean _ (fun _ _ => rfl) ha he⟩⟩
  case bcast => rw [Lanes.all_eq_lanesOf]
  case lane =>
    have hl : laneAt (s.srcVS b).val.toNat = laneAt ((s.srcVS b).val.toNat % 128) := laneAt_congr (Nat.mod_mod _ _).symm
    exact congrArg (fun l : Fin 128 => (.next (s.later 2 (.vsResult d (w == 1) x[l])) : Out)) hl
  case perm =>
    have hl : ∀ l : Fin 128, l.val / 16 * 16 = 16 * (l.val / 16) := fun l => Nat.mul_comm _ _
    simp only [hl]
    rfl
  case copy =>
    have hl : ∀ l : Fin 128, laneAt (l.val + 128 - 16 * n.toNat) = laneAt (16 * ((l.val / 16 + 8 - n.toNat) % 8) + l.val % 16) :=
      fun l => laneAt_congr (by have := n.isLt; omega)
    simp only [hl]
    rfl

end Sys2Proof.Machine
end

section
/-! Configuration of the stream array (R320 to R323, R337): what the fields of a control register hold after a write, and the words of a shadow
nest table. -/

namespace Sys2Proof.Machine

/-! ### A field at the low end of a control register (R157) -/

/-- The k low bits taken from v and the others from old. -/
theorem toNat_lowField (old v : DWord) {k : Nat} (hk : k ≤ 64) :
    ((old &&& ~~~(BitVec.ofNat 64 (2 ^ k - 1))) ||| (v &&& BitVec.ofNat 64 (2 ^ k - 1))).toNat
      = 2 ^ k * (old.toNat / 2 ^ k) + v.toNat % 2 ^ k := by
  have hlt : v.toNat % 2 ^ k < 2 ^ k := Nat.mod_lt _ (Nat.two_pow_pos k)
  apply Nat.eq_of_testBit_eq
  intro j
  rw [Nat.testBit_two_pow_mul_add _ hlt, BitVec.testBit_toNat, Nat.testBit_div_two_pow, Nat.testBit_mod_two_pow]
  simp only [BitVec.getLsbD_or, BitVec.getLsbD_and, BitVec.getLsbD_not, BitVec.getLsbD_ofNat, Nat.testBit_two_pow_sub_one, BitVec.testBit_toNat]
  by_cases hj : j < k
  · have : j < 64 := by omega
    simp [hj, this]
  · have hle : k ≤ j := by omega
    rw [Nat.sub_add_cancel hle]
    by_cases h64 : j < 64
    · simp [hj, h64]
    · simp [hj, h64, BitVec.getLsbD_of_ge _ _ (by omega : 64 ≤ j)]

/-- The register that a write of its k low bits gives, before any limit of its value. -/
theorem Thread.csrWrite_lowField (t : Thread) {n : Nat} (v : DWord) {mask : DWord} (k : Nat) (hm : csrMask n = some mask)
    (hk : mask = BitVec.ofNat 64 (2 ^ k - 1)) (h : k ≤ 64) :
    ∃ new : DWord, t.csrWrite n .write v = t.setCsr n (csrLimits n (t.csrVal n) new)
      ∧ new.toNat = 2 ^ k * ((t.csrVal n).toNat / 2 ^ k) + v.toNat % 2 ^ k := by
  subst hk
  exact ⟨_, t.csrWrite_of_mask .write v hm, toNat_lowField _ _ h⟩

/-- SL.M takes 4 to 16 only (R320). -/
theorem Thread.csrWrite_sl (t : Thread) (v : DWord) :
    (t.csrWrite 16 .write v).sl = if 4 ≤ v.toNat % 32 ∧ v.toNat % 32 ≤ 16 then t.sl / 32 * 32 + v % 32 else t.sl := by
  obtain ⟨new, hw, hnew⟩ := t.csrWrite_lowField (n := 16) v 5 rfl rfl (by decide)
  have hval : new = t.sl / 32 * 32 + v % 32 := by
    have := t.sl.isLt
    apply BitVec.eq_of_toNat_eq
    rw [hnew]
    simp [Thread.csrVal]
    omega
  have hbits : bits new.toNat 4 0 = v.toNat % 32 := by
    rw [bits_eq_div_mod, hnew]
    omega
  rw [hw, ← hval, ← hbits]
  rfl

/-- PROF.N takes 0 to 12 only (R321). -/
theorem Thread.csrWrite_prof (t : Thread) (v : DWord) :
    (t.csrWrite 19 .write v).prof = if v.toNat % 256 ≤ 12 then t.prof / 256 * 256 + v % 256 else t.prof := by
  obtain ⟨new, hw, hnew⟩ := t.csrWrite_lowField (n := 19) v 8 rfl rfl (by decide)
  have hval : new = t.prof / 256 * 256 + v % 256 := by
    have := t.prof.isLt
    apply BitVec.eq_of_toNat_eq
    rw [hnew]
    simp [Thread.csrVal]
    omega
  have hbits : bits new.toNat 7 0 = v.toNat % 256 := by
    rw [bits_eq_div_mod, hnew]
    omega
  rw [hw, ← hval, ← hbits]
  rfl

/-- A seed takes the low 16 bits of what is written (R322). -/
theorem Thread.csrWrite_seed (t : Thread) (v : DWord) :
    (t.csrWrite 17 .write v).seeda.toNat % 2 ^ 16 = v.toNat % 2 ^ 16 ∧ (t.csrWrite 18 .write v).seedb.toNat % 2 ^ 16 = v.toNat % 2 ^ 16 := by
  obtain ⟨a, ha, hanew⟩ := t.csrWrite_lowField (n := 17) v 16 rfl rfl (by decide)
  obtain ⟨b, hb, hbnew⟩ := t.csrWrite_lowField (n := 18) v 16 rfl rfl (by decide)
  rw [ha, hb]
  refine ⟨?_, ?_⟩
  · change a.toNat % _ = _
    omega
  · change b.toNat % _ = _
    omega

/-! ### Shadow nest tables (R323) -/

theorem Thread.ntShadow_setNt (t : Thread) (nt w : Nat) (x : Word) (k : Fin 8) (i : Fin 32) :
    ((t.setNt nt w x).ntShadow[k])[i] = if k.val = nt ∧ i.val = w then x else (t.ntShadow[k])[i] := by
  unfold Thread.setNt
  split
  · split
    · by_cases hk : k.val = nt
      · subst hk
        by_cases hi : i.val = w
        · simp [hi]
        · simp [hi, Ne.symm hi]
      · simp [hk, Ne.symm hk]
    · next hw => exact (if_neg fun (h : _ ∧ i.val = w) => hw (h.2 ▸ i.isLt)).symm
  · next hn => exact (if_neg fun (h : k.val = nt ∧ _) => hn (h.1 ▸ k.isLt)).symm

theorem Thread.ntShadow_ntClear (t : Thread) (k : Fin 8) (i : Fin 32) : ((t.apply (.ntClear k.val)).ntShadow[k])[i] = 0 := by
  simp [Thread.apply]

theorem Thread.ntActive_setNt (t : Thread) (nt w : Nat) (x : Word) : (t.setNt nt w x).ntActive = t.ntActive := by
  unfold Thread.setNt
  split
  · split <;> rfl
  · rfl

theorem Thread.ntActive_ntClear (t : Thread) (nt : Nat) : (t.apply (.ntClear nt)).ntActive = t.ntActive := by
  simp only [Thread.apply]
  split <;> rfl

/-! ### EBND at the check stage (R337) -/

/-- With no update of EBND on its way, a word that issues finds the register. -/
theorem Thread.ebndAtCheck_stands (t : Thread) (h : ∀ f ∈ t.flights, ∀ z, f.fx ≠ .ebnd z) : t.ebndAtCheck = t.ebnd := by
  have hfold : ∀ (fs : List Flight) (v : DWord), (∀ f ∈ fs, ∀ z, f.fx ≠ .ebnd z) →
      fs.foldl (fun v f => match f.fx with | .ebnd x => x | _ => v) v = v := by
    intro fs
    induction fs with
    | nil => exact fun _ _ => rfl
    | cons f fs ih =>
      intro v hf
      rw [List.foldl_cons]
      split
      · next z hz => exact absurd hz (hf f List.mem_cons_self z)
      · exact ih v fun g hg => hf g (List.mem_cons_of_mem _ hg)
  exact hfold _ _ h

/-- Settles O38: the words put their writes in flight, and the registers and tables take them by the lemmas above. -/
theorem streamConfiguration : Obligations.StreamConfiguration := by
  refine ⟨?words, fun t v nt w x n k i => ⟨t.csrWrite_sl v, t.csrWrite_prof v, (t.csrWrite_seed v).1, (t.csrWrite_seed v).2, fun hn hw => ?set,
    fun _ hki => ?setFrame, fun hn => ?clear, t.ntActive_setNt nt w x, t.ntActive_ntClear nt⟩⟩
  case words =>
    intro s m x r w p n v hr y
    have h16 : bits y 15 0 = y % 2 ^ 16 := by simp [bits_eq_div_mod]
    have clean : ∀ k, s.checked [(s.srcS r).psn] k = k := fun k => s.checked_clean _ _ (by simp [hr])
    refine ⟨rfl, (clean _).trans ?seed, rfl, (clean _).trans ?mode, clean _, rfl, fun h => ?ebnd⟩
    case seed => rw [State.configure, ← h16]
    case mode => rw [State.configure, ← h16]
    case ebnd => rw [← s.core.t.ebndAtCheck_stands h]; rfl
  case set => exact (t.ntShadow_setNt nt w x n i).trans (if_pos ⟨hn.symm, hw.symm⟩)
  case setFrame => exact (t.ntShadow_setNt nt w x k i).trans (if_neg fun h => hki.elim (absurd h.1) (absurd h.2))
  case clear => exact hn ▸ t.ntShadow_ntClear n i

end Sys2Proof.Machine
end

section
/-! What the reads of the stream array deliver (R334 to R336): the largest running sum of SCONF, and the lanes of SPART and SREAD. -/

namespace Sys2Proof.Machine

/-! ### Dyadic values compared (R202) -/

theorem Dy.toRat_lt_iff (x y : Dy) : x.toRat < y.toRat ↔ x.at (min x.exp y.exp) < y.at (min x.exp y.exp) := by
  have hpos : (0 : Rat) < 2 ^ min x.exp y.exp := Rat.zpow_pos (by decide)
  rw [← x.at_mul_two_zpow (Int.min_le_left _ y.exp), ← y.at_mul_two_zpow (Int.min_le_right x.exp _), Rat.mul_lt_mul_right hpos,
    Rat.intCast_lt_intCast]

theorem Dy.lt_iff (x y : Dy) : x.lt y = true ↔ x.toRat < y.toRat := by
  rw [Dy.toRat_lt_iff]
  exact decide_eq_true_iff

theorem Dy.lt_eq_false_iff (x y : Dy) : x.lt y = false ↔ y.toRat ≤ x.toRat := by
  rw [← Bool.not_eq_true, Dy.lt_iff, Rat.not_lt]

theorem Dy.eq_iff (x y : Dy) : x.eq y = true ↔ x.toRat = y.toRat := by
  have hxy := x.toRat_lt_iff y
  have hyx := y.toRat_lt_iff x
  rw [Int.min_comm] at hyx
  have heq : x.eq y = true ↔ x.at (min x.exp y.exp) = y.at (min x.exp y.exp) := decide_eq_true_iff
  rw [heq]
  constructor
  · intro h
    exact Rat.le_antisymm (Rat.not_lt.1 fun hl => absurd (hyx.1 hl) (by omega)) (Rat.not_lt.1 fun hl => absurd (hxy.1 hl) (by omega))
  · intro h
    have h1 : ¬ x.toRat < y.toRat := h ▸ Rat.lt_irrefl
    have h2 : ¬ y.toRat < x.toRat := h ▸ Rat.lt_irrefl
    rw [hxy] at h1
    rw [hyx] at h2
    omega

/-! ### The first column with the largest value (R335) -/

/-- A column is first among the largest: no other holds more, and none of a lower number as much. -/
def firstLargest (v : Nat → Dy) (cols : List Nat) (best : Nat) : Prop :=
  best ∈ cols ∧ ∀ c ∈ cols, Dy.lt (v best) (v c) = false ∧ (Dy.lt (v c) (v best) = false → best ≤ c)

theorem bestColumn_firstLargest (v : Nat → Dy) (cols : List Nat) (h : cols ≠ []) :
    ∃ best, bestColumn v cols = some best ∧ firstLargest v cols best := by
  induction cols with
  | nil => exact absurd rfl h
  | cons c cs ih =>
    cases cs with
    | nil => exact ⟨c, rfl, List.mem_cons_self, List.forall_mem_singleton.2 ⟨(Dy.lt_eq_false_iff _ _).2 Rat.le_refl, fun _ => Nat.le_refl _⟩⟩
    | cons c' cs =>
      obtain ⟨d, hd, hmem, hbest⟩ := ih (List.cons_ne_nil _ _)
      simp only [Dy.lt_eq_false_iff] at hbest
      simp only [firstLargest, Dy.lt_eq_false_iff]
      rw [bestColumn, hd]
      dsimp only
      split
      next hc =>
        have hc' : (v c).toRat < (v d).toRat ∨ (v c).toRat = (v d).toRat ∧ d < c := by simpa [Dy.lt_iff, Dy.eq_iff] using hc
        refine ⟨d, rfl, List.mem_cons_of_mem _ hmem, fun x hx => ?_⟩
        rcases List.mem_cons.1 hx with rfl | hx
        · exact ⟨hc'.elim Rat.le_of_lt fun h => Rat.le_iff_lt_or_eq.2 (.inr h.1),
            fun hle => hc'.elim (fun h => absurd h (Rat.not_lt.2 hle)) fun h => Nat.le_of_lt h.2⟩
        · exact hbest x hx
      next hc =>
        have hc' : (v d).toRat ≤ (v c).toRat ∧ ((v c).toRat = (v d).toRat → c ≤ d) := by
          simpa [Dy.lt_iff, Dy.eq_iff, Rat.not_lt] using hc
        obtain ⟨hdc, hcd⟩ := hc'
        refine ⟨c, rfl, List.mem_cons_self, fun x hx => ?_⟩
        rcases List.mem_cons.1 hx with rfl | hx
        · exact ⟨Rat.le_refl, fun _ => Nat.le_refl _⟩
        · obtain ⟨hxd, hdx⟩ := hbest x hx
          have hxc := Rat.le_trans hxd hdc
          refine ⟨hxc, fun hcx => Nat.le_trans (hcd ?_) (hdx (Rat.le_trans hdc hcx))⟩
          exact Rat.le_antisymm (Rat.le_trans hcx hxd) hdc

/-! ### SPART (R334) -/

/-- The accumulator that lane l of a read takes, from a row on. -/
def SArray.laneAcc (a : SArray) (row l : Nat) : Acc := a.at ((row + l / 64) % 64) (l % 64)

theorem exec_spart_clean {s : State} (v : BitVec 6) {r : BitVec 5} (hr : (s.srcS r).psn = none) (he : fpxEn s.core.t.fpxAtCheck = 0) :
    let arr := s.core.t.arr
    let acc := fun (l : Fin 128) => arr.laneAcc ((s.srcS r).val.toNat % 64) l.val
    ∃ e, exec (.spart v r) s = .next ((s.fpSticky e).later 8 (.sResult v (Vector.ofFn fun l =>
      ⟨BitVec.ofNat 32 (satCode 0 .rne ((acc l).dyadic (acc l).p arr.prefixShift) 0).1, (acc l).psn⟩))) :=
  ⟨_, (s.checked_clean _ _ (by simp [hr])).trans (State.raising_disabled _ _ he)⟩

/-! ### SCONF (R335) -/

/-- Lane 0 of SCONF names the column. -/
theorem exec_sconf_clean {s : State} (v : BitVec 6) {r : BitVec 5} (hr : (s.srcS r).psn = none) :
    let arr := s.core.t.arr
    let y := (s.srcS r).val.toNat
    let n := y / 2 ^ 12 % 8
    let cols := (List.range (2 ^ n)).map fun i => (y / 64 % 64 + i) % 64
    let value := fun c => (arr.at (y % 64) c).dyadic (arr.at (y % 64) c).p arr.prefixShift
    n ≠ 0 → n ≠ 7 → ∃ L : Lanes, exec (.sconf v r) s = .next (s.later 4 (.sResult v L))
      ∧ L[(0 : Fin 128)].val = BitVec.ofNat 32 ((bestColumn value cols).getD 0) := by
  intro arr y n cols value h0 h7
  have hn : bits y 14 12 = n := bits_eq_div_mod ..
  have hc : bits y 11 6 = y / 64 % 64 := bits_eq_div_mod ..
  have hrow : bits y 5 0 = y % 64 := by simp [bits_eq_div_mod]
  have hlegal : ¬ (bits y 14 12 = 0 ∨ bits y 14 12 = 7) := by simp [hn, h0, h7]
  simp only [cols, value, ← hn, ← hc, ← hrow]
  exact ⟨_, (s.checked_clean _ _ (by simp [hr])).trans (if_neg hlegal), congrArg PWord.val (Vector.getElem_ofFn _)⟩

/-! ### SREAD (R336) -/

theorem exec_sread_clean {s : State} (p : BitVec 8) (v : BitVec 6) {r : BitVec 5} (hr : (s.srcS r).psn = none)
    (he : fpxEn s.core.t.fpxAtCheck = 0) :
    let arr := s.core.t.arr
    let row := (s.srcS r).val.toNat % 64
    let o := s.core.t.readOut p row
    (o.rm = 4 → (s.srcV v).psn = none) →
    ∃ e L, exec (.sread p v r) s = .next ((s.fpSticky e).later 8 (.sResult v L))
      ∧ ∀ l : Fin 128, L[l].val = (arr.readLane o row (if o.rm = 4 then (s.srcV v)[l].val.toNat else 0) l.val).1 := by
  intro arr row o hv
  have hclean : ∀ x ∈ [(s.srcS r).psn, if o.rm = 4 then (s.srcV v).psn else none], x = none := by
    split
    next h => simp [hr, hv h]
    next => simp [hr]
  exact ⟨_, _, (s.checked_clean _ _ hclean).trans (State.raising_disabled _ _ he), fun l => congrArg PWord.val (Vector.getElem_ofFn _)⟩

/-- A binary32 read-out rounded to nearest delivers one sum a lane, and 0 where no pair has been added. -/
theorem SArray.readLane_binary32 (a : SArray) (prof row r l : Nat) :
    (a.readLane ⟨0, 0, prof⟩ row r l).1 = BitVec.ofNat 32
      (satCode 0 .rne (if (a.laneAcc row l).npair = 0 then ⟨0, 0⟩ else (a.laneAcc row l).dyadic (a.laneAcc row l).q 0) r).1 := by
  have hone : List.range 1 = [0] := rfl
  unfold SArray.laneAcc
  simp [SArray.readLane, perLane, rmOf, RM.ofField, hone]

/-- Settles O40: SPART and SREAD lane by lane, SCONF by `bestColumn_firstLargest`. -/
theorem arrayReads : Obligations.ArrayReads := by
  intro s v r p hr he arr y code32
  refine ⟨?spart, fun h0 h7 => ?sconf, fun ho => ?binary32, fun ho => ?other, fun ho hv => ?stochastic⟩
  case spart =>
    obtain ⟨e, hexec⟩ := exec_spart_clean v hr he
    exact ⟨e, _, hexec, fun l => ⟨congrArg PWord.val (Vector.getElem_ofFn _), congrArg PWord.psn (Vector.getElem_ofFn _)⟩⟩
  case sconf =>
    obtain ⟨L, hexec, hL⟩ := exec_sconf_clean v hr h0 h7
    refine ⟨L, hexec, ?_⟩
    intro cols value best
    obtain ⟨c, hc, hmem, hlargest⟩ := bestColumn_firstLargest value cols (by simp [cols])
    have hc64 : c < 64 := by
      obtain ⟨i, -, rfl⟩ := List.mem_map.1 hmem
      exact Nat.mod_lt _ (by decide)
    have hbest : best = c := by
      rw [show best = _ from congrArg BitVec.toNat hL, hc, Option.getD_some, BitVec.toNat_ofNat]
      omega
    rw [hbest]
    exact ⟨hmem, hlargest⟩
  case binary32 =>
    have hrm : (s.core.t.readOut p (y % 64)).rm ≠ 4 := by
      rw [ho]
      exact Nat.zero_ne_add_one 3
    obtain ⟨e, L, hexec, hL⟩ := exec_sread_clean p v hr he fun h => absurd h hrm
    refine ⟨e, L, hexec, fun l => (hL l).trans ?_⟩
    rw [if_neg hrm, ho]
    exact arr.readLane_binary32 _ _ _ _
  case other =>
    obtain ⟨e, L, hexec, hL⟩ := exec_sread_clean p v hr he fun h => absurd h ho
    refine ⟨e, L, hexec, fun l => (hL l).trans ?_⟩
    rw [if_neg ho]
  case stochastic =>
    obtain ⟨e, L, hexec, hL⟩ := exec_sread_clean p v hr he fun _ => hv
    refine ⟨e, L, hexec, fun l => (hL l).trans ?_⟩
    rw [if_pos ho]

end Sys2Proof.Machine
end

section
/-! Tile words (R349, R363): a word of a bundle that a wait has held goes by the object window as it stood at its check stage (R165). -/

namespace Sys2Proof.Machine

/-- A slot that held no object at the check stage is PROT, whatever it holds when the word issues at last (R165, R349). -/
theorem State.tileAt_unknown {s : State} {slot : Nat} (base : DWord) (area : Obj → Nat) (k : Obj → Nat → Out)
    (h : SMap.find? (s.core.t.chkObjs.getD s.core.t.objs) slot = none) : s.tileAt slot base area k = s.trap 3 .prot (BitVec.ofNat 64 slot) := by
  unfold State.tileAt
  rw [h]

theorem execTfill_unknown {s : State} {q : BitVec 1} {o : BitVec 6} {b : BitVec 4} {z : BitVec 5} (hb : (s.srcA b).psn = none)
    (hz : (s.srcS z).psn = none) (h : SMap.find? (s.core.t.chkObjs.getD s.core.t.objs) o.toNat = none) :
    execTfill q o b z s = s.trap 3 .prot (BitVec.ofNat 64 o.toNat) := by
  unfold execTfill
  rw [s.checked_clean _ _ (by simp [hb, hz])]
  exact State.tileAt_unknown _ _ _ h

/-- The object that an OBJLD put into slot 0 while the bundle waited: a tile of 64 bytes. -/
def lateObj : Obj :=
  { base := 0x1000, rows := 4, cols := 4, rstride := 16, estride := 4, type := 8, trows := 4, tcols := 4, bact := 0, quant := false, digest := false,
    rd := true, wr := true, peer := false, inf := false, oute := 0, lo := 0, hi := 0 }

/-- Core 0 at a bundle that a wait has held: at its check stage the object window was empty, and slot 0 has been loaded since. a1 holds the first
address of the own L1. -/
def heldTile : State :=
  { State.reset with core := { cid := 0, t :=
    ({ mode := .run, passed := true, chkObjs := some [], objs := [(0, lateObj)] } : Thread).setA 1 ⟨0xFF000000000000, none⟩ } }

theorem heldTile_srcA : heldTile.srcA 1 = ⟨0xFF000000000000, none⟩ := (Thread.getA_setA ..).trans (if_pos rfl)

theorem heldTile_psn : (heldTile.srcA 1).psn = none ∧ (heldTile.srcS 0).psn = none :=
  ⟨congrArg PDWord.psn heldTile_srcA, congrArg PWord.psn (Thread.getS_zero _)⟩

/-- In that state TFILL of slot 0 is PROT and queues nothing. -/
theorem exec_tfill_heldTile : ∃ t, exec (.tfill 0 0 1 0) heldTile = .next t ∧ t.core.t.tq 0 = [] :=
  ⟨_, execTfill_unknown (q := 0) heldTile_psn.1 heldTile_psn.2 rfl, rfl⟩

/-- Refutes O45, by its clause on TFILL: the hypotheses look for the object in the window as it stands, while the word of a bundle that a wait has
held goes by the window of its check stage (`Thread.chkObjs`, the model's log 15). In `heldTile` that window was empty, and TFILL traps. Where no wait
has held the bundle the two windows are one. -/
theorem not_tileWords : ¬ Obligations.TileWords := by
  intro h
  have ha := congrArg PDWord.val heldTile_srcA
  obtain ⟨htile, -⟩ := h heldTile 0 0 0 1 0 lateObj 0 heldTile_psn.1 heldTile_psn.2
  obtain ⟨hfill, -⟩ := htile rfl (by rw [ha]; decide) (by rw [ha]; decide) (by decide)
  obtain ⟨t, hexec, hqueue, -⟩ := hfill (by decide)
  obtain ⟨t', hexec', hempty⟩ := exec_tfill_heldTile
  have ht : t = t' := Host.Outcome.next.inj (hexec.symm.trans hexec')
  have hgrown := (ht ▸ hempty).symm.trans hqueue
  exact absurd hgrown (by simp)

end Sys2Proof.Machine
end

section
/-! Vector memory (R312, R313): the words that a store under a mask writes into the own L1, in the order of its lanes, and the checks of the
addresses. -/

namespace Sys2Proof.Machine

/-! ### Several writes to one memory (R190) -/

/-- A memory after writes at several addresses, one after the other. -/
def Mem.writeAll (m : Mem) (ws : List (Nat × List Byte)) : Mem := ws.foldl (fun m w => Mem.write m w.1 w.2) m

theorem Mem.writeAll_append (m : Mem) (vs ws : List (Nat × List Byte)) : Mem.writeAll m (vs ++ ws) = Mem.writeAll (Mem.writeAll m vs) ws :=
  List.foldl_append

theorem Mem.write_append (m : Mem) (a : Nat) (bs cs : List Byte) : Mem.write m a (bs ++ cs) = Mem.write (Mem.write m a bs) (a + bs.length) cs := by
  induction bs generalizing m a with
  | nil => rfl
  | cons b bs ih => rw [List.cons_append, Mem.write, Mem.write, ih, List.length_cons, Nat.add_right_comm, Nat.add_assoc]

theorem Mem.get_writeAll_outside (ws : List (Nat × List Byte)) (m : Mem) (p : Nat) (h : ∀ w ∈ ws, p < w.1 ∨ w.1 + w.2.length ≤ p) :
    Mem.get (Mem.writeAll m ws) p = Mem.get m p := by
  induction ws generalizing m with
  | nil => rfl
  | cons w ws ih =>
    exact (ih _ fun v hv => h v (List.mem_cons_of_mem _ hv)).trans (Mem.get_write_outside _ _ _ _ (h w List.mem_cons_self))

/-- A byte is the one that the last write over it has put there. -/
theorem Mem.get_writeAll_last (m : Mem) (vs ws : List (Nat × List Byte)) (a j : Nat) (bs : List Byte) (hj : j < bs.length)
    (h : ∀ w ∈ ws, a + j < w.1 ∨ w.1 + w.2.length ≤ a + j) : Mem.get (Mem.writeAll m (vs ++ (a, bs) :: ws)) (a + j) = bs[j] := by
  rw [Mem.writeAll_append]
  exact (Mem.get_writeAll_outside ws _ _ h).trans (Mem.get_write_inside bs _ _ _ hj)

/-! ### Stores into the own L1 (R108, R312) -/

/-- From s to u writes of clean bytes into the own L1 have been made, and nothing else has changed but, perhaps, the task's rerunnability. -/
def State.writesL1 (s u : State) (ws : List (Nat × List Byte)) : Prop :=
  ∃ p r, u = (s.mapL1 fun _ => p).mapT (fun t => { t with rerunnable := r }) ∧ p.bytes = Mem.writeAll s.core.l1.bytes ws

theorem State.writesL1_nil (s : State) : s.writesL1 s [] := ⟨s.core.l1, s.core.t.rerunnable, rfl, rfl⟩

theorem State.writesL1_trans {s u v : State} {ws xs : List (Nat × List Byte)} (h : s.writesL1 u ws) (k : u.writesL1 v xs) :
    s.writesL1 v (ws ++ xs) := by
  obtain ⟨p, r, rfl, hp⟩ := h
  obtain ⟨q, r', rfl, hq⟩ := k
  exact ⟨q, r', rfl, by rw [hq, Mem.writeAll_append, ← hp]; rfl⟩

theorem State.writesL1_storeL1 (s : State) (off : Nat) (bs : List Byte) : s.writesL1 (s.storeL1 off (clean bs)) [(off, bs)] := by
  obtain ⟨r, hr⟩ := s.storeL1_clean off bs
  exact ⟨s.core.l1.write off bs, r, hr, rfl⟩

/-- A fold of steps that each make their writes, after writes already made, makes them all. -/
theorem State.writesL1_foldl_append {α : Type} {s : State} {f : State → α → State} {g : α → List (Nat × List Byte)} (xs : List α)
    (h : ∀ u ws, s.writesL1 u ws → ∀ x ∈ xs, u.writesL1 (f u x) (g x)) {u : State} {ws : List (Nat × List Byte)} (hu : s.writesL1 u ws) :
    s.writesL1 (xs.foldl f u) (ws ++ xs.flatMap g) := by
  induction xs generalizing u ws with
  | nil => simpa using hu
  | cons x xs ih =>
    have hx := State.writesL1_trans hu (h u ws hu x List.mem_cons_self)
    have hrest := ih (fun u ws hu y hy => h u ws hu y (List.mem_cons_of_mem _ hy)) hx
    rwa [List.append_assoc] at hrest

theorem State.writesL1_foldl {α : Type} {s : State} {f : State → α → State} {g : α → List (Nat × List Byte)} (xs : List α)
    (h : ∀ u ws, s.writesL1 u ws → ∀ x ∈ xs, u.writesL1 (f u x) (g x)) : s.writesL1 (xs.foldl f s) (xs.flatMap g) :=
  State.writesL1_foldl_append xs h s.writesL1_nil

/-- One write is as good as two that lie side by side. -/
theorem State.writesL1_split {s u : State} {a : Nat} {bs cs : List Byte} (h : s.writesL1 u [(a, bs ++ cs)]) :
    s.writesL1 u [(a, bs), (a + bs.length, cs)] := by
  obtain ⟨p, r, hu, hp⟩ := h
  exact ⟨p, r, hu, hp.trans (Mem.write_append ..)⟩

/-- Nothing of the machine has changed but the own L1: registers, control state, other memories. -/
theorem State.writesL1_frame {s u : State} {ws : List (Nat × List Byte)} (h : s.writesL1 u ws) :
    s.core.t.sameRegs u.core.t ∧ s.core.t.sameControl u.core.t ∧ u.mem = s.mem ∧ u.l2 = s.l2 ∧ u.l3 = s.l3 ∧ u.parked = s.parked := by
  obtain ⟨p, r, rfl, -⟩ := h
  exact ⟨s.core.t.sameRegs_refl, s.core.t.sameControl_refl, rfl, rfl, rfl, rfl⟩

theorem State.writesL1_km {s u : State} {ws : List (Nat × List Byte)} (h : s.writesL1 u ws) (k : BitVec 3) : u.km k = s.km k := by
  obtain ⟨p, r, rfl, -⟩ := h
  rfl

theorem State.writesL1_bytes {s u : State} {ws : List (Nat × List Byte)} (h : s.writesL1 u ws) :
    u.core.l1.bytes = Mem.writeAll s.core.l1.bytes ws := by
  obtain ⟨p, r, rfl, hp⟩ := h
  exact hp

/-! ### The words of the enabled lanes (R294, R312, R313) -/

/-- The writes that the enabled lanes make, each of its word at its place, in ascending order of the lanes. -/
def laneWrites (mask : BitVec 128) (place : Fin 128 → Nat) (v : Lanes) : List (Nat × List Byte) :=
  (lanesIn mask).map fun l => (place l, leBytes 4 v[l].val.toNat)

theorem mem_lanesIn {mask : BitVec 128} {l : Fin 128} : l ∈ lanesIn mask ↔ mask.getLsbD l = true := by simp [lanesIn]

/-- The enabled lanes below an enabled lane come before it, those above it after it. -/
theorem lanesIn_split {mask : BitVec 128} {l : Fin 128} (h : mask.getLsbD l = true) :
    ∃ below above, lanesIn mask = below ++ l :: above ∧ (∀ x ∈ below, x < l) ∧ (∀ x ∈ above, l < x) := by
  obtain ⟨below, above, hsplit⟩ := List.append_of_mem (mem_lanesIn.2 h)
  have hsorted : (lanesIn mask).Pairwise (· < ·) := (List.pairwise_lt_finRange 128).filter _
  rw [hsplit, List.pairwise_append, List.pairwise_cons] at hsorted
  obtain ⟨-, ⟨habove, -⟩, hbelow⟩ := hsorted
  exact ⟨below, above, hsplit, fun x hx => hbelow x hx l List.mem_cons_self, habove⟩

/-- An enabled lane's word stands where no higher enabled lane writes over it (R313). -/
theorem get_laneWrites {mask : BitVec 128} {place : Fin 128 → Nat} (m : Mem) (v : Lanes) {l : Fin 128} (h : mask.getLsbD l = true)
    (hfree : ∀ x : Fin 128, l < x → mask.getLsbD x = true → place l + 4 ≤ place x ∨ place x + 4 ≤ place l) :
    ∀ j < 4, Mem.get (Mem.writeAll m (laneWrites mask place v)) (place l + j) = BitVec.ofNat 8 (v[l].val.toNat / 2 ^ (8 * j)) := by
  intro j hj
  obtain ⟨below, above, hsplit, -, habove⟩ := lanesIn_split h
  have hlen : j < (leBytes 4 v[l].val.toNat).length := by simpa using hj
  have hmask : ∀ x ∈ above, mask.getLsbD x = true := fun x hx => mem_lanesIn.1 (by simp [hsplit, hx])
  rw [laneWrites, hsplit, List.map_append, List.map_cons, Mem.get_writeAll_last _ _ _ _ _ _ hlen, getElem_leBytes]
  intro w hw
  obtain ⟨x, hx, rfl⟩ := List.mem_map.1 hw
  have := hfree x (habove x hx) (hmask x hx)
  simp only [leBytes_length]
  omega

theorem get_laneWrites_outside {mask : BitVec 128} {place : Fin 128 → Nat} (m : Mem) (v : Lanes) {p : Nat}
    (h : ∀ l : Fin 128, mask.getLsbD l = true → p < place l ∨ place l + 4 ≤ p) :
    Mem.get (Mem.writeAll m (laneWrites mask place v)) p = Mem.get m p := by
  refine Mem.get_writeAll_outside _ _ _ fun w hw => ?_
  obtain ⟨l, hl, rfl⟩ := List.mem_map.1 hw
  simpa using h l (mem_lanesIn.1 hl)

/-! ### VST (R312) -/

/-- The lanes two by two, as the 64-bit words hold them. -/
theorem finRange_pairs : (List.range 64).flatMap (fun i => [laneAt (2 * i), laneAt (2 * i + 1)]) = List.finRange 128 := by decide

theorem laneWrites_pairs (mask : BitVec 128) (place : Fin 128 → Nat) (v : Lanes) :
    laneWrites mask place v = (List.range 64).flatMap fun i =>
      ([laneAt (2 * i), laneAt (2 * i + 1)].filter fun l => mask.getLsbD l.val).map fun l => (place l, leBytes 4 v[l].val.toNat) := by
  rw [laneWrites, lanesIn, ← finRange_pairs, List.filter_flatMap, List.map_flatMap]

theorem State.writesL1_storePair (s : State) (mask : BitVec 128) (v : Lanes) (off : Nat) {i : Nat} (hi : i < 64) :
    s.writesL1 (s.storePair mask v off i)
      (([laneAt (2 * i), laneAt (2 * i + 1)].filter fun l => mask.getLsbD l.val).map fun l => (off + 4 * l.val, leBytes 4 v[l].val.toNat)) := by
  have hlo : (laneAt (2 * i)).val = 2 * i := Nat.mod_eq_of_lt (by omega)
  have hhi : (laneAt (2 * i + 1)).val = 2 * i + 1 := Nat.mod_eq_of_lt (by omega)
  have halo : off + 4 * (2 * i) = off + 8 * i := by omega
  have hahi : off + 4 * (2 * i + 1) = off + 8 * i + 4 := by omega
  let lower := leBytes 4 v[laneAt (2 * i)].val.toNat
  let upper := leBytes 4 v[laneAt (2 * i + 1)].val.toNat
  have hws : (([laneAt (2 * i), laneAt (2 * i + 1)].filter fun l => mask.getLsbD l.val).map fun l => (off + 4 * l.val, leBytes 4 v[l].val.toNat))
      = (if mask.getLsbD (2 * i) then [(off + 8 * i, lower)] else []) ++ (if mask.getLsbD (2 * i + 1) then [(off + 8 * i + 4, upper)] else []) := by
    cases h0 : mask.getLsbD (2 * i) <;> cases h1 : mask.getLsbD (2 * i + 1) <;>
      simp only [List.filter_cons, List.filter_nil, hlo, hhi, h0, h1] <;> simp [hlo, hhi, halo, hahi, lower, upper]
  rw [hws]
  unfold State.storePair
  cases mask.getLsbD (2 * i) <;> cases mask.getLsbD (2 * i + 1)
  case true.true =>
    have hpair := s.writesL1_storeL1 (off + 8 * i) (lower ++ upper)
    rw [show clean (lower ++ upper) = clean lower ++ clean upper from List.map_append] at hpair
    exact State.writesL1_split hpair
  case true.false => exact s.writesL1_storeL1 (off + 8 * i) lower
  case false.true => exact s.writesL1_storeL1 (off + 8 * i + 4) upper
  case false.false => exact s.writesL1_nil

/-! ### The checks of the addresses (R312, R313) -/

theorem vectorAddr_eq (a : DWord) (i : BitVec 6) : vectorAddr a i = a + BitVec.ofInt 64 (64 * i.toInt) := by
  rw [BitVec.ofInt_mul]
  rfl

theorem State.vectorAt_passes {s : State} {e : DWord} {off : Nat} (k : Nat → Out) (h64 : e.toNat % 64 = 0) (ho : ownOff e = some off)
    (hle : off + 512 ≤ 2 ^ 21) : s.vectorAt e k = k off := by
  unfold State.vectorAt
  rw [if_neg (by simp [h64]), ho]
  exact if_pos hle

theorem State.vectorAt_misaligned {s : State} {e : DWord} (k : Nat → Out) (h64 : e.toNat % 64 ≠ 0) : s.vectorAt e k = s.trap 3 .align e :=
  if_pos (by simpa using h64)

/-- An access that does not lie in the window with its 512 bytes is PAGE. -/
theorem State.vectorAt_outside {s : State} {e : DWord} (k : Nat → Out) (h64 : e.toNat % 64 = 0)
    (ho : (ownOff e).all (fun off => 2 ^ 21 < off + 512) = true) : s.vectorAt e k = s.trap 3 .page e := by
  unfold State.vectorAt
  rw [if_neg (by simp [h64])]
  cases hown : ownOff e with
  | none => rfl
  | some off =>
    have hlt : 2 ^ 21 < off + 512 := by simpa [hown] using ho
    exact if_neg (by omega)

/-- A lane's address is one of a word of the own L1. -/
def laneOk (a : DWord) : Prop := a.toNat % 4 = 0 ∧ (ownOff a).isSome

theorem laneFault_none {a : DWord} (h : laneOk a) : laneFault a = none := by
  obtain ⟨h4, hown⟩ := h
  obtain ⟨off, ho⟩ := Option.isSome_iff_exists.1 hown
  simp [laneFault, h4, ho]

theorem laneFault_some {a : DWord} (h : a.toNat % 4 ≠ 0 ∨ ownOff a = none) :
    laneFault a = some (if a.toNat % 4 ≠ 0 then .align else .page) := by
  by_cases h4 : a.toNat % 4 = 0
  · simp [laneFault, h4, h.resolve_left fun hne => hne h4]
  · simp [laneFault, h4]

theorem State.scattered_passes {s : State} {mask : BitVec 128} {a : DWord} {b : Lanes} (k : Out)
    (h : ∀ l : Fin 128, mask.getLsbD l = true → laneOk (laneAddr a b l)) : s.scattered mask a b k = k := by
  have hnone : (lanesIn mask).findSome? (fun l => (laneFault (laneAddr a b l)).map fun c => (c, laneAddr a b l)) = none :=
    List.findSome?_eq_none_iff.2 fun l hl => by simp [laneFault_none (h l (mem_lanesIn.1 hl))]
  unfold State.scattered
  rw [hnone]

/-- Of the enabled lanes that fault the lowest names cause and address. -/
theorem State.scattered_stops {s : State} {mask : BitVec 128} {a : DWord} {b : Lanes} (k : Out) {l : Fin 128} (hl : mask.getLsbD l = true)
    (hbelow : ∀ x : Fin 128, x < l → mask.getLsbD x = true → laneOk (laneAddr a b x))
    (hbad : (laneAddr a b l).toNat % 4 ≠ 0 ∨ ownOff (laneAddr a b l) = none) :
    s.scattered mask a b k = s.trap 3 (if (laneAddr a b l).toNat % 4 ≠ 0 then .align else .page) (laneAddr a b l) := by
  obtain ⟨below, above, hsplit, hlt, -⟩ := lanesIn_split hl
  have hmask : ∀ x ∈ below, mask.getLsbD x = true := fun x hx => mem_lanesIn.1 (by simp [hsplit, hx])
  have hsome : (lanesIn mask).findSome? (fun l => (laneFault (laneAddr a b l)).map fun c => (c, laneAddr a b l))
      = some (if (laneAddr a b l).toNat % 4 ≠ 0 then .align else .page, laneAddr a b l) :=
    List.findSome?_eq_some_iff.2 ⟨below, l, above, hsplit, by simp [laneFault_some hbad],
      fun x hx => by simp [laneFault_none (hbelow x (hlt x hx) (hmask x hx))]⟩
  unfold State.scattered
  rw [hsome]

/-- Two words of the own L1 at different addresses lie apart. -/
theorem laneOk_apart {a b : DWord} (ha : laneOk a) (hb : laneOk b) (hne : a ≠ b) :
    (ownOff a).getD 0 + 4 ≤ (ownOff b).getD 0 ∨ (ownOff b).getD 0 + 4 ≤ (ownOff a).getD 0 := by
  obtain ⟨ha4, hao⟩ := ha
  obtain ⟨hb4, hbo⟩ := hb
  obtain ⟨x, hx⟩ := Option.isSome_iff_exists.1 hao
  obtain ⟨y, hy⟩ := Option.isSome_iff_exists.1 hbo
  obtain ⟨hxlo, -, hxe⟩ := ownOff_eq_some hx
  obtain ⟨hylo, -, hye⟩ := ownOff_eq_some hy
  have hne' : a.toNat ≠ b.toNat := fun h => hne (BitVec.eq_of_toNat_eq h)
  rw [hx, hy]
  simp only [Option.getD_some]
  omega

/-! ### The words (R312, R313) -/

section
variable {s : State} {d a i b : BitVec 6} {w : BitVec 1} {k : BitVec 3}

/-- The lanes that VLD and VGATH read, each at its place. -/
def State.lanesAt (s : State) (place : Fin 128 → Nat) : Lanes := Vector.ofFn fun l : Fin 128 => s.core.l1.lane (place l)

theorem execVld_clean (hx : (s.srcA (a.truncate 4)).psn = none) :
    execVld d w a i k s = s.vectorAt ((s.srcA (a.truncate 4)).val + BitVec.ofInt 64 (64 * i.toInt)) fun off =>
      .next (s.later 5 (.vResult d (w == 1) (s.km k) (s.lanesAt fun l => off + 4 * l.val))) :=
  vectorAddr_eq (s.srcA (a.truncate 4)).val i ▸ s.checked_clean _ _ (by simp [hx])

/-- VST writes the words of its enabled lanes, in pairs or in one half of a pair. -/
theorem execVst_clean (hx : (s.srcA (a.truncate 4)).psn = none) (hv : (s.srcV d).psnIn (s.km k) = none) :
    ∃ u : Nat → State, (execVst d a i k s = s.vectorAt ((s.srcA (a.truncate 4)).val + BitVec.ofInt 64 (64 * i.toInt)) fun off => .next (u off))
      ∧ ∀ off, s.writesL1 (u off) (laneWrites (s.km k) (fun l => off + 4 * l.val) (s.srcV d)) := by
  refine ⟨fun off => (List.range 64).foldl (fun u j => u.storePair (u.km k) (s.srcV d) off j) s,
    vectorAddr_eq (s.srcA (a.truncate 4)).val i ▸ s.checked_clean _ _ (by simp [hx, hv]), fun off => ?_⟩
  rw [laneWrites_pairs]
  refine State.writesL1_foldl _ fun u ws hu j hj => ?_
  rw [State.writesL1_km hu]
  exact u.writesL1_storePair _ _ _ (List.mem_range.1 hj)

theorem execVgath_clean (hx : (s.srcA (a.truncate 4)).psn = none) (hb : (s.srcV b).psnIn (s.km k) = none) :
    let addr := laneAddr (s.srcA (a.truncate 4)).val (s.srcV b)
    execVgath d w a b k s = s.scattered (s.km k) (s.srcA (a.truncate 4)).val (s.srcV b)
      (.next (s.later 8 (.vResult d (w == 1) (s.km k) (s.lanesAt fun l => (ownOff (addr l)).getD 0)))) :=
  s.checked_clean _ _ (by simp [hx, hb])

/-- VSCAT writes the words of its enabled lanes, ascending. -/
theorem execVscat_clean (hx : (s.srcA (a.truncate 4)).psn = none) (hb : (s.srcV b).psnIn (s.km k) = none)
    (hv : (s.srcV d).psnIn (s.km k) = none) :
    let addr := laneAddr (s.srcA (a.truncate 4)).val (s.srcV b)
    ∃ u, execVscat d a b k s = s.scattered (s.km k) (s.srcA (a.truncate 4)).val (s.srcV b) (.next u)
      ∧ s.writesL1 u (laneWrites (s.km k) (fun l => (ownOff (addr l)).getD 0) (s.srcV d)) := by
  refine ⟨_, s.checked_clean _ _ (by simp [hx, hb, hv]), ?_⟩
  rw [laneWrites, ← List.flatMap_singleton' (List.map _ _), List.flatMap_map]
  exact State.writesL1_foldl _ fun u _ _ l _ => u.writesL1_storeL1 _ _

end

/-- Settles O36: the checks pass or name the address that stops them, and the stores write the words of the enabled lanes. -/
theorem vectorMemory : Obligations.VectorMemory := by
  intro s d w a i b k x e m at' o on outside stored hx
  refine ⟨fun off h64 ho hle => ⟨?vld, fun hv => ?vst⟩, fun h64 => ⟨?vldAlign, fun hv => ?vstAlign⟩,
    fun h64 ho => ⟨?vldPage, fun hv => ?vstPage⟩,
    fun hb => ⟨fun hok => ⟨?vgath, fun hv => ?vscat⟩, fun l hl hbelow hbad => ⟨?vgathStop, fun hv => ?vscatStop⟩⟩⟩
  case vld => exact (execVld_clean hx).trans (State.vectorAt_passes _ h64 ho hle)
  case vst =>
    obtain ⟨u, hexec, hu⟩ := execVst_clean (i := i) hx hv
    refine ⟨u off, hexec.trans (State.vectorAt_passes _ h64 ho hle), fun l hl => ?_, fun p hp => ?_, State.writesL1_frame (hu off)⟩
    · simp only [stored, State.writesL1_bytes (hu off)]
      refine get_laneWrites _ _ hl fun x hlx _ => ?_
      have : l.val < x.val := hlx
      omega
    · rw [State.writesL1_bytes (hu off)]
      exact get_laneWrites_outside _ _ hp
  case vldAlign => exact (execVld_clean hx).trans (State.vectorAt_misaligned _ h64)
  case vstAlign =>
    obtain ⟨u, hexec, -⟩ := execVst_clean (i := i) hx hv
    exact hexec.trans (State.vectorAt_misaligned _ h64)
  case vldPage => exact (execVld_clean hx).trans (State.vectorAt_outside _ h64 ho)
  case vstPage =>
    obtain ⟨u, hexec, -⟩ := execVst_clean (i := i) hx hv
    exact hexec.trans (State.vectorAt_outside _ h64 ho)
  case vgath => exact (execVgath_clean hx hb).trans (State.scattered_passes _ hok)
  case vscat =>
    obtain ⟨u, hexec, hu⟩ := execVscat_clean hx hb hv
    refine ⟨u, hexec.trans (State.scattered_passes _ hok), fun l hl hlast => ?_, fun p hp => ?_, State.writesL1_frame hu⟩
    · simp only [stored, State.writesL1_bytes hu]
      exact get_laneWrites _ _ hl fun x hlx hmx => laneOk_apart (hok l hl) (hok x hmx) (hlast x hlx hmx).symm
    · rw [State.writesL1_bytes hu]
      exact get_laneWrites_outside _ _ hp
  case vgathStop => exact (execVgath_clean hx hb).trans (State.scattered_stops _ hl hbelow hbad)
  case vscatStop =>
    obtain ⟨u, hexec, -⟩ := execVscat_clean hx hb hv
    exact hexec.trans (State.scattered_stops _ hl hbelow hbad)

end Sys2Proof.Machine
end

section
/-! Two results that are due in one cycle (R163), and s0 (R156). -/

namespace Sys2Proof.Machine

/-! ### What a written result pushes into the latch queues (R15) -/

@[simp] theorem Thread.setCsr_latches (t : Thread) (n : Nat) (v : DWord) : (t.setCsr n v).latches = t.latches := by
  unfold Thread.setCsr; split <;> rfl
@[simp] theorem Thread.setCsr_tl (t : Thread) (n : Nat) (v : DWord) : (t.setCsr n v).tl = t.tl := by
  unfold Thread.setCsr; split <;> rfl
@[simp] theorem Thread.csrWrite_latches (t : Thread) (n : Nat) (op : CsrOp) (v : DWord) : (t.csrWrite n op v).latches = t.latches := by
  unfold Thread.csrWrite; split <;> simp
@[simp] theorem Thread.csrWrite_tl (t : Thread) (n : Nat) (op : CsrOp) (v : DWord) : (t.csrWrite n op v).tl = t.tl := by
  unfold Thread.csrWrite; split <;> simp
@[simp] theorem Thread.setNt_latches (t : Thread) (nt w : Nat) (v : Word) : (t.setNt nt w v).latches = t.latches := by
  unfold Thread.setNt
  split
  · split <;> rfl
  · rfl
@[simp] theorem Thread.setNt_tl (t : Thread) (nt w : Nat) (v : Word) : (t.setNt nt w v).tl = t.tl := by
  unfold Thread.setNt
  split
  · split <;> rfl
  · rfl
@[simp] theorem Thread.setR_tl (t : Thread) (d : BitVec 6) (v : PDWord) : (t.setR d v).tl = t.tl :=
  t.setR_cases d v (fun u => u.tl = t.tl) (by simp) (by simp) rfl

/-- Each latch queue takes what the result pushes into it, whatever register it writes. -/
theorem Thread.apply_latches (t : Thread) (x : Effect) :
    (t.apply x).latches = ⟨x.pushC t.latches.c, x.pushM t t.latches.m, x.pushV t.latches.v, x.pushS t.latches.s⟩ := by
  cases x with
  | cResult d w v => cases w <;> simp [Thread.apply, Effect.pushC, Effect.pushM, Effect.pushV, Effect.pushS]
  | vResult d w m v => cases w <;> simp [Thread.apply, Effect.pushC, Effect.pushM, Effect.pushV, Effect.pushS]
  | kResult d w m => cases w <;> simp [Thread.apply, Effect.pushC, Effect.pushM, Effect.pushV, Effect.pushS]
  | vsResult d w v => cases w <;> simp [Thread.apply, Effect.pushC, Effect.pushM, Effect.pushV, Effect.pushS]
  | ntClear nt =>
    simp only [Thread.apply]
    split <;> rfl
  | _ => simp [Thread.apply, Thread.raise, Effect.pushC, Effect.pushM, Effect.pushV, Effect.pushS]

/-- A register write moves no timeline: only an update does (R286). -/
theorem Thread.apply_tl (t : Thread) {x : Effect} (h : x.isUpdate = false) : (t.apply x).tl = t.tl := by
  cases x with
  | cResult d w v => cases w <;> simp [Thread.apply]
  | vResult d w m v => cases w <;> simp [Thread.apply]
  | kResult d w m => cases w <;> simp [Thread.apply]
  | vsResult d w v => cases w <;> simp [Thread.apply]
  | ntClear nt =>
    simp only [Thread.apply]
    split <;> rfl
  | tlRaise k v => cases h
  | _ => simp [Thread.apply]

/-- A push into the M queue depends on the timelines alone. -/
theorem Effect.pushM_congr (x : Effect) {t u : Thread} (h : t.tl = u.tl) : x.pushM t = x.pushM u := by
  cases x with
  | tlRead d k => funext q; simp only [Effect.pushM, h]
  | _ => rfl

/-! ### Two results due in one cycle (R163) -/

/-- Two register writes that are due take effect in the order of issue. -/
theorem Thread.settle_two (t : Thread) {x y : Effect} {rest : List Flight} (h : t.flights = ⟨0, x⟩ :: ⟨0, y⟩ :: rest)
    (hr : ∀ f ∈ rest, f.off ≠ 0) (hl : t.late = false) (hx : x.isUpdate = false) (hy : y.isUpdate = false) :
    t.settle = (({ t with flights := rest } : Thread).apply x).apply y := by
  have hdue : rest.filter (fun f => f.off == 0) = [] := by simpa using hr
  have hrest : rest.filter (fun f => f.off != 0) = rest := by simpa using hr
  unfold Thread.settle
  simp [hl, h, hdue, hrest, hx, hy]

/-- What a C or an M result leaves in the register that it names. -/
theorem Thread.setR_named (t : Thread) (d : BitVec 6) (v : PDWord) :
    (d < 32 → d ≠ 0 → (t.setR d v).getS (d.truncate 5) = ⟨v.val.low, v.psn⟩) ∧ (32 ≤ d → d < 48 → (t.setR d v).getA (d.truncate 4) = v) := by
  refine ⟨fun hd h0 => ?_, fun hd1 hd2 => ?_⟩
  · have hr : (d.truncate 5).zeroExtend 6 = d ∧ d ≠ 0 := by bv_omega
    exact (Thread.getS_setR _ d _ v).trans (if_pos hr)
  · have hr : 32 + (d.truncate 4).zeroExtend 6 = d := by bv_omega
    exact (Thread.getA_setR _ d _ v).trans (if_pos hr)

/-- The enabled lanes of a v register after a write under a mask. -/
theorem Thread.setV_named (t : Thread) {d : BitVec 6} (m : BitVec 128) (v : Lanes) (hd : d < 48) {l : Fin 128} (hl : m.getLsbD l = true) :
    ((t.setV d m v).getV d)[l] = v[l] :=
  (t.getV_setV d d m v l).trans (if_pos ⟨rfl, hd, hl⟩)

/-- Settles O10: the later result is applied to what the earlier one has left, and each pushes into its own queue. -/
theorem laterWriteStands : Obligations.LaterWriteStands := by
  intro t x y rest hf hr hl hx hy u
  have hu : u = (Thread.apply { t with flights := rest } x).apply y := t.settle_two hf hr hl hx hy
  have htl : (Thread.apply { t with flights := rest } x).tl = t.tl := Thread.apply_tl _ hx
  have hlx := Thread.apply_latches { t with flights := rest } x
  generalize Thread.apply { t with flights := rest } x = e at hu htl hlx
  have hlat := e.apply_latches y
  rw [y.pushM_congr htl, hlx] at hlat
  rw [hu]
  refine ⟨fun d v h => ?c, fun d v q h => ?m, fun id d v k h h0 => ?landing, fun d v h hd h0 => ?vs, fun d m v h hd l hl => ?v,
    fun d v h hd l => ?s, fun d m h => ?k, ?latches⟩
  case c => subst h; exact e.setR_named d v
  case m => subst h; exact e.setR_named d v
  case landing => subst h; exact (Thread.getS_setS e d d _).trans (if_pos ⟨rfl, h0⟩)
  case vs =>
    subst h
    have hz : d.truncate 5 ≠ (0 : BitVec 5) := by bv_omega
    exact (Thread.getS_setS e _ _ _).trans (if_pos ⟨rfl, hz⟩)
  case v => subst h; exact e.setV_named m v hd hl
  case s => subst h; exact e.setV_named (BitVec.allOnes 128) v hd (BitVec.getLsbD_allOnes.trans (decide_eq_true l.isLt))
  case k => subst h; exact (e.getK_setK _ _ m).trans (if_pos rfl)
  case latches =>
    rw [hlat]
    exact ⟨rfl, by cases x <;> rfl, rfl, rfl⟩

/-- Settles O11: code 0 names s0, which `Thread.setS` leaves as it is. -/
theorem s0ReadsZero : Obligations.S0ReadsZero := fun t v => by
  have hz : ∀ d, (t.apply (.cResult 0 false v)).getS d = t.getS d := fun d => (t.getS_setR 0 d v).trans (if_neg (by simp))
  exact ⟨t.getS_zero, (hz 0).trans t.getS_zero, hz, rfl⟩

end Sys2Proof.Machine
end

section
/-! Poisoned sources of the C pipe (R165, R270). -/

namespace Sys2Proof.Machine

/-- Settles O19: each word puts its sources to the check stage, and the first poisoned one names the origin. -/
theorem poisonCancels : Obligations.PoisonCancels := by
  intro s d w a b c o ha cancel
  have first : ∀ (xs : List Psn) (k : Out), s.checked ((s.srcC a).psn :: xs) k = cancel := fun xs k =>
    s.checked_poisoned _ k o (by simp [ha])
  refine ⟨first _ _, first _ _, first _ _, first _ _, first _ _, first _ _, fun hb => s.checked_poisoned _ _ o ?_⟩
  simp [ha, hb]

end Sys2Proof.Machine
end

section
/-! Device memory in its canonical form (R28, R83): what it is for the answer of an access or of a step to leave memory so, and how answers are put
together. -/

namespace Sys2Proof.Machine

/-- A stopped access leaves device memory in canonical form. -/
def Stop.memWf (e : Stop) : Prop := e.state.mem.wf = true

/-- An access leaves device memory in canonical form, whether it answers a value or stops. -/
def Access.memWf {α : Type} (x : Access α) : Prop :=
  match x with
  | .ok (_, s) => s.mem.wf = true
  | .error e => e.memWf

/-- The next state that an outcome names has device memory in canonical form. -/
def Out.memWf (o : Out) : Prop :=
  match o with
  | .next s => s.mem.wf = true
  | _ => True

@[simp] theorem Stop.memWf_trap (r : Nat) (c : Cause) (v : DWord) (o : Psn) (s : State) : (Stop.trap r c v o s).memWf ↔ s.mem.wf = true := Iff.rfl
@[simp] theorem Stop.memWf_stall (h : Hold) (s : State) : (Stop.stall h s).memWf ↔ s.mem.wf = true := Iff.rfl
@[simp] theorem Stop.memWf_paused (s : State) : (Stop.paused s).memWf ↔ s.mem.wf = true := Iff.rfl
@[simp] theorem Stop.memWf_tag (a : TagAt) (v : DWord) (s : State) : (Stop.tag a v s).memWf ↔ s.mem.wf = true := Iff.rfl
@[simp] theorem Stop.memWf_busy (v : DWord) (s : State) : (Stop.busy v s).memWf ↔ s.mem.wf = true := Iff.rfl
@[simp] theorem Stop.state_mem_wf (e : Stop) : e.state.mem.wf = true ↔ e.memWf := Iff.rfl

@[simp] theorem Access.memWf_ok {α : Type} (a : α) (s : State) : Access.memWf (.ok (a, s)) ↔ s.mem.wf = true := Iff.rfl
@[simp] theorem Access.memWf_error {α : Type} (e : Stop) : Access.memWf (.error e : Access α) ↔ e.memWf := Iff.rfl

@[simp] theorem Out.memWf_next (s : State) : Out.memWf (.next s) ↔ s.mem.wf = true := Iff.rfl
@[simp] theorem Out.memWf_fault (f : Fault) : Out.memWf (.fault f) := trivial
@[simp] theorem Out.memWf_refused (r : Refusal) : Out.memWf (.refused r) := trivial

/-- An access that is handed on keeps the form when each of its parts does. -/
theorem Access.memWf_bind {α β : Type} {x : Access α} {k : α → State → Access β} (hx : x.memWf)
    (hk : ∀ a t, t.mem.wf = true → (k a t).memWf) : (x.bind k).memWf := by
  rcases x with e | ⟨a, t⟩
  · exact hx
  · exact hk a t hx

theorem Access.wf_of_ok {α : Type} {x : Access α} {a : α} {t : State} (e : x = .ok (a, t)) (h : x.memWf) : t.mem.wf = true := by
  subst e; exact h

theorem Access.wf_of_error {α : Type} {x : Access α} {e : Stop} (he : x = .error e) (h : x.memWf) : e.memWf := by
  subst he; exact h

theorem mem_of_snd {α : Type} {x : α × State} {a : α} {t : State} (e : x = (a, t)) : t.mem = x.2.mem := by
  subst e; rfl

theorem wf_of_snd {α : Type} {x : α × State} {a : α} {t : State} (e : x = (a, t)) (h : x.2.mem.wf = true) : t.mem.wf = true := by
  subst e; exact h

@[simp] theorem Out.memWf_ite {c : Prop} [Decidable c] (o u : Out) : Out.memWf (if c then o else u) ↔ (c → o.memWf) ∧ (¬ c → u.memWf) := by
  split <;> simp [*]

@[simp] theorem Access.memWf_ite {α : Type} {c : Prop} [Decidable c] (x y : Access α) :
    Access.memWf (if c then x else y) ↔ (c → x.memWf) ∧ (¬ c → y.memWf) := by
  split <;> simp [*]

@[simp] theorem State.mem_ite {c : Prop} [Decidable c] (s t : State) : (if c then s else t).mem = if c then s.mem else t.mem := by
  split <;> rfl

@[simp] theorem State.mem_dite {c : Prop} [Decidable c] (s : c → State) (t : ¬ c → State) :
    (dite c s t).mem = if h : c then (s h).mem else (t h).mem := by
  split <;> rfl

@[simp] theorem Mem.wf_ite {c : Prop} [Decidable c] (m n : Mem) :
    Mem.wf (if c then m else n) = true ↔ (c → m.wf = true) ∧ (¬ c → n.wf = true) := by
  split <;> simp [*]

@[simp] theorem Mem.wf_dite {c : Prop} [Decidable c] (m : c → Mem) (n : ¬ c → Mem) :
    Mem.wf (dite c m n) = true ↔ (∀ h : c, (m h).wf = true) ∧ (∀ h : ¬ c, (n h).wf = true) := by
  split <;> simp [*]

@[simp] theorem Out.memWf_dite {c : Prop} [Decidable c] (o : c → Out) (u : ¬ c → Out) :
    Out.memWf (dite c o u) ↔ (∀ h : c, (o h).memWf) ∧ (∀ h : ¬ c, (u h).memWf) := by
  split <;> simp [*]

@[simp] theorem Access.memWf_dite {α : Type} {c : Prop} [Decidable c] (x : c → Access α) (y : ¬ c → Access α) :
    Access.memWf (dite c x y) ↔ (∀ h : c, (x h).memWf) ∧ (∀ h : ¬ c, (y h).memWf) := by
  split <;> simp [*]

/-- A fold of steps that keep the form keeps it. -/
theorem foldl_wf {σ β : Type} {p : σ → State} {f : σ → β → σ} (h : ∀ s b, (p s).mem.wf = true → (p (f s b)).mem.wf = true) (l : List β) {s : σ}
    (hs : (p s).mem.wf = true) : (p (l.foldl f s)).mem.wf = true := by
  induction l generalizing s with
  | nil => exact hs
  | cons b l ih => exact ih (h s b hs)

/-- The same for a memory that is made entry by entry. -/
theorem Mem.wf_foldl {β : Type} {f : Mem → β → Mem} (h : ∀ m b, m.wf = true → (f m b).wf = true) (l : List β) {m : Mem} (hm : m.wf = true) :
    Mem.wf (l.foldl f m) = true := by
  induction l generalizing m with
  | nil => exact hm
  | cons b l ih => exact ih (h m b hm)

/-- A fold of steps that change no byte changes none. -/
@[simp] theorem State.foldl_mem {β : Type} {f : State → β → State} (h : ∀ s b, (f s b).mem = s.mem) (l : List β) (s : State) :
    (l.foldl f s).mem = s.mem := foldl_keeps State.mem f h l s

@[simp] theorem State.foldl_mem_wf {β : Type} {f : State → β → State} (h : ∀ s b, s.mem.wf = true → (f s b).mem.wf = true) (l : List β) {s : State}
    (hs : s.mem.wf = true) : (l.foldl f s).mem.wf = true := foldl_wf (p := fun t => t) h l hs

end Sys2Proof.Machine
end

section
/-! Device memory keeps its canonical form: traps, faults, preemption, the pages and the sectors of device memory (R28 to R36, R141 to R149, R178). -/

namespace Sys2Proof.Machine

@[simp] theorem State.statSticky_mem (s : State) (bit : Nat) : (s.statSticky bit).mem = s.mem := by
  simp [State.statSticky]

@[simp] theorem State.fpSticky_mem (s : State) (f : BitVec 5) : (s.fpSticky f).mem = s.mem := by
  simp [State.fpSticky]

@[simp] theorem State.land_mem (s : State) (d : BitVec 5) (delta : Nat) (v : Option PDWord) (near : Bool) :
    (s.land d delta v near).mem = s.mem := by
  simp [State.land]

@[simp] theorem State.dropLaunch_mem (s : State) (l : Nat) : (s.dropLaunch l).mem = s.mem := by
  simp [State.dropLaunch]

@[simp] theorem State.purge_mem (s : State) (l : Nat) : (s.purge l).mem = s.mem := by
  simp [State.purge]

@[simp] theorem State.pauseAll_mem (s : State) (l : Nat) : (s.pauseAll l).mem = s.mem := by
  simp [State.pauseAll]

@[simp] theorem State.cancelPreload_mem (s : State) (cid : Nat) (onlyDependent : Bool) : (s.cancelPreload cid onlyDependent).mem = s.mem := by
  unfold State.cancelPreload
  split <;> simp

@[simp] theorem State.rerun_mem (s : State) (c : Core) (r : FaultRec) : (s.rerun c r).mem = s.mem := by
  simp [State.rerun]

@[simp] theorem State.poisonFault_mem (s : State) (c : Core) (origin : Psn) : (s.poisonFault c origin).mem = s.mem := by
  simp [State.poisonFault]

@[simp] theorem State.markPreempted_mem (s : State) (cid : Nat) : (s.markPreempted cid).mem = s.mem := by
  simp [State.markPreempted]

@[simp] theorem State.stopNow_mem (s : State) (cid : Nat) : (s.stopNow cid).mem = s.mem := by
  simp [State.stopNow]

@[simp] theorem State.freezeCore_wf (s : State) (cid : Nat) (deadline : Bool) (h : s.mem.wf = true) :
    (s.freezeCore cid deadline).mem.wf = true := by
  unfold State.freezeCore
  simp [State.laySave_wf, h]

@[simp] theorem State.freezeFor_wf (s : State) (cid l : Nat) (h : s.mem.wf = true) : (s.freezeFor cid l).mem.wf = true := by
  unfold State.freezeFor
  dsimp only
  split
  · simp [h]
  · split
    · simp [h]
    · split
      · simp [h]
      · simp [State.laySave_wf, h]

@[simp] theorem State.faultOf_wf (s : State) (i : Issuer) (cause : Cause) (val : DWord) (origin : Psn) (h : s.mem.wf = true) :
    (s.faultOf i cause val origin).mem.wf = true := by
  simp [State.faultOf, h]

@[simp] theorem State.protFault_wf (s : State) (c : Core) (val : DWord) (h : s.mem.wf = true) : (s.protFault c val).mem.wf = true := by
  simp [State.protFault, h]

@[simp] theorem State.tagFault_wf (s : State) (at' : TagAt) (faulting : Option Issuer) (val : DWord) (h : s.mem.wf = true) :
    (s.tagFault at' faulting val).mem.wf = true := by
  unfold State.tagFault
  split <;> simp [h]

@[simp] theorem State.take_wf (s : State) (r : TrapRec) (h : s.mem.wf = true) : (s.take r).mem.wf = true := by
  unfold State.take
  split <;> simp [h]

@[simp] theorem State.trap_memWf (s : State) (rank : Nat) (cause : Cause) (val : DWord) (origin : Psn) (h : s.mem.wf = true) :
    (s.trap rank cause val origin).memWf := by
  simp [State.trap, h]

@[simp] theorem State.wait_memWf (s : State) (hh : Hold) (h : s.mem.wf = true) : (s.wait hh).memWf := by
  simp [State.wait, h]

@[simp] theorem State.stallOn_memWf (s : State) (hh : Hold) (h : s.mem.wf = true) : (s.stallOn hh).memWf := by
  simp [State.stallOn, h]

@[simp] theorem State.leave_mem (s : State) (sys : Bool) (op : EgressOp) : (s.leave sys op).mem = s.mem := by
  simp [State.leave]

@[simp] theorem State.noRerun_mem (s : State) : (s.noRerun).mem = s.mem := by
  simp [State.noRerun]

@[simp] theorem State.noReplay_mem (s : State) (l : Nat) : (s.noReplay l).mem = s.mem := by
  simp [State.noReplay]

@[simp] theorem State.checked_memWf (s : State) (sources : List Psn) (k : Out) (h : s.mem.wf = true) (hk : k.memWf) :
    (s.checked sources k).memWf := by
  unfold State.checked
  split
  · simp [h]
  · simp [hk]

@[simp] theorem State.putC_mem (s : State) (lat : Nat) (d : BitVec 6) (w : BitVec 1) (v : Word) : (s.putC lat d w v).mem = s.mem := by
  simp [State.putC]

@[simp] theorem State.putC64_mem (s : State) (lat : Nat) (d : BitVec 6) (w : BitVec 1) (v : DWord) : (s.putC64 lat d w v).mem = s.mem := by
  simp [State.putC64]

@[simp] theorem State.putV_mem (s : State) (lat : Nat) (d : BitVec 6) (w : BitVec 1) (v : Lanes) : (s.putV lat d w v).mem = s.mem := by
  simp [State.putV]

@[simp] theorem addrOp_memWf (f : DWord → DWord → DWord) (d : BitVec 6) (w : BitVec 1) (a b : BitVec 6) (s : State) (h : s.mem.wf = true) :
    (addrOp f d w a b s).memWf := by
  simp [addrOp, h]

@[simp] theorem addrOne_memWf (f : DWord → DWord) (d : BitVec 6) (w : BitVec 1) (a : BitVec 6) (s : State) (h : s.mem.wf = true) :
    (addrOne f d w a s).memWf := by
  simp [addrOne, h]

@[simp] theorem execAaddi_memWf (d : BitVec 6) (w : BitVec 1) (a : BitVec 6) (i : BitVec 10) (s : State) (h : s.mem.wf = true) :
    (execAaddi d w a i s).memWf := by
  simp [execAaddi, h]

@[simp] theorem execAadd_memWf (d : BitVec 6) (w : BitVec 1) (a b : BitVec 6) (s : State) (h : s.mem.wf = true) : (execAadd d w a b s).memWf := by
  simp [execAadd, h]

@[simp] theorem execAsub_memWf (d : BitVec 6) (w : BitVec 1) (a b : BitVec 6) (s : State) (h : s.mem.wf = true) : (execAsub d w a b s).memWf := by
  simp [execAsub, h]

@[simp] theorem execAmov_memWf (d : BitVec 6) (w : BitVec 1) (a : BitVec 6) (s : State) (h : s.mem.wf = true) : (execAmov d w a s).memWf := by
  simp [execAmov, h]

@[simp] theorem execAset_memWf (d : BitVec 6) (w : BitVec 1) (a b : BitVec 6) (s : State) (h : s.mem.wf = true) : (execAset d w a b s).memWf := by
  simp [execAset, h]

@[simp] theorem execAget_memWf (d : BitVec 6) (w : BitVec 1) (a : BitVec 6) (s : State) (h : s.mem.wf = true) : (execAget d w a s).memWf := by
  simp [execAget, h]

@[simp] theorem execAgetHi_memWf (d : BitVec 6) (w : BitVec 1) (a : BitVec 6) (s : State) (h : s.mem.wf = true) : (execAgetHi d w a s).memWf := by
  simp [execAgetHi, h]

@[simp] theorem State.raising_memWf (s : State) (e : Exc) (k : State → Out) (h : s.mem.wf = true) (hk : ∀ t, t.mem.wf = true → (k t).memWf) :
    (s.raising e k).memWf := by
  simp [State.raising, h, hk]

@[simp] theorem Stop.state_wf (x : Stop) (h : x.memWf) : (x.state).mem.wf = true := by
  unfold Stop.state
  assumption

@[simp] theorem State.retry_mem (s : State) (again : Instr) : (s.retry again).mem = s.mem := by
  simp [State.retry]

@[simp] theorem State.tagStop_memWf {α : Type} (s : State) (key : Option Nat) (pa : Nat) (va : DWord) (h : s.mem.wf = true) :
    Access.memWf (s.tagStop key pa va : Access α) := by
  simp [State.tagStop, h]

@[simp] theorem State.leak_mem (s : State) : (s.leak).mem = s.mem := by
  simp [State.leak]

@[simp] theorem State.takeRing_wf (x : Nat) (s : State) (x1 : Nat) (x2 : Bool) (h : s.mem.wf = true) :
    (State.takeRing x s x1 x2).2.mem.wf = true := by
  fun_induction State.takeRing
  · simp [h]
  · simp [h]
  · simp +zetaDelta [*]
  · rename_i x t x1 x2 hc x3 x4 x5 hc1 x6 x7 x8 x9 t1 t2 hc2 hc3
    apply hc3
    simp +zetaDelta [*]
  · simp [h]

@[simp] theorem State.takeFrom_wf (s : State) (strand : Nat) (big : Bool) (h : s.mem.wf = true) : (s.takeFrom strand big).2.mem.wf = true := by
  unfold State.takeFrom
  split
  · split
    · dsimp only
      split <;> simp [h]
    · dsimp only
      split <;> simp [h]
  · simp [h]

@[simp] theorem State.takePage_wf (s : State) (strand : Nat) (big : Bool) (h : s.mem.wf = true) : (s.takePage strand big).2.mem.wf = true := by
  unfold State.takePage
  refine foldl_wf (p := Prod.snd) (fun t b ht => ?_) _ ?_
  · split <;> simp [ht]
  · simp [h]

@[simp] theorem State.returnPage_mem (s : State) (pa : Nat) (big : Bool) : (s.returnPage pa big).mem = s.mem := by
  simp [State.returnPage]

@[simp] theorem State.zeroPage_wf (s : State) (key : Option Nat) (pa log2 : Nat) (h : s.mem.wf = true) :
    (s.zeroPage key pa log2).mem.wf = true := by
  unfold State.zeroPage
  split <;> simp [Mem.wf_clear, h]

@[simp] theorem State.walkFrom_wf (s : State) (chiplet va x x1 : Nat) (h : s.mem.wf = true) : (s.walkFrom chiplet va x x1).2.mem.wf = true := by
  fun_induction State.walkFrom
  · simp [h]
  · simp +zetaDelta [*]
  · simp +zetaDelta [*]
  · simp [h]
  · simp +zetaDelta [*]
  · rename_i t x x1 x2 hc x3 x4 he hc1
    apply hc1
    simp +zetaDelta [*]

@[simp] theorem State.walk_wf (s : State) (chiplet ctx va : Nat) (h : s.mem.wf = true) : (s.walk chiplet ctx va).2.mem.wf = true := by
  unfold State.walk
  split <;> simp [h]

@[simp] theorem State.cache_mem (s : State) (die ctx va : Nat) (leaf : DWord) (log2 : Nat) : (s.cache die ctx va leaf log2).mem = s.mem := by
  simp [State.cache]

@[simp] theorem State.serveDz_wf (s : State) (strand ctx : Nat) (e : DWord) (pa lv : Nat) (h : s.mem.wf = true) :
    (s.serveDz strand ctx e pa lv).2.mem.wf = true := by
  unfold State.serveDz
  split
  · rename_i x t he
    have ht := wf_of_snd he (by simp [h])
    simp [ht]
  · rename_i x x1 t he
    have ht := wf_of_snd he (by simp [h])
    simp [State.physWrite_wf, ht]

@[simp] theorem State.readRange_mem (s : State) (pa n : Nat) : (s.readRange pa n).mem = s.mem := by
  simp [State.readRange]

@[simp] theorem State.copyPage_wf (s : State) (src dst log2 : Nat) (h : s.mem.wf = true) : (s.copyPage src dst log2).mem.wf = true := by
  unfold State.copyPage
  dsimp only
  refine Mem.wf_foldl (fun t b ht => ?_) _ ?_
  · simp [Mem.wf_set, ht]
  · simp [h]

@[simp] theorem State.copyUnder_memWf (s : State) (key : Option Nat) (src dst log2 : Nat) (va : DWord) (h : s.mem.wf = true) :
    Access.memWf (s.copyUnder key src dst log2 va) := by
  unfold State.copyUnder
  split
  · split <;> simp [h]
  · rw [Access.memWf_ok]
    dsimp only
    refine Mem.wf_foldl (fun t b ht => ?_) _ ?_
    · simp [Mem.wf_write, ht]
    · simp [h]

@[simp] theorem State.makeShadow_memWf (s : State) (l strand base log2 : Nat) (key : Option Nat) (va : DWord) (h : s.mem.wf = true) :
    Access.memWf (s.makeShadow l strand base log2 key va) := by
  unfold State.makeShadow
  split
  · rename_i x t he
    have ht := wf_of_snd he (by simp [h])
    simp [ht]
  · rename_i x x1 t he
    have ht := wf_of_snd he (by simp [h])
    split
    · rename_i x2 e he1
      have ht1 := Access.wf_of_error he1 (by simp [ht])
      simp [ht1]
    · rename_i x2 x3 t1 he1
      have ht1 := Access.wf_of_ok he1 (by simp [ht])
      simp [ht1]

@[simp] theorem State.frozenOn_memWf (s : State) (w : Who) (hh : Hold) (va : Nat) (due : Instr) (h : s.mem.wf = true) :
    (s.frozenOn w hh va due).memWf := by
  unfold State.frozenOn
  split <;> simp [h]

@[simp] theorem State.placeLeaf_memWf (s : State) (w : Who) (r : Right) (va : Nat) (e : DWord) (log2 : Nat) (h : s.mem.wf = true) :
    Access.memWf (s.placeLeaf w r va e log2) := by
  unfold State.placeLeaf
  split
  · simp [h]
  · split
    · dsimp only
      split
      · simp [h]
      · split <;> simp [h]
    · split
      · rename_i he
        dsimp only
        split
        · simp [h]
        · split
          · simp [h]
          · rename_i x x1 he1
            split
            · simp [h]
            · split
              · split
                · rename_i x2 x3 t he3
                  have ht := Access.wf_of_ok he3 (by simp [h])
                  simp [ht]
                · rename_i x2 t he3
                  have ht := Access.wf_of_ok he3 (by simp [h])
                  simp [ht]
                · rename_i x2 e1 he3
                  have ht := Access.wf_of_error he3 (by simp [h])
                  simp [ht]
              · simp [h]
          · simp [h]
      · dsimp only
        split
        · simp [h]
        · split <;> simp [h]

@[simp] theorem State.engineWalk_memWf (s : State) (w : Who) (r : Right) (va : Nat) (h : s.mem.wf = true) : Access.memWf (s.engineWalk w r va) := by
  unfold State.engineWalk
  dsimp only
  split
  · simp [h]
  · simp [h]
  · simp [h]
  · rename_i x x1 x2 x3 he
    split
    · rename_i x4 x5 t he1
      have ht := wf_of_snd he1 (by simp [h])
      simp [ht]
    · rename_i x4 t he1
      have ht := wf_of_snd he1 (by simp [h])
      simp [ht]

@[simp] theorem State.translate_memWf (s : State) (w : Who) (r : Right) (va : Nat) (h : s.mem.wf = true) : Access.memWf (s.translate w r va) := by
  unfold State.translate
  split
  · simp [h]
  · split
    · simp [h]
    · split <;> simp [h]

@[simp] theorem State.serve_mem (s : State) (ctx : Nat) (x : Loc) : (s.serve ctx x).mem = s.mem := by
  unfold State.serve
  split <;> simp

@[simp] theorem LaunchRec.windowPlace_memWf (rect : LaunchRec) (ctx : Nat) (r : Right) (va : Nat) (loc : Loc) (s : State) (h : s.mem.wf = true) :
    Access.memWf (rect.windowPlace ctx r va loc s) := by
  simp [LaunchRec.windowPlace, h]

@[simp] theorem State.resolve_memWf (s : State) (w : Who) (r : Right) (va : Nat) (h : s.mem.wf = true) : Access.memWf (s.resolve w r va) := by
  unfold State.resolve
  split
  · simp [h]
  · split
    · split <;> simp [h]
    · split
      · simp [h]
      · split
        · simp [h]
        · dsimp only
          refine Access.memWf_bind ?_ fun a t ht => ?_
          · simp [h]
          · simp [ht]

@[simp] theorem State.startSnap_wf (s : State) (e cid ctx : Nat) (h : s.mem.wf = true) : (s.startSnap e cid ctx).mem.wf = true := by
  unfold State.startSnap
  simp [State.setGroupWord_wf, h]

@[simp] theorem State.sectorRead_memWf (s : State) (key : Option Nat) (pa n : Nat) (va : DWord) (h : s.mem.wf = true) :
    (s.sectorRead key pa n va).memWf := by
  unfold State.sectorRead
  dsimp only
  split
  · simp [h]
  · split <;> simp [h]

@[simp] theorem State.sectorWrite_memWf (s : State) (key : Option Nat) (pa : Nat) (bs : List PByte) (va : DWord) (h : s.mem.wf = true) :
    (s.sectorWrite key pa bs va).memWf := by
  unfold State.sectorWrite State.sectorPut
  dsimp only
  split
  · simp [h, Mem.wf_write]
  · split
    · simp [h, Mem.wf_write]
    · split <;> simp [h, Mem.wf_write]

@[simp] theorem devStored_memWf {who : Who} {pa : Nat} {x : Access Unit} (h : x.memWf) : (devStored who pa x).memWf := by
  refine Access.memWf_bind h fun _ t ht => ?_
  cases who.lslot <;> simp [ht]

@[simp] theorem Stop.out_memWf (e : Stop) (h : e.memWf) : e.out.memWf := by
  cases e with
  | trap r c v o s => exact State.trap_memWf _ _ _ _ _ h
  | stall w s => exact State.stallOn_memWf _ _ h
  | paused s => exact State.stallOn_memWf _ _ h
  | tag a v s => exact State.tagFault_wf _ _ _ _ h
  | busy v s => exact (congrArg Mem.wf (State.launchFault_mem ..)).trans h

end Sys2Proof.Machine
end

section
/-! Device memory keeps its canonical form: places, and what is read and written at them (R174, R190). -/

namespace Sys2Proof.Machine

@[simp] theorem State.readLoc_memWf (s : State) (loc : Loc) (n : Nat) (va : DWord) (h : s.mem.wf = true) : Access.memWf (s.readLoc loc n va) := by
  unfold State.readLoc
  split
  · simp [h]
  · simp [h]
  · simp [h]
  · simp [h]
  · simp [h]
  · rw [Access.memWf_ok]
    refine foldl_wf (p := Prod.snd) (fun t b ht => ?_) _ ?_
    · simp [ht]
    · simp [h]
  · simp [h]

@[simp] theorem State.slotArmed_mem (s : State) (die slot : Nat) : (s.slotArmed die slot).mem = s.mem := by
  simp [State.slotArmed]

@[simp] theorem State.setEv_mem (s : State) (cid : Nat) : (s.setEv cid).mem = s.mem := by
  simp [State.setEv]

@[simp] theorem State.writeLoc_memWf (s : State) (who : Who) (loc : Loc) (bs : List PByte) (va : DWord) (h : s.mem.wf = true) :
    Access.memWf (s.writeLoc who loc bs va) := by
  unfold State.writeLoc
  split <;> simp [h]

@[simp] theorem State.resolveAll_memWf (w : Who) (r : Right) (x : List (Nat × Nat)) (s : State) (h : s.mem.wf = true) :
    Access.memWf (State.resolveAll w r x s) := by
  fun_induction State.resolveAll
  · simp [h]
  · rename_i x x1 x2 t hc
    refine Access.memWf_bind ?_ fun a t1 ht1 => ?_
    · simp [h]
    · split
      · simp [ht1]
      · refine Access.memWf_bind ?_ fun a t2 ht2 => ?_
        · simp [hc, ht1]
        · simp [ht2]

@[simp] theorem State.readAll_memWf (x : List (Loc × Nat × Nat)) (s : State) (h : s.mem.wf = true) : Access.memWf (State.readAll x s) := by
  fun_induction State.readAll
  · simp [h]
  · rename_i x x1 x2 x3 t hc
    refine Access.memWf_bind ?_ fun a t1 ht1 => ?_
    · simp [h]
    · refine Access.memWf_bind ?_ fun a t2 ht2 => ?_
      · simp [hc, ht1]
      · simp [ht2]

@[simp] theorem State.writeAll_memWf (w : Who) (x : List (Loc × Nat × Nat)) (x1 : List PByte) (s : State) (h : s.mem.wf = true) :
    Access.memWf (State.writeAll w x x1 s) := by
  fun_induction State.writeAll
  · simp [h]
  · rename_i x x1 x2 x3 x4 t hc
    refine Access.memWf_bind ?_ fun a t1 ht1 => ?_
    · simp [h]
    · simp [hc, ht1]

@[simp] theorem State.readVa_memWf (s : State) (w : Who) (va n : Nat) (h : s.mem.wf = true) : Access.memWf (s.readVa w va n) := by
  unfold State.readVa
  refine Access.memWf_bind ?_ fun a t ht => ?_
  · simp [h]
  · simp [ht]

@[simp] theorem State.writeVa_memWf (s : State) (w : Who) (va : Nat) (bs : List PByte) (h : s.mem.wf = true) :
    Access.memWf (s.writeVa w va bs) := by
  unfold State.writeVa
  refine Access.memWf_bind ?_ fun a t ht => ?_
  · simp [h]
  · simp [ht]

@[simp] theorem State.note_mem (s : State) (rank : Nat) (cause : Cause) (val : DWord) : (s.note rank cause val).mem = s.mem := by
  simp [State.note]

end Sys2Proof.Machine
end

section
/-! Device memory keeps its canonical form: the C pipe, task control, the hubs' slots and spill pages (R95, R122, R123). -/

namespace Sys2Proof.Machine

@[simp] theorem State.jumpTo_memWf (s : State) (target : DWord) (h : s.mem.wf = true) : (s.jumpTo target).memWf := by
  simp [State.jumpTo, h]

@[simp] theorem execBrCc_memWf (k : BitVec 4) (p : BitVec 6) (o : BitVec 16) (s : State) (h : s.mem.wf = true) : (execBrCc k p o s).memWf := by
  simp [execBrCc, h]

@[simp] theorem execJmp_memWf (i : BitVec 19) (s : State) (h : s.mem.wf = true) : (execJmp i s).memWf := by
  simp [execJmp, h]

@[simp] theorem execCall_memWf (d : BitVec 6) (i : BitVec 19) (s : State) (h : s.mem.wf = true) : (execCall d i s).memWf := by
  simp [execCall, h]

@[simp] theorem State.jumpInd_memWf (s : State) (a : BitVec 6) (h : s.mem.wf = true) : (s.jumpInd a).memWf := by
  simp [State.jumpInd, h]

@[simp] theorem execJind_memWf (a : BitVec 6) (s : State) (h : s.mem.wf = true) : (execJind a s).memWf := by
  simp [execJind, h]

@[simp] theorem execRet_memWf (a : BitVec 6) (s : State) (h : s.mem.wf = true) : (execRet a s).memWf := by
  simp [execRet, h]

@[simp] theorem State.tableRead_memWf (s : State) (a : Nat) (k : Word → State → Out) (h : s.mem.wf = true)
    (hk : ∀ x0 t, t.mem.wf = true → (k x0 t).memWf) : (s.tableRead a k).memWf := by
  unfold State.tableRead
  split
  · rename_i x x1 x2 x3 x4 t he
    have ht : t.mem.wf = true := Access.wf_of_error he (by simp [h])
    simp [ht]
  · rename_i x e hc he
    have ht := Access.wf_of_error he (by simp [h])
    simp [ht]
  · rename_i x x1 t he
    have ht := Access.wf_of_ok he (by simp [h])
    split
    · simp [ht]
    · split
      · rename_i x2 e he1
        have ht1 := Access.wf_of_error he1 (by simp [ht])
        simp [ht1]
      · rename_i x2 x3 t1 he1
        have ht1 := Access.wf_of_ok he1 (by simp [ht])
        split
        · simp [ht1]
        · simp [hk, ht1]

@[simp] theorem execJtab_memWf (a b : BitVec 6) (s : State) (h : s.mem.wf = true) : (execJtab a b s).memWf := by
  unfold execJtab
  split
  · simp [h]
  · rename_i hc
    dsimp only
    apply State.checked_memWf
    · simp [h]
    · split
      · simp [h]
      · split
        · simp [h]
        · apply State.tableRead_memWf
          · simp [h]
          · intro x x1 hc3
            split
            · simp [hc3]
            · apply State.tableRead_memWf
              · simp [hc3]
              · intro x2 x3 hc5
                simp [hc5]

@[simp] theorem execRep_memWf (n : BitVec 6) (d a b x : BitVec 1) (s : State) (h : s.mem.wf = true) : (execRep n d a b x s).memWf := by
  simp [execRep, h]

@[simp] theorem State.stopAtCkpt_mem (s : State) (cktab : DWord) (tab : CkptTable) : (s.stopAtCkpt cktab tab).mem = s.mem := by
  simp [State.stopAtCkpt]

@[simp] theorem execCkpt_memWf (a : BitVec 6) (s : State) (h : s.mem.wf = true) : (execCkpt a s).memWf := by
  simp [execCkpt, h]

@[simp] theorem State.requestStop_mem (s : State) (cid : Nat) (why : StopWhy) : (s.requestStop cid why).mem = s.mem := by
  simp [State.requestStop]

@[simp] theorem State.onContext_mem (s : State) (cid l : Nat) (f : Thread → Thread) : (s.onContext cid l f).mem = s.mem := by
  simp [State.onContext]

@[simp] theorem execPreemptRequest_memWf (cid : Nat) (why : StopWhy) (s : State) (h : s.mem.wf = true) : (execPreemptRequest cid why s).memWf := by
  simp [execPreemptRequest, h]

@[simp] theorem execCkptlimExpiry_memWf (cid : Nat) (s : State) (h : s.mem.wf = true) : (execCkptlimExpiry cid s).memWf := by
  simp [execCkptlimExpiry, h]

@[simp] theorem State.codeWord_memWf (s : State) (cid pc : Nat) (h : s.mem.wf = true) : Access.memWf (s.codeWord cid pc) := by
  unfold State.codeWord
  dsimp only
  split
  · simp [h]
  · refine Access.memWf_bind ?_ fun a t ht => ?_
    · simp [h]
    · simp [ht]

@[simp] theorem State.rereadRep_memWf (s : State) (cid : Nat) (h : s.mem.wf = true) : Access.memWf (s.rereadRep cid) := by
  unfold State.rereadRep
  dsimp only
  split
  · simp [h]
  · refine Access.memWf_bind ?_ fun a t ht => ?_
    · simp [h]
    · simp [ht]

@[simp] theorem State.rereads_wf (s : State) (cid : Nat) (h : s.mem.wf = true) : (s.rereads cid).mem.wf = true := by
  unfold State.rereads
  split
  · rename_i x x1 t he
    have ht := Access.wf_of_ok he (by simp [h])
    simp [ht]
  · rename_i x x1 x2 t he
    have ht : t.mem.wf = true := Access.wf_of_error he (by simp [h])
    simp [ht]
  · rename_i x e hc he
    have ht := Access.wf_of_error he (by simp [h])
    simp [ht]

@[simp] theorem State.layArea_wf (s : State) (cid : Nat) (dl : Bool) (h : s.mem.wf = true) : (s.layArea cid dl).mem.wf = true := by
  unfold State.layArea
  split
  · dsimp only
    split
    · simp [State.laySave_wf, h]
    · simp [h]
  · dsimp only
    split
    · simp [State.laySave_wf, h]
    · simp [h]

@[simp] theorem State.areaRead_wf (s : State) (c : Core) (dl : Bool) (a : Saved) (h : s.mem.wf = true) : (s.areaRead c dl a).2.2.mem.wf = true := by
  unfold State.areaRead
  simp +contextual [h]

@[simp] theorem execSaveComplete_memWf (cid : Nat) (s : State) (h : s.mem.wf = true) : (execSaveComplete cid s).memWf := by
  simp [execSaveComplete, h]

@[simp] theorem execContextRestore_memWf (cid : Nat) (s : State) (h : s.mem.wf = true) : (execContextRestore cid s).memWf := by
  unfold execContextRestore
  dsimp only
  split
  · simp [h]
  · split
    · split
      · simp [h]
      · split
        · simp [h]
        · split <;> simp [h]
    · simp [h]

@[simp] theorem State.floatV_memWf (s : State) (lat : Nat) (d : BitVec 6) (w : BitVec 1) (r : Vector (Word × Exc) 128) (h : s.mem.wf = true) :
    (s.floatV lat d w r).memWf := by
  simp [State.floatV, h]

@[simp] theorem vfloat2_memWf (f : FVal → FVal → FRes) (d : BitVec 6) (w : BitVec 1) (a b : BitVec 6) (t : BitVec 1) (s : State)
    (h : s.mem.wf = true) : (vfloat2 f d w a b t s).memWf := by
  simp [vfloat2, h]

@[simp] theorem vfloat1_memWf (f : FVal → FVal) (d : BitVec 6) (w : BitVec 1) (a : BitVec 6) (t : BitVec 1) (s : State) (h : s.mem.wf = true) :
    (vfloat1 f d w a t s).memWf := by
  simp [vfloat1, h]

@[simp] theorem execVadd_memWf (d : BitVec 6) (w : BitVec 1) (a b : BitVec 6) (t : BitVec 1) (s : State) (h : s.mem.wf = true) :
    (execVadd d w a b t s).memWf := by
  simp [execVadd, h]

@[simp] theorem execVsub_memWf (d : BitVec 6) (w : BitVec 1) (a b : BitVec 6) (t : BitVec 1) (s : State) (h : s.mem.wf = true) :
    (execVsub d w a b t s).memWf := by
  simp [execVsub, h]

@[simp] theorem execVmul_memWf (d : BitVec 6) (w : BitVec 1) (a b : BitVec 6) (t : BitVec 1) (s : State) (h : s.mem.wf = true) :
    (execVmul d w a b t s).memWf := by
  simp [execVmul, h]

@[simp] theorem execVmin_memWf (d : BitVec 6) (w : BitVec 1) (a b : BitVec 6) (t : BitVec 1) (s : State) (h : s.mem.wf = true) :
    (execVmin d w a b t s).memWf := by
  simp [execVmin, h]

@[simp] theorem execVmax_memWf (d : BitVec 6) (w : BitVec 1) (a b : BitVec 6) (t : BitVec 1) (s : State) (h : s.mem.wf = true) :
    (execVmax d w a b t s).memWf := by
  simp [execVmax, h]

@[simp] theorem execVabs_memWf (d : BitVec 6) (w : BitVec 1) (a : BitVec 6) (t : BitVec 1) (s : State) (h : s.mem.wf = true) :
    (execVabs d w a t s).memWf := by
  simp [execVabs, h]

@[simp] theorem execVneg_memWf (d : BitVec 6) (w : BitVec 1) (a : BitVec 6) (t : BitVec 1) (s : State) (h : s.mem.wf = true) :
    (execVneg d w a t s).memWf := by
  simp [execVneg, h]

@[simp] theorem vfma3_memWf (neg : Bool) (d : BitVec 6) (w : BitVec 1) (a b : BitVec 6) (t : BitVec 1) (s : State) (h : s.mem.wf = true) :
    (vfma3 neg d w a b t s).memWf := by
  simp [vfma3, h]

@[simp] theorem execVfma_memWf (d : BitVec 6) (w : BitVec 1) (a b : BitVec 6) (t : BitVec 1) (s : State) (h : s.mem.wf = true) :
    (execVfma d w a b t s).memWf := by
  simp [execVfma, h]

@[simp] theorem execVfms_memWf (d : BitVec 6) (w : BitVec 1) (a b : BitVec 6) (t : BitVec 1) (s : State) (h : s.mem.wf = true) :
    (execVfms d w a b t s).memWf := by
  simp [execVfms, h]

@[simp] theorem execVcvt_memWf (d : BitVec 6) (w : BitVec 1) (a : BitVec 6) (r : BitVec 3) (x f : BitVec 1) (t : BitVec 5) (s : State)
    (h : s.mem.wf = true) : (execVcvt d w a r x f t s).memWf := by
  simp [execVcvt, h]

@[simp] theorem vdot_memWf (pairs : Word → Word → List (FVal × FVal)) (d : BitVec 6) (w : BitVec 1) (a b : BitVec 6) (s : State)
    (h : s.mem.wf = true) : (vdot pairs d w a b s).memWf := by
  simp [vdot, h]

@[simp] theorem execVdot4_memWf (d : BitVec 6) (w : BitVec 1) (a b : BitVec 6) (u f : BitVec 1) (p : BitVec 3) (s : State) (h : s.mem.wf = true) :
    (execVdot4 d w a b u f p s).memWf := by
  simp [execVdot4, h]

@[simp] theorem execVdot2_memWf (d : BitVec 6) (w : BitVec 1) (a b : BitVec 6) (s : State) (h : s.mem.wf = true) : (execVdot2 d w a b s).memWf := by
  simp [execVdot2, h]

@[simp] theorem State.readObj_memWf (s : State) (w : Who) (table : DWord) (k : Nat) (h : s.mem.wf = true) : Access.memWf (s.readObj w table k) := by
  unfold State.readObj
  refine Access.memWf_bind ?_ fun a t ht => ?_
  · simp [h]
  · simp [ht]

@[simp] theorem State.readTile_memWf (w : Who) (o : Obj) (ty tx : Nat) (x : List (Nat × Nat)) (s : State) (h : s.mem.wf = true) :
    Access.memWf (State.readTile w o ty tx x s) := by
  fun_induction State.readTile
  · simp [h]
  · rename_i x x1 t hc
    refine Access.memWf_bind ?_ fun a t1 ht1 => ?_
    · simp [h]
    · refine Access.memWf_bind ?_ fun a t2 ht2 => ?_
      · simp [hc, ht1]
      · simp [ht2]

@[simp] theorem State.writeRuns_memWf (w : Who) (x : List (Nat × List PByte)) (s : State) (h : s.mem.wf = true) :
    Access.memWf (State.writeRuns w x s) := by
  fun_induction State.writeRuns
  · simp [h]
  · rename_i x x1 t hc
    refine Access.memWf_bind ?_ fun a t1 ht1 => ?_
    · simp [h]
    · simp [hc, ht1]

@[simp] theorem State.writeTile_memWf (w : Who) (o : Obj) (ty tx : Nat) (es : List Elem) (s : State) (h : s.mem.wf = true) :
    Access.memWf (State.writeTile w o ty tx es s) := by
  simp [State.writeTile, h]

@[simp] theorem State.boundFlag_mem (s : State) (l : Nat) (o : Obj) (codes : List Nat) : (s.boundFlag l o codes).mem = s.mem := by
  simp [State.boundFlag]

@[simp] theorem State.readQuant_memWf (s : State) (w : Who) (o : Obj) (ty tx : Nat) (h : s.mem.wf = true) :
    Access.memWf (s.readQuant w o ty tx) := by
  unfold State.readQuant
  refine Access.memWf_bind ?_ fun a t ht => ?_
  · simp [h]
  · refine Access.memWf_bind ?_ fun a t1 ht1 => ?_
    · simp [ht]
    · simp [ht1]

@[simp] theorem State.unhold_mem (s : State) (w : HoldWho) : (s.unhold w).mem = s.mem := by
  simp [State.unhold]

@[simp] theorem State.holdOnly_mem (s : State) (w : HoldWho) : (s.holdOnly w).mem = s.mem := by
  simp [State.holdOnly]

@[simp] theorem State.holdOn_mem (s : State) (w : HoldWho) (again : Instr) : (s.holdOn w again).mem = s.mem := by
  simp [State.holdOn]

@[simp] theorem State.issuerStop_memWf (i : Issuer) (again : Instr) (x : Stop) (h : x.memWf) : (State.issuerStop i again x).memWf := by
  unfold State.issuerStop
  split
  · rename_i e x x1 x2 x3 t
    have h : t.mem.wf = true := h
    simp [h]
  · rename_i e x t
    have h : t.mem.wf = true := h
    simp [h]
  · rename_i e t
    have h : t.mem.wf = true := h
    simp [h]
  · rename_i e x x1 t
    have h : t.mem.wf = true := h
    simp [h]
  · rename_i e x t
    have h : t.mem.wf = true := h
    simp [h]

@[simp] theorem State.engineFault_wf (s : State) (cid : Nat) (pc : DWord) (cause : Cause) (val : DWord) (origin : Psn) (h : s.mem.wf = true) :
    (s.engineFault cid pc cause val origin).mem.wf = true := by
  simp [State.engineFault, h]

@[simp] theorem State.engineStop_memWf (s : State) (cid : Nat) (pc : DWord) (again : Instr) (e : Stop) (h : s.mem.wf = true) (h1 : e.memWf) :
    (s.engineStop cid pc again e).memWf := by
  simp [State.engineStop, *]

@[simp] theorem execAllocHoldTimeout_memWf (who : HoldWho) (s : State) (h : s.mem.wf = true) : (execAllocHoldTimeout who s).memWf := by
  unfold execAllocHoldTimeout
  split <;> simp [h]

@[simp] theorem State.readCode_memWf (s : State) (w : Who) (va n : Nat) (h : s.mem.wf = true) : Access.memWf (s.readCode w va n) := by
  unfold State.readCode
  refine Access.memWf_bind ?_ fun a t ht => ?_
  · simp [h]
  · simp [ht]

@[simp] theorem State.codeEntry_memWf (s : State) (w : Who) (code : DWord) (k : Nat) (h : s.mem.wf = true) :
    Access.memWf (s.codeEntry w code k) := by
  unfold State.codeEntry
  refine Access.memWf_bind ?_ fun a t ht => ?_
  · simp [h]
  · dsimp only
    split
    · simp [ht]
    · refine Access.memWf_bind ?_ fun a t1 ht1 => ?_
      · simp [ht]
      · simp [ht1]

@[simp] theorem State.launchObj_memWf (s : State) (l : Nat) (w : Who) (k : Nat) (h : s.mem.wf = true) : Access.memWf (s.launchObj l w k) := by
  unfold State.launchObj
  split
  · simp [h]
  · split
    · simp [h]
    · split
      · simp [h]
      · refine Access.memWf_bind ?_ fun a t ht => ?_
        · simp [h]
        · simp [ht]

@[simp] theorem State.regionObjs_memWf (l : Nat) (w : Who) (x : List Region) (s : State) (h : s.mem.wf = true) :
    Access.memWf (State.regionObjs l w x s) := by
  fun_induction State.regionObjs
  · simp [h]
  · rename_i x x1 t hc
    refine Access.memWf_bind ?_ fun a t1 ht1 => ?_
    · simp [h]
    · split
      · simp [ht1]
      · split
        · simp [ht1]
        · refine Access.memWf_bind ?_ fun a t2 ht2 => ?_
          · simp [hc, ht1]
          · simp [ht2]

@[simp] theorem State.checkPacket_memWf (s : State) (l die : Nat) (kinds : List Nat) (bs : List Byte) (h : s.mem.wf = true) :
    Access.memWf (s.checkPacket l die kinds bs) := by
  unfold State.checkPacket
  split
  · split
    · simp [h]
    · dsimp only
      refine Access.memWf_bind ?_ fun a t ht => ?_
      · simp [h]
      · split
        · simp [ht]
        · split
          · simp [ht]
          · refine Access.memWf_bind ?_ fun a t1 ht1 => ?_
            · simp [ht]
            · simp [ht1]
  · simp [h]

@[simp] theorem State.onBlock_mem (s : State) (l die : Nat) (f : HubBlock → HubBlock) : (s.onBlock l die f).mem = s.mem := by
  simp [State.onBlock]

@[simp] theorem State.stir_mem (s : State) (l die : Nat) : (s.stir l die).mem = s.mem := by
  simp [State.stir]

@[simp] theorem State.refillDue_mem (s : State) (l die b : Nat) : (s.refillDue l die b).mem = s.mem := by
  simp [State.refillDue]

@[simp] theorem State.refillAll_mem (s : State) (l die : Nat) : (s.refillAll l die).mem = s.mem := by
  simp [State.refillAll]

@[simp] theorem State.freeSlot_mem (s : State) (die : Nat) (handle : Word) : (s.freeSlot die handle).mem = s.mem := by
  simp [State.freeSlot]

@[simp] theorem State.hubFault_mem (s : State) (l die : Nat) (cause : Cause) (val : DWord) (origin : Psn) :
    (s.hubFault l die cause val origin).mem = s.mem := by
  simp [State.hubFault]

@[simp] theorem State.hubStop_memWf (l die : Nat) (again : Instr) (x : Stop) (h : x.memWf) : (State.hubStop l die again x).memWf := by
  unfold State.hubStop
  split
  · rename_i e x x1 x2 x3 t
    have h : t.mem.wf = true := h
    simp [h]
  · rename_i e x t
    have h : t.mem.wf = true := h
    simp [h]
  · rename_i e t
    have h : t.mem.wf = true := h
    simp [h]
  · rename_i e x x1 t
    have h : t.mem.wf = true := h
    simp [h]
  · rename_i e x t
    have h : t.mem.wf = true := h
    simp [h]

@[simp] theorem State.unspill_mem (s : State) (l die pa : Nat) : (s.unspill l die pa).mem = s.mem := by
  simp [State.unspill]

@[simp] theorem State.append_mem (s : State) (l die b : Nat) (k : Task) : (s.append l die b k).mem = s.mem := by
  simp [State.append]

@[simp] theorem State.startWalk_mem (s : State) (l die : Nat) (k : Task) : (s.startWalk l die k).mem = s.mem := by
  simp [State.startWalk]

@[simp] theorem State.takeSlot_mem {s t : State} {l die : Nat} {w : Word} (h : s.takeSlot l die = some (w, t)) : t.mem = s.mem := by
  unfold State.takeSlot at h
  dsimp only at h
  split at h
  · cases h
  · cases h
    rfl

@[simp] theorem State.spillRecord_wf (s : State) (l die q : Nat) (bytes : List Byte) (h : s.mem.wf = true) :
    (s.spillRecord l die q bytes).2.mem.wf = true := by
  unfold State.spillRecord
  dsimp only
  split
  · simp [h, State.physWriteN_wf]
  · split
    case h_1 t ht => simpa using wf_of_snd ht (by simp [h])
    case h_2 pa t ht =>
      have ht' : t.mem.wf = true := wf_of_snd ht (by simp [h])
      refine State.physWriteN_wf _ _ _ (State.physWriteN_wf _ _ _ ?_)
      cases List.find? (fun p => p.queue == q) (s.block l die).pages.reverse <;> simp [ht', State.physWriteN_wf]

end Sys2Proof.Machine
end

section
/-! Device memory keeps its canonical form: inserts and the walker (R98, R113 to R119). -/

namespace Sys2Proof.Machine

@[simp] theorem State.spillTask_wf (s : State) (l die b : Nat) (k : Task) (hasSlot : Bool) (h : s.mem.wf = true) :
    (s.spillTask l die b k hasSlot).mem.wf = true := by
  unfold State.spillTask
  split
  · rename_i x t he
    have ht := wf_of_snd he (by simp [h])
    simp [ht]
  · rename_i x x1 t he
    have ht := wf_of_snd he (by simp [h])
    simp [ht]

@[simp] theorem State.tailInsert_wf (s : State) (l die : Nat) (k : Task) (hasSlot : Bool) (h : s.mem.wf = true) :
    (s.tailInsert l die k hasSlot).mem.wf = true := by
  unfold State.tailInsert
  split
  · simp [h]
  · split
    · rename_i x x1 t he
      have ht := State.takeSlot_mem he
      simp [h, ht]
    · simp [h]

@[simp] theorem State.moveTask_wf (s : State) (l die : Nat) (k : Task) (h : s.mem.wf = true) : (s.moveTask l die k).mem.wf = true := by
  simp [State.moveTask, h]

@[simp] theorem State.setFloor_wf (s : State) (l die fc guard : Nat) (h : s.mem.wf = true) : (s.setFloor l die fc guard).mem.wf = true := by
  unfold State.setFloor
  dsimp only
  refine foldl_wf (p := fun t => t) (fun t b ht => ?_) _ ?_
  · simp [ht]
  · simp +contextual [h]

@[simp] theorem State.refill_mem (x : Nat) (s : State) (x1 x2 x3 : Nat) : (State.refill x s x1 x2 x3).mem = s.mem := by
  fun_induction State.refill
  · simp
  · simp
  · simp
  · simp
  · rename_i x t x1 x2 x3 x4 x5 x6 he hc x7 t1 he1 t2 he2
    have ht := State.takeSlot_mem he1
    simp +zetaDelta [*]

@[simp] theorem execBucketRefill_memWf (l : Nat) (hub b : Nat) (s : State) (h : s.mem.wf = true) : (execBucketRefill l hub b s).memWf := by
  simp [execBucketRefill, h]

@[simp] theorem State.lowTask_wf (s : State) (l die : Nat) (k : Task) (hasSlot : Bool) (h : s.mem.wf = true) :
    (s.lowTask l die k hasSlot).mem.wf = true := by
  unfold State.lowTask
  split
  · simp [h]
  · split
    · rename_i x x1 t he
      have ht := State.takeSlot_mem he
      simp [h, ht]
    · rename_i x he
      dsimp only
      split
      · rename_i x1 t he1
        have ht := wf_of_snd he1 (by simp [h])
        simp [ht]
      · rename_i x1 x2 t he1
        have ht := wf_of_snd he1 (by simp [h])
        simp [ht]

@[simp] theorem State.insertFresh_wf (s : State) (l die : Nat) (k : Task) (h : s.mem.wf = true) : (s.insertFresh l die k).mem.wf = true := by
  simp [State.insertFresh, h]

@[simp] theorem State.insertTail_wf (s : State) (l die : Nat) (k : Task) (hasSlot : Bool) (h : s.mem.wf = true) :
    (s.insertTail l die k hasSlot).mem.wf = true := by
  simp [State.insertTail, h]

@[simp] theorem State.acceptTask_wf (s : State) (l die : Nat) (k : Task) (rs : List Placed) (cseq : Word) (src : Option Nat) (h : s.mem.wf = true) :
    (s.acceptTask l die k rs cseq src).2.mem.wf = true := by
  unfold State.acceptTask
  split
  · dsimp only
    split
    · simp [h]
    · split <;> simp [h]
  · rename_i x x1 t he
    have ht := State.takeSlot_mem he
    dsimp only
    split
    · simp [h, ht]
    · split <;> simp [h]

@[simp] theorem State.nextCseq_mem (s : State) (src : Option Nat) : (s.nextCseq src).2.mem = s.mem := by
  unfold State.nextCseq
  split <;> simp

@[simp] theorem State.childCseq_mem (s : State) (k : Task) : (s.childCseq k).2.mem = s.mem := by
  unfold State.childCseq
  split <;> simp

@[simp] theorem execNestWalkerSpawn_memWf (l uid : Nat) (s : State) (h : s.mem.wf = true) : (execNestWalkerSpawn l uid s).memWf := by
  unfold execNestWalkerSpawn
  split
  · simp [h]
  · rename_i x x1 he
    split
    · simp [h]
    · split
      · simp [h]
      · split
        · simp [h]
        · dsimp only
          split
          · simp [h]
          · split
            · rename_i x8 e he4
              have ht := Access.wf_of_error he4 (by simp [h])
              simp [ht]
            · rename_i x8 t he4
              have ht := Access.wf_of_ok he4 (by simp [h])
              simp [ht]
            · rename_i x8 x9 t he4
              have ht := Access.wf_of_ok he4 (by simp [h])
              simp [ht]

end Sys2Proof.Machine
end

section
/-! Device memory keeps its canonical form: loads, stores and atomic operations; L2, tile moves (R344 to R352). -/

namespace Sys2Proof.Machine

@[simp] theorem State.storeL1_mem (s : State) (off : Nat) (bs : List PByte) : (s.storeL1 off bs).mem = s.mem := by
  simp [State.storeL1]

@[simp] theorem State.vectorAt_memWf (s : State) (e : DWord) (k : Nat → Out) (h : s.mem.wf = true) (hk : ∀ x0, (k x0).memWf) :
    (s.vectorAt e k).memWf := by
  unfold State.vectorAt
  split
  · simp [h]
  · split
    · simp [h, hk]
    · simp [h]

@[simp] theorem execVld_memWf (d : BitVec 6) (w : BitVec 1) (a i : BitVec 6) (k : BitVec 3) (s : State) (h : s.mem.wf = true) :
    (execVld d w a i k s).memWf := by
  simp [execVld, h]

@[simp] theorem State.storePair_mem (s : State) (mask : BitVec 128) (v : Lanes) (off i : Nat) : (s.storePair mask v off i).mem = s.mem := by
  unfold State.storePair
  split <;> simp

@[simp] theorem execVst_memWf (d a i : BitVec 6) (k : BitVec 3) (s : State) (h : s.mem.wf = true) : (execVst d a i k s).memWf := by
  unfold execVst
  dsimp only
  apply State.checked_memWf <;> simp [h]

@[simp] theorem State.scattered_memWf (s : State) (mask : BitVec 128) (a : DWord) (b : Lanes) (k : Out) (h : s.mem.wf = true) (hk : k.memWf) :
    (s.scattered mask a b k).memWf := by
  unfold State.scattered
  split
  · simp [h]
  · simp [hk]

@[simp] theorem execVgath_memWf (d : BitVec 6) (w : BitVec 1) (a b : BitVec 6) (k : BitVec 3) (s : State) (h : s.mem.wf = true) :
    (execVgath d w a b k s).memWf := by
  simp [execVgath, h]

@[simp] theorem execVscat_memWf (d a b : BitVec 6) (k : BitVec 3) (s : State) (h : s.mem.wf = true) : (execVscat d a b k s).memWf := by
  unfold execVscat
  dsimp only
  apply State.checked_memWf <;> simp [h]

@[simp] theorem Stop.at_memWf (ea : DWord) (x : Stop) (h : x.memWf) : (Stop.at ea x).memWf := by
  unfold Stop.at
  split
  · rename_i e x x1 x2 x3 t
    have h : t.mem.wf = true := h
    simp [h]
  · rename_i e x x1 t
    have h : t.mem.wf = true := h
    simp [h]
  · rename_i e x t
    have h : t.mem.wf = true := h
    simp [h]
  · simp [h]

@[simp] theorem State.coreRead_memWf (s : State) (ea : DWord) (n : Nat) (k : List PByte → State → Out) (h : s.mem.wf = true)
    (hk : ∀ x0 t, t.mem.wf = true → (k x0 t).memWf) : (s.coreRead ea n k).memWf := by
  unfold State.coreRead
  split
  · rename_i x x1 t he
    have ht := Access.wf_of_ok he (by simp [h])
    simp [hk, ht]
  · rename_i x e he
    have ht := Access.wf_of_error he (by simp [h])
    simp [ht]

@[simp] theorem State.storeMark_mem (s : State) (ea : DWord) (n : Nat) : (s.storeMark ea n).mem = s.mem := by
  unfold State.storeMark
  split <;> simp

@[simp] theorem State.coreWrite_memWf (s : State) (sys : Bool) (ea : DWord) (bs : List PByte) (k : State → Out) (h : s.mem.wf = true)
    (hk : ∀ t, t.mem.wf = true → (k t).memWf) : (s.coreWrite sys ea bs k).memWf := by
  unfold State.coreWrite
  split
  · rename_i x e he
    have ht := Access.wf_of_error he (by simp [h])
    simp [ht]
  · rename_i x x1 t he
    have ht := Access.wf_of_ok he (by simp [h])
    split
    · split
      · rename_i x2 x3 t1 he2
        have ht1 := Access.wf_of_ok he2 (by simp [ht])
        simp [hk, ht1]
      · rename_i x2 e he2
        have ht1 := Access.wf_of_error he2 (by simp [ht])
        simp [ht1]
    · simp [hk, ht]

@[simp] theorem State.slotFree_memWf (s : State) (k : Out) (h : s.mem.wf = true) (hk : k.memWf) : (s.slotFree k).memWf := by
  simp [State.slotFree, h, hk]

@[simp] theorem execLd_memWf (z : BitVec 2) (d : BitVec 6) (b : BitVec 4) (x : BitVec 1) (i : BitVec 11) (s : State) (h : s.mem.wf = true) :
    (execLd z d b x i s).memWf := by
  unfold execLd
  split
  · dsimp only
    apply State.checked_memWf
    · simp [h]
    · split <;> simp [h]
  · dsimp only
    apply State.checked_memWf
    · simp [h]
    · split <;> simp [h]

@[simp] theorem State.storedElems_memWf (ea : Nat) (bs : List Byte) (x : List (Obj × Nat)) (s : State) (h : s.mem.wf = true) :
    Access.memWf (State.storedElems ea bs x s) := by
  fun_induction State.storedElems
  · simp [h]
  · rename_i x x1 t x2 x3 hc
    refine Access.memWf_bind ?_ fun a t1 ht1 => ?_
    · simp +zetaDelta [*]
    · refine Access.memWf_bind ?_ fun a t2 ht2 => ?_
      · simp [hc, ht1]
      · simp [ht2]

@[simp] theorem State.landLoad_memWf (s : State) (d : BitVec 5) (l : BitVec 10) (ea : DWord) (n : Nat) (h : s.mem.wf = true) :
    (s.landLoad d l ea n).memWf := by
  unfold State.landLoad
  split
  · simp [h]
  · rename_i x hc
    split
    · rename_i x1 e he
      have ht := Access.wf_of_error he (by simp [h])
      simp [ht]
    · rename_i x1 x2 t he
      have ht := Access.wf_of_ok he (by simp [h])
      split
      · split
        · rename_i x3 x4 t1 he2
          have ht1 := Access.wf_of_ok he2 (by simp [ht])
          simp [ht1]
        · rename_i x3 e he2
          have ht1 := Access.wf_of_error he2 (by simp [ht])
          simp [ht1]
      · simp [ht]

@[simp] theorem execLdl_memWf (z : BitVec 2) (d : BitVec 5) (b : BitVec 3) (o : BitVec 4) (l : BitVec 10) (s : State) (h : s.mem.wf = true) :
    (execLdl z d b o l s).memWf := by
  unfold execLdl
  dsimp only
  apply State.slotFree_memWf <;> simp [h]

@[simp] theorem execLdAcq_memWf (_e : BitVec 3) (z : BitVec 2) (d : BitVec 5) (b : BitVec 3) (l : BitVec 10) (s : State) (h : s.mem.wf = true) :
    (execLdAcq _e z d b l s).memWf := by
  unfold execLdAcq
  dsimp only
  apply State.slotFree_memWf <;> simp [h]

@[simp] theorem execStRel_memWf (e : BitVec 3) (z : BitVec 2) (r : BitVec 5) (b : BitVec 3) (s : State) (h : s.mem.wf = true) :
    (execStRel e z r b s).memWf := by
  unfold execStRel
  dsimp only
  apply State.checked_memWf
  · simp [h]
  · split
    · simp [h]
    · split <;> simp [h]

@[simp] theorem State.amoPlace_memWf (s : State) (ea : DWord) (h : s.mem.wf = true) : Access.memWf (s.amoPlace ea) := by
  unfold State.amoPlace
  refine Access.memWf_bind ?_ fun a t ht => ?_
  · simp [h]
  · simp [ht]

@[simp] theorem State.enqueue_mem (s : State) (numbers : Nat) (f : Nat → ArrayOp) : (s.enqueue numbers f).mem = s.mem := by
  simp [State.enqueue]

@[simp] theorem State.room_memWf (s : State) (numbers : Nat) (k : Out) (h : s.mem.wf = true) (hk : k.memWf) : (s.room numbers k).memWf := by
  simp [State.room, h, hk]

@[simp] theorem execWbld_memWf (a : BitVec 4) (r : BitVec 5) (s : State) (h : s.mem.wf = true) : (execWbld a r s).memWf := by
  unfold execWbld
  dsimp only
  apply State.room_memWf
  · simp [h]
  · apply State.checked_memWf
    · simp [h]
    · split
      · simp [h]
      · split <;> simp [h]

@[simp] theorem execWlatch_memWf (w : BitVec 2) (r : BitVec 5) (s : State) (h : s.mem.wf = true) : (execWlatch w r s).memWf := by
  unfold execWlatch
  dsimp only
  apply State.room_memWf <;> simp [h]

@[simp] theorem execSclr_memWf (s : State) (h : s.mem.wf = true) : (execSclr s).memWf := by
  simp [execSclr, h]

@[simp] theorem execSgo_memWf (n : BitVec 3) (p : BitVec 8) (s : State) (h : s.mem.wf = true) : (execSgo n p s).memWf := by
  unfold execSgo
  dsimp only
  split
  · simp [h]
  · apply State.room_memWf
    · simp [h]
    · split <;> simp [h]

@[simp] theorem execSstop_memWf (n : BitVec 3) (j : BitVec 5) (s : State) (h : s.mem.wf = true) : (execSstop n j s).memWf := by
  unfold execSstop
  dsimp only
  split
  · simp [h]
  · split <;> simp [h]

@[simp] theorem execSpart_memWf (v : BitVec 6) (r : BitVec 5) (s : State) (h : s.mem.wf = true) : (execSpart v r s).memWf := by
  simp [execSpart, h]

@[simp] theorem execSconf_memWf (v : BitVec 6) (r : BitVec 5) (s : State) (h : s.mem.wf = true) : (execSconf v r s).memWf := by
  simp [execSconf, h]

@[simp] theorem execSread_memWf (p : BitVec 8) (v : BitVec 6) (r : BitVec 5) (s : State) (h : s.mem.wf = true) : (execSread p v r s).memWf := by
  simp [execSread, h]

@[simp] theorem State.arrayDue_mem (s : State) (cid : Nat) : (s.arrayDue cid).mem = s.mem := by
  unfold State.arrayDue
  split <;> simp

@[simp] theorem execArrayOpStart_memWf (cid : Nat) (s : State) (h : s.mem.wf = true) : (execArrayOpStart cid s).memWf := by
  simp [execArrayOpStart, h]

@[simp] theorem State.lossFlag_mem (s : State) (l : Nat) (lost : Bool) : (s.lossFlag l lost).mem = s.mem := by
  simp [State.lossFlag]

@[simp] theorem execNestPark_memWf (cid : Nat) (s : State) (h : s.mem.wf = true) : (execNestPark cid s).memWf := by
  simp [execNestPark, h]

@[simp] theorem execArrayOpComplete_memWf (cid : Nat) (s : State) (h : s.mem.wf = true) : (execArrayOpComplete cid s).memWf := by
  simp [execArrayOpComplete, h]

@[simp] theorem State.tileAt_memWf (s : State) (slot : Nat) (base : DWord) (area : Obj → Nat) (k : Obj → Nat → Out) (h : s.mem.wf = true)
    (hk : ∀ x0 x1, (k x0 x1).memWf) : (s.tileAt slot base area k).memWf := by
  unfold State.tileAt
  split
  · simp [h]
  · split
    · simp [h]
    · split
      · simp [h]
      · simp [h, hk]

@[simp] theorem State.tileDue_mem (s : State) (cid q : Nat) : (s.tileDue cid q).mem = s.mem := by
  unfold State.tileDue
  split <;> simp

@[simp] theorem State.queueTile_mem (s : State) (q : Nat) (f : Nat → Nat → TileOp) : (s.queueTile q f).mem = s.mem := by
  simp [State.queueTile]

@[simp] theorem State.tileDone_mem (s : State) (cid q num : Nat) : (s.tileDone cid q num).mem = s.mem := by
  simp [State.tileDone]

@[simp] theorem tileMove_memWf (quant : Bool) (q r : BitVec 1) (slot : BitVec 6) (b : BitVec 4) (z : BitVec 5) (s : State) (h : s.mem.wf = true) :
    (tileMove quant q r slot b z s).memWf := by
  unfold tileMove
  split
  · dsimp only
    apply State.checked_memWf <;> simp [h]
  · dsimp only
    apply State.checked_memWf <;> simp [h]

@[simp] theorem execTmov_memWf (q r : BitVec 1) (o : BitVec 6) (b : BitVec 4) (z : BitVec 5) (s : State) (h : s.mem.wf = true) :
    (execTmov q r o b z s).memWf := by
  simp [execTmov, h]

@[simp] theorem execTmovq_memWf (q r : BitVec 1) (o : BitVec 6) (b : BitVec 4) (z : BitVec 5) (s : State) (h : s.mem.wf = true) :
    (execTmovq q r o b z s).memWf := by
  simp [execTmovq, h]

@[simp] theorem execTfill_memWf (q : BitVec 1) (o : BitVec 6) (b : BitVec 4) (z : BitVec 5) (s : State) (h : s.mem.wf = true) :
    (execTfill q o b z s).memWf := by
  unfold execTfill
  split
  · dsimp only
    apply State.checked_memWf <;> simp [h]
  · simp [h]

@[simp] theorem execObjld_memWf (o : BitVec 6) (z : BitVec 5) (s : State) (h : s.mem.wf = true) : (execObjld o z s).memWf := by
  simp [execObjld, h]

@[simp] theorem execObjpub_memWf (s : State) (h : s.mem.wf = true) : (execObjpub s).memWf := by
  simp [execObjpub, h]

@[simp] theorem State.onL1_mem (s : State) (cid : Nat) (f : Pad → Pad) : (s.onL1 cid f).mem = s.mem := by
  simp [State.onL1]

@[simp] theorem State.moveIn_memWf (s : State) (cid q num : Nat) (w : Who) (o : Obj) (quant : Bool) (l1 ty tx : Nat) (h : s.mem.wf = true) :
    Access.memWf (s.moveIn cid q num w o quant l1 ty tx) := by
  unfold State.moveIn
  split
  · refine Access.memWf_bind ?_ fun a t ht => ?_
    · simp [h]
    · simp [ht]
  · refine Access.memWf_bind ?_ fun a t ht => ?_
    · simp [h]
    · simp [ht]

@[simp] theorem State.moveOut_memWf (s : State) (cid q num : Nat) (w : Who) (o : Obj) (quant : Bool) (l1 ty tx : Nat) (pc : DWord)
    (h : s.mem.wf = true) : Access.memWf (s.moveOut cid q num w o quant l1 ty tx pc) := by
  unfold State.moveOut
  split
  · split
    · dsimp only
      split
      · simp [h]
      · refine Access.memWf_bind ?_ fun a t ht => ?_
        · simp [h]
        · refine Access.memWf_bind ?_ fun a t1 ht1 => ?_
          · simp [ht]
          · simp [ht1]
    · dsimp only
      split
      · simp [h]
      · refine Access.memWf_bind ?_ fun a t ht => ?_
        · simp [h]
        · simp [ht]
  · split
    · simp [h]
    · split
      · dsimp only
        refine Access.memWf_bind ?_ fun a t ht => ?_
        · simp [h]
        · refine Access.memWf_bind ?_ fun a t1 ht1 => ?_
          · simp [ht]
          · simp [ht1]
      · dsimp only
        refine Access.memWf_bind ?_ fun a t ht => ?_
        · simp [h]
        · simp [ht]

@[simp] theorem State.outError_mem (s : State) (e : Nat) : (s.outError e).mem = s.mem := by
  simp [State.outError]

@[simp] theorem State.peerStore_mem (s : State) (o : Obj) (ty tx : Nat) (e : Elem) : (s.peerStore o ty tx e).mem = s.mem := by
  simp [State.peerStore]

@[simp] theorem State.movePeerOut_wf (s : State) (cid q num : Nat) (o : Obj) (l1 ty tx : Nat) (pc : DWord) (h : s.mem.wf = true) :
    (s.movePeerOut cid q num o l1 ty tx pc).mem.wf = true := by
  unfold State.movePeerOut
  split
  · dsimp only
    split <;> simp [h]
  · simp [h]

@[simp] theorem State.peerLoad_mem (cid q group : Nat) (o : Obj) (l1 ty tx : Nat) (s : State) (e : Nat × Nat) :
    (State.peerLoad cid q group o l1 ty tx s e).mem = s.mem := by
  simp [State.peerLoad]

@[simp] theorem State.movePeerIn_mem (s : State) (cid q seq num : Nat) (o : Obj) (l1 ty tx : Nat) :
    (s.movePeerIn cid q seq num o l1 ty tx).mem = s.mem := by
  simp [State.movePeerIn]

@[simp] theorem State.sectorPut_memWf (s : State) (key : Option Nat) (pa : Nat) (bs : List PByte) (va : DWord) (h : s.mem.wf = true) :
    (s.sectorPut key pa bs va).memWf := by
  unfold State.sectorPut
  dsimp only
  split
  · simp [h, Mem.wf_write]
  · split
    · simp [h, Mem.wf_write]
    · split <;> simp [h, Mem.wf_write]

/-- A fold of continuations: each keeps the form when the one that it hands on to does. -/
theorem foldl_memWf {β : Type} {f : (State → Out) → β → State → Out}
    (h : ∀ k b, (∀ t, t.mem.wf = true → (k t).memWf) → ∀ t, t.mem.wf = true → (f k b t).memWf) (l : List β) {k : State → Out}
    (hk : ∀ t, t.mem.wf = true → (k t).memWf) : ∀ t, t.mem.wf = true → (l.foldl f k t).memWf := by
  induction l generalizing k with
  | nil => exact hk
  | cons b l ih => exact ih (h k b hk)

theorem State.storeBound_memWf (s : State) (put : DWord → List PByte → (State → Out) → State → Out) (ea : DWord) (bs : List PByte)
    (h : s.mem.wf = true) (hp : ∀ a bs k, (∀ t, t.mem.wf = true → (k t).memWf) → ∀ t, t.mem.wf = true → (put a bs k t).memWf) :
    (s.storeBound put ea bs).memWf := by
  unfold State.storeBound
  split
  case h_1 e he =>
    have ht := Access.wf_of_error he (by simp [h])
    simp [ht]
  case h_2 es t he =>
    have ht := Access.wf_of_ok he (by simp [h])
    split
    · simp [ht]
    · exact hp _ _ _ (foldl_memWf (fun k e hk => hp _ _ k hk) _ fun t ht => (Out.memWf_next t).2 ht) _ (by simp [ht])

@[simp] theorem State.store_memWf (s : State) (engine : Bool) (ea : DWord) (bs : List PByte) (h : s.mem.wf = true) :
    (s.store engine ea bs).memWf := by
  unfold State.store
  have hown : (s.storeBound (fun a bs k s => k (s.storeL1 ((ownOff a).getD 0) bs)) ea bs).memWf :=
    s.storeBound_memWf _ _ _ h fun a bs k hk t ht => hk _ (by simp [ht])
  have hdev : (s.storeBound (fun a bs k s => s.coreWrite false a bs k) ea bs).memWf :=
    s.storeBound_memWf _ _ _ h fun a bs k hk t ht => State.coreWrite_memWf _ _ _ _ _ ht hk
  split <;> simp [h, hown, hdev]

@[simp] theorem State.amoStore_memWf (s : State) (w : Who) (loc : Loc) (bs : List PByte) (ea : DWord) (h : s.mem.wf = true) :
    (s.amoStore w loc bs ea).memWf := by
  unfold State.amoStore
  split
  · exact devStored_memWf (State.sectorPut_memWf _ _ _ _ _ h)
  · simp [h]

/-- The state that an access answers beside the one it leaves has device memory in canonical form. -/
def Access.valWf (x : Access State) : Prop := ∀ a t, x = .ok (a, t) → a.mem.wf = true

theorem Access.wf_of_val {x : Access State} {a t : State} (e : x = .ok (a, t)) (h : x.valWf) : a.mem.wf = true := h a t e

@[simp] theorem Access.valWf_ok (a t : State) : Access.valWf (.ok (a, t)) ↔ a.mem.wf = true := by
  refine ⟨fun h => h a t rfl, ?_⟩
  rintro h _ _ ⟨⟩
  exact h

theorem Access.valWf_bind {α : Type} {x : Access α} {k : α → State → Access State} (hx : x.memWf)
    (hk : ∀ a t, t.mem.wf = true → (k a t).valWf) : (x.bind k).valWf := by
  rcases x with e | ⟨a, t⟩
  · exact fun _ _ h => by cases h
  · exact hk a t hx

theorem State.moveIn_valWf (s : State) (cid q num : Nat) (w : Who) (o : Obj) (quant : Bool) (l1 ty tx : Nat) (h : s.mem.wf = true) :
    (s.moveIn cid q num w o quant l1 ty tx).valWf := by
  unfold State.moveIn
  split <;> exact Access.valWf_bind (by simp [h]) fun a t ht => by simp [ht]

theorem State.moveOut_valWf (s : State) (cid q num : Nat) (w : Who) (o : Obj) (quant : Bool) (l1 ty tx : Nat) (pc : DWord) (h : s.mem.wf = true) :
    (s.moveOut cid q num w o quant l1 ty tx pc).valWf := by
  unfold State.moveOut
  dsimp only
  split
  · simp [h]
  · refine Access.valWf_bind (by simp [h]) fun a t ht => ?_
    split
    · exact Access.valWf_bind (by simp [ht]) fun a u hu => by simp [hu]
    · simp [ht]

@[simp] theorem State.tileRun_memWf (s : State) (cid q : Nat) (op : TileOp) (h : s.mem.wf = true) : (s.tileRun cid q op).memWf := by
  cases op with
  | tmov seq num st quant slot l1 ty tx pc =>
    simp only [State.tileRun]
    cases s.slotOf cid slot with
    | none => simp [h]
    | some o =>
      cases st with
      | true =>
        simp only [if_true, Out.memWf_ite, Out.memWf_next]
        refine ⟨fun _ => by simp [h], fun _ => ⟨fun _ => by simp [h], fun _ => ?_⟩⟩
        split
        case h_1 t u he =>
          have ht := Access.wf_of_val he (State.moveOut_valWf _ _ _ _ _ _ _ _ _ _ _ h)
          simp [ht]
        case h_2 e he =>
          exact State.engineStop_memWf _ _ _ _ _ h (Access.wf_of_error he (by simp [h]))
      | false =>
        simp only [Out.memWf_ite, Out.memWf_next]
        refine ⟨fun _ => by simp [h], fun _ => ⟨fun _ => by simp [h], fun _ => ?_⟩⟩
        split
        case h_1 t u he =>
          have ht := Access.wf_of_val he (State.moveIn_valWf _ _ _ _ _ _ _ _ _ _ h)
          simp [ht]
        case h_2 e he =>
          exact State.engineStop_memWf _ _ _ _ _ h (Access.wf_of_error he (by simp [h]))
  | tfill seq num slot l1 v pc =>
    simp only [State.tileRun]
    cases s.slotOf cid slot <;> simp [h]
  | objld seq num slot index pc =>
    simp only [State.tileRun]
    split
    case h_1 o t he =>
      have ht := Access.wf_of_ok he (by simp [h])
      simp [ht]
    case h_2 e he =>
      exact State.engineStop_memWf _ _ _ _ _ h (Access.wf_of_error he (by simp [h]))
  | objpub seq num => simp [State.tileRun, h]
  | peer seq num group l1 n => simp [State.tileRun, h]

end Sys2Proof.Machine
end

section
/-! Device memory keeps its canonical form: steps of the tile queues (R350, R363). -/

namespace Sys2Proof.Machine

@[simp] theorem storeWord_memWf (engine : Bool) (z : BitVec 2) (d : BitVec 6) (b : BitVec 4) (x : BitVec 1) (i : BitVec 11) (s : State)
    (h : s.mem.wf = true) : (storeWord engine z d b x i s).memWf := by
  simp [storeWord, h]

@[simp] theorem execSt_memWf (z : BitVec 2) (d : BitVec 6) (b : BitVec 4) (x : BitVec 1) (i : BitVec 11) (s : State) (h : s.mem.wf = true) :
    (execSt z d b x i s).memWf := by
  simp [execSt, h]

@[simp] theorem execStr_memWf (z : BitVec 2) (d : BitVec 6) (b : BitVec 4) (x : BitVec 1) (i : BitVec 11) (s : State) (h : s.mem.wf = true) :
    (execStr z d b x i s).memWf := by
  simp [execStr, h]

@[simp] theorem State.amoDo_memWf (s : State) (w : Who) (o : BitVec 3) (loc : Loc) (ea : DWord) (x y : Word) (h : s.mem.wf = true) :
    Access.memWf (s.amoDo w o loc ea x y) := by
  unfold State.amoDo
  refine Access.memWf_bind ?_ fun a t ht => ?_
  · simp [h]
  · dsimp only
    split
    · refine Access.memWf_bind ?_ fun a t1 ht1 => ?_
      · simp [ht]
      · simp [ht1]
    · simp [ht]

@[simp] theorem execAmoOp_memWf (e o : BitVec 3) (r : BitVec 2) (d : BitVec 5) (b : BitVec 3) (l : BitVec 10) (s : State) (h : s.mem.wf = true) :
    (execAmoOp e o r d b l s).memWf := by
  unfold execAmoOp
  split
  · rename_i he
    dsimp only
    apply State.slotFree_memWf
    · simp [h]
    · apply State.checked_memWf
      · simp [h]
      · split
        · simp [h]
        · rename_i hc
          split
          · simp [h]
          · simp [h]
          · simp [h]
          · rename_i x hc1 hc2 hc3
            split
            · simp [h]
            · split
              · simp [h]
              · split
                · rename_i x1 e1 he1
                  have ht := Access.wf_of_error he1 (by simp [h])
                  simp [ht]
                · rename_i x1 x2 t he1
                  have ht := Access.wf_of_ok he1 (by simp [h])
                  split
                  · split
                    · rename_i x3 x4 t1 he3
                      have ht1 := Access.wf_of_ok he3 (by simp [ht])
                      simp [ht1]
                    · rename_i x3 e1 he3
                      have ht1 := Access.wf_of_error he3 (by simp [ht])
                      simp [ht1]
                  · simp [ht]
  · rename_i hc
    dsimp only
    apply State.slotFree_memWf
    · simp [h]
    · apply State.checked_memWf
      · simp [h]
      · split
        · simp [h]
        · split
          · simp [h]
          · simp [h]
          · simp [h]
          · rename_i x hc2 hc3 hc4
            split
            · simp [h]
            · split
              · simp [h]
              · split
                · rename_i x1 e1 he
                  have ht := Access.wf_of_error he (by simp [h])
                  simp [ht]
                · rename_i x1 x2 t he
                  have ht := Access.wf_of_ok he (by simp [h])
                  split
                  · split
                    · rename_i x3 x4 t1 he2
                      have ht1 := Access.wf_of_ok he2 (by simp [ht])
                      simp [ht1]
                    · rename_i x3 e1 he2
                      have ht1 := Access.wf_of_error he2 (by simp [ht])
                      simp [ht1]
                  · simp [ht]

@[simp] theorem State.tileStep_memWf (s : State) (cid q : Nat) (kind : TileOp → Bool) (again : Instr) (h : s.mem.wf = true) :
    (s.tileStep cid q kind again).memWf := by
  unfold State.tileStep
  dsimp only
  split <;> simp [h]

@[simp] theorem execTileMoveComplete_memWf (cid q : Nat) (s : State) (h : s.mem.wf = true) : (execTileMoveComplete cid q s).memWf := by
  simp [execTileMoveComplete, h]

@[simp] theorem execObjldComplete_memWf (cid : Nat) (s : State) (h : s.mem.wf = true) : (execObjldComplete cid s).memWf := by
  simp [execObjldComplete, h]

@[simp] theorem execObjpubComplete_memWf (cid : Nat) (s : State) (h : s.mem.wf = true) : (execObjpubComplete cid s).memWf := by
  simp [execObjpubComplete, h]

end Sys2Proof.Machine
end

section
/-! Device memory keeps its canonical form: launches and their reports, the host interface (R66 to R78). -/

namespace Sys2Proof.Machine

@[simp] theorem State.peerEnds_mem (s : State) (r : PeerRead) (data : Option (List Byte)) : (s.peerEnds r data).mem = s.mem := by
  unfold State.peerEnds
  split
  · split
    · dsimp only
      split <;> simp
    · dsimp only
      split <;> simp
  · split
    · dsimp only
      split <;> simp
    · dsimp only
      split <;> simp

@[simp] theorem execOutboundCompletion_memWf (tag : Nat) (ok : Bool) (bytes : List (BitVec 8)) (s : State) (h : s.mem.wf = true) :
    (execOutboundCompletion tag ok bytes s).memWf := by
  unfold execOutboundCompletion
  split <;> simp [h]

@[simp] theorem execOutboundTimeout_memWf (tag : Nat) (s : State) (h : s.mem.wf = true) : (execOutboundTimeout tag s).memWf := by
  unfold execOutboundTimeout
  split <;> simp [h]

@[simp] theorem execFence_memWf (e : BitVec 3) (s : State) (h : s.mem.wf = true) : (execFence e s).memWf := by
  simp [execFence, h]

@[simp] theorem State.selfOf_mem (s : State) (e : Nat) : (s.selfOf e).2.mem = s.mem := by
  simp [State.selfOf]

@[simp] theorem State.viewOf_mem (s : State) (e : Nat) : (s.viewOf e).2.mem = s.mem := by
  simp [State.viewOf]

@[simp] theorem State.inView_mem (s : State) (e member : Nat) : (s.inView e member).2.mem = s.mem := by
  simp [State.inView]

@[simp] theorem State.onPort_mem (s : State) (d : Nat) (f : Port → Port) : (s.onPort d f).mem = s.mem := by
  simp [State.onPort]

@[simp] theorem State.onEth_mem (s : State) (p : Nat) (f : Eth → Eth) : (s.onEth p f).mem = s.mem := by
  simp [State.onEth]

@[simp] theorem State.onQp_mem (s : State) (q : Nat) (f : QPair → QPair) : (s.onQp q f).mem = s.mem := by
  unfold State.onQp
  split <;> simp

@[simp] theorem State.onLine_mem (s : State) (d : Nat) (f : TaskLine → TaskLine) : (s.onLine d f).mem = s.mem := by
  simp [State.onLine]

@[simp] theorem State.memberAddr_mem (s : State) (member : Nat) : (s.memberAddr member).2.mem = s.mem := by
  simp [State.memberAddr]

@[simp] theorem State.bindQp_mem (s : State) (q self member ctx : Nat) : (s.bindQp q self member ctx).2.mem = s.mem := by
  unfold State.bindQp
  split
  · dsimp only
    split <;> simp
  · dsimp only
    split <;> simp

@[simp] theorem State.qpOf_mem (s : State) (self member ctx : Nat) : (s.qpOf self member ctx).2.mem = s.mem := by
  unfold State.qpOf
  split <;> simp

@[simp] theorem State.lineTo_mem (s : State) (self member ctx : Nat) : (s.lineTo self member ctx).2.mem = s.mem := by
  unfold State.lineTo
  split
  · simp
  · dsimp only
    split <;> simp

@[simp] theorem State.transmit_mem (s : State) (q : Nat) (x : QPair) (p : Nat × List Byte) : (s.transmit q x p).mem = s.mem := by
  simp [State.transmit]

@[simp] theorem State.sendMsg_mem (s : State) (q : Nat) (x : QPair) (x1 : QMsg) : (s.sendMsg q x x1).mem = s.mem := by
  unfold State.sendMsg
  split <;> simp

@[simp] theorem State.offer_mem (s : State) (q : Nat) (m : QMsg) : (s.offer q m).mem = s.mem := by
  unfold State.offer
  split <;> simp

@[simp] theorem State.sendRdma_mem (s : State) (q : Nat) (bs : List Byte) : (s.sendRdma q bs).mem = s.mem := by
  unfold State.sendRdma
  split <;> simp

@[simp] theorem State.ackRdma_mem (s : State) (q psn : Nat) (nak : Bool) : (s.ackRdma q psn nak).mem = s.mem := by
  simp [State.ackRdma]

@[simp] theorem State.carry_mem (s : State) (line : Nat) (bs : List Byte) : (s.carry line bs).mem = s.mem := by
  simp [State.carry]

@[simp] theorem State.carryOp_mem (s : State) (line : Nat) (bs : List Byte) (ack : Option (Nat × Nat)) (l : Nat) :
    (s.carryOp line bs ack l).mem = s.mem := by
  unfold State.carryOp
  split <;> simp

@[simp] theorem State.answer_mem (s : State) (local' : Bool) (sender l : Nat) (ack : Option (Nat × Nat)) (fate : Nat) :
    (s.answer local' sender l ack fate).mem = s.mem := by
  unfold State.answer
  split <;> simp

@[simp] theorem execAckArrival_memWf (cid l n fate : Nat) (s : State) (h : s.mem.wf = true) : (execAckArrival cid l n fate s).memWf := by
  simp [execAckArrival, h]

@[simp] theorem State.startRemote_mem (s : State) (ack : Bool) : (s.startRemote ack).1.mem = s.mem := by
  simp [State.startRemote]

@[simp] theorem State.undelivered_mem (s : State) (cid l : Nat) : (s.undelivered cid l).mem = s.mem := by
  simp [State.undelivered]

@[simp] theorem State.engineHeld_memWf (s : State) (ea : DWord) (x : Stop) (h : s.mem.wf = true) (h1 : x.memWf) : (s.engineHeld ea x).memWf := by
  unfold State.engineHeld
  split
  · rename_i e x t
    have h1 : t.mem.wf = true := h1
    simp [h, h1]
  · simp [h1]

@[simp] theorem State.remoteSource_memWf (s : State) (a : DWord) (n : Nat) (k : Out) (h : s.mem.wf = true) (hk : k.memWf) :
    (s.remoteSource a n k).memWf := by
  unfold State.remoteSource
  split
  · simp [h]
  · split
    · simp [hk]
    · simp [hk]
    · simp [h]

@[simp] theorem execRput_memWf (k : BitVec 1) (a t : BitVec 4) (l v : BitVec 5) (s : State) (h : s.mem.wf = true) :
    (execRput k a t l v s).memWf := by
  unfold execRput
  dsimp only
  apply State.checked_memWf <;> simp [h]

@[simp] theorem State.sendPut_mem (s : State) (p : PutReq) (bs : List PByte) : (s.sendPut p bs).mem = s.mem := by
  unfold State.sendPut
  dsimp only
  split
  · simp
  · split <;> simp

@[simp] theorem State.staleSender_mem (s : State) (local' : Bool) (e sender : Nat) : (s.staleSender local' e sender).2.mem = s.mem := by
  unfold State.staleSender
  split <;> simp

@[simp] theorem State.putBytes_memWf (s : State) (w : Who) (va : Nat) (bs : List PByte) (h : s.mem.wf = true) :
    Access.memWf (s.putBytes w va bs) := by
  simp [State.putBytes, h]

@[simp] theorem execRputArrival_memWf (put : PutReq) (s : State) (h : s.mem.wf = true) : (execRputArrival put s).memWf := by
  unfold execRputArrival
  dsimp only
  split
  · simp [h]
  · split
    · simp [h]
    · rename_i x x1 x2 he
      split
      · rename_i x3 x4 t he1
        have ht := Access.wf_of_ok he1 (by simp [h])
        simp [ht]
      · rename_i x3 x4 t he1
        have ht : t.mem.wf = true := Access.wf_of_error he1 (by simp [h])
        simp [ht]
      · rename_i x3 x4 x5 t he1
        have ht : t.mem.wf = true := Access.wf_of_error he1 (by simp [h])
        simp [ht]
      · rename_i x3 x4 t he1
        have ht : t.mem.wf = true := Access.wf_of_error he1 (by simp [h])
        simp [ht]
      · rename_i x3 t he1
        have ht : t.mem.wf = true := Access.wf_of_error he1 (by simp [h])
        simp [ht]
      · rename_i x3 x4 x5 x6 x7 t he1
        have ht : t.mem.wf = true := Access.wf_of_error he1 (by simp [h])
        simp [ht]

@[simp] theorem execRred_memWf (k : BitVec 1) (a : BitVec 4) (n t : BitVec 5) (s : State) (h : s.mem.wf = true) : (execRred k a n t s).memWf := by
  simp [execRred, h]

@[simp] theorem State.sendRed_mem (s : State) (con : Contribution) (member : Nat) (bs : List PByte) : (s.sendRed con member bs).mem = s.mem := by
  unfold State.sendRed
  dsimp only
  split
  · simp
  · split
    · simp
    · split <;> simp

@[simp] theorem State.declareDraw_mem (s : State) (r : LaunchRec) : (s.declareDraw r).2.mem = s.mem := by
  unfold State.declareDraw
  split <;> simp

@[simp] theorem State.acceptRecord_mem (s : State) (ctx : Nat) (r : LaunchRec) : (s.acceptRecord ctx r).mem = s.mem := by
  unfold State.acceptRecord
  dsimp only
  split <;> simp

@[simp] theorem State.readRecord_mem (s : State) (ctx : Nat) : (s.readRecord ctx).2.mem = s.mem := by
  simp [State.readRecord]

@[simp] theorem State.consume_mem (s : State) (ctx : Nat) (r : LaunchRec) : (s.consume ctx r).mem = s.mem := by
  simp [State.consume]

@[simp] theorem execLaunchRecordConsume_memWf (ctx : Nat) (s : State) (h : s.mem.wf = true) : (execLaunchRecordConsume ctx s).memWf := by
  unfold execLaunchRecordConsume
  split
  · simp [h]
  · split
    · simp [h]
    · split
      · rename_i x x1 t he
        have ht := wf_of_snd he (by simp [h])
        simp [ht]
      · rename_i x t he
        have ht := wf_of_snd he (by simp [h])
        simp [ht]

@[simp] theorem execRecordRepoll_memWf (ctx : Nat) (s : State) (h : s.mem.wf = true) : (execRecordRepoll ctx s).memWf := by
  unfold execRecordRepoll
  split
  · simp [h]
  · split
    · rename_i x x1 t he
      have ht := wf_of_snd he (by simp [h])
      simp [h, ht]
    · rename_i x t he
      have ht := wf_of_snd he (by simp [h])
      simp [h, ht]

@[simp] theorem execQtailWrite_memWf (ctx : Nat) (w : Posted Word) (s : State) (h : s.mem.wf = true) : (execQtailWrite ctx w s).memWf := by
  simp [execQtailWrite, h]

@[simp] theorem State.readFirst_memWf (s : State) (l : Nat) (x : Launch) (h : s.mem.wf = true) : Access.memWf (s.readFirst l x) := by
  unfold State.readFirst
  split
  · simp [h]
  · dsimp only
    refine Access.memWf_bind ?_ fun a t ht => ?_
    · simp [h]
    · split
      · simp [ht]
      · refine Access.memWf_bind ?_ fun a t1 ht1 => ?_
        · simp [ht]
        · simp [ht1]

@[simp] theorem State.beginLaunch_wf (s : State) (l : Nat) (x : Launch) (first : List Byte) (h : s.mem.wf = true) :
    (s.beginLaunch l x first).mem.wf = true := by
  unfold State.beginLaunch
  simp +contextual [h]

@[simp] theorem State.startFault_mem (s : State) (l : Nat) (cause : Cause) (val : DWord) (origin : Psn) :
    (s.startFault l cause val origin).mem = s.mem := by
  simp [State.startFault]

@[simp] theorem execLaunchFirstRead_memWf (l : Nat) (s : State) (h : s.mem.wf = true) : (execLaunchFirstRead l s).memWf := by
  unfold execLaunchFirstRead
  split
  · simp [h]
  · rename_i x x1 he
    split
    · simp [h]
    · split
      · simp [h]
      · split
        · rename_i x2 x3 t he1
          have ht := Access.wf_of_ok he1 (by simp [h])
          simp [h, ht]
        · rename_i x2 x3 x4 x5 x6 t he1
          have ht : t.mem.wf = true := Access.wf_of_error he1 (by simp [h])
          simp [h, ht]
        · rename_i x2 x3 x4 t he1
          have ht : t.mem.wf = true := Access.wf_of_error he1 (by simp [h])
          simp [h, ht]
        · rename_i x2 x3 t he1
          have ht : t.mem.wf = true := Access.wf_of_error he1 (by simp [h])
          simp [h, ht]
        · rename_i x2 t he1
          have ht : t.mem.wf = true := Access.wf_of_error he1 (by simp [h])
          simp [h, ht]
        · rename_i x2 x3 t he1
          have ht : t.mem.wf = true := Access.wf_of_error he1 (by simp [h])
          simp [h, ht]

@[simp] theorem State.fireVector_mem (s : State) (v : Nat) (more : List Word) : (s.fireVector v more).mem = s.mem := by
  simp [State.fireVector]

@[simp] theorem State.completeOn_mem (s : State) (v coalesce : Nat) (id : Word) : (s.completeOn v coalesce id).mem = s.mem := by
  unfold State.completeOn
  split
  · simp
  · split <;> simp

@[simp] theorem execMsixCoalesceExpiry_memWf (v : Nat) (s : State) (h : s.mem.wf = true) : (execMsixCoalesceExpiry v s).memWf := by
  unfold execMsixCoalesceExpiry
  split <;> simp [h]

@[simp] theorem execMsixUnmask_memWf (v : Nat) (s : State) (h : s.mem.wf = true) : (execMsixUnmask v s).memWf := by
  unfold execMsixUnmask
  split
  · simp [h]
  · split
    · dsimp only
      split <;> simp [h]
    · dsimp only
      split <;> simp [h]

@[simp] theorem State.commitShadows_wf (s : State) (l : Nat) (x : Launch) (h : s.mem.wf = true) : (s.commitShadows l x).mem.wf = true := by
  unfold State.commitShadows
  simp +contextual [h]

@[simp] theorem State.digestElems_memWf (w : Who) (o : Obj) (x : List (Nat × Nat)) (s : State) (h : s.mem.wf = true) :
    Access.memWf (State.digestElems w o x s) := by
  fun_induction State.digestElems
  · simp [h]
  · rename_i x x1 t hc
    refine Access.memWf_bind ?_ fun a t1 ht1 => ?_
    · simp [h]
    · refine Access.memWf_bind ?_ fun a t2 ht2 => ?_
      · simp [hc, ht1]
      · simp [ht2]

@[simp] theorem State.digestMessage_memWf (w : Who) (table : DWord) (x : List Nat) (s : State) (h : s.mem.wf = true) :
    Access.memWf (State.digestMessage w table x s) := by
  fun_induction State.digestMessage
  · simp [h]
  · rename_i x x1 t hc
    refine Access.memWf_bind ?_ fun a t1 ht1 => ?_
    · simp [h]
    · split
      · split
        · dsimp only
          refine Access.memWf_bind ?_ fun a t2 ht2 => ?_
          · simp [ht1]
          · refine Access.memWf_bind ?_ fun a t3 ht3 => ?_
            · simp [hc, ht2]
            · simp [ht3]
        · split
          · dsimp only
            refine Access.memWf_bind ?_ fun a t2 ht2 => ?_
            · simp [ht1]
            · refine Access.memWf_bind ?_ fun a t3 ht3 => ?_
              · simp [hc, ht2]
              · simp [ht3]
          · dsimp only
            refine Access.memWf_bind ?_ fun a t2 ht2 => ?_
            · refine Access.memWf_bind ?_ fun a t2 ht2 => ?_
              · simp [ht1]
              · simp [ht2]
            · refine Access.memWf_bind ?_ fun a t3 ht3 => ?_
              · simp [hc, ht2]
              · simp [ht3]
      · dsimp only
        refine Access.memWf_bind ?_ fun a t2 ht2 => ?_
        · simp [ht1]
        · refine Access.memWf_bind ?_ fun a t3 ht3 => ?_
          · simp [hc, ht2]
          · simp [ht3]

@[simp] theorem State.digestOf_memWf (s : State) (w : Who) (x : Launch) (h : s.mem.wf = true) : Access.memWf (s.digestOf w x) := by
  unfold State.digestOf
  split
  · simp [h]
  · refine Access.memWf_bind ?_ fun a t ht => ?_
    · simp [h]
    · simp [ht]

@[simp] theorem State.markLost_mem (s : State) (l : Nat) : (s.markLost l).mem = s.mem := by
  simp [State.markLost]

@[simp] theorem State.crecLost_mem (s : State) (l : Nat) (cause : Cause) (val : DWord) (origin : Psn) :
    (s.crecLost l cause val origin).mem = s.mem := by
  simp [State.crecLost]

@[simp] theorem State.freeLaunch_mem (s : State) (l : Nat) : (s.freeLaunch l).mem = s.mem := by
  unfold State.freeLaunch
  split <;> simp

@[simp] theorem State.tellHost_mem (s : State) (x : Launch) (late : Bool) : (s.tellHost x late).mem = s.mem := by
  simp [State.tellHost]

@[simp] theorem execContextEnable_memWf (ctx : Nat) (s : State) (h : s.mem.wf = true) : (execContextEnable ctx s).memWf := by
  simp [execContextEnable, h]

@[simp] theorem State.abortContext_mem (s : State) (ctx : Nat) : (s.abortContext ctx).mem = s.mem := by
  simp [State.abortContext]

@[simp] theorem execContextDisable_memWf (ctx : Nat) (s : State) (h : s.mem.wf = true) : (execContextDisable ctx s).memWf := by
  simp [execContextDisable, h]

@[simp] theorem execContextFrozenClear_memWf (ctx : Nat) (s : State) (h : s.mem.wf = true) : (execContextFrozenClear ctx s).memWf := by
  simp [execContextFrozenClear, h]

@[simp] theorem State.clearCounter_mem (s : State) (off : Nat) (v : DWord) : (s.clearCounter off v).mem = s.mem := by
  simp [State.clearCounter]

@[simp] theorem execCounterClear_memWf (off : Nat) (ones : DWord) (s : State) (h : s.mem.wf = true) : (execCounterClear off ones s).memWf := by
  simp [execCounterClear, h]

@[simp] theorem State.onPool_mem (s : State) (k : Nat) (f : Pool → Pool) : (s.onPool k f).mem = s.mem := by
  simp [State.onPool]

@[simp] theorem execPoolTailWrite_memWf (k : Nat) (big : Bool) (tail : Word) (s : State) (h : s.mem.wf = true) :
    (execPoolTailWrite k big tail s).memWf := by
  simp [execPoolTailWrite, h]

@[simp] theorem State.startInv_mem (s : State) : (s.startInv).mem = s.mem := by
  simp [State.startInv]

@[simp] theorem execInvGo_memWf (s : State) (h : s.mem.wf = true) : (execInvGo s).memWf := by
  simp [execInvGo, h]

@[simp] theorem execInvDone_memWf (s : State) (h : s.mem.wf = true) : (execInvDone s).memWf := by
  unfold execInvDone
  dsimp only
  split
  · simp [h]
  · split <;> simp [h]

@[simp] theorem State.writeDev_mem (s : State) (off : Nat) (v : DWord) : (s.writeDev off v).mem = s.mem := by
  unfold State.writeDev
  split <;> simp

@[simp] theorem State.onInWin_mem (s : State) (k : Nat) (f : InWin → InWin) : (s.onInWin k f).mem = s.mem := by
  simp [State.onInWin]

@[simp] theorem State.onOutWin_mem (s : State) (k : Nat) (f : OutWin → OutWin) : (s.onOutWin k f).mem = s.mem := by
  simp [State.onOutWin]

@[simp] theorem State.mailboxQuote_mem (s : State) : (s.mailboxQuote).mem = s.mem := by
  simp [State.mailboxQuote]

@[simp] theorem execAttestMailboxStart_memWf (s : State) (h : s.mem.wf = true) : (execAttestMailboxStart s).memWf := by
  simp [execAttestMailboxStart, h]

@[simp] theorem Out.stateOr_wf (s : State) (x : Out) (h : s.mem.wf = true) (hk : x.memWf) : (Out.stateOr s x).mem.wf = true := by
  unfold Out.stateOr
  split
  · assumption
  · simp [h]

@[simp] theorem State.writeCtx0_wf (s : State) (c : Nat) (v : DWord) (h : s.mem.wf = true) : (s.writeCtx0 c v).mem.wf = true := by
  unfold State.writeCtx0
  split
  · split
    · dsimp only
      apply Out.stateOr_wf
      · simp [h]
      · apply execContextEnable_memWf
        simp [h]
    · dsimp only
      apply Out.stateOr_wf
      · simp [h]
      · apply execContextDisable_memWf
        simp [h]
  · simp [h]

@[simp] theorem State.writeBar0_wf (s : State) (off : Nat) (v : DWord) (h : s.mem.wf = true) : (s.writeBar0 off v).mem.wf = true := by
  simp [State.writeBar0, h]

@[simp] theorem State.refuseIn_mem (s : State) (req k : Nat) : (s.refuseIn req k).mem = s.mem := by
  simp [State.refuseIn]

@[simp] theorem State.inPlaces_memWf (s : State) (w : Who) (r : Right) (va n : Nat) (h : s.mem.wf = true) : Access.memWf (s.inPlaces w r va n) := by
  unfold State.inPlaces
  split
  · simp [h]
  · refine Access.memWf_bind ?_ fun a t ht => ?_
    · simp [h]
    · simp [ht]

@[simp] theorem execInboundAtomicop_memWf (req _off : Nat) (s : State) (h : s.mem.wf = true) : (execInboundAtomicop req _off s).memWf := by
  simp [execInboundAtomicop, h]

@[simp] theorem execWaittl_memWf (t : BitVec 3) (a : BitVec 6) (s : State) (h : s.mem.wf = true) : (execWaittl t a s).memWf := by
  simp [execWaittl, h]

@[simp] theorem execTlget_memWf (t : BitVec 3) (d : BitVec 6) (s : State) (h : s.mem.wf = true) : (execTlget t d s).memWf := by
  simp [execTlget, h]

@[simp] theorem execTlbump_memWf (t : BitVec 3) (a : BitVec 6) (s : State) (h : s.mem.wf = true) : (execTlbump t a s).memWf := by
  simp [execTlbump, h]

@[simp] theorem execBari_memWf (b : BitVec 7) (a : BitVec 6) (s : State) (h : s.mem.wf = true) : (execBari b a s).memWf := by
  simp [execBari, h]

@[simp] theorem execBara_memWf (b : BitVec 7) (s : State) (h : s.mem.wf = true) : (execBara b s).memWf := by
  unfold execBara
  dsimp only
  split
  · simp [h]
  · rw [Out.memWf_next]
    split <;> simp [h]

@[simp] theorem execBarw_memWf (b : BitVec 7) (s : State) (h : s.mem.wf = true) : (execBarw b s).memWf := by
  simp [execBarw, h]

@[simp] theorem execBarrierArrival_memWf (way : Passage) (l bar : Nat) (rect : Rect) (s : State) (h : s.mem.wf = true) :
    (execBarrierArrival way l bar rect s).memWf := by
  unfold execBarrierArrival
  dsimp only
  split
  · simp [h]
  · simp +contextual [h]

@[simp] theorem execBarrierPhaseDelivery_memWf (cid l bar : Nat) (phase : BitVec 16) (s : State) (h : s.mem.wf = true) :
    (execBarrierPhaseDelivery cid l bar phase s).memWf := by
  simp [execBarrierPhaseDelivery, h]

@[simp] theorem State.atBank_mem (s : State) : (s.atBank).mem = s.mem := by
  simp [State.atBank]

theorem Out.wf_of_next {o : Out} {t : State} (e : o = .next t) (h : o.memWf) : t.mem.wf = true := by
  subst e; exact h

/-- Both outcomes of a write of a launch's report have device memory in canonical form. -/
def reportWf (x : Except State State) : Prop :=
  match x with
  | .ok s | .error s => s.mem.wf = true

@[simp] theorem reportWf_ok (s : State) : reportWf (.ok s) ↔ s.mem.wf = true := Iff.rfl
@[simp] theorem reportWf_error (s : State) : reportWf (.error s) ↔ s.mem.wf = true := Iff.rfl
theorem wf_of_reported {x : Except State State} {t : State} (e : x = .ok t) (h : reportWf x) : t.mem.wf = true := by subst e; exact h
theorem wf_of_unreported {x : Except State State} {t : State} (e : x = .error t) (h : reportWf x) : t.mem.wf = true := by subst e; exact h

theorem State.reportWrite_wf (s : State) (l : Nat) (addr : DWord) (data : State → Access (List Byte)) (ok : State → State) (h : s.mem.wf = true)
    (hd : (data s).memWf) (hk : ∀ t, t.mem.wf = true → (ok t).mem.wf = true) : reportWf (s.reportWrite l addr data ok) := by
  unfold State.reportWrite
  split
  · exact h
  · rename_i x hx
    have hb : (Access.bind (data s) fun bs s => s.putBytes (x.controller none) addr.toNat (clean bs)).memWf :=
      Access.memWf_bind hd fun bs t ht => by simp [ht]
    dsimp only
    split
    case h_1 t he => exact hk t (Access.wf_of_ok he hb)
    case h_2 c v o t he =>
      have ht : t.mem.wf = true := Access.wf_of_error he hb
      simp [ht]
    case h_3 v t he =>
      have ht : t.mem.wf = true := Access.wf_of_error he hb
      simp [ht]
    case h_4 c v t he =>
      have ht : t.mem.wf = true := Access.wf_of_error he hb
      simp [ht]
    case h_5 t he => exact Access.wf_of_error he hb
    case h_6 w t he =>
      have ht : t.mem.wf = true := Access.wf_of_error he hb
      split <;> simp [ht]

theorem State.reportWrites_wf (s : State) (l : Nat) (r : LaunchRec) (progress : Nat) (h : s.mem.wf = true) :
    reportWf (s.reportWrites l r progress) := by
  have hone : reportWf (if r.digest && progress < 2 then
      s.reportWrite l (r.crecAddr + 0x40) (fun s => match SMap.find? s.launches l with
          | some x => s.digestOf (x.controller none) x
          | none => .ok ([], s))
        (fun s => s.onLaunch l fun x => { x with flags := if x.status = .ok then x.flags ||| 0x40#16 else x.flags })
    else .ok s) := by
    split
    · refine s.reportWrite_wf l _ _ _ h ?_ fun t ht => by simp [ht]
      split <;> simp [h]
    · exact h
  unfold State.reportWrites
  dsimp only
  split
  case h_1 t he => exact wf_of_unreported he hone
  case h_2 t he =>
    have ht := wf_of_reported he hone
    split
    · exact State.reportWrite_wf _ _ _ _ _ (by simp [ht]) (by simp [ht]) fun t ht => ht
    · simp [ht]

@[simp] theorem execLaunchReport_memWf (l : Nat) (s : State) (h : s.mem.wf = true) : (execLaunchReport l s).memWf := by
  unfold execLaunchReport
  split
  · exact h
  · simp only [Out.memWf_ite]
    refine ⟨fun _ => h, fun _ => ⟨fun _ => by simp [h], fun _ => ⟨fun _ => by simp [h], fun _ => ?_⟩⟩⟩
    split
    case h_1 t he =>
      have ht := wf_of_unreported he (State.reportWrites_wf _ _ _ _ (by split <;> split <;> simp [h]))
      simp [ht]
    case h_2 t he =>
      have ht := wf_of_reported he (State.reportWrites_wf _ _ _ _ (by split <;> split <;> simp [h]))
      split <;> simp [ht]

@[simp] theorem State.writeBar4_wf (s : State) (off : Nat) (v : DWord) (h : s.mem.wf = true) : (s.writeBar4 off v).mem.wf = true := by
  simp only [State.writeBar4, State.mem_ite, Mem.wf_ite]
  refine ⟨fun _ => h, fun _ => ⟨fun _ => h, fun _ => ⟨fun _ => h, fun _ => ?_⟩⟩⟩
  split
  case h_1 t he => exact Out.wf_of_next he (by simp [h])
  case h_2 => exact h

@[simp] theorem State.inbound_memWf {α : Type} (s : State) (req off : Nat) (write : Bool) (again : Instr) (run : Who → Nat → Access α)
    (abort : State → State) (done : α → State → State) (h : s.mem.wf = true) (hrun : ∀ w va, (run w va).memWf)
    (habort : ∀ t, t.mem.wf = true → (abort t).mem.wf = true) (hdone : ∀ x t, t.mem.wf = true → (done x t).mem.wf = true) :
    (s.inbound req off write again run abort done).memWf := by
  unfold State.inbound
  simp only [Out.memWf_ite, Out.memWf_next]
  refine ⟨fun _ => h, fun _ => ⟨fun _ => habort _ h, fun _ => ⟨fun _ => habort _ (by simp [h]), fun _ => ?_⟩⟩⟩
  split
  case h_1 x t he =>
    have ht := Access.wf_of_ok he (hrun _ _)
    exact hdone _ _ (by simp [ht])
  case h_2 c v t he =>
    have ht : t.mem.wf = true := Access.wf_of_error he (hrun _ _)
    exact habort _ (by simp [ht])
  case h_3 w t he =>
    have ht : t.mem.wf = true := Access.wf_of_error he (hrun _ _)
    split
    · exact habort _ (by simp [ht])
    · simp [ht]
  case h_4 t he =>
    have ht : t.mem.wf = true := Access.wf_of_error he (hrun _ _)
    simp [ht]
  case h_5 e _ _ _ he => exact habort _ (by simpa using Access.wf_of_error he (hrun _ _))

@[simp] theorem execInboundRead_memWf (req off len : Nat) (s : State) (h : s.mem.wf = true) : (execInboundRead req off len s).memWf := by
  refine State.inbound_memWf _ _ _ _ _ _ _ _ h (fun w va => ?_) (fun t ht => by simp [ht]) fun bs t ht => by simp [ht]
  exact Access.memWf_bind (by simp [h]) fun ps t ht => by simp [ht]

@[simp] theorem execInboundWrite_memWf (req off : Nat) (bytes : Posted (List Byte)) (s : State) (h : s.mem.wf = true) :
    (execInboundWrite req off bytes s).memWf := by
  refine State.inbound_memWf _ _ _ _ _ _ _ _ h (fun w va => ?_) (fun t ht => ht) fun bs t ht => ht
  exact Access.memWf_bind (by simp [h]) fun ps t ht => by simp [ht]

end Sys2Proof.Machine
end

section
/-! Device memory keeps its canonical form: barriers, rings, packets, tasks, dispatch and residency (R95 to R108, R354 to R359). -/

namespace Sys2Proof.Machine

@[simp] theorem execRegisterWrite_memWf (off : Nat) (v : Posted DWord) (s : State) (h : s.mem.wf = true) : (execRegisterWrite off v s).memWf := by
  simp [execRegisterWrite, h]

@[simp] theorem execRacq_memWf (r : BitVec 6) (side : BitVec 1) (d : BitVec 6) (s : State) (h : s.mem.wf = true) : (execRacq r side d s).memWf := by
  unfold execRacq
  dsimp only
  split <;> simp [h]

@[simp] theorem State.releaseRing_mem (s : State) (r : Nat) (consumer : Bool) : (s.releaseRing r consumer).mem = s.mem := by
  simp [State.releaseRing]

@[simp] theorem execRrel_memWf (r : BitVec 6) (side : BitVec 1) (s : State) (h : s.mem.wf = true) : (execRrel r side s).memWf := by
  simp [execRrel, h]

@[simp] theorem execRinfo_memWf (r d : BitVec 6) (s : State) (h : s.mem.wf = true) : (execRinfo r d s).memWf := by
  simp [execRinfo, h]

@[simp] theorem execRingUpdate_memWf (cid : Nat) (s : State) (h : s.mem.wf = true) : (execRingUpdate cid s).memWf := by
  unfold execRingUpdate
  split
  · dsimp only
    split
    · simp [h]
    · split <;> simp [h]
  · simp [h]

@[simp] theorem State.hubAccept_memWf (s : State) (l die : Nat) (kinds : List Nat) (noRegions : Bool) (cseq : Option Word) (src : Option Nat)
    (bs : List Byte) (idx : List Word) (h : s.mem.wf = true) : Access.memWf (s.hubAccept l die kinds noRegions cseq src bs idx) := by
  unfold State.hubAccept
  refine Access.memWf_bind ?_ fun a t ht => ?_
  · simp [h]
  · split
    · simp [ht]
    · split
      · simp [ht]
      · rw [Access.memWf_ok]
        apply State.acceptTask_wf
        split <;> simp [ht]

@[simp] theorem State.packetEnd_mem (s : State) (hdr : RemoteHdr) (port : Option Nat) (l fate : Nat) :
    (s.packetEnd hdr port l fate).mem = s.mem := by
  unfold State.packetEnd
  split <;> simp

@[simp] theorem execPacketAccept_memWf (die l : Nat) (arr : Arrival) (pkt : List (BitVec 8)) (s : State) (h : s.mem.wf = true) :
    (execPacketAccept die l arr pkt s).memWf := by
  unfold execPacketAccept
  split
  · rename_i x
    dsimp only
    split
    · rename_i x1 x2 t he
      have ht := Access.wf_of_ok he (by simp [h])
      simp [ht]
    · rename_i x1 x2 t he
      have ht := Access.wf_of_ok he (by simp [h])
      simp [ht]
    · rename_i x1 e he
      have ht := Access.wf_of_error he (by simp [h])
      simp [ht]
  · rename_i x x1 x2 x3
    split
    · dsimp only
      split
      · rename_i x5 x6 t he
        have ht := Access.wf_of_ok he (by simp [h])
        simp [ht]
      · rename_i x5 x6 t he
        have ht := Access.wf_of_ok he (by simp [h])
        simp [ht]
      · rename_i x5 e he
        have ht := Access.wf_of_error he (by simp [h])
        simp [ht]
    · dsimp only
      split
      · rename_i x4 x5 t he
        have ht := Access.wf_of_ok he (by simp [h])
        simp [ht]
      · rename_i x4 x5 t he
        have ht := Access.wf_of_ok he (by simp [h])
        simp [ht]
      · rename_i x4 e he
        have ht := Access.wf_of_error he (by simp [h])
        simp [ht]
  · rename_i x x1 x2
    dsimp only
    split
    · rename_i x3 x4 t he
      have ht := Access.wf_of_ok he (by simp [h])
      simp [ht]
    · rename_i x3 x4 t he
      have ht := Access.wf_of_ok he (by simp [h])
      simp [ht]
    · rename_i x3 e he
      have ht := Access.wf_of_error he (by simp [h])
      simp [ht]
  · rename_i x x1 x2
    split
    · rename_i he
      split
      · dsimp only
        split
        · rename_i x3 x4 t he2
          have ht := Access.wf_of_ok he2 (by simp [h])
          simp [ht]
        · rename_i x3 x4 t he2
          have ht := Access.wf_of_ok he2 (by simp [h])
          simp [ht]
        · rename_i x3 e he2
          have ht := Access.wf_of_error he2 (by simp [h])
          simp [ht]
      · dsimp only
        split
        · rename_i x3 x4 t he1
          have ht := Access.wf_of_ok he1 (by simp [h])
          simp [ht]
        · rename_i x3 x4 t he1
          have ht := Access.wf_of_ok he1 (by simp [h])
          simp [ht]
        · rename_i x3 e he1
          have ht := Access.wf_of_error he1 (by simp [h])
          simp [ht]
    · simp [h]

@[simp] theorem State.packetAt_memWf (s : State) (b : BitVec 4) (more : List Psn) (k : DWord → List Byte → Out) (h : s.mem.wf = true)
    (hk : ∀ x0 x1, (k x0 x1).memWf) : (s.packetAt b more k).memWf := by
  unfold State.packetAt
  split
  · simp [h]
  · dsimp only
    apply State.checked_memWf
    · simp [h]
    · split
      · simp [h]
      · split
        · simp [h]
        · simp [h, hk]

@[simp] theorem State.goOn_memWf (s : State) (k : State → Out) (h : s.mem.wf = true) (hk : ∀ t, t.mem.wf = true → (k t).memWf) :
    (s.goOn k).memWf := by
  simp [State.goOn, h, hk]

@[simp] theorem execWlfloor_memWf (d : BitVec 5) (l : BitVec 10) (s : State) (h : s.mem.wf = true) : (execWlfloor d l s).memWf := by
  simp [execWlfloor, h]

@[simp] theorem execTsucc_memWf (r : BitVec 5) (s : State) (h : s.mem.wf = true) : (execTsucc r s).memWf := by
  simp [execTsucc, h]

@[simp] theorem State.queuePacket_wf (s : State) (d : Nat) (p : OutPacket) (h : s.mem.wf = true) : (s.queuePacket d p).mem.wf = true := by
  unfold State.queuePacket
  dsimp only
  split
  · simp [h]
  · split
    · rename_i x t he
      have ht := wf_of_snd he (by simp [h])
      simp [ht]
    · rename_i x x1 t he
      have ht := wf_of_snd he (by simp [h])
      simp [ht]

@[simp] theorem State.sendPushr_wf (s : State) (hdr : RemoteHdr) (member : Nat) (bs : List Byte) (l cid : Nat) (h : s.mem.wf = true) :
    (s.sendPushr hdr member bs l cid).mem.wf = true := by
  unfold State.sendPushr
  split
  · simp [h]
  · dsimp only
    split <;> simp [h]

@[simp] theorem execWlpushr_memWf (k : BitVec 1) (b : BitVec 4) (z : BitVec 5) (s : State) (h : s.mem.wf = true) : (execWlpushr k b z s).memWf := by
  simp [execWlpushr, h]

@[simp] theorem execTaskPacketSend_memWf (d : Nat) (s : State) (h : s.mem.wf = true) : (execTaskPacketSend d s).memWf := by
  unfold execTaskPacketSend
  dsimp only
  split
  · simp [h]
  · split
    · simp [h]
    · rw [Out.memWf_next]
      split <;> split <;> simp [h]

@[simp] theorem execTaskCreditReturn_memWf (d l : Nat) (s : State) (h : s.mem.wf = true) : (execTaskCreditReturn d l s).memWf := by
  unfold execTaskCreditReturn
  dsimp only
  split
  · simp [h]
  · rw [Out.memWf_next]
    split
    · split
      · simp [h]
      · split <;> simp [h]
    · split
      · simp [h]
      · split <;> simp [h]

@[simp] theorem State.countStale_mem (s : State) (d : Nat) : (s.countStale d).mem = s.mem := by
  simp [State.countStale]

@[simp] theorem State.packetIn_mem (s : State) (d : Nat) (hdr : RemoteHdr) (pkt : List Byte) : (s.packetIn d hdr pkt).mem = s.mem := by
  unfold State.packetIn
  dsimp only
  split
  · simp
  · split
    · simp
    · split <;> simp

@[simp] theorem execTaskPacketReceive_memWf (d : Nat) (hdr : RemoteHdr) (pkt : List (BitVec 8)) (s : State) (h : s.mem.wf = true) :
    (execTaskPacketReceive d hdr pkt s).memWf := by
  simp [execTaskPacketReceive, h]

@[simp] theorem State.popTask_mem (s : State) (l die b : Nat) (k : Task) : (s.popTask l die b k).mem = s.mem := by
  simp [State.popTask]

@[simp] theorem State.tellHubs_wf (s : State) (l : Nat) (f : Nat → Instr) (h : s.mem.wf = true) : (s.tellHubs l f).mem.wf = true := by
  unfold State.tellHubs
  simp +contextual [h]

@[simp] theorem State.onKeeper_mem (s : State) (l : Nat) (k : Keeper) : (s.onKeeper l k).mem = s.mem := by
  simp [State.onKeeper]

@[simp] theorem execFloorPropose_memWf (l : Nat) (s : State) (h : s.mem.wf = true) : (execFloorPropose l s).memWf := by
  simp [execFloorPropose, h]

@[simp] theorem execProposeReceive_memWf (l : Nat) (hub p : Nat) (s : State) (h : s.mem.wf = true) : (execProposeReceive l hub p s).memWf := by
  simp [execProposeReceive, h]

@[simp] theorem State.ackFrom_mem (s : State) (l : Nat) (hub : Nat) (a : Nat × Nat) : (s.ackFrom l hub a).2.mem = s.mem := by
  simp [State.ackFrom]

@[simp] theorem execProposeAckReceive_memWf (l : Nat) (hub b : Nat) (s : State) (h : s.mem.wf = true) :
    (execProposeAckReceive l hub b s).memWf := by
  unfold execProposeAckReceive
  split
  · dsimp only
    split <;> simp [h]
  · simp [h]

@[simp] theorem execCommitReceive_memWf (l : Nat) (hub fc : Nat) (s : State) (h : s.mem.wf = true) : (execCommitReceive l hub fc s).memWf := by
  simp [execCommitReceive, h]

@[simp] theorem execHoldReceive_memWf (l : Nat) (hub : Nat) (s : State) (h : s.mem.wf = true) : (execHoldReceive l hub s).memWf := by
  simp [execHoldReceive, h]

@[simp] theorem execPauseReceive_memWf (l : Nat) (hub : Nat) (s : State) (h : s.mem.wf = true) : (execPauseReceive l hub s).memWf := by
  simp [execPauseReceive, h]

@[simp] theorem execPauseAckReceive_memWf (l : Nat) (hub present : Nat) (heldB : Nat) (s : State) (h : s.mem.wf = true) :
    (execPauseAckReceive l hub present heldB s).memWf := by
  unfold execPauseAckReceive
  split
  · dsimp only
    split <;> simp [h]
  · simp [h]

@[simp] theorem State.insertHeld_wf (s : State) (l die : Nat) (k : Task) (h : s.mem.wf = true) : (s.insertHeld l die k).mem.wf = true := by
  unfold State.insertHeld
  split
  · simp [h]
  · split <;> simp [h]

@[simp] theorem State.insertHelds_wf (s : State) (l die floor : Nat) (h : s.mem.wf = true) : (s.insertHelds l die floor).mem.wf = true := by
  unfold State.insertHelds
  simp +contextual [h]

@[simp] theorem execResumeReceive_memWf (l : Nat) (hub fc : Nat) (s : State) (h : s.mem.wf = true) : (execResumeReceive l hub fc s).memWf := by
  simp [execResumeReceive, h]

@[simp] theorem execReachUpdate_memWf (l v : Nat) (s : State) (h : s.mem.wf = true) : (execReachUpdate l v s).memWf := by
  simp [execReachUpdate, h]

@[simp] theorem execStealRequest_memWf (l : Nat) (hub : Nat) (s : State) (h : s.mem.wf = true) : (execStealRequest l hub s).memWf := by
  unfold execStealRequest
  split
  · simp [h]
  · split <;> simp [h]

@[simp] theorem State.give_mem (s : State) (l die to' b : Nat) (ks : List Task) : (s.give l die to' b ks).mem = s.mem := by
  simp [State.give]

@[simp] theorem execStealRequestReceive_memWf (l giver thief : Nat) (s : State) (h : s.mem.wf = true) :
    (execStealRequestReceive l giver thief s).memWf := by
  unfold execStealRequestReceive
  split
  · simp [h]
  · split <;> simp [h]

@[simp] theorem execStealTransferReceive_memWf (l giver thief : Nat) (s : State) (h : s.mem.wf = true) :
    (execStealTransferReceive l giver thief s).memWf := by
  unfold execStealTransferReceive
  simp +contextual [h]

@[simp] theorem execStealAckReceive_memWf (l giver thief : Nat) (s : State) (h : s.mem.wf = true) :
    (execStealAckReceive l giver thief s).memWf := by
  simp [execStealAckReceive, h]

@[simp] theorem execStealRetry_memWf (l : Nat) (hub : Nat) (s : State) (h : s.mem.wf = true) : (execStealRetry l hub s).memWf := by
  simp [execStealRetry, h]

@[simp] theorem State.sendGift_wf (s : State) (l die member self : Nat) (view : Word) (ks : List Task) (h : s.mem.wf = true) :
    (s.sendGift l die member self view ks).mem.wf = true := by
  unfold State.sendGift
  dsimp only
  split
  · simp [h]
  · simp +contextual [h]

@[simp] theorem execDeviceStealRequest_memWf (l : Nat) (from' : Option Nat) (s : State) (h : s.mem.wf = true) :
    (execDeviceStealRequest l from' s).memWf := by
  unfold execDeviceStealRequest
  split
  · simp [h]
  · split
    · split <;> simp [h]
    · dsimp only
      split <;> simp [h]

@[simp] theorem State.setGroup_mem (s : State) (l : Nat) (f : HubBlock → HubBlock) : (s.setGroup l f).mem = s.mem := by
  simp [State.setGroup]

@[simp] theorem State.groupResume_wf (s : State) (l : Nat) (h : s.mem.wf = true) : (s.groupResume l).mem.wf = true := by
  unfold State.groupResume
  simp +contextual [h]

@[simp] theorem State.waveGroup_wf (s : State) (l : Nat) (x : Launch) (shares : List WaveShare) (h : s.mem.wf = true) :
    (s.waveGroup l x shares).mem.wf = true := by
  unfold State.waveGroup
  split
  · simp [h]
  · split
    · simp [h]
    · split <;> simp [h]

@[simp] theorem State.waveSteal_mem (s : State) (l : Nat) (x : Launch) (shares : List WaveShare) : (s.waveSteal l x shares).mem = s.mem := by
  unfold State.waveSteal
  dsimp only
  split <;> simp

@[simp] theorem execTerminationWave_memWf (l : Nat) (shares : List WaveShare) (s : State) (h : s.mem.wf = true) :
    (execTerminationWave l shares s).memWf := by
  unfold execTerminationWave
  split <;> simp [h]

@[simp] theorem State.fillWindow_memWf (w : Who) (table : DWord) (x : List Nat) (s : State) (h : s.mem.wf = true) :
    Access.memWf (State.fillWindow w table x s) := by
  fun_induction State.fillWindow
  · simp [h]
  · rename_i x x1 t hc
    refine Access.memWf_bind ?_ fun a t1 ht1 => ?_
    · simp [h]
    · refine Access.memWf_bind ?_ fun a t2 ht2 => ?_
      · simp [hc, ht1]
      · simp [ht2]

@[simp] theorem State.copyCode_wf (x : Nat) (s : State) (x1 : Who) (x2 : Nat) (h : s.mem.wf = true) :
    (State.copyCode x s x1 x2).2.mem.wf = true := by
  fun_induction State.copyCode
  · simp [h]
  · rename_i x t x1 x2 x3 t1 he x4 hc
    have ht := Access.wf_of_ok he (by simp [h])
    simp +zetaDelta [*]
  · rename_i x t x1 x2 e he
    have ht := Access.wf_of_error he (by simp [h])
    simp [h]

@[simp] theorem State.regionEntries_memWf (l : Nat) (w : Who) (x : List Region) (s : State) (h : s.mem.wf = true) :
    Access.memWf (State.regionEntries l w x s) := by
  fun_induction State.regionEntries
  · simp [h]
  · rename_i x x1 t hc
    refine Access.memWf_bind ?_ fun a t1 ht1 => ?_
    · simp [h]
    · refine Access.memWf_bind ?_ fun a t2 ht2 => ?_
      · simp [hc, ht1]
      · simp [ht2]

@[simp] theorem State.readTable_memWf (s : State) (l cid : Nat) (x : Launch) (h : s.mem.wf = true) : Access.memWf (s.readTable l cid x) := by
  unfold State.readTable
  dsimp only
  refine Access.memWf_bind ?_ fun a t ht => ?_
  · simp [h]
  · refine Access.memWf_bind ?_ fun a t1 ht1 => ?_
    · simp [ht]
    · simp [ht1]

@[simp] theorem State.tryTable_wf (s : State) (l cid : Nat) (x : Launch) (h : s.mem.wf = true) : (s.tryTable l cid x).mem.wf = true := by
  unfold State.tryTable
  split
  · rename_i x1 x2 t he
    have ht := Access.wf_of_ok he (by simp [h])
    simp [ht]
  · rename_i x1 e he
    have ht := Access.wf_of_error he (by simp [h])
    simp [h]

@[simp] theorem State.bringRegion_memWf (s : State) (cid : Nat) (w : Who) (k : Task) (i : Nat) (r : Region) (o : Option Obj) (h : s.mem.wf = true) :
    Access.memWf (s.bringRegion cid w k i r o) := by
  unfold State.bringRegion
  split
  · simp [h]
  · split
    · simp [h]
    · split
      · simp [h]
      · split
        · dsimp only
          refine Access.memWf_bind ?_ fun a t ht => ?_
          · simp [h]
          · simp [ht]
        · dsimp only
          refine Access.memWf_bind ?_ fun a t ht => ?_
          · simp [h]
          · simp [ht]

@[simp] theorem State.bringRegions_memWf (cid : Nat) (w : Who) (k : Task) (x : List (Region × Nat)) (s : State) (h : s.mem.wf = true) :
    Access.memWf (State.bringRegions cid w k x s) := by
  fun_induction State.bringRegions
  · simp [h]
  · rename_i hc
    simp [hc, h]
  · rename_i x x1 x2 t hc hc1
    refine Access.memWf_bind ?_ fun a t1 ht1 => ?_
    · simp [h]
    · simp [hc1, ht1]

@[simp] theorem State.bringInputs_wf (s : State) (cid : Nat) (k : Task) (waits : Region → Option Obj → Bool) (h : s.mem.wf = true) :
    (s.bringInputs cid k waits).1.mem.wf = true := by
  unfold State.bringInputs
  dsimp only
  refine foldl_wf (p := Prod.fst) (fun t b ht => ?_) _ ?_
  · split
    · simp [ht]
    · split
      · rename_i x x1 t1 he
        have ht1 := Access.wf_of_ok he (by simp [ht])
        simp [ht1]
      · rename_i x e he
        have ht1 := Access.wf_of_error he (by simp [ht])
        simp [ht]
  · simp [h]

@[simp] theorem State.startTask_wf (s : State) (l cid : Nat) (k : Task) (h : s.mem.wf = true) : (s.startTask l cid k).mem.wf = true := by
  unfold State.startTask
  split <;> simp [h]

@[simp] theorem State.dispatch_wf (s : State) (l die : Nat) (o : Offer) (h : s.mem.wf = true) : (s.dispatch l die o).mem.wf = true := by
  unfold State.dispatch
  split <;> simp [h]

@[simp] theorem State.askSteals_mem (s : State) (die : Nat) : (s.askSteals die).mem = s.mem := by
  simp [State.askSteals]

@[simp] theorem execTaskPreload_memWf (cid : Nat) (s : State) (h : s.mem.wf = true) : (execTaskPreload cid s).memWf := by
  unfold execTaskPreload
  dsimp only
  split
  · rename_i x x1 x2 x3 x4 x5 he he1
    split
    · simp [h]
    · rw [Out.memWf_next]
      split
      · rename_i x8 x9 t he3
        have ht := Access.wf_of_ok he3 (by simp [h])
        simp [ht]
      · rename_i x8 e he3
        have ht := Access.wf_of_error he3 (by simp [h])
        simp [h]
  · simp [h]

@[simp] theorem State.unpark_mem (s : State) (l die : Nat) (k : Task) : (s.unpark l die k).mem = s.mem := by
  simp [State.unpark]

@[simp] theorem State.takePages_wf (x : Nat) (s : State) (x1 : Nat) (h : s.mem.wf = true) : (State.takePages x s x1).2.mem.wf = true := by
  fun_induction State.takePages
  · simp [h]
  · rename_i x t x1 t1 he
    have ht := wf_of_snd he (by simp [h])
    simp [ht]
  · rename_i x t x1 x2 t1 he x3 hc
    have ht := wf_of_snd he (by simp [h])
    simp +zetaDelta [*]

@[simp] theorem State.gangMemberEnds_mem (s : State) (cid : Nat) : (s.gangMemberEnds cid).mem = s.mem := by
  unfold State.gangMemberEnds
  dsimp only
  split <;> simp

@[simp] theorem State.handLocally_mem (s : State) (cid : Nat) (k : Task) : (s.handLocally cid k).mem = s.mem := by
  unfold State.handLocally
  dsimp only
  split <;> simp

@[simp] theorem State.addElems_memWf (w : Who) (o : Obj) (r : Region) (x : List Elem) (s : State) (h : s.mem.wf = true) :
    Access.memWf (State.addElems w o r x s) := by
  fun_induction State.addElems
  · simp [h]
  · rename_i x x1 t x2 hc
    refine Access.memWf_bind ?_ fun a t1 ht1 => ?_
    · simp [h]
    · dsimp only
      split
      · simp [ht1]
      · refine Access.memWf_bind ?_ fun a t2 ht2 => ?_
        · simp [ht1]
        · simp [hc, ht2]

@[simp] theorem State.storeOut_memWf (w : Who) (o : Obj) (r : Region) (es : List Elem) (s : State) (h : s.mem.wf = true) :
    Access.memWf (State.storeOut w o r es s) := by
  unfold State.storeOut
  split
  · simp [h]
  · split
    · simp [h]
    · dsimp only
      refine Access.memWf_bind ?_ fun a t ht => ?_
      · simp [h]
      · simp [ht]

@[simp] theorem State.storeOuts_memWf (l : Nat) (w : Who) (k : Task) (x : List (Nat × List MByte)) (s : State) (h : s.mem.wf = true) :
    Access.memWf (State.storeOuts l w k x s) := by
  fun_induction State.storeOuts
  · simp [h]
  · rename_i hc
    simp [hc, h]
  · rename_i hc
    simp [hc, h]
  · rename_i x x1 x2 t x3 he x4 he1 hc
    refine Access.memWf_bind ?_ fun a t1 ht1 => ?_
    · simp [h]
    · split
      · simp [ht1]
      · simp [hc, ht1]

@[simp] theorem State.succOne_wf (s : State) (l : Nat) (handle : Word) (h : s.mem.wf = true) : (s.succOne l handle).2.mem.wf = true := by
  unfold State.succOne
  dsimp only
  split
  · simp [h]
  · split <;> simp [h]

@[simp] theorem State.succAll_wf (s : State) (l die : Nat) (x : List Word) (h : s.mem.wf = true) : (s.succAll l die x).mem.wf = true := by
  fun_induction State.succAll
  · simp [h]
  · simp +zetaDelta [*]
  · simp +zetaDelta [*]

@[simp] theorem execTaskRetire_memWf (l uid : Nat) (s : State) (h : s.mem.wf = true) : (execTaskRetire l uid s).memWf := by
  unfold execTaskRetire
  split
  · simp [h]
  · rename_i x x1 x2 he
    dsimp only
    split
    · rename_i x3 x4 x5 x6 t he1
      have ht : t.mem.wf = true := Access.wf_of_error he1 (by simp [h])
      simp [ht]
    · rename_i x3 x4 x5 t he1
      have ht : t.mem.wf = true := Access.wf_of_error he1 (by simp [h])
      simp [ht]
    · rename_i x3 e hc hc1 he1
      have ht := Access.wf_of_error he1 (by simp [h])
      simp [ht]
    · rename_i x3 x4 t he1
      have ht := Access.wf_of_ok he1 (by simp [h])
      simp [h]
    · rename_i x3 t he1
      have ht := Access.wf_of_ok he1 (by simp [h])
      simp [ht]

@[simp] theorem execContinuationReady_memWf (l uid : Nat) (s : State) (h : s.mem.wf = true) : (execContinuationReady l uid s).memWf := by
  unfold execContinuationReady
  split
  · simp [h]
  · split <;> simp [h]

@[simp] theorem execBudgetExceeded_memWf (cid : Nat) (s : State) (h : s.mem.wf = true) : (execBudgetExceeded cid s).memWf := by
  simp [execBudgetExceeded, h]

@[simp] theorem execGangStart_memWf (l g : Nat) (s : State) (h : s.mem.wf = true) : (execGangStart l g s).memWf := by
  unfold execGangStart
  split
  · simp [h]
  · rename_i x x1 he
    split
    · simp [h]
    · split
      · simp [h]
      · split
        · dsimp only
          split
          · simp [h]
          · split
            · rename_i x2 e he2
              have ht := Access.wf_of_error he2 (by simp [h])
              simp [ht]
            · rename_i x2 t he2
              have ht := Access.wf_of_ok he2 (by simp [h])
              simp [ht]
            · rename_i x2 x3 t he2
              have ht := Access.wf_of_ok he2 (by simp [h])
              simp [ht]
        · dsimp only
          split
          · simp [h]
          · split
            · rename_i x2 e he1
              have ht := Access.wf_of_error he1 (by simp [h])
              simp [ht]
            · rename_i x2 t he1
              have ht := Access.wf_of_ok he1 (by simp [h])
              simp [ht]
            · rename_i x2 x3 t he1
              have ht := Access.wf_of_ok he1 (by simp [h])
              simp [ht]

@[simp] theorem State.onL3_mem (s : State) (die : Nat) (f : Pad → Pad) : (s.onL3 die f).mem = s.mem := by
  simp [State.onL3]

@[simp] theorem State.atSlots_mem (s : State) (die : Nat) : (s.atSlots die).mem = s.mem := by
  unfold State.atSlots
  dsimp only
  split <;> simp

@[simp] theorem State.slotRaiseTo_mem (s : State) (die k v : Nat) : (s.slotRaiseTo die k v).mem = s.mem := by
  unfold State.slotRaiseTo
  dsimp only
  split <;> simp

@[simp] theorem State.slotRaise_mem (s : State) (die k : Nat) : (s.slotRaise die k).mem = s.mem := by
  simp [State.slotRaise]

@[simp] theorem State.jstate_mem (s : State) (e : Nat) : (s.jstate e).2.2.mem = s.mem := by
  simp [State.jstate]

@[simp] theorem State.setJournal_wf (s : State) (e st n : Nat) (h : s.mem.wf = true) : (s.setJournal e st n).mem.wf = true := by
  unfold State.setJournal
  simp [State.setGroupWord_wf, h]

@[simp] theorem State.buddyLine_mem (s : State) (e ctx : Nat) : (s.buddyLine e ctx).2.mem = s.mem := by
  unfold State.buddyLine
  dsimp only
  split <;> simp

@[simp] theorem State.journalSlot_wf (s : State) (die k : Nat) (h : s.mem.wf = true) : (s.journalSlot die k).mem.wf = true := by
  unfold State.journalSlot
  split
  · simp [h]
  · rename_i x x1 x2 he
    dsimp only
    split
    · simp [h]
    · split
      · simp [h]
      · split
        · simp [h]
        · split
          · rename_i x5 x6 t he2
            have ht := Access.wf_of_ok he2 (by simp [h])
            simp [ht]
          · rename_i x5 e he2
            have ht := Access.wf_of_error he2 (by simp [h])
            simp [ht]

@[simp] theorem State.pushPacket_memWf (s : State) (kinds : List Nat) (a : DWord) (bs : List Byte) (k : Word → State → Out) (h : s.mem.wf = true)
    (hk : ∀ w t, t.mem.wf = true → (k w t).memWf) : (s.pushPacket kinds a bs k).memWf := by
  have hacc : (s.hubAccept s.core.t.lslot (dieOf s.core.cid) kinds false none (some s.core.cid) bs).memWf := by simp [h]
  unfold State.pushPacket
  dsimp only
  split
  case h_1 w t he =>
    have ht := Access.wf_of_ok he hacc
    exact State.goOn_memWf _ _ (by simp [ht]) (hk w)
  case h_2 t he =>
    have ht := Access.wf_of_ok he hacc
    simp [ht]
  case h_3 c t _ he =>
    have ht := Access.wf_of_ok he hacc
    simp [ht]
  case h_4 r c v o t he =>
    have ht : t.mem.wf = true := Access.wf_of_error he hacc
    simp [ht]
  case h_5 c v t he =>
    have ht : t.mem.wf = true := Access.wf_of_error he hacc
    simp [ht]
  case h_6 e _ _ he =>
    have ht := Access.wf_of_error he hacc
    simp [h, ht]

@[simp] theorem execWlpush_memWf (d : BitVec 5) (b : BitVec 4) (l : BitVec 10) (s : State) (h : s.mem.wf = true) : (execWlpush d b l s).memWf := by
  refine State.slotFree_memWf _ _ h (State.packetAt_memWf _ _ _ _ h fun a bs => ?_)
  split
  · exact State.pushPacket_memWf _ _ _ _ _ h fun w t ht => by simp [ht]
  · simp [h]

@[simp] theorem execWlnest_memWf (b : BitVec 4) (s : State) (h : s.mem.wf = true) : (execWlnest b s).memWf := by
  refine State.packetAt_memWf _ _ _ _ h fun a bs => ?_
  split
  · exact State.pushPacket_memWf _ _ _ _ _ h fun w t ht => by simp [ht]
  · simp [h]

theorem State.choose_wf {s t : State} {die : Nat} (h : s.mem.wf = true) (ht : s.choose die = some t) : t.mem.wf = true := by
  unfold State.choose at ht
  dsimp only at ht
  split at ht
  · cases ht; simp [h]
  · split at ht
    · cases ht; simp [h]
    · split at ht
      · cases ht; simp [h]
      · split at ht
        · cases ht; simp [h]
        · cases ht

@[simp] theorem execTaskDispatch_memWf (die : Nat) (s : State) (h : s.mem.wf = true) : (execTaskDispatch die s).memWf := by
  unfold execTaskDispatch
  split
  case h_1 t ht => exact State.choose_wf h ht
  case h_2 =>
    refine foldl_wf (p := fun t => t) (fun t b ht => ?_) _ ?_
    · split <;> simp [ht]
    · split <;> simp [h]

/-- What a core reads before the first bundle of its work: the object window, the regions and the code (R102). -/
theorem State.regionCopy_memWf {cid : Nat} {x : Launch} {t : Thread} {s : State} (h : s.mem.wf = true) :
    Access.memWf (Access.bind (if t.windowed then .ok ((), s) else s.readTable t.lslot cid x) fun _ u =>
      Access.bind (State.bringRegions cid (s.engineOf cid) (u.coreAt cid).t.task t.task.regions.zipIdx u) fun _ u =>
        if t.codeLen != 0 then .ok (([] : List PByte), u)
        else .ok ((State.copyCode 1024 u (s.engineOf cid) x.lrec.codeAddr.toNat).1, (State.copyCode 1024 u (s.engineOf cid) x.lrec.codeAddr.toNat).2)) := by
  refine Access.memWf_bind (by split <;> simp [h]) fun _ u hu => Access.memWf_bind (by simp [hu]) fun _ u hu => ?_
  split
  · simp [hu]
  · exact State.copyCode_wf _ _ _ _ hu

@[simp] theorem execRegionCopyInDone_memWf (cid : Nat) (s : State) (h : s.mem.wf = true) : (execRegionCopyInDone cid s).memWf := by
  unfold execRegionCopyInDone
  dsimp only
  split
  · exact h
  · rename_i x _
    simp only [Out.memWf_ite, Out.memWf_next]
    refine ⟨fun _ => h, fun _ => ⟨fun _ => by simp [h], fun _ => ?_⟩⟩
    split
    case h_1 e he => exact State.engineStop_memWf _ _ _ _ _ h (Access.wf_of_error he (State.regionCopy_memWf h))
    case h_2 code t he =>
      have ht := Access.wf_of_ok he (State.regionCopy_memWf h)
      split
      · exact foldl_wf (p := fun t => t) (fun t b ht => by simp [ht]) _ (by simp [ht])
      · simp [ht]

@[simp] theorem State.suspend_wf (s : State) (cid : Nat) (h : s.mem.wf = true) : (s.suspend cid).mem.wf = true := by
  unfold State.suspend
  dsimp only
  split
  all_goals
    rename_i t he
    have ht : t.mem.wf = true := wf_of_snd he (by
      split
      · simp [h]
      · split <;> simp [h])
    simp [ht]

@[simp] theorem execTendCopyOut_memWf (cid : Nat) (s : State) (h : s.mem.wf = true) : (execTendCopyOut cid s).memWf := by
  unfold execTendCopyOut
  dsimp only
  simp [h]

theorem State.addOne_mem {s t : State} {die : Nat} {p : Contribution → Bool} (h : s.addOne die p = some t) : t.mem = s.mem := by
  unfold State.addOne at h
  split at h
  · cases h
  · cases h
    simp

@[simp] theorem State.addAll_mem (n : Nat) (s : State) (die k : Nat) : (State.addAll n s die k).mem = s.mem := by
  induction n generalizing s with
  | zero => rfl
  | succ n ih =>
    unfold State.addAll
    split
    case h_1 t ht => exact (ih t).trans (State.addOne_mem ht)
    case h_2 => rfl

@[simp] theorem execContributionAdd_memWf (die : Nat) (s : State) (h : s.mem.wf = true) : (execContributionAdd die s).memWf := by
  unfold execContributionAdd
  cases ht : s.addOne die fun _ => true with
  | none => simpa using h
  | some t => simpa [State.addOne_mem ht] using h

end Sys2Proof.Machine
end

section
/-! Device memory keeps its canonical form: slots of a group, views, the transport; management and equivalence (R42 to R61, R223 to R234). -/

namespace Sys2Proof.Machine

@[simp] theorem State.markOrdered_mem (s : State) (die k : Nat) : (s.markOrdered die k).mem = s.mem := by
  unfold State.markOrdered
  dsimp only
  split <;> simp

@[simp] theorem State.closeSlot_wf (s : State) (die k st : Nat) (h : s.mem.wf = true) : (s.closeSlot die k st).mem.wf = true := by
  simp [State.closeSlot, h]

@[simp] theorem execJournalAppendAck_memWf (die slot : Nat) (s : State) (h : s.mem.wf = true) : (execJournalAppendAck die slot s).memWf := by
  simp [execJournalAppendAck, h]

@[simp] theorem State.expire_wf (s : State) (die k : Nat) (h : s.mem.wf = true) : (s.expire die k).mem.wf = true := by
  simp [State.expire, h]

@[simp] theorem execSlotDeadline_memWf (die slot : Nat) (s : State) (h : s.mem.wf = true) : (execSlotDeadline die slot s).memWf := by
  simp [execSlotDeadline, h]

@[simp] theorem State.dropCon_mem (s : State) (c : Contribution) (local' : Bool) (fate : Nat) : (s.dropCon c local' fate).mem = s.mem := by
  simp [State.dropCon]

@[simp] theorem State.settleCon_wf (s : State) (c : Contribution) (local' : Bool) (f : Option Nat × Nat) (h : s.mem.wf = true) :
    (s.settleCon c local' f).mem.wf = true := by
  unfold State.settleCon
  split <;> simp [h]

@[simp] theorem State.mapStep_memWf (s : State) (w : Who) (c : Contribution) (h : s.mem.wf = true) : Access.memWf (s.mapStep w c) := by
  unfold State.mapStep
  dsimp only
  refine Access.memWf_bind ?_ fun a t ht => ?_
  · simp [h]
  · split
    · simp [ht]
    · refine Access.memWf_bind ?_ fun a t1 ht1 => ?_
      · simp [ht]
      · simp [ht1]

@[simp] theorem State.staleCon_mem (s : State) (port : Nat) (con : Contribution) : (s.staleCon port con).mem = s.mem := by
  simp [State.staleCon]

@[simp] theorem State.closeFromJournal_wf (s : State) (die k : Nat) (entry : List Byte) (h : s.mem.wf = true) :
    (s.closeFromJournal die k entry).mem.wf = true := by
  unfold State.closeFromJournal
  split
  · rename_i x x1 x2 he
    dsimp only
    split
    · rename_i x3 x4 t he1
      have ht := Access.wf_of_ok he1 (by simp [h])
      simp [ht]
    · rename_i x3 e he1
      have ht := Access.wf_of_error he1 (by simp [h])
      simp [h]
  · simp [h]

@[simp] theorem execSlotArm_memWf (die slot : Nat) (s : State) (h : s.mem.wf = true) : (execSlotArm die slot s).memWf := by
  unfold execSlotArm
  dsimp only
  split <;> simp [h]

@[simp] theorem execSlotDisarm_memWf (die slot : Nat) (s : State) (h : s.mem.wf = true) : (execSlotDisarm die slot s).memWf := by
  simp [execSlotDisarm, h]

@[simp] theorem State.unreach_wf (s : State) (q : QPair) (h : s.mem.wf = true) : (s.unreach q).mem.wf = true := by
  unfold State.unreach
  dsimp only
  refine foldl_wf (p := fun t => t) (fun t b ht => ?_) _ ?_
  · split <;> split <;> simp [ht]
  · simp [h]

@[simp] theorem State.rebind_wf (s : State) (h : s.mem.wf = true) : (s.rebind).mem.wf = true := by
  unfold State.rebind
  refine foldl_wf (p := fun t => t) (fun t b ht => ?_) _ ?_
  · dsimp only
    split <;> simp [ht]
  · simp [h]

@[simp] theorem State.spareRoute_mem (s : State) (e : Nat) : (s.spareRoute e).mem = s.mem := by
  unfold State.spareRoute
  split <;> simp

@[simp] theorem State.mirrorRegions_mem (s : State) (tab : Nat) : (s.mirrorRegions tab).2.mem = s.mem := by
  simp [State.mirrorRegions]

@[simp] theorem State.readRegions_memWf (w : Who) (x : List (Nat × Nat)) (s : State) (h : s.mem.wf = true) :
    Access.memWf (State.readRegions w x s) := by
  fun_induction State.readRegions
  · simp [h]
  · rename_i x x1 x2 t hc
    refine Access.memWf_bind ?_ fun a t1 ht1 => ?_
    · simp [h]
    · refine Access.memWf_bind ?_ fun a t2 ht2 => ?_
      · simp [hc, ht1]
      · simp [ht2]

@[simp] theorem execSnapshotComplete_memWf (e : Nat) (data : Option (List (BitVec 8))) (s : State) (h : s.mem.wf = true) :
    (execSnapshotComplete e data s).memWf := by
  unfold execSnapshotComplete
  split
  · simp [h]
  · dsimp only
    split
    · rw [Out.memWf_next]
      dsimp only
      apply State.setGroupWord_wf
      simp [State.setGroupWord_wf, h]
    · simp [h]

@[simp] theorem State.layJournal_wf (s : State) (e off : Nat) (entry : List Byte) (h : s.mem.wf = true) :
    (s.layJournal e off entry).mem.wf = true := by
  unfold State.layJournal
  simp [State.physWriteN_wf, h]

@[simp] theorem execJournalAppend_memWf (e : Nat) (entry : List (BitVec 8)) (s : State) (h : s.mem.wf = true) :
    (execJournalAppend e entry s).memWf := by
  simp [execJournalAppend, h]

@[simp] theorem State.countRx_mem (s : State) (qp : Nat) (q : QPair) (ce : Bool) (n : Nat) : (s.countRx qp q ce n).mem = s.mem := by
  simp [State.countRx]

@[simp] theorem State.heardQp_mem (s : State) (qp : Nat) : (s.heardQp qp).mem = s.mem := by
  simp [State.heardQp]

@[simp] theorem State.onPair_memWf (s : State) (qp psn : Nat) (ce : Bool) (n : Nat) (k : QPair → State → Out) (h : s.mem.wf = true)
    (hk : ∀ x0 t, t.mem.wf = true → (k x0 t).memWf) : (s.onPair qp psn ce n k).memWf := by
  unfold State.onPair
  split
  · dsimp only
    split
    · simp [h]
    · simp [h, hk]
  · dsimp only
    split
    · simp [h]
    · simp [h, hk]

@[simp] theorem State.rdmaIn_memWf (s : State) (qp psn : Nat) (ce : Bool) (n : Nat) (serve : QPair → State → Out) (old : State → Out)
    (h : s.mem.wf = true) (hk : ∀ q t, t.mem.wf = true → (serve q t).memWf) (ho : ∀ t, t.mem.wf = true → (old t).memWf) :
    (s.rdmaIn qp psn ce n serve old).memWf := by
  unfold State.rdmaIn
  apply State.onPair_memWf
  · exact h
  · intro q t ht
    dsimp only
    split
    · exact hk q t ht
    · split
      · simp [ht]
      · exact ho t ht

@[simp] theorem State.rdmaTaken_mem (s : State) (qp psn n : Nat) : (s.rdmaTaken qp psn n).mem = s.mem := by
  simp [State.rdmaTaken]

@[simp] theorem State.keyFor_mem (s : State) (key : Word) : (s.keyFor key).2.mem = s.mem := by
  unfold State.keyFor
  split
  · simp
  · split <;> simp

@[simp] theorem State.unsupported_mem (s : State) (p : Nat) : (s.unsupported p).mem = s.mem := by
  simp [State.unsupported]

@[simp] theorem State.withinMtu_memWf (s : State) (qp n : Nat) (k : Out) (h : s.mem.wf = true) (hk : k.memWf) : (s.withinMtu qp n k).memWf := by
  simp [State.withinMtu, h, hk]

@[simp] theorem State.readReply_mem (s : State) (qp psn : Nat) (taken : Bool) (bs : List Byte) : (s.readReply qp psn taken bs).mem = s.mem := by
  simp [State.readReply]

@[simp] theorem execIsaledinReadResponseRx_memWf (qp psn : Nat) (ce : Bool) (bytes : List (BitVec 8)) (s : State) (h : s.mem.wf = true) :
    (execIsaledinReadResponseRx qp psn ce bytes s).memWf := by
  simp [execIsaledinReadResponseRx, h]

@[simp] theorem State.resend_mem (s : State) (qp : Nat) : (s.resend qp).mem = s.mem := by
  unfold State.resend
  split <;> simp

@[simp] theorem execIsaledinAckRx_memWf (qp psn : Nat) (ce nak : Bool) (s : State) (h : s.mem.wf = true) :
    (execIsaledinAckRx qp psn ce nak s).memWf := by
  unfold execIsaledinAckRx
  apply State.onPair_memWf
  · exact h
  · intro q t ht
    split
    · rw [Out.memWf_next, State.resend_mem, State.onQp_mem]
      exact ht
    · simp [ht]

@[simp] theorem execIsaledinRetransmitTimeout_memWf (qp : Nat) (s : State) (h : s.mem.wf = true) : (execIsaledinRetransmitTimeout qp s).memWf := by
  simp [execIsaledinRetransmitTimeout, h]

@[simp] theorem execIsaledinReduceRx_memWf (qp psn : Nat) (ce : Bool) (con : Contribution) (s : State) (h : s.mem.wf = true) :
    (execIsaledinReduceRx qp psn ce con s).memWf := by
  refine State.rdmaIn_memWf _ _ _ _ _ _ _ h (fun q t ht => ?_) fun t ht => ?_
  · simp [ht]
  · simp [ht]

@[simp] theorem execIsaledinEnqueueRx_memWf (qp psn : Nat) (ce : Bool) (hdr : RemoteHdr) (pkt : List (BitVec 8)) (s : State) (h : s.mem.wf = true) :
    (execIsaledinEnqueueRx qp psn ce hdr pkt s).memWf := by
  refine State.withinMtu_memWf _ _ _ _ h (State.rdmaIn_memWf _ _ _ _ _ _ _ h (fun q t ht => ?_) fun t ht => ?_)
  · simp [ht]
  · simp [ht]

@[simp] theorem execIsaledinUnsupportedRx_memWf (p : Nat) (s : State) (h : s.mem.wf = true) : (execIsaledinUnsupportedRx p s).memWf := by
  simp [execIsaledinUnsupportedRx, h]

@[simp] theorem execPfcPauseRx_memWf (p prio : Nat) (on : Bool) (s : State) (h : s.mem.wf = true) : (execPfcPauseRx p prio on s).memWf := by
  simp [execPfcPauseRx, h]

@[simp] theorem execEthLinkChange_memWf (p : Nat) (up : Bool) (s : State) (h : s.mem.wf = true) : (execEthLinkChange p up s).memWf := by
  simp [execEthLinkChange, h]

@[simp] theorem execNop_memWf (s : State) (h : s.mem.wf = true) : (execNop s).memWf := by
  simp [execNop, h]

@[simp] theorem State.queueOut_mem (s : State) : (s.queueOut).mem = s.mem := by
  simp [State.queueOut]

@[simp] theorem execTend_memWf (s : State) (h : s.mem.wf = true) : (execTend s).memWf := by
  simp [execTend, h]

@[simp] theorem execTsusp_memWf (a b : BitVec 6) (s : State) (h : s.mem.wf = true) : (execTsusp a b s).memWf := by
  simp [execTsusp, h]

@[simp] theorem execTyield_memWf (s : State) (h : s.mem.wf = true) : (execTyield s).memWf := by
  simp [execTyield, h]

@[simp] theorem execTrap_memWf (a : BitVec 6) (s : State) (h : s.mem.wf = true) : (execTrap a s).memWf := by
  simp [execTrap, h]

@[simp] theorem execEret_memWf (s : State) (h : s.mem.wf = true) : (execEret s).memWf := by
  simp [execEret, h]

@[simp] theorem execCsrd_memWf (d : BitVec 6) (w : BitVec 1) (b : BitVec 6) (s : State) (h : s.mem.wf = true) : (execCsrd d w b s).memWf := by
  simp [execCsrd, h]

@[simp] theorem csrOp_memWf (op : CsrOp) (a b : BitVec 6) (s : State) (h : s.mem.wf = true) : (csrOp op a b s).memWf := by
  simp [csrOp, h]

@[simp] theorem execCswr_memWf (a b : BitVec 6) (s : State) (h : s.mem.wf = true) : (execCswr a b s).memWf := by
  simp [execCswr, h]

@[simp] theorem execCsset_memWf (a b : BitVec 6) (s : State) (h : s.mem.wf = true) : (execCsset a b s).memWf := by
  simp [execCsset, h]

@[simp] theorem execCsclr_memWf (a b : BitVec 6) (s : State) (h : s.mem.wf = true) : (execCsclr a b s).memWf := by
  simp [execCsclr, h]

@[simp] theorem waitEvent_memWf (hh : Hold) (s : State) (h : s.mem.wf = true) : (waitEvent hh s).memWf := by
  unfold waitEvent
  split <;> simp [h]

@[simp] theorem execWfe_memWf (s : State) (h : s.mem.wf = true) : (execWfe s).memWf := by
  simp [execWfe, h]

@[simp] theorem execSleep_memWf (s : State) (h : s.mem.wf = true) : (execSleep s).memWf := by
  simp [execSleep, h]

@[simp] theorem EqAccess.bind_memWf {α β : Type} (x : EqAccess α) (k : α → State → EqAccess β) (h : Access.memWf x)
    (hk : ∀ x0 t, t.mem.wf = true → (k x0 t).memWf) : Access.memWf (x.bind k : EqAccess β) := by
  unfold EqAccess.bind
  refine Access.memWf_bind ?_ fun a t ht => ?_
  · simp [h]
  · split
    · simp [hk, ht]
    · simp [ht]

@[simp] theorem State.eqRead_memWf (s : State) (w : Who) (va n : Nat) (h : s.mem.wf = true) : Access.memWf (s.eqRead w va n) := by
  unfold State.eqRead
  refine Access.memWf_bind ?_ fun a t ht => ?_
  · simp [h]
  · simp [ht]

@[simp] theorem State.eqWrite_memWf (s : State) (w : Who) (va n v : Nat) (h : s.mem.wf = true) : Access.memWf (s.eqWrite w va n v) := by
  unfold State.eqWrite
  refine Access.memWf_bind ?_ fun a t ht => ?_
  · simp [h]
  · simp [ht]

@[simp] theorem State.eqForest_memWf (s : State) (w : Who) (desc : DWord) (h : s.mem.wf = true) : Access.memWf (s.eqForest w desc) := by
  unfold State.eqForest
  refine Access.memWf_bind ?_ fun a t ht => ?_
  · simp [h]
  · simp [ht]

@[simp] theorem State.eqCheck_memWf (s : State) (w : Who) (desc : DWord) (h : s.mem.wf = true) : Access.memWf (s.eqCheck w desc) := by
  unfold State.eqCheck
  refine Access.memWf_bind ?_ fun a t ht => ?_
  · simp [h]
  · simp [ht]

@[simp] theorem State.putForest_memWf (s : State) (w : Who) (f : Forest) (h : s.mem.wf = true) : Access.memWf (s.putForest w f) := by
  unfold State.putForest
  refine Access.memWf_bind ?_ fun a t ht => ?_
  · simp [h]
  · simp [ht]

@[simp] theorem State.logged_memWf (s : State) (w : Who) (f : Forest) (kind i old new : Nat) (reserved : Bool) (h : s.mem.wf = true) :
    Access.memWf (s.logged w f kind i old new reserved) := by
  unfold State.logged
  split
  · split
    · simp [h]
    · rename_i hc
      split
      · dsimp only
        refine Access.memWf_bind ?_ fun a t ht => ?_
        · simp [h]
        · apply EqAccess.bind_memWf
          · simp [ht]
          · intro x x1 hc1
            apply EqAccess.bind_memWf
            · simp [hc1]
            · intro x2 x3 hc2
              refine Access.memWf_bind ?_ fun a t1 ht1 => ?_
              · simp [hc2]
              · simp [ht1]
      · dsimp only
        refine Access.memWf_bind ?_ fun a t ht => ?_
        · simp [h]
        · apply EqAccess.bind_memWf
          · simp [ht]
          · intro x x1 hc2
            apply EqAccess.bind_memWf
            · simp [hc2]
            · intro x2 x3 hc3
              refine Access.memWf_bind ?_ fun a t1 ht1 => ?_
              · simp [hc3]
              · simp [ht1]
  · rename_i hc
    split
    · simp [h]
    · split
      · dsimp only
        refine Access.memWf_bind ?_ fun a t ht => ?_
        · simp [h]
        · apply EqAccess.bind_memWf
          · simp [ht]
          · intro x x1 hc2
            apply EqAccess.bind_memWf
            · simp [hc2]
            · intro x2 x3 hc3
              refine Access.memWf_bind ?_ fun a t1 ht1 => ?_
              · simp [hc3]
              · simp [ht1]
      · dsimp only
        refine Access.memWf_bind ?_ fun a t ht => ?_
        · simp [h]
        · apply EqAccess.bind_memWf
          · simp [ht]
          · intro x x1 hc3
            apply EqAccess.bind_memWf
            · simp [hc3]
            · intro x2 x3 hc4
              refine Access.memWf_bind ?_ fun a t1 ht1 => ?_
              · simp [hc4]
              · simp [ht1]

@[simp] theorem State.compress_memWf (s : State) (w : Who) (f : Forest) (x p g : Nat) (h : s.mem.wf = true) :
    Access.memWf (s.compress w f x p g) := by
  unfold State.compress
  split
  · simp [h]
  · rename_i hc
    apply EqAccess.bind_memWf
    · simp [h]
    · intro x1 x2 hc1
      simp [hc1]

@[simp] theorem State.hop_memWf (s : State) (w : Who) (f : Forest) (x : Nat) (h : s.mem.wf = true) : Access.memWf (s.hop w f x) := by
  unfold State.hop
  apply EqAccess.bind_memWf
  · simp [h]
  · intro x1 x2 hc
    split
    · simp [hc]
    · apply EqAccess.bind_memWf
      · simp [hc]
      · intro x3 x4 hc2
        simp [hc2]

@[simp] theorem State.findAll_memWf (w : Who) (desc : DWord) (x x1 : Nat) (s : State) (h : s.mem.wf = true) :
    Access.memWf (State.findAll w desc x x1 s) := by
  fun_induction State.findAll
  · simp [h]
  · rename_i x x1 t hc
    apply EqAccess.bind_memWf
    · simp [h]
    · intro x2 x3 hc1
      apply EqAccess.bind_memWf
      · simp [hc1]
      · intro x4 x5 hc2
        simp [hc, hc2]

@[simp] theorem State.setEqOp_mem (s : State) (o : EqOp) : (s.setEqOp o).mem = s.mem := by
  simp [State.setEqOp]

@[simp] theorem State.dropEqOp_mem (s : State) (id : Nat) : (s.dropEqOp id).mem = s.mem := by
  simp [State.dropEqOp]

@[simp] theorem State.eqLand_mem (s : State) (o : EqOp) : (s.eqLand o).mem = s.mem := by
  unfold State.eqLand
  split <;> simp

@[simp] theorem State.eqDone_mem (s : State) (o : EqOp) (v : PDWord) : (s.eqDone o v).mem = s.mem := by
  simp [State.eqDone]

@[simp] theorem State.eqRetire_mem (s : State) (o : EqOp) : (s.eqRetire o).mem = s.mem := by
  simp [State.eqRetire]

@[simp] theorem State.eqFault_wf (s : State) (o : EqOp) (cause : Cause) (val : DWord) (origin : Psn) (h : s.mem.wf = true) :
    (s.eqFault o cause val origin).mem.wf = true := by
  simp [State.eqFault, h]

@[simp] theorem State.eqStop_memWf (o : EqOp) (again : Instr) (x : Stop) (h : x.memWf) : (State.eqStop o again x).memWf := by
  unfold State.eqStop
  split
  · rename_i e x t
    have h : t.mem.wf = true := h
    simp [h]
  · rename_i e t
    have h : t.mem.wf = true := h
    simp [h]
  · rename_i e x x1 x2 x3 t
    have h : t.mem.wf = true := h
    simp [h]
  · rename_i e x x1 t
    have h : t.mem.wf = true := h
    simp [h]
  · rename_i e x t
    have h : t.mem.wf = true := h
    simp [h]

@[simp] theorem State.undoStops_wf (s : State) (o : EqOp) (h : s.mem.wf = true) : (s.undoStops o).mem.wf = true := by
  unfold State.undoStops
  split
  · split
    · rename_i x x1 t he
      have ht := Access.wf_of_ok he (by simp [h])
      simp [ht]
    · rename_i x e he
      have ht := Access.wf_of_error he (by simp [h])
      simp [h]
  · simp [h]

@[simp] theorem State.eqMark_mem (s : State) (o : EqOp) (f : Forest) : (s.eqMark o f).mem = s.mem := by
  simp [State.eqMark]

@[simp] theorem State.eqInit_memWf (w : Who) (f : Forest) (x : List Nat) (s : State) (h : s.mem.wf = true) :
    Access.memWf (State.eqInit w f x s) := by
  fun_induction State.eqInit
  · simp [h]
  · rename_i x x1 t hc
    apply EqAccess.bind_memWf
    · simp [h]
    · intro x2 x3 hc1
      apply EqAccess.bind_memWf
      · simp [hc1]
      · intro x4
        assumption

@[simp] theorem State.eqUndo_memWf (w : Who) (f : Forest) (x : Nat) (s : State) (h : s.mem.wf = true) : Access.memWf (State.eqUndo w f x s) := by
  fun_induction State.eqUndo
  · simp [h]
  · rename_i x t hc
    refine Access.memWf_bind ?_ fun a t1 ht1 => ?_
    · simp [h]
    · split
      · simp [ht1]
      · split
        · dsimp only
          refine Access.memWf_bind ?_ fun a t2 ht2 => ?_
          · simp [ht1]
          · simp [hc, ht2]
        · dsimp only
          refine Access.memWf_bind ?_ fun a t2 ht2 => ?_
          · simp [ht1]
          · simp [hc, ht2]

@[simp] theorem State.eqLabel_memWf (w : Who) (desc : DWord) (n : Nat) (y : Obj) (x : List Nat) (s : State) (h : s.mem.wf = true) :
    Access.memWf (State.eqLabel w desc n y x s) := by
  fun_induction State.eqLabel
  · simp [h]
  · rename_i x x1 t hc
    apply EqAccess.bind_memWf
    · simp [h]
    · intro x2 x3 hc1
      apply EqAccess.bind_memWf
      · simp [hc1]
      · intro x4
        assumption

@[simp] theorem State.eqParents_memWf (w : Who) (f : Forest) (x : List Nat) (s : State) (h : s.mem.wf = true) :
    Access.memWf (State.eqParents w f x s) := by
  fun_induction State.eqParents
  · simp [h]
  · rename_i x x1 t hc
    apply EqAccess.bind_memWf
    · simp [h]
    · intro x2 x3 hc1
      simp [hc, hc1]

@[simp] theorem State.eqColumn_memWf (w : Who) (x : Obj) (j : Nat) (x1 : List Nat) (x2 : Nat × Exc) (x3 : Psn) (s : State) (h : s.mem.wf = true) :
    Access.memWf (State.eqColumn w x j x1 x2 x3 s) := by
  fun_induction State.eqColumn
  · simp [h]
  · rename_i x1 x2 x3 x4 t hc
    refine Access.memWf_bind ?_ fun a t1 ht1 => ?_
    · simp [h]
    · simp [hc, ht1]

@[simp] theorem State.eqReduce_memWf (w : Who) (x y : Obj) (members : Nat → List Nat) (x1 : List (Nat × Nat)) (x2 : Exc) (s : State)
    (h : s.mem.wf = true) : Access.memWf (State.eqReduce w x y members x1 x2 s) := by
  fun_induction State.eqReduce
  · simp [h]
  · rename_i x1 x2 x3 x4 t hc
    refine Access.memWf_bind ?_ fun a t1 ht1 => ?_
    · simp [h]
    · refine Access.memWf_bind ?_ fun a t2 ht2 => ?_
      · simp [ht1]
      · simp [hc, ht2]

@[simp] theorem State.eqHeld_memWf (s : State) (o : EqOp) (f : Forest) (h : s.mem.wf = true) : Access.memWf (s.eqHeld o f) := by
  unfold State.eqHeld
  split
  · simp [h]
  · rename_i hc
    split
    · rename_i x he
      dsimp only
      apply EqAccess.bind_memWf
      · simp [h]
      · intro x1 x2 hc1
        simp [hc1]
    · simp [h]
    · simp [h]
    · dsimp only
      refine Access.memWf_bind ?_ fun a t ht => ?_
      · simp [h]
      · simp [ht]
    · rename_i x he
      split
      · simp [h]
      · dsimp only
        apply EqAccess.bind_memWf
        · simp [h]
        · intro x3 x4 hc1
          apply EqAccess.bind_memWf
          · simp [hc1]
          · intro x5 x6 hc2
            simp [hc2]
    · rename_i x he
      split
      · dsimp only
        apply EqAccess.bind_memWf
        · simp [h]
        · intro x5 x6 hc1
          refine Access.memWf_bind ?_ fun a t ht => ?_
          · simp [hc1]
          · simp [ht]
      · simp [h]
    · simp [h]

@[simp] theorem State.eqIssue_memWf (s : State) (kind : EqKind) (d : BitVec 5) (b : BitVec 4) (l : BitVec 10) (srcs : List Psn) (f : EqOp → EqOp)
    (h : s.mem.wf = true) : (s.eqIssue kind d b l srcs f).memWf := by
  unfold State.eqIssue
  dsimp only
  apply State.slotFree_memWf <;> simp [h]

@[simp] theorem execEqinit_memWf (d : BitVec 5) (b : BitVec 4) (l : BitVec 10) (s : State) (h : s.mem.wf = true) : (execEqinit d b l s).memWf := by
  simp [execEqinit, h]

@[simp] theorem execEqun_memWf (d : BitVec 5) (b : BitVec 4) (l : BitVec 10) (s : State) (h : s.mem.wf = true) : (execEqun d b l s).memWf := by
  simp [execEqun, h]

@[simp] theorem execEqfd_memWf (d : BitVec 5) (b : BitVec 4) (l : BitVec 10) (s : State) (h : s.mem.wf = true) : (execEqfd d b l s).memWf := by
  simp [execEqfd, h]

@[simp] theorem execEqsz_memWf (d : BitVec 5) (b : BitVec 4) (l : BitVec 10) (s : State) (h : s.mem.wf = true) : (execEqsz d b l s).memWf := by
  simp [execEqsz, h]

@[simp] theorem execEqcnt_memWf (d : BitVec 5) (b : BitVec 4) (l : BitVec 10) (s : State) (h : s.mem.wf = true) : (execEqcnt d b l s).memWf := by
  simp [execEqcnt, h]

@[simp] theorem execEqrl_memWf (d : BitVec 5) (b : BitVec 4) (l : BitVec 10) (s : State) (h : s.mem.wf = true) : (execEqrl d b l s).memWf := by
  simp [execEqrl, h]

@[simp] theorem execEqsnap_memWf (d : BitVec 5) (b : BitVec 4) (l : BitVec 10) (s : State) (h : s.mem.wf = true) : (execEqsnap d b l s).memWf := by
  simp [execEqsnap, h]

@[simp] theorem execEqundo_memWf (d : BitVec 5) (b : BitVec 4) (l : BitVec 10) (s : State) (h : s.mem.wf = true) : (execEqundo d b l s).memWf := by
  simp [execEqundo, h]

@[simp] theorem execEqdrop_memWf (d : BitVec 5) (b : BitVec 4) (l : BitVec 10) (s : State) (h : s.mem.wf = true) : (execEqdrop d b l s).memWf := by
  simp [execEqdrop, h]

@[simp] theorem State.deviceFault_mem (s : State) (chiplet : Nat) : (s.deviceFault chiplet).mem = s.mem := by
  simp [State.deviceFault]

@[simp] theorem execUncorrectableFabricError_memWf (chiplet : Nat) (s : State) (h : s.mem.wf = true) :
    (execUncorrectableFabricError chiplet s).memWf := by
  simp [execUncorrectableFabricError, h]

@[simp] theorem execHubSoftError_memWf (die l : Nat) (s : State) (h : s.mem.wf = true) : (execHubSoftError die l s).memWf := by
  simp [execHubSoftError, h]

@[simp] theorem State.onHop_mem (s : State) (hh : Nat) (f : Hop → Hop) : (s.onHop hh f).mem = s.mem := by
  simp [State.onHop]

@[simp] theorem State.hopDown_mem (s : State) (hh : Nat) : (s.hopDown hh).mem = s.mem := by
  simp [State.hopDown]

@[simp] theorem State.startRepair_mem (s : State) (hh : Nat) (retrain : Bool) : (s.startRepair hh retrain).mem = s.mem := by
  simp [State.startRepair]

@[simp] theorem State.nextRepair_mem (s : State) : (s.nextRepair).mem = s.mem := by
  unfold State.nextRepair
  split
  · simp
  · split <;> simp

@[simp] theorem State.askRepair_mem (s : State) (hh : Nat) (retrain : Bool) : (s.askRepair hh retrain).mem = s.mem := by
  simp [State.askRepair]

@[simp] theorem State.overThreshold_mem (s : State) : (s.overThreshold).mem = s.mem := by
  simp [State.overThreshold]

@[simp] theorem execHopRepair_memWf (hh : Nat) (repaired : Bool) (s : State) (h : s.mem.wf = true) : (execHopRepair hh repaired s).memWf := by
  simp [execHopRepair, h]

@[simp] theorem execHopRepairResume_memWf (hh : Nat) (s : State) (h : s.mem.wf = true) : (execHopRepairResume hh s).memWf := by
  simp [execHopRepairResume, h]

@[simp] theorem execFlitReplay_memWf (hh : Nat) (s : State) (h : s.mem.wf = true) : (execFlitReplay hh s).memWf := by
  simp [execFlitReplay, h]

@[simp] theorem execRetryWindowEnd_memWf (hh : Nat) (s : State) (h : s.mem.wf = true) : (execRetryWindowEnd hh s).memWf := by
  simp [execRetryWindowEnd, h]

@[simp] theorem execXogusFlitReplay_memWf (d : Nat) (s : State) (h : s.mem.wf = true) : (execXogusFlitReplay d s).memWf := by
  simp [execXogusFlitReplay, h]

@[simp] theorem execPortRetrain_memWf (d : Nat) (ok : Bool) (s : State) (h : s.mem.wf = true) : (execPortRetrain d ok s).memWf := by
  simp [execPortRetrain, h]

@[simp] theorem State.slower_mem (s : State) : (s.slower).mem = s.mem := by
  simp [State.slower]

@[simp] theorem State.faster_mem (s : State) : (s.faster).mem = s.mem := by
  simp [State.faster]

@[simp] theorem execPowerCapWindow_memWf (watts : Nat) (s : State) (h : s.mem.wf = true) : (execPowerCapWindow watts s).memWf := by
  simp [execPowerCapWindow, h]

@[simp] theorem execThermalThrottle_memWf (s : State) (h : s.mem.wf = true) : (execThermalThrottle s).memWf := by
  simp [execThermalThrottle, h]

@[simp] theorem execThermalShutdown_memWf (s : State) (h : s.mem.wf = true) : (execThermalShutdown s).memWf := by
  simp [execThermalShutdown, h]

@[simp] theorem execPowerGate_memWf (cid : Nat) (s : State) (h : s.mem.wf = true) : (execPowerGate cid s).memWf := by
  simp [execPowerGate, h]

@[simp] theorem execCoreWake_memWf (cid : Nat) (s : State) (h : s.mem.wf = true) : (execCoreWake cid s).memWf := by
  simp [execCoreWake, h]

@[simp] theorem execPcieLinkTraining_memWf (up : Bool) (s : State) (h : s.mem.wf = true) : (execPcieLinkTraining up s).memWf := by
  simp [execPcieLinkTraining, h]

@[simp] theorem execTelemetry_memWf (s : State) (h : s.mem.wf = true) : (execTelemetry s).memWf := by
  simp [execTelemetry, h]

@[simp] theorem execReadBlock_memWf (off : Nat) (s : State) (h : s.mem.wf = true) : (execReadBlock off s).memWf := by
  simp [execReadBlock, h]

@[simp] theorem execFaultLog_memWf (s : State) (h : s.mem.wf = true) : (execFaultLog s).memWf := by
  unfold execFaultLog
  split
  · simp [h]
  · split <;> simp [h]

@[simp] theorem execFreeze_memWf (target : Option Nat) (s : State) (h : s.mem.wf = true) : (execFreeze target s).memWf := by
  unfold execFreeze
  split <;> simp [h]

@[simp] theorem State.sendHeld_wf (x : List Bool) (x1 : List (DWord × DWord)) (x2 : List (Nat × List Word)) (s : State) (h : s.mem.wf = true) :
    (State.sendHeld x x1 x2 s).mem.wf = true := by
  fun_induction State.sendHeld
  · rename_i x x1 x2 x3 t hc
    simp [hc, h]
  · rename_i x x1 x2 x3 t hc
    simp [hc, h]
  · simp +contextual [h]

@[simp] theorem State.fireExpired_mem (s : State) : (s.fireExpired).mem = s.mem := by
  simp [State.fireExpired]

@[simp] theorem State.releaseHost_wf (s : State) (h : s.mem.wf = true) : (s.releaseHost).mem.wf = true := by
  unfold State.releaseHost
  dsimp only
  refine foldl_wf (p := fun t => t) (fun t b ht => ?_) _ ?_
  · split <;> simp [ht]
  · simp [h]

@[simp] theorem execRelease_memWf (target : Option Nat) (s : State) (h : s.mem.wf = true) : (execRelease target s).memWf := by
  unfold execRelease
  split <;> simp [h]

@[simp] theorem execLinkService_memWf (cmd : LinkCmd) (s : State) (h : s.mem.wf = true) : (execLinkService cmd s).memWf := by
  unfold execLinkService
  split <;> simp [h]

@[simp] theorem execFwUpdate_memWf (cmd : FwCmd) (s : State) (h : s.mem.wf = true) : (execFwUpdate cmd s).memWf := by
  unfold execFwUpdate
  split <;> simp [h]

@[simp] theorem execAttest_memWf (nonce : List (BitVec 8)) (s : State) (h : s.mem.wf = true) : (execAttest nonce s).memWf := by
  simp [execAttest, h]

@[simp] theorem State.resetRegs_mem (s : State) : (s.resetRegs).mem = s.mem := by
  simp [State.resetRegs]

@[simp] theorem execReset_memWf (s : State) (h : s.mem.wf = true) : (execReset s).memWf := by
  simp [execReset, h]

@[simp] theorem execContributionStaged_memWf (die : Nat) (con : Contribution) (s : State) (h : s.mem.wf = true) :
    (execContributionStaged die con s).memWf := by
  unfold execContributionStaged
  simp only [Out.memWf_ite, Out.memWf_next]
  refine ⟨fun _ => by split <;> simp [h], fun _ => ⟨fun _ => by simp [h], fun _ => ⟨fun _ => by simp [h], fun _ => ?_⟩⟩⟩
  split
  · simp [h]
  · rename_i l w _
    generalize hy : State.mapStep _ w con = y
    have hx : y.memWf := hy ▸ State.mapStep_memWf _ _ _ (by simp [h])
    clear hy
    split
    case h_1 f t =>
      have ht : t.mem.wf = true := hx
      simp [ht]
    case h_2 c t =>
      have ht : t.mem.wf = true := hx
      split <;> simp [ht]
    case h_3 c v t =>
      have ht : t.mem.wf = true := hx
      simp [ht]
    case h_4 t =>
      have ht : t.mem.wf = true := hx
      simp [ht]
    case h_5 r c v o t =>
      have ht : t.mem.wf = true := hx
      simp [ht]
    case h_6 v t =>
      have ht : t.mem.wf = true := hx
      simp [ht]

@[simp] theorem execSnapGo_memWf (e : Nat) (s : State) (h : s.mem.wf = true) : (execSnapGo e s).memWf := by
  simp only [execSnapGo, Out.memWf_ite, Out.memWf_next]
  refine ⟨fun _ => h, fun _ => ?_⟩
  have h1 : (s.setGroupWord e 7 1).mem.wf = true := State.setGroupWord_wf _ _ _ _ h
  split
  · exact h1
  · rename_i l w _
    split
    · simp [h, State.setGroupWord_wf]
    · split
      case h_1 ds t he =>
        have ht := Access.wf_of_ok he (by simp [h, State.setGroupWord_wf])
        exact foldl_wf (p := fun t => t) (fun t d ht => by simp [ht]) _ (by simp [ht])
      case h_2 st he => exact State.hubStop_memWf _ _ _ _ (Access.wf_of_error he (by simp [h, State.setGroupWord_wf]))

@[simp] theorem State.writeRegions_wf (w : Who) (bytes : Nat → Byte) (rs : List (Nat × Nat)) (s : State) (h : s.mem.wf = true) :
    (State.writeRegions w bytes rs s).mem.wf = true := by
  induction rs generalizing s with
  | nil => exact h
  | cons r rs ih =>
    refine ih _ ?_
    split
    case h_1 t he => exact Access.wf_of_ok he (by simp [h])
    case h_2 => exact h

@[simp] theorem State.beginCatchUp_wf (s : State) (e : Nat) (h : s.mem.wf = true) : (s.beginCatchUp e).mem.wf = true := by
  unfold State.beginCatchUp
  split
  · dsimp only
    split <;> simp [h]
  · exact h

@[simp] theorem State.joinView_wf (s : State) (e : Nat) (h : s.mem.wf = true) : (s.joinView e).mem.wf = true := by
  unfold State.joinView
  dsimp only
  split <;> simp [h]

@[simp] theorem execViewInstall_memWf (e : Nat) (view : Word) (s : State) (h : s.mem.wf = true) : (execViewInstall e view s).memWf := by
  simp only [execViewInstall, Out.memWf_ite, Out.memWf_next]
  refine ⟨fun _ => by simp [h], fun _ => ?_⟩
  refine State.joinView_wf _ _ ?_
  rw [State.spareRoute_mem]
  refine State.rebind_wf _ (foldl_wf (p := fun t => t) (fun t b ht => ?_) _ ?_)
  · split <;> simp [ht]
  · simp [h, State.setGroupWord_wf]

@[simp] theorem State.rdmaAccess_memWf {α : Type} (qp psn : Nat) (again : Instr) (x : Access α) (k : α → State → State) (h : x.memWf)
    (hk : ∀ a t, t.mem.wf = true → (k a t).mem.wf = true) : (State.rdmaAccess qp psn again x k).memWf := by
  unfold State.rdmaAccess
  split
  case h_1 v t =>
    have ht : t.mem.wf = true := h
    exact hk _ _ (by simp [ht])
  case h_2 c v t =>
    have ht : t.mem.wf = true := h
    simp [ht]
  case h_3 w t =>
    have ht : t.mem.wf = true := h
    split <;> simp [ht]
  case h_4 t =>
    have ht : t.mem.wf = true := h
    simp [ht]
  case h_5 e _ _ _ =>
    have ht : e.memWf := h
    simp [ht]

@[simp] theorem execIsaledinWriteRx_memWf (qp psn : Nat) (ce : Bool) (key : Word) (va : DWord) (bytes : List (BitVec 8)) (s : State)
    (h : s.mem.wf = true) : (execIsaledinWriteRx qp psn ce key va bytes s).memWf := by
  refine State.withinMtu_memWf _ _ _ _ h (State.rdmaIn_memWf _ _ _ _ _ _ _ h (fun q t ht => ?_) ?_)
  · dsimp only
    split
    · simp [ht]
    · exact State.rdmaAccess_memWf _ _ _ _ _ (Access.memWf_bind (by simp [ht]) fun ps u hu => by simp [hu]) fun a u hu => by simp [hu]
  · simp

@[simp] theorem execIsaledinReadRequestRx_memWf (qp psn : Nat) (ce : Bool) (key : Word) (va : DWord) (len : Nat) (s : State)
    (h : s.mem.wf = true) : (execIsaledinReadRequestRx qp psn ce key va len s).memWf := by
  have serve : ∀ (taken : Bool) (t : State), t.mem.wf = true →
      Out.memWf (match (t.keyFor key).1.filter (fun m => m.covers va len false) with
        | none => .next ((t.keyFor key).2.ackRdma qp psn true)
        | some m' => State.rdmaAccess qp psn (.isaledinReadRequestRx qp psn ce key va len)
          (Access.bind ((t.keyFor key).2.inPlaces (hostWho m'.ctx) .rd va.toNat len) fun ps s => State.readAll ps s)
          fun bs s => s.readReply qp psn taken (plain bs)) := by
    intro taken t ht
    split
    · simp [ht]
    · exact State.rdmaAccess_memWf _ _ _ _ _ (Access.memWf_bind (by simp [ht]) fun ps u hu => by simp [hu]) fun a u hu => by simp [hu]
  exact State.rdmaIn_memWf _ _ _ _ _ _ _ h (fun q t ht => serve true t ht) fun t ht => serve false t ht

/-! #### Operations of the equivalence unit -/

@[simp] theorem State.eqRelease_wf (s : State) (o : EqOp) (h : s.mem.wf = true) : (s.eqRelease o).mem.wf = true := by
  unfold State.eqRelease
  split
  · exact h
  · split
    case h_1 t he =>
      exact Access.wf_of_ok he (EqAccess.bind_memWf _ _ (by simp [h]) fun f t ht => by simp [ht])
    case h_2 => exact h

@[simp] theorem State.eqPoison_wf (s : State) (o : EqOp) (h : s.mem.wf = true) : (s.eqPoison o).mem.wf = true := by
  simp [State.eqPoison, h]

@[simp] theorem State.eqKeep_mem (s s0 : State) (o : EqOp) : (s.eqKeep s0 o).mem = s.mem := by
  unfold State.eqKeep
  split
  · split <;> simp
  · rfl

@[simp] theorem State.eqThen_memWf {α : Type} (s : State) (o : EqOp) (again : Instr) (x : EqAccess α) (k : α → State → Out)
    (hx : Access.memWf x) (hk : ∀ a t, t.mem.wf = true → (k a t).memWf) : (s.eqThen o again x k).memWf := by
  unfold State.eqThen
  split
  case h_1 v t =>
    have ht : t.mem.wf = true := hx
    exact hk _ _ (by simp [ht])
  case h_2 t =>
    have ht : t.mem.wf = true := hx
    simp [ht]
  case h_3 e => exact State.eqStop_memWf _ _ _ hx

end Sys2Proof.Machine
end

section
/-! Device memory keeps its canonical form: steps of the equivalence unit; power (R80 to R83, R226 to R233). -/

namespace Sys2Proof.Machine

@[simp] theorem State.foundRoot_memWf (s : State) (o : EqOp) (f : Forest) (r : Nat) (h : s.mem.wf = true) : (s.foundRoot o f r).memWf := by
  unfold State.foundRoot
  split <;> simp [h]

@[simp] theorem State.findHop_memWf (s : State) (o : EqOp) (f : Forest) (h : s.mem.wf = true) : (s.findHop o f).memWf := by
  unfold State.findHop
  split
  · simp [h]
  · rename_i x he
    split
    · simp [h]
    · dsimp only
      apply State.eqThen_memWf
      · simp [h]
      · intro x2 x3 hc
        simp [hc]

@[simp] theorem execEqFindHop_memWf (op : Nat) (s : State) (h : s.mem.wf = true) : (execEqFindHop op s).memWf := by
  unfold execEqFindHop
  split
  · simp [h]
  · rename_i x x1 he
    split
    · split
      · simp [h]
      · rename_i hc
        apply State.eqThen_memWf
        · simp [h]
        · intro x3 x4 hc1
          simp [hc1]
    · apply State.eqThen_memWf
      · simp [h]
      · intro x4 x5 hc
        simp [hc]
    · simp [h]

@[simp] theorem State.eqCas_memWf (s : State) (o : EqOp) (lo : Nat) (hi : Nat) (h : s.mem.wf = true) : (s.eqCas o lo hi).memWf := by
  unfold State.eqCas
  dsimp only
  apply State.eqThen_memWf
  · apply EqAccess.bind_memWf
    · simp [h]
    · intro x x1 hc
      simp [hc]
  · intro x x1 hc
    split
    · simp [hc]
    · apply State.eqThen_memWf
      · apply EqAccess.bind_memWf
        · simp [hc]
        · intro x2 x3 hc2
          refine EqAccess.bind_memWf _ _ (State.logged_memWf _ _ _ _ _ _ _ _ hc2) fun f t ht => ?_
          exact EqAccess.bind_memWf _ _ (State.putForest_memWf _ _ _ ht) fun _ t ht => ht
      · simp

@[simp] theorem execEqLink_memWf (op : Nat) (s : State) (h : s.mem.wf = true) : (execEqLink op s).memWf := by
  unfold execEqLink
  split
  · simp [h]
  · rename_i x x1 he
    split
    · simp [h]
    · rename_i hc
      dsimp only
      apply State.eqThen_memWf
      · simp [h]
      · intro x2 x3 hc1
        split
        · simp [hc1]
        · split
          · split
            · simp [hc1]
            · apply State.eqThen_memWf
              · simp [hc1]
              · intro x4 x5 hc4
                simp [hc4]
          · split
            · simp [hc1]
            · apply State.eqThen_memWf
              · simp [hc1]
              · intro x4 x5 hc5
                simp [hc5]

@[simp] theorem execEqSizeDelta_memWf (op : Nat) (s : State) (h : s.mem.wf = true) : (execEqSizeDelta op s).memWf := by
  unfold execEqSizeDelta
  split
  · simp [h]
  · rename_i x x1 he
    split
    · simp [h]
    · rename_i hc
      dsimp only
      apply State.eqThen_memWf
      · apply EqAccess.bind_memWf
        · simp [h]
        · intro x2 x3 hc1
          simp [hc1]
      · intro x2 x3 hc1
        split
        · simp [hc1]
        · apply State.eqThen_memWf
          · apply EqAccess.bind_memWf
            · simp [hc1]
            · intro x4 x5 hc3
              simp [hc3]
          · simp

@[simp] theorem execEqHoldEnd_memWf (op : Nat) (s : State) (h : s.mem.wf = true) : (execEqHoldEnd op s).memWf := by
  unfold execEqHoldEnd
  split
  · simp [h]
  · rename_i x x1 he
    split
    · split
      · simp [h]
      · rename_i hc
        apply State.eqThen_memWf
        · simp [h]
        · intro x3 x4 hc1
          simp [hc1]
    · split
      · simp [h]
      · rename_i hc
        split
        · rename_i x3 t he2
          have ht := Access.wf_of_ok he2 (by simp [h])
          simp [ht]
        · apply State.eqThen_memWf
          · apply EqAccess.bind_memWf
            · simp [h]
            · intro x4 x5 hc2
              simp [hc2]
          · simp
    · simp [h]

@[simp] theorem execEqOpComplete_memWf (op : Nat) (s : State) (h : s.mem.wf = true) : (execEqOpComplete op s).memWf := by
  unfold execEqOpComplete
  split
  · simp [h]
  · split <;> simp [h]

theorem State.reset_mem : State.reset.mem = [] := rfl

@[simp] theorem State.unpowered_wf (s : State) (powered : Bool) : (s.unpowered powered).mem.wf = true := by
  change Mem.wf State.reset.mem = true
  rw [State.reset_mem]
  rfl

@[simp] theorem execModulePowerLoss_memWf (s : State) : (execModulePowerLoss s).memWf := by
  simp [execModulePowerLoss]

@[simp] theorem execPowerOn_memWf (s : State) (h : s.mem.wf = true) : (execPowerOn s).memWf := by
  unfold execPowerOn
  split <;> simp [h]

end Sys2Proof.Machine
end

section
/-! Device memory keeps its canonical form: bring-up, the pads, the V and S pipes; every instruction and every step of a unit. -/

namespace Sys2Proof.Machine

@[simp] theorem State.startSelfTest_mem (s : State) : (s.startSelfTest).mem = s.mem := by
  simp [State.startSelfTest]

@[simp] theorem State.endSelfTest_mem (s : State) : (s.endSelfTest).mem = s.mem := by
  simp [State.endSelfTest]

@[simp] theorem State.selfTest_wf (s : State) (h : s.mem.wf = true) : (s.selfTest).mem.wf = true := by
  unfold State.selfTest
  simp [State.physWriteN_wf, h]

@[simp] theorem atMemory_memWf (pa : Nat) (k : Nat → Out) (hk : ∀ x0, (k x0).memWf) : (atMemory pa k).memWf := by
  simp [atMemory, *]

@[simp] theorem afterAccess_memWf {α : Type} (x : Access α) (s : State) (h : Access.memWf x) (h1 : s.mem.wf = true) : (afterAccess x s).memWf := by
  unfold afterAccess
  split
  · assumption
  · rw [Out.memWf_next]
    apply State.tagFault_wf
    assumption
  · simp [h1]

@[simp] theorem execSectorRead_memWf (ctx : Nat) (enc : Bool) (pa : Nat) (s : State) (h : s.mem.wf = true) :
    (execSectorRead ctx enc pa s).memWf := by
  unfold execSectorRead
  apply atMemory_memWf
  simp [h]

@[simp] theorem execSectorWrite_memWf (ctx : Nat) (enc : Bool) (pa : Nat) (bytes : List (BitVec 8)) (s : State) (h : s.mem.wf = true) :
    (execSectorWrite ctx enc pa bytes s).memWf := by
  unfold execSectorWrite
  apply atMemory_memWf
  simp [h]

@[simp] theorem execPatrolScrub_memWf (pa : Nat) (s : State) (h : s.mem.wf = true) : (execPatrolScrub pa s).memWf := by
  simp [execPatrolScrub, h]

@[simp] theorem execMemorySymbolError_memWf (pa symbols : Nat) (s : State) (h : s.mem.wf = true) : (execMemorySymbolError pa symbols s).memWf := by
  simp [execMemorySymbolError, h]

@[simp] theorem execRefreshManagement_memWf (ch row : Nat) (s : State) (h : s.mem.wf = true) : (execRefreshManagement ch row s).memWf := by
  simp [execRefreshManagement, h]

@[simp] theorem execRefreshManagementDone_memWf (ch : Nat) (s : State) (h : s.mem.wf = true) : (execRefreshManagementDone ch s).memWf := by
  simp [execRefreshManagementDone, h]

@[simp] theorem execRefreshWindowEnd_memWf (ch : Nat) (s : State) (h : s.mem.wf = true) : (execRefreshWindowEnd ch s).memWf := by
  simp [execRefreshWindowEnd, h]

@[simp] theorem execPadSoftError_memWf (pad : PadId) (off bits : Nat) (s : State) (h : s.mem.wf = true) :
    (execPadSoftError pad off bits s).memWf := by
  unfold execPadSoftError
  split
  · simp [h]
  · split <;> simp [h]

@[simp] theorem execWindowAccessArrival_memWf (cid : Nat) (acc : WindowAccess) (s : State) (h : s.mem.wf = true) :
    (execWindowAccessArrival cid acc s).memWf := by
  unfold execWindowAccessArrival
  split
  · simp [h]
  · simp [h]
  · rename_i x x1 x2 he he1
    split
    · rename_i x3 x4 x5 t x6 x7 he2 he3
      have ht := Access.wf_of_ok he2 (by simp [h])
      simp [ht]
    · simp [h]

@[simp] theorem execLandingDataReturn_memWf (cid id : Nat) (s : State) (h : s.mem.wf = true) : (execLandingDataReturn cid id s).memWf := by
  simp [execLandingDataReturn, h]

@[simp] theorem execFetchComplete_memWf (cid : Nat) (s : State) (h : s.mem.wf = true) : (execFetchComplete cid s).memWf := by
  simp [execFetchComplete, h]

@[simp] theorem State.awaitPage_mem (s : State) (p : Core → Bool) (again : Instr) : (s.awaitPage p again).mem = s.mem := by
  simp [State.awaitPage]

@[simp] theorem execPageWalkDone_memWf (die ctx : Nat) (va : DWord) (s : State) (h : s.mem.wf = true) : (execPageWalkDone die ctx va s).memWf := by
  unfold execPageWalkDone
  dsimp only
  split
  · simp [h]
  · simp [h]
  · simp [h]
  · rename_i x x1 x2 x3 he
    split
    · rename_i x4 x5 t he1
      have ht := wf_of_snd he1 (by simp [h])
      simp [ht]
    · rename_i x4 t he1
      have ht := wf_of_snd he1 (by simp [h])
      simp [ht]

@[simp] theorem execShadowCopyDone_memWf (l page : Nat) (s : State) (h : s.mem.wf = true) : (execShadowCopyDone l page s).memWf := by
  unfold execShadowCopyDone
  split
  · simp [h]
  · rename_i x x1 x2 x3 he
    split
    · split
      · dsimp only
        split
        · simp [h]
        · rename_i hc
          split
          · rename_i x4 x5 t he3
            have ht := Access.wf_of_ok he3 (by simp [h])
            simp [ht]
          · rename_i x4 t he3
            have ht := Access.wf_of_ok he3 (by simp [h])
            simp [ht]
          · rename_i x4 x5 x6 t he3
            have ht : t.mem.wf = true := Access.wf_of_error he3 (by simp [h])
            simp [ht]
          · rename_i x4 e hc1 he3
            have ht := Access.wf_of_error he3 (by simp [h])
            simp [ht]
      · rename_i hc
        dsimp only
        split
        · simp [h]
        · split
          · rename_i x4 x5 t he2
            have ht := Access.wf_of_ok he2 (by simp [h])
            simp [ht]
          · rename_i x4 t he2
            have ht := Access.wf_of_ok he2 (by simp [h])
            simp [ht]
          · rename_i x4 x5 x6 t he2
            have ht : t.mem.wf = true := Access.wf_of_error he2 (by simp [h])
            simp [ht]
          · rename_i x4 e hc2 he2
            have ht := Access.wf_of_error he2 (by simp [h])
            simp [ht]
    · rename_i hc
      split
      · dsimp only
        split
        · simp [h]
        · split
          · rename_i x4 x5 t he2
            have ht := Access.wf_of_ok he2 (by simp [h])
            simp [ht]
          · rename_i x4 t he2
            have ht := Access.wf_of_ok he2 (by simp [h])
            simp [ht]
          · rename_i x4 x5 x6 t he2
            have ht : t.mem.wf = true := Access.wf_of_error he2 (by simp [h])
            simp [ht]
          · rename_i x4 e hc2 he2
            have ht := Access.wf_of_error he2 (by simp [h])
            simp [ht]
      · dsimp only
        split
        · simp [h]
        · split
          · rename_i x4 x5 t he1
            have ht := Access.wf_of_ok he1 (by simp [h])
            simp [ht]
          · rename_i x4 t he1
            have ht := Access.wf_of_ok he1 (by simp [h])
            simp [ht]
          · rename_i x4 x5 x6 t he1
            have ht : t.mem.wf = true := Access.wf_of_error he1 (by simp [h])
            simp [ht]
          · rename_i x4 e hc3 he1
            have ht := Access.wf_of_error he1 (by simp [h])
            simp [ht]

@[simp] theorem State.configure_memWf (s : State) (n v : Nat) (h : s.mem.wf = true) : (s.configure n v).memWf := by
  simp [State.configure, h]

@[simp] theorem execSlen_memWf (m : BitVec 5) (s : State) (h : s.mem.wf = true) : (execSlen m s).memWf := by
  simp [execSlen, h]

@[simp] theorem execSprof_memWf (p : BitVec 8) (s : State) (h : s.mem.wf = true) : (execSprof p s).memWf := by
  simp [execSprof, h]

@[simp] theorem execSseed_memWf (x : BitVec 1) (r : BitVec 5) (s : State) (h : s.mem.wf = true) : (execSseed x r s).memWf := by
  simp [execSseed, h]

@[simp] theorem execSmode_memWf (r : BitVec 5) (s : State) (h : s.mem.wf = true) : (execSmode r s).memWf := by
  simp [execSmode, h]

@[simp] theorem execNtset_memWf (n : BitVec 3) (w r : BitVec 5) (s : State) (h : s.mem.wf = true) : (execNtset n w r s).memWf := by
  simp [execNtset, h]

@[simp] theorem execNtclr_memWf (n : BitVec 3) (s : State) (h : s.mem.wf = true) : (execNtclr n s).memWf := by
  simp [execNtclr, h]

@[simp] theorem execSebnd_memWf (v : BitVec 6) (s : State) (h : s.mem.wf = true) : (execSebnd v s).memWf := by
  simp [execSebnd, h]

@[simp] theorem scalarOp_memWf (lat : Nat) (f : Word → Word → Word) (d : BitVec 6) (w : BitVec 1) (a b : BitVec 6) (s : State)
    (h : s.mem.wf = true) : (scalarOp lat f d w a b s).memWf := by
  simp [scalarOp, h]

@[simp] theorem immOp_memWf (f : Word → Word → Word) (d : BitVec 6) (w : BitVec 1) (a : BitVec 6) (y : Word) (s : State) (h : s.mem.wf = true) :
    (immOp f d w a y s).memWf := by
  simp [immOp, h]

@[simp] theorem divOp_memWf (f : Word → Word → Word) (d : BitVec 6) (w : BitVec 1) (a b : BitVec 6) (s : State) (h : s.mem.wf = true) :
    (divOp f d w a b s).memWf := by
  simp [divOp, h]

@[simp] theorem execSadd_memWf (d : BitVec 6) (w : BitVec 1) (a b : BitVec 6) (s : State) (h : s.mem.wf = true) : (execSadd d w a b s).memWf := by
  simp [execSadd, h]

@[simp] theorem execSsub_memWf (d : BitVec 6) (w : BitVec 1) (a b : BitVec 6) (s : State) (h : s.mem.wf = true) : (execSsub d w a b s).memWf := by
  simp [execSsub, h]

@[simp] theorem execSmul_memWf (d : BitVec 6) (w : BitVec 1) (a b : BitVec 6) (s : State) (h : s.mem.wf = true) : (execSmul d w a b s).memWf := by
  simp [execSmul, h]

@[simp] theorem execSmulh_memWf (d : BitVec 6) (w : BitVec 1) (a b : BitVec 6) (s : State) (h : s.mem.wf = true) : (execSmulh d w a b s).memWf := by
  simp [execSmulh, h]

@[simp] theorem execSmulhu_memWf (d : BitVec 6) (w : BitVec 1) (a b : BitVec 6) (s : State) (h : s.mem.wf = true) :
    (execSmulhu d w a b s).memWf := by
  simp [execSmulhu, h]

@[simp] theorem execSdiv_memWf (d : BitVec 6) (w : BitVec 1) (a b : BitVec 6) (s : State) (h : s.mem.wf = true) : (execSdiv d w a b s).memWf := by
  simp [execSdiv, h]

@[simp] theorem execSdivu_memWf (d : BitVec 6) (w : BitVec 1) (a b : BitVec 6) (s : State) (h : s.mem.wf = true) : (execSdivu d w a b s).memWf := by
  simp [execSdivu, h]

@[simp] theorem execSrem_memWf (d : BitVec 6) (w : BitVec 1) (a b : BitVec 6) (s : State) (h : s.mem.wf = true) : (execSrem d w a b s).memWf := by
  simp [execSrem, h]

@[simp] theorem execSremu_memWf (d : BitVec 6) (w : BitVec 1) (a b : BitVec 6) (s : State) (h : s.mem.wf = true) : (execSremu d w a b s).memWf := by
  simp [execSremu, h]

@[simp] theorem execSand_memWf (d : BitVec 6) (w : BitVec 1) (a b : BitVec 6) (s : State) (h : s.mem.wf = true) : (execSand d w a b s).memWf := by
  simp [execSand, h]

@[simp] theorem execSor_memWf (d : BitVec 6) (w : BitVec 1) (a b : BitVec 6) (s : State) (h : s.mem.wf = true) : (execSor d w a b s).memWf := by
  simp [execSor, h]

@[simp] theorem execSxor_memWf (d : BitVec 6) (w : BitVec 1) (a b : BitVec 6) (s : State) (h : s.mem.wf = true) : (execSxor d w a b s).memWf := by
  simp [execSxor, h]

@[simp] theorem execSshl_memWf (d : BitVec 6) (w : BitVec 1) (a b : BitVec 6) (s : State) (h : s.mem.wf = true) : (execSshl d w a b s).memWf := by
  simp [execSshl, h]

@[simp] theorem execSshr_memWf (d : BitVec 6) (w : BitVec 1) (a b : BitVec 6) (s : State) (h : s.mem.wf = true) : (execSshr d w a b s).memWf := by
  simp [execSshr, h]

@[simp] theorem execSsra_memWf (d : BitVec 6) (w : BitVec 1) (a b : BitVec 6) (s : State) (h : s.mem.wf = true) : (execSsra d w a b s).memWf := by
  simp [execSsra, h]

@[simp] theorem execSmin_memWf (d : BitVec 6) (w : BitVec 1) (a b : BitVec 6) (s : State) (h : s.mem.wf = true) : (execSmin d w a b s).memWf := by
  simp [execSmin, h]

@[simp] theorem execSmax_memWf (d : BitVec 6) (w : BitVec 1) (a b : BitVec 6) (s : State) (h : s.mem.wf = true) : (execSmax d w a b s).memWf := by
  simp [execSmax, h]

@[simp] theorem execSminu_memWf (d : BitVec 6) (w : BitVec 1) (a b : BitVec 6) (s : State) (h : s.mem.wf = true) : (execSminu d w a b s).memWf := by
  simp [execSminu, h]

@[simp] theorem execSmaxu_memWf (d : BitVec 6) (w : BitVec 1) (a b : BitVec 6) (s : State) (h : s.mem.wf = true) : (execSmaxu d w a b s).memWf := by
  simp [execSmaxu, h]

@[simp] theorem execSclz_memWf (d : BitVec 6) (w : BitVec 1) (a : BitVec 6) (s : State) (h : s.mem.wf = true) : (execSclz d w a s).memWf := by
  simp [execSclz, h]

@[simp] theorem execSpopc_memWf (d : BitVec 6) (w : BitVec 1) (a : BitVec 6) (s : State) (h : s.mem.wf = true) : (execSpopc d w a s).memWf := by
  simp [execSpopc, h]

@[simp] theorem execSaddi_memWf (d : BitVec 6) (w : BitVec 1) (a : BitVec 6) (i : BitVec 10) (s : State) (h : s.mem.wf = true) :
    (execSaddi d w a i s).memWf := by
  simp [execSaddi, h]

@[simp] theorem execSandi_memWf (d : BitVec 6) (w : BitVec 1) (a : BitVec 6) (i : BitVec 10) (s : State) (h : s.mem.wf = true) :
    (execSandi d w a i s).memWf := by
  simp [execSandi, h]

@[simp] theorem execSori_memWf (d : BitVec 6) (w : BitVec 1) (a : BitVec 6) (i : BitVec 10) (s : State) (h : s.mem.wf = true) :
    (execSori d w a i s).memWf := by
  simp [execSori, h]

@[simp] theorem execSxori_memWf (d : BitVec 6) (w : BitVec 1) (a : BitVec 6) (i : BitVec 10) (s : State) (h : s.mem.wf = true) :
    (execSxori d w a i s).memWf := by
  simp [execSxori, h]

@[simp] theorem execSshli_memWf (d : BitVec 6) (w : BitVec 1) (a : BitVec 6) (i : BitVec 5) (s : State) (h : s.mem.wf = true) :
    (execSshli d w a i s).memWf := by
  simp [execSshli, h]

@[simp] theorem execSshri_memWf (d : BitVec 6) (w : BitVec 1) (a : BitVec 6) (i : BitVec 5) (s : State) (h : s.mem.wf = true) :
    (execSshri d w a i s).memWf := by
  simp [execSshri, h]

@[simp] theorem execSsrai_memWf (d : BitVec 6) (w : BitVec 1) (a : BitVec 6) (i : BitVec 5) (s : State) (h : s.mem.wf = true) :
    (execSsrai d w a i s).memWf := by
  simp [execSsrai, h]

@[simp] theorem execSli_memWf (d : BitVec 6) (w : BitVec 1) (i : BitVec 18) (s : State) (h : s.mem.wf = true) : (execSli d w i s).memWf := by
  simp [execSli, h]

@[simp] theorem execSlui_memWf (d : BitVec 6) (w : BitVec 1) (i : BitVec 18) (s : State) (h : s.mem.wf = true) : (execSlui d w i s).memWf := by
  simp [execSlui, h]

@[simp] theorem execScmpCc_memWf (d : BitVec 6) (w : BitVec 1) (a b : BitVec 6) (k : BitVec 4) (s : State) (h : s.mem.wf = true) :
    (execScmpCc d w a b k s).memWf := by
  simp [execScmpCc, h]

@[simp] theorem execScmpiCc_memWf (d : BitVec 6) (w : BitVec 1) (a i : BitVec 6) (k : BitVec 4) (s : State) (h : s.mem.wf = true) :
    (execScmpiCc d w a i k s).memWf := by
  simp [execScmpiCc, h]

@[simp] theorem execSsel_memWf (d : BitVec 6) (w : BitVec 1) (a b e : BitVec 6) (s : State) (h : s.mem.wf = true) :
    (execSsel d w a b e s).memWf := by
  simp [execSsel, h]

@[simp] theorem vint2_memWf (lat : Nat) (f : Word → Word → Word) (d : BitVec 6) (w : BitVec 1) (a b : BitVec 6) (s : State) (h : s.mem.wf = true) :
    (vint2 lat f d w a b s).memWf := by
  simp [vint2, h]

@[simp] theorem vintT_memWf (t : BitVec 2) (f : Nat → Nat → Nat → Nat) (d : BitVec 6) (w : BitVec 1) (a b : BitVec 6) (s : State)
    (h : s.mem.wf = true) : (vintT t f d w a b s).memWf := by
  simp [vintT, h]

@[simp] theorem execViadd_memWf (d : BitVec 6) (w : BitVec 1) (a b : BitVec 6) (z : BitVec 1) (t : BitVec 2) (s : State) (h : s.mem.wf = true) :
    (execViadd d w a b z t s).memWf := by
  simp [execViadd, h]

@[simp] theorem execVisub_memWf (d : BitVec 6) (w : BitVec 1) (a b : BitVec 6) (z : BitVec 1) (t : BitVec 2) (s : State) (h : s.mem.wf = true) :
    (execVisub d w a b z t s).memWf := by
  simp [execVisub, h]

@[simp] theorem execVimul_memWf (d : BitVec 6) (w : BitVec 1) (a b : BitVec 6) (z : BitVec 1) (t : BitVec 2) (s : State) (h : s.mem.wf = true) :
    (execVimul d w a b z t s).memWf := by
  simp [execVimul, h]

@[simp] theorem execVimin_memWf (d : BitVec 6) (w : BitVec 1) (a b : BitVec 6) (t : BitVec 2) (s : State) (h : s.mem.wf = true) :
    (execVimin d w a b t s).memWf := by
  simp [execVimin, h]

@[simp] theorem execVimax_memWf (d : BitVec 6) (w : BitVec 1) (a b : BitVec 6) (t : BitVec 2) (s : State) (h : s.mem.wf = true) :
    (execVimax d w a b t s).memWf := by
  simp [execVimax, h]

@[simp] theorem execVand_memWf (d : BitVec 6) (w : BitVec 1) (a b : BitVec 6) (s : State) (h : s.mem.wf = true) : (execVand d w a b s).memWf := by
  simp [execVand, h]

@[simp] theorem execVor_memWf (d : BitVec 6) (w : BitVec 1) (a b : BitVec 6) (s : State) (h : s.mem.wf = true) : (execVor d w a b s).memWf := by
  simp [execVor, h]

@[simp] theorem execVxor_memWf (d : BitVec 6) (w : BitVec 1) (a b : BitVec 6) (s : State) (h : s.mem.wf = true) : (execVxor d w a b s).memWf := by
  simp [execVxor, h]

@[simp] theorem execVshl_memWf (d : BitVec 6) (w : BitVec 1) (a b : BitVec 6) (t : BitVec 2) (s : State) (h : s.mem.wf = true) :
    (execVshl d w a b t s).memWf := by
  simp [execVshl, h]

@[simp] theorem execVshr_memWf (d : BitVec 6) (w : BitVec 1) (a b : BitVec 6) (t : BitVec 2) (s : State) (h : s.mem.wf = true) :
    (execVshr d w a b t s).memWf := by
  simp [execVshr, h]

@[simp] theorem execVsra_memWf (d : BitVec 6) (w : BitVec 1) (a b : BitVec 6) (t : BitVec 2) (s : State) (h : s.mem.wf = true) :
    (execVsra d w a b t s).memWf := by
  simp [execVsra, h]

@[simp] theorem execVhash_memWf (d : BitVec 6) (w : BitVec 1) (a b : BitVec 6) (s : State) (h : s.mem.wf = true) : (execVhash d w a b s).memWf := by
  simp [execVhash, h]

@[simp] theorem execVbcast_memWf (d : BitVec 6) (w : BitVec 1) (a : BitVec 6) (s : State) (h : s.mem.wf = true) : (execVbcast d w a s).memWf := by
  simp [execVbcast, h]

@[simp] theorem execVlane_memWf (d : BitVec 6) (w : BitVec 1) (a b : BitVec 6) (s : State) (h : s.mem.wf = true) : (execVlane d w a b s).memWf := by
  simp [execVlane, h]

@[simp] theorem execVperm_memWf (d : BitVec 6) (w : BitVec 1) (a b : BitVec 6) (s : State) (h : s.mem.wf = true) : (execVperm d w a b s).memWf := by
  simp [execVperm, h]

@[simp] theorem execXcopy_memWf (d : BitVec 6) (w : BitVec 1) (a : BitVec 6) (n : BitVec 3) (s : State) (h : s.mem.wf = true) :
    (execXcopy d w a n s).memWf := by
  simp [execXcopy, h]

@[simp] theorem vred_memWf (f : Word × Exc → Word × Exc → Word × Exc) (d : BitVec 6) (w : BitVec 1) (a : BitVec 6) (s : State)
    (h : s.mem.wf = true) : (vred f d w a s).memWf := by
  simp [vred, h]

@[simp] theorem execVredAddF32_memWf (d : BitVec 6) (w : BitVec 1) (a : BitVec 6) (s : State) (h : s.mem.wf = true) :
    (execVredAddF32 d w a s).memWf := by
  simp [execVredAddF32, h]

@[simp] theorem execVredMinF32_memWf (d : BitVec 6) (w : BitVec 1) (a : BitVec 6) (s : State) (h : s.mem.wf = true) :
    (execVredMinF32 d w a s).memWf := by
  simp [execVredMinF32, h]

@[simp] theorem execVredMaxF32_memWf (d : BitVec 6) (w : BitVec 1) (a : BitVec 6) (s : State) (h : s.mem.wf = true) :
    (execVredMaxF32 d w a s).memWf := by
  simp [execVredMaxF32, h]

@[simp] theorem execVredAddI32_memWf (d : BitVec 6) (w : BitVec 1) (a : BitVec 6) (s : State) (h : s.mem.wf = true) :
    (execVredAddI32 d w a s).memWf := by
  simp [execVredAddI32, h]

@[simp] theorem execVredMinI32_memWf (d : BitVec 6) (w : BitVec 1) (a : BitVec 6) (s : State) (h : s.mem.wf = true) :
    (execVredMinI32 d w a s).memWf := by
  simp [execVredMinI32, h]

@[simp] theorem execVredMaxI32_memWf (d : BitVec 6) (w : BitVec 1) (a : BitVec 6) (s : State) (h : s.mem.wf = true) :
    (execVredMaxI32 d w a s).memWf := by
  simp [execVredMaxI32, h]

@[simp] theorem execVcmpCc_memWf (d : BitVec 6) (w : BitVec 1) (a b : BitVec 6) (t : BitVec 2) (k : BitVec 4) (s : State) (h : s.mem.wf = true) :
    (execVcmpCc d w a b t k s).memWf := by
  simp [execVcmpCc, h]

@[simp] theorem execVsel_memWf (d : BitVec 6) (w : BitVec 1) (a b : BitVec 6) (m : BitVec 3) (s : State) (h : s.mem.wf = true) :
    (execVsel d w a b m s).memWf := by
  simp [execVsel, h]

@[simp] theorem maskOp_memWf (f : BitVec 128 → BitVec 128 → BitVec 128) (d : BitVec 6) (w : BitVec 1) (a b : BitVec 6) (s : State)
    (h : s.mem.wf = true) : (maskOp f d w a b s).memWf := by
  simp [maskOp, h]

@[simp] theorem execKand_memWf (d : BitVec 6) (w : BitVec 1) (a b : BitVec 6) (s : State) (h : s.mem.wf = true) : (execKand d w a b s).memWf := by
  simp [execKand, h]

@[simp] theorem execKor_memWf (d : BitVec 6) (w : BitVec 1) (a b : BitVec 6) (s : State) (h : s.mem.wf = true) : (execKor d w a b s).memWf := by
  simp [execKor, h]

@[simp] theorem execKnot_memWf (d : BitVec 6) (w : BitVec 1) (a : BitVec 6) (s : State) (h : s.mem.wf = true) : (execKnot d w a s).memWf := by
  simp [execKnot, h]

@[simp] theorem execKcnt_memWf (d : BitVec 6) (w : BitVec 1) (a : BitVec 6) (s : State) (h : s.mem.wf = true) : (execKcnt d w a s).memWf := by
  simp [execKcnt, h]

@[simp] theorem State.setQueue_mem (s : State) (q : BitVec 2) (c : CQueue) : (s.setQueue q c).mem = s.mem := by
  simp [State.setQueue]

@[simp] theorem State.onQueue_memWf (s : State) (q : BitVec 6) (k : BitVec 2 → CQueue → Out) (h : s.mem.wf = true) (hk : ∀ x0 x1, (k x0 x1).memWf) :
    (s.onQueue q k).memWf := by
  simp [State.onQueue, h, hk]

@[simp] theorem execVpushcCfg_memWf (q a : BitVec 6) (s : State) (h : s.mem.wf = true) : (execVpushcCfg q a s).memWf := by
  unfold execVpushcCfg
  dsimp only
  apply State.onQueue_memWf <;> simp [h]

@[simp] theorem State.pushLane_mem (s : State) (n : BitVec 2) (r : List Byte) : (s.pushLane n r).mem = s.mem := by
  simp [State.pushLane]

@[simp] theorem execVpushc_memWf (q a : BitVec 6) (k : BitVec 3) (s : State) (h : s.mem.wf = true) : (execVpushc q a k s).memWf := by
  unfold execVpushc
  dsimp only
  apply State.onQueue_memWf <;> simp [h]

@[simp] theorem execVpopc_memWf (d : BitVec 6) (w : BitVec 1) (q : BitVec 6) (k : BitVec 3) (s : State) (h : s.mem.wf = true) :
    (execVpopc d w q k s).memWf := by
  unfold execVpopc
  simp +contextual [h]

@[simp] theorem execVqcnt_memWf (d : BitVec 6) (w : BitVec 1) (q : BitVec 6) (s : State) (h : s.mem.wf = true) : (execVqcnt d w q s).memWf := by
  simp [execVqcnt, h]

@[simp] theorem execVqbal_memWf (q : BitVec 6) (s : State) (h : s.mem.wf = true) : (execVqbal q s).memWf := by
  simp [execVqbal, h]

@[simp] theorem execVqbalComplete_memWf (cid : Nat) (s : State) (h : s.mem.wf = true) : (execVqbalComplete cid s).memWf := by
  simp [execVqbalComplete, h]

@[simp] theorem vspecial_memWf (f : FVal → FRes) (d : BitVec 6) (w : BitVec 1) (a : BitVec 6) (s : State) (h : s.mem.wf = true) :
    (vspecial f d w a s).memWf := by
  simp [vspecial, h]

@[simp] theorem execVexp2_memWf (d : BitVec 6) (w : BitVec 1) (a : BitVec 6) (s : State) (h : s.mem.wf = true) : (execVexp2 d w a s).memWf := by
  simp [execVexp2, h]

@[simp] theorem execVlog2_memWf (d : BitVec 6) (w : BitVec 1) (a : BitVec 6) (s : State) (h : s.mem.wf = true) : (execVlog2 d w a s).memWf := by
  simp [execVlog2, h]

@[simp] theorem execVrcp_memWf (d : BitVec 6) (w : BitVec 1) (a : BitVec 6) (s : State) (h : s.mem.wf = true) : (execVrcp d w a s).memWf := by
  simp [execVrcp, h]

@[simp] theorem execVrsq_memWf (d : BitVec 6) (w : BitVec 1) (a : BitVec 6) (s : State) (h : s.mem.wf = true) : (execVrsq d w a s).memWf := by
  simp [execVrsq, h]

@[simp] theorem State.stageDone_wf (s : State) (n : Nat) (h : s.mem.wf = true) : (s.stageDone n).mem.wf = true := by
  unfold State.stageDone
  split
  · simp [h]
  · rfl
  · simp [h]
  · simp [h]
  · simp [h]

@[simp] theorem execBringUpStageDone_memWf (ok : Bool) (s : State) (h : s.mem.wf = true) : (execBringUpStageDone ok s).memWf := by
  unfold execBringUpStageDone
  simp [h]

/-- Every instruction and every step of a unit keeps device memory in canonical form. -/
@[simp] theorem exec_memWf (i : Instr) (s : State) (h : s.mem.wf = true) : Out.memWf (exec i s) := by
  unfold exec
  cases i <;> simp [h]

end Sys2Proof.Machine
end

section
/-! Device memory keeps its canonical form: what leaves a core, fetch, issue, gangs, one turn. -/

namespace Sys2Proof.Machine

@[simp] theorem State.left_mem (s : State) (seq : Nat) : (s.left seq).mem = s.mem := by
  simp [State.left]

@[simp] theorem State.egressRead_wf (s : State) (src : DWord) (len : Nat) (pc : DWord) (k : List PByte → State → State) (h : s.mem.wf = true)
    (hk : ∀ x0 t, t.mem.wf = true → (k x0 t).mem.wf = true) : (s.egressRead src len pc k).mem.wf = true := by
  unfold State.egressRead
  dsimp only
  split
  · rename_i x x1 t he
    have ht := Access.wf_of_ok he (by simp [h])
    simp [hk, ht]
  · rename_i x x1 x2 x3 x4 t he
    have ht : t.mem.wf = true := Access.wf_of_error he (by simp [h])
    simp [ht]
  · rename_i x x1 t he
    have ht : t.mem.wf = true := Access.wf_of_error he (by simp [h])
    simp [ht]
  · rename_i x t he
    have ht : t.mem.wf = true := Access.wf_of_error he (by simp [h])
    simp [ht]
  · rename_i x x1 x2 t he
    have ht : t.mem.wf = true := Access.wf_of_error he (by simp [h])
    simp [ht]
  · rename_i x x1 t he
    have ht : t.mem.wf = true := Access.wf_of_error he (by simp [h])
    simp [ht]

@[simp] theorem State.forGang_mem (s : State) (ms : List Nat) (f : Thread → Thread) : (s.forGang ms f).mem = s.mem := by
  simp [State.forGang]

@[simp] theorem State.each_mem (s : State) (f : Thread → Thread) : (s.each f).mem = s.mem := by
  simp [State.each]

@[simp] theorem State.focus_mem (s : State) (cid : Nat) : (s.focus cid).mem = s.mem := by
  simp [State.focus]

@[simp] theorem State.uncancelled_memWf (s : State) (o : Out) (h : s.mem.wf = true) (hk : o.memWf) : (s.uncancelled o).memWf := by
  unfold State.uncancelled
  split
  · simp [h, hk]
  · simp [hk]

@[simp] theorem State.word_memWf (s : State) (i : Instr) (h : s.mem.wf = true) : (s.word i).memWf := by
  simp [State.word, h]

@[simp] theorem State.tryLeave_wf (s : State) (h : s.mem.wf = true) : (s.tryLeave).mem.wf = true := by
  unfold State.tryLeave
  simp +contextual [h]

@[simp] theorem State.frozenCycle_mem (s : State) : (s.frozenCycle).mem = s.mem := by
  simp [State.frozenCycle]

@[simp] theorem State.noteIssue_mem (s : State) : (s.noteIssue).mem = s.mem := by
  simp [State.noteIssue]

@[simp] theorem State.atIssue_mem (s : State) (is : List Instr) (pcn : DWord) : (s.atIssue is pcn).mem = s.mem := by
  simp [State.atIssue]

@[simp] theorem State.illegal_memWf (s : State) (h : s.mem.wf = true) : (s.illegal).memWf := by
  simp [State.illegal, h]

@[simp] theorem State.trapAll_wf (s0 : State) (m : Nat) (s : State) (h : s0.mem.wf = true) (h1 : s.mem.wf = true) :
    (s0.trapAll m s).mem.wf = true := by
  simp [State.trapAll, *]

@[simp] theorem State.trapped_wf (s0 s : State) (h : s0.mem.wf = true) (h1 : s.mem.wf = true) : (s0.trapped s).mem.wf = true := by
  simp [State.trapped, *]

@[simp] theorem State.stopHere_mem (s : State) : (s.stopHere).mem = s.mem := by
  unfold State.stopHere
  dsimp only
  split <;> simp

@[simp] theorem State.takePending_wf (s : State) (m : Nat) (r : TrapRec) (h : s.mem.wf = true) : (s.takePending m r).mem.wf = true := by
  simp [State.takePending, h]

@[simp] theorem State.drainStep_wf (s : State) (h : s.mem.wf = true) : (s.drainStep).mem.wf = true := by
  simp [State.drainStep, h]

@[simp] theorem State.idleStep_mem (s : State) : (s.idleStep).mem = s.mem := by
  simp [State.idleStep]

@[simp] theorem State.endStep_mem (s : State) : (s.endStep).mem = s.mem := by
  simp [State.endStep]

@[simp] theorem State.endTurn_mem (s : State) : (s.endTurn).mem = s.mem := by
  simp [State.endTurn]

@[simp] theorem State.focusParked_mem (s : State) (j : Nat) : (s.focusParked j).mem = s.mem := by
  unfold State.focusParked
  split <;> simp

@[simp] theorem State.darkStep_memWf (s : State) (i : Instr) (h : s.mem.wf = true) : (s.darkStep i).memWf := by
  unfold State.darkStep
  split <;> simp [h]

/-! #### What leaves a core -/

theorem egressEnd_wf {α : Type} {pc : DWord} {x : Access α} {k : α → State → State} (h : x.memWf)
    (hk : ∀ a t, t.mem.wf = true → (k a t).mem.wf = true) : (egressEnd pc x k).mem.wf = true := by
  unfold egressEnd
  split
  case h_1 a t => exact hk a t h
  case h_2 c v t =>
    have ht : t.mem.wf = true := h
    simp [ht]
  case h_3 e _ => exact h

@[simp] theorem State.handOver_wf (s : State) (id : Option Nat) (bs : List (BitVec 8)) (h : s.mem.wf = true) :
    (s.handOver id bs).mem.wf = true := by
  unfold State.handOver
  dsimp only
  split
  case h_1 t he => exact Out.wf_of_next he (by simp [h])
  case h_2 => exact h

@[simp] theorem State.perform_wf (s : State) (e : Egress) (h : s.mem.wf = true) : (s.perform e).mem.wf = true := by
  have hl : (s.left e.seq).mem.wf = true := by simp [h]
  unfold State.perform
  dsimp only
  split
  · exact egressEnd_wf (State.readAll_memWf _ _ hl) fun a t ht => by simp [ht]
  · exact egressEnd_wf (State.writeAll_memWf _ _ _ _ hl) fun a t ht => ht
  · exact egressEnd_wf (State.amoDo_memWf _ _ _ _ _ _ _ hl) fun a t ht => by simp [ht]
  · exact hl
  · simp [h]
  · simp [h]
  · simp [h]
  · exact State.handOver_wf _ _ _ hl
  · simp [h]
  · exact State.egressRead_wf _ _ _ _ _ h fun bs t ht => by simp [ht]
  · exact State.egressRead_wf _ _ _ _ _ h fun bs t ht => by simp [ht]

@[simp] theorem State.egressStep_wf (s : State) (seq : Nat) (h : s.mem.wf = true) : (s.egressStep seq).mem.wf = true := by
  unfold State.egressStep
  dsimp only
  split
  · split <;> simp [h]
  · exact h

@[simp] theorem State.drain_wf (s : State) (h : s.mem.wf = true) : s.drain.mem.wf = true :=
  foldl_wf (p := fun t => t) (fun t b ht => State.egressStep_wf t b ht) _ h

/-! #### Fetch -/

/-- The answer of a fetch of one word has device memory in canonical form. -/
def Fetched.memWf : Fetched → Prop
  | .word _ s | .poisoned _ s => s.mem.wf = true
  | .packet _ => True
  | .stopped e => e.memWf

/-- The answer of a fetch of a bundle has device memory in canonical form. -/
def Bundle.memWf : Bundle → Prop
  | .words _ s | .poisoned _ _ s => s.mem.wf = true
  | .packet _ => True
  | .stopped _ e => e.memWf

theorem Bundle.cons_memWf (w : Word) (b : Bundle) (h : b.memWf) : (b.cons w).memWf := by
  cases b <;> exact h

theorem State.fetchWord_memWf (s : State) (pc : Nat) (h : s.mem.wf = true) : (s.fetchWord pc).memWf := by
  unfold State.fetchWord
  dsimp only
  split
  · split <;> exact h
  · split
    · have hr : Access.memWf (s.resolve s.me .x pc) := by simp [h]
      split
      case h_1 t he =>
        have ht : t.mem.wf = true := Access.wf_of_error he hr
        exact ht
      case h_2 e _ he => exact Access.wf_of_error he hr
      case h_3 loc t he =>
        have ht := Access.wf_of_ok he hr
        have hb : Access.memWf (t.readLoc loc 4 (BitVec.ofNat 64 pc)) := by simp [ht]
        split
        · exact ht
        · split
          case h_1 e he => exact Access.wf_of_error he hb
          case h_2 bs u he =>
            have hu := Access.wf_of_ok he hb
            split <;> exact hu
    · trivial

theorem State.fetchBundle_memWf (fuel : Nat) (s : State) (pc : Nat) (h : s.mem.wf = true) : (State.fetchBundle fuel s pc).memWf := by
  induction fuel generalizing s pc with
  | zero => exact h
  | succ n ih =>
    have hw := s.fetchWord_memWf pc h
    unfold State.fetchBundle
    generalize s.fetchWord pc = f at hw
    cases f with
    | word w t =>
      dsimp only
      split
      · exact Bundle.cons_memWf _ _ (ih t _ hw)
      · exact hw
    | poisoned o t => exact hw
    | packet k => trivial
    | stopped e => exact hw

/-! #### Issue -/

theorem onNext_memWf {o : Out} {f : State → State} (h : o.memWf) (hf : ∀ t, t.mem.wf = true → (f t).mem.wf = true) : (onNext o f).memWf := by
  cases o with
  | next t => exact hf t h
  | fault e => trivial
  | refused e => trivial

/-- A fold over words or members that may end early: what it ends with, and what it comes to, keep the form. -/
theorem foldlM_memWf {β σ : Type} {p : σ → State} {f : σ → β → Except Out σ}
    (herr : ∀ j x o, (p j).mem.wf = true → f j x = .error o → o.memWf)
    (hok : ∀ j x j', (p j).mem.wf = true → f j x = .ok j' → (p j').mem.wf = true) (l : List β) (j : σ) (h : (p j).mem.wf = true) :
    (∀ o, l.foldlM f j = .error o → o.memWf) ∧ ∀ j', l.foldlM f j = .ok j' → (p j').mem.wf = true := by
  induction l generalizing j with
  | nil =>
    refine ⟨fun o ho => ?_, fun j' hj => ?_⟩
    · cases ho
    · cases hj
      exact h
  | cons x l ih =>
    rw [List.foldlM_cons]
    cases hx : f j x with
    | error o =>
      refine ⟨fun o' ho => ?_, fun j' hj => ?_⟩
      · cases ho
        exact herr j x o h hx
      · cases hj
    | ok j' => exact ih j' (hok j x j' h hx)

theorem Judged.word_error {j : Judged} {x : Instr × Nat} {o : Out} (h : j.s.mem.wf = true) (ho : j.word x = .error o) : o.memWf := by
  have hw : (j.s.word x.1).memWf := by simp [h]
  unfold Judged.word at ho
  split at ho
  · split at ho <;> cases ho
  · cases ho
    exact hw

theorem Judged.word_ok {j j' : Judged} {x : Instr × Nat} (h : j.s.mem.wf = true) (hj : j.word x = .ok j') : j'.s.mem.wf = true := by
  unfold Judged.word at hj
  split at hj
  case h_1 t he =>
    have ht := Out.wf_of_next he (by simp [h])
    split at hj
    · cases hj
      split <;> exact h
    · cases hj
      split
      · simpa using h
      · exact ht
  case h_2 => cases hj

@[simp] theorem State.issueAll_memWf (s : State) (is : List Instr) (h : s.mem.wf = true) : (s.issueAll is).memWf := by
  unfold State.issueAll
  split
  · simp [h]
  · obtain ⟨herr, hok⟩ := foldlM_memWf (p := Judged.s) (fun _ _ _ hj ho => Judged.word_error hj ho) (fun _ _ _ hj ho => Judged.word_ok hj ho)
      (inPhases is) { s := s } h
    split
    case h_1 o he => exact herr o he
    case h_2 j he =>
      have hj := hok j he
      dsimp only
      split
      · split
        · simp [h]
        · split <;> simp [h]
      · simp [h]
      · exact hj

@[simp] theorem State.issueRep_memWf (s : State) (is : List Instr) (h : s.mem.wf = true) : (s.issueRep is).memWf := by
  have hi := s.issueAll_memWf is h
  unfold State.issueRep
  dsimp only
  split
  · split
    · split
      · exact State.issueAll_memWf _ _ (by simp [h])
      · exact hi
    · exact hi
  · exact hi

/-! #### The end of a bundle -/

/-- The answer of a read of a CKPT table has device memory in canonical form. -/
def CkptRead.memWf : CkptRead → Prop
  | .table _ s | .tag _ _ s | .malformed s | .paused s => s.mem.wf = true

theorem CkptRead.after_memWf {x : Access (List PByte)} {k : List PByte → State → CkptRead} (h : x.memWf)
    (hk : ∀ bs t, t.mem.wf = true → (k bs t).memWf) : (CkptRead.after x k).memWf := by
  unfold CkptRead.after
  split
  case h_1 bs t =>
    split
    · exact h
    · exact hk bs t h
  case h_2 => exact h
  case h_3 => exact h
  case h_4 => exact h

theorem State.ckptTable_memWf (s : State) (cid : Nat) (a : DWord) (h : s.mem.wf = true) : (s.ckptTable cid a).memWf := by
  unfold State.ckptTable
  split
  · exact h
  · refine CkptRead.after_memWf (by simp [h]) fun bs t ht => ?_
    dsimp only
    split
    · exact ht
    · refine CkptRead.after_memWf (by simp [ht]) fun bs u hu => ?_
      split <;> exact hu

@[simp] theorem State.ckptStop_wf (s0 s : State) (h0 : s0.mem.wf = true) (h : s.mem.wf = true) : (State.ckptStop s0 s).mem.wf = true := by
  unfold State.ckptStop
  split
  · exact h
  · rename_i a _
    have hs : (if s.core.t.gang then s0 else s.each fun t => { t with ckpt := none }).mem.wf = true := by
      split
      · exact h0
      · simpa using h
    dsimp only
    generalize (if s.core.t.gang then s0 else s.each fun t => { t with ckpt := none }) = u at hs ⊢
    have hc := u.ckptTable_memWf u.core.cid a hs
    generalize u.ckptTable u.core.cid a = r at hc
    cases r with
    | table tab t =>
      have ht : t.mem.wf = true := hc
      simp [ht]
    | tag c v t =>
      have ht : t.mem.wf = true := hc
      simp [ht]
    | malformed t =>
      have ht : t.mem.wf = true := hc
      simp [ht]
    | paused t => simp [h0]

@[simp] theorem State.retire_wf (s0 : State) (pcn : DWord) (s : State) (h0 : s0.mem.wf = true) (h : s.mem.wf = true) :
    (s0.retire pcn s).mem.wf = true := by
  unfold State.retire
  split
  · simp [h]
  · split
    · simp [h]
    · exact State.ckptStop_wf _ _ h0 (State.tryLeave_wf _ (by simp [h]))

@[simp] theorem State.soloBundle_memWf (s : State) (ws : List Word) (h : s.mem.wf = true) : (s.soloBundle ws).memWf := by
  unfold State.soloBundle
  dsimp only
  split
  · exact onNext_memWf (by simp [h]) fun t ht => State.retire_wf _ _ _ h ht
  · exact onNext_memWf (by simp [h]) fun t ht => State.retire_wf _ _ _ h ht

/-! #### Gangs -/

theorem GangRun.member_error {is : List Instr} {g : GangRun} {m : Nat} {o : Out} (h : g.s.mem.wf = true) (ho : GangRun.member is g m = .error o) :
    o.memWf := by
  have hw : ((g.s.focus m).issueAll is).memWf := by simp [h]
  unfold GangRun.member at ho
  split at ho
  · cases ho
  · cases ho
    exact hw

theorem GangRun.member_ok {is : List Instr} {g g' : GangRun} {m : Nat} (h : g.s.mem.wf = true) (hg : GangRun.member is g m = .ok g') :
    g'.s.mem.wf = true := by
  unfold GangRun.member at hg
  split at hg
  case h_1 t he =>
    have ht := Out.wf_of_next he (by simp [h])
    cases hg
    split
    · exact h
    · split
      · exact h
      · exact ht
  case h_2 => cases hg

@[simp] theorem State.gangHeld_wf (s : State) (is : List Instr) (g : GangRun) (h : s.mem.wf = true) : (s.gangHeld is g).mem.wf = true := by
  unfold State.gangHeld
  dsimp only
  refine foldl_wf (p := fun t => t) (fun t m ht => ?_) _ ?_
  · have hi : ((t.focus m).issueAll is).memWf := by simp [ht]
    rw [State.focus_mem, State.mapT_mem]
    change Mem.wf (State.mem (if _ then _ else _)) = true
    split
    · split
      case h_1 u he => exact Out.wf_of_next he hi
      case h_2 => simpa using ht
    · simpa using ht
  · refine foldl_wf (p := fun t => t) (fun t x ht => ?_) _ h
    simpa using ht

@[simp] theorem State.gangIssue_memWf (s : State) (is : List Instr) (pcn : DWord) (h : s.mem.wf = true) : (s.gangIssue is pcn).memWf := by
  obtain ⟨herr, hok⟩ := foldlM_memWf (p := GangRun.s) (fun _ _ _ hg ho => GangRun.member_error hg ho) (fun _ _ _ hg ho => GangRun.member_ok hg ho)
    s.members { s := s } h
  unfold State.gangIssue
  dsimp only
  split
  case h_1 o he => exact herr o he
  case h_2 g he =>
    have hg := hok g he
    split
    · exact onNext_memWf (by simp [h]) fun t ht => State.trapAll_wf _ _ _ h ht
    · split
      · exact State.ckptStop_wf _ _ h (State.tryLeave_wf _ (by simp [hg]))
      · exact State.gangHeld_wf _ _ _ h

@[simp] theorem State.gangBundle_memWf (s : State) (ws : List Word) (h : s.mem.wf = true) : (s.gangBundle ws).memWf := by
  unfold State.gangBundle
  dsimp only
  split
  · exact onNext_memWf (by simp [h]) fun t ht => State.trapAll_wf _ _ _ (by simp [h]) ht
  · exact State.gangIssue_memWf _ _ _ (foldl_wf (p := fun t => t) (fun t x ht => by simp [ht]) _ (by simp [h]))

/-! #### One turn -/

theorem State.noBundle_memWf (s : State) (b : Bundle) (h : s.mem.wf = true) (hb : b.memWf) : (s.noBundle b).memWf := by
  cases b with
  | words ws t => exact hb
  | poisoned ws o t =>
    have ht : t.mem.wf = true := hb
    exact onNext_memWf (by split <;> simp [ht]) fun u hu => State.trapped_wf _ _ ht hu
  | packet k => simp [State.noBundle, h]
  | stopped ws e =>
    have he : e.state.mem.wf = true := hb
    unfold State.noBundle
    dsimp only
    split
    · exact onNext_memWf (by simp [he]) fun u hu => State.trapped_wf _ _ he hu
    · refine onNext_memWf ?_ fun u hu => ?_
      · split
        case h_1 r c v o t _ =>
          have ht : t.mem.wf = true := hb
          simp [ht]
        case h_2 => exact Stop.out_memWf _ hb
      · split
        · exact State.trapped_wf _ _ he hu
        · simpa using hu

@[simp] theorem State.run_memWf (s : State) (h : s.mem.wf = true) : s.run.memWf := by
  unfold State.run
  split
  · exact h
  · split
    · simp [h]
    · simp only [Out.memWf_ite, Out.memWf_next]
      refine ⟨fun _ => by simp [h], fun _ => ⟨fun _ => by simp [h], fun _ => ⟨fun _ => by simp [h], fun _ => ⟨fun _ => by simp [h],
        fun _ => ⟨fun _ => by simp [h], fun _ => ⟨fun _ => by simp [h], fun _ => ?_⟩⟩⟩⟩⟩⟩
      have hs : (s.each Thread.settle).mem.wf = true := by simp [h]
      have hb := State.fetchBundle_memWf 4 _ (s.each Thread.settle).core.t.pc.toNat hs
      generalize State.fetchBundle 4 (s.each Thread.settle) (s.each Thread.settle).core.t.pc.toNat = b at hb
      split
      case h_1 ws t =>
        have ht : t.mem.wf = true := hb
        split <;> simp [ht]
      case h_2 => exact State.noBundle_memWf _ _ hs hb

@[simp] theorem State.coreStep_memWf (s : State) (h : s.mem.wf = true) : s.coreStep.memWf := by
  have hd := s.drain_wf h
  unfold State.coreStep
  dsimp only
  split
  · exact h
  · split
    · exact hd
    · split
      · split
        · exact hd
        · split
          · simpa using hd
          · simp [hd]
      · simp [hd]
      · simp [hd]
      · simp [hd]
      · simp [hd]

theorem State.pull_mem {s t : State} {k : Nat} {i : Instr} (h : s.pull k = some (i, t)) : t.mem = s.mem := by
  unfold State.pull at h
  split at h
  · cases h
  · dsimp only at h
    split at h
    · cases h
    · cases h
      rfl

@[simp] theorem State.turnStep_memWf (s : State) (h : s.mem.wf = true) : s.turnStep.memWf := by
  unfold State.turnStep
  split
  · split <;> simp [h]
  · split
    case h_1 i t he =>
      have ht : t.mem.wf = true := (congrArg Mem.wf (State.pull_mem he)).trans h
      split
      · exact h
      · split <;> simp [ht]
    case h_2 => split <;> simp [h]

theorem step_memWf (s : State) (h : s.mem.wf = true) : Out.memWf (step s) :=
  onNext_memWf (s.turnStep_memWf h) fun t ht => by simpa using ht

/-- Settles O8: what each function of the model does to device memory, from the sectors up to one turn of the device. -/
theorem stepKeepsMemoryForm : Obligations.StepKeepsMemoryForm := by
  unfold Obligations.StepKeepsMemoryForm
  intro s s' h hs
  exact Out.wf_of_next hs (step_memWf s h)

end Sys2Proof.Machine
end

section
/-! WAITTL, TLGET and TLBUMP (R185, R353). -/

namespace Sys2Proof.Machine

/-! ### What a raise of a timeline does -/

theorem Thread.raise_tl_same (t : Thread) (k : Fin 8) (v : Nat) : ((t.raise k v).tl[k]).val = max (t.tl[k]).val v := by
  simp [Thread.raise]

theorem Thread.raise_tl_ne (t : Thread) {k j : Fin 8} (v : Nat) (h : j ≠ k) : (t.raise k v).tl[j] = t.tl[j] :=
  Vector.getElem_set_ne k.isLt j.isLt fun e => h (Fin.ext e.symm)

theorem Thread.raise_ev (t : Thread) (k : Fin 8) (v : Nat) : (t.raise k v).ev = true ↔ t.ev = true ∨ (t.tl[k]).val < v := by
  simp [Thread.raise]

theorem Thread.sameRegs_raise (t : Thread) (k : Fin 8) (v : Nat) : t.sameRegs (t.raise k v) := ⟨rfl, rfl, rfl, rfl, rfl⟩

/-! ### The three words, on a clean source -/

section
variable {s : State} {t : BitVec 3} {a : BitVec 6} (ha : (s.srcM a).psn = none)
include ha

theorem execWaittl_illegal (ht : t.toNat ≤ 5) (hi : (s.core.t.tl[tlIx t]).issued < (s.srcM a).val.toNat) :
    execWaittl t a s = s.trap 1 .illegal (s.srcM a).val :=
  (s.checked_clean _ _ (by simp [ha])).trans (if_pos ⟨ht, hi⟩)

/-- A value that an operation issued so far will bring, or that no operation has to bring: the bundle goes on or waits. -/
theorem execWaittl_legal (hi : t.toNat ≤ 5 → (s.srcM a).val.toNat ≤ (s.core.t.tl[tlIx t]).issued) :
    execWaittl t a s = if (s.srcM a).val.toNat ≤ (s.core.t.tl[tlIx t]).val then .next s else s.wait .waittl :=
  (s.checked_clean _ _ (by simp [ha])).trans (if_neg fun ⟨ht, hlt⟩ => Nat.not_le.2 hlt (hi ht))

theorem execTlbump_clean : execTlbump t a s = .next (if s.core.t.egressClear then s.later 2 (.tlRaise (tlIx t) (s.srcM a).val.toNat)
    else s.leave false (.bump (tlIx t) (s.srcM a).val.toNat)) :=
  s.checked_clean _ _ (by simp [ha])

end

/-- Settles O46: each word unfolds to one case on the timeline, or on whether an earlier access holds the raise back. -/
theorem timelines : Obligations.Timelines := by
  unfold Obligations.Timelines
  intro s t a d ha
  refine ⟨fun hx hi => ?reached, fun hx hi => ?waits, fun ht hi => ?illegal, rfl, fun he => ?bump, fun he => ?bumpLater, fun u => ?raise⟩
  case reached => exact (execWaittl_legal ha hi).trans (if_pos hx)
  case waits => exact (execWaittl_legal ha hi).trans (if_neg (Nat.not_le.2 hx))
  case illegal => exact execWaittl_illegal ha ht hi
  case bump => exact (execTlbump_clean ha).trans (by rw [if_pos he])
  case bumpLater => exact (execTlbump_clean ha).trans (by rw [if_neg (by simp [he])])
  case raise =>
    exact ⟨u.raise_tl_same _ _, fun k hk => u.raise_tl_ne _ hk, u.raise_ev _ _, u.sameRegs_raise _ _⟩

end Sys2Proof.Machine
end

section
/-! The jump table, in and out of its range, and the repeat that REP sets up (R282, R284, R244). -/

namespace Sys2Proof.Machine

/-! ### A word of the table -/

theorem psnOf_clean (bs : List Byte) : psnOf (clean bs) = none := by simp [psnOf, clean]

/-- The four bytes of a word, read again as a number. -/
theorem ofNat_leNat_leBytes_word (n : Word) : BitVec.ofNat 32 (leNat (leBytes 4 n.toNat)) = n := by
  have hn : n.toNat < 2 ^ (8 * 4) := n.isLt
  rw [leNat_leBytes, Nat.mod_eq_of_lt hn, BitVec.ofNat_toNat, BitVec.setWidth_eq]

/-- A read of the table goes on where its address lies in the own L1, or where nothing before it holds it back (R26, R196). -/
def State.tableGoes (s : State) (va : Nat) : Prop :=
  (ownOff (BitVec.ofNat 64 va)).isSome = true ∨ (s.core.t.mayLeave false = true
    ∧ ∀ places s', State.resolveAll s.me .rd (pieces 4 va 4) s = .ok (places, s') → s.placesHeld places = false)

theorem State.tableRead_goes {s s' : State} {va : Nat} {n : Word} (k : Word → State → Out) (hg : s.tableGoes va)
    (hr : s.readVa s.me va 4 = .ok (clean (leBytes 4 n.toNat), s')) : s.tableRead va k = k n s' := by
  unfold State.readVa at hr
  unfold State.tableRead
  cases hp : State.resolveAll s.me .rd (pieces 4 va 4) s with
  | error e =>
    rw [hp] at hr
    cases hr
  | ok p =>
    obtain ⟨places, u⟩ := p
    rw [hp] at hr
    replace hr : State.readAll places u = .ok (clean (leBytes 4 n.toNat), s') := hr
    have hfree : ((ownOff (BitVec.ofNat 64 va)).isNone && (!s.core.t.mayLeave false || s.placesHeld places)) = false := by
      rcases hg with hown | ⟨hleave, hplaces⟩
      · simp [Option.isNone_eq_false_iff.2 hown]
      · simp [hleave, hplaces places u hp]
    simp only [hfree, Bool.false_eq_true, if_false, hr, psnOf_clean, plain_clean, ofNat_leNat_leBytes_word]

theorem State.tableRead_held {s s' : State} {va : Nat} {places : List (Loc × Nat × Nat)} (k : Word → State → Out)
    (hown : ownOff (BitVec.ofNat 64 va) = none) (hp : State.resolveAll s.me .rd (pieces 4 va 4) s = .ok (places, s'))
    (hh : s.core.t.mayLeave false = false ∨ s.placesHeld places = true) : s.tableRead va k = s'.stallOn .walk := by
  unfold State.tableRead
  rw [hp]
  exact if_pos (by rcases hh with hh | hh <;> simp [hown, hh])

/-! ### JTAB on clean sources, at an aligned device virtual address -/

/-- What JTAB does with the number of entries: past them JOOR is set, else the transfer to the entry's target is taken. -/
def State.jumpEntry (x i wait : Nat) (n : Word) (s : State) : Out :=
  if i ≥ n.toNat then .next ((s.statSticky statJoor).mapT fun t => { t with stall := t.stall + wait })
  else s.tableRead (x + 4 + 4 * i) fun e s =>
    if bits (s.relative e.sext).toNat 63 56 != 0 then s.trap 3 .page (s.relative e.sext)
    else .next (s.mapT fun t => { t with npc := some (s.relative e.sext), stall := t.stall + wait })

theorem execJtab_clean {s : State} {a b : BitVec 6} (hf : s.follows = false) (ha : (s.srcC a).psn = none) (hb : (s.srcC b).psn = none)
    (h4 : (s.srcC a).val.toNat % 4 = 0) (h56 : (s.srcC a).val.toNat < 2 ^ 56) :
    execJtab a b s = s.tableRead (s.srcC a).val.toNat (State.jumpEntry (s.srcC a).val.toNat (s.srcC b).val.low.toNat
      (if (ownOff (s.srcC a).val).isSome then 3 else Config.landing s.tick)) := by
  have hlow : bits (s.srcC a).val.toNat 1 0 = 0 := by
    rw [bits_eq_div_mod]
    omega
  refine (s.checked_clean _ _ (by simp [ha, hb])).trans ?_
  rw [hf, hlow, (bits_63_56_eq_zero _).2 h56]
  rfl

theorem State.jumpEntry_out {x i wait : Nat} {n : Word} {s : State} (h : n.toNat ≤ i) :
    State.jumpEntry x i wait n s = .next ((s.later 2 (.statBit 5)).mapT fun t => { t with stall := t.stall + wait }) := if_pos h

theorem State.jumpEntry_in {x i wait : Nat} {n e : Word} {s s' : State} (h : i < n.toNat) (hg : s.tableGoes (x + 4 + 4 * i))
    (hr : s.readVa s.me (x + 4 + 4 * i) 4 = .ok (clean (leBytes 4 e.toNat), s')) (ht : (s'.relative e.sext).toNat < 2 ^ 56) :
    State.jumpEntry x i wait n s = .next (s'.mapT fun t => { t with npc := some (s'.relative e.sext), stall := t.stall + wait }) := by
  refine (if_neg (Nat.not_le.2 h)).trans ((State.tableRead_goes _ hg hr).trans ?_)
  rw [(bits_63_56_eq_zero _).2 ht]
  rfl

/-! ### REP -/

theorem State.sameMemory_mapT_rep (s : State) (r : Rep) : s.sameMemory (s.mapT fun t => { t with rep := r }) :=
  ⟨rfl, rfl, rfl, rfl, rfl, rfl, rfl⟩

theorem Thread.sameControl_rep (t : Thread) (r : Rep) : t.sameControl { t with rep := r } :=
  ⟨rfl, rfl, rfl, rfl, rfl, rfl, rfl, rfl, rfl, rfl, rfl, rfl, rfl, rfl, rfl, rfl, rfl, rfl, rfl, rfl, rfl, rfl, rfl, rfl⟩

/-- Settles O21: JTAB is a read of the number of entries and then of one entry, and each read goes on or is held back. -/
theorem jumpTableAndRepeat : Obligations.JumpTableAndRepeat := by
  unfold Obligations.JumpTableAndRepeat
  refine ⟨?jumps, ?held, ?rep⟩
  case jumps =>
    intro s a b n e s1 s2 hf ha hb h4 h56 x i wait goes hg hr
    have hjtab := (execJtab_clean hf ha hb h4 h56).trans (State.tableRead_goes _ hg hr)
    exact ⟨fun hn => hjtab.trans (State.jumpEntry_out hn), fun hi hg' hr' ht => hjtab.trans (State.jumpEntry_in hi hg' hr' ht)⟩
  case held =>
    intro s s1 a b places hf ha hb h4 h56 hown hp hh
    exact (execJtab_clean hf ha hb h4 h56).trans (State.tableRead_held _ (by simpa using hown) hp hh)
  case rep =>
    intro s n d a b x
    exact ⟨_, rfl, rfl, ⟨rfl, rfl, rfl, rfl, rfl⟩, Thread.sameControl_rep _ _, s.sameMemory_mapT_rep _⟩

end Sys2Proof.Machine
end

section
/-! The float words of the V pipe (R297 to R299). -/

namespace Sys2Proof.Machine

/-- A float word whose lanes raise an enabled exception traps and sets no flag (R160). -/
theorem State.raising_enabled {s : State} {e : Exc} (k : State → Out) (h : e &&& fpxEn s.core.t.fpxAtCheck ≠ 0) :
    s.raising e k = s.trap 3 .arith 0 :=
  if_pos (bne_iff_ne.2 h)

/-- Settles O32: each word is a float word of its lane function on clean sources. -/
theorem vectorFloat : Obligations.VectorFloat := by
  intro s d w a b t ha hb hd
  have one : ∀ p ∈ [(s.srcV a).psn], p = none := by simp [ha]
  have two : ∀ p ∈ [(s.srcV a).psn, (s.srcV b).psn], p = none := by simp [ha, hb]
  have three : ∀ p ∈ [(s.srcV a).psn, (s.srcV b).psn, (s.srcV d).psn], p = none := by simp [ha, hb, hd]
  refine ⟨fun he => (s.checked_clean _ _ two).trans (State.raising_enabled _ he), fun he => ?disabled⟩
  case disabled =>
    exact ⟨State.checked_floatV 4 _ two he, State.checked_floatV 4 _ two he, State.checked_floatV 4 _ two he, State.checked_floatV 4 _ two he,
      State.checked_floatV 4 _ two he, State.checked_floatV 4 _ one he, State.checked_floatV 4 _ one he, State.checked_floatV 4 _ three he,
      State.checked_floatV 4 _ three he⟩

end Sys2Proof.Machine
end

section
/-! The compaction queues (R315 to R318). -/

namespace Sys2Proof.Machine

/-! ### Descriptors -/

@[simp] theorem State.queue_setQueue_self (s : State) (q : BitVec 2) (c : CQueue) : (s.setQueue q c).queue q = c := by
  simp [State.queue, State.setQueue]

theorem State.queue_setQueue_ne (s : State) {q r : BitVec 2} (c : CQueue) (h : r ≠ q) : (s.setQueue q c).queue r = s.queue r :=
  Vector.getElem_set_ne q.isLt r.isLt fun e => h (BitVec.eq_of_toNat_eq e.symm)

@[simp] theorem State.queue_later (s : State) (n : Nat) (x : Effect) (q : BitVec 2) : (s.later n x).queue q = s.queue q := rfl
@[simp] theorem State.queue_statSticky (s : State) (b : Nat) (q : BitVec 2) : (s.statSticky b).queue q = s.queue q := rfl

@[simp] theorem State.queue_storeL1 (s : State) (off : Nat) (bs : List PByte) (q : BitVec 2) : (s.storeL1 off bs).queue q = s.queue q := by
  unfold State.storeL1
  dsimp only
  split <;> rfl

/-- What a compaction word leaves as it was: the registers and latch queues, the other descriptors, and every memory outside the own L1. -/
def State.onlyQueue (s : State) (q : BitVec 2) (t : State) : Prop :=
  s.core.t.sameRegs t.core.t ∧ (∀ r, r ≠ q → t.queue r = s.queue r) ∧ t.mem = s.mem ∧ t.l2 = s.l2 ∧ t.l3 = s.l3

theorem State.onlyQueue_refl (s : State) (q : BitVec 2) : s.onlyQueue q s := ⟨⟨rfl, rfl, rfl, rfl, rfl⟩, fun _ _ => rfl, rfl, rfl, rfl⟩

theorem State.onlyQueue_trans {s t u : State} {q : BitVec 2} (h : s.onlyQueue q t) (k : t.onlyQueue q u) : s.onlyQueue q u := by
  obtain ⟨hr, hq, hm, h2, h3⟩ := h
  obtain ⟨kr, kq, km, k2, k3⟩ := k
  exact ⟨Thread.sameRegs_trans hr kr, fun r hne => (kq r hne).trans (hq r hne), km.trans hm, k2.trans h2, k3.trans h3⟩

theorem State.onlyQueue_setQueue (s : State) (q : BitVec 2) (c : CQueue) : s.onlyQueue q (s.setQueue q c) :=
  ⟨⟨rfl, rfl, rfl, rfl, rfl⟩, fun _ h => s.queue_setQueue_ne c h, rfl, rfl, rfl⟩

theorem State.onlyQueue_later (s : State) (q : BitVec 2) (n : Nat) (x : Effect) : s.onlyQueue q (s.later n x) :=
  ⟨⟨rfl, rfl, rfl, rfl, rfl⟩, fun _ _ => rfl, rfl, rfl, rfl⟩

theorem State.onlyQueue_storeL1 (s : State) (q : BitVec 2) (off : Nat) (bs : List PByte) : s.onlyQueue q (s.storeL1 off bs) := by
  unfold State.storeL1
  dsimp only
  split <;> exact ⟨⟨rfl, rfl, rfl, rfl, rfl⟩, fun _ _ => rfl, rfl, rfl, rfl⟩

theorem State.onlyQueue_foldl {α : Type} {q : BitVec 2} {f : State → α → State} (h : ∀ (s : State) x, s.onlyQueue q (f s x)) (xs : List α) (s : State) :
    s.onlyQueue q (xs.foldl f s) := by
  induction xs generalizing s with
  | nil => exact s.onlyQueue_refl q
  | cons x xs ih => exact State.onlyQueue_trans (h s x) (ih _)

theorem State.sameMemory_setQueue (s : State) (q : BitVec 2) (c : CQueue) : s.sameMemory (s.setQueue q c) := ⟨rfl, rfl, rfl, rfl, rfl, rfl, rfl⟩

/-- A word on a queue that no VQBAL rewrites. -/
theorem State.onQueue_free {s : State} {q : BitVec 2} (k : BitVec 2 → CQueue → Out) (hb : (s.queue q).busy = 0) (hh : (s.queue q).hbusy = 0) :
    s.onQueue (q.zeroExtend 6) k = k q (s.queue q) := by
  have hq : (q.zeroExtend 6).truncate 2 = q := by bv_omega
  unfold State.onQueue
  rw [hq]
  exact if_neg (by simp [hb, hh])

/-- A word on a queue that a VQBAL still rewrites. -/
theorem State.onQueue_busy {s : State} {q : BitVec 2} (k : BitVec 2 → CQueue → Out) (h : (s.queue q).busy ≠ 0 ∨ (s.queue q).hbusy ≠ 0) :
    s.onQueue (q.zeroExtend 6) k = s.trap 1 .illegal 0 := by
  have hq : (q.zeroExtend 6).truncate 2 = q := by bv_omega
  unfold State.onQueue
  rw [hq]
  exact if_pos (by simpa using h)

section
variable {s : State} {q : BitVec 2} (h : (s.queue q).busy ≠ 0 ∨ (s.queue q).hbusy ≠ 0)
include h

theorem execVpushcCfg_busy (a : BitVec 6) : execVpushcCfg (q.zeroExtend 6) a s = s.trap 1 .illegal 0 := by
  unfold execVpushcCfg
  exact State.onQueue_busy _ h

theorem execVpushc_busy (a : BitVec 6) (k : BitVec 3) : execVpushc (q.zeroExtend 6) a k s = s.trap 1 .illegal 0 := by
  unfold execVpushc
  exact State.onQueue_busy _ h

theorem execVpopc_busy (d : BitVec 6) (w : BitVec 1) (k : BitVec 3) : execVpopc d w (q.zeroExtend 6) k s = s.trap 1 .illegal 0 := by
  unfold execVpopc
  exact State.onQueue_busy _ h

theorem execVqcnt_busy (d : BitVec 6) (w : BitVec 1) : execVqcnt d w (q.zeroExtend 6) s = s.trap 1 .illegal 0 := by
  unfold execVqcnt
  exact State.onQueue_busy _ h

theorem execVqbal_busy : execVqbal (q.zeroExtend 6) s = s.trap 1 .illegal 0 := by
  unfold execVqbal
  exact State.onQueue_busy _ h

end

/-! ### Push (R316) -/

theorem State.pushLane_full {u : State} {q : BitVec 2} (r : List Byte) (h : (u.queue q).count.toNat = (u.queue q).cap.toNat) :
    u.pushLane q r = u.statSticky statQovf := if_pos h

theorem State.pushLane_room {u : State} {q : BitVec 2} (r : List Byte) (h : (u.queue q).count.toNat ≠ (u.queue q).cap.toNat) :
    u.pushLane q r = (u.storeL1 ((u.queue q).slot (u.queue q).tail.toNat) (clean r)).setQueue q
      { u.queue q with tail := BitVec.ofNat 32 (((u.queue q).tail.toNat + 1) % (u.queue q).cap.toNat), count := (u.queue q).count + 1 } :=
  if_neg h

theorem State.onlyQueue_pushLane (u : State) (q : BitVec 2) (r : List Byte) : u.onlyQueue q (u.pushLane q r) := by
  by_cases h : (u.queue q).count.toNat = (u.queue q).cap.toNat
  · exact State.pushLane_full r h ▸ u.onlyQueue_later q 2 _
  · exact State.pushLane_room r h ▸ State.onlyQueue_trans (u.onlyQueue_storeL1 q _ _) (State.onlyQueue_setQueue _ q _)

/-- Lanes that all find room are all counted. -/
theorem State.foldl_pushLane_count {α : Type} {q : BitVec 2} {g : α → List Byte} (xs : List α) (u : State)
    (h : (u.queue q).count.toNat + xs.length ≤ (u.queue q).cap.toNat) :
    ((xs.foldl (fun u x => u.pushLane q (g x)) u).queue q).count.toNat = (u.queue q).count.toNat + xs.length := by
  induction xs generalizing u with
  | nil => rfl
  | cons x xs ih =>
    rw [List.length_cons] at h ⊢
    have hcap := (u.queue q).cap.isLt
    have hne : (u.queue q).count.toNat ≠ (u.queue q).cap.toNat := by omega
    have hq := congrArg (fun v : State => v.queue q) (State.pushLane_room (g x) hne)
    have hcount : ((u.pushLane q (g x)).queue q).count.toNat = (u.queue q).count.toNat + 1 := by
      have hone : (1 : BitVec 16).toNat = 1 := rfl
      simp only [hq, State.queue_setQueue_self, BitVec.toNat_add, hone]
      omega
    have hsame : ((u.pushLane q (g x)).queue q).cap = (u.queue q).cap := by simp only [hq, State.queue_setQueue_self]
    have hrest := ih (u.pushLane q (g x)) (by rw [hcount, hsame]; omega)
    rw [List.foldl_cons, hrest, hcount]
    omega

/-- A lane that finds room stores its record in the slot at TAIL, and nothing else. -/
theorem State.pushLane_room_l1 {u : State} {q : BitVec 2} (r : List Byte) (h : (u.queue q).count.toNat ≠ (u.queue q).cap.toNat) :
    (u.pushLane q r).core.l1.bytes = Mem.write u.core.l1.bytes ((u.queue q).slot (u.queue q).tail.toNat) r := by
  obtain ⟨f, hf⟩ := u.storeL1_clean ((u.queue q).slot (u.queue q).tail.toNat) r
  rw [State.pushLane_room r h, hf]
  rfl

/-! ### Pop (R317) -/

theorem Pad.popLane_empty {p : Pad} {c : CQueue} (h : c.count = 0) : p.popLane c = (List.replicate (c.recw.toNat + 1) {}, c) := if_pos h

theorem Pad.popLane_head {p : Pad} {c : CQueue} (h : c.count ≠ 0) :
    p.popLane c = ((List.range (c.recw.toNat + 1)).map (fun w => p.lane (c.slot c.head.toNat + 4 * w)),
      { c with head := BitVec.ofNat 32 ((c.head.toNat + 1) % c.cap.toNat), count := c.count - 1 }) := if_neg h

theorem Pad.popLane_count (p : Pad) (c : CQueue) : (p.popLane c).2.count.toNat = c.count.toNat - 1 := by
  by_cases h : c.count = 0
  · simp [Pad.popLane_empty h, h]
  · rw [Pad.popLane_head h]
    bv_omega

theorem Pad.popLanes_single {p : Pad} {m : BitVec 128} {l : Fin 128} (c : CQueue) (h : lanesIn m = [l]) :
    p.popLanes m c = ([(l.val, (p.popLane c).1)], (p.popLane c).2) := by
  simp [Pad.popLanes, h]

theorem Pad.popLanes_count (p : Pad) (m : BitVec 128) (c : CQueue) : (p.popLanes m c).2.count.toNat = c.count.toNat - (lanesIn m).length := by
  suffices hfold : ∀ (ls : List (Fin 128)) (acc : SMap (List PWord) × CQueue), (ls.foldl (fun (acc : SMap (List PWord) × CQueue) l =>
      (acc.1 ++ [(l.val, (p.popLane acc.2).1)], (p.popLane acc.2).2)) acc).2.count.toNat = acc.2.count.toNat - ls.length from hfold _ _
  intro ls
  induction ls with
  | nil => exact fun _ => rfl
  | cons l ls ih =>
    intro acc
    rw [List.foldl_cons, ih, Pad.popLane_count, List.length_cons]
    omega

/-- The words of a pop put in flight, one after the other. -/
def State.popFlights (u : State) (n : Nat) (x : Nat → Effect) : State := (List.range n).foldl (fun s i => s.later 4 (x i)) u

theorem State.onlyQueue_popFlights (u : State) (q : BitVec 2) (n : Nat) (x : Nat → Effect) : u.onlyQueue q (u.popFlights n x) :=
  State.onlyQueue_foldl (fun s i => s.onlyQueue_later q 4 (x i)) _ u

theorem State.sameMemory_popFlights (u : State) (n : Nat) (x : Nat → Effect) : u.sameMemory (u.popFlights n x) := by
  have h : ∀ t : State, u.sameMemory t → ∀ i, u.sameMemory (t.later 4 (x i)) := fun t ht _ => ht
  exact List.foldlRecOn (List.range n) (motive := fun t => u.sameMemory t) _ ⟨rfl, rfl, rfl, rfl, rfl, rfl, rfl⟩ fun t ht i _ => h t ht i

@[simp] theorem State.queue_popFlights (u : State) (q : BitVec 2) (n : Nat) (x : Nat → Effect) : (u.popFlights n x).queue q = u.queue q :=
  foldl_keeps (fun s : State => s.queue q) (fun s i => s.later 4 (x i)) (fun _ _ => rfl) (List.range n) u

/-! ### Rebalance (R318) -/

/-- The record of a pop position moves to a slot of the storage in use. -/
theorem balanceSlot_lt {c i : Nat} (h : i < c) : balanceSlot c i < c := by
  unfold balanceSlot
  split <;> omega

theorem balancePos_balanceSlot (c i : Nat) : balancePos c (balanceSlot c i) = i := by
  unfold balanceSlot
  split
  · next hblock =>
    have hu : i % 128 / 8 < 16 := by omega
    have hv : i % 8 < 8 := by omega
    have hi : i = 128 * (i / 128) + (8 * (i % 128 / 8) + i % 8) := by omega
    generalize i / 128 = a at *
    generalize i % 128 / 8 = u at *
    generalize i % 8 = v at *
    have hdiv : (128 * a + (16 * v + u)) / 128 = a := by omega
    have hcol : (128 * a + (16 * v + u)) % 16 = u := by omega
    have hrow : (128 * a + (16 * v + u)) % 128 / 16 = v := by omega
    rw [balancePos, hdiv, hcol, hrow, if_pos hblock]
    exact hi.symm
  · next h => exact if_neg h

/-- Byte j of part k of parts of one length, laid side by side. -/
theorem getElem?_flatMap_range {α : Type} {g : Nat → List α} {n : Nat} (hg : ∀ i, (g i).length = n) {c k j : Nat} (hk : k < c) (hj : j < n) :
    ((List.range c).flatMap g)[n * k + j]? = (g k)[j]? := by
  have hlen : ∀ c, ((List.range c).flatMap g).length = n * c := by
    intro c
    simp [List.length_flatMap, hg, Nat.mul_comm]
  induction c with
  | zero => omega
  | succ c ih =>
    rw [List.range_succ, List.flatMap_append, List.flatMap_singleton]
    rcases Nat.lt_or_eq_of_le (Nat.le_of_lt_succ hk) with hlt | rfl
    · have hin : n * k + j < n * c := by
        have := Nat.mul_le_mul_left n (Nat.succ_le_of_lt hlt)
        rw [Nat.mul_succ] at this
        omega
      rw [List.getElem?_append_left (by rw [hlen]; exact hin), ih hlt]
    · rw [List.getElem?_append_right (by rw [hlen]; omega), hlen, Nat.add_sub_cancel_left]

/-- The records of a queue in the order of their slots after the rebalance, with their marks. -/
def CQueue.rebalanced (c : CQueue) (p : Pad) : List PByte :=
  (List.range c.count.toNat).flatMap fun j =>
    let r := p.readP (c.slot ((c.head.toNat + balancePos c.count.toNat j) % c.cap.toNat)) c.recBytes
    r.map fun b => (b.1, psnOf r)

theorem CQueue.plain_rebalanced (c : CQueue) (p : Pad) : plain (c.rebalanced p) =
    (List.range c.count.toNat).flatMap fun j =>
      Mem.read p.bytes (c.slot ((c.head.toNat + balancePos c.count.toNat j) % c.cap.toNat)) c.recBytes := by
  simp only [CQueue.rebalanced, plain, List.map_flatMap, List.map_map, Function.comp_def]
  exact congrArg (fun g => List.flatMap g _) (funext fun j => p.plain_readP _ _)

theorem CQueue.length_plain_rebalanced (c : CQueue) (p : Pad) : (plain (c.rebalanced p)).length = c.recBytes * c.count.toNat := by
  rw [CQueue.plain_rebalanced]
  simp [List.length_flatMap, Nat.mul_comm]

theorem Pad.bytes_writeP (p : Pad) (a : Nat) (bs : List PByte) : (p.writeP a bs).bytes = Mem.write p.bytes a (plain bs) := by
  have hstep : ∀ (q : Pad) (x : PByte × Nat), (match x.1.2 with
      | some o => { q with psn := SMap.insert q.psn ((a + x.2) / 8) o }
      | none => q).bytes = q.bytes := fun q x => by split <;> rfl
  exact foldl_keeps Pad.bytes _ hstep _ _

theorem State.storeL1_bytes (s : State) (off : Nat) (bs : List PByte) :
    (s.storeL1 off bs).core.l1.bytes = Mem.write s.core.l1.bytes off (plain bs) := by
  unfold State.storeL1
  dsimp only
  split <;> exact s.core.l1.bytes_writeP off bs

theorem State.storeL1_tl (s : State) (off : Nat) (bs : List PByte) : (s.storeL1 off bs).core.t.tl = s.core.t.tl := by
  unfold State.storeL1
  dsimp only
  split <;> rfl

/-- The own L1 after a rebalance. -/
def State.afterRebalance (s : State) (q : BitVec 2) : State :=
  if (s.queue q).count.toNat = 0 then s else s.storeL1 ((s.queue q).slot 0) ((s.queue q).rebalanced s.core.l1)

theorem State.onlyQueue_afterRebalance (s : State) (q : BitVec 2) : s.onlyQueue q (s.afterRebalance q) := by
  unfold State.afterRebalance
  split
  · exact s.onlyQueue_refl q
  · exact s.onlyQueue_storeL1 q _ _

theorem State.afterRebalance_tl (s : State) (q : BitVec 2) : (s.afterRebalance q).core.t.tl = s.core.t.tl := by
  unfold State.afterRebalance
  split
  · rfl
  · exact s.storeL1_tl _ _

theorem State.afterRebalance_bytes (s : State) (q : BitVec 2) : (s.afterRebalance q).core.l1.bytes
    = Mem.write s.core.l1.bytes ((s.queue q).slot 0) (plain ((s.queue q).rebalanced s.core.l1)) := by
  unfold State.afterRebalance
  split
  · next h => simp [CQueue.rebalanced, h, plain, Mem.write]
  · exact s.storeL1_bytes _ _

theorem Mem.getElem?_read (m : Mem) (a : Nat) {n j : Nat} (h : j < n) : (Mem.read m a n)[j]? = some (Mem.get m (a + j)) := by
  rw [List.getElem?_eq_getElem (by simpa using h), Mem.getElem_read]

/-- Each record has moved to its slot. -/
theorem State.afterRebalance_record (s : State) (q : BitVec 2) {i j : Nat} (hi : i < (s.queue q).count.toNat) (hj : j < (s.queue q).recBytes) :
    Mem.get (s.afterRebalance q).core.l1.bytes ((s.queue q).slot (balanceSlot (s.queue q).count.toNat i) + j)
      = Mem.get s.core.l1.bytes ((s.queue q).slot (((s.queue q).head.toNat + i) % (s.queue q).cap.toNat) + j) := by
  have hk := balanceSlot_lt hi
  have hbyte := getElem?_flatMap_range (g := fun j => Mem.read s.core.l1.bytes
    ((s.queue q).slot (((s.queue q).head.toNat + balancePos (s.queue q).count.toNat j) % (s.queue q).cap.toNat)) (s.queue q).recBytes)
    (fun _ => Mem.read_length _ _ _) hk hj
  rw [← CQueue.plain_rebalanced, balancePos_balanceSlot, Mem.getElem?_read _ _ hj] at hbyte
  obtain ⟨hin, hbyte⟩ := List.getElem?_eq_some_iff.1 hbyte
  have hat : (s.queue q).slot (balanceSlot (s.queue q).count.toNat i) + j
      = (s.queue q).slot 0 + ((s.queue q).recBytes * balanceSlot (s.queue q).count.toNat i + j) := by
    simp only [CQueue.slot]
    omega
  rw [State.afterRebalance_bytes, hat, Mem.get_write_inside _ _ _ _ hin, hbyte]

theorem State.afterRebalance_outside (s : State) (q : BitVec 2) {p : Nat}
    (h : p < (s.queue q).slot 0 ∨ (s.queue q).slot 0 + (s.queue q).recBytes * (s.queue q).count.toNat ≤ p) :
    Mem.get (s.afterRebalance q).core.l1.bytes p = Mem.get s.core.l1.bytes p := by
  rw [State.afterRebalance_bytes]
  exact Mem.get_write_outside _ _ _ _ (by rwa [CQueue.length_plain_rebalanced])

/-- What VQBAL leaves where no lock holds it back: the rebalanced L1, a number on tl5, and the descriptor at HEAD 0. -/
def State.vqbalDone (s : State) (q : BitVec 2) : State :=
  let t := (s.afterRebalance q).core.t.takeNum 5
  let away := fun (b : Bool) => if b then 24 else 0
  ((s.afterRebalance q).mapT fun _ => t.1).setQueue q { s.queue q with
    head := 0, tail := BitVec.ofNat 32 ((s.queue q).count.toNat % (s.queue q).cap.toNat), left := 24, num := t.2
    busy := away (!(s.afterRebalance q).core.t.handler), hbusy := away (s.afterRebalance q).core.t.handler }

theorem State.onlyQueue_vqbalDone (s : State) (q : BitVec 2) : s.onlyQueue q (s.vqbalDone q) := by
  refine State.onlyQueue_trans (s.onlyQueue_afterRebalance q) (State.onlyQueue_trans ?_ (State.onlyQueue_setQueue _ q _))
  exact ⟨⟨rfl, rfl, rfl, rfl, rfl⟩, fun _ _ => rfl, rfl, rfl, rfl⟩

theorem State.afterRebalance_handler (s : State) (q : BitVec 2) : (s.afterRebalance q).core.t.handler = s.core.t.handler := by
  unfold State.afterRebalance State.storeL1
  dsimp only
  split
  · rfl
  · split <;> rfl

theorem State.vqbalDone_tl (s : State) (q : BitVec 2) :
    (s.vqbalDone q).core.t.tl = s.core.t.tl.set 5 { s.core.t.tl[5] with issued := s.core.t.tl[5].issued + 1 } := by
  rw [← s.afterRebalance_tl q]
  rfl

/-! ### The words on a free queue -/

/-- The fields of a configuration word (R315). -/
theorem cfgBase (x : Word) : (x.extractLsb' 17 15).toNat = x.toNat / 2 ^ 17 := by
  have := x.isLt
  rw [BitVec.extractLsb'_toNat, Nat.shiftRight_eq_div_pow]
  omega

theorem cfgRecw (x : Word) : (x.extractLsb' 15 2).toNat = x.toNat / 2 ^ 15 % 4 := by
  rw [BitVec.extractLsb'_toNat, Nat.shiftRight_eq_div_pow]

theorem cfgCap (x : Word) : (x.extractLsb' 0 15).toNat = x.toNat % 2 ^ 15 := by
  rw [BitVec.extractLsb'_toNat, Nat.shiftRight_zero]

theorem cfgCap_eq_zero (x : Word) : x.extractLsb' 0 15 = 0 ↔ x.toNat % 2 ^ 15 = 0 := by
  rw [← cfgCap]
  exact ⟨fun h => h ▸ rfl, fun h => BitVec.eq_of_toNat_eq h⟩

theorem zext_eq_ofNat (x : Word) : x.zext = BitVec.ofNat 64 x.toNat := by
  exact BitVec.eq_of_toNat_eq (by simp [Word.zext])

section
variable {s : State} {q : BitVec 2} (hb : (s.queue q).busy = 0) (hh : (s.queue q).hbusy = 0)
include hb hh

theorem execVpushcCfg_fits {a : BitVec 6} (ha : (s.srcV a).psn = none)
    (hcap : ((s.srcV a)[(0 : Fin 128)]).val.toNat % 2 ^ 15 ≠ 0)
    (hfit : 64 * (((s.srcV a)[(0 : Fin 128)]).val.toNat / 2 ^ 17) + 4 * (((s.srcV a)[(0 : Fin 128)]).val.toNat / 2 ^ 15 % 4 + 1)
      * (((s.srcV a)[(0 : Fin 128)]).val.toNat % 2 ^ 15) ≤ 2 ^ 21) :
    execVpushcCfg (q.zeroExtend 6) a s = .next (s.setQueue q { s.queue q with
      base := ((s.srcV a)[(0 : Fin 128)]).val.extractLsb' 17 15, recw := ((s.srcV a)[(0 : Fin 128)]).val.extractLsb' 15 2
      cap := ((s.srcV a)[(0 : Fin 128)]).val.extractLsb' 0 15, count := 0, head := 0, tail := 0 }) := by
  unfold execVpushcCfg
  rw [State.onQueue_free _ hb hh, s.checked_clean _ _ (by simp [ha])]
  refine if_neg ?_
  rw [cfgCap_eq_zero, cfgBase, cfgRecw, cfgCap]
  exact not_or.2 ⟨hcap, Nat.not_lt.2 hfit⟩

theorem execVpushcCfg_page {a : BitVec 6} (ha : (s.srcV a).psn = none)
    (hbad : ¬ (((s.srcV a)[(0 : Fin 128)]).val.toNat % 2 ^ 15 ≠ 0 ∧ 64 * (((s.srcV a)[(0 : Fin 128)]).val.toNat / 2 ^ 17)
      + 4 * (((s.srcV a)[(0 : Fin 128)]).val.toNat / 2 ^ 15 % 4 + 1) * (((s.srcV a)[(0 : Fin 128)]).val.toNat % 2 ^ 15) ≤ 2 ^ 21)) :
    execVpushcCfg (q.zeroExtend 6) a s = s.trap 3 .page (BitVec.ofNat 64 ((s.srcV a)[(0 : Fin 128)]).val.toNat) := by
  unfold execVpushcCfg
  rw [State.onQueue_free _ hb hh, s.checked_clean _ _ (by simp [ha])]
  refine (if_pos ?_).trans (by rw [zext_eq_ofNat])
  rw [cfgCap_eq_zero, cfgBase, cfgRecw, cfgCap]
  rcases Classical.em (((s.srcV a)[(0 : Fin 128)]).val.toNat % 2 ^ 15 = 0) with h0 | h0
  · exact .inl h0
  · exact .inr (Nat.lt_of_not_le fun hfit => hbad ⟨h0, hfit⟩)

theorem execVpushc_illegal {a : BitVec 6} (k : BitVec 3) (h : 47 < a.toNat + (s.queue q).recw.toNat) :
    execVpushc (q.zeroExtend 6) a k s = s.trap 1 .illegal 0 := by
  unfold execVpushc
  rw [State.onQueue_free _ hb hh]
  exact if_pos h

theorem execVpushc_legal {a : BitVec 6} {k : BitVec 3} (h : a.toNat + (s.queue q).recw.toNat ≤ 47)
    (hc : ∀ i ≤ (s.queue q).recw.toNat, (s.srcV (a + BitVec.ofNat 6 i)).psnIn (s.km k) = none) :
    execVpushc (q.zeroExtend 6) a k s
      = .next ((lanesIn (s.km k)).foldl (fun u l => u.pushLane q (s.record a ((s.queue q).recw.toNat + 1) l)) s) := by
  unfold execVpushc
  rw [State.onQueue_free _ hb hh]
  refine (if_neg (Nat.not_lt.2 h)).trans (s.checked_clean _ _ fun x hx => ?_)
  obtain ⟨i, hi, rfl⟩ := List.mem_map.1 hx
  exact hc i (Nat.le_of_lt_succ (List.mem_range.1 hi))

theorem execVpopc_illegal {d : BitVec 6} {w : BitVec 1} (k : BitVec 3) (hw : w = 0) (h : 47 < d.toNat + (s.queue q).recw.toNat) :
    execVpopc d w (q.zeroExtend 6) k s = s.trap 1 .illegal 0 := by
  unfold execVpopc
  rw [State.onQueue_free _ hb hh]
  exact if_pos ⟨hw, h⟩

theorem execVpopc_legal {d : BitVec 6} {w : BitVec 1} (k : BitVec 3) (h : w = 1 ∨ d.toNat + (s.queue q).recw.toNat ≤ 47) :
    execVpopc d w (q.zeroExtend 6) k s = .next ((s.setQueue q (s.core.l1.popLanes (s.km k) (s.queue q)).2).popFlights ((s.queue q).recw.toNat + 1)
      fun i => .vResult (d + BitVec.ofNat 6 i) (w == 1) (s.km k)
        (Vector.ofFn fun l : Fin 128 => (SMap.getD (s.core.l1.popLanes (s.km k) (s.queue q)).1 l.val []).getD i {})) := by
  unfold execVpopc
  rw [State.onQueue_free _ hb hh]
  refine if_neg ?_
  rintro ⟨rfl, hd⟩
  rcases h with h | h
  · exact absurd h (by decide)
  · exact absurd hd (Nat.not_lt.2 h)

theorem execVqcnt_free (d : BitVec 6) (w : BitVec 1) :
    execVqcnt d w (q.zeroExtend 6) s = .next (s.later 2 (.vsResult d (w == 1) { val := (s.queue q).count.zeroExtend 32 })) :=
  State.onQueue_free _ hb hh

theorem execVqbal_locked (h : s.core.t.locked ((s.queue q).slot 0, (s.queue q).recBytes * (s.queue q).cap.toNat) = true) :
    execVqbal (q.zeroExtend 6) s = s.stallOn .lock :=
  (State.onQueue_free _ hb hh).trans (if_pos h)

theorem execVqbal_unlocked (h : s.core.t.locked ((s.queue q).slot 0, (s.queue q).recBytes * (s.queue q).cap.toNat) = false) :
    execVqbal (q.zeroExtend 6) s = .next (s.vqbalDone q) :=
  (State.onQueue_free _ hb hh).trans (if_neg (by simp [h]))

end

/-- What a rebalance leaves (R318). -/
theorem State.vqbalDone_spec (s : State) (q : BitVec 2) :
    let t := s.vqbalDone q
    (t.queue q).head = 0 ∧ (t.queue q).count = (s.queue q).count
      ∧ (t.queue q).busy = (if s.core.t.handler = true then 0 else 24) ∧ (t.queue q).hbusy = (if s.core.t.handler = true then 24 else 0)
      ∧ (t.queue q).tail = BitVec.ofNat 32 ((s.queue q).count.toNat % (s.queue q).cap.toNat) := by
  intro t
  have hq : t.queue q = { s.queue q with
      head := 0, tail := BitVec.ofNat 32 ((s.queue q).count.toNat % (s.queue q).cap.toNat), left := 24
      num := ((s.afterRebalance q).core.t.takeNum 5).2, busy := if !s.core.t.handler then 24 else 0, hbusy := if s.core.t.handler then 24 else 0 } := by
    rw [← s.afterRebalance_handler q]
    exact State.queue_setQueue_self ..
  rw [hq]
  cases s.core.t.handler <;> exact ⟨rfl, rfl, rfl, rfl, rfl⟩

/-- Settles O37: a word on a free queue is its configuration, a fold of pushes or of pops, the count, or the rebalance. -/
theorem compactionQueues : Obligations.CompactionQueues := by
  intro s d a w q k c qq x others fits stop
  refine ⟨fun h => ?busy, fun hb hh => ?free⟩
  case busy =>
    exact ⟨execVpushcCfg_busy h a, execVpushc_busy h a k, execVpopc_busy h d w k, execVqcnt_busy h d w, execVqbal_busy h⟩
  case free =>
    intro lock
    refine ⟨fun ha => ⟨fun hcap hfit => ?config, execVpushcCfg_page hb hh ha⟩, execVpushc_illegal hb hh k, fun hd hc => ⟨execVpushc_legal hb hh hd hc, ?pushed⟩,
      fun u r => ⟨State.pushLane_full r, fun hne => ?lane⟩, execVpopc_illegal hb hh k, fun hd => ?pop, execVqcnt_free hb hh d w,
      execVqbal_locked hb hh, fun hl => ?rebalance⟩
    case config =>
      refine ⟨_, execVpushcCfg_fits hb hh ha hcap hfit, ?_⟩
      rw [State.queue_setQueue_self]
      exact ⟨cfgBase _, cfgRecw _, cfgCap _, rfl, rfl, rfl, s.onlyQueue_setQueue q _, s.sameMemory_setQueue q _⟩
    case pushed =>
      exact ⟨_, execVpushc_legal hb hh hd hc, State.onlyQueue_foldl (fun u l => u.onlyQueue_pushLane q _) _ s, State.foldl_pushLane_count _ s⟩
    case lane =>
      have hl1 := State.pushLane_room_l1 r hne
      refine ⟨by rw [hl1, Mem.read_write], fun p hp => by rw [hl1]; exact Mem.get_write_outside _ _ _ _ hp, ?_⟩
      exact (congrArg (fun v : State => v.queue q) (State.pushLane_room r hne)).trans (State.queue_setQueue_self ..)
    case pop =>
      intro r u
      have hpop := execVpopc_legal (k := k) hb hh hd
      refine ⟨hpop, ⟨_, hpop, ?others, ?memory, ?count⟩, fun l hl h0 => ?empty, fun l hl h0 => ?head⟩
      case others => exact State.onlyQueue_trans (s.onlyQueue_setQueue q _) (State.onlyQueue_popFlights _ q _ _)
      case memory => exact State.sameMemory_popFlights _ _ _
      case count =>
        rw [State.queue_popFlights, State.queue_setQueue_self]
        exact Pad.popLanes_count _ _ _
      case empty => exact (Pad.popLanes_single c hl).trans (by rw [Pad.popLane_empty h0])
      case head => exact (Pad.popLanes_single c hl).trans (by rw [Pad.popLane_head h0])
    case rebalance =>
      obtain ⟨hhead, hcount, hbusy, hhbusy, htail⟩ := s.vqbalDone_spec q
      refine ⟨_, execVqbal_unlocked hb hh hl, s.onlyQueue_vqbalDone q, hhead, hcount, hbusy, hhbusy, htail,
        fun i hi j hj => s.afterRebalance_record q hi hj, fun p hp => s.afterRebalance_outside q hp, ?issued, ?reached⟩
      case issued => simp [State.vqbalDone_tl]
      case reached => simp [State.vqbalDone_tl]

end Sys2Proof.Machine
end

section
/-! LDL, LD.ACQ, ST.REL and FENCE (R166, R194, R346, R347). -/

namespace Sys2Proof.Machine

/-! ### A landing load -/

/-- With a landing slot free a word that takes one goes on. -/
theorem State.slotFree_free {s : State} {k : Out} (h : s.core.t.landings < 32) : s.slotFree k = k := if_neg (Nat.not_le.2 h)

theorem State.slotFree_full {s : State} {k : Out} (h : 32 ≤ s.core.t.landings) : s.slotFree k = s.trap 1 .illegal 0 := if_pos h

section
variable {s s1 : State} {d : BitVec 5} {l : BitVec 10} {ea : DWord} {n : Nat} {places : List (Loc × Nat × Nat)}
  (ht : targetOf' s.core.cid ea.toNat n ≠ .none) (hp : State.resolveAll s.me .rd (pieces n ea.toNat n) s = .ok (places, s1))
include ht hp

/-- A landing load whose places are known: read where nothing holds it back, else put behind what waits to leave the core. -/
theorem State.landLoad_resolved : s.landLoad d l ea n =
    if targetOf' s.core.cid ea.toNat n == .own || s1.goesNow false places then
      match State.readAll places s1 with
      | .ok (bs, s2) => .next (s2.land d l.toNat (some (loaded n bs)) (targetOf' s.core.cid ea.toNat n == .own))
      | .error e => (e.at ea).out
    else .next ((s1.land d l.toNat none false).leave false (.load s1.core.t.landId n places)) := by
  unfold State.landLoad
  generalize targetOf' s.core.cid ea.toNat n = t at ht
  rw [hp]
  cases t with
  | none => exact absurd rfl ht
  | own | pad | stat | group | dev => rfl

theorem State.landLoad_now {s2 : State} {bs : List PByte} (hg : targetOf' s.core.cid ea.toNat n = .own ∨ s1.goesNow false places = true)
    (hr : State.readAll places s1 = .ok (bs, s2)) :
    s.landLoad d l ea n = .next (s2.land d l.toNat (some (loaded n bs)) (targetOf' s.core.cid ea.toNat n == .own)) := by
  rw [State.landLoad_resolved ht hp, hr, if_pos (by simpa using hg)]

theorem State.landLoad_later (hown : targetOf' s.core.cid ea.toNat n ≠ .own) (hg : s1.goesNow false places = false) :
    s.landLoad d l ea n = .next ((s1.land d l.toNat none false).leave false (.load s1.core.t.landId n places)) := by
  rw [State.landLoad_resolved ht hp]
  exact if_neg (by simp [hown, hg])

end

/-! ### The words on a clean address -/

section
variable {s : State} {z : BitVec 2} {b : BitVec 3} (ha : (s.srcA (b.zeroExtend 4)).psn = none)
include ha

theorem execLdl_free {d : BitVec 5} {o : BitVec 4} {l : BitVec 10} (h : s.core.t.landings < 32) :
    execLdl z d b o l s = s.landLoad d l ((s.srcA (b.zeroExtend 4)).val + BitVec.ofNat 64 (2 ^ z.toNat * o.toNat)) (2 ^ z.toNat) :=
  (State.slotFree_free h).trans (s.checked_clean _ _ (by simp [ha]))

theorem execLdAcq_aligned {e : BitVec 3} {d : BitVec 5} {l : BitVec 10} (h : s.core.t.landings < 32)
    (h0 : (s.srcA (b.zeroExtend 4)).val.toNat % 2 ^ z.toNat = 0) (hown : ownOff (s.srcA (b.zeroExtend 4)).val = none) :
    execLdAcq e z d b l s = s.landLoad d l (s.srcA (b.zeroExtend 4)).val (2 ^ z.toNat) :=
  (State.slotFree_free h).trans ((s.checked_clean _ _ (by simp [ha])).trans
    ((if_neg (by simpa [sizeOf] using h0)).trans (if_neg (by simp [hown]))))

theorem execLdAcq_misaligned {e : BitVec 3} {d : BitVec 5} {l : BitVec 10} (h : s.core.t.landings < 32)
    (h0 : (s.srcA (b.zeroExtend 4)).val.toNat % 2 ^ z.toNat ≠ 0) :
    execLdAcq e z d b l s = s.trap 3 .align (s.srcA (b.zeroExtend 4)).val :=
  (State.slotFree_free h).trans ((s.checked_clean _ _ (by simp [ha])).trans (if_pos (by simpa [sizeOf] using h0)))

theorem execStRel_dev {e : BitVec 3} {d : BitVec 5} (hd : (s.srcS d).psn = none)
    (h0 : (s.srcA (b.zeroExtend 4)).val.toNat % 2 ^ z.toNat = 0)
    (ht : targetOf' s.core.cid (s.srcA (b.zeroExtend 4)).val.toNat (2 ^ z.toNat) = .dev) :
    execStRel e z d b s = s.coreWrite (e == 4) (s.srcA (b.zeroExtend 4)).val (clean (leBytes (2 ^ z.toNat) (s.srcS d).val.sext.toNat)) .next := by
  refine (s.checked_clean _ _ (by simp [ha, hd])).trans ((if_neg (by simpa [sizeOf] using h0)).trans ?_)
  rw [sizeOf, ht]

end

/-! ### A store of the core whose places are known -/

section
variable {s s1 : State} {sys : Bool} {ea : DWord} {bs : List PByte} {places : List (Loc × Nat × Nat)}
  (hp : State.resolveAll s.me .w (pieces bs.length ea.toNat bs.length) s = .ok (places, s1))
include hp

theorem State.coreWrite_now {s2 : State} (k : State → Out) (hg : s1.goesNow sys places = true)
    (hw : State.writeAll s1.me places bs s1 = .ok ((), s2)) : s.coreWrite sys ea bs k = k (s2.storeMark ea bs.length) := by
  unfold State.coreWrite
  simp only [hp, hg, hw, if_true]

theorem State.coreWrite_later (k : State → Out) (hg : s1.goesNow sys places = false) :
    s.coreWrite sys ea bs k = k ((s1.leave sys (.store places bs)).storeMark ea bs.length) := by
  unfold State.coreWrite
  simp only [hp, hg, Bool.false_eq_true, if_false]

end

/-! ### FENCE -/

theorem State.leave_fence_blocks (s : State) (sys : Bool) : (s.leave sys .fence).core.t.mayLeave false = false := by
  simp [State.leave, Thread.mayLeave, Thread.egressClear, EgressOp.isRemote]

theorem State.sameControl_leave (s : State) (sys : Bool) (op : EgressOp) : s.core.t.sameControl (s.leave sys op).core.t :=
  ⟨rfl, rfl, rfl, rfl, rfl, rfl, rfl, rfl, rfl, rfl, rfl, rfl, rfl, rfl, rfl, rfl, rfl, rfl, rfl, rfl, rfl, rfl, rfl, rfl⟩

theorem State.mayGo_fence {s : State} {f : Egress} (h : f.op = .fence) : s.mayGo f [] = true
    ↔ s.fenceHeld f.seq = false ∧ (f.sys = true → s.core.t.rputs = 0 ∧ s.core.t.peerStores f.seq = false) := by
  cases hs : f.sys <;> simp [State.mayGo, h, hs, and_comm]

/-- Settles O43: each word on a clean address is a landing load or a store of the core, at once or behind what waits to leave the core. -/
theorem landingAndOrder : Obligations.LandingAndOrder := by
  intro s e z d b o l a n ea ha
  refine ⟨fun places bs s1 s2 hl ht hp hg hr => ?ldl, fun places s1 hl ht hown hp hg => ?ldlLater, State.slotFree_full,
    fun places bs s1 s2 hl h0 hoff ht hown hp hg hr => ?acq, execLdAcq_misaligned (e := e) ha, fun hd h0 ht => ?rel, ?fence,
    fun f hf => State.mayGo_fence hf⟩
  case ldl => exact (execLdl_free ha hl).trans (State.landLoad_now ht hp hg hr)
  case ldlLater => exact (execLdl_free ha hl).trans (State.landLoad_later ht hp hown hg)
  case acq =>
    have hnear : (targetOf' s.core.cid a.val.toNat n == .own) = false := by simpa using hown
    exact (execLdAcq_aligned (e := e) ha hl h0 hoff).trans (hnear ▸ State.landLoad_now ht hp (.inr hg) hr)
  case rel =>
    intro bs places s1 hp
    have hlen : bs.length = n := by simp [bs]
    rw [← hlen] at hp ⊢
    have hrel : execStRel e z d b s = s.coreWrite (e == 4) a.val bs .next := execStRel_dev ha hd h0 ht
    exact ⟨fun s2 hg hw => hrel.trans (State.coreWrite_now hp _ hg hw), fun hg => hrel.trans (State.coreWrite_later hp _ hg)⟩
  case fence =>
    exact ⟨_, rfl, s.leave_fence_blocks _, rfl, ⟨rfl, rfl, rfl, rfl, rfl⟩, s.sameControl_leave _ _, ⟨rfl, rfl, rfl, rfl, rfl, rfl, rfl⟩, rfl⟩

end Sys2Proof.Machine
end

section
/-! ST to device memory and STR to a pad (R34, R190, R344, R345). -/

namespace Sys2Proof.Machine

/-! ### An access inside one sector -/

theorem pieces_single {a n : Nat} (h0 : 0 < n) (h : a % 64 + n ≤ 64) : pieces n a n = [(a, n)] := by
  obtain ⟨m, rfl⟩ : ∃ m, n = m + 1 := ⟨n - 1, by omega⟩
  have hk : min (m + 1) (64 - a % 64) = m + 1 := by omega
  have hrest : ∀ f, pieces f (a + (m + 1)) 0 = [] := fun f => by cases f <;> rfl
  simp only [pieces, Nat.add_one_ne_zero, if_false, hk, Nat.sub_self, hrest]

theorem State.resolveAll_single {s s1 : State} {w : Who} {r : Right} {a n : Nat} {loc : Loc} (hw : w.engine = false)
    (h : s.resolve w r a = .ok (loc, s1)) : State.resolveAll w r [(a, n)] s = .ok ([(loc, a, n)], s1) := by
  simp [State.resolveAll, h, Access.bind, hw]

theorem State.writeAll_single {s s1 : State} {w : Who} {loc : Loc} {a n : Nat} {bs : List PByte} (hn : bs.length = n)
    (h : s.writeLoc w loc bs (BitVec.ofNat 64 a) = .ok ((), s1)) : State.writeAll w [(loc, a, n)] bs s = .ok ((), s1) := by
  rw [State.writeAll, List.take_of_length_le (by omega), h]
  rfl

/-! ### What a store does besides its bytes -/

theorem State.storeMark_eq (s : State) (ea : DWord) (n : Nat) : ∃ r, s.storeMark ea n = s.mapT fun t => { t with rerunnable := r } := by
  have hsame : ∃ r, s = s.mapT fun t => { t with rerunnable := r } := ⟨s.core.t.rerunnable, rfl⟩
  have hno : ∃ r, s.noRerun = s.mapT fun t => { t with rerunnable := r } := ⟨false, rfl⟩
  unfold State.storeMark
  split
  · exact hsame
  · exact hsame
  · split
    · exact hno
    · exact hsame
  · split
    · exact hsame
    · exact hno
  · exact hno

theorem devStored_ok (who : Who) (pa : Nat) (s : State) :
    ∃ ls, devStored who pa (.ok ((), s)) = .ok ((), { s with launches := ls }) := by
  simp only [devStored, Access.bind]
  split
  · exact ⟨s.launches, rfl⟩
  · cases who.lslot with
    | none => exact ⟨s.launches, rfl⟩
    | some l =>
      simp only [Option.map_some, Option.getD_some, State.noReplay, State.onLaunch]
      split
      · exact ⟨_, rfl⟩
      · exact ⟨s.launches, rfl⟩

/-! ### A store into a sector (R34) -/

@[simp] theorem State.onChan_core (s : State) (g : Nat) (f : Channel → Channel) : (s.onChan g f).core = s.core := by
  unfold State.onChan; split <;> rfl
@[simp] theorem State.onChan_enc (s : State) (g : Nat) (f : Channel → Channel) : (s.onChan g f).enc = s.enc := by
  unfold State.onChan; split <;> rfl
@[simp] theorem State.onChan_l2 (s : State) (g : Nat) (f : Channel → Channel) : (s.onChan g f).l2 = s.l2 := by
  unfold State.onChan; split <;> rfl
@[simp] theorem State.onChan_l3 (s : State) (g : Nat) (f : Channel → Channel) : (s.onChan g f).l3 = s.l3 := by
  unfold State.onChan; split <;> rfl

theorem State.eccDecode_keeps (s : State) (sec : Nat) :
    (s.eccDecode sec).2.core = s.core ∧ (s.eccDecode sec).2.enc = s.enc ∧ (s.eccDecode sec).2.l2 = s.l2 ∧ (s.eccDecode sec).2.l3 = s.l3 := by
  unfold State.eccDecode
  dsimp only
  split <;> simp

/-- The content of a sector that a store of a part of it first lays down again: at most the sector, and as it stands where the keys agree (R32, R34). -/
theorem State.sectorView_sector {s : State} {key : Option Nat} {sec : Nat} {old : List Byte} (h : s.sectorView key (64 * sec) 64 = some old) :
    old.length ≤ 64 ∧ (SMap.find? s.enc sec = key → old = Mem.read s.mem (64 * sec) 64) := by
  have hsec : 64 * sec / 64 = sec := Nat.mul_div_cancel_left sec (by decide)
  unfold State.sectorView at h
  rw [hsec] at h
  split at h
  · cases h
    exact ⟨by simp, fun _ => rfl⟩
  · next c hc =>
    cases h
    exact ⟨by simp, fun he => by rw [hc] at he; cases he⟩
  · split at h
    · cases h
      exact ⟨by simp, fun _ => rfl⟩
    · cases h
  · cases h

/-- A store of a part of a sector: nothing moves but memory and what the sectors and the channels keep, and memory takes the bytes, over the
sector's content laid down again. -/
theorem State.sectorWrite_part {s s' : State} {key : Option Nat} {pa : Nat} {bs : List PByte} {va : DWord} (hn : bs.length ≠ 64)
    (h : s.sectorWrite key pa bs va = .ok ((), s')) : (s'.core = s.core ∧ s'.l2 = s.l2 ∧ s'.l3 = s.l3) ∧ ∃ m, s'.mem = Mem.write m pa (plain bs)
      ∧ ∀ a, a / 64 ≠ pa / 64 ∨ SMap.find? s.enc (pa / 64) = key → Mem.get m a = Mem.get s.mem a := by
  unfold State.sectorWrite State.sectorPut at h
  dsimp only at h
  rw [if_neg hn] at h
  obtain ⟨hcore, henc, hl2, hl3⟩ := (s.activate pa).eccDecode_keeps (pa / 64)
  have hmem : ((s.activate pa).eccDecode (pa / 64)).2.mem = s.mem := State.eccDecode_mem _ _
  generalize (s.activate pa).eccDecode (pa / 64) = r at h hcore henc hl2 hl3 hmem
  split at h
  · cases h
    exact ⟨⟨hcore, hl2, hl3⟩, s.mem, congrArg (Mem.write · pa (plain bs)) hmem, fun _ _ => rfl⟩
  · split at h
    · cases h
    · next old hold =>
      obtain ⟨hlen, hkey⟩ := State.sectorView_sector hold
      have hout : ∀ a, a / 64 ≠ pa / 64 ∨ SMap.find? s.enc (pa / 64) = key →
          Mem.get (Mem.write r.2.mem (64 * (pa / 64)) old) a = Mem.get s.mem a := by
        intro a ha
        rw [hmem] at hkey ⊢
        rw [henc] at hkey
        by_cases hin : a / 64 = pa / 64
        · have hview := hkey (ha.resolve_left fun h => h hin)
          have hj : a - 64 * (pa / 64) < old.length := by
            rw [hview, Mem.read_length]
            omega
          have hat : a = 64 * (pa / 64) + (a - 64 * (pa / 64)) := by omega
          calc Mem.get (Mem.write s.mem (64 * (pa / 64)) old) a
              = Mem.get (Mem.write s.mem (64 * (pa / 64)) old) (64 * (pa / 64) + (a - 64 * (pa / 64))) := by rw [← hat]
            _ = old[a - 64 * (pa / 64)] := Mem.get_write_inside _ _ _ _ hj
            _ = Mem.get s.mem (64 * (pa / 64) + (a - 64 * (pa / 64))) := by simp only [hview, Mem.getElem_read]
            _ = Mem.get s.mem a := by rw [← hat]
        · exact Mem.get_write_outside _ _ _ _ (by omega)
      split at h <;> cases h <;> exact ⟨⟨hcore, hl2, hl3⟩, _, rfl, hout⟩

/-! ### A place in a pad -/

theorem State.serve_l2_keeps (s : State) (ctx cl off : Nat) : (s.serve ctx (.l2 cl off)).core = s.core ∧ (s.serve ctx (.l2 cl off)).mem = s.mem
    ∧ (s.serve ctx (.l2 cl off)).l3 = s.l3 ∧ ∀ c, c ≠ cl → (s.serve ctx (.l2 cl off)).l2At c = s.l2At c := by
  unfold State.serve
  dsimp only
  split
  · exact ⟨rfl, rfl, rfl, fun _ _ => rfl⟩
  · exact ⟨rfl, rfl, rfl, fun c hc => by simp [State.l2At, SMap.getD, SMap.find?_erase_ne _ hc]⟩

theorem LaunchRec.windowPlace_ok {rect : LaunchRec} {ctx va : Nat} {r : Right} {loc l : Loc} {s s1 : State}
    (h : rect.windowPlace ctx r va l s = .ok (loc, s1)) : s1 = s.serve ctx loc := by
  unfold LaunchRec.windowPlace at h
  dsimp only at h
  split_ifs at h
  cases h
  rfl

/-- An address of the windows leads to the place that the window has (R169, R171). -/
theorem State.resolve_pad {s s1 : State} {w : Who} {r : Right} {va n : Nat} {loc : Loc} (ht : targetOf' w.cid va n = .pad)
    (h : s.resolve w r va = .ok (loc, s1)) : s1 = s.serve w.ctx loc := by
  have hpad : targetOf w.cid va = .pad := by
    unfold targetOf' at ht
    dsimp only at ht
    split at ht
    · exact ht
    · cases ht
  have hwin : ¬ va ≥ 2 ^ 56 ∧ va ≥ 0xFF000000000000 := by
    unfold targetOf at hpad
    split at hpad
    · cases hpad
    · next hlo =>
      split at hpad
      · next hhi => exact ⟨hlo, hhi⟩
      · cases hpad
  obtain ⟨hlo, hhi⟩ := hwin
  unfold State.resolve at h
  dsimp only at h
  rw [if_neg hlo, if_pos hhi] at h
  split at h
  · cases h
  · exact LaunchRec.windowPlace_ok h

/-! ### The words -/

theorem State.store_pad {s : State} {ea : DWord} {bs : List PByte} (h : targetOf' s.core.cid ea.toNat bs.length = .pad)
    (hd : s.padDenied ea.toNat = false) : s.store true ea bs = s.coreWrite false ea bs .next := by
  unfold State.store
  rw [h]
  simp [hd]

theorem State.store_stat {s : State} (engine : Bool) {ea : DWord} {bs : List PByte} (h : targetOf' s.core.cid ea.toNat bs.length = .stat) :
    s.store engine ea bs = .next s := by
  unfold State.store
  rw [h]

/-- A store into an L2 pad below the bank's tables (R356) changes its bytes alone. -/
theorem State.writeLoc_l2 {s : State} {w : Who} {cl off : Nat} {bs : List Byte} {va : DWord} (h : off + bs.length ≤ 0x7FFC00) :
    s.writeLoc w (.l2 cl off) (clean bs) va = .ok ((), { s with l2 := SMap.insert s.l2 cl ((s.l2At cl).write off bs) }) := by
  simp only [State.writeLoc, clean_length, if_pos h, Pad.writeP_clean]

theorem get_write_leBytes {m : Mem} {a n v k : Nat} (h : k < n) : Mem.get (Mem.write m a (leBytes n v)) (a + k) = BitVec.ofNat 8 (v / 2 ^ (8 * k)) := by
  have hlen : k < (leBytes n v).length := by simpa using h
  exact (Mem.get_write_inside _ _ _ _ hlen).trans (getElem_leBytes _ _ _ hlen)

theorem Thread.sameRegs_rerunnable (t : Thread) (r : Bool) : t.sameRegs { t with rerunnable := r } := ⟨rfl, rfl, rfl, rfl, rfl⟩
theorem Thread.sameControl_rerunnable (t : Thread) (r : Bool) : t.sameControl { t with rerunnable := r } := t.sameControl_refl

/-- Settles O42: a store word is a store of the core at its one place, at once or behind what waits to leave the core. -/
theorem distantStores : Obligations.DistantStores := by
  intro s z d b x i e n bs hc hd h64
  have hlen : bs.length = n := by simp [bs]
  have hn : 0 < n ∧ n ≤ 8 := by
    refine ⟨Nat.two_pow_pos _, ?_⟩
    have hz := z.isLt
    exact Nat.pow_le_pow_right (by decide) (by omega : z.toNat ≤ 3)
  have hone : pieces bs.length e.1.toNat bs.length = [(e.1.toNat, n)] := by rw [hlen]; exact pieces_single hn.1 h64
  have hst : exec (.st z d b x i) s = s.store false e.1 bs := storeWord_clean false hc hd
  have hstr : exec (.str z d b x i) s = s.store true e.1 bs := storeWord_clean true hc hd
  have hdev : targetOf' s.core.cid e.1.toNat n = .dev → s.boundElems e.1.toNat n = [] → exec (.st z d b x i) s = s.coreWrite false e.1 bs .next :=
    fun ht hb => hst.trans ((State.store_dev (by rwa [hlen])).trans (State.storeBound_free _ (by rwa [hlen])))
  have hpad : targetOf' s.core.cid e.1.toNat n = .pad → s.padDenied e.1.toNat = false → exec (.str z d b x i) s = s.coreWrite false e.1 bs .next :=
    fun ht hp => hstr.trans (State.store_pad (by rwa [hlen]) hp)
  have hat : BitVec.ofNat 64 e.1.toNat = e.1 := by simp
  refine ⟨fun pa key kind s1 s2 ht hb hr hg hw => ?device, fun cl off s1 ht hp hr hg ho => ?pad, fun places s1 hp hg => ?later, fun ht => ?stat⟩
  case device =>
    obtain ⟨ls, hls⟩ := devStored_ok s1.me pa s2
    have hloc : s1.writeLoc s1.me (.dev pa key kind) bs (BitVec.ofNat 64 e.1.toNat) = .ok ((), { s2 with launches := ls }) := by
      rw [hat, State.writeLoc, hw, hls]
    have hgo := (hdev ht hb).trans (State.coreWrite_now (hone ▸ State.resolveAll_single rfl hr) _ hg (State.writeAll_single hlen hloc))
    obtain ⟨r, hmark⟩ := State.storeMark_eq { s2 with launches := ls } e.1 bs.length
    obtain ⟨⟨hcore, hl2, hl3⟩, m, hm, hsame⟩ := State.sectorWrite_part (by omega) hw
    have hbytes : s2.mem = Mem.write m pa (leBytes n (s.srcM d).val.toNat) := by rw [hm, plain_clean]
    refine ⟨_, hgo.trans (congrArg _ hmark), rfl, fun _ => ⟨fun k hk => ?_, fun a ha hk => ?_⟩, ?_, ?_, (congrArg Core.l1 hcore : s2.core.l1 = s1.core.l1), hl2, hl3⟩
    · change Mem.get s2.mem _ = _
      rw [hbytes]
      exact get_write_leBytes hk
    · change Mem.get s2.mem _ = _
      rw [hbytes]
      exact (Mem.get_write_outside _ _ _ _ (by simpa using ha)).trans (hsame a hk)
    · exact hcore ▸ s2.core.t.sameRegs_rerunnable r
    · exact hcore ▸ s2.core.t.sameControl_rerunnable r
  case pad =>
    have hs1 : s1 = s.serve s.me.ctx (.l2 cl off) := State.resolve_pad ht hr
    obtain ⟨hcore, hmem, hl3, hl2⟩ := s.serve_l2_keeps s.me.ctx cl off
    rw [← hs1] at hcore hmem hl3 hl2
    have hloc := State.writeLoc_l2 (s := s1) (w := s1.me) (va := BitVec.ofNat 64 e.1.toNat) (bs := leBytes n (s.srcM d).val.toNat) (cl := cl)
      (by simpa using ho)
    have hgo := (hpad ht hp).trans (State.coreWrite_now (hone ▸ State.resolveAll_single rfl hr) _ hg (State.writeAll_single hlen hloc))
    obtain ⟨r, hmark⟩ := State.storeMark_eq
      { s1 with l2 := SMap.insert s1.l2 cl ((s1.l2At cl).write off (leBytes n (s.srcM d).val.toNat)) } e.1 bs.length
    have hcl : ∀ c, State.l2At { s1 with l2 := SMap.insert s1.l2 cl ((s1.l2At cl).write off (leBytes n (s.srcM d).val.toNat)) } c
        = if c = cl then (s1.l2At cl).write off (leBytes n (s.srcM d).val.toNat) else s1.l2At c := by
      intro c
      unfold State.l2At SMap.getD
      rw [SMap.find?_insert]
      split <;> rfl
    refine ⟨_, hgo.trans (congrArg _ hmark), fun k hk => ?_, fun p hp => ?_, fun c hc => ?_, ?_, ?_, hmem, hl3, (congrArg Core.l1 hcore : s1.core.l1 = s.core.l1)⟩
    · exact (congrArg (fun q : Pad => Mem.get q.bytes _) ((hcl cl).trans (if_pos rfl))).trans (get_write_leBytes hk)
    · exact (congrArg (fun q : Pad => Mem.get q.bytes _) ((hcl cl).trans (if_pos rfl))).trans (Mem.get_write_outside _ _ _ _ (by simpa using hp))
    · exact ((hcl c).trans (if_neg hc)).trans (hl2 c hc)
    · exact hcore ▸ s1.core.t.sameRegs_rerunnable r
    · exact hcore ▸ s1.core.t.sameControl_rerunnable r
  case later =>
    intro held
    have hp' : State.resolveAll s.me .w (pieces bs.length e.1.toNat bs.length) s = .ok (places, s1) := by rwa [hlen]
    have hheld : ∀ k : State → Out, s.coreWrite false e.1 bs k = k held := fun k => (State.coreWrite_later hp' k hg).trans (by rw [hlen])
    exact ⟨fun ht hb => (hdev ht hb).trans (hheld _), fun ht hp => (hpad ht hp).trans (hheld _)⟩
  case stat =>
    exact ⟨hst.trans (State.store_stat false (by rwa [hlen])), hstr.trans (State.store_stat true (by rwa [hlen]))⟩

end Sys2Proof.Machine
end

section
/-! Barriers and buffer rings (R186, R187, R354 to R356). -/

namespace Sys2Proof.Machine

/-! ### Barriers -/

theorem Thread.bar_setBar_ne (t : Thread) {b c : BitVec 7} (x : Bar) (h : c ≠ b) : (t.setBar b x).bar c = t.bar c :=
  Vector.getElem_set_ne b.isLt c.isLt fun e => h (BitVec.eq_of_toNat_eq e.symm)

/-- The core's copy of a barrier replaced. -/
def State.setBar (s : State) (b : BitVec 7) (x : Bar) : State := s.mapT fun t => t.setBar b x

theorem State.sameMemory_setBar (s : State) (b : BitVec 7) (x : Bar) : s.sameMemory (s.setBar b x) := ⟨rfl, rfl, rfl, rfl, rfl, rfl, rfl⟩

/-- BARI names a rectangle that the launch and the core allow: a valid copy of it stays as it is, else a new one is made (R354, R355). -/
theorem execBari_legal {s : State} {b : BitVec 7} {a : BitVec 6} (ha : (s.srcM a).psn = none)
    (hhi : (s.srcM a).val.low.toNat / 2 ^ 18 = 0) (hmid : (s.srcM a).val.low.toNat / 2 ^ 6 % 4 = 0)
    (hal : (rectOf (s.srcM a).val.low.toNat).aligned = true) (hin : (rectOf (s.srcM a).val.low.toNat).inside s.lrec = true)
    (hhas : (rectOf (s.srcM a).val.low.toNat).has s.core.cid = true) :
    execBari b a s = if (s.core.t.bar b).valid = true ∧ (s.core.t.bar b).rect = rectOf (s.srcM a).val.low.toNat then .next s
      else .next (s.setBar b { rect := rectOf (s.srcM a).val.low.toNat, valid := true }) := by
  refine (s.checked_clean _ _ (by simp [ha])).trans ((if_neg ?_).trans (by simp [State.setBar]))
  generalize (s.srcM a).val.low.toNat = v at *
  have hbits : bits v 31 18 = 0 ∧ bits v 7 6 = 0 := by
    simp only [bits_eq_div_mod]
    omega
  simp [hbits, hal, hin, hhas]

section
variable {s : State} {b : BitVec 7}

theorem execBara_legal (hv : (s.core.t.bar b).valid = true) (hp : (s.core.t.bar b).pending = false) :
    execBara b s = .next (if s.core.t.egressClear
      then (s.setBar b { s.core.t.bar b with pending := true }).push
        (.barrierArrival ⟨s.core.cid, homeOf (s.core.t.bar b).rect⟩ s.core.t.lslot b.toNat (s.core.t.bar b).rect)
      else (s.setBar b { s.core.t.bar b with pending := true }).leave false (.arrive b.toNat (s.core.t.bar b).rect)) :=
  if_neg (by simp [hv, hp])

theorem execBara_illegal (h : (s.core.t.bar b).valid = false ∨ (s.core.t.bar b).pending = true) :
    execBara b s = s.trap 1 .illegal (b.zeroExtend 64) := if_pos (by simpa using h)

theorem execBarw_valid (hv : (s.core.t.bar b).valid = true) :
    execBarw b s = if (s.core.t.bar b).pending then s.wait .barw else .next s := if_neg (by simp [hv])

theorem execBarw_illegal (hv : (s.core.t.bar b).valid = false) : execBarw b s = s.trap 1 .illegal (b.zeroExtend 64) := if_pos (by simp [hv])

end

/-! ### The own bank (R161, R187) -/

/-- What reaching the bank leaves: everything but the cluster's pad. -/
theorem State.atBank_keeps (s : State) : s.atBank.core = s.core ∧ s.atBank.agenda = s.agenda ∧ s.atBank.mem = s.mem ∧ s.atBank.tick = s.tick
    ∧ ∀ c, c ≠ clusterOf s.core.cid → s.atBank.l2At c = s.l2At c := by
  unfold State.atBank State.serve
  dsimp only
  split
  · exact ⟨rfl, rfl, rfl, rfl, fun _ _ => rfl⟩
  · exact ⟨rfl, rfl, rfl, rfl, fun c hc => by simp [State.l2At, SMap.getD, SMap.find?_erase_ne _ hc]⟩

/-- A pad that has been zeroed for its context is not zeroed again. -/
theorem State.atBank_atBank (s : State) : s.atBank.atBank = s.atBank := by
  by_cases h : SMap.find? s.l2Ctx (clusterOf s.core.cid) = some s.core.t.ctx
  · have hs : s.atBank = s := if_pos h
    rw [hs, hs]
  · have hs : s.atBank = { s with l2 := SMap.erase s.l2 (clusterOf s.core.cid), l2Ctx := SMap.insert s.l2Ctx (clusterOf s.core.cid) s.core.t.ctx } :=
      if_neg h
    rw [hs]
    exact if_pos (SMap.find?_insert_self _ _ _)

/-! ### A descriptor's update (R187) -/

/-- The number in the second doubleword of a descriptor. -/
def Pad.ringWord (p : Pad) (r : Nat) : Nat := leNat (Mem.read p.bytes (ringOff r + 8) 8)

theorem Pad.ringWord_lt (p : Pad) (r : Nat) : p.ringWord r < 2 ^ 64 := by
  have h := leNat_lt (Mem.read p.bytes (ringOff r + 8) 8)
  rwa [Mem.read_length] at h

theorem leNat_read_eight (m : Mem) (a : Nat) : leNat (Mem.read m a 8) = leNat (Mem.read m a 4) + 2 ^ 32 * leNat (Mem.read m (a + 4) 4) := by
  simp only [Mem.read, leNat, Nat.add_assoc, Nat.reduceAdd]
  omega

/-- The four bytes that a descriptor's hardware fields take. -/
def Ring.hardware (x : Ring) : Nat := x.nheld % 256 + x.nfull % 256 * 2 ^ 8 + x.cidx % 256 * 2 ^ 16 + x.pidx % 256 * 2 ^ 24

theorem Ring.hardware_lt (x : Ring) : x.hardware < 2 ^ 32 := by
  unfold Ring.hardware
  omega

theorem Pad.ringWord_setRing (p : Pad) (r : Nat) (x : Ring) : (p.setRing r x).ringWord r = x.hardware + 2 ^ 32 * (p.ringWord r / 2 ^ 32) := by
  have hlow : leNat (Mem.read (p.setRing r x).bytes (ringOff r + 8) 4) = x.hardware :=
    Mem.leNat_read_write_leBytes _ _ x.hardware_lt
  have hhigh : Mem.read (p.setRing r x).bytes (ringOff r + 8 + 4) 4 = Mem.read p.bytes (ringOff r + 8 + 4) 4 :=
    Mem.read_write_outside _ _ _ _ _ (.inr (by simp))
  have hold := leNat_read_eight p.bytes (ringOff r + 8)
  have hlt := leNat_lt (Mem.read p.bytes (ringOff r + 8) 4)
  rw [Mem.read_length] at hlt
  unfold Pad.ringWord
  rw [leNat_read_eight, hlow, hhigh, hold]
  omega

theorem Pad.psnOf_readP_congr {p q : Pad} (h : q.psn = p.psn) (a n : Nat) : psnOf (q.readP a n) = psnOf (p.readP a n) := by
  induction n generalizing a with
  | zero => rfl
  | succ n ih =>
    have ih' := ih (a + 1)
    simp only [psnOf] at ih' ⊢
    simp only [Pad.readP, List.findSome?_cons, h, ih']

/-- The number that a descriptor's field holds, by the bytes of the pad. -/
theorem Pad.pvalue_readP_eight (p : Pad) (a : Nat) : (pvalue (p.readP a 8)).val = BitVec.ofNat 64 (leNat (Mem.read p.bytes a 8)) := by
  simp [pvalue]

/-- A descriptor by the numbers in its two doublewords. -/
theorem Pad.ring_eq (p : Pad) (r : Nat) : p.ring r =
    { base := (pvalue (p.readP (ringOff r) 8)).val, bsize := p.ringWord r / 2 ^ 40 % 2 ^ 24, nbuf := p.ringWord r / 2 ^ 32 % 256,
      pidx := p.ringWord r / 2 ^ 24 % 256, cidx := p.ringWord r / 2 ^ 16 % 256, nfull := p.ringWord r / 2 ^ 8 % 256, nheld := p.ringWord r % 256,
      psn := (psnOf (p.readP (ringOff r) 8)).or (psnOf (p.readP (ringOff r + 8) 8)) } := by
  have hw : (pvalue (p.readP (ringOff r + 8) 8)).val.toNat = p.ringWord r := by
    rw [Pad.pvalue_readP_eight, BitVec.toNat_ofNat]
    exact Nat.mod_eq_of_lt (p.ringWord_lt r)
  simp only [Pad.ring, hw, bits_eq_div_mod, pow_zero, Nat.div_one]
  rfl

/-- The first doubleword of a descriptor is not the hardware's. -/
theorem Pad.setRing_base (p : Pad) (r : Nat) (x : Ring) :
    (pvalue ((p.setRing r x).readP (ringOff r) 8)).val = (pvalue (p.readP (ringOff r) 8)).val := by
  rw [Pad.pvalue_readP_eight, Pad.pvalue_readP_eight, Pad.setRing]
  dsimp only
  rw [Mem.read_write_outside _ _ _ _ _ (.inl (Nat.le_refl _))]

theorem Pad.setRing_psn (p : Pad) (r : Nat) (x : Ring) (a n : Nat) : psnOf ((p.setRing r x).readP a n) = psnOf (p.readP a n) :=
  Pad.psnOf_readP_congr (by rw [Pad.setRing]) a n

/-- Only the hardware fields are written: the rest of the descriptor stays. -/
theorem Pad.ring_setRing_rest (p : Pad) (r : Nat) (x : Ring) : (p.setRing r x).ring r
    = { p.ring r with nheld := x.nheld % 256, nfull := x.nfull % 256, cidx := x.cidx % 256, pidx := x.pidx % 256 } := by
  have hx := x.hardware_lt
  have hdef : x.hardware = x.nheld % 256 + x.nfull % 256 * 2 ^ 8 + x.cidx % 256 * 2 ^ 16 + x.pidx % 256 * 2 ^ 24 := rfl
  rw [Pad.ring_eq, Pad.ring_eq, Pad.setRing_base, Pad.setRing_psn, Pad.setRing_psn, Pad.ringWord_setRing]
  simp only [Ring.mk.injEq]
  refine ⟨trivial, ?size, ?nbuf, ?pidx, ?cidx, ?nfull, ?nheld, trivial⟩
  all_goals
    generalize x.hardware = h at *
    generalize p.ringWord r = w
    omega

/-- The counts of a descriptor after a release, by its counts before (R356). -/
theorem Pad.ring_release (p : Pad) (r : Nat) (consumer : Bool) :
    ((p.ring r).nheld = 0 → (p.setRing r ((p.ring r).release consumer)).ring r = p.ring r)
    ∧ ((p.ring r).nheld ≠ 0 → (p.ring r).nfull < 255 →
      ((p.setRing r ((p.ring r).release consumer)).ring r).nheld = (p.ring r).nheld - 1
      ∧ ((p.setRing r ((p.ring r).release consumer)).ring r).nfull = (p.ring r).nfull + (if consumer then 0 else 1)) := by
  have hfields : (p.ring r).nheld < 256 ∧ (p.ring r).nfull < 256 ∧ (p.ring r).cidx < 256 ∧ (p.ring r).pidx < 256 := by
    rw [Pad.ring_eq]
    exact ⟨Nat.mod_lt _ (by decide), Nat.mod_lt _ (by decide), Nat.mod_lt _ (by decide), Nat.mod_lt _ (by decide)⟩
  obtain ⟨hheld, hfull, hcidx, hpidx⟩ := hfields
  rw [Pad.ring_setRing_rest]
  constructor
  · intro h0
    rw [Ring.release, if_pos h0, Nat.mod_eq_of_lt hheld, Nat.mod_eq_of_lt hfull, Nat.mod_eq_of_lt hcidx, Nat.mod_eq_of_lt hpidx]
  · intro h0 hlt
    rw [Ring.release, if_neg h0]
    refine ⟨?_, ?_⟩
    · dsimp only
      omega
    · cases consumer <;> simp only [Bool.false_eq_true, if_true, if_false] <;> omega

/-! ### EV in every core of a cluster (R292) -/

/-- A core lies in its own cluster. -/
theorem mem_clusterCores (cid : Nat) : cid ∈ clusterCores (clusterOf cid) := by
  have hx : cid = cidOf (meshX cid) (meshY cid) := by simp only [cidOf, meshX, meshY]; omega
  have hcl : clusterOf cid % 16 = meshX cid / 2 ∧ clusterOf cid / 16 = meshY cid / 2 := by
    simp only [clusterOf, meshX]; omega
  simp only [clusterCores, hcl, List.mem_cons, cidOf]
  simp only [cidOf] at hx
  omega

/-- What setting EV in some cores leaves of the core that moves, of memory and of the cluster pads. -/
theorem State.foldl_setEv (cs : List Nat) (s : State) : (cs.foldl State.setEv s).mem = s.mem ∧ (cs.foldl State.setEv s).l2 = s.l2
    ∧ (cs.foldl State.setEv s).core.cid = s.core.cid
    ∧ (cs.foldl State.setEv s).core.t = { s.core.t with ev := s.core.t.ev || cs.contains s.core.cid } := by
  induction cs generalizing s with
  | nil => simp
  | cons c cs ih =>
    obtain ⟨hm, hl, hcid, ht⟩ := ih (s.setEv c)
    rw [List.foldl_cons, hm, hl, hcid, ht]
    by_cases h : c = s.core.cid
    · subst h
      simp [State.setEv, State.onCore, State.setCore, State.coreAt]
    · simp [State.setEv, State.onCore, State.setCore, h, Ne.symm h]

/-! ### The words (R356) -/

section
variable {s : State} {r : BitVec 6} {side : BitVec 1} {d : BitVec 6}

@[simp] theorem State.atBank_core (s : State) : s.atBank.core = s.core := s.atBank_keeps.1

theorem execRacq_granted {n : Nat} {a : PDWord} (h : s.core.t.ring = some (.granted n a)) :
    execRacq r side d s = .next ((s.atBank.mapT fun t => { t with ring := none }).later 2 (.mResult d a a.val)) := by
  simp [execRacq, h]

theorem execRacq_asked {n at' : Nat} {sd : Bool} (h : s.core.t.ring = some (.asked n sd at')) :
    execRacq r side d s = s.atBank.wait .racq := by
  simp [execRacq, h]

theorem execRacq_noBuffers (h : s.core.t.ring = none) (hn : (s.atBank.ring r).nbuf = 0) :
    execRacq r side d s = s.atBank.trap 1 .illegal (r.zeroExtend 64) := by
  simp [execRacq, h, hn]

/-- A request goes to the bank once nothing waits to leave the core; until then RACQ waits. -/
theorem execRacq_first (h : s.core.t.ring = none) (hn : (s.atBank.ring r).nbuf ≠ 0) :
    execRacq r side d s = if s.core.t.egressClear
      then ((s.atBank.mapT fun t => { t with ring := some (.asked r.toNat (side == 1) s.atBank.tick) }).push (.ringUpdate s.core.cid)).wait .racq
      else s.atBank.wait .racq := by
  by_cases he : s.core.t.egressClear = true <;> simp [execRacq, h, hn, he]

theorem execRrel_noBuffers (hn : (s.atBank.ring r).nbuf = 0) : execRrel r side s = s.atBank.trap 1 .illegal (r.zeroExtend 64) := if_pos hn

theorem execRrel_next (hn : (s.atBank.ring r).nbuf ≠ 0) :
    execRrel r side s = .next (if s.core.t.egressClear then s.atBank.releaseRing r.toNat (side == 1)
      else s.atBank.leave false (.release r.toNat (side == 1))) :=
  (if_neg hn).trans (by rw [State.atBank_core])

/-- A cluster's pad replaced. -/
def State.setL2 (s : State) (cl : Nat) (p : Pad) : State := { s with l2 := SMap.insert s.l2 cl p }

/-- A release by a core whose bank serves it writes the descriptor and sets EV in the cluster's cores (R292, R356). -/
theorem State.releaseRing_atBank (s : State) (n : Nat) (consumer : Bool) : s.atBank.releaseRing n consumer =
    (clusterCores (clusterOf s.core.cid)).foldl State.setEv (s.atBank.setL2 (clusterOf s.core.cid)
      ((s.atBank.l2At (clusterOf s.core.cid)).setRing n (((s.atBank.l2At (clusterOf s.core.cid)).ring n).release consumer))) := by
  rw [State.releaseRing, State.atBank_atBank, ← State.atBank_core s]
  rfl

theorem State.releaseRing_leaves (s : State) (n : Nat) (consumer : Bool) :
    let t := s.atBank.releaseRing n consumer
    let cl := clusterOf s.core.cid
    t.l2At cl = (s.atBank.l2At cl).setRing n (((s.atBank.l2At cl).ring n).release consumer)
      ∧ (∀ c, c ≠ cl → t.l2At c = s.l2At c) ∧ t.mem = s.mem ∧ t.core.t = { s.core.t with ev := true } := by
  intro t cl
  obtain ⟨-, -, hmem, -, hl2⟩ := s.atBank_keeps
  obtain ⟨fm, fl, -, ft⟩ := State.foldl_setEv (clusterCores cl) (s.atBank.setL2 cl
    ((s.atBank.l2At cl).setRing n (((s.atBank.l2At cl).ring n).release consumer)))
  rw [← State.releaseRing_atBank] at fm fl ft
  refine ⟨?pad, fun c hc => ?others, fm.trans hmem, ft.trans ?core⟩
  case pad =>
    rw [State.l2At, fl]
    simp [State.setL2, SMap.getD, SMap.find?_insert_self]
  case others =>
    rw [← hl2 c hc, State.l2At, fl]
    simp [State.setL2, State.l2At, SMap.getD, SMap.find?_insert_ne _ _ hc]
  case core =>
    have hin : (clusterCores cl).contains s.core.cid = true := by simpa using mem_clusterCores s.core.cid
    simp only [State.setL2, State.atBank_core, hin, Bool.or_true]

end

/-- The bytes of a pad but for a descriptor's hardware fields (R187). -/
theorem Pad.get_setRing_outside (p : Pad) (n : Nat) (x : Ring) {a : Nat} (h : a < ringOff n + 8 ∨ ringOff n + 12 ≤ a) :
    Mem.get (p.setRing n x).bytes a = Mem.get p.bytes a := by
  rw [Pad.setRing]
  refine Mem.get_write_outside _ _ _ _ (h.imp_right fun h => ?_)
  rw [leBytes_length]
  omega

/-! ### The statement -/

/-- Settles O47: the words on barriers by cases of the core's own copy, the words on rings by what the own bank holds. -/
theorem barriersAndRings : Obligations.BarriersAndRings := by
  refine ⟨fun s b a ha => ?_, fun s r side d => ?_⟩
  · intro v rect old
    refine ⟨fun hhi hmid hal hin hhas => ?bari, fun hv hp => ?bara, execBara_illegal, fun hv hp => ?barw, fun hv hp => ?barwait, execBarw_illegal⟩
    case bari =>
      have hexec := execBari_legal (b := b) ha hhi hmid hal hin hhas
      refine ⟨fun hv hr => hexec.trans (if_pos ⟨hv, hr⟩), ?_⟩
      by_cases hold : old.valid = true ∧ old.rect = rect
      · refine ⟨s, hexec.trans (if_pos hold), hold.1, hold.2, fun h => ?_, fun _ _ => rfl, s.core.t.sameRegs_refl, ⟨rfl, rfl, rfl, rfl, rfl, rfl, rfl⟩⟩
        simp_all
      · exact ⟨_, hexec.trans (if_neg hold), by simp [State.setBar], by simp [State.setBar, rect, v], fun _ => by simp [State.setBar, rect, v],
          fun c hc => Thread.bar_setBar_ne _ _ hc, ⟨rfl, rfl, rfl, rfl, rfl⟩, s.sameMemory_setBar _ _⟩
    case bara =>
      refine ⟨_, execBara_legal hv hp, ?_⟩
      split
      · next he =>
        exact ⟨Thread.bar_setBar .., fun c hc => Thread.bar_setBar_ne _ _ hc, fun _ => rfl, fun h => by simp [h] at he,
          ⟨rfl, rfl, rfl, rfl, rfl⟩, s.sameMemory_setBar _ _⟩
      · next he =>
        exact ⟨Thread.bar_setBar s.core.t b { old with pending := true },
          fun c hc => Thread.bar_setBar_ne s.core.t { old with pending := true } hc, fun h => absurd h he, fun _ => rfl,
          ⟨rfl, rfl, rfl, rfl, rfl⟩, s.sameMemory_setBar b { old with pending := true }⟩
    case barw => exact (execBarw_valid hv).trans (by simp [show (s.core.t.bar b).pending = false from hp])
    case barwait => exact (execBarw_valid hv).trans (by simp [show (s.core.t.bar b).pending = true from hp])
  · intro v x cl
    have hx : x = (v.l2At cl).ring r.toNat := by simp [x, State.ring, v, cl]
    refine ⟨fun n a => execRacq_granted, execRacq_noBuffers, fun hr hn he => ?ask, fun hr hn he => ?egress, fun n sd at' => execRacq_asked,
      execRrel_noBuffers, fun hn he => ?leave, fun hn he => ?release, rfl⟩
    case ask =>
      obtain ⟨hcore, hagenda, hmem, htick, -⟩ := s.atBank_keeps
      refine ⟨_, (execRacq_first hr hn).trans (if_pos he), ?_, rfl, ?_, ?_, hmem, rfl⟩
      · exact congrArg (fun n => some (RingReq.asked r.toNat (side == 1) n)) htick
      · exact congrArg (· ++ _) hagenda
      · exact hcore ▸ ⟨rfl, rfl, rfl, rfl, rfl⟩
    case egress => exact (execRacq_first hr hn).trans (if_neg (by simp [he]))
    case leave => exact (execRrel_next hn).trans (by simp [he, v])
    case release =>
      obtain ⟨hpad, hothers, hmem, hcore⟩ := s.releaseRing_leaves r.toNat (side == 1)
      refine ⟨_, (execRrel_next hn).trans (by rw [if_pos he]), hothers, fun p hp => ?_, fun h0 => ?_, fun h0 hf => ?_, ?_, ?_, hmem⟩
      · rw [hpad, Pad.get_setRing_outside _ _ _ hp]
      · rw [hpad, hx]
        exact (Pad.ring_release _ _ _).1 (hx ▸ h0)
      · rw [hpad, hx]
        simpa using (Pad.ring_release (v.l2At cl) r.toNat (side == 1)).2 (hx ▸ h0) (hx ▸ hf)
      · rw [hcore]
      · rw [hcore]
        exact ⟨rfl, rfl, rfl, rfl, rfl⟩

end Sys2Proof.Machine
end

section
/-! WLPUSH, WLNEST, WLFLOOR and TSUCC (R357 to R359). -/

namespace Sys2Proof.Machine

/-- In a gang launch the words that name a packet are ILLEGAL (R357). -/
theorem State.packetAt_gang {s : State} (h : s.core.t.gang = true) (b : BitVec 4) (more : List Psn) (k : DWord → List Byte → Out) :
    s.packetAt b more k = s.trap 1 .illegal 0 := if_pos h

/-! ### A packet that nothing holds back (R93, R358) -/

section
variable {s s1 : State} {kinds : List Nat} {bs : List Byte}

/-- The hub has accepted it: the word goes on with the handle. -/
theorem State.pushPacket_accepted {h : Word} (hh : s.hubAccept s.core.t.lslot (dieOf s.core.cid) kinds false none (some s.core.cid) bs = .ok (.ok h, s1))
    (hr : s1.core.t.mode = .run) (a : DWord) (k : Word → State → Out) : s.pushPacket kinds a bs k = k h s1.noRerun := by
  unfold State.pushPacket
  simp only [hh]
  exact if_pos hr

/-- The hub has refused it. -/
theorem State.pushPacket_refused (hh : s.hubAccept s.core.t.lslot (dieOf s.core.cid) kinds false none (some s.core.cid) bs = .ok (.error .badPacket, s1))
    (a : DWord) (k : Word → State → Out) : s.pushPacket kinds a bs k = s1.trap 5 .badPacket a := by
  unfold State.pushPacket
  simp only [hh]

end

/-! ### TSUCC (R359) -/

section
variable {s : State} {r : BitVec 5} (hg : s.core.t.gang = false) (hc : (s.srcS r).psn = none)
include hg hc

theorem execTsucc_appends (h : s.core.t.task.succ.length < 7) :
    execTsucc r s = .next (s.mapT fun t => { t with task := { t.task with succ := t.task.succ ++ [(s.srcS r).val] } }) := by
  simp [execTsucc, hg, s.checked_clean _ _ (show ∀ x ∈ [(s.srcS r).psn], x = none by simp [hc]), h]

theorem execTsucc_full (h : 7 ≤ s.core.t.task.succ.length) : execTsucc r s = s.trap 1 .illegal (s.srcS r).val.zext := by
  simp [execTsucc, hg, s.checked_clean _ _ (show ∀ x ∈ [(s.srcS r).psn], x = none by simp [hc]), h]

end

/-! ### The statement -/

/-- Settles O48: a packet that passes its checks is handed to the hub at once, by what the hub answers, or waits to leave. -/
theorem worklistWords : Obligations.WorklistWords := by
  intro s d r b l a die slot
  refine ⟨fun hg hl => ⟨?pushGang, ?nestGang, if_pos hg⟩, fun off n hg hp hal ho hn h0 h256 hle hhead hall => ?packet,
    fun hl => State.slotFree_free hl, fun hg hc => ⟨fun h => ?succ, execTsucc_full hg hc⟩⟩
  case pushGang => exact (State.slotFree_free hl).trans (State.packetAt_gang hg _ _ _)
  case nestGang =>
    change execWlnest b s = _
    rw [execWlnest, State.packetAt_gang hg]
  case succ => exact ⟨_, execTsucc_appends hg hc h, rfl, ⟨rfl, rfl, rfl, rfl, rfl⟩, by simp [Thread.sameControl], ⟨rfl, rfl, rfl, rfl, rfl, rfl, rfl⟩⟩
  case packet =>
    intro bs
    have hpacket (k : DWord → List Byte → Out) : s.packetAt b [] k = k a.val bs :=
      State.packetAt_own k hg (by simp [a, hp]) hal ho hn h0 h256 hle hhead hall
    have hnest : exec (.wlnest b) s = if s.pushClear then s.pushPacket [2] a.val bs fun _ s => .next s
        else .next (s.noRerun.leave false (.push none bs)) := by
      change execWlnest b s = _
      rw [execWlnest, hpacket]
    have hpush (hl : s.core.t.landings < 32) : exec (.wlpush d b l) s =
        if s.pushClear then s.pushPacket [0] a.val bs fun h s => .next (s.land d l.toNat (some ⟨h.sext, none⟩) false)
        else .next ((s.noRerun.land d l.toNat none false).leave false (.push (some s.core.t.landId) bs)) :=
      (State.slotFree_free hl).trans (hpacket _)
    refine ⟨fun hclear => ⟨fun h s1 hh hr hl => ?accepted, fun s1 hh hl => ?refused, fun h s1 hh hr => ?nest⟩,
      fun hclear => ⟨fun hl => ?later, ?nestLater⟩⟩
    case accepted => rw [hpush hl, if_pos hclear, State.pushPacket_accepted hh hr]
    case refused => rw [hpush hl, if_pos hclear, State.pushPacket_refused hh]
    case nest => rw [hnest, if_pos hclear, State.pushPacket_accepted hh hr]
    case later => rw [hpush hl, if_neg (by simp [hclear])]
    case nestLater => rw [hnest, if_neg (by simp [hclear])]

end Sys2Proof.Machine
end

section
/-! Steps of a core's units: landing slots, code, tile moves, the array, rewrites of queues, peer reads (R79, R166, R283, R318, R326 to R342,
R350, R352, R363). -/

namespace Sys2Proof.Machine

/-! ### What a due step leaves -/

section
variable {α : Type} (p : State → α) (h : ∀ s a, p { s with agenda := a } = p s) (s : State) (cid : Nat)
include h

theorem State.tileDue_keeps (q : Nat) : p (s.tileDue cid q) = p s := by
  unfold State.tileDue
  split
  · exact State.pushOnce_keeps p h _ _
  · rfl

theorem State.arrayDue_keeps : p (s.arrayDue cid) = p s := by
  unfold State.arrayDue
  split
  · exact State.pushOnce_keeps p h _ _
  · rfl

end

theorem State.mem_pushOnce (s : State) (i : Instr) : i ∈ (s.pushOnce i).agenda := by
  unfold State.pushOnce
  split
  · next h => simpa using h
  · simp [State.push]

/-- What no step of a unit of one core touches: memory and the pads of others. -/
def State.sharedSame (s t : State) : Prop := t.mem = s.mem ∧ t.l2 = s.l2 ∧ t.l3 = s.l3

theorem State.sharedSame_onCore (s : State) (cid : Nat) (f : Core → Core) : s.sharedSame (s.onCore cid f) :=
  ⟨by simp, by simp, by simp⟩

/-! ### The head of a tile queue is performed (R350) -/

theorem State.tileDone_coreAt (s : State) (cid q num : Nat) : (s.tileDone cid q num).coreAt cid =
    { s.coreAt cid with t := ((s.coreAt cid).t.setTq q ((s.coreAt cid).t.tq q).tail).complete (tqLine q) num, cid := cid } := by
  rw [State.tileDone, State.tileDue_keeps (fun s => s.coreAt cid) (fun _ _ => rfl), State.coreAt_onCore_self]

theorem State.tileDone_keeps {α : Type} (p : State → α) (ha : ∀ s a, p { s with agenda := a } = p s) (hc : ∀ s k f, p (State.onCore s k f) = p s)
    (s : State) (cid q num : Nat) : p (s.tileDone cid q num) = p s := by
  rw [State.tileDone, State.tileDue_keeps p ha, hc]

theorem State.sharedSame_tileDone (s : State) (cid q num : Nat) : s.sharedSame (s.tileDone cid q num) :=
  ⟨s.tileDone_keeps State.mem (fun _ _ => rfl) (by simp) .., s.tileDone_keeps State.l2 (fun _ _ => rfl) (by simp) ..,
    s.tileDone_keeps State.l3 (fun _ _ => rfl) (by simp) ..⟩

/-- The operation at the head of a queue runs when nothing before it holds it (R196, R350). -/
theorem State.tileStep_runs {s : State} {cid q : Nat} {kind : TileOp → Bool} {op : TileOp} {rest : List TileOp} (again : Instr)
    (hq : (s.coreAt cid).t.tq q = op :: rest) (hk : kind op = true) (hw : (s.coreAt cid).t.tileWaits q op = false)
    (he : s.eqBefore cid (s.coreAt cid).t.lslot op.seq (((s.coreAt cid).t.opMem op).map (fun m => m.1)) = false) :
    s.tileStep cid q kind again = s.tileRun cid q op := by
  simp [State.tileStep, hq, hk, hw, he]

/-! ### Tiles in a pad (R182) -/

/-- Bytes outside those stored stay, poisoned or not. -/
theorem Pad.writeP_bytes (p : Pad) (a : Nat) (bs : List PByte) : (p.writeP a bs).bytes = Mem.write p.bytes a (plain bs) := by
  unfold Pad.writeP
  exact foldl_keeps Pad.bytes _ (fun q x => by cases x.1.2 <;> rfl) _ _

theorem Pad.get_foldl_writeP (p : Pad) (ws : List (Nat × List PByte)) (x : Nat) (h : ∀ w ∈ ws, x < w.1 ∨ w.1 + w.2.length ≤ x) :
    Mem.get (ws.foldl (fun p w => p.writeP w.1 w.2) p).bytes x = Mem.get p.bytes x := by
  induction ws generalizing p with
  | nil => rfl
  | cons w ws ih =>
    rw [List.foldl_cons, ih _ fun v hv => h v (List.mem_cons_of_mem _ hv), Pad.writeP_bytes]
    exact Mem.get_write_outside _ _ _ _ (by simpa [plain] using h w List.mem_cons_self)

/-- A tile's elements lie inside the tile (R182). -/
theorem Obj.place_inside (o : Obj) {i j : Nat} (hi : i < o.trows) (hj : j < o.tcols) : o.place o.size i j + o.size ≤ o.tileBytes := by
  have hcol : j * o.size + o.size ≤ o.pitch := by
    have hmul : (j + 1) * o.size ≤ o.tcols * o.size := Nat.mul_le_mul_right _ hj
    rw [Nat.add_mul, Nat.one_mul] at hmul
    simp only [Obj.pitch, Obj.pitchOf]
    omega
  have hrow : (i + 1) * o.pitch ≤ o.trows * o.pitch := Nat.mul_le_mul_right _ hi
  rw [Nat.add_mul, Nat.one_mul] at hrow
  simp only [Obj.place, Obj.tileBytes]
  change i * o.pitch + j * o.size + o.size ≤ _
  omega

/-- A tile laid out leaves the bytes outside it. -/
theorem Pad.get_putTile_outside (p : Pad) (o : Obj) (l1 : Nat) (es : List Elem) {x : Nat}
    (hes : ∀ e ∈ es, e.1.1 < o.trows ∧ e.1.2 < o.tcols ∧ e.2.length = o.size) (hx : x < l1 ∨ l1 + o.tileBytes ≤ x) :
    Mem.get (p.putTile o l1 o.size es).bytes x = Mem.get p.bytes x := by
  have hfold : p.putTile o l1 o.size es
      = (es.map fun e => (l1 + o.place o.size e.1.1 e.1.2, e.2)).foldl (fun p w => p.writeP w.1 w.2) (p.zero l1 o.tileBytes) := by
    rw [List.foldl_map]; rfl
  rw [hfold, Pad.get_foldl_writeP]
  · simp only [Pad.zero, Mem.get_clear]
    exact if_neg (by omega)
  · intro w hw
    obtain ⟨e, he, rfl⟩ := List.mem_map.1 hw
    obtain ⟨hi, hj, hlen⟩ := hes e he
    have := o.place_inside hi hj
    dsimp only
    omega

/-! ### The array (R326, R331, R333) -/

theorem SArray.each_keeps {β α : Type} (p : SArray → β) (h : ∀ a row c x, p (SArray.put a row c x) = p a) (a : SArray) (xs : List α)
    (key : α → Nat × Nat) (f : α → Acc → Acc × Bool) : p (a.each xs key f).1 = p a :=
  foldl_keeps (fun r : SArray × Bool => p r.1) _ (fun r _ => h r.1 _ _ _) xs (a, false)

theorem SArray.pass_queue (a : SArray) (p : Pad) (t : NestTab) (cfg : NestCfg) (lo hi j : Nat) (first : Bool) :
    (a.pass p t cfg lo hi j first).1.queue = a.queue := by
  unfold SArray.pass
  dsimp only
  rw [SArray.each_keeps SArray.queue fun _ _ _ _ => rfl]
  split
  · rw [SArray.each_keeps SArray.queue fun _ _ _ _ => rfl, SArray.each_keeps SArray.queue fun _ _ _ _ => rfl]
  · rw [SArray.each_keeps SArray.queue fun _ _ _ _ => rfl]

theorem SArray.finish_queue (a : SArray) (t : NestTab) (cfg : NestCfg) (j : Nat) : (a.finish t cfg j).queue = a.queue := by
  unfold SArray.finish
  dsimp only
  rw [SArray.each_keeps SArray.queue fun _ _ _ _ => rfl]

theorem Thread.alignLoss_keeps {α : Type} (p : Thread → α) (h : ∀ (t : Thread) x, p { t with stat := x } = p t) (t : Thread) (lost : Bool) :
    p (t.alignLoss lost) = p t := by
  unfold Thread.alignLoss
  split
  · exact h t _
  · rfl

/-- After its first phase a nest parks, and stays at the head of its queue (R333). -/
theorem Thread.parkNest_parks (t : Thread) (p : Pad) (h : ∃ o ∈ t.arr.queue.head?, t.isPrefix o = true) :
    (t.parkNest p).1.arr.phase = .parked ∧ (t.parkNest p).1.arr.queue = t.arr.queue ∧ t.sameRegs (t.parkNest p).1 := by
  obtain ⟨o, ho, hpfx⟩ := h
  cases o with
  | sgo at' num nt cfg stop =>
    obtain ⟨rest, hq⟩ : ∃ rest, t.arr.queue = .sgo at' num nt cfg stop :: rest := List.head?_eq_some_iff.1 ho
    have harr (u : Thread) (lost : Bool) : (u.alignLoss lost).arr = u.arr := u.alignLoss_keeps Thread.arr (fun _ _ => rfl) lost
    simp only [Thread.parkNest, hq, harr, Thread.complete]
    refine ⟨trivial, (SArray.pass_queue ..).trans hq, ?_⟩
    refine ⟨?_, ?_, ?_, ?_, ?_⟩ <;> exact Thread.alignLoss_keeps _ (fun _ _ => rfl) _ _
  | _ => cases hpfx

/-- A thread whose array has done the operation that was at the head of its queue (R326). -/
def Thread.headDone (t u : Thread) : Prop := t.sameRegs u ∧ u.arr.queue = t.arr.queue.tail ∧ u.arr.phase = .idle

theorem Thread.headDone_arrayDone {t u : Thread} (num : Nat) (hr : t.sameRegs u) (hq : u.arr.queue = t.arr.queue) : t.headDone (u.arrayDone num) :=
  ⟨hr, congrArg List.tail hq, rfl⟩

theorem Thread.headDone_alignLoss {t u : Thread} (h : t.headDone u) (lost : Bool) : t.headDone (u.alignLoss lost) := by
  unfold Thread.alignLoss
  split
  · exact h
  · exact h

/-- An operation that may come to its end leaves the queue (R327, R329, R331, R333, R337). -/
theorem Thread.runArray_ends (t : Thread) (p : Pad) (h : t.arrayEnds = true) : t.headDone (t.runArray p).1 := by
  unfold Thread.arrayEnds at h
  cases hq : t.arr.queue with
  | nil => cases hp : t.arr.phase <;> simp [hp, hq] at h
  | cons o rest =>
    unfold Thread.runArray
    cases o with
    | wbld at' num src len place =>
      simp only [hq]
      exact Thread.headDone_arrayDone (t := t) num ⟨rfl, rfl, rfl, rfl, rfl⟩ rfl
    | wlatch num l inf u pb sparse place =>
      simp only [hq]
      exact Thread.headDone_arrayDone (t := t) num ⟨rfl, rfl, rfl, rfl, rfl⟩ hq.symm
    | sclr num =>
      simp only [hq]
      exact Thread.headDone_arrayDone (t := t) num ⟨rfl, rfl, rfl, rfl, rfl⟩ rfl
    | sgo at' num nt cfg stop =>
      have hpass (a : SArray) (ha : a.queue = t.arr.queue) (j n : Nat) (lost : Bool) :
          t.headDone ((({ t with arr := a.finish (t.activeTab nt) cfg j } : Thread).arrayDone n).alignLoss lost) :=
        Thread.headDone_alignLoss (Thread.headDone_arrayDone (t := t) (u := { t with arr := a.finish (t.activeTab nt) cfg j }) n ⟨rfl, rfl, rfl, rfl, rfl⟩ ((SArray.finish_queue ..).trans ha)) lost
      simp only [hq]
      split
      · dsimp only
        exact hpass (t.arr.pass p (t.activeTab nt) cfg 0 (2 ^ cfg.m) cfg.m true).1 (SArray.pass_queue ..) _ _ _
      · next hpfx =>
        cases stop with
        | none => cases hp : t.arr.phase <;> simp [hp, hq, Thread.isPrefix, hpfx] at h
        | some j =>
          dsimp only
          split
          · exact hpass _ rfl _ _ _
          · exact hpass _ (SArray.pass_queue ..) _ _ _

theorem Thread.runArray_sclr {t : Thread} {num : Nat} {rest : List ArrayOp} (p : Pad) (h : t.arr.queue = .sclr num :: rest) (row col : Nat) :
    (t.runArray p).1.arr.at row col = {} := by
  simp [Thread.runArray, h, Thread.arrayDone, Thread.complete, SArray.clear, SArray.at, SMap.getD, SMap.find?]

theorem Thread.runArray_wbld {t : Thread} {at' num src len place : Nat} {rest : List ArrayOp} (p : Pad)
    (h : t.arr.queue = .wbld at' num src len place :: rest) {k : Nat} (hk : k < 64 * len) :
    Mem.get (t.runArray p).1.wbuf (64 * place + k) = Mem.get p.bytes (src + k) := by
  simp only [Thread.runArray, h, Thread.arrayDone, Thread.complete, Thread.copyWeights, Pad.read]
  rw [Mem.get_write_inside _ _ _ _ (by simpa using hk), Mem.getElem_read]

/-! ### Peer reads (R79, R352) -/

/-- A poisoned first byte poisons its word, whatever follows (R147). -/
theorem Pad.writeP_psn_first (p : Pad) (a : Nat) (b : Byte) (o : Origin) (bs : List PByte) :
    (SMap.find? (p.writeP a ((b, some o) :: bs)).psn (a / 8)).isSome = true := by
  unfold Pad.writeP
  rw [List.zipIdx_cons, List.foldl_cons]
  refine List.foldlRecOn (motive := fun q : Pad => (SMap.find? q.psn (a / 8)).isSome = true) _ _ ?_ fun q hq x _ => ?_
  · simp
  · cases x.1.2 with
    | none => exact hq
    | some o' =>
      dsimp only
      rw [SMap.find?_insert]
      split
      · rfl
      · exact hq

/-- An error of an entry counts (R79). -/
theorem State.outWin_outError {s : State} {e : Nat} (h : e < 16) : ((s.outError e).outWin e).err = sat64 (s.outWin e).err := by
  simp [State.outError, State.outWin, h]

/-- The bytes that the end of a peer read brings: its data, or poison when no completion has come (R79, R352). -/
def State.peerBytes (s : State) (size : Nat) : Option (List Byte) → List PByte
  | some d => clean ((d ++ List.replicate size 0).take size)
  | none => (List.range size).map (fun i => (Config.peerByte (s.tick + i), some .unnamed))

section
variable {s : State} {r : PeerRead} {seq num l1 len : Nat} (hr : s.peerReads = [r]) (hn : r.got = none)
  (hq : (s.coreAt r.cid).t.tq r.q = [.peer seq num r.group l1 len])
include hr hn hq

omit hn in
/-- What the end of the last read of a peer move leaves (R352). -/
theorem State.peerEnds_last (data : Option (List Byte)) : s.peerEnds r data =
    (({ s with
      outWins := (if data.isNone then s.outError r.oute else s).outWins
      agenda := s.agenda.filter (fun i => i != .outboundTimeout r.tag)
      peerReads := [] } : State).onL1 r.cid
      fun p => (p.zero l1 len).writeP r.l1 (s.peerBytes r.size data)).push (.tileMoveComplete r.cid r.q) := by
  have hmove (u : State) (hc : u.core = s.core) (hp : u.parked = s.parked) : u.peerMove r = some (l1, len) := by
    simp [State.peerMove, State.coreAt_congr hc hp, hq]
  cases data with
  | some d => simp [State.peerEnds, hmove, hr, State.peerBytes]
  | none =>
    by_cases he : r.oute < 16
    · simp [State.peerEnds, hmove, hr, State.peerBytes, State.outError, he]
    · simp [State.peerEnds, hmove, hr, State.peerBytes, State.outError, he]

end

/-- A move whose last read has ended, by the bytes that it brings. -/
theorem State.coreAt_onL1_push (s : State) (ws : Vector OutWin 16) (is : List Instr) (rs : List PeerRead) (cid : Nat) (f : Pad → Pad) (i : Instr) :
    ((({ s with outWins := ws, agenda := is, peerReads := rs } : State).onL1 cid f).push i).coreAt cid
      = { s.coreAt cid with l1 := f (s.coreAt cid).l1, cid := cid } := by
  change (({ s with outWins := ws, agenda := is, peerReads := rs } : State).onL1 cid f).coreAt cid = _
  rw [State.onL1, State.coreAt_onCore_self]
  rfl

/-! ### Units of one core -/

/-- What a step of a unit leaves of a core's registers, of memory and of the pads of others. -/
def State.unitSame (s t : State) (cid : Nat) : Prop := (s.coreAt cid).t.sameRegs (t.coreAt cid).t ∧ s.sharedSame t

/-- A change to one core that leaves its registers. -/
theorem State.unitSame_onCore {s : State} {cid : Nat} {f : Core → Core} (h : (s.coreAt cid).t.sameRegs (f (s.coreAt cid)).t) :
    s.unitSame (s.onCore cid f) cid := by
  refine ⟨?_, s.sharedSame_onCore cid f⟩
  rw [State.coreAt_onCore_self]
  exact h

theorem State.unitSame_tileDone {s u : State} {cid : Nat} (h : s.unitSame u cid) (q num : Nat) : s.unitSame (u.tileDone cid q num) cid := by
  obtain ⟨hregs, hm, h2, h3⟩ := h
  obtain ⟨km, k2, k3⟩ := u.sharedSame_tileDone cid q num
  refine ⟨?_, km.trans hm, k2.trans h2, k3.trans h3⟩
  rw [State.tileDone_coreAt]
  refine Thread.sameRegs_trans hregs ?_
  unfold Thread.setTq
  split
  · exact ⟨rfl, rfl, rfl, rfl, rfl⟩
  · exact ⟨rfl, rfl, rfl, rfl, rfl⟩

/-- A step of the array: the core's thread changed, the loss mark carried to its launch, and the next step due (R75, R216, R326). -/
def State.arrayStepped (s : State) (cid : Nat) (r : Thread × Bool) : State :=
  ((s.onCore cid fun c => { c with t := r.1 }).lossFlag (s.coreAt cid).t.lslot r.2).arrayDue cid

theorem State.arrayStepped_keeps {α : Type} (p : State → α) (ha : ∀ s a, p { s with agenda := a } = p s)
    (hl : ∀ s l f, p (State.onLaunch s l f) = p s) (s : State) (cid : Nat) (r : Thread × Bool) :
    p (s.arrayStepped cid r) = p (s.onCore cid fun c => { c with t := r.1 }) := by
  rw [State.arrayStepped, State.arrayDue_keeps p ha]
  unfold State.lossFlag
  split
  · exact hl _ _ _
  · rfl

theorem State.arrayStepped_coreAt (s : State) (cid : Nat) (r : Thread × Bool) :
    (s.arrayStepped cid r).coreAt cid = { s.coreAt cid with t := r.1, cid := cid } := by
  rw [State.arrayStepped_keeps (fun s => s.coreAt cid) (fun _ _ => rfl) fun s l f => State.coreAt_congr (by simp) (by simp) cid,
    State.coreAt_onCore_self]

theorem State.unitSame_arrayStepped {s : State} {cid : Nat} {r : Thread × Bool} (h : (s.coreAt cid).t.sameRegs r.1) :
    s.unitSame (s.arrayStepped cid r) cid := by
  refine ⟨by rwa [State.arrayStepped_coreAt], ?_, ?_, ?_⟩
  · rw [State.arrayStepped_keeps State.mem (fun _ _ => rfl) (by simp), State.onCore_mem]
  · rw [State.arrayStepped_keeps State.l2 (fun _ _ => rfl) (by simp), State.onCore_l2]
  · rw [State.arrayStepped_keeps State.l3 (fun _ _ => rfl) (by simp), State.onCore_l3]

section
variable {s : State} {cid : Nat}

/-- The data of a landing slot has come; every other result in flight stays (R166). -/
theorem Thread.landBack_flights (t : Thread) (id : Nat) :
    (∀ f ∈ t.flights, ∀ d v k, f.fx = .land id d (some v) k → ⟨f.off, .land id d (some v) (some 0)⟩ ∈ (t.landBack id).flights)
    ∧ (∀ f ∈ t.flights, (∀ d v k, f.fx ≠ .land id d (some v) k) → f ∈ (t.landBack id).flights) := by
  constructor
  · intro f hf d v k hfx
    exact List.mem_map.2 ⟨f, hf, by simp [hfx]⟩
  · intro f hf hfx
    refine List.mem_map.2 ⟨f, hf, ?_⟩
    split
    · next i d v k h =>
      refine if_neg fun hi => ?_
      subst hi
      exact hfx d v k h
    · rfl

/-- TFILL at the head of its queue lays its tile and completes (R350). -/
theorem State.tileRun_tfill {seq num slot l1 : Nat} {v pc : DWord} {o : Obj} (q : Nat) (ho : SMap.find? (s.coreAt cid).t.objs slot = some o)
    (hl : l1 + o.tileBytes ≤ 2 ^ 21) :
    s.tileRun cid q (.tfill seq num slot l1 v pc) = .next ((s.onL1 cid fun p => p.putTile o l1 o.size
      ((List.range o.trows).flatMap fun i => (List.range o.tcols).map fun j => ((i, j), clean (leBytes o.size v.toNat)))).tileDone cid q num) := by
  have hslot : s.slotOf cid slot = some o := ho
  simp only [State.tileRun, hslot]
  exact if_neg (Nat.not_lt.2 hl)

/-- A move from memory that fits its slot's object is performed as R350 and R351 say. -/
theorem State.tileRun_moveIn {seq num slot l1 ty tx : Nat} {quant : Bool} {pc : DWord} {o : Obj} {s1 s2 : State} (q : Nat)
    (ho : SMap.find? (s.coreAt cid).t.objs slot = some o) (ht : o.hasTile ty tx = true) (hf : o.forbids quant false = false)
    (hl : l1 + o.moveArea quant ≤ 2 ^ 21) (hp : o.peer = false) (hm : s.moveIn cid q num (s.engineOf cid) o quant l1 ty tx = .ok (s1, s2)) :
    s.tileRun cid q (.tmov seq num false quant slot l1 ty tx pc) = .next (s1.unhold (.engine cid)) := by
  have hslot : s.slotOf cid slot = some o := ho
  have hl' := Nat.not_lt.2 hl
  simp only [State.tileRun, hslot, ht, hf, hp, hm, hl']
  simp

/-- An object-table entry is loaded into its slot (R363). -/
theorem State.tileRun_objld {seq num slot index : Nat} {pc : DWord} {o : Option Obj} {s1 : State} (q : Nat)
    (h : s.readObj (s.engineOf cid) ((SMap.find? s.launches (s.coreAt cid).t.lslot).map (fun x => x.lrec.objAddr) |>.getD 0) index = .ok (o, s1)) :
    s.tileRun cid q (.objld seq num slot index pc) = .next (((s1.onCore cid fun c => { c with t := { c.t with objs := SMap.put c.t.objs slot o } }).tileDone
      cid q num).unhold (.engine cid)) := by
  simp only [State.tileRun]
  change (match s.readObj (s.engineOf cid) ((SMap.find? s.launches (s.coreAt cid).t.lslot).map (fun x => x.lrec.objAddr) |>.getD 0) index with
    | .ok (o, s) => _ | .error e => _) = _
  rw [h]

theorem SMap.find?_put {α : Type} (m : SMap α) (a b : Nat) (o : Option α) :
    SMap.find? (SMap.put m a o) b = if b = a then o else SMap.find? m b := by
  cases o with
  | some v => exact SMap.find?_insert m a b v
  | none =>
    split
    · next h => exact h ▸ SMap.find?_erase_self m a
    · next h => exact SMap.find?_erase_ne m h

/-- A thread whose head operation of a tile queue is done keeps its slots (R350). -/
theorem Thread.setTq_complete_objs (t : Thread) (q : Nat) (x : List TileOp) (k : Fin 8) (n : Nat) : ((t.setTq q x).complete k n).objs = t.objs := by
  unfold Thread.setTq
  split <;> rfl

/-- Elements that TFILL lays: each of its tile, in the bytes of the element's size. -/
theorem fillElems_inside (o : Obj) (v : Nat) : ∀ e ∈ ((List.range o.trows).flatMap fun i => (List.range o.tcols).map fun j =>
    (((i, j), clean (leBytes o.size v)) : Elem)), e.1.1 < o.trows ∧ e.1.2 < o.tcols ∧ e.2.length = o.size := by
  intro e he
  simp only [List.mem_flatMap, List.mem_map, List.mem_range] at he
  obtain ⟨i, hi, j, hj, rfl⟩ := he
  exact ⟨hi, hj, by simp [clean]⟩

/-- A publication empties the launch's copies of its object table (R184, R363). -/
theorem State.find?_onLaunch_self {l : Nat} {x : Launch} (f : Launch → Launch) (h : SMap.find? s.launches l = some x) :
    SMap.find? (s.onLaunch l f).launches l = some (f x) := by
  simp [State.onLaunch, h]

end

/-! ### Steps of the array -/

/-- The operation that has begun at the head of the queue has its next step due (R326). -/
theorem State.arrayDue_running {s : State} {cid : Nat} {o : ArrayOp} {rest : List ArrayOp} (hp : (s.coreAt cid).t.arr.phase = .running)
    (hq : (s.coreAt cid).t.arr.queue = o :: rest) (hc : (s.coreAt cid).cid = cid) :
    .nestPark cid ∈ (s.arrayDue cid).agenda ∨ .arrayOpComplete cid ∈ (s.arrayDue cid).agenda := by
  unfold State.arrayDue
  simp only [Core.arrayNext, hp, hq, hc]
  split
  · exact .inl (State.mem_pushOnce _ _)
  · exact .inr (State.mem_pushOnce _ _)

section
variable {s : State} {cid : Nat} (hruns : (s.coreAt cid).arrayRuns = true) (hfrozen : s.arrayFrozen cid = false)
include hruns hfrozen

theorem execArrayOpStart_begins (hne : (s.coreAt cid).t.arr.queue.isEmpty = false) (hidle : ((s.coreAt cid).t.arr.phase == .idle) = true) :
    execArrayOpStart cid s
      = .next ((s.onCore cid fun c => { c with t := { c.t with arr := { c.t.arr with phase := .running } } }).arrayDue cid) := by
  unfold execArrayOpStart
  simp only [hruns, hne, hfrozen, hidle]
  rfl

theorem execNestPark_parks (hphase : (s.coreAt cid).t.arr.phase = .running)
    (hpfx : ∃ o ∈ (s.coreAt cid).t.arr.queue.head?, (s.coreAt cid).t.isPrefix o = true) (hlock : (s.coreAt cid).t.arrayLocked = false) :
    execNestPark cid s = .next (s.arrayStepped cid ((s.coreAt cid).t.parkNest (s.coreAt cid).l1)) := by
  have hhead : (s.coreAt cid).t.arr.queue.head?.any (s.coreAt cid).t.isPrefix = true := by
    obtain ⟨o, ho, h⟩ := hpfx
    simp [Option.mem_def.1 ho, h]
  unfold execNestPark
  simp only [hruns, hphase, hhead, hfrozen, hlock]
  rfl

theorem execArrayOpComplete_ends (hends : (s.coreAt cid).t.arrayEnds = true) (hlock : (s.coreAt cid).t.arrayLocked = false) :
    execArrayOpComplete cid s = .next (s.arrayStepped cid ((s.coreAt cid).t.runArray (s.coreAt cid).l1)) := by
  unfold execArrayOpComplete
  simp only [hruns, hends, hfrozen, hlock]
  rfl

end

theorem peerReads_find {s : State} {r : PeerRead} (hr : s.peerReads = [r]) (hn : r.got = none) :
    s.peerReads.find? (fun x => x.tag == r.tag && x.got.isNone) = some r := by
  simp [hr, hn]

/-! ### The statement -/

/-- Settles O51: each unit by the lemma that says what its step leaves. -/
theorem unitSteps : Obligations.UnitSteps := by
  refine ⟨fun s cid => ?_, fun s r seq num l1 len data hr hn hq hlen => ⟨?_, fun hsize hout => ?_⟩⟩
  · intro c same
    have hzero : c.t.tq 0 = c.t.tq0 := rfl
    refine ⟨fun id => ?land, fun k hk => ?fetch, fun seq num slot l1 v pc o hq ho hl hw => ?tfill,
      fun seq num quant slot l1 ty tx pc o s1 s2 hq ho ht hf hl hp hw he hm => ?tmov, fun seq num slot index pc o s1 hq hw hread => ?objld,
      fun seq num x hq hw hx => ?objpub, ?vqbal, fun hruns hfrozen hne hidle => ?start, fun hruns hfrozen hphase hpfx hlock => ?park,
      fun hruns hfrozen hends hlock => ?complete⟩
    case land =>
      have hland := (s.coreAt cid).t.landBack_flights id
      refine ⟨_, rfl, State.unitSame_onCore ⟨rfl, rfl, rfl, rfl, rfl⟩, ?_⟩
      rw [State.coreAt_onCore_self]
      exact ⟨rfl, hland⟩
    case fetch =>
      have hk' : (s.coreAt cid).t.fetching = some k := hk
      refine ⟨_, rfl, State.unitSame_onCore ?_, ?_⟩
      · simp only [hk']
        exact ⟨rfl, rfl, rfl, rfl, rfl⟩
      · rw [State.coreAt_onCore_self]
        simp [hk', c]
    case tfill =>
      refine ⟨_, (State.tileStep_runs _ (hzero.trans hq) rfl hw rfl).trans (State.tileRun_tfill 0 ho hl),
        State.unitSame_tileDone (State.unitSame_onCore ⟨rfl, rfl, rfl, rfl, rfl⟩) _ _, ?_⟩
      rw [State.tileDone_coreAt, State.onL1, State.coreAt_onCore_self]
      refine ⟨congrArg List.tail hq, fun p hp => Pad.get_putTile_outside _ o l1 _ (fillElems_inside o _) hp, fun hnum hdone => ?_⟩
      rw [hnum]
      exact Thread.complete_next _ 0 hdone
    case tmov => exact (State.tileStep_runs _ (hzero.trans hq) rfl hw he).trans (State.tileRun_moveIn 0 ho ht hf hl hp hm)
    case objld =>
      have hobjs (u : State) (f : Core → Core) : ((((u.onCore cid f).tileDone cid 0 num).unhold (.engine cid)).coreAt cid).t.objs
          = (f (u.coreAt cid)).t.objs := by
        change (((u.onCore cid f).tileDone cid 0 num).coreAt cid).t.objs = _
        rw [State.tileDone_coreAt, State.coreAt_onCore_self, Thread.setTq_complete_objs]
      refine ⟨_, (State.tileStep_runs _ (hzero.trans hq) rfl hw rfl).trans (State.tileRun_objld 0 hread), ?_,
        (State.sharedSame_tileDone _ cid 0 num).1.trans (State.onCore_mem ..), fun k hk => ?_⟩
      · rw [hobjs, SMap.find?_put, if_pos rfl]
      · rw [hobjs, SMap.find?_put, if_neg hk]
    case objpub =>
      have hcore : (s.onLaunch c.t.lslot fun x => { x with objCopy := [] }).coreAt cid = c := State.coreAt_congr (by simp) (by simp) cid
      refine ⟨_, { x with objCopy := [] }, State.tileStep_runs _ (hzero.trans hq) rfl hw rfl,
        State.unitSame_tileDone ⟨?_, by simp, by simp, by simp⟩ _ _, ?_, rfl, ?_, ?_⟩
      · rw [hcore]
        exact Thread.sameRegs_refl _
      · rw [State.tileDone_keeps State.launches (fun _ _ => rfl) (by simp)]
        exact State.find?_onLaunch_self _ hx
      · rw [State.tileDone_coreAt, hcore]
        exact congrArg List.tail hq
      · rw [State.tileDone_coreAt, hcore]
        exact Thread.setTq_complete_objs ..
    case vqbal =>
      refine ⟨_, rfl, State.unitSame_onCore (Thread.endVqbal_sameRegs _), ?_⟩
      rw [State.coreAt_onCore_self]
      exact ⟨rfl, rfl⟩
    case start =>
      have hempty : c.t.arr.queue.isEmpty = false := by simpa using hne
      have hphase : (c.t.arr.phase == .idle) = true := by simp [hidle]
      obtain ⟨o, rest, hq⟩ := List.exists_cons_of_ne_nil hne
      have hcore := s.coreAt_onCore_self cid fun c => { c with t := { c.t with arr := { c.t.arr with phase := .running } } }
      have hdue {α : Type} (p : State → α) (hp : ∀ s a, p { s with agenda := a } = p s) := State.arrayDue_keeps p hp
        (s.onCore cid fun c => { c with t := { c.t with arr := { c.t.arr with phase := .running } } }) cid
      refine ⟨_, execArrayOpStart_begins hruns hfrozen hempty hphase, ⟨?_, (hdue State.mem fun _ _ => rfl).trans (State.onCore_mem ..),
        (hdue State.l2 fun _ _ => rfl).trans (State.onCore_l2 ..), (hdue State.l3 fun _ _ => rfl).trans (State.onCore_l3 ..)⟩, ?_,
        State.arrayDue_running (by rw [hcore]) (by rw [hcore]; exact hq) (by rw [hcore])⟩
      · rw [hdue (fun s => s.coreAt cid) fun _ _ => rfl, hcore]
        exact ⟨rfl, rfl, rfl, rfl, rfl⟩
      · rw [hdue (fun s => s.coreAt cid) fun _ _ => rfl, hcore]
    case park =>
      obtain ⟨hparked, hqueue, hregs⟩ := c.t.parkNest_parks c.l1 hpfx
      refine ⟨_, execNestPark_parks hruns hfrozen hphase hpfx hlock, State.unitSame_arrayStepped hregs, ?_⟩
      rw [State.arrayStepped_coreAt]
      exact ⟨rfl, hparked, hqueue⟩
    case complete =>
      obtain ⟨hregs, hqueue, hidle⟩ := c.t.runArray_ends c.l1 hends
      refine ⟨_, execArrayOpComplete_ends hruns hfrozen hends hlock, State.unitSame_arrayStepped hregs, ?_⟩
      rw [State.arrayStepped_coreAt]
      exact ⟨rfl, hqueue, hidle, fun num rest hq row col => Thread.runArray_sclr c.l1 hq row col,
        fun at' num src len place rest hq k hk => Thread.runArray_wbld c.l1 hq hk⟩
  · have hexec : exec (.outboundCompletion r.tag true data) s = .next (s.peerEnds r (some data)) := by
      change execOutboundCompletion r.tag true data s = _
      simp only [execOutboundCompletion, peerReads_find hr hn]
      rfl
    have hbytes : s.peerBytes r.size (some data) = clean data := by
      simp [State.peerBytes, ← hlen]
    obtain ⟨hin, hout⟩ := Pad.get_write (((s.coreAt r.cid).l1).zero l1 len) r.l1 data
    refine ⟨_, hexec.trans (congrArg _ (State.peerEnds_last hr hq _)), State.onCore_peerReads .., by simp [State.push], ?_⟩
    rw [State.coreAt_onL1_push, hbytes, Pad.writeP_clean]
    refine ⟨hin, fun p hp => (hout p (by rwa [hlen])).trans (Mem.get_clear ..), ⟨rfl, rfl, rfl, rfl, rfl⟩, State.onCore_mem ..⟩
  · have hexec : exec (.outboundTimeout r.tag) s = .next (s.peerEnds r none) := by
      change execOutboundTimeout r.tag s = _
      simp only [execOutboundTimeout, peerReads_find hr hn]
    obtain ⟨n, hn'⟩ := Nat.exists_eq_succ_of_ne_zero (Nat.ne_of_gt hsize)
    have hbytes : s.peerBytes r.size none = (Config.peerByte (s.tick + 0), some .unnamed)
        :: (List.range n).map fun i => (Config.peerByte (s.tick + (i + 1)), some .unnamed) := by
      simp [State.peerBytes, hn', List.range_succ_eq_map]
    refine ⟨_, hexec.trans (congrArg _ (State.peerEnds_last hr hq _)), State.onCore_peerReads .., by simp [State.push], ?_, ?_,
      State.onCore_mem ..⟩
    · rw [State.coreAt_onL1_push, hbytes]
      exact Pad.writeP_psn_first ..
    · refine (congrArg (fun w : Vector OutWin 16 => (if h : r.oute < 16 then w[r.oute] else {} : OutWin).err) ?_).trans (State.outWin_outError hout)
      exact State.onCore_outWins ..

end Sys2Proof.Machine
end

section
/-! What accesses to device memory leave alone (R24 to R36, R173 to R179): a view of the state that sees neither memory nor what its channels,
page pools and message queues hold is the same after a read, a walk or a page's allocation. -/

namespace Sys2Proof.Machine

/-- A view of the state that does not see what an access to device memory may change. -/
def State.OffMemory {α : Type} (p : State → α) : Prop :=
  ∀ (s : State) mem ue symErr enc chans agenda pools (leaked : Word) msix heldMsix heldOrder outbox,
    p { s with mem := mem, ue := ue, symErr := symErr, enc := enc, chans := chans, agenda := agenda, pools := pools,
               dev := { s.dev with leaked := leaked }, msix := msix, heldMsix := heldMsix, heldOrder := heldOrder, outbox := outbox } = p s

/-- An access that, where it answers, leaves a view as it was. -/
def Access.Keeps {α β : Type} (p : State → α) (s : State) (x : Access β) : Prop := ∀ a t, x = .ok (a, t) → p t = p s

section
variable {α : Type} {p : State → α}

theorem Access.Keeps.ok {β : Type} {s t : State} {a : β} (h : p t = p s) : Access.Keeps p s (.ok (a, t)) := by
  intro b u hu
  cases hu
  exact h

theorem Access.Keeps.error {β : Type} {s : State} (e : Stop) : Access.Keeps p s (.error e : Access β) := fun _ _ h => nomatch h

theorem Access.Keeps.ite {β : Type} {s : State} {c : Prop} [Decidable c] {x y : Access β} (hx : Access.Keeps p s x) (hy : Access.Keeps p s y) :
    Access.Keeps p s (if c then x else y) := by
  split
  · exact hx
  · exact hy

theorem Access.Keeps.bind {β γ : Type} {s : State} {x : Access β} {k : β → State → Access γ} (hx : Access.Keeps p s x)
    (hk : ∀ a t, p t = p s → Access.Keeps p t (k a t)) : Access.Keeps p s (Access.bind x k) := by
  cases x with
  | error e => exact .error e
  | ok r =>
    obtain ⟨a, t⟩ := r
    have ht := hx a t rfl
    exact fun b u hu => (hk a t ht b u hu).trans ht

section
variable (h : State.OffMemory p) (s : State)
include h

/-! ### Sectors -/

theorem State.OffMemory.onChan (g : Nat) (f : Channel → Channel) : p (s.onChan g f) = p s := by
  unfold State.onChan
  split
  · exact h s s.mem s.ue s.symErr s.enc _ s.agenda s.pools s.dev.leaked s.msix s.heldMsix s.heldOrder s.outbox
  · rfl

theorem State.OffMemory.activate (pa : Nat) : p (s.activate pa) = p s :=
  h s s.mem s.ue s.symErr s.enc _ _ s.pools s.dev.leaked s.msix s.heldMsix s.heldOrder s.outbox

theorem State.OffMemory.activateAll (pa n : Nat) : p (s.activateAll pa n) = p s :=
  h s s.mem s.ue s.symErr s.enc _ _ s.pools s.dev.leaked s.msix s.heldMsix s.heldOrder s.outbox

/-- A change of memory and of what its sectors are marked with. -/
theorem State.OffMemory.sectors (mem : Mem) (ue : SMap Origin) (symErr : SMap Nat) (enc : SMap Nat) :
    p { s with mem := mem, ue := ue, symErr := symErr, enc := enc } = p s :=
  h s mem ue symErr enc s.chans s.agenda s.pools s.dev.leaked s.msix s.heldMsix s.heldOrder s.outbox

theorem State.OffMemory.eccDecode (sec : Nat) : p (s.eccDecode sec).2 = p s := by
  unfold State.eccDecode
  dsimp only
  split <;> dsimp only
  · exact h.onChan s _ _
  · exact (h.onChan _ _ _).trans (h.sectors s s.mem s.ue _ s.enc)
  · exact (h.onChan _ _ _).trans (h.sectors s s.mem _ _ s.enc)

theorem State.OffMemory.sectorRead (key : Option Nat) (pa n : Nat) (va : DWord) : Access.Keeps p s (s.sectorRead key pa n va) := by
  have hr : p ((s.activate pa).eccDecode (pa / 64)).2 = p s := (h.eccDecode _ _).trans (h.activate s pa)
  unfold State.sectorRead
  dsimp only
  split
  · exact .ok hr
  · split
    · exact .ok hr
    · exact .error _

theorem State.OffMemory.physRead (pa n : Nat) : p (s.physRead pa n).2 = p s := by
  unfold State.physRead
  split
  · next r hr => exact h.sectorRead s none pa n 0 r.1 r.2 hr
  · rfl

theorem State.OffMemory.physReadN (pa n : Nat) : p (s.physReadN pa n).2 = p s := by
  unfold State.physReadN
  refine foldl_keeps (fun r : List PByte × State => p r.2) _ (fun r x => ?_) _ ([], s)
  dsimp only
  exact h.physRead r.2 x.1 x.2

theorem State.OffMemory.sectorPut (key : Option Nat) (pa : Nat) (bs : List PByte) (va : DWord) : Access.Keeps p s (s.sectorPut key pa bs va) := by
  unfold State.sectorPut
  dsimp only
  split
  · exact .ok (h.sectors s _ _ _ _)
  · have hr := h.eccDecode s (pa / 64)
    split
    · exact .ok ((h.sectors _ _ _ _ _).trans hr)
    · split
      · exact .error _
      · refine .ok ?_
        split
        · exact (h.sectors _ _ _ _ _).trans hr
        · exact (h.sectors _ _ _ _ _).trans hr

theorem State.OffMemory.physWrite (pa : Nat) (bs : List Byte) : p (s.physWrite pa bs) = p s := by
  unfold State.physWrite
  split
  · next r hr => exact (h.sectorPut _ none pa (clean bs) 0 r.1 r.2 hr).trans (h.activate s pa)
  · rfl

theorem State.OffMemory.physWriteN (pa : Nat) (bs : List Byte) : p (s.physWriteN pa bs) = p s := by
  unfold State.physWriteN
  exact foldl_keeps p _ (fun s x => h.physWrite s _ _) _ s

/-! ### Pages (R29, R177) -/

theorem State.OffMemory.leak : p s.leak = p s :=
  h s s.mem s.ue s.symErr s.enc s.chans s.agenda s.pools _ s.msix s.heldMsix s.heldOrder s.outbox

theorem State.OffMemory.pools (ps : Vector Pool 8) : p { s with pools := ps } = p s :=
  h s s.mem s.ue s.symErr s.enc s.chans s.agenda ps s.dev.leaked s.msix s.heldMsix s.heldOrder s.outbox

omit h in
/-- Either of two states that look the same looks the same. -/
theorem State.OffMemory.ite (_ : State.OffMemory p) {c : Prop} [Decidable c] {s a b : State} (ha : p a = p s) (hb : p b = p s) :
    p (if c then a else b) = p s := by
  split
  · exact ha
  · exact hb

theorem State.OffMemory.sendMsix (v : Nat) (covers : List Word) : p (s.sendMsix v covers) = p s := by
  unfold State.sendMsix
  split
  · exact h s s.mem s.ue s.symErr s.enc s.chans s.agenda s.pools s.dev.leaked s.msix _ _ s.outbox
  · split
    · split
      · exact h s s.mem s.ue s.symErr s.enc s.chans s.agenda s.pools s.dev.leaked _ s.heldMsix s.heldOrder s.outbox
      · exact h s s.mem s.ue s.symErr s.enc s.chans s.agenda s.pools s.dev.leaked _ s.heldMsix s.heldOrder s.outbox
    · exact h s s.mem s.ue s.symErr s.enc s.chans s.agenda s.pools s.dev.leaked s.msix s.heldMsix s.heldOrder _

theorem State.OffMemory.takeRing (fuel : Nat) (strand : Nat) (big : Bool) : p (State.takeRing fuel s strand big).2 = p s := by
  induction fuel generalizing s with
  | zero => rfl
  | succ fuel ih =>
    unfold State.takeRing
    dsimp only
    split
    · cases big <;> simp only [Bool.false_eq_true, if_false, if_true]
      all_goals
        split
        · rfl
        · have hr (a : Nat) := h.physRead s a 8
          split
          · exact h.ite ((h.sendMsix _ _ _).trans ((h.pools _ _).trans (hr _))) ((h.pools _ _).trans (hr _))
          · exact (ih _).trans ((h.leak _).trans (h.ite ((h.sendMsix _ _ _).trans ((h.pools _ _).trans (hr _))) ((h.pools _ _).trans (hr _))))
    · rfl

theorem State.OffMemory.takeFrom (strand : Nat) (big : Bool) : p (s.takeFrom strand big).2 = p s := by
  unfold State.takeFrom
  split
  · dsimp only
    split
    · exact h.pools s _
    · exact h.takeRing s _ _ _
  · rfl

theorem State.OffMemory.takePage (strand : Nat) (big : Bool) : p (s.takePage strand big).2 = p s := by
  unfold State.takePage
  refine foldl_keeps (fun r : Option Nat × State => p r.2) _ (fun r x => ?_) _ (none, s)
  split
  · rfl
  · exact h.takeFrom r.2 x big

theorem State.OffMemory.returnPage (pa : Nat) (big : Bool) : p (s.returnPage pa big) = p s := by
  unfold State.returnPage
  split
  · dsimp only
    exact h.ite (h.leak s) (h.pools s _)
  · exact h.leak s

theorem State.OffMemory.zeroPage (key : Option Nat) (pa log2 : Nat) : p (s.zeroPage key pa log2) = p s := by
  have ha := h.activateAll s pa (2 ^ log2)
  unfold State.zeroPage
  dsimp only
  split
  · exact (h.sectors _ _ _ _ _).trans ha
  · exact (h.sectors _ _ _ _ _).trans ha

theorem State.OffMemory.readRange (pa n : Nat) : p (s.readRange pa n) = p s := by
  unfold State.readRange
  rw [foldl_keeps p _ (fun s sec => h.eccDecode s sec)]
  exact h.activateAll s pa n

theorem State.OffMemory.copyPage (src dst log2 : Nat) : p (s.copyPage src dst log2) = p s := by
  unfold State.copyPage
  exact (h.sectors _ _ _ _ _).trans ((h.zeroPage _ _ _ _).trans (h.readRange s _ _))

theorem State.OffMemory.copyUnder (key : Option Nat) (src dst log2 : Nat) (va : DWord) : Access.Keeps p s (s.copyUnder key src dst log2 va) := by
  unfold State.copyUnder
  split
  · split
    · exact .error _
    · exact .ok ((h.sectors _ _ _ _ _).trans (h.copyPage s _ _ _))
  · exact .ok ((h.sectors _ _ _ _ _).trans (h.copyPage s _ _ _))

/-! ### Walks (R173 to R176) -/

theorem State.OffMemory.walkFrom (chiplet va lv base : Nat) : p (s.walkFrom chiplet va lv base).2 = p s := by
  induction lv generalizing s base with
  | zero =>
    unfold State.walkFrom
    dsimp only
    split
    · rfl
    · split
      · exact h.physRead s _ _
      · exact h.physRead s _ _
  | succ lv ih =>
    unfold State.walkFrom
    dsimp only
    split
    · rfl
    · split
      · exact h.physRead s _ _
      · exact (ih _ _).trans (h.physRead s _ _)

theorem State.OffMemory.walk (chiplet ctx va : Nat) : p (s.walk chiplet ctx va).2 = p s := by
  unfold State.walk
  split
  · exact h.walkFrom s _ _ _ _
  · rfl

theorem State.OffMemory.serveDz (strand ctx : Nat) (e : DWord) (pa lv : Nat) : p (s.serveDz strand ctx e pa lv).2 = p s := by
  have ht := h.takePage s strand (lv == 1)
  unfold State.serveDz
  split
  · next hn => rwa [hn] at ht
  · next hn =>
    rw [hn] at ht
    exact (h.physWrite _ _ _).trans ((h.zeroPage _ _ _ _).trans ht)

/-! ### Group tables and places (R52, R169) -/

theorem State.OffMemory.groupRaw (e k : Nat) : p (s.groupRaw e k).2 = p s := by
  unfold State.groupRaw
  split
  · rfl
  · exact h.physRead s _ _

theorem State.OffMemory.memberEntry (m : Nat) : p (s.memberEntry m).2 = p s := h.physRead s _ _

theorem State.OffMemory.noBuddy (e : Nat) : p (s.noBuddy e).2 = p s := by
  have hg : p ((s.groupRaw e 0).2.groupRaw e 2).2 = p s := (h.groupRaw _ e 2).trans (h.groupRaw s e 0)
  unfold State.noBuddy
  dsimp only
  split
  · exact hg
  · split
    · exact hg
    · split
      · exact hg
      · exact (h.memberEntry _ _).trans hg

theorem State.OffMemory.groupWord (e k : Nat) : p (s.groupWord e k).2 = p s := by
  unfold State.groupWord
  dsimp only
  split
  · exact h.groupRaw s e k
  · exact (h.noBuddy _ e).trans (h.groupRaw s e k)

theorem State.OffMemory.setGroupWord (e k : Nat) (v : DWord) : p (s.setGroupWord e k v) = p s := by
  unfold State.setGroupWord
  split
  · rfl
  · exact h.physWrite s _ _

theorem State.OffMemory.readLoc (loc : Loc) (n : Nat) (va : DWord) : Access.Keeps p s (s.readLoc loc n va) := by
  cases loc with
  | group off => exact .ok (foldl_keeps (fun r : List PByte × State => p r.2) _ (fun r i => h.groupWord r.2 _ _) _ ([], s))
  | dev pa key kind => exact h.sectorRead s key pa n va
  | _ => exact .ok rfl

theorem State.OffMemory.readAll (ps : List (Loc × Nat × Nat)) : Access.Keeps p s (State.readAll ps s) := by
  induction ps generalizing s with
  | nil => exact .ok rfl
  | cons x ps ih => exact (h.readLoc s _ _ _).bind fun a t ht => (ih t).bind fun b u hu => .ok rfl

end

/-! ### Accesses of engines by address (R169 to R179, R342) -/

/-- A view that does not see what an engine's access to an address changes beside memory: shadow pages of launches, and pads zeroed for a context. -/
structure State.OffAccess (p : State → α) : Prop where
  memory : State.OffMemory p
  launch : ∀ s l f, p (State.onLaunch s l f) = p s
  serve : ∀ s ctx loc, p (State.serve s ctx loc) = p s

section
variable (h : State.OffAccess p) (s : State) (w : Who) (he : w.engine = true)
include h

theorem State.OffAccess.makeShadow (l strand base log2 : Nat) (key : Option Nat) (va : DWord) :
    Access.Keeps p s (s.makeShadow l strand base log2 key va) := by
  have ht := h.memory.takePage s strand (log2 == 21)
  unfold State.makeShadow
  split
  · next hn =>
    rw [hn] at ht
    exact .ok ht
  · next page t hn =>
    rw [hn] at ht
    split
    · exact .error _
    · next u hu => exact .ok ((h.launch _ _ _).trans ((h.memory.copyUnder t key base page log2 va _ _ hu).trans ht))

include he

theorem State.OffAccess.placeLeaf (r : Right) (va : Nat) (e : DWord) (log2 : Nat) : Access.Keeps p s (s.placeLeaf w r va e log2) := by
  unfold State.placeLeaf
  dsimp only
  split
  · exact .error _
  · split
    · exact .error _
    · split
      · exact .ok rfl
      · split
        · exact .error _
        · split
          · split
            · exact .error _
            · split
              · next hm => exact .ok (h.makeShadow s _ _ _ _ _ _ _ _ hm)
              · exact .error _
              · exact .error _
          · exact .ok rfl
      · exact .ok rfl

theorem State.OffAccess.engineWalk (r : Right) (va : Nat) : Access.Keeps p s (s.engineWalk w r va) := by
  have hw := h.memory.walk s w.chiplet w.ctx va
  have after {t : State} (ht : p t = p s) (e : DWord) (log2 : Nat) : Access.Keeps p s (t.placeLeaf w r va e log2) :=
    fun a u hu => (h.placeLeaf t w he r va e log2 a u hu).trans ht
  unfold State.engineWalk
  dsimp only
  split
  · exact .error _
  · exact .error _
  · exact after hw _ _
  · next e pa lv _ =>
    have hd := h.memory.serveDz (s.walk w.chiplet w.ctx va).2 (strandOf w.cid) w.ctx e pa lv
    split
    · next hn =>
      rw [hn] at hd
      exact after (hd.trans hw) _ _
    · exact .error _

theorem State.OffAccess.resolve (r : Right) (va : Nat) : Access.Keeps p s (s.resolve w r va) := by
  unfold State.resolve
  dsimp only
  split
  · exact .error _
  · split
    · split
      · exact .error _
      · exact .ite (.error _) (.ite (.ok (h.serve _ _ _)) (.error _))
    · unfold State.translate
      dsimp only
      split
      · exact h.placeLeaf s w he _ _ _ _
      · rw [if_pos he]
        exact h.engineWalk s w he _ _

theorem State.OffAccess.resolveAll (r : Right) (ps : List (Nat × Nat)) : Access.Keeps p s (State.resolveAll w r ps s) := by
  induction ps generalizing s with
  | nil => exact .ok rfl
  | cons x ps ih =>
    refine (h.resolve s w he r x.1).bind fun loc t ht => ?_
    split
    · exact .error _
    · exact (ih t).bind fun b u hu => .ok rfl

theorem State.OffAccess.readVa (va n : Nat) : Access.Keeps p s (s.readVa w va n) :=
  (h.resolveAll s w he _ _).bind fun ps t _ => h.memory.readAll t ps

theorem State.OffAccess.readCode (va n : Nat) : Access.Keeps p s (s.readCode w va n) :=
  (h.resolveAll s w he _ _).bind fun ps t _ => h.memory.readAll t ps

/-! ### Objects, tiles and code (R180, R182, R184, R283) -/

theorem State.OffAccess.readObj (table : DWord) (k : Nat) : Access.Keeps p s (s.readObj w table k) :=
  (h.readVa s w he _ _).bind fun _ _ _ => .ok rfl

theorem State.OffAccess.launchObj (l k : Nat) : Access.Keeps p s (s.launchObj l w k) := by
  unfold State.launchObj
  split
  · exact .ok rfl
  · split
    · exact .ok rfl
    · split
      · exact .ok rfl
      · exact (h.readObj s w he _ _).bind fun o t ht => .ok (h.launch _ _ _)

theorem State.OffAccess.regionEntries (l : Nat) (rs : List Region) : Access.Keeps p s (State.regionEntries l w rs s) := by
  induction rs generalizing s with
  | nil => exact .ok rfl
  | cons r rs ih => exact (h.launchObj s w he _ _).bind fun o t ht => (ih t).bind fun os u hu => .ok rfl

theorem State.OffAccess.fillWindow (table : DWord) (ks : List Nat) : Access.Keeps p s (State.fillWindow w table ks s) := by
  induction ks generalizing s with
  | nil => exact .ok rfl
  | cons k ks ih => exact (h.readObj s w he _ _).bind fun o t ht => (ih t).bind fun os u hu => .ok rfl

theorem State.OffAccess.readTile (o : Obj) (ty tx : Nat) (ps : List (Nat × Nat)) : Access.Keeps p s (State.readTile w o ty tx ps s) := by
  induction ps generalizing s with
  | nil => exact .ok rfl
  | cons x ps ih => exact (h.readVa s w he _ _).bind fun bs t ht => (ih t).bind fun es u hu => .ok rfl

theorem State.OffAccess.readQuant (o : Obj) (ty tx : Nat) : Access.Keeps p s (s.readQuant w o ty tx) :=
  (h.readTile s w he _ _ _ _).bind fun _ t _ => (h.readVa t w he _ _).bind fun _ _ _ => .ok rfl

theorem State.OffAccess.copyCode (n va : Nat) : p (State.copyCode n s w va).2 = p s := by
  induction n generalizing s va with
  | zero => rfl
  | succ n ih =>
    unfold State.copyCode
    split
    · next hr => exact (ih _ _).trans (h.readCode s w he _ _ _ _ hr)
    · rfl

end

end

end Sys2Proof.Machine
end

section
/-! The life of a task, and the start of a gang (R88 to R108). -/

namespace Sys2Proof.Machine

/-! ### Cores at work under what engines read -/

/-- The thread of a core that is at work. -/
def State.busyThread (c : Nat) (s : State) : Option Thread := if (s.coreAt c).t.mode = .idle then none else some (s.coreAt c).t

theorem State.busyThread_some {c : Nat} {s : State} {t : Thread} (h : s.busyThread c = some t) : (s.coreAt c).t = t := by
  unfold State.busyThread at h
  split at h
  · cases h
  · exact Option.some.inj h

theorem State.busyThread_eq {c : Nat} {s : State} (h : (s.coreAt c).t.mode ≠ .idle) : s.busyThread c = some (s.coreAt c).t := if_neg h

theorem State.busyThread_congr (c : Nat) {s t : State} (h : (t.coreAt c).t = (s.coreAt c).t) : t.busyThread c = s.busyThread c := by
  unfold State.busyThread
  rw [h]

/-- What an engine reads changes no core at work: only the pad of an idle one is zeroed for another context (R161). -/
theorem State.offAccess_busyThread (c : Nat) : State.OffAccess (State.busyThread c) where
  memory s _ _ _ _ _ _ _ _ _ _ _ _ := rfl
  launch s l f := State.busyThread_congr c (congrArg Core.t (State.coreAt_congr (by simp) (by simp) c))
  serve s ctx loc := by
    cases loc with
    | l2 cl off =>
      simp only [State.serve]
      split <;> rfl
    | l3 die off =>
      simp only [State.serve]
      split <;> rfl
    | l1 cid off own =>
      simp only [State.serve]
      split
      · rfl
      · next h =>
        have hidle : (s.coreAt cid).t.mode = .idle := by simp at h; exact h.1.2
        unfold State.busyThread
        by_cases hc : c = cid
        · subst hc
          rw [State.coreAt_onCore_self]
          simp [hidle]
        · rw [State.coreAt_onCore]
          simp [hc]
    | _ => rfl

/-! ### Registers at a dispatch (R90, R104) -/

/-- What loading s registers leaves of a view that sees none of them. -/
theorem Thread.loadS_keeps {α : Type} (p : Thread → α) (h : ∀ t d v, p (Thread.setS t d v) = p t) (t : Thread) (n : Nat) (vs : List PWord) :
    p (t.loadS n vs) = p t :=
  foldl_keeps p _ (fun t _ => h t _ _) _ t

theorem Thread.loadA_keeps {α : Type} (p : Thread → α) (h : ∀ t d v, p (Thread.setA t d v) = p t) (t : Thread) (vs : List DWord) :
    p (t.loadA vs) = p t :=
  foldl_keeps p _ (fun t _ => h t _ _) _ t

/-- Registers loaded from a number on hold their values, in order; the others stay. -/
theorem Thread.getS_foldl_setS (vs : List PWord) (t : Thread) (n k : Nat) (hn : 0 < n) (hlt : n + k + vs.length ≤ 32) :
    (∀ i (h : i < vs.length), ((vs.zipIdx k).foldl (fun (t : Thread) x => t.setS (BitVec.ofNat 5 (n + x.2)) x.1) t).getS (BitVec.ofNat 5 (n + k + i)) = vs[i])
    ∧ (∀ r : BitVec 5, r.toNat < n + k → ((vs.zipIdx k).foldl (fun (t : Thread) x => t.setS (BitVec.ofNat 5 (n + x.2)) x.1) t).getS r = t.getS r) := by
  induction vs generalizing t k with
  | nil => exact ⟨fun i h => absurd h (Nat.not_lt_zero i), fun r _ => rfl⟩
  | cons v vs ih =>
    rw [List.zipIdx_cons, List.foldl_cons]
    simp only [List.length_cons] at hlt
    obtain ⟨hin, hout⟩ := ih (t.setS (BitVec.ofNat 5 (n + k)) v) (k + 1) (by omega)
    have hreg : (BitVec.ofNat 5 (n + k)).toNat = n + k := by
      rw [BitVec.toNat_ofNat]
      exact Nat.mod_eq_of_lt (by omega)
    have hne : BitVec.ofNat 5 (n + k) ≠ 0 := fun h => by
      rw [h] at hreg
      simp at hreg
      omega
    refine ⟨fun i h => ?_, fun r hr => ?_⟩
    · cases i with
      | zero =>
        rw [show n + k + 0 = n + k from rfl, hout (BitVec.ofNat 5 (n + k)) (by omega), Thread.getS_setS]
        simp [show ¬ BitVec.ofNat 5 (n + k) = 0#5 from hne]
      | succ i =>
        have := hin i (by simpa using h)
        rw [show n + (k + 1) + i = n + k + (i + 1) by omega] at this
        exact this
    · rw [hout r (by omega), Thread.getS_setS]
      have : r ≠ BitVec.ofNat 5 (n + k) := fun h => by
        rw [h, hreg] at hr
        omega
      simp [this]

theorem Thread.getS_loadS (t : Thread) (n : Nat) (vs : List PWord) (hn : 0 < n) (hlt : n + vs.length ≤ 32) {i : Nat} (h : i < vs.length) :
    (t.loadS n vs).getS (BitVec.ofNat 5 (n + i)) = vs[i] :=
  (Thread.getS_foldl_setS vs t n 0 hn hlt).1 i h

theorem Thread.getS_loadS_below (t : Thread) (n : Nat) (vs : List PWord) (hn : 0 < n) (hlt : n + vs.length ≤ 32) {r : BitVec 5} (h : r.toNat < n) :
    (t.loadS n vs).getS r = t.getS r :=
  (Thread.getS_foldl_setS vs t n 0 hn hlt).2 r h

theorem Thread.getA_foldl_setA (vs : List DWord) (t : Thread) (k : Nat) (hlt : k + vs.length ≤ 16) :
    (∀ i (h : i < vs.length), ((vs.zipIdx k).foldl (fun (t : Thread) x => t.setA (BitVec.ofNat 4 x.2) ⟨x.1, none⟩) t).getA (BitVec.ofNat 4 (k + i))
      = ⟨vs[i], none⟩)
    ∧ (∀ r : BitVec 4, r.toNat < k → ((vs.zipIdx k).foldl (fun (t : Thread) x => t.setA (BitVec.ofNat 4 x.2) ⟨x.1, none⟩) t).getA r = t.getA r) := by
  induction vs generalizing t k with
  | nil => exact ⟨fun i h => absurd h (Nat.not_lt_zero i), fun r _ => rfl⟩
  | cons v vs ih =>
    rw [List.zipIdx_cons, List.foldl_cons]
    simp only [List.length_cons] at hlt
    obtain ⟨hin, hout⟩ := ih (t.setA (BitVec.ofNat 4 k) ⟨v, none⟩) (k + 1) (by omega)
    have hreg : (BitVec.ofNat 4 k).toNat = k := by
      rw [BitVec.toNat_ofNat]
      exact Nat.mod_eq_of_lt (by omega)
    refine ⟨fun i h => ?_, fun r hr => ?_⟩
    · cases i with
      | zero =>
        rw [show k + 0 = k from rfl, hout (BitVec.ofNat 4 k) (by omega), Thread.getA_setA]
        simp
      | succ i =>
        have := hin i (by simpa using h)
        rw [show k + 1 + i = k + (i + 1) by omega] at this
        exact this
    · rw [hout r (by omega), Thread.getA_setA]
      exact if_neg fun h => by
        rw [h, hreg] at hr
        omega

theorem Thread.getA_loadA (t : Thread) (vs : List DWord) (hlt : vs.length ≤ 16) {i : Nat} (h : i < vs.length) :
    (t.loadA vs).getA (BitVec.ofNat 4 i) = ⟨vs[i], none⟩ := by
  have := (Thread.getA_foldl_setA vs t 0 (by omega)).1 i h
  rwa [Nat.zero_add] at this

@[simp] theorem Thread.getS_loadA (t : Thread) (vs : List DWord) (r : BitVec 5) : (t.loadA vs).getS r = t.getS r :=
  Thread.loadA_keeps (fun t => t.getS r) (fun _ _ _ => rfl) t vs

@[simp] theorem Thread.getA_loadS (t : Thread) (n : Nat) (vs : List PWord) (r : BitVec 4) : (t.loadS n vs).getA r = t.getA r :=
  Thread.loadS_keeps (fun t => t.getA r) (fun t d v => Thread.getA_setS t d r v) t n vs

/-- The registers of a task that starts afresh (R104). -/
theorem Thread.forTask_regs (t : Thread) (r : LaunchRec) {k : Task} (hs : k.suspended = false) (hr : k.regions.length ≤ 8) (hi : k.idx.length ≤ 6)
    (hp : k.payload.length ≤ 16) :
    (∀ i (h : i < k.regions.length), (t.forTask r k).getA (BitVec.ofNat 4 i) = ⟨regionAddr k.regions[i], none⟩)
    ∧ (∀ i (h : i < k.idx.length), (t.forTask r k).getS (BitVec.ofNat 5 (2 + i)) = ⟨k.idx[i], none⟩)
    ∧ (∀ i (h : i < k.payload.length), (t.forTask r k).getS (BitVec.ofNat 5 (8 + i)) = ⟨k.payload[i], none⟩) := by
  have hS (d : BitVec 5) : (t.forTask r k).getS d = (((t.blank.loadA (k.regions.map regionAddr)).loadS 2 (k.idx.map fun v => ⟨v, none⟩)).loadS 8
      (k.payload.map fun v => ⟨v, none⟩)).getS d := by
    simp only [Thread.forTask, hs, Bool.false_eq_true, if_false]
    rfl
  have hA (d : BitVec 4) : (t.forTask r k).getA d = (t.blank.loadA (k.regions.map regionAddr)).getA d := by
    have : (t.forTask r k).getA d = (((t.blank.loadA (k.regions.map regionAddr)).loadS 2 (k.idx.map fun v => ⟨v, none⟩)).loadS 8
        (k.payload.map fun v => ⟨v, none⟩)).getA d := by
      simp only [Thread.forTask, hs, Bool.false_eq_true, if_false]
      rfl
    rw [this, Thread.getA_loadS, Thread.getA_loadS]
  refine ⟨fun i h => ?_, fun i h => ?_, fun i h => ?_⟩
  · rw [hA, Thread.getA_loadA _ _ (by simp; omega) (by simpa using h), List.getElem_map]
  · rw [hS, Thread.getS_loadS_below _ _ _ (by omega) (by simp; omega) (by simp; omega),
      Thread.getS_loadS _ _ _ (by omega) (by simp; omega) (by simpa using h), List.getElem_map]
  · rw [hS, Thread.getS_loadS _ _ _ (by omega) (by simp; omega) (by simpa using h), List.getElem_map]

/-- What a dispatch leaves of a fresh task's thread beside its registers. -/
theorem Thread.forTask_fresh (t : Thread) (r : LaunchRec) {k : Task} (hs : k.suspended = false) :
    (t.forTask r k).mode = .loading ∧ (t.forTask r k).pc = r.codeAddr + BitVec.ofNat 64 (4 * (k.start + k.entry))
      ∧ (t.forTask r k).handler = false ∧ (t.forTask r k).flights = [] := by
  have h {α : Type} (p : Thread → α) (hS : ∀ t d v, p (Thread.setS t d v) = p t) (hA : ∀ t d v, p (Thread.setA t d v) = p t) :
      p (((t.blank.loadA (k.regions.map regionAddr)).loadS 2 (k.idx.map fun v => ⟨v, none⟩)).loadS 8 (k.payload.map fun v => ⟨v, none⟩)) = p t.blank := by
    rw [Thread.loadS_keeps p hS, Thread.loadS_keeps p hS, Thread.loadA_keeps p hA]
  simp only [Thread.forTask, hs, Bool.false_eq_true, if_false]
  exact ⟨h Thread.mode (by simp) (by simp), trivial, h Thread.handler (by simp) (by simp), h Thread.flights (by simp) (by simp)⟩

/-! ### A dispatch (R102, R106) -/

/-- What the entries read at a dispatch change of a thread: its object window and the objects of its task's regions (R184). -/
def Thread.WindowOf (t u : Thread) : Prop := ∃ objs windowed task, u = { t with objs := objs, windowed := windowed, task := task }

theorem Thread.windowOf_refl (t : Thread) : t.WindowOf t := ⟨t.objs, t.windowed, t.task, rfl⟩

/-- The object window filled for a core reaches no other core at work. -/
theorem State.readTable_threads {s t : State} {l cid c : Nat} {x : Launch} {u : Unit} (h : s.readTable l cid x = .ok (u, t))
    (hm : (s.coreAt c).t.mode ≠ .idle) : (s.coreAt c).t.WindowOf (t.coreAt c).t := by
  have hp := State.offAccess_busyThread c
  have hread : Access.Keeps (State.busyThread c) s (Access.bind (State.fillWindow (s.engineOf cid) x.lrec.objAddr (List.range (min 64 x.lrec.objCount)) s)
      fun win s' => Access.bind (State.regionEntries l (s.engineOf cid) (s'.coreAt cid).t.task.regions s') fun os s'' => .ok ((win, os), s'')) :=
    (hp.fillWindow s _ rfl _ _).bind fun win s1 _ => (hp.regionEntries s1 _ rfl _ _).bind fun os s2 _ => .ok rfl
  unfold State.readTable at h
  dsimp only [Access.bind] at h hread
  split at h
  · next win s1 h1 =>
    rw [h1] at hread
    dsimp only at h hread
    split at h
    · next os s2 h2 =>
      rw [h2] at hread
      cases h
      have hs2 := (hread _ _ rfl).trans (State.busyThread_eq hm)
      have hthread := State.busyThread_some hs2
      by_cases hc : c = cid
      · subst hc
        rw [State.coreAt_onCore_self, ← hthread]
        exact ⟨_, _, _, rfl⟩
      · rw [State.coreAt_onCore, if_neg hc, hthread]
        exact Thread.windowOf_refl _
    · cases h
  · cases h

theorem State.tryTable_threads {s : State} {l cid c : Nat} {x : Launch} (hm : (s.coreAt c).t.mode ≠ .idle) :
    (s.coreAt c).t.WindowOf ((s.tryTable l cid x).coreAt c).t := by
  unfold State.tryTable
  split
  · next h => exact State.readTable_threads h hm
  · exact Thread.windowOf_refl _

/-- The thread of a core on which a task starts, but for the window that the residency engine fills. -/
theorem State.startTask_thread {s : State} {l : Nat} {x : Launch} (hx : SMap.find? s.launches l = some x) (cid : Nat) {k : Task} (hs : k.suspended = false) :
    (((s.coreAt cid).readyFor l x).t.forTask x.lrec k).WindowOf ((s.startTask l cid k).coreAt cid).t := by
  obtain ⟨hmode, -⟩ := ((s.coreAt cid).readyFor l x).t.forTask_fresh x.lrec hs
  unfold State.startTask
  simp only [hx, hs, Bool.false_and, Bool.false_eq_true, if_false]
  have h := State.tryTable_threads (l := l) (cid := cid) (c := cid) (x := x)
    (s := s.onCore cid fun c => { c.readyFor l x with t := (c.readyFor l x).t.forTask x.lrec k })
  rw [State.coreAt_onCore_self] at h
  exact h (by simp [hmode])

theorem State.regionCopyInDone_mem_startTask {s : State} {l : Nat} {x : Launch} (hx : SMap.find? s.launches l = some x) (cid : Nat) (k : Task) :
    .regionCopyInDone cid ∈ (s.startTask l cid k).agenda := by
  unfold State.startTask
  simp [hx, State.push]

/-! ### A gang's members (R88 to R90) -/

/-- A preload cancelled changes hubs and the core that it was on, and no thread (R107, R119). -/
theorem State.holdLow_cores (s : State) (l die b : Nat) (k : Task) : (s.holdLow l die b k).core = s.core ∧ (s.holdLow l die b k).parked = s.parked := by
  have hraise (s : State) : (s.raiseGroup l).core = s.core ∧ (s.raiseGroup l).parked = s.parked := by simp [State.raiseGroup, State.pauseAll]
  have hhold : (s.holdTask l die k).core = s.core ∧ (s.holdTask l die k).parked = s.parked := by
    unfold State.holdTask
    split
    · exact ⟨rfl, rfl⟩
    · dsimp only
      split <;> exact ⟨rfl, rfl⟩
  unfold State.holdLow
  split
  · exact ⟨rfl, rfl⟩
  · dsimp only
    split
    · split
      · obtain ⟨h1, h2⟩ := hraise (s.holdTask l die k)
        exact ⟨h1.trans hhold.1, h2.trans hhold.2⟩
      · exact hhold
    · simp [State.groupHoldTask, hraise]

theorem State.reenter_cores (s : State) (l die : Nat) (k : Task) : (s.reenter l die k).core = s.core ∧ (s.reenter l die k).parked = s.parked := by
  unfold State.reenter
  split
  · exact ⟨rfl, rfl⟩
  · dsimp only
    split
    · exact State.holdLow_cores _ l die _ _
    · exact ⟨rfl, rfl⟩

theorem State.cancelPreload_thread (s : State) (cid c : Nat) (d : Bool) : ((s.cancelPreload cid d).coreAt c).t = (s.coreAt c).t := by
  unfold State.cancelPreload
  split
  · rfl
  · split
    · rfl
    · next p _ _ =>
      obtain ⟨hcore, hparked⟩ := (s.onCore cid fun c => { c with preload := none }).reenter_cores p.task.lslot (dieOf cid) p.task
      rw [State.coreAt_congr hcore hparked, State.coreAt_onCore]
      split
      · next h => rw [h]
      · rfl

/-- One member of a gang made ready (R90). -/
def State.gangMember (l : Nat) (x : Launch) (g lead e : Nat) (s : State) (m : Nat × Nat × Nat) : State :=
  (s.cancelPreload m.1 false).onCore m.1 fun c =>
    { c.readyFor l x with t := (c.readyFor l x).t.forGang x.lrec g x.lrec.gangs m.2.1 m.2.2 lead e }

/-- Members made ready one after another: each holds its own thread for the gang. -/
theorem State.foldl_gangMember (l : Nat) (x : Launch) (g lead e : Nat) (ms : List (Nat × Nat × Nat)) (hnd : (ms.map Prod.fst).Nodup) (s : State) :
    ∀ m ∈ ms, ∃ t : Thread, ((ms.foldl (State.gangMember l x g lead e) s).coreAt m.1).t = t.forGang x.lrec g x.lrec.gangs m.2.1 m.2.2 lead e := by
  have hother (ms : List (Nat × Nat × Nat)) (s : State) (c : Nat) (hc : c ∉ ms.map Prod.fst) :
      ((ms.foldl (State.gangMember l x g lead e) s).coreAt c).t = (s.coreAt c).t := by
    induction ms generalizing s with
    | nil => rfl
    | cons m ms ih =>
      simp only [List.map_cons, List.mem_cons, not_or] at hc
      rw [List.foldl_cons, ih _ hc.2, State.gangMember, State.coreAt_onCore, if_neg hc.1, State.cancelPreload_thread]
  induction ms generalizing s with
  | nil => exact fun m hm => absurd hm List.not_mem_nil
  | cons m ms ih =>
    simp only [List.map_cons, List.nodup_cons] at hnd
    intro m' hm'
    rw [List.foldl_cons]
    rcases List.mem_cons.1 hm' with rfl | hm'
    · rw [hother ms _ _ hnd.1, State.gangMember, State.coreAt_onCore_self]
      exact ⟨_, rfl⟩
    · exact ih hnd.2 _ m' hm'

/-- The cores of a gang are distinct (R88). -/
theorem LaunchRec.gangCores_nodup (r : LaunchRec) (g : Nat) (hw : r.glog2w ≤ 2) : ((r.gangCores g).map Prod.fst).Nodup := by
  have hprod : (r.gangCores g).map Prod.fst
      = (List.range (2 ^ r.glog2h) ×ˢ List.range (2 ^ r.glog2w)).map fun q => r.gangLead g + 32 * q.1 + q.2 := by
    simp [LaunchRec.gangCores, SProd.sprod, List.product, List.map_flatMap, Function.comp_def]
  rw [hprod]
  refine List.Nodup.map_on (fun a ha b hb hab => ?_) (List.nodup_range.product List.nodup_range)
  have hpow : 2 ^ r.glog2w ≤ 2 ^ 2 := Nat.pow_le_pow_right (by omega) hw
  rw [List.mem_product, List.mem_range, List.mem_range] at ha hb
  exact Prod.ext (by omega) (by omega)

/-- The thread of a gang member at its first bundle (R90). -/
theorem Thread.forGang_fresh (t : Thread) (r : LaunchRec) (g ngangs dx dy lead e : Nat) :
    let u := t.forGang r g ngangs dx dy lead e
    u.mode = .loading ∧ u.gang = true ∧ u.gangNo = g ∧ u.pc = r.codeAddr + BitVec.ofNat 64 (4 * e)
      ∧ (u.getS 2).val = BitVec.ofNat 32 g ∧ (u.getS 4).val = BitVec.ofNat 32 dx ∧ (u.getS 5).val = BitVec.ofNat 32 dy ∧ (u.getA 0).val = r.first := by
  intro u
  refine ⟨?_, rfl, rfl, rfl, rfl, rfl, rfl, rfl⟩
  simp only [u, Thread.forGang]
  rw [Thread.loadA_keeps Thread.mode (by simp), Thread.loadS_keeps Thread.mode (by simp)]
  rfl

/-! ### What makes steps due (R106, R115, R122) -/

section
variable {α : Type} (p : State → α) (h : ∀ s a, p { s with agenda := a } = p s) (s : State) (l die : Nat)
include h

theorem State.stir_keeps : p (s.stir l die) = p s := (State.pushOnce_keeps p h _ _).trans (State.pushOnce_keeps p h _ _)

theorem State.refillDue_keeps (b : Nat) : p (s.refillDue l die b) = p s := by
  unfold State.refillDue
  dsimp only
  split
  · exact State.pushOnce_keeps p h _ _
  · rfl

theorem State.refillAll_keeps : p (s.refillAll l die) = p s :=
  (State.refillDue_keeps p h _ _ _ _).trans (foldl_keeps p _ (fun s _ => State.refillDue_keeps p h s _ _ _) _ s)

/-- A slot that is free again: its hub, and refills that fall due. -/
theorem State.freeSlot_keeps (handle : Word) : p (s.freeSlot die handle) = p (s.onHub die fun h => { h with slots := SMap.erase h.slots (bits handle.toNat 25 14) }) :=
  foldl_keeps p _ (fun s _ => State.refillAll_keeps p h s _ _) _ _

end

theorem State.mem_pushOnce_of {s : State} {i : Instr} (j : Instr) (h : i ∈ s.agenda) : i ∈ (s.pushOnce j).agenda := by
  unfold State.pushOnce
  split
  · exact h
  · exact List.mem_append_left _ h

theorem State.mem_stir {s : State} {i : Instr} (l die : Nat) (h : i ∈ s.agenda) : i ∈ (s.stir l die).agenda :=
  State.mem_pushOnce_of _ (State.mem_pushOnce_of _ h)

/-! ### The end of a task (R103, R105) -/

section
variable {s : State} {cid : Nat}

/-- The residency engine ends its copy-in: the task may issue its first bundle, with the window and the code that have been read (R102, R283, R292). -/
theorem execRegionCopyInDone_task {x : Launch} {s1 s2 : State} (hx : SMap.find? s.launches (s.coreAt cid).t.lslot = some x)
    (hm : (s.coreAt cid).t.mode = .loading) (hg : (s.coreAt cid).t.gang = false) (hc : (s.coreAt cid).t.codeLen = 0) (hf : s.ctxFrozen x.ctx = false)
    (h1 : if (s.coreAt cid).t.windowed = true then s1 = s else s.readTable (s.coreAt cid).t.lslot cid x = .ok ((), s1))
    (h2 : State.bringRegions cid (s.engineOf cid) (s1.coreAt cid).t.task (s.coreAt cid).t.task.regions.zipIdx s1 = .ok ((), s2)) :
    let code := State.copyCode 1024 s2 (s.engineOf cid) x.lrec.codeAddr.toNat
    ∃ (u : State) (done : Task), execRegionCopyInDone cid s = .next (u.onCore cid fun c =>
      { c with t := { ((if code.1.isEmpty then c.t else c.t.loadCode code.1).go (code.2.coreAt cid).t.objs) with task := done } }) := by
  intro code
  have hread : (if (s.coreAt cid).t.windowed = true then .ok ((), s) else s.readTable (s.coreAt cid).t.lslot cid x : Access Unit) = .ok ((), s1) := by
    split at h1
    · next hw => rw [if_pos hw, h1]
    · next hw => rw [if_neg hw, h1]
  unfold execRegionCopyInDone
  simp only [hx, hm, hg, hc, hf, hread, Access.bind, h2]
  exact ⟨_, _, rfl⟩

end

/-- Regions handed to a preload on the same core change that core alone (R107). -/
theorem State.handLocally_keeps {α : Type} (p : State → α) (h : ∀ s k f, p (State.onCore s k f) = p s) (s : State) (cid : Nat) (k : Task) :
    p (s.handLocally cid k) = p s := by
  unfold State.handLocally
  dsimp only
  split
  · rfl
  · split
    · rfl
    · exact (h _ _ _).trans (foldl_keeps p _ (fun s f => h s _ _) _ s)

/-- A core's work at TEND with its outputs in the pool: its retirement is due and the core is free (R103). -/
def State.copiedOut (s : State) (cid : Nat) : State :=
  let c := s.coreAt cid
  let l := c.t.lslot
  let die := dieOf cid
  let n := outBytes c.outputs
  ((((((s.handLocally cid c.t.task).onHub die fun h => { h with copyQ := h.copyQ.tail }).onLaunch l fun x => { x with
    pool := SMap.insert x.pool die (SMap.getD x.pool die 0 + n), retiring := x.retiring ++ [⟨c.t.task, die, cid, c.outputs, n⟩] }).onBlock
    l die fun h => h.forget c.t.task.uid).onCore cid Core.discard).push (.taskRetire l c.t.task.uid)).stir l die

section
variable {s : State} {cid : Nat}

theorem execTendCopyOut_copies (hm : (s.coreAt cid).t.mode = .ending) (hh : (s.coreAt cid).t.hold = none) (hg : (s.coreAt cid).t.gang = false)
    (hs : (s.coreAt cid).t.susp = false) (hq : (s.hub (dieOf cid)).copyQ.head? = some cid)
    (hp : s.poolUsed (dieOf cid) + outBytes (s.coreAt cid).outputs ≤ poolBytes) : execTendCopyOut cid s = .next (s.copiedOut cid) := by
  unfold execTendCopyOut State.copiedOut
  simp [hm, hh, hg, hs, hq, Nat.not_lt.2 hp]

theorem State.find?_onLaunch_of {s : State} {l : Nat} {x : Launch} (f : Launch → Launch) (h : SMap.find? s.launches l = some x) :
    SMap.find? (s.onLaunch l f).launches l = some (f x) := by
  rw [State.find?_onLaunch, if_pos rfl, h]
  rfl

theorem State.copiedOut_leaves {x : Launch} (hx : SMap.find? s.launches (s.coreAt cid).t.lslot = some x) :
    ((s.copiedOut cid).coreAt cid).t.mode = .idle
    ∧ (∃ y, SMap.find? (s.copiedOut cid).launches (s.coreAt cid).t.lslot = some y ∧ y.retiring = x.retiring
      ++ [⟨(s.coreAt cid).t.task, dieOf cid, cid, (s.coreAt cid).outputs, outBytes (s.coreAt cid).outputs⟩])
    ∧ .taskRetire (s.coreAt cid).t.lslot (s.coreAt cid).t.task.uid ∈ (s.copiedOut cid).agenda
    ∧ ((s.copiedOut cid).hub (dieOf cid)).copyQ = (s.hub (dieOf cid)).copyQ.tail ∧ (s.copiedOut cid).mem = s.mem := by
  unfold State.copiedOut
  dsimp only
  refine ⟨?mode, ?launch, ?agenda, ?hub, ?mem⟩
  case mode =>
    rw [State.stir_keeps (fun s => (s.coreAt cid).t.mode) (fun _ _ => rfl)]
    change (((State.onCore _ cid Core.discard).coreAt cid).t.mode) = _
    rw [State.coreAt_onCore_self]
    rfl
  case launch =>
    have hx' : SMap.find? ((s.handLocally cid (s.coreAt cid).t.task).onHub (dieOf cid) fun h => { h with copyQ := h.copyQ.tail }).launches
        (s.coreAt cid).t.lslot = some x := by
      rw [State.onHub_launches, State.handLocally_keeps State.launches (by simp), hx]
    rw [State.stir_keeps State.launches (fun _ _ => rfl)]
    change ∃ y, SMap.find? (State.onCore _ cid Core.discard).launches _ = some y ∧ _
    rw [State.onCore_launches]
    exact ⟨_, State.find?_onLaunch_of _ (State.find?_onLaunch_of _ hx'), rfl⟩
  case agenda =>
    exact State.mem_stir _ _ (by simp [State.push])
  case hub =>
    rw [State.stir_keeps (fun s => (s.hub (dieOf cid)).copyQ) (fun _ _ => rfl)]
    change ((State.onCore _ cid Core.discard).hub (dieOf cid)).copyQ = _
    have hh : (s.handLocally cid (s.coreAt cid).t.task).hubs = s.hubs := State.handLocally_keeps State.hubs (by simp) _ _ _
    simp [State.hub, State.onBlock, State.onHub, hh]
  case mem =>
    rw [State.stir_keeps State.mem (fun _ _ => rfl)]
    change (State.onCore _ cid Core.discard).mem = _
    rw [State.onCore_mem, State.onBlock, State.onLaunch_mem, State.onLaunch_mem, State.onHub_mem, State.handLocally_keeps State.mem (by simp)]

end

/-- A launch whose task has been retired: counted, its entries ended, its slot free (R105). -/
def State.retiredTask (s : State) (l uid : Nat) (r : Retire) (ds : List Nat) : State :=
  ds.foldl (fun s d => s.stir l d) (((((s.unhold (.launch l)).onLaunch l fun x => { x with
    retiring := x.retiring.filter (fun q => q.task.uid != uid), deps := x.deps.filter (fun d => d.uid != uid), tasks := x.tasks + 1
    pool := SMap.insert x.pool r.die (SMap.getD x.pool r.die 0 - r.bytes) }).onBlock l r.die fun h => { h with retired := h.retired + 1 })).freeSlot
      r.die r.task.handle)

theorem execTaskRetire_stored {s s1 : State} {l uid : Nat} {x : Launch} {r : Retire} (hx : SMap.find? s.launches l = some x)
    (hr : x.retiring.find? (fun q => q.task.uid == uid) = some r) (hsucc : r.task.succ = [])
    (hstore : State.storeOuts l ⟨r.cid, x.ctx, some l, true, dieOf r.cid⟩ r.task r.outs s = .ok (none, s1)) :
    ∃ ds : List Nat, execTaskRetire l uid s = .next (s1.retiredTask l uid r ds) := by
  unfold execTaskRetire
  simp only [hx, Option.bind_some, hr, Option.map_some, hstore, hsucc, State.succAll]
  exact ⟨_, rfl⟩

theorem State.retiredTask_leaves {s : State} {l uid : Nat} {x : Launch} (r : Retire) (ds : List Nat) (hx : SMap.find? s.launches l = some x) :
    (∃ y, SMap.find? (s.retiredTask l uid r ds).launches l = some y ∧ y.tasks = x.tasks + 1
      ∧ y.retiring = x.retiring.filter (fun q => q.task.uid != uid) ∧ y.deps = x.deps.filter (fun d => d.uid != uid))
    ∧ SMap.find? ((s.retiredTask l uid r ds).hub r.die).slots (bits r.task.handle.toNat 25 14) = none ∧ (s.retiredTask l uid r ds).mem = s.mem := by
  have hkeep {α : Type} (p : State → α) (h : ∀ s a, p { s with agenda := a } = p s) (s : State) : p (ds.foldl (fun s d => s.stir l d) s) = p s :=
    foldl_keeps p _ (fun s d => State.stir_keeps p h s l d) ds s
  unfold State.retiredTask
  refine ⟨?launch, ?slot, ?mem⟩
  case launch =>
    rw [hkeep State.launches (fun _ _ => rfl), State.freeSlot_keeps State.launches (fun _ _ => rfl), State.onHub_launches]
    have hx' : SMap.find? (s.unhold (.launch l)).launches l = some x := hx
    exact ⟨_, State.find?_onLaunch_of _ (State.find?_onLaunch_of _ hx'), rfl, rfl, rfl⟩
  case slot =>
    rw [hkeep (fun s => (s.hub r.die).slots) (fun _ _ => rfl), State.freeSlot_keeps (fun s => (s.hub r.die).slots) (fun _ _ => rfl)]
    simp [State.hub, State.onHub]
  case mem =>
    rw [hkeep State.mem (fun _ _ => rfl), State.freeSlot_keeps State.mem (fun _ _ => rfl), State.onHub_mem, State.onBlock, State.onLaunch_mem,
      State.onLaunch_mem]
    rfl

/-! ### Preloads (R107) -/

theorem State.busyThread_onL1 (c : Nat) (s : State) (cid : Nat) (f : Pad → Pad) : (s.onL1 cid f).busyThread c = s.busyThread c := by
  refine State.busyThread_congr c ?_
  rw [State.onL1, State.coreAt_onCore]
  split
  · next h => rw [h]
  · rfl

theorem State.bringRegion_busyThread (c : Nat) (s : State) (cid : Nat) (w : Who) (hw : w.engine = true) (k : Task) (i : Nat) (r : Region) (o : Option Obj) :
    Access.Keeps (State.busyThread c) s (s.bringRegion cid w k i r o) := by
  have hp := State.offAccess_busyThread c
  unfold State.bringRegion
  dsimp only
  split
  · exact .ok (State.busyThread_onL1 c s _ _)
  · split
    · exact .ok rfl
    · refine .ite (.ok (State.busyThread_onL1 c s _ _)) (.ite ?_ ?_)
      · exact (hp.readQuant s w hw _ _ _).bind fun x t ht => .ok (State.busyThread_onL1 c t _ _)
      · exact (hp.readTile s w hw _ _ _ _).bind fun x t ht => .ok (State.busyThread_onL1 c t _ _)

theorem State.bringInputs_busyThread (c : Nat) (s : State) (cid : Nat) (k : Task) (waits : Region → Option Obj → Bool) :
    (s.bringInputs cid k waits).1.busyThread c = s.busyThread c := by
  unfold State.bringInputs
  refine foldl_keeps (fun r : State × List Nat => r.1.busyThread c) _ (fun r x => ?_) _ (s, [])
  dsimp only
  split
  · rfl
  · split
    · next t ht => exact State.bringRegion_busyThread c r.1 cid _ rfl _ _ _ _ _ _ ht
    · rfl

/-- A task leaves its bucket: hub blocks and the agenda alone change. -/
theorem State.popTask_keeps {α : Type} (p : State → α) (ha : ∀ s a, p { s with agenda := a } = p s) (hl : ∀ s l f, p (State.onLaunch s l f) = p s)
    (s : State) (l die b : Nat) (k : Task) : p (s.popTask l die b k) = p s :=
  (State.pushOnce_keeps p ha _ _).trans ((State.refillDue_keeps p ha _ _ _ _).trans (hl _ _ _))

theorem State.preloadFor_runs {s : State} {cid : Nat} {x : Nat × Task × Bool} (h : s.preloadFor cid = some x) : (s.coreAt cid).t.mode = .run := by
  unfold State.preloadFor at h
  dsimp only at h
  split at h
  · cases h
  · split at h
    · cases h
    · next hno =>
      simp only [Bool.or_eq_true, not_or] at hno
      obtain ⟨⟨⟨⟨⟨⟨-, hmode⟩, -⟩, -⟩, -⟩, -⟩, -⟩ := hno
      simpa using hmode

/-- The preload that a task becomes on a core, whatever has been read of its regions. -/
def Task.preloaded (k : Task) (robjs : List (Option Obj)) (resident : List Nat) (dep : Bool) (code : List MByte) : Preload :=
  ⟨{ k with robjs := robjs, resident := resident }, dep, code⟩

/-- A preload's step: what it reads, and the core that holds the task then (R107, R154). -/
theorem execTaskPreload_places {s : State} {cid b : Nat} {k : Task} {dep : Bool} {x : Launch} {cr : SMap Nat} (hf : s.preloadFor cid = some (b, k, dep))
    (hx : SMap.find? s.launches (s.coreAt cid).t.lslot = some x) (ht : s.preloadTurn (s.coreAt cid).t.lslot (dieOf cid) x.lrec = some cr) :
    ∃ (u : State) (robjs : List (Option Obj)) (resident : List Nat) (code : List MByte), u.busyThread cid = s.busyThread cid
      ∧ execTaskPreload cid s = .next ((u.onCore cid fun c =>
        { c with preload := some (k.preloaded robjs resident dep code), gated := false }).stir (s.coreAt cid).t.lslot (dieOf cid)) := by
  have hp := State.offAccess_busyThread cid
  have hlaunch (s : State) (l : Nat) (f : Launch → Launch) := hp.launch s l f
  have hstart : ((((s.onHub (dieOf cid) fun h => { h with credit := cr }).popTask (s.coreAt cid).t.lslot (dieOf cid) b k).onBlock
      (s.coreAt cid).t.lslot (dieOf cid) fun h => { h with running := h.running ++ [k] })).busyThread cid = s.busyThread cid :=
    (hlaunch _ _ _).trans (State.popTask_keeps (State.busyThread cid) (fun _ _ => rfl) hlaunch _ _ _ _ _)
  have hcode := (hp.copyCode _ (s.engineOf cid) rfl 1024 x.lrec.codeAddr.toNat).trans hstart
  unfold execTaskPreload
  simp only [hf, hx, ht]
  split
  · next os s1 hos =>
    exact ⟨_, _, _, _, (State.bringInputs_busyThread cid s1 cid _ _).trans ((hp.regionEntries _ _ rfl _ _ _ _ hos).trans hcode), rfl⟩
  · exact ⟨_, _, _, _, (State.bringInputs_busyThread cid _ cid _ _).trans hcode, rfl⟩

/-! ### Walkers, continuations, budgets, gangs -/

section
variable {s : State} {l die : Nat} {x : Launch} (hx : SMap.find? s.launches l = some x)
include hx

theorem execContinuationReady_ready {k : Task} (hd : x.dieWith (fun h => h.suspended.any (fun q => q.uid == k.uid)) = some die)
    (hk : (s.block l die).suspended.find? (fun q => q.uid == k.uid) = some k)
    (ht : (s.tlAt (cidOf k.cx k.cy) l k.tln + (2 ^ 32 - k.waitv.toNat)) % 2 ^ 32 < 2 ^ 31) :
    execContinuationReady l k.uid s = .next ((s.onBlock l die fun h =>
      { h with suspended := h.suspended.filter (fun q => q.uid != k.uid) }).insertTail l die k true) := by
  unfold execContinuationReady
  simp only [hx, Option.bind_some, hd, hk]
  rw [if_pos ht]

/-- A gang whose members are free starts on them (R90). -/
theorem execGangStart_starts {g e : Nat} {s1 : State} (hp : x.phase = .running) (hg : x.gangsLeft.contains g = true) (hf : s.ctxFrozen x.ctx = false)
    (hfree : ∀ m ∈ x.lrec.gangCores g, (s.coreAt m.1).freeFor x.lrec.deadline = true)
    (hc : s.codeEntry (x.whoAt l (dieOf (x.lrec.gangLead g))) x.lrec.codeAddr 0 = .ok (some e, s1)) :
    execGangStart l g s = .next (((((x.lrec.gangCores g).foldl (State.gangMember l x g (x.lrec.gangLead g) e) s1).onLaunch l fun x =>
      { x with gangsLeft := x.gangsLeft.filter (fun n => n != g), gangsRun := x.gangsRun ++ [g] }).tryTable l (x.lrec.gangLead g) x).push
        (.regionCopyInDone (x.lrec.gangLead g))) := by
  have hall : (x.lrec.gangCores g).all (fun m => (s.coreAt m.1).freeFor x.lrec.deadline) = true := List.all_eq_true.2 hfree
  unfold execGangStart
  simp only [hx, hp, hg, hf, hall, hc]
  rfl

/-- A task over its budget ends its launch (R108). -/
theorem execBudgetExceeded_over {cid : Nat} (hl : (s.coreAt cid).t.lslot = l) (ho : (s.coreAt cid).t.taskOpen = true) (hm : (s.coreAt cid).t.mode = .run)
    (ht : x.lrec.task = true) (hb : x.lrec.tbudget ≠ 0) (hlt : x.lrec.tbudget < (s.coreAt cid).t.budget) :
    execBudgetExceeded cid s = .next (s.launchFault l .budget (s.coreFault (s.coreAt cid) .budget 2 none 0 0)) := by
  unfold execBudgetExceeded
  simp [State.recOf, hl, hx, ho, hm, ht, hb, hlt]

/-- The walker makes the child of the iteration at hand (R98). -/
theorem execNestWalkerSpawn_child {k : Task} {rs : List Region} {ps : List Placed} {s1 : State}
    (hd : x.dieWith (fun h => h.walking.any (fun q => q.uid == k.uid)) = some die) (hk : (s.block l die).walking.find? (fun q => q.uid == k.uid) = some k)
    (hw : k.walked < k.counts.foldl (· * ·) 1)
    (hr : (k.regions.zip k.coeffs).mapM (fun p => childRegion p.1 p.2 (iteration k.counts k.walked)) = some rs)
    (ho : State.regionObjs l (x.whoAt l die) rs s = .ok (some ps, s1)) (hfit : regionsFit ps = true) :
    ∃ (child : Task) (t : State), execNestWalkerSpawn l k.uid s = .next ((t.insertTail l die child false).push (.nestWalkerSpawn l k.uid))
      ∧ child.kind = 0 ∧ child.regions = rs ∧ child.idx = (iteration k.counts k.walked).map (fun n => BitVec.ofNat 32 n)
      ∧ child.payload = k.payload ∧ child.key = k.key ∧ t.mem = s1.mem := by
  have hw' := Nat.not_le.2 hw
  have hseq (s : State) : (s.childCseq k).2.mem = s.mem := by
    unfold State.childCseq State.nextCseq
    cases k.src <;> simp
  unfold execNestWalkerSpawn
  simp only [hx, hd, hk, ge_iff_le, hw', if_false, hr, ho, hfit, Bool.not_true, Bool.false_eq_true]
  refine ⟨_, _, rfl, rfl, rfl, rfl, rfl, rfl, ?_⟩
  rw [State.onLaunch_mem]
  exact (hseq _).trans (State.onLaunch_mem ..)

end

/-- A packet of the first accepted, or refused with its cause (R93). -/
theorem execPacketAccept_first {s s1 : State} {l die : Nat} {pkt : List Byte} {r : Except Cause Word}
    (h : s.hubAccept l die [0, 2] false (some 0) none pkt = .ok (r, s1)) :
    execPacketAccept die l .first pkt s = .next (match r with
      | .ok _ => s1.unhold (.launch l)
      | .error why => (s1.unhold (.launch l)).hubFault l die why 0) := by
  unfold execPacketAccept
  cases r with
  | ok a =>
    dsimp only
    rw [h]
  | error a =>
    dsimp only
    rw [h]

/-! ### The statement -/

/-- Settles O54: each step of a task's life by the lemma above that says what it leaves. -/
theorem taskLife : Obligations.TaskLife := by
  intro s cid l die x hx c
  refine ⟨fun pkt h s1 hacc => ?accept, fun pkt why s1 hacc => ?refuse, fun k rs ps s1 hd hk hw hr ho hfit => execNestWalkerSpawn_child hx hd hk hw hr ho hfit,
    fun s1 hc => ?dispatch, fun k hs hr hi hp => ?start, fun s1 s2 hl hm hg hcode hf h1 h2 => ?copyIn, fun hl hdie hm hh hg hsusp hq hp => ?tend,
    fun uid r s1 x1 hr hsucc hstore hx1 => ?retire, fun b k dep y cr hf hy ht => ?preload,
    fun k hd hk ht => execContinuationReady_ready hx hd hk ht, fun hl ho hm ht hb hlt hp hc => ?budget,
    fun g e s1 hp hg hf hw hh hfree hc => ?gang⟩
  case accept => exact execPacketAccept_first hacc
  case refuse => exact execPacketAccept_first hacc
  case dispatch =>
    change execTaskDispatch die s = _
    simp only [execTaskDispatch, hc]
  case start =>
    intro u
    obtain ⟨objs, windowed, task, hu⟩ := State.startTask_thread hx cid hs
    obtain ⟨hmode, hpc, hhandler, hflights⟩ := ((s.coreAt cid).readyFor l x).t.forTask_fresh x.lrec hs
    obtain ⟨hA, hS, hP⟩ := ((s.coreAt cid).readyFor l x).t.forTask_regs x.lrec hs hr hi hp
    change u.t = _ at hu
    rw [hu]
    exact ⟨hmode, hpc, hhandler, hflights, hA, hS, hP, State.regionCopyInDone_mem_startTask hx cid k⟩
  case copyIn =>
    subst hl
    intro code
    obtain ⟨u, done, hexec⟩ := execRegionCopyInDone_task hx hm hg hcode hf h1 h2
    refine ⟨_, hexec, ?_⟩
    rw [State.coreAt_onCore_self]
    refine ⟨rfl, rfl, rfl, fun hne => ?_⟩
    have hfull : code.1.isEmpty = false := by simpa using hne
    change (if code.1.isEmpty then (u.coreAt cid).t else (u.coreAt cid).t.loadCode code.1).codeLen = _
    rw [hfull]
    rfl
  case tend =>
    subst hl hdie
    obtain ⟨hidle, ⟨y, hy, hret⟩, hdue, hcopy, hmem⟩ := State.copiedOut_leaves hx
    exact ⟨_, y, execTendCopyOut_copies hm hh hg hsusp hq hp, hidle, hy, hret, hdue, hcopy, hmem⟩
  case retire =>
    obtain ⟨ds, hexec⟩ := execTaskRetire_stored hx hr hsucc hstore
    obtain ⟨⟨y, hy, htasks, hret, hdeps⟩, hslot, hmem⟩ := State.retiredTask_leaves (uid := uid) r ds hx1
    exact ⟨_, y, hexec, hy, htasks, hret, hdeps, by simpa [bits_eq_div_mod] using hslot, hmem⟩
  case preload =>
    obtain ⟨u, robjs, resident, code, hu, hexec⟩ := execTaskPreload_places hf hy ht
    refine ⟨_, k.preloaded robjs resident dep code, hexec, ?_⟩
    rw [State.stir_keeps (fun s => s.coreAt cid) (fun _ _ => rfl), State.coreAt_onCore_self]
    refine ⟨rfl, rfl, rfl, rfl, ?_⟩
    exact State.busyThread_some (hu.trans (State.busyThread_eq (by rw [State.preloadFor_runs hf]; decide)))
  case budget =>
    obtain ⟨y, hy, hst, hca, hph⟩ := s.find?_launchFault .budget (s.coreFault (s.coreAt cid) .budget 2 none 0 0) hx hp hc
    exact ⟨_, y, execBudgetExceeded_over hx hl ho hm ht hb hlt, hy, hst, hca, hph, State.launchFault_mem ..⟩
  case gang =>
    refine ⟨_, execGangStart_starts hx hp hg hf hfree hc, by simp [State.push], fun m hm => ?_⟩
    obtain ⟨t, ht⟩ := State.foldl_gangMember l x g (x.lrec.gangLead g) e _ (x.lrec.gangCores_nodup g hw) s1 m hm
    obtain ⟨hmode, hrest⟩ := t.forGang_fresh x.lrec g x.lrec.gangs m.2.1 m.2.2 (x.lrec.gangLead g) e
    have hcores {u : State} {f : Launch → Launch} : (u.onLaunch l f).coreAt m.1 = u.coreAt m.1 := State.coreAt_congr (by simp) (by simp) m.1
    have htry := State.tryTable_threads (s := ((x.lrec.gangCores g).foldl (State.gangMember l x g (x.lrec.gangLead g) e) s1).onLaunch l fun x =>
      { x with gangsLeft := x.gangsLeft.filter (fun n => n != g), gangsRun := x.gangsRun ++ [g] }) (l := l) (cid := x.lrec.gangLead g) (c := m.1) (x := x)
    rw [hcores, ht] at htry
    obtain ⟨objs, windowed, task, hu⟩ := htry (by rw [hmode]; decide)
    intro u
    have hu' : u = _ := hu
    rw [hu']
    exact ⟨hmode, hrest⟩

end Sys2Proof.Machine
end

section
/-! The hubs and the floor keeper of a launch (R109, R113 to R128). -/

namespace Sys2Proof.Machine

/-! ### Blocks of a launch -/

/-- What a step of a hub or of a keeper leaves alone: memory, the cores, the contexts. -/
def State.outside (s : State) : Mem × Core × SMap Core × Vector Ctx 64 := (s.mem, s.core, s.parked, s.ctxs)

theorem State.outside_iff {s t : State} : t.outside = s.outside ↔ t.mem = s.mem ∧ t.core = s.core ∧ t.parked = s.parked ∧ t.ctxs = s.ctxs := by
  simp [State.outside]

@[simp] theorem State.outside_onLaunch (s : State) (l : Nat) (f : Launch → Launch) : (s.onLaunch l f).outside = s.outside := by simp [State.outside]

@[simp] theorem State.outside_onBlock (s : State) (l d : Nat) (f : HubBlock → HubBlock) : (s.onBlock l d f).outside = s.outside :=
  s.outside_onLaunch l _

@[simp] theorem State.agenda_onBlock (s : State) (l d : Nat) (f : HubBlock → HubBlock) : (s.onBlock l d f).agenda = s.agenda := by simp [State.onBlock]

@[simp] theorem State.outside_onHub (s : State) (d : Nat) (f : Hub → Hub) : (s.onHub d f).outside = s.outside := rfl

@[simp] theorem State.outside_push (s : State) (i : Instr) : (s.push i).outside = s.outside := rfl

@[simp] theorem State.outside_stir (s : State) (l d : Nat) : (s.stir l d).outside = s.outside := State.stir_keeps State.outside (fun _ _ => rfl) s l d

@[simp] theorem State.outside_refillDue (s : State) (l d b : Nat) : (s.refillDue l d b).outside = s.outside :=
  State.refillDue_keeps State.outside (fun _ _ => rfl) s l d b

@[simp] theorem State.outside_refillAll (s : State) (l d : Nat) : (s.refillAll l d).outside = s.outside :=
  State.refillAll_keeps State.outside (fun _ _ => rfl) s l d

@[simp] theorem State.outside_freeSlot (s : State) (d : Nat) (h : Word) : (s.freeSlot d h).outside = s.outside :=
  State.freeSlot_keeps State.outside (fun _ _ => rfl) s d h

/-- A page that goes back changes the pools, or is counted as leaked (R177). -/
theorem State.returnPage_eq (s : State) (pa : Nat) (big : Bool) :
    ∃ ps n, s.returnPage pa big = { s with pools := ps, dev := { s.dev with leaked := n } } := by
  have hleak : ∃ ps n, s.leak = { s with pools := ps, dev := { s.dev with leaked := n } } := ⟨_, _, rfl⟩
  unfold State.returnPage
  by_cases h : pa / 2 ^ 37 < 8
  · by_cases hfull : (if big then s.pools[pa / 2 ^ 37].ret2m else s.pools[pa / 2 ^ 37].ret64).length ≥ 1024
    · simpa only [dif_pos h, if_pos hfull] using hleak
    · simp only [dif_pos h, if_neg hfull]
      exact ⟨_, _, rfl⟩
  · simpa only [dif_neg h] using hleak

@[simp] theorem State.outside_returnPage (s : State) (pa : Nat) (big : Bool) : (s.returnPage pa big).outside = s.outside := by
  obtain ⟨ps, n, h⟩ := s.returnPage_eq pa big
  rw [h]
  rfl

@[simp] theorem State.outside_unspill (s : State) (l d pa : Nat) : (s.unspill l d pa).outside = s.outside := by
  unfold State.unspill
  dsimp only
  split <;> simp

/-- A view that depends on the launches and not on the agenda. -/
theorem State.block_congr {s t : State} (h : t.launches = s.launches) (l d : Nat) : t.block l d = s.block l d := by
  unfold State.block
  rw [h]

@[simp] theorem State.block_stir (s : State) (k e l d : Nat) : (s.stir k e).block l d = s.block l d :=
  State.stir_keeps (fun s => s.block l d) (fun _ _ => rfl) s k e

@[simp] theorem State.block_refillAll (s : State) (k e l d : Nat) : (s.refillAll k e).block l d = s.block l d :=
  State.refillAll_keeps (fun s => s.block l d) (fun _ _ => rfl) s k e

@[simp] theorem State.block_refillDue (s : State) (k e b l d : Nat) : (s.refillDue k e b).block l d = s.block l d :=
  State.refillDue_keeps (fun s => s.block l d) (fun _ _ => rfl) s k e b

@[simp] theorem State.block_push (s : State) (i : Instr) (l d : Nat) : (s.push i).block l d = s.block l d := rfl

@[simp] theorem State.block_onHub (s : State) (e : Nat) (f : Hub → Hub) (l d : Nat) : (s.onHub e f).block l d = s.block l d := rfl

section
variable {s : State} {l : Nat} {x : Launch} (hx : SMap.find? s.launches l = some x)
include hx

theorem State.block_of (d : Nat) : s.block l d = SMap.getD x.hubs d { reach := x.lrec.reach } := by
  simp [State.block, hx]

theorem State.block_onBlock_self (d : Nat) (f : HubBlock → HubBlock) : (s.onBlock l d f).block l d = f (s.block l d) := by
  rw [State.block_onBlock _ _ _ _ _ _ hx, if_pos rfl]

/-- A change to the launch that leaves its hubs and its record leaves its blocks. -/
theorem State.block_onLaunch (f : Launch → Launch) (hh : (f x).hubs = x.hubs) (hr : (f x).lrec = x.lrec) (d : Nat) :
    (s.onLaunch l f).block l d = s.block l d := by
  rw [State.block_of hx, State.block, State.find?_onLaunch_of _ hx]
  simp [hh, hr]

theorem State.recOf_of : s.recOf l = x.lrec := by simp [State.recOf, hx]

theorem State.diesOf_of : s.diesOf l = x.lrec.dies := by simp [State.diesOf, State.recOf_of hx]

theorem State.works_of (hw : x.works = true) : s.works l = true := by simp [State.works, hx, hw]

theorem State.keeperOf_of : s.keeperOf l = x.keeper := by simp [State.keeperOf, hx]

theorem State.kfcOf_of : s.kfcOf l = x.kfc := by simp [State.kfcOf, hx]

/-- A message to the hubs of a launch goes to each of its dies, in order. -/
theorem State.tellHubs_of (f : Nat → Instr) : s.tellHubs l f = { s with agenda := s.agenda ++ x.lrec.dies.map f } := by
  rw [State.tellHubs, State.diesOf_of hx, State.foldl_push]

/-! ### Waves, proposals, commits (R109, R113, R115) -/

section
variable (hw : x.works = true)
include hw

theorem execTerminationWave_empty {shares : List WaveShare} (h : x.lastWave = some (s.waveCounts l x shares))
    (he : waveEmpty (s.waveCounts l x shares) = true) : execTerminationWave l shares s = .next (s.endLaunch l .ok none) := by
  simp [execTerminationWave, hx, hw, h, he]

theorem execTerminationWave_stuck {shares : List WaveShare} (h : x.lastWave = some (s.waveCounts l x shares))
    (he : waveEmpty (s.waveCounts l x shares) = false) (h5 : (s.waveCounts l x shares).getD 5 0 = 1) :
    execTerminationWave l shares s = .next (s.hubFault l (x.lrec.dies.headD 0) .depStuck 0) := by
  simp only [execTerminationWave, hx, hw, h, he, h5]
  simp

theorem execTerminationWave_new {shares : List WaveShare} (h : x.lastWave ≠ some (s.waveCounts l x shares)) (hm : x.lrec.multi = false) :
    execTerminationWave l shares s
      = .next ((s.onLaunch l fun y => { y with lastWave := some (s.waveCounts l x shares) }).push (.terminationWave l [])) := by
  have hagain : (x.lastWave == some (s.waveCounts l x shares)) = false := by simpa using h
  simp only [execTerminationWave, hx, hw, hagain, hm]
  simp

theorem execFloorPropose_proposes {p : Nat} (hk : x.keeper = .rest) (hp : p = (x.lrec.dies.map fun d => s.lowestAt l d).foldl min noBucket)
    (hlt : x.kfc < p) (hb : p < noBucket) :
    execFloorPropose l s = .next ((s.onKeeper l (.proposing p)).tellHubs l fun d => .proposeReceive l d p) := by
  unfold execFloorPropose
  simp only [State.works_of hx hw, State.keeperOf_of hx, hk, State.diesOf_of hx, ← hp, State.kfcOf_of hx, hlt, hb]
  simp

theorem execProposeReceive_answers (hub p : Nat) : execProposeReceive l hub p s
    = .next ((s.onBlock l hub fun h => { h with guard := p }).push (.proposeAckReceive l hub (s.lowestAt l hub))) := if_pos (State.works_of hx hw)

theorem execCommitReceive_commits (hub fc : Nat) : execCommitReceive l hub fc s
    = .next (((s.setFloor l hub fc (max (s.block l hub).guard fc)).refillAll l hub).stir l hub) := if_pos (State.works_of hx hw)

theorem execHoldReceive_pauses {hub : Nat} (hk : x.keeper ≠ .pausing) (hd : x.lrec.dies.contains hub = true) :
    execHoldReceive l hub s = .next ((s.onKeeper l .pausing).tellHubs l fun d => .pauseReceive l d) := by
  unfold execHoldReceive
  simp only [State.works_of hx hw, State.keeperOf_of hx, State.diesOf_of hx, hd, hk]
  simp

theorem execPauseReceive_answers (hub : Nat) : execPauseReceive l hub s
    = .next ((s.onBlock l hub fun h => { h with paused := true, acked := true }).push
        (.pauseAckReceive l hub (s.lowestAt l hub) (((s.block l hub).lowestHeld x.lrec).getD noBucket))) := by
  unfold execPauseReceive
  rw [if_pos (State.works_of hx hw), State.recOf_of hx]

theorem execReachUpdate_reaches (v : Nat) : execReachUpdate l v s
    = .next (x.lrec.dies.foldl (fun s d => (s.onBlock l d fun h => { h with reach := v % 64 }).stir l d) s) := by
  unfold execReachUpdate
  rw [if_pos (State.works_of hx hw), State.diesOf_of hx]

theorem execStealRequest_asks {giver thief : Nat} (h : s.giverFor l thief = some giver) :
    execStealRequest l thief s = .next (s.push (.stealRequestReceive l giver thief)) := by
  simp [execStealRequest, State.works_of hx hw, h]

theorem execStealRequestReceive_gives {giver thief b : Nat} {ks : List Task} (h : (s.block l giver).gift x.lrec (fun _ => true) = some (b, ks)) :
    execStealRequestReceive l giver thief s = .next ((s.give l giver thief b ks).push (.stealTransferReceive l giver thief)) := by
  simp [execStealRequestReceive, State.works_of hx hw, State.recOf_of hx, h]

theorem execStealTransferReceive_takes {giver thief : Nat} {k : Task} (h : (s.block l giver).giving.filter (fun q => q.1 == thief) = [(thief, k)]) :
    execStealTransferReceive l giver thief s = .next ((((s.tailInsert l thief { k with page := none } false).onBlock l thief fun h =>
      { h with asking := false, stolenIn := BitVec.ofNat 32 (satAdd 32 h.stolenIn.toNat 1) }).push (.stealAckReceive l giver thief)).stir l thief) := by
  unfold execStealTransferReceive
  simp only [State.works_of hx hw, h]
  rfl

theorem execStealRetry_ends (hub : Nat) : execStealRetry l hub s = .next ((s.onBlock l hub fun h => { h with asking := false }).stir l hub) :=
  if_pos (State.works_of hx hw)

theorem execDeviceStealRequest_asks {m : Nat} (hm : x.lrec.multi = true) (hs : x.stealFrom = some m) :
    execDeviceStealRequest l none s = .next ((s.onLaunch l fun x => { x with stealFrom := none }).emit (.steal l m)) := by
  unfold execDeviceStealRequest
  simp only [State.works_of hx hw, State.recOf_of hx, hm, hx, Option.bind_some, hs]
  rfl

end

/-! ### Answers that the keeper gathers (R115, R117) -/

theorem State.ackFrom_of (hub : Nat) (a : Nat × Nat) : s.ackFrom l hub a =
    (if x.lrec.dies.all (fun d => (SMap.find? (SMap.insert x.acks hub a) d).isSome) then some ((SMap.insert x.acks hub a).map fun y => y.2) else none,
      s.onLaunch l fun x => { x with acks := SMap.insert x.acks hub a }) := by
  have hx' := State.find?_onLaunch_of (fun x => { x with acks := SMap.insert x.acks hub a }) hx
  simp only [State.ackFrom, State.acksOf, hx', State.diesOf_of hx', Option.map_some, Option.getD_some]

theorem execProposeAckReceive_waits {hub b p : Nat} (hk : x.keeper = .proposing p)
    (hall : x.lrec.dies.all (fun d => (SMap.find? (SMap.insert x.acks hub (b, noBucket)) d).isSome) = false) :
    execProposeAckReceive l hub b s = .next (s.onLaunch l fun x => { x with acks := SMap.insert x.acks hub (b, noBucket) }) := by
  unfold execProposeAckReceive
  simp only [State.keeperOf_of hx, hk, State.ackFrom_of hx, hall]
  rfl

/-- The keeper at rest with a new floor, of which it tells every hub. -/
def State.newFloor (s : State) (l hub : Nat) (a : Nat × Nat) (fc : Nat) (f : Nat → Instr) : State :=
  ((((s.onLaunch l fun x => { x with acks := SMap.insert x.acks hub a }).onKeeper l .rest).onLaunch l fun x => { x with kfc := fc }).tellHubs l f)

theorem execProposeAckReceive_commits {hub b p : Nat} (hk : x.keeper = .proposing p)
    (hall : x.lrec.dies.all (fun d => (SMap.find? (SMap.insert x.acks hub (b, noBucket)) d).isSome) = true) :
    execProposeAckReceive l hub b s = .next (s.newFloor l hub (b, noBucket)
      (((SMap.insert x.acks hub (b, noBucket)).map fun a => a.2.1).foldl min p)
      (fun d => .commitReceive l d (((SMap.insert x.acks hub (b, noBucket)).map fun a => a.2.1).foldl min p))) := by
  unfold execProposeAckReceive
  simp only [State.keeperOf_of hx, hk, State.ackFrom_of hx, hall, if_true, List.foldl_map]
  rfl

theorem execPauseAckReceive_resumes {hub b b' : Nat} (hk : x.keeper = .pausing)
    (hall : x.lrec.dies.all (fun d => (SMap.find? (SMap.insert x.acks hub (b, b')) d).isSome) = true) :
    execPauseAckReceive l hub b b' s = .next (s.newFloor l hub (b, b')
      (((SMap.insert x.acks hub (b, b')).map fun a => min a.2.1 a.2.2).foldl min x.kfc)
      (fun d => .resumeReceive l d (((SMap.insert x.acks hub (b, b')).map fun a => min a.2.1 a.2.2).foldl min x.kfc))) := by
  unfold execPauseAckReceive
  simp only [State.keeperOf_of hx, hk, State.ackFrom_of hx, hall, if_true, List.foldl_map, State.kfcOf_of hx]
  rfl

theorem State.newFloor_leaves (hub : Nat) (a : Nat × Nat) (fc : Nat) (f : Nat → Instr) :
    SMap.find? (s.newFloor l hub a fc f).launches l = some { x with keeper := .rest, acks := [], kfc := fc }
      ∧ (s.newFloor l hub a fc f).agenda = s.agenda ++ x.lrec.dies.map f ∧ (s.newFloor l hub a fc f).outside = s.outside := by
  have h1 := State.find?_onLaunch_of (fun x => { x with acks := SMap.insert x.acks hub a }) hx
  have h2 := State.find?_onLaunch_of (fun x => { x with keeper := .rest, acks := [] }) h1
  have h3 := State.find?_onLaunch_of (fun x => { x with kfc := fc }) h2
  unfold State.newFloor State.onKeeper
  rw [State.tellHubs_of h3]
  refine ⟨h3, by simp, ?_⟩
  change State.outside (State.onLaunch _ l _) = _
  simp

/-- The keeper set to a task, of which it tells every hub. -/
theorem State.onKeeper_tells (k : Keeper) (f : Nat → Instr) :
    SMap.find? ((s.onKeeper l k).tellHubs l f).launches l = some { x with keeper := k, acks := [] }
      ∧ ((s.onKeeper l k).tellHubs l f).agenda = s.agenda ++ x.lrec.dies.map f ∧ ((s.onKeeper l k).tellHubs l f).outside = s.outside := by
  have h1 := State.find?_onLaunch_of (fun x => { x with keeper := k, acks := [] }) hx
  unfold State.onKeeper
  rw [State.tellHubs_of h1]
  refine ⟨h1, by simp, ?_⟩
  change State.outside (State.onLaunch _ l _) = _
  simp


end

/-! ### A floor that moves no queue (R115) -/

section
variable {s : State} {l : Nat} {x : Launch}

/-- Where every bucket stays a bucket and every far task stays far, a new floor moves no task. -/
theorem State.setFloor_still {l die fc : Nat} (guard : Nat) (hb : ∀ q ∈ (s.block l die).buckets, q.1 < fc + 64)
    (hf : ∀ k ∈ (s.block l die).far, fc + 64 ≤ bucketOf (s.recOf l) k.key) :
    s.setFloor l die fc guard = s.onBlock l die fun h =>
      { h with fc := fc, guard := guard, buckets := h.buckets.filter (fun x => x.1 < fc + 64)
               far := h.far.filter (fun k => !(bucketOf (s.recOf l) k.key < fc + 64)) } := by
  have hleave : (s.block l die).buckets.filter (fun x => x.1 ≥ fc + 64) = [] :=
    List.filter_eq_nil_iff.2 fun q hq => by simpa using hb q hq
  have hcome : (s.block l die).far.filter (fun k => bucketOf (s.recOf l) k.key < fc + 64) = [] :=
    List.filter_eq_nil_iff.2 fun k hk => by simpa using hf k hk
  unfold State.setFloor
  simp only [hleave, hcome]
  rfl

theorem HubBlock.filters_still {h : HubBlock} {r : LaunchRec} {fc : Nat} (hb : ∀ q ∈ h.buckets, q.1 < fc + 64)
    (hf : ∀ k ∈ h.far, fc + 64 ≤ bucketOf r k.key) :
    h.buckets.filter (fun x => x.1 < fc + 64) = h.buckets ∧ h.far.filter (fun k => !(bucketOf r k.key < fc + 64)) = h.far :=
  ⟨List.filter_eq_self.2 fun q hq => by simpa using hb q hq, List.filter_eq_self.2 fun k hk => by simpa using hf k hk⟩

theorem State.block_setFloor_still {l die fc : Nat} (guard : Nat) (hx : SMap.find? s.launches l = some x)
    (hb : ∀ q ∈ (s.block l die).buckets, q.1 < fc + 64) (hf : ∀ k ∈ (s.block l die).far, fc + 64 ≤ bucketOf x.lrec k.key) :
    (s.setFloor l die fc guard).block l die = { s.block l die with fc := fc, guard := guard } := by
  obtain ⟨hbuckets, hfar⟩ := HubBlock.filters_still hb hf
  rw [State.setFloor_still guard hb (by rwa [State.recOf_of hx]), State.block_onBlock_self hx, State.recOf_of hx]
  simp only [hbuckets, hfar]


theorem State.isSome_onLaunch (s : State) (k : Nat) (f : Launch → Launch) :
    (SMap.find? (s.onLaunch k f).launches l).isSome = (SMap.find? s.launches l).isSome := by
  rw [State.find?_onLaunch]
  split <;> simp_all

/-- `block_onBlock_self` for a launch that is there, whatever it is. -/
theorem State.block_onBlock_there (d : Nat) (f : HubBlock → HubBlock) (h : (SMap.find? s.launches l).isSome = true) :
    (s.onBlock l d f).block l d = f (s.block l d) := by
  obtain ⟨y, hy⟩ := Option.isSome_iff_exists.1 h
  exact State.block_onBlock_self hy d f

/-- `block_onLaunch` for a launch that is there, whatever it is. -/
theorem State.block_onLaunch_there (d : Nat) (f : Launch → Launch) (hf : ∀ y, (f y).hubs = y.hubs ∧ (f y).lrec = y.lrec)
    (h : (SMap.find? s.launches l).isSome = true) : (s.onLaunch l f).block l d = s.block l d := by
  obtain ⟨y, hy⟩ := Option.isSome_iff_exists.1 h
  exact State.block_onLaunch hy f (hf y).1 (hf y).2 d

theorem State.insertHelds_none {d floor : Nat} (h : (s.block l d).held = []) :
    s.insertHelds l d floor = s.onBlock l d fun b => { b with held := b.held.filter (fun k => !(bucketOf (s.recOf l) k.key ≥ floor)) } := by
  unfold State.insertHelds
  simp only [h]
  rfl

section
variable (hx : SMap.find? s.launches l = some x) {hub fc : Nat} (hb : ∀ q ∈ (s.block l hub).buckets, q.1 < fc + 64)
  (hf : ∀ k ∈ (s.block l hub).far, fc + 64 ≤ bucketOf x.lrec k.key)
include hx hb hf

theorem State.outside_setFloor_still (guard : Nat) : (s.setFloor l hub fc guard).outside = s.outside := by
  rw [State.setFloor_still guard hb (by rwa [State.recOf_of hx]), State.outside_onBlock]

theorem State.isSome_setFloor_still (guard : Nat) : (SMap.find? (s.setFloor l hub fc guard).launches l).isSome = true := by
  rw [State.setFloor_still guard hb (by rwa [State.recOf_of hx]), State.onBlock, State.isSome_onLaunch, hx]
  rfl

theorem execCommitReceive_still (hw : x.works = true) : ∃ t, execCommitReceive l hub fc s = .next t
    ∧ t.block l hub = { s.block l hub with fc := fc, guard := max (s.block l hub).guard fc } ∧ t.outside = s.outside := by
  refine ⟨_, execCommitReceive_commits hx hw hub fc, ?_, ?_⟩
  · simp only [State.block_stir, State.block_refillAll, State.block_setFloor_still _ hx hb hf]
  · simp only [State.outside_stir, State.outside_refillAll, State.outside_setFloor_still hx hb hf]

/-- A resume with nothing held and nothing late inserts nothing, and the hub goes on (R117). -/
theorem execResumeReceive_still (hw : x.works = true) (hheld : (s.block l hub).held = []) (hlate : (s.block l hub).late = []) :
    ∃ t, execResumeReceive l hub fc s = .next t
    ∧ t.block l hub = { s.block l hub with fc := fc, guard := fc, paused := false, acked := false } ∧ t.outside = s.outside := by
  have hset := State.block_setFloor_still fc hx hb hf
  have hthere := State.isSome_setFloor_still hx hb hf fc
  have hnone := State.insertHelds_none (s := s.setFloor l hub fc fc) (l := l) (d := hub)
    (floor := if x.lrec.multi then max fc (s.block l hub).gguard else fc) (by rw [hset]; exact hheld)
  unfold execResumeReceive
  simp only [State.works_of hx hw, State.recOf_of hx, hlate, hnone]
  refine ⟨_, rfl, ?_, ?_⟩
  · simp only [List.isEmpty_nil, Bool.not_true, Bool.false_eq_true, if_false, State.block_stir, State.block_refillAll]
    rw [State.block_onBlock_there _ _ (by rwa [State.onBlock, State.isSome_onLaunch]), State.block_onBlock_there _ _ hthere, hset]
    simp [hheld, hlate]
  · simp [State.outside_setFloor_still hx hb hf]

end

/-! ### Refills (R122) -/

theorem State.takeSlot_onHub {d : Nat} {handle : Word} {s1 : State} (h : s.takeSlot l d = some (handle, s1)) : ∃ f, s1 = s.onHub d f := by
  unfold State.takeSlot at h
  dsimp only at h
  split at h
  · cases h
  · cases h
    exact ⟨_, rfl⟩

theorem HubBlock.queue_setQueue (h : HubBlock) (b : Nat) (q : List Task) : (h.setQueue b q).queue b = q := by
  unfold HubBlock.setQueue
  by_cases hfar : h.isFar b = true
  · rw [if_pos hfar]
    exact if_pos hfar
  · rw [if_neg hfar]
    refine (if_neg hfar).trans ?_
    cases q <;> simp [SMap.getD]

/-- What a view of a block that a change of its pages leaves alone, an unspill leaves alone. -/
theorem State.block_unspill {α : Type} (p : HubBlock → α) (hp : ∀ (h : HubBlock) (ps : List SpillPage), p { h with pages := ps } = p h)
    (d pa : Nat) (h : (SMap.find? s.launches l).isSome = true) : p ((s.unspill l d pa).block l d) = p (s.block l d) := by
  have hthere : ∀ f, (SMap.find? (s.onBlock l d f).launches l).isSome = true := fun f => by rwa [State.onBlock, State.isSome_onLaunch]
  have hmark : ∀ f : HubBlock → List SpillPage, p ((s.onBlock l d fun b => { b with pages := f b }).block l d) = p (s.block l d) := fun f => by
    rw [State.block_onBlock_there _ _ h, hp]
  unfold State.unspill
  dsimp only
  split
  · obtain ⟨ps, n, hret⟩ := State.returnPage_eq ((((s.onBlock l d fun b =>
      { b with pages := b.pages.map (fun x => if x.pa = pa then { x with live := x.live - 1 } else x) }).onBlock l d fun b =>
      { b with pages := b.pages.filter (fun x => x.pa != pa) }).onLaunch l fun x => { x with owned := x.owned.filter (fun p => p != pa) })) pa false
    rw [hret]
    change p (State.block (State.onLaunch _ l _) l d) = _
    rw [State.block_onLaunch_there _ (fun x : Launch => { x with owned := x.owned.filter (fun p => p != pa) }) (fun _ => ⟨rfl, rfl⟩) (by rw [State.onBlock, State.isSome_onLaunch, hthere]),
      State.block_onBlock_there _ _ (hthere _), hp]
    exact hmark _
  · exact hmark _

theorem State.queue_unspill (d pa b : Nat) (h : (SMap.find? s.launches l).isSome = true) :
    ((s.unspill l d pa).block l d).queue b = (s.block l d).queue b := State.block_unspill (fun b' => b'.queue b) (fun _ _ => rfl) d pa h

theorem headPart_slotted {k : Task} (h : k.page = none) : headPart [k] = 1 := by simp [headPart, h]

theorem headPart_spilled {k : Task} {pa : Nat} (h : k.page = some pa) : headPart [k] = 0 := by simp [headPart, h]

/-- A bucket whose only task has a slot needs no refill. -/
theorem State.refill_slotted {d b : Nat} {k : Task} (fuel : Nat) (hq : (s.block l d).queue b = [k]) (hk : k.page = none) :
    State.refill fuel s l d b = s := by
  cases fuel with
  | zero => rfl
  | succ n => simp [State.refill, hq, headPart_slotted hk]

/-- A bucket whose only task lies on a page gets a slot for it, and the page gives it back (R122). -/
theorem State.refill_spilled {d b pa : Nat} {k : Task} {handle : Word} {s1 : State} (n : Nat) (hthere : (SMap.find? s.launches l).isSome = true)
    (hq : (s.block l d).queue b = [k]) (hk : k.page = some pa) (hfree : 256 < (s.hub d).free) (ht : s.takeSlot l d = some (handle, s1)) :
    State.refill (n + 1) s l d b = (s1.onBlock l d fun h => h.setQueue b [{ k with handle := handle, page := none }]).unspill l d pa
      ∧ ((State.refill (n + 1) s l d b).block l d).queue b = [{ k with handle := handle, page := none }] := by
  obtain ⟨f, rfl⟩ := State.takeSlot_onHub ht
  have hqueue : (((((s.onHub d f).onBlock l d fun h => h.setQueue b [{ k with handle := handle, page := none }]).unspill l d pa).block l d).queue b)
      = [{ k with handle := handle, page := none }] := by
    rw [State.queue_unspill _ _ _ (by rwa [State.onBlock, State.isSome_onLaunch]), State.block_onBlock_there (s := s.onHub d f) _ _ hthere, HubBlock.queue_setQueue]
  have hstep : State.refill (n + 1) s l d b = ((s.onHub d f).onBlock l d fun h => h.setQueue b [{ k with handle := handle, page := none }]).unspill l d pa := by
    rw [State.refill]
    simp only [hq, headPart_spilled hk, List.getElem?_cons_zero, ht, List.set_cons_zero, hk, Option.getD_some]
    rw [if_neg (by simp; omega)]
    exact State.refill_slotted n hqueue rfl
  exact ⟨hstep, hstep ▸ hqueue⟩

theorem execBucketRefill_spilled {d b pa : Nat} {k : Task} {handle : Word} {s1 : State} (hthere : (SMap.find? s.launches l).isSome = true)
    (hfar : b ≠ farQueue) (hq : (s.block l d).queue b = [k]) (hk : k.page = some pa) (hfree : 256 < (s.hub d).free)
    (ht : s.takeSlot l d = some (handle, s1)) :
    ∃ t, execBucketRefill l d b s = .next t ∧ (t.block l d).queue b = [{ k with handle := handle, page := none }] ∧ t.outside = s.outside := by
  obtain ⟨hstep, hqueue⟩ := State.refill_spilled 15 hthere hq hk hfree ht
  obtain ⟨f, rfl⟩ := State.takeSlot_onHub ht
  unfold execBucketRefill
  rw [if_neg hfar]
  refine ⟨_, rfl, ?_, ?_⟩
  · rw [State.block_stir, hqueue]
  · rw [State.outside_stir, hstep]
    simp

/-! ### Reach, and tasks that a thief asks for (R124, R126, R128) -/

theorem State.isSome_stir (s : State) (k d : Nat) : (SMap.find? (s.stir k d).launches l).isSome = (SMap.find? s.launches l).isSome :=
  State.stir_keeps (fun s => (SMap.find? s.launches l).isSome) (fun _ _ => rfl) s k d

/-- One hub's new reach (R113). -/
def State.reached (l v : Nat) (s : State) (d : Nat) : State := (s.onBlock l d fun h => { h with reach := v % 64 }).stir l d

theorem State.reached_there (v d : Nat) : (SMap.find? (s.reached l v d).launches l).isSome = (SMap.find? s.launches l).isSome := by
  rw [State.reached, State.isSome_stir, State.onBlock, State.isSome_onLaunch]

theorem State.block_reached (v d e : Nat) (h : (SMap.find? s.launches l).isSome = true) :
    (s.reached l v d).block l e = if e = d then { s.block l d with reach := v % 64 } else s.block l e := by
  obtain ⟨y, hy⟩ := Option.isSome_iff_exists.1 h
  rw [State.reached, State.block_stir, State.block_onBlock _ _ _ _ _ _ hy]

theorem State.block_foldl_reached (v : Nat) (ds : List Nat) (d : Nat) (s : State) (h : (SMap.find? s.launches l).isSome = true) :
    (ds.foldl (State.reached l v) s).block l d = if d ∈ ds then { s.block l d with reach := v % 64 } else s.block l d := by
  induction ds generalizing s with
  | nil => rfl
  | cons e ds ih =>
    rw [List.foldl_cons, ih _ (by rwa [State.reached_there]), State.block_reached v e d h]
    by_cases he : d = e
    · subst he
      simp
    · simp [he]

theorem execReachUpdate_leaves (hx : SMap.find? s.launches l = some x) (hw : x.works = true) (v : Nat) : ∃ t, execReachUpdate l v s = .next t
    ∧ (∀ d ∈ x.lrec.dies, t.block l d = { s.block l d with reach := v % 64 }) ∧ t.outside = s.outside := by
  refine ⟨_, execReachUpdate_reaches hx hw v, fun d hd => ?_, ?_⟩
  · change State.block (List.foldl (State.reached l v) s _) l d = _
    rw [State.block_foldl_reached v _ d s (by simp [hx]), if_pos hd]
  · exact foldl_keeps State.outside _ (fun s d => by simp) _ s

theorem State.give_leaves (hthere : (SMap.find? s.launches l).isSome = true) (d thief b : Nat) (ks : List Task) :
    ((s.give l d thief b ks).block l d).giving = (s.block l d).giving ++ ks.map (fun k => (thief, k))
      ∧ ((s.give l d thief b ks).block l d).popped = (s.block l d).popped + BitVec.ofNat 32 ks.length ∧ (s.give l d thief b ks).outside = s.outside := by
  refine ⟨?_, ?_, by simp [State.give]⟩ <;> rw [State.give, State.block_refillDue, State.block_onBlock_there _ _ hthere]

/-- A task with no slot goes to the end of its bucket, in a slot of its own, where the hub has room (R93). -/
theorem State.tailInsert_slot {d : Nat} {k : Task} {handle : Word} {s1 : State} (hx : SMap.find? s.launches l = some x) (ht : (s.hub d).tight = false)
    (hp : ((s.block l d).queue (bucketOf x.lrec k.key)).any (fun q => q.page.isSome) = false) (hs : s.takeSlot l d = some (handle, s1)) :
    s.tailInsert l d k false = s1.append l d (bucketOf x.lrec k.key) { k with handle := handle, page := none } := by
  simp [State.tailInsert, State.recOf_of hx, ht, hp, hs]

theorem execStealTransferReceive_slot {giver thief : Nat} {k : Task} {handle : Word} {s1 : State} (hx : SMap.find? s.launches l = some x)
    (hw : x.works = true) (hg : (s.block l giver).giving.filter (fun q => q.1 == thief) = [(thief, k)]) (ht : (s.hub thief).tight = false)
    (hp : ((s.block l thief).queue (bucketOf x.lrec k.key)).any (fun q => q.page.isSome) = false) (hs : s.takeSlot l thief = some (handle, s1)) :
    ∃ t, execStealTransferReceive l giver thief s = .next t ∧ (t.block l thief).asking = false
      ∧ (t.block l thief).queue (bucketOf x.lrec k.key) = (s.block l thief).queue (bucketOf x.lrec k.key) ++ [{ k with handle := handle, page := none }]
      ∧ .stealAckReceive l giver thief ∈ t.agenda ∧ t.outside = s.outside := by
  have hins := State.tailInsert_slot (k := { k with page := none }) hx ht hp hs
  obtain ⟨f, rfl⟩ := State.takeSlot_onHub hs
  have hthere : (SMap.find? (s.onHub thief f).launches l).isSome = true := by
    change (SMap.find? s.launches l).isSome = true
    simp [hx]
  refine ⟨_, execStealTransferReceive_takes hx hw hg, ?_, ?_, ?_, ?_⟩ <;> rw [hins, State.append]
  · rw [State.block_stir, State.block_push, State.block_onBlock_there _ _ (by rwa [State.onBlock, State.isSome_onLaunch])]
  · rw [State.block_stir, State.block_push, State.block_onBlock_there _ _ (by rwa [State.onBlock, State.isSome_onLaunch]),
      State.block_onBlock_there _ _ hthere]
    exact HubBlock.queue_setQueue _ _ _
  · exact State.mem_stir _ _ (by simp)
  · simp

theorem State.slots_freeSlot (s : State) (d : Nat) (handle : Word) :
    ((s.freeSlot d handle).hub d).slots = SMap.erase (s.hub d).slots (bits handle.toNat 25 14) := by
  rw [State.freeSlot_keeps (fun s => (s.hub d).slots) (fun _ _ => rfl)]
  simp [State.hub, State.onHub]

theorem State.launches_freeSlot (s : State) (d : Nat) (handle : Word) : (s.freeSlot d handle).launches = s.launches :=
  State.freeSlot_keeps State.launches (fun _ _ => rfl) s d handle

theorem State.slots_freeSlot_none {d n : Nat} (handle : Word) (h : SMap.find? (s.hub d).slots n = none) :
    SMap.find? ((s.freeSlot d handle).hub d).slots n = none := by
  rw [State.slots_freeSlot]
  by_cases hn : n = bits handle.toNat 25 14
  · subst hn
    simp
  · rw [SMap.find?_erase_ne _ hn, h]

theorem State.slots_foldl_freeSlot_none {d n : Nat} (ks : List Task) (s : State) (h : SMap.find? (s.hub d).slots n = none) :
    SMap.find? ((ks.foldl (fun s k => s.freeSlot d k.handle) s).hub d).slots n = none := by
  induction ks generalizing s with
  | nil => exact h
  | cons k ks ih => exact ih _ (State.slots_freeSlot_none _ h)

/-- The slots that the giver frees, one after the other (R126). -/
theorem State.slots_foldl_freeSlot {d : Nat} {k : Task} (ks : List Task) (s : State) (h : k ∈ ks) :
    SMap.find? ((ks.foldl (fun s k => s.freeSlot d k.handle) s).hub d).slots (bits k.handle.toNat 25 14) = none := by
  induction ks generalizing s with
  | nil => cases h
  | cons j ks ih =>
    rcases List.mem_cons.1 h with rfl | h
    · exact State.slots_foldl_freeSlot_none ks _ (by simp [State.slots_freeSlot])
    · exact ih _ h

theorem State.launches_foldl_freeSlot (d : Nat) (ks : List Task) (s : State) :
    (ks.foldl (fun s k => s.freeSlot d k.handle) s).launches = s.launches :=
  foldl_keeps State.launches (fun (s : State) (k : Task) => s.freeSlot d k.handle) (fun s k => State.launches_freeSlot s d k.handle) ks s

theorem State.outside_foldl_freeSlot (d : Nat) (ks : List Task) (s : State) : (ks.foldl (fun s k => s.freeSlot d k.handle) s).outside = s.outside :=
  foldl_keeps State.outside (fun (s : State) (k : Task) => s.freeSlot d k.handle) (fun s k => State.outside_freeSlot s d k.handle) ks s

/-- The tasks that a giver holds for a thief. -/
def HubBlock.givenTo (h : HubBlock) (thief : Nat) : List Task := (h.giving.filter (fun q => q.1 == thief)).map fun q => q.2

theorem execStealAckReceive_leaves (hx : SMap.find? s.launches l = some x) (giver thief : Nat) :
    ∃ t, execStealAckReceive l giver thief s = .next t
      ∧ (t.block l giver).giving = (s.block l giver).giving.filter (fun q => q.1 != thief)
      ∧ (∀ k, (thief, k) ∈ (s.block l giver).giving → SMap.find? (t.hub giver).slots (bits k.handle.toNat 25 14) = none)
      ∧ t.outside = s.outside := by
  have hfold := State.launches_foldl_freeSlot giver ((s.block l giver).givenTo thief) s
  unfold HubBlock.givenTo at hfold
  unfold execStealAckReceive
  refine ⟨_, rfl, ?_, fun k hk => ?_, ?_⟩
  · rw [State.block_stir, State.block_onBlock_self ((congrArg (fun ls => SMap.find? ls l) hfold).trans hx), State.block_congr hfold]
  · rw [State.stir_keeps (fun s => s.hub giver) (fun _ _ => rfl)]
    change SMap.find? (State.hub (State.onLaunch _ l _) giver).slots _ = none
    rw [State.hub, State.onLaunch_hubs]
    exact State.slots_foldl_freeSlot _ s (List.mem_map.2 ⟨(thief, k), List.mem_filter.2 ⟨hk, by simp⟩, rfl⟩)
  · rw [State.outside_stir, State.outside_onBlock]
    exact State.outside_foldl_freeSlot giver _ s

end

/-- What a step leaves outside the launch, taken apart. -/
theorem State.outside_kept {s t : State} (h : t.outside = s.outside) : t.mem = s.mem ∧ t.core = s.core ∧ t.parked = s.parked ∧ t.ctxs = s.ctxs :=
  State.outside_iff.1 h

/-- Settles O56: each step has its equation, and none touches memory, the cores or the contexts. -/
theorem floorProtocol : Obligations.FloorProtocol := by
  intro s l x hx hw
  have hthere : (SMap.find? s.launches l).isSome = true := by simp [hx]
  refine ⟨fun shares => ⟨fun h he => execTerminationWave_empty hx hw h he, fun h he h5 => execTerminationWave_stuck hx hw h he h5,
    fun h hm => ⟨_, execTerminationWave_new hx hw h hm, ?wave⟩⟩, fun p hk hp hlt hb => ?propose,
    fun hub p => ⟨_, execProposeReceive_answers hx hw hub p, ?guard⟩, fun hub b p hk => ⟨fun hall => ?wait, fun fc hall hfc => ?commits⟩,
    fun hub fc hb hf => ⟨?commit, fun hheld hlate _ => ?resume⟩, fun hub hk hd => ?hold,
    fun hub => ⟨_, execPauseReceive_answers hx hw hub, ?pause⟩, fun hub b b' fc hk hall hfc => ?resumes,
    fun hub b k pa handle s1 hfar hq hk hfree ht => ?refill, fun v => ?reach, fun giver thief h => execStealRequest_asks hx hw h,
    fun giver thief b ks h => ?gives, fun giver thief k handle s1 hg ht hp hs => ?transfer, fun giver thief => ?ack,
    fun hub => ⟨_, execStealRetry_ends hx hw hub, ?retry⟩, fun m hm hs => ⟨_, execDeviceStealRequest_asks hx hw hm hs, ?device⟩⟩
  case wave => exact ⟨State.find?_onLaunch_of _ hx, by simp, State.outside_kept (by simp)⟩
  case propose =>
    obtain ⟨hlaunch, htold, hkept⟩ := State.onKeeper_tells hx (.proposing p) fun d => .proposeReceive l d p
    exact ⟨_, execFloorPropose_proposes hx hw hk hp hlt hb, hlaunch, htold, State.outside_kept hkept⟩
  case guard => exact ⟨State.block_onBlock_self hx _ _, by simp, State.outside_kept (by simp)⟩
  case wait => exact ⟨_, execProposeAckReceive_waits hx hk hall, State.find?_onLaunch_of _ hx, by simp, State.outside_kept (by simp)⟩
  case commits =>
    obtain ⟨hlaunch, htold, hkept⟩ := State.newFloor_leaves hx hub (b, noBucket) fc fun d => .commitReceive l d fc
    subst hfc
    exact ⟨_, execProposeAckReceive_commits hx hk hall, hlaunch, htold, State.outside_kept hkept⟩
  case commit =>
    obtain ⟨t, hstep, hblock, hkept⟩ := execCommitReceive_still hx hb hf hw
    exact ⟨t, hstep, hblock, State.outside_kept hkept⟩
  case resume =>
    obtain ⟨t, hstep, hblock, hkept⟩ := execResumeReceive_still hx hb hf hw hheld hlate
    exact ⟨t, hstep, hblock, State.outside_kept hkept⟩
  case hold =>
    obtain ⟨hlaunch, htold, hkept⟩ := State.onKeeper_tells hx .pausing fun d => .pauseReceive l d
    exact ⟨_, execHoldReceive_pauses hx hw hk hd, hlaunch, htold, State.outside_kept hkept⟩
  case pause => exact ⟨State.block_onBlock_self hx _ _, by simp, State.outside_kept (by simp)⟩
  case resumes =>
    obtain ⟨hlaunch, htold, hkept⟩ := State.newFloor_leaves hx hub (b, b') fc fun d => .resumeReceive l d fc
    subst hfc
    exact ⟨_, execPauseAckReceive_resumes hx hk hall, hlaunch, htold, State.outside_kept hkept⟩
  case refill =>
    obtain ⟨t, hstep, hqueue, hkept⟩ := execBucketRefill_spilled hthere hfar hq hk hfree ht
    exact ⟨t, hstep, hqueue, State.outside_kept hkept⟩
  case reach =>
    obtain ⟨t, hstep, hreach, hkept⟩ := execReachUpdate_leaves hx hw v
    exact ⟨t, hstep, hreach, State.outside_kept hkept⟩
  case gives =>
    obtain ⟨hgiving, hpopped, hkept⟩ := State.give_leaves hthere giver thief b ks
    exact ⟨_, execStealRequestReceive_gives hx hw h, hgiving, hpopped, by simp, State.outside_kept (by simpa using hkept)⟩
  case transfer =>
    obtain ⟨t, hstep, hasking, hqueue, hack, hkept⟩ := execStealTransferReceive_slot hx hw hg ht hp hs
    exact ⟨t, hstep, hasking, hqueue, hack, State.outside_kept hkept⟩
  case ack =>
    obtain ⟨t, hstep, hgiving, hslots, hkept⟩ := execStealAckReceive_leaves hx giver thief
    exact ⟨t, hstep, hgiving, hslots, State.outside_kept hkept⟩
  case retry => exact ⟨(State.block_stir _ _ _ _ _).trans (State.block_onBlock_self hx _ _), State.outside_kept (by simp)⟩
  case device => exact ⟨State.find?_onLaunch_of _ hx, by simp, State.outside_kept (by simp [State.outside])⟩

end Sys2Proof.Machine
end

section
/-! Sectors and channels of device memory, hops, ports and pads (R24 to R36, R39, R144, R147, R149). -/

namespace Sys2Proof.Machine

/-! ### What repairs and counts leave alone -/

/-- What the repair of a sector or a hop, and a count of it, leave alone. -/
def State.beyond (s : State) : Mem × Core × SMap Core × SMap Launch × DevRegs := (s.mem, s.core, s.parked, s.launches, s.dev)

theorem State.beyond_kept {s t : State} (h : t.beyond = s.beyond) :
    t.mem = s.mem ∧ t.core = s.core ∧ t.parked = s.parked ∧ t.launches = s.launches ∧ t.dev = s.dev := by simpa [State.beyond] using h

@[simp] theorem State.beyond_push (s : State) (i : Instr) : (s.push i).beyond = s.beyond := rfl

@[simp] theorem State.beyond_activate (s : State) (pa : Nat) : (s.activate pa).beyond = s.beyond := rfl

@[simp] theorem State.beyond_onChan (s : State) (g : Nat) (f : Channel → Channel) : (s.onChan g f).beyond = s.beyond := by
  unfold State.onChan
  split <;> rfl

@[simp] theorem State.beyond_onHop (s : State) (h : Nat) (f : Hop → Hop) : (s.onHop h f).beyond = s.beyond := by
  unfold State.onHop
  split <;> rfl

@[simp] theorem State.beyond_onPort (s : State) (d : Nat) (f : Port → Port) : (s.onPort d f).beyond = s.beyond := by
  unfold State.onPort
  split <;> rfl

/-! ### Channels (R35, R36) -/

/-- The status block of a channel. -/
def State.chanAt (s : State) (g : Nat) : Channel := s.chans.toList.getD g {}

theorem State.chanAt_lt (s : State) {g : Nat} (h : g < 128) : s.chanAt g = s.chans[g] := by simp [State.chanAt, h]

theorem State.chanAt_onChan_self (s : State) {g : Nat} (h : g < 128) (f : Channel → Channel) : (s.onChan g f).chanAt g = f (s.chanAt g) := by
  rw [State.chanAt_lt _ h, State.chanAt_lt _ h, State.onChan, dif_pos h]
  simp

theorem channelOf_lt (pa : Nat) : channelOf pa < 128 := by
  unfold channelOf
  omega

/-- A view of a channel that an access of a row leaves as it was. -/
theorem State.chanAt_activate {α : Type} (p : Channel → α) (hp : ∀ c row, p (Channel.access c row) = p c) (s : State) (pa : Nat) {g : Nat}
    (h : g < 128) : p ((s.activate pa).chanAt g) = p (s.chanAt g) := by
  rw [State.chanAt_lt _ h, State.chanAt_lt _ h]
  simp only [State.activate, activateOne, channelOf_lt, dif_pos]
  split
  · by_cases hg : channelOf pa = g
    · subst hg
      simp [hp]
    · simp [hg]
  · rfl

theorem Channel.access_ceCount (c : Channel) (row : Nat) : (c.access row).ceCount = c.ceCount := by
  unfold Channel.access
  split <;> rfl

theorem Channel.access_ueCount (c : Channel) (row : Nat) : (c.access row).ueCount = c.ueCount := by
  unfold Channel.access
  split <;> rfl

/-! ### The decoder of a sector (R31) -/

section
variable {s : State} {sec : Nat}

theorem State.eccDecode_clean (he : SMap.find? s.symErr sec = none) (hu : SMap.find? s.ue sec = none) : s.eccDecode sec = (false, s) := by
  simp [State.eccDecode, he, hu]

theorem State.eccDecode_known {o : Origin} (hu : SMap.find? s.ue sec = some o) :
    s.eccDecode sec = (true, s.onChan (channelOf (64 * sec)) fun c => { c with ueCount := sat64 c.ueCount }) := by
  simp [State.eccDecode, hu]

theorem State.eccDecode_one (he : SMap.find? s.symErr sec = some 1) (hu : SMap.find? s.ue sec = none) :
    s.eccDecode sec = (false, ({ s with symErr := SMap.erase s.symErr sec } : State).onChan (channelOf (64 * sec))
      fun c => { c with ceCount := sat64 c.ceCount }) := by
  simp [State.eccDecode, he, hu]

theorem State.eccDecode_many {n : Nat} (he : SMap.find? s.symErr sec = some n) (hn : n ≠ 1) (hu : SMap.find? s.ue sec = none) :
    s.eccDecode sec = (true, ({ s with symErr := SMap.erase s.symErr sec, ue := SMap.insert s.ue sec .eccUe } : State).onChan (channelOf (64 * sec))
      fun c => { c with ueCount := sat64 c.ueCount }) := by
  unfold State.eccDecode
  rw [he, hu]
  dsimp only
  split
  · next h => cases h
  · next h => exact absurd (Option.some.inj h) hn
  · rfl
  · next h => cases h

@[simp] theorem State.activate_ue (s : State) (pa : Nat) : (s.activate pa).ue = s.ue := rfl

@[simp] theorem State.onChan_symErr (s : State) (g : Nat) (f : Channel → Channel) : (s.onChan g f).symErr = s.symErr := by
  unfold State.onChan
  split <;> rfl

@[simp] theorem State.onChan_ue (s : State) (g : Nat) (f : Channel → Channel) : (s.onChan g f).ue = s.ue := by
  unfold State.onChan
  split <;> rfl

/-- What an access of a sector comes to, whatever its data is for: its row is reached, and its check symbols are decoded. -/
def State.decoded (s : State) (pa : Nat) : State := ((s.activate pa).eccDecode (pa / 64)).2

/-- One symbol in error is repaired and counted. -/
theorem State.decoded_one {pa : Nat} (hs : pa / 64 = sec) (he : SMap.find? s.symErr sec = some 1) (hu : SMap.find? s.ue sec = none) :
    SMap.find? (s.decoded pa).symErr sec = none ∧ SMap.find? (s.decoded pa).ue sec = none
      ∧ ((s.decoded pa).chanAt (channelOf (64 * sec))).ceCount = sat64 (s.chanAt (channelOf (64 * sec))).ceCount ∧ (s.decoded pa).beyond = s.beyond := by
  subst hs
  have hd : s.decoded pa = _ := congrArg Prod.snd (State.eccDecode_one (s := s.activate pa) he hu)
  rw [hd]
  refine ⟨by simp, by simpa using hu, ?_, by simp; rfl⟩
  rw [State.chanAt_onChan_self _ (channelOf_lt _)]
  exact congrArg sat64 (State.chanAt_activate Channel.ceCount Channel.access_ceCount s pa (channelOf_lt _))

/-- More symbols in error make the sector uncorrectable, and the read is counted. -/
theorem State.decoded_many {pa n : Nat} (hs : pa / 64 = sec) (he : SMap.find? s.symErr sec = some n) (hn : n ≠ 1) (hu : SMap.find? s.ue sec = none) :
    SMap.find? (s.decoded pa).ue sec = some .eccUe
      ∧ ((s.decoded pa).chanAt (channelOf (64 * sec))).ueCount = sat64 (s.chanAt (channelOf (64 * sec))).ueCount ∧ (s.decoded pa).beyond = s.beyond := by
  subst hs
  have hd : s.decoded pa = _ := congrArg Prod.snd (State.eccDecode_many (s := s.activate pa) he hn hu)
  rw [hd]
  refine ⟨by simp, ?_, by simp; rfl⟩
  rw [State.chanAt_onChan_self _ (channelOf_lt _)]
  exact congrArg sat64 (State.chanAt_activate Channel.ueCount Channel.access_ueCount s pa (channelOf_lt _))

/-- A sector that is uncorrectable stays so, and the read is counted. -/
theorem State.decoded_known {pa : Nat} {o : Origin} (hs : pa / 64 = sec) (hu : SMap.find? s.ue sec = some o) :
    SMap.find? (s.decoded pa).ue sec = some o
      ∧ ((s.decoded pa).chanAt (channelOf (64 * sec))).ueCount = sat64 (s.chanAt (channelOf (64 * sec))).ueCount ∧ (s.decoded pa).beyond = s.beyond := by
  subst hs
  have hd : s.decoded pa = _ := congrArg Prod.snd (State.eccDecode_known (s := s.activate pa) hu)
  rw [hd]
  refine ⟨by simpa using hu, ?_, by simp⟩
  rw [State.chanAt_onChan_self _ (channelOf_lt _)]
  exact congrArg sat64 (State.chanAt_activate Channel.ueCount Channel.access_ueCount s pa (channelOf_lt _))

theorem State.decoded_clean {pa : Nat} (he : SMap.find? s.symErr (pa / 64) = none) (hu : SMap.find? s.ue (pa / 64) = none) :
    s.decoded pa = s.activate pa := congrArg Prod.snd (State.eccDecode_clean (s := s.activate pa) he hu)

end

/-! ### Reads and writes of a sector (R28, R33, R34) -/

theorem atMemory_high {pa : Nat} (h : 2 ^ 40 ≤ pa) (k : Nat → Out) : atMemory pa k = .fault (.noSuchAddress pa) := if_pos h

theorem atMemory_low {pa : Nat} (h : pa < 2 ^ 40) (k : Nat → Out) : atMemory pa k = k pa := if_neg (Nat.not_le.2 h)

/-- A read without a key is answered whatever the sector holds. -/
theorem State.sectorRead_decodes (s : State) (pa n : Nat) (va : DWord) : ∃ bs, s.sectorRead none pa n va = .ok (bs, s.decoded pa) := by
  unfold State.sectorRead State.decoded
  generalize (s.activate pa).eccDecode (pa / 64) = r
  dsimp only
  split
  · exact ⟨_, rfl⟩
  · unfold State.sectorView
    cases SMap.find? r.2.enc (pa / 64) with
    | none => exact ⟨_, rfl⟩
    | some c => exact ⟨_, rfl⟩

section
variable {s : State} {pa : Nat} (hpa : pa < 2 ^ 40)
include hpa

theorem execSectorRead_keyless (ctx : Nat) : execSectorRead ctx false pa s = .next (s.decoded (pa / 64 * 64)) := by
  obtain ⟨bs, h⟩ := s.sectorRead_decodes (pa / 64 * 64) 64 (BitVec.ofNat 64 pa)
  rw [execSectorRead, atMemory_low hpa]
  simp only [State.keyOf, Bool.false_eq_true, if_false, h]
  rfl

theorem execPatrolScrub_decodes : execPatrolScrub pa s = .next (s.decoded pa) := atMemory_low hpa _

/-- A read under a key that the sector does not have is a TAG fault (R33). -/
theorem execSectorRead_tag (ctx : Nat) (he : SMap.find? s.symErr (pa / 64) = none) (hu : SMap.find? s.ue (pa / 64) = none)
    (hk : SMap.find? s.enc (pa / 64) ≠ some (s.keyNo ctx)) : execSectorRead ctx true pa s
      = .next (((s.activate (pa / 64 * 64)).onChan (channelOf (pa / 64 * 64)) fun c => { c with tagCount := sat64 c.tagCount }).tagFault
          ⟨s.keyNo ctx % 64, memoryDie (pa / 64 * 64)⟩ none (BitVec.ofNat 64 pa)) := by
  have hsec : pa / 64 * 64 / 64 = pa / 64 := Nat.mul_div_cancel _ (by decide)
  have hdec := State.eccDecode_clean (s := s.activate (pa / 64 * 64)) he hu
  have hview : (s.activate (pa / 64 * 64)).sectorView (some (s.keyNo ctx)) (pa / 64 * 64) 64 = none := by
    unfold State.sectorView
    rw [hsec]
    change (match some (s.keyNo ctx), SMap.find? s.enc (pa / 64) with | none, none => _ | none, some c => _ | some k, some c => _ | some _, none => none) = none
    cases henc : SMap.find? s.enc (pa / 64) with
    | none => rfl
    | some c => exact if_neg fun h => hk (by rw [henc, h])
  rw [execSectorRead, atMemory_low hpa]
  simp only [State.keyOf, if_true, State.sectorRead, hsec, hdec, hview, Bool.false_eq_true, if_false]
  rfl

section
variable {bytes : List Byte} (hne : bytes ≠ []) (hlen : pa % 64 + bytes.length ≤ 64)
include hne hlen

theorem execSectorWrite_keyless (ctx : Nat) : ∃ t, s.sectorWrite none pa (clean bytes) (BitVec.ofNat 64 pa) = .ok ((), t)
    ∧ execSectorWrite ctx false pa bytes s = .next t := by
  obtain ⟨t, ht⟩ := s.sectorWrite_keyless pa (clean bytes) (BitVec.ofNat 64 pa)
  have htake : bytes.take (64 - pa % 64) = bytes := List.take_of_length_le (by omega)
  refine ⟨t, ht, ?_⟩
  rw [execSectorWrite, atMemory_low hpa]
  simp only [htake, List.isEmpty_iff, hne, if_false, State.keyOf, Bool.false_eq_true, ht]
  rfl

end
end

/-- A whole sector stored: its check symbols and its owner are new (R34). -/
theorem State.sectorWrite_whole (s : State) (pa : Nat) (bytes : List Byte) (va : DWord) (h : bytes.length = 64) :
    s.sectorWrite none pa (clean bytes) va = .ok ((), { s.activate pa with
      mem := Mem.write s.mem pa bytes, symErr := SMap.erase s.symErr (pa / 64), enc := SMap.erase s.enc (pa / 64), ue := SMap.erase s.ue (pa / 64) }) := by
  rw [State.sectorWrite, State.sectorPut, if_pos (by simpa [clean] using h)]
  simp only [psnOf_clean, plain_clean]
  rfl

/-- A part of an uncorrectable sector stored: the sector stays uncorrectable (R34). -/
theorem State.sectorWrite_known {s : State} {pa : Nat} {o : Origin} (hu : SMap.find? s.ue (pa / 64) = some o) (bytes : List Byte) (va : DWord)
    (h : bytes.length ≠ 64) : s.sectorWrite none pa (clean bytes) va = .ok ((), { s.decoded pa with mem := Mem.write s.mem pa bytes }) := by
  have hdec := State.eccDecode_known (s := s.activate pa) hu
  rw [State.sectorWrite, State.sectorPut, if_neg (by simpa [clean] using h)]
  simp only [hdec, if_true, plain_clean, State.decoded]
  simp

/-- A keyless store into a sector of no key: the bytes and no other (R34). -/
theorem State.sectorWrite_get {s t : State} {pa : Nat} {bytes : List Byte} {va : DWord} (henc : SMap.find? s.enc (pa / 64) = none)
    (h : s.sectorWrite none pa (clean bytes) va = .ok ((), t)) : (∀ i (h : i < bytes.length), Mem.get t.mem (pa + i) = bytes[i])
      ∧ ∀ p, p < pa ∨ pa + bytes.length ≤ p → Mem.get t.mem p = Mem.get s.mem p := by
  have hmem : ∃ m, t.mem = Mem.write m pa bytes ∧ ∀ a, Mem.get m a = Mem.get s.mem a := by
    by_cases hlen : bytes.length = 64
    · rw [State.sectorWrite_whole s pa bytes va hlen] at h
      cases h
      exact ⟨s.mem, rfl, fun _ => rfl⟩
    · obtain ⟨-, m, hm, hget⟩ := State.sectorWrite_part (by simpa [clean] using hlen) h
      exact ⟨m, by rw [hm, plain_clean], fun a => hget a (.inr henc)⟩
  obtain ⟨m, hm, hget⟩ := hmem
  rw [hm]
  exact ⟨fun i hi => Mem.get_write_inside _ _ _ _ hi, fun p hp => (Mem.get_write_outside _ _ _ _ hp).trans (hget p)⟩

theorem State.sectorWrite_cores {s t : State} {key : Option Nat} {pa : Nat} {bs : List PByte} {va : DWord} (h : s.sectorWrite key pa bs va = .ok ((), t)) :
    t.core = s.core ∧ t.parked = s.parked := by
  have hview : State.OffMemory fun s : State => (s.core, s.parked) := fun _ _ _ _ _ _ _ _ _ _ _ _ _ => rfl
  have hput := (hview.sectorPut (s.activate pa) key pa bs va () t h).trans (hview.activate s pa)
  exact Prod.mk.inj hput

/-! ### Hops (R24 to R27) -/

theorem State.getD_hops (s : State) (h : Nat) : s.hops.toList.getD h {} = s.hopAt h := by
  unfold State.hopAt
  split
  · next hh => simp [hh]
  · next hh => simp [hh]

theorem State.hopAt_onHop_self (s : State) {h : Nat} (hh : h < 89) (f : Hop → Hop) : (s.onHop h f).hopAt h = f (s.hopAt h) := by
  simp [State.hopAt, State.onHop, hh]

theorem State.hopAt_onHop_ne (s : State) {h i : Nat} (hne : i ≠ h) (f : Hop → Hop) : (s.onHop h f).hopAt i = s.hopAt i := by
  unfold State.onHop
  split
  · simp [State.hopAt, Ne.symm hne]
  · rfl

@[simp] theorem State.hopAt_push (s : State) (i : Instr) (h : Nat) : (s.push i).hopAt h = s.hopAt h := rfl

@[simp] theorem State.onHop_repairs (s : State) (h : Nat) (f : Hop → Hop) : (s.onHop h f).repairs = s.repairs := by
  unfold State.onHop
  split <;> rfl

@[simp] theorem State.onHop_repairThr (s : State) (h : Nat) (f : Hop → Hop) : (s.onHop h f).repairThr = s.repairThr := by
  unfold State.onHop
  split <;> rfl

@[simp] theorem State.onHop_dev (s : State) (h : Nat) (f : Hop → Hop) : (s.onHop h f).dev = s.dev := by
  unfold State.onHop
  split <;> rfl

@[simp] theorem State.onHop_tick (s : State) (h : Nat) (f : Hop → Hop) : (s.onHop h f).tick = s.tick := by
  unfold State.onHop
  split <;> rfl

/-- Whether a hop is under repair. -/
def Hop.underRepair (x : Hop) : Bool := x.state == .paused || x.state == .retraining

theorem State.repairing_false_iff (s : State) : s.repairing = false ↔ ∀ h < 89, (s.hopAt h).underRepair = false := by
  have hrep : s.repairing = s.hops.toList.any Hop.underRepair := rfl
  rw [hrep, List.any_eq_false]
  constructor
  · intro h i hi
    have hmem := h s.hops[i] (by simp)
    rw [State.hopAt, dif_pos hi]
    simpa using hmem
  · intro h x hx
    obtain ⟨i, hi, rfl⟩ := List.mem_iff_getElem.1 hx
    have hlt : i < 89 := by simpa using hi
    have hfree := h i hlt
    rw [State.hopAt, dif_pos hlt] at hfree
    simpa using hfree

/-- A change of a hop that leaves its state leaves whether a hop is under repair. -/
theorem State.repairing_onHop (s : State) {h : Nat} (hh : h < 89) {f : Hop → Hop} (hf : (f (s.hopAt h)).state = (s.hopAt h).state) :
    (s.onHop h f).repairing = s.repairing := by
  have hsame : ∀ i, ((s.onHop h f).hopAt i).underRepair = (s.hopAt i).underRepair := by
    intro i
    by_cases hi : i = h
    · subst hi
      rw [State.hopAt_onHop_self _ hh, Hop.underRepair, hf]
      rfl
    · rw [State.hopAt_onHop_ne _ hi]
  rw [Bool.eq_iff_iff, ← not_iff_not, Bool.not_eq_true, Bool.not_eq_true, State.repairing_false_iff, State.repairing_false_iff]
  simp only [hsame]

theorem State.nextRepair_none {s : State} (h : s.repairs = []) : s.nextRepair = s := by
  unfold State.nextRepair
  split
  · rfl
  · rw [h]

theorem State.nextRepair_busy {s : State} (h : s.repairing = true) : s.nextRepair = s := if_pos h

theorem State.nextRepair_takes {s : State} {t i : Nat} {retrain : Bool} {rest : List (Nat × Nat × Bool)} (h : s.repairing = false)
    (hr : s.repairs = (t, i, retrain) :: rest) : s.nextRepair = State.startRepair { s with repairs := rest } i retrain := by
  rw [State.nextRepair, if_neg (by simp [h]), hr]

/-- A repair that is asked for takes its place, and the controller looks (R26). -/
theorem State.askRepair_asks {s : State} {h : Nat} (hh : h < 89) (hd : (s.hopAt h).state ≠ .down) (hr : ∀ r ∈ s.repairs, r.2.1 ≠ h) (retrain : Bool) :
    s.askRepair h retrain = State.nextRepair { s with repairs := placeRepair (s.dev.devTime.toNat, h, retrain) s.repairs } := by
  have hany : s.repairs.any (fun x => x.2.1 == h) = false := by simpa using hr
  rw [State.askRepair, if_neg (by simp [hd, hany]; omega)]

theorem winRetry_endWindow (x : Hop) : x.endWindow.winRetry.toNat = min 255 x.window := by
  simp only [Hop.endWindow, BitVec.toNat_ofNat]
  omega

/-- Entries of a list that all stand at one place are one at most. -/
theorem length_filter_zipIdx_le_one {α : Type} (l : List α) (p : α × Nat → Bool) {h : Nat} (hp : ∀ x ∈ l.zipIdx, p x = true → x.2 = h) :
    (l.zipIdx.filter p).length ≤ 1 := by
  have hnodup : ((l.zipIdx.filter p).map Prod.snd).Nodup := by
    refine List.Nodup.sublist (List.filter_sublist.map Prod.snd) ?_
    rw [List.zipIdx_map_snd]
    exact List.nodup_range'
  have hall : ∀ i ∈ (l.zipIdx.filter p).map Prod.snd, i = h := by
    intro i hi
    obtain ⟨x, hx, rfl⟩ := List.mem_map.1 hi
    obtain ⟨hmem, hpx⟩ := List.mem_filter.1 hx
    exact hp x hmem hpx
  rw [List.eq_replicate_iff.2 ⟨rfl, hall⟩, List.nodup_replicate] at hnodup
  simpa using hnodup

/-- A hop that resumes: up, or degraded while a module runs at 8 lanes (R25). -/
def Hop.resumed (x : Hop) : Hop := { x with state := if x.modsX8 = 0 then .up else .degraded }

theorem Hop.resumed_free (x : Hop) : x.resumed.underRepair = false := by
  unfold Hop.underRepair Hop.resumed
  split <;> rfl

/-! ### Windows and repairs of a hop -/

section
variable {s : State} {h : Nat} (hh : h < 89)
include hh

theorem execFlitReplay_hop : ∃ t, execFlitReplay h s = .next t ∧ t.hopAt h = (s.hopAt h).replayed ∧ t.beyond = s.beyond :=
  ⟨_, rfl, State.hopAt_onHop_self _ hh _, State.beyond_onHop _ _ _⟩

/-- What no repair changes of a hop: the counts of its windows. -/
def Hop.windows (x : Hop) : BitVec 8 × Nat := (x.winRetry, x.window)

theorem State.windows_onHop (s : State) (i : Nat) {f : Hop → Hop} (hf : ∀ x, (f x).windows = x.windows) :
    ((s.onHop i f).hopAt h).windows = (s.hopAt h).windows := by
  by_cases hi : h = i
  · subst hi
    rw [State.hopAt_onHop_self _ hh, hf]
  · rw [State.hopAt_onHop_ne _ hi]

theorem State.windows_startRepair (s : State) (i : Nat) (retrain : Bool) : ((s.startRepair i retrain).hopAt h).windows = (s.hopAt h).windows := by
  unfold State.startRepair
  split <;> exact State.windows_onHop hh _ _ fun _ => rfl

theorem State.windows_nextRepair (s : State) : (s.nextRepair.hopAt h).windows = (s.hopAt h).windows := by
  unfold State.nextRepair
  split
  · rfl
  · split
    · rfl
    · exact State.windows_startRepair hh _ _ _

theorem State.windows_askRepair (s : State) (i : Nat) (retrain : Bool) : ((s.askRepair i retrain).hopAt h).windows = (s.hopAt h).windows := by
  unfold State.askRepair
  split
  · rfl
  · exact State.windows_nextRepair hh _

end

@[simp] theorem State.beyond_startRepair (s : State) (i : Nat) (retrain : Bool) : (s.startRepair i retrain).beyond = s.beyond := by
  unfold State.startRepair
  split <;> simp

@[simp] theorem State.beyond_repairs (s : State) (rs : List (Nat × Nat × Bool)) : ({ s with repairs := rs } : State).beyond = s.beyond := rfl

@[simp] theorem State.beyond_nextRepair (s : State) : s.nextRepair.beyond = s.beyond := by
  unfold State.nextRepair
  split
  · rfl
  · split <;> simp

@[simp] theorem State.beyond_askRepair (s : State) (i : Nat) (retrain : Bool) : (s.askRepair i retrain).beyond = s.beyond := by
  unfold State.askRepair
  split <;> simp

section
variable {s : State} {h : Nat} (hh : h < 89)
include hh

/-- The state at the end of a hop's window. -/
def State.windowEnded (s : State) (h : Nat) : State :=
  if s.repairThr < ((s.onHop h Hop.endWindow).hopAt h).winRetry.toNat then (s.onHop h Hop.endWindow).askRepair h false else s.onHop h Hop.endWindow

theorem execRetryWindowEnd_hop : execRetryWindowEnd h s = .next (s.windowEnded h) := by
  rw [execRetryWindowEnd, if_pos hh]
  simp only [State.windowEnded, State.onHop_repairThr]

theorem State.winRetry_onHop : ((s.onHop h Hop.endWindow).hopAt h).winRetry.toNat = min 255 (s.hopAt h).window := by
  rw [State.hopAt_onHop_self _ hh, winRetry_endWindow]

theorem State.windowEnded_counts : ((s.windowEnded h).hopAt h).winRetry = BitVec.ofNat 8 (min 255 (s.hopAt h).window)
    ∧ ((s.windowEnded h).hopAt h).window = 0 ∧ (s.windowEnded h).beyond = s.beyond := by
  have hwin : ((s.windowEnded h).hopAt h).windows = ((s.onHop h Hop.endWindow).hopAt h).windows := by
    unfold State.windowEnded
    split
    · exact State.windows_askRepair hh _ _ _
    · rfl
  rw [State.hopAt_onHop_self _ hh] at hwin
  obtain ⟨hretry, hwindow⟩ := Prod.mk.inj hwin
  refine ⟨hretry, hwindow, ?_⟩
  unfold State.windowEnded
  split <;> simp

theorem State.windowEnded_within (hthr : min 255 (s.hopAt h).window ≤ s.repairThr) :
    ((s.windowEnded h).hopAt h).state = (s.hopAt h).state ∧ (s.windowEnded h).repairs = s.repairs := by
  rw [State.windowEnded, State.winRetry_onHop hh, if_neg (Nat.not_lt.2 hthr), State.hopAt_onHop_self _ hh]
  exact ⟨rfl, by simp⟩

theorem State.windowEnded_over (hthr : s.repairThr < min 255 (s.hopAt h).window) (hd : (s.hopAt h).state ≠ .down) (hr : ∀ r ∈ s.repairs, r.2.1 ≠ h) :
    s.windowEnded h = State.nextRepair { s.onHop h Hop.endWindow with repairs := placeRepair (s.dev.devTime.toNat, h, false) s.repairs } := by
  rw [State.windowEnded, State.winRetry_onHop hh, if_pos hthr, State.askRepair_asks hh]
  · simp
  · rw [State.hopAt_onHop_self _ hh]
    exact hd
  · simpa using hr

theorem State.windowEnded_repairs (hthr : s.repairThr < min 255 (s.hopAt h).window) (hd : (s.hopAt h).state ≠ .down) (hfree : s.repairing = false)
    (hr : s.repairs = []) : ((s.windowEnded h).hopAt h).state = .paused ∧ .hopRepair h (Config.repairable s.tick) ∈ (s.windowEnded h).agenda := by
  have hfree' : State.repairing { s.onHop h Hop.endWindow with repairs := [((s.dev.devTime.toNat, h, false) : Nat × Nat × Bool)] } = false :=
    (State.repairing_onHop s hh rfl).trans hfree
  have hplace : placeRepair (s.dev.devTime.toNat, h, false) [] = [((s.dev.devTime.toNat, h, false) : Nat × Nat × Bool)] := rfl
  rw [State.windowEnded_over hh hthr hd (by simp [hr]), hr, hplace, State.nextRepair_takes hfree' rfl, State.startRepair, if_neg Bool.false_ne_true]
  refine ⟨?_, by simp⟩
  rw [State.hopAt_push, State.hopAt_onHop_self _ hh]

theorem State.windowEnded_waits (hthr : s.repairThr < min 255 (s.hopAt h).window) (hd : (s.hopAt h).state ≠ .down) (hbusy : s.repairing = true)
    (hr : ∀ r ∈ s.repairs, r.2.1 ≠ h) : ((s.windowEnded h).hopAt h).state = (s.hopAt h).state
      ∧ (s.windowEnded h).repairs = placeRepair (s.dev.devTime.toNat, h, false) s.repairs := by
  have hbusy' : State.repairing { s.onHop h Hop.endWindow with repairs := placeRepair (s.dev.devTime.toNat, h, false) s.repairs } = true :=
    (State.repairing_onHop s hh rfl).trans hbusy
  rw [State.windowEnded_over hh hthr hd hr, State.nextRepair_busy hbusy']
  exact ⟨(congrArg Hop.state (State.hopAt_onHop_self s hh Hop.endWindow)).trans rfl, rfl⟩

omit hh in
/-- A hop that goes down where no other hop of its ring is down leaves the ring whole (R27). -/
theorem State.hopDown_first (hring : ∀ i < 89, i ≠ h → ringOf i = ringOf h → (s.hopAt i).state ≠ .down) : s.hopDown h
    = ({ s with repairs := s.repairs.filter (fun x => x.2.1 != h) } : State).onHop h fun x => { x with state := .down } := by
  unfold State.hopDown
  dsimp only
  refine if_neg ?_
  rw [ge_iff_le, Nat.not_le]
  refine Nat.lt_succ_of_le (length_filter_zipIdx_le_one (h := h) _ _ fun x hx hpx => ?_)
  obtain ⟨y, i⟩ := x
  obtain ⟨hlt, hy⟩ := List.mem_zipIdx' hx
  obtain ⟨hdown, hring'⟩ : y.state = .down ∧ ringOf i = ringOf h := by simpa using hpx
  by_contra hne
  have hi : i < 89 := by simpa using hlt
  have hat : y = (State.onHop { s with repairs := s.repairs.filter (fun x => x.2.1 != h) } h fun x => { x with state := .down }).hopAt i := by
    rw [hy, State.hopAt, dif_pos hi]
    simp
  rw [State.hopAt_onHop_ne _ hne] at hat
  exact hring i hi hne hring' (hat ▸ hdown)

/-! ### HOP_REPAIR and HOP_REPAIR_RESUME (R26, R27) -/

section
variable (hd : (s.hopAt h).state ≠ .down) (ht : (s.hopAt h).state ≠ .retraining) (hp : (s.hopAt h).state = .paused ∨ s.repairing = false)
include hd ht hp

theorem execHopRepair_turn (ok : Bool) : execHopRepair h ok s
    = if ok then .next ((s.onHop h fun x => x.repair h).push (.hopRepairResume h)) else .next (s.hopDown h).nextRepair := by
  have hturn : ((s.hopAt h).state != .paused && s.repairing) = false := by
    rcases hp with hp | hp <;> simp [hp]
  unfold execHopRepair
  dsimp only
  rw [if_neg (by simp [hd, ht]; omega), if_neg (by simp [hturn])]

theorem execHopRepair_repaired : ∃ t, execHopRepair h true s = .next t ∧ t.hopAt h = (s.hopAt h).repair h ∧ .hopRepairResume h ∈ t.agenda
    ∧ t.beyond = s.beyond := by
  refine ⟨_, execHopRepair_turn hh hd ht hp true, ?_, by simp, by simp⟩
  rw [State.hopAt_push, State.hopAt_onHop_self _ hh]

theorem execHopRepair_down (hring : ∀ i < 89, i ≠ h → ringOf i = ringOf h → (s.hopAt i).state ≠ .down) (hr : s.repairs = []) :
    ∃ t, execHopRepair h false s = .next t ∧ (t.hopAt h).state = .down ∧ t.beyond = s.beyond := by
  have hdown := State.hopDown_first hring
  refine ⟨_, execHopRepair_turn hh hd ht hp false, ?_, ?_⟩ <;> rw [hdown, State.nextRepair_none (by simp [hr])]
  · rw [State.hopAt_onHop_self _ hh]
  · simp

end

/-- The state in which a hop has been retrained. -/
def State.retrained (s : State) (h : Nat) : State :=
  s.onHop h fun x => if x.state == .retraining then { x with state := if x.modsX8 = 0 then .up else .degraded } else x

theorem State.hopAt_retrained (hs : (s.hopAt h).state = .retraining) : (s.retrained h).hopAt h = (s.hopAt h).resumed := by
  rw [State.retrained, State.hopAt_onHop_self _ hh, if_pos (by simp [hs])]
  rfl

theorem execHopRepairResume_last (hs : (s.hopAt h).state = .retraining) (hr : s.repairs = []) :
    ∃ t, execHopRepairResume h s = .next t ∧ t.hopAt h = (s.hopAt h).resumed ∧ t.beyond = s.beyond := by
  refine ⟨(s.retrained h).nextRepair, rfl, ?_, ?_⟩ <;> rw [State.nextRepair_none (by simpa [State.retrained] using hr)]
  · exact State.hopAt_retrained hh hs
  · exact State.beyond_onHop _ _ _

theorem execHopRepairResume_next {tm i : Nat} {retrain : Bool} {rest : List (Nat × Nat × Bool)} (hs : (s.hopAt h).state = .retraining)
    (hr : s.repairs = (tm, i, retrain) :: rest) (hi : i < 89) (hfree : ∀ k < 89, k ≠ h → (s.hopAt k).underRepair = false) :
    ∃ t, execHopRepairResume h s = .next t ∧ t.beyond = s.beyond ∧ t.repairs = rest
      ∧ (t.hopAt i).state = if retrain then .retraining else .paused := by
  have hidle : (s.retrained h).repairing = false := by
    rw [State.repairing_false_iff]
    intro k hk
    by_cases hkh : k = h
    · subst hkh
      rw [State.hopAt_retrained hk hs, Hop.resumed_free]
    · rw [State.retrained, State.hopAt_onHop_ne _ hkh, hfree k hk hkh]
  refine ⟨(s.retrained h).nextRepair, rfl, ?_, ?_, ?_⟩
  · rw [State.beyond_nextRepair]
    exact State.beyond_onHop _ _ _
  · rw [State.nextRepair_takes hidle (by simpa [State.retrained] using hr)]
    cases retrain <;> simp [State.startRepair]
  · rw [State.nextRepair_takes hidle (by simpa [State.retrained] using hr)]
    cases retrain <;> simp [State.startRepair, State.hopAt_onHop_self _ hi]

end

/-! ### Ports (R39) -/

theorem State.port_onPort_self (s : State) {d : Nat} (hd : d < 64) (f : Port → Port) : (s.onPort d f).port d = f (s.port d) := by
  simp [State.port, State.onPort, hd]

theorem execRetryWindowEnd_port (s : State) (d : Nat) :
    execRetryWindowEnd (89 + d) s = .next (s.onPort d fun p => { p with link := p.link.endWindow }) := by
  rw [execRetryWindowEnd, if_neg (by omega), Nat.add_sub_cancel_left]

/-! ### Pads (R147, R170) -/

theorem Pad.poison_one (p : Pad) (a : Nat) (o : Origin) : p.poison a 1 o = { p with psn := SMap.insert p.psn (a / 8) o } := by
  have hone : (a + 1 + 7) / 8 - a / 8 = 1 := by omega
  rw [Pad.poison, hone]
  rfl

theorem State.mem_chooseAgain {s : State} {i : Instr} (r : LaunchRec) (h : i ∈ s.agenda) : i ∈ (s.chooseAgain r).agenda := by
  unfold State.chooseAgain
  generalize r.dies = ds
  induction ds generalizing s with
  | nil => exact h
  | cons d ds ih => exact ih (State.mem_pushOnce_of _ h)

/-! ### Faults of a hub and of the device (R144, R149) -/

/-- A fault ends a launch that runs FAULTED, whatever its first fault was (R76, R144). -/
theorem State.find?_launchFault_ended (s : State) {l : Nat} {x : Launch} (hx : SMap.find? s.launches l = some x) (hrun : x.phase = .running) (c : Cause)
    (r : FaultRec) : ∃ y, SMap.find? (s.launchFault l c r).launches l = some y ∧ y.phase = .draining ∧ y.status = .faulted := by
  obtain ⟨y, hy, hph, hst, -⟩ := State.find?_endLaunch _ l .faulted (some c) _ (State.find?_onLaunch_of (s := s.logFault r)
    (fun x => { x with faults := BitVec.ofNat 32 (satAdd 32 x.faults.toNat 1), cause := x.cause.or (some c) }) hx) (by simp [hrun]) (by simp [hrun])
  exact ⟨y, hy, hph, hst⟩

section
variable {s : State} {l : Nat} {x : Launch} (hx : SMap.find? s.launches l = some x)
include hx

theorem execHubSoftError_replays (die : Nat) (hr : x.lrec.recov = true) (hp : x.replayable = true) (hn : x.replays < 2) :
    ∃ t y, execHubSoftError die l s = .next t ∧ SMap.find? t.launches l = some y ∧ y.phase = .accepted ∧ y.replays = x.replays + 1
      ∧ .launchFirstRead l ∈ t.agenda ∧ t.mem = s.mem := by
  unfold execHubSoftError State.replay
  simp only [hx, hr, hp, hn, decide_true, Bool.and_self, if_true]
  exact ⟨_, _, rfl, (congrArg (fun ls => SMap.find? ls l) (State.chooseAgain_launches _ _)).trans (SMap.find?_insert_self _ _ _), rfl, rfl,
    State.mem_chooseAgain _ (by simp), by simp [State.dropLaunch, State.purge]⟩

theorem execHubSoftError_faults (die : Nat) (hrun : x.phase = .running) (h : x.lrec.recov = false ∨ x.replayable = false ∨ 2 ≤ x.replays) :
    ∃ t y, execHubSoftError die l s = .next t ∧ SMap.find? t.launches l = some y ∧ y.phase = .draining ∧ y.status = .faulted ∧ t.mem = s.mem := by
  have hno : (x.lrec.recov && x.replayable && decide (x.replays < 2)) = false := by
    rcases h with h | h | h
    · simp [h]
    · simp [h]
    · simp [Nat.not_lt.2 h]
  have hstep : execHubSoftError die l s = .next (s.launchFault l .hubErr (s.unitFault l .hubErr 2 die none 0)) := by
    unfold execHubSoftError State.replay
    simp only [hx, hno]
    rfl
  obtain ⟨y, hy, hph, hst⟩ := s.find?_launchFault_ended hx hrun .hubErr (s.unitFault l .hubErr 2 die none 0)
  exact ⟨_, y, hstep, hy, hph, hst, State.launchFault_mem ..⟩

end

/-- A launch has failed: it is draining, with the status of a fault and its first cause. -/
def State.failed (s : State) (l : Nat) (c : Option Cause) : Prop :=
  ∃ y, SMap.find? s.launches l = some y ∧ y.phase = .draining ∧ y.status = .faulted ∧ y.cause = c

/-- One launch's end by a fault of the device. -/
def State.deviceEnds (s : State) (k : Nat) : State := (s.countFault k .device).endLaunch k .faulted (some .device)

theorem State.find?_deviceEnds_ne (s : State) {k l : Nat} (h : l ≠ k) : SMap.find? (s.deviceEnds k).launches l = SMap.find? s.launches l := by
  rw [State.deviceEnds, State.find?_endLaunch_ne _ _ _ h, State.countFault, State.find?_onLaunch, if_neg h]

/-- What has failed stays so, with the cause it has. -/
theorem State.failed_deviceEnds {s : State} {l : Nat} {c : Option Cause} (hc : c.or (some .device) = c) (k : Nat) (h : s.failed l c) :
    (s.deviceEnds k).failed l c := by
  obtain ⟨y, hy, hph, hst, hcause⟩ := h
  by_cases hk : l = k
  · subst hk
    have hcount := State.find?_onLaunch_of
      (fun x => { x with faults := BitVec.ofNat 32 (satAdd 32 x.faults.toNat 1), cause := x.cause.or (some .device) }) hy
    have hstay : s.deviceEnds l = s.countFault l .device := by
      rw [State.deviceEnds, State.endLaunch, State.countFault, hcount]
      exact if_pos (by simp [hph])
    exact ⟨_, (congrArg (fun t : State => SMap.find? t.launches l) hstay).trans hcount, hph, hst, (congrArg (·.or (some .device)) hcause).trans hc⟩
  · exact ⟨y, (s.find?_deviceEnds_ne hk).trans hy, hph, hst, hcause⟩

theorem State.failed_foldl {s : State} {l : Nat} {c : Option Cause} (hc : c.or (some .device) = c) (ks : List Nat) (h : s.failed l c) :
    (ks.foldl State.deviceEnds s).failed l c := by
  induction ks generalizing s with
  | nil => exact h
  | cons k ks ih => exact ih (State.failed_deviceEnds hc k h)

theorem or_device_or (c : Option Cause) : (c.or (some .device)).or (some .device) = c.or (some .device) := by cases c <;> rfl

theorem State.failed_foldl_of_mem {s : State} {l : Nat} {x : Launch} {ks : List Nat} (hl : l ∈ ks) (hx : SMap.find? s.launches l = some x)
    (hrun : x.phase = .running) : (ks.foldl State.deviceEnds s).failed l (x.cause.or (some .device)) := by
  induction ks generalizing s with
  | nil => cases hl
  | cons k ks ih =>
    by_cases hk : l = k
    · subst hk
      obtain ⟨y, hy, hph, hst, hcause, -⟩ := State.find?_endLaunch _ l .faulted (some .device) _ (State.find?_onLaunch_of
        (fun x => { x with faults := BitVec.ofNat 32 (satAdd 32 x.faults.toNat 1), cause := x.cause.or (some .device) }) hx) (by simp [hrun]) (by simp [hrun])
      exact State.failed_foldl (or_device_or _) ks ⟨y, hy, hph, hst, hcause.trans (or_device_or _)⟩
    · exact ih ((List.mem_cons.1 hl).resolve_left hk) ((s.find?_deviceEnds_ne hk).trans hx)

@[simp] theorem State.endLaunch_faultLog (s : State) (l : Nat) (st : Status) (c : Option Cause) : (s.endLaunch l st c).faultLog = s.faultLog := by
  unfold State.endLaunch
  split
  · rfl
  · split
    · rfl
    · exact (State.chooseAgain_keeps State.faultLog (fun _ _ => rfl) _ _).trans (State.refillsDue_keeps State.faultLog (fun _ _ => rfl) _)

theorem State.deviceEnds_keeps (s : State) (k : Nat) : (s.deviceEnds k).mem = s.mem ∧ (s.deviceEnds k).faultLog = s.faultLog := by
  simp [State.deviceEnds, State.countFault]

/-- A fault of the device: one record, and every launch that runs has failed (R144). -/
theorem State.deviceFault_leaves (s : State) (chiplet : Nat) : (s.deviceFault chiplet).mem = s.mem
    ∧ (s.faultLog.length < 1024 → ∃ r, (s.deviceFault chiplet).faultLog = s.faultLog ++ [r] ∧ r.cause = .device ∧ r.chiplet = chiplet)
    ∧ ∀ l x, SMap.find? s.launches l = some x → x.phase = .running → (s.deviceFault chiplet).failed l (x.cause.or (some .device)) := by
  refine ⟨?_, fun hlog => ?_, fun l x hx hrun => ?_⟩
  · exact foldl_keeps State.mem State.deviceEnds (fun s k => (s.deviceEnds_keeps k).1) _ _
  · refine ⟨_, (foldl_keeps State.faultLog State.deviceEnds (fun s k => (s.deviceEnds_keeps k).2) _ _).trans (if_neg ?_), rfl, rfl⟩
    simp
    omega
  · exact State.failed_foldl_of_mem (List.mem_map.2 ⟨_, SMap.mem_of_find? _ _ _ hx, rfl⟩) (by exact hx) hrun

/-- Settles O58: the decoder of a sector says what a read and a scrub come to, and the repair of one hop at a time what a window and a repair do. -/
theorem memoryAndFabric : Obligations.MemoryAndFabric := by
  intro s kept chan hop
  have hsec : ∀ pa, pa / 64 * 64 / 64 = pa / 64 := fun pa => Nat.mul_div_cancel _ (by decide)
  have hhop : ∀ (t : State) h, hop t h = t.hopAt h := fun t h => t.getD_hops h
  have hkept : ∀ {t : State}, t.beyond = s.beyond → kept t := fun h => State.beyond_kept h
  refine ⟨fun pa ctx enc bs n hpa => ?high, fun pa hpa => ?memory,
    fun g hg => ?channel, fun h hh => ?hops, fun d hd => ?ports, fun off n k hn => ?pads, fun pad off n hn => if_pos hn,
    fun die l x hx hrun => ⟨fun hr hp hn => execHubSoftError_replays hx die hr hp hn, fun h => execHubSoftError_faults hx die hrun h⟩,
    fun chiplet => ?fabric⟩
  case fabric =>
    obtain ⟨hmem, hlog, hfailed⟩ := s.deviceFault_leaves chiplet
    refine ⟨_, rfl, hmem, hlog, fun l x hx hrun => ?_⟩
    obtain ⟨y, hy, hph, hst, -⟩ := hfailed l x hx hrun
    exact ⟨y, hy, hph, hst⟩
  case high =>
    refine ⟨?_, ?_, ?_, ?_⟩ <;> exact if_pos hpa
  case memory =>
    refine ⟨fun ctx ⟨he, hu⟩ => ?clean, fun ctx he hu => ?one, fun ctx n he hn hu => ?many, fun ctx o hu => ?known,
      fun ctx ⟨he, hu⟩ hk => execSectorRead_tag hpa ctx he hu hk, fun ctx bytes _ henc hne hlen => ?stored, fun ctx bytes o hu hne hlen => ?storedKnown,
      fun he hu => ?scrubOne, fun n hn he hu => ?scrubMany, fun ⟨he, hu⟩ => ?scrubClean, fun n hn => ?symbols⟩
    case clean =>
      rw [← State.decoded_clean (by rwa [hsec]) (by rwa [hsec])]
      exact execSectorRead_keyless hpa ctx
    case one =>
      obtain ⟨hsym, hue, hcount, hb⟩ := State.decoded_one (hsec pa) he hu
      exact ⟨_, execSectorRead_keyless hpa ctx, hsym, hue, hcount, hkept hb⟩
    case many =>
      obtain ⟨hue, hcount, hb⟩ := State.decoded_many (hsec pa) he hn hu
      exact ⟨_, execSectorRead_keyless hpa ctx, hue, hcount, hkept hb⟩
    case known =>
      obtain ⟨hue, hcount, hb⟩ := State.decoded_known (hsec pa) hu
      exact ⟨_, execSectorRead_keyless hpa ctx, hue, hcount, hkept hb⟩
    case stored =>
      obtain ⟨t, hw, hstep⟩ := execSectorWrite_keyless (s := s) hpa hne hlen ctx
      obtain ⟨hin, hout⟩ := State.sectorWrite_get henc hw
      exact ⟨t, hstep, hin, hout, State.sectorWrite_cores hw⟩
    case storedKnown =>
      obtain ⟨t, hw, hstep⟩ := execSectorWrite_keyless (s := s) hpa hne hlen ctx
      refine ⟨t, hstep, ?_⟩
      by_cases hwhole : bytes.length = 64
      · rw [State.sectorWrite_whole s pa bytes _ hwhole] at hw
        cases hw
        exact ⟨rfl, by rw [if_pos hwhole]; exact SMap.find?_erase_self _ _⟩
      · rw [State.sectorWrite_known hu bytes _ hwhole] at hw
        cases hw
        exact ⟨rfl, by rw [if_neg hwhole]; exact (State.decoded_known rfl hu).1⟩
    case scrubOne =>
      obtain ⟨hsym, hue, hcount, hb⟩ := State.decoded_one (pa := pa) rfl he hu
      exact ⟨_, execPatrolScrub_decodes hpa, hsym, hue, hcount, hkept hb⟩
    case scrubMany =>
      obtain ⟨hue, hcount, hb⟩ := State.decoded_many (pa := pa) rfl he hn hu
      exact ⟨_, execPatrolScrub_decodes hpa, hue, hcount, hkept hb⟩
    case scrubClean =>
      refine ⟨_, execPatrolScrub_decodes hpa, ?_⟩
      rw [State.decoded_clean he hu]
      exact ⟨rfl, rfl, hkept (s.beyond_activate pa)⟩
    case symbols =>
      have hstep : exec (.memorySymbolError pa n) s
          = .next { s with symErr := SMap.insert s.symErr (pa / 64) (n + SMap.getD s.symErr (pa / 64) 0) } := by
        change execMemorySymbolError pa n s = _
        rw [execMemorySymbolError, atMemory_low hpa]
        exact congrArg _ (if_neg (by omega))
      exact ⟨_, hstep, SMap.find?_insert_self _ _ _, rfl, rfl, rfl, rfl, rfl⟩
  case channel =>
    refine ⟨fun row => ⟨_, rfl, hkept (by simp), State.chanAt_onChan_self s hg _⟩, ⟨_, rfl, State.chanAt_onChan_self s hg _, hkept (by simp)⟩,
      ⟨_, rfl, State.chanAt_onChan_self s hg _, hkept (State.beyond_onChan s g _), fun row hrow => ?due⟩⟩
    case due => simp [ofChannel] at hrow
  case hops =>
    simp only [hhop]
    refine ⟨?replay, ?window, fun hd ht hp => ⟨?repaired, fun hring hr => ?down⟩, fun hs hr => ?resume, fun tm i retrain rest hs hr hi hih hfree => ?next⟩
    case replay =>
      obtain ⟨t, hstep, hat, hb⟩ := execFlitReplay_hop (s := s) hh
      exact ⟨t, hstep, hat, hkept hb⟩
    case window =>
      obtain ⟨hretry, hwindow, hb⟩ := State.windowEnded_counts (s := s) hh
      exact ⟨_, execRetryWindowEnd_hop hh, hretry, hwindow, hkept hb, fun hthr => State.windowEnded_within hh hthr,
        fun hthr hup ⟨hfree, hr⟩ => State.windowEnded_repairs hh hthr (by rcases hup with h | h <;> simp [h]) hfree hr,
        fun hthr hd hbusy hr => State.windowEnded_waits hh hthr hd hbusy hr⟩
    case repaired =>
      obtain ⟨t, hstep, hat, hdue, hb⟩ := execHopRepair_repaired hh hd ht hp
      refine ⟨t, hstep, ?_, ?_, hdue, hkept hb, ?_⟩ <;> rw [hat] <;> cases hused : (s.hopAt h).spareUsed <;> simp [Hop.repair, hused]
    case down =>
      obtain ⟨t, hstep, hat, hb⟩ := execHopRepair_down hh hd ht hp hring hr
      exact ⟨t, hstep, hat, hkept hb⟩
    case resume =>
      obtain ⟨t, hstep, hat, hb⟩ := execHopRepairResume_last hh hs hr
      exact ⟨t, hstep, hkept hb, hat⟩
    case next =>
      obtain ⟨t, hstep, hb, hrest, hat⟩ := execHopRepairResume_next hh hs hr hi fun k hk hkh => by
        obtain ⟨hpaused, hretraining⟩ := hfree k hk hkh
        simp [Hop.underRepair, hpaused, hretraining]
      exact ⟨t, hstep, hkept hb, hrest, hat⟩
  case ports =>
    have hport : ∀ f, (s.onPort d f).port d = f (s.port d) := s.port_onPort_self hd
    refine ⟨⟨_, rfl, ?_, ?_, hkept (by simp)⟩, ⟨_, execRetryWindowEnd_port s d, ?_, hkept (by simp)⟩, ⟨_, rfl, ?_, ?_, hkept (by simp)⟩,
      ⟨_, rfl, ?_, hkept (by simp)⟩⟩ <;> rw [hport] <;> rfl
  case pads =>
    have hbits : ¬ n < 2 := Nat.not_lt.2 hn
    refine ⟨⟨_, if_neg hbits, ?_, ?_, ?_⟩, ⟨_, if_neg hbits, ?_, rfl, rfl, rfl, rfl, rfl⟩, ⟨_, if_neg hbits, ?_, rfl, rfl, rfl, rfl, rfl⟩,
      ⟨_, if_neg hbits, ?_⟩, ⟨_, if_neg hbits, ?_⟩⟩
    · rw [State.coreAt_onCore_self, Pad.poison_one]
      exact SMap.find?_insert_self _ _ _
    · rw [State.coreAt_onCore_self, Pad.poison_one]
    · rw [State.coreAt_onCore_self]
    · simp [State.l2At, Pad.poison_one]
    · simp [State.l3At, Pad.poison_one]
    · rw [State.coreAt_onCore_self]
      exact SMap.find?_insert_self _ _ _
    · rw [State.coreAt_onCore_self]
      exact SMap.find?_insert_self _ _ _

end Sys2Proof.Machine
end

section
/-! The side-band port, bring-up, power and temperature (R37, R38, R80 to R84, R130). -/

namespace Sys2Proof.Machine

/-! ### Telemetry, fault records, freezes (R80, R81, R145) -/

theorem State.beyond_work {s t : State} (h : t.beyond = s.beyond) : t.mem = s.mem ∧ t.core = s.core ∧ t.parked = s.parked ∧ t.launches = s.launches := by
  obtain ⟨hmem, hcore, hparked, hlaunches, -⟩ := State.beyond_kept h
  exact ⟨hmem, hcore, hparked, hlaunches⟩

theorem execAttestMailboxStart_reached {s : State} (h : s.hostReaches = true) : execAttestMailboxStart s = .next s.mailboxQuote := by
  rw [execAttestMailboxStart, if_pos h]

@[simp] theorem State.pushOnce_outbox (s : State) (i : Instr) : (s.pushOnce i).outbox = s.outbox := State.pushOnce_keeps State.outbox (fun _ _ => rfl) s i

@[simp] theorem State.pushOnce_faultLog (s : State) (i : Instr) : (s.pushOnce i).faultLog = s.faultLog :=
  State.pushOnce_keeps State.faultLog (fun _ _ => rfl) s i

theorem State.coreAt_pushOnce (s : State) (i : Instr) (c : Nat) : (s.pushOnce i).coreAt c = s.coreAt c :=
  State.pushOnce_keeps (fun s => s.coreAt c) (fun _ _ => rfl) s i

/-- A frozen core that no save holds up is as after reset, but for its save areas and its number of saves. -/
theorem Core.thaw_reset {c : Core} (h : c.t.mode ≠ .stopping) : c.thaw.t = {} ∧ c.thaw.protFrozen = false ∧ c.thaw.cseq = c.cseq := by
  rw [Core.thaw, if_neg (by simpa using h)]
  exact ⟨rfl, rfl, rfl⟩

theorem execFaultLog_oldest {s : State} {r : FaultRec} {rest : List FaultRec} (hlog : s.faultLog = r :: rest) :
    ∃ t, execFaultLog s = .next t ∧ t.faultLog = rest ∧ t.outbox = .faultRecord (some r) :: s.outbox ∧ t.mem = s.mem
      ∧ ∀ cid, r.frozenCid = some cid → (s.coreAt cid).t.mode ≠ .stopping → (t.coreAt cid).t = {} ∧ (t.coreAt cid).protFrozen = false
        ∧ (t.coreAt cid).cseq = (s.coreAt cid).cseq := by
  unfold execFaultLog
  simp only [hlog]
  cases hc : r.frozenCid with
  | none => exact ⟨_, rfl, rfl, rfl, rfl, fun _ h => nomatch h⟩
  | some cid =>
    refine ⟨_, rfl, by simp, by simp, by simp, fun k hk hmode => ?_⟩
    cases hk
    rw [State.coreAt_pushOnce, State.coreAt_onCore_self]
    exact Core.thaw_reset hmode

theorem execRelease_context (s : State) {ctx : Nat} (h : ctx < 64) : ∃ t, execRelease (some ctx) s = .next t
    ∧ t.ctxAt ctx = { s.ctxAt ctx with mgmtFrozen := false } ∧ t.mem = s.mem ∧ t.core = s.core ∧ t.parked = s.parked ∧ t.launches = s.launches := by
  have hkeep : ∀ {α : Type} (p : State → α), (∀ s a, p { s with agenda := a } = p s) → ∀ s : State,
      p ((List.range 64).foldl (fun s d => s.pushOnce (.taskDispatch d)) s) = p s :=
    fun p hp s => foldl_keeps p _ (fun s _ => State.pushOnce_keeps p hp s _) _ s
  refine ⟨_, rfl, ?_, ?_, ?_, ?_, ?_⟩
  · rw [hkeep (fun s => s.ctxAt ctx) fun _ _ => rfl, State.ctxAt_onCtx _ _ h]
  · rw [hkeep State.mem fun _ _ => rfl, State.onCtx_mem]
  · rw [hkeep State.core fun _ _ => rfl, State.onCtx_core]
  · rw [hkeep State.parked fun _ _ => rfl, State.onCtx_parked]
  · rw [hkeep State.launches fun _ _ => rfl, State.onCtx_launches]

/-! ### What is held for the host, and its release (R81) -/

/-- What a message to the host leaves alone where the host interface is not frozen. -/
def State.hostView (s : State) : Bool × List (DWord × DWord) × List Nat × Mem := (s.dev.hostFrozen, s.heldNotes, s.waitingReports, s.mem)

/-- A step that may send: nothing of the view moves, and what has been sent stays sent. -/
def State.Sends (s t : State) : Prop := t.hostView = s.hostView ∧ s.outbox ⊆ t.outbox

theorem State.Sends.refl (s : State) : s.Sends s := ⟨rfl, fun _ h => h⟩

theorem State.Sends.trans {s t u : State} (h : s.Sends t) (h' : t.Sends u) : s.Sends u := ⟨h'.1.trans h.1, fun _ hx => h'.2 (h.2 hx)⟩

theorem State.Sends.staysOpen {s t : State} (h : s.Sends t) (hf : s.dev.hostFrozen = false) : t.dev.hostFrozen = false :=
  (congrArg Prod.fst h.1).trans hf

/-- A view that the agenda does not move, and nothing sent. -/
theorem State.Sends.of_eq {s t : State} (hv : t.hostView = s.hostView) (ho : t.outbox = s.outbox) : s.Sends t := ⟨hv, fun _ h => ho ▸ h⟩

theorem State.sends_emit (s : State) (o : Output) : s.Sends (s.emit o) := ⟨rfl, fun _ h => List.mem_cons_of_mem _ h⟩

theorem State.sends_sendMsix (s : State) (v : Nat) (ids : List Word) : s.Sends (s.sendMsix v ids) := by
  unfold State.sendMsix
  split
  · exact .of_eq rfl rfl
  · split
    · split <;> exact .of_eq rfl rfl
    · exact s.sends_emit _

theorem State.sends_fireVector (s : State) (v : Nat) (more : List Word) : s.Sends (s.fireVector v more) :=
  State.Sends.trans (t := { s with msix := s.msix.filter (fun m => m.vector != v || m.due) }) (.of_eq rfl rfl) (State.sends_sendMsix _ v _)

theorem State.sends_completeOn (s : State) (v coalesce : Nat) (id : Word) : s.Sends (s.completeOn v coalesce id) := by
  unfold State.completeOn
  split
  · exact s.sends_fireVector v _
  · split <;> exact .of_eq rfl rfl

theorem State.sends_tellHost {s : State} (hf : s.dev.hostFrozen = false) (x : Launch) (late : Bool) : s.Sends (s.tellHost x late) := by
  unfold State.tellHost
  dsimp only
  have hnote : s.Sends (if x.lrec.wakeAddr = 0 then s
      else if s.dev.hostFrozen then { s with heldNotes := s.heldNotes ++ [(x.lrec.wakeAddr, x.note)], heldOrder := s.heldOrder ++ [false] }
      else s.emit (.notify x.lrec.wakeAddr x.note)) := by
    rw [hf]
    split
    · exact .refl s
    · exact s.sends_emit _
  split
  · exact hnote.trans (State.sends_completeOn _ _ _ _)
  · exact hnote

theorem State.sends_returnPage (s : State) (pa : Nat) (big : Bool) : s.Sends (s.returnPage pa big) := by
  obtain ⟨ps, n, h⟩ := s.returnPage_eq pa big
  rw [h]
  exact .of_eq rfl rfl

theorem State.sends_foldl {β : Type} {f : State → β → State} (h : ∀ s b, State.Sends s (f s b)) (l : List β) (s : State) : s.Sends (l.foldl f s) := by
  induction l generalizing s with
  | nil => exact .refl s
  | cons b l ih => exact (h s b).trans (ih _)

/-- What sends only where the host interface is open, one after the other. -/
theorem State.sends_foldl_open {β : Type} {f : State → β → State} (h : ∀ s b, s.dev.hostFrozen = false → State.Sends s (f s b)) (l : List β) (s : State)
    (hf : s.dev.hostFrozen = false) : s.Sends (l.foldl f s) := by
  induction l generalizing s with
  | nil => exact .refl s
  | cons b l ih => exact (h s b hf).trans (ih _ ((h s b hf).staysOpen hf))

theorem State.sends_freeLaunch (s : State) (l : Nat) : s.Sends (s.freeLaunch l) := by
  unfold State.freeLaunch
  split
  · exact .refl s
  · next x hx =>
    have hleave : s.Sends (((s.leaveHubs l).purge l).unhold (.launch l)) :=
      .of_eq (State.refillsDue_keeps State.hostView (fun _ _ => rfl) _) (State.refillsDue_keeps State.outbox (fun _ _ => rfl) _)
    have hpages := State.sends_foldl (f := fun (s : State) (p : Nat × Bool) => s.returnPage p.1 p.2) (fun s p => s.sends_returnPage p.1 p.2)
      (x.toFree ++ x.pages) (((s.leaveHubs l).purge l).unhold (.launch l))
    exact (hleave.trans hpages).trans (.of_eq (State.serveQueues_keeps State.hostView (fun _ _ => rfl) _) (State.serveQueues_outbox _))

theorem State.sends_notify (s : State) (ns : List (DWord × DWord)) : s.Sends (ns.foldl (fun (s : State) n => s.emit (.notify n.1 n.2)) s)
    ∧ ∀ n ∈ ns, .notify n.1 n.2 ∈ (ns.foldl (fun (s : State) n => s.emit (.notify n.1 n.2)) s).outbox := by
  induction ns generalizing s with
  | nil => exact ⟨.refl s, fun _ h => nomatch h⟩
  | cons m ns ih =>
    obtain ⟨hsend, hall⟩ := ih (s.emit (.notify m.1 m.2))
    refine ⟨(s.sends_emit _).trans hsend, fun n hn => ?_⟩
    rcases List.mem_cons.1 hn with rfl | hn
    · exact hsend.2 (by simp)
    · exact hall n hn

/-- Whatever the order in which they came to be held, every notification is sent. -/
theorem State.sendHeld_notifies (os : List Bool) (ns : List (DWord × DWord)) (ms : List (Nat × List Word)) (s : State) :
    s.Sends (State.sendHeld os ns ms s) ∧ ∀ n ∈ ns, .notify n.1 n.2 ∈ (State.sendHeld os ns ms s).outbox := by
  induction os, ns, ms, s using State.sendHeld.induct with
  | case1 os n ns ms s ih =>
    obtain ⟨hsend, hall⟩ := ih
    rw [State.sendHeld]
    refine ⟨(s.sends_emit _).trans hsend, fun m hm => ?_⟩
    rcases List.mem_cons.1 hm with rfl | hm
    · exact hsend.2 (by simp)
    · exact hall m hm
  | case2 os ns m ms s ih =>
    rw [State.sendHeld]
    exact ⟨(s.sends_sendMsix _ _).trans ih.1, ih.2⟩
  | case3 os ns ms s h1 h2 =>
    rw [State.sendHeld]
    · obtain ⟨hsend, hall⟩ := s.sends_notify ns
      have hmsgs := State.sends_foldl (f := fun (s : State) (m : Nat × List Word) => s.sendMsix m.1 m.2) (fun s m => s.sends_sendMsix m.1 m.2) ms
        (ns.foldl (fun (s : State) n => s.emit (.notify n.1 n.2)) s)
      exact ⟨hsend.trans hmsgs, fun n hn => hmsgs.2 (hall n hn)⟩
    · exact h1
    · exact h2

theorem State.sends_fireExpired (s : State) : s.Sends s.fireExpired := by
  unfold State.fireExpired
  exact State.sends_foldl (f := fun (s : State) (m : Msix) => s.fireVector m.vector []) (fun s m => s.sends_fireVector m.vector []) _ s

/-- A report that has waited for the host interface. -/
def State.reportLate (s : State) (l : Nat) : State :=
  match SMap.find? s.launches l with
  | some x => (s.tellHost x true).freeLaunch l
  | none => s

theorem State.sends_reportLate {s : State} (hf : s.dev.hostFrozen = false) (l : Nat) : s.Sends (s.reportLate l) := by
  unfold State.reportLate
  split
  · exact (State.sends_tellHost hf _ _).trans (State.sends_freeLaunch _ _)
  · exact .refl s

/-- The host interface open again, with nothing held. -/
def State.opened (s : State) : State :=
  { s with dev := { s.dev with hostFrozen := false }, heldNotes := [], heldMsix := [], heldOrder := [], waitingReports := [] }

theorem State.releaseHost_eq (s : State) :
    s.releaseHost = s.waitingReports.foldl State.reportLate (State.sendHeld s.heldOrder s.heldNotes s.heldMsix s.opened).fireExpired := rfl

theorem execRelease_host (s : State) : ∃ t, execRelease none s = .next t ∧ t.dev.hostFrozen = false ∧ t.heldNotes = [] ∧ t.waitingReports = []
    ∧ t.mem = s.mem ∧ ∀ n ∈ s.heldNotes, .notify n.1 n.2 ∈ t.outbox := by
  obtain ⟨hsend, hall⟩ := State.sendHeld_notifies s.heldOrder s.heldNotes s.heldMsix s.opened
  have hfire := State.sends_fireExpired (State.sendHeld s.heldOrder s.heldNotes s.heldMsix s.opened)
  have hopen := hsend.trans hfire
  have hreports := State.sends_foldl_open (fun s l hf => State.sends_reportLate hf l) s.waitingReports _ (hopen.staysOpen rfl)
  have hview := (hopen.trans hreports).1
  rw [← s.releaseHost_eq] at hview hreports
  exact ⟨_, rfl, congrArg (fun v => v.1) hview, congrArg (fun v => v.2.1) hview, congrArg (fun v => v.2.2.1) hview, congrArg (fun v => v.2.2.2) hview,
    fun n hn => hreports.2 (hfire.2 (hall n hn))⟩

/-! ### Reset (R76, R80, R83) -/

theorem SMap.find?_filter_value {α : Type} (p : α → Bool) (m : SMap α) {a : Nat} {v : α} (h : SMap.find? m a = some v) (hv : p v = true) :
    SMap.find? (m.filter fun x => p x.2) a = some v := by
  induction m with
  | nil => cases h
  | cons x m ih =>
    obtain ⟨k, w⟩ := x
    by_cases hk : a = k
    · subst hk
      have hw : w = v := by simpa [SMap.find?] using h
      subst hw
      simp [SMap.find?, hv]
    · have htail : SMap.find? m a = some v := by simpa [SMap.find?, hk] using h
      by_cases hw : p w = true
      · simp [SMap.find?, hw, hk, ih htail]
      · simp [hw, ih htail]

@[simp] theorem State.endLaunch_dev (s : State) (l : Nat) (st : Status) (c : Option Cause) : (s.endLaunch l st c).dev = s.dev := by
  unfold State.endLaunch
  split
  · rfl
  · split
    · rfl
    · exact (State.chooseAgain_keeps State.dev (fun _ _ => rfl) _ _).trans (State.refillsDue_keeps State.dev (fun _ _ => rfl) _)

/-- Every launch aborted, one after the other. -/
def State.abortAll (s : State) : State := (s.launches.map Prod.fst).foldl (fun (s : State) l => s.endLaunch l .aborted none) s

theorem State.abortAll_keeps (s : State) : s.abortAll.mem = s.mem ∧ s.abortAll.dev = s.dev :=
  ⟨foldl_keeps State.mem _ (fun s l => s.endLaunch_mem l _ _) _ _, foldl_keeps State.dev _ (fun s l => s.endLaunch_dev l _ _) _ _⟩

theorem execReset_leaves (s : State) : ∃ t, execReset s = .next t ∧ t.dev.devState = 0 ∧ t.dev.hostFrozen = s.dev.hostFrozen ∧ t.mem = s.mem
    ∧ (∀ c < 64, (t.ctxAt c).en = false ∧ (t.ctxAt c).waiting = false)
    ∧ ∀ l x, SMap.find? s.launches l = some x → x.ctx < 64 → x.phase = .running →
      ∃ y, SMap.find? t.launches l = some y ∧ y.phase = .draining ∧ y.status = .aborted := by
  obtain ⟨hmem, hdev⟩ := State.abortAll_keeps { s with launches := s.launches.filter (fun (x : Nat × Launch) => x.2.ctx < 64) }
  have hfrozen := congrArg DevRegs.hostFrozen hdev
  refine ⟨_, rfl, rfl, hfrozen, hmem, fun c hc => ?_, fun l x hx hctx hrun => ?_⟩
  · simp [State.ctxAt, hc, Ctx.waiting]
  · have hin := SMap.find?_filter_value (fun x : Launch => decide (x.ctx < 64)) s.launches hx (decide_eq_true hctx)
    have hkey : l ∈ (s.launches.filter (fun (x : Nat × Launch) => x.2.ctx < 64)).map Prod.fst :=
      List.mem_map.2 ⟨(l, x), SMap.mem_of_find? _ _ _ hin, rfl⟩
    obtain ⟨y, hy, hst, hph⟩ := State.aborted_foldl_of_mem (s := { s with launches := s.launches.filter (fun (x : Nat × Launch) => x.2.ctx < 64) })
      hkey hin hrun
    exact ⟨y, hy, hph, hst⟩

/-! ### Hops served by command (R26, R27, R80) -/

theorem filter_range_single {n h : Nat} {p : Nat → Bool} (hh : h < n) (hp : p h = true) (hother : ∀ i < n, i ≠ h → p i = false) :
    (List.range n).filter p = [h] := by
  have hcongr : (List.range n).filter p = (List.range n).filter (· == h) := by
    refine List.filter_congr fun i hi => ?_
    by_cases hih : i = h
    · simp [hih, hp]
    · simp [hih, hother i (List.mem_range.1 hi) hih]
  rw [hcongr, List.filter_beq, List.count_eq_one_of_mem List.nodup_range (List.mem_range.2 hh)]
  rfl

section
variable {s : State}

theorem State.overThreshold_none (h : ∀ i < 89, (s.hopAt i).winRetry.toNat ≤ s.repairThr) : s.overThreshold = s := by
  have hnil : (List.range 89).filter (fun i => (s.hopAt i).winRetry.toNat > s.repairThr) = [] :=
    List.filter_eq_nil_iff.2 fun i hi => by simpa using h i (List.mem_range.1 hi)
  rw [State.overThreshold, hnil]
  rfl

theorem State.overThreshold_one {h : Nat} (hh : h < 89) (hover : s.repairThr < (s.hopAt h).winRetry.toNat)
    (hother : ∀ i < 89, i ≠ h → (s.hopAt i).winRetry.toNat ≤ s.repairThr) : s.overThreshold = s.askRepair h false := by
  have hone : (List.range 89).filter (fun i => (s.hopAt i).winRetry.toNat > s.repairThr) = [h] :=
    filter_range_single hh (by simpa using hover) fun i hi hih => by simpa using hother i hi hih
  rw [State.overThreshold, hone]
  rfl

/-- A repair asked for while the controller rests begins at once (R26). -/
theorem State.askRepair_free {h : Nat} (hh : h < 89) (hup : (s.hopAt h).state = .up ∨ (s.hopAt h).state = .degraded) (hfree : s.repairing = false)
    (hr : s.repairs = []) (retrain : Bool) : s.askRepair h retrain = s.startRepair h retrain := by
  have hsame : ({ s with repairs := [] } : State) = s := by
    rw [← hr]
  have htake := State.nextRepair_takes (s := { s with repairs := placeRepair (s.dev.devTime.toNat, h, retrain) s.repairs }) hfree (by rw [hr]; rfl)
  rw [State.askRepair_asks hh (by rcases hup with h | h <;> simp [h]) (by simp [hr]), htake]
  exact congrArg (fun t : State => t.startRepair h retrain) hsame

end

section
variable {s : State}

theorem execLinkService_threshold_over {n h : Nat} (hh : h < 89) (hover : n < (s.hopAt h).winRetry.toNat)
    (hother : ∀ i < 89, i ≠ h → (s.hopAt i).winRetry.toNat ≤ n) (hup : (s.hopAt h).state = .up ∨ (s.hopAt h).state = .degraded)
    (hfree : s.repairing = false) (hr : s.repairs = []) : ∃ t, execLinkService (.setThreshold n) s = .next t ∧ t.repairThr = n
      ∧ (t.hopAt h).state = .paused ∧ .hopRepair h (Config.repairable s.tick) ∈ t.agenda ∧ t.beyond = s.beyond := by
  have hone := State.overThreshold_one (s := { s with repairThr := n }) hh hover hother
  rw [State.askRepair_free (s := { s with repairThr := n }) hh hup hfree hr] at hone
  refine ⟨_, rfl, ?_, ?_, ?_, ?_⟩ <;> rw [hone, State.startRepair, if_neg Bool.false_ne_true]
  · exact State.onHop_repairThr _ _ _
  · rw [State.hopAt_push, State.hopAt_onHop_self _ hh]
  · simp
  · rw [State.beyond_push, State.beyond_onHop]
    rfl

theorem execLinkService_retrainHop {h : Nat} (hh : h < 89) (hup : (s.hopAt h).state = .up ∨ (s.hopAt h).state = .degraded)
    (hfree : s.repairing = false) (hr : s.repairs = []) : ∃ t, execLinkService (.retrainHop h) s = .next t
      ∧ t.agenda = s.agenda ++ [.hopRepairResume h] ∧ t.hopAt h = { s.hopAt h with state := .retraining } ∧ t.beyond = s.beyond := by
  refine ⟨_, rfl, ?_, ?_, ?_⟩ <;> rw [State.askRepair_free hh hup hfree hr, State.startRepair, if_pos rfl]
  · rw [State.push_agenda, State.onHop, dif_pos hh]
  · rw [State.hopAt_push, State.hopAt_onHop_self _ hh]
  · simp

theorem execLinkService_disableHop {h : Nat} (hh : h < 89)
    (hring : ∀ i < 89, i ≠ h → ringOf i = ringOf h → (s.hopAt i).state ≠ .down) (hr : s.repairs = []) :
    ∃ t, execLinkService (.disableHop h) s = .next t ∧ t.hopAt h = { s.hopAt h with state := .down } ∧ t.beyond = s.beyond := by
  have hstep : execLinkService (.disableHop h) s = .next (s.hopDown h).nextRepair := by
    rw [execLinkService, if_pos hh]
  refine ⟨_, hstep, ?_, ?_⟩ <;> rw [State.hopDown_first hring, State.nextRepair_none (by simp [hr])]
  · exact State.hopAt_onHop_self _ hh _
  · simp

theorem execFwUpdate_commit (sig : List Byte) (version : Nat) : ∃ t, execFwUpdate (.commit sig version) s = .next t ∧ t.fwStaged = []
    ∧ (t.mem = s.mem ∧ t.core = s.core ∧ t.parked = s.parked ∧ t.launches = s.launches)
    ∧ t.fwImages = s.fwImages ++ (if Config.fwAuthentic s.fwStaged sig && decide (max s.fwMin Config.fwMinVersion ≤ version) then [s.fwStaged] else [])
    ∧ t.fwMin = (if Config.fwAuthentic s.fwStaged sig && decide (max s.fwMin Config.fwMinVersion ≤ version) then version else s.fwMin)
    ∧ t.imgVersion = (if Config.fwAuthentic s.fwStaged sig && decide (max s.fwMin Config.fwMinVersion ≤ version)
        then Config.imageVersion s.fwStaged else s.imgVersion) := by
  unfold execFwUpdate
  dsimp only
  by_cases hgood : (Config.fwAuthentic s.fwStaged sig && decide (max s.fwMin Config.fwMinVersion ≤ version)) = true
  · simp only [if_pos hgood]
    exact ⟨_, rfl, rfl, ⟨rfl, rfl, rfl, rfl⟩, rfl, rfl, rfl⟩
  · simp only [if_neg hgood]
    exact ⟨_, rfl, rfl, ⟨rfl, rfl, rfl, rfl⟩, by simp, rfl, rfl⟩

/-! ### Bring-up (R83, R84) -/

section
variable {n : Nat} (hn : s.dev.devState.toNat = n) (hlt : n < 6)
include hn hlt

theorem execBringUpStageDone_passes (hheld : n ≠ 0 ∨ ∀ x ∈ s.launches, x.2.phase = .heldReport) (hruns : n ≠ 5 ∨ ∃ x ∈ s.launches, x.2.phase = .running) :
    execBringUpStageDone true s = .next (s.stageDone n) := by
  have hwait : (decide (n ≥ 6) || (decide (n = 0) && (!true || s.launches.any (fun x => x.2.phase != .heldReport)))) = false := by
    rcases hheld with h | h
    · simp [h, hlt]
    · have hany : s.launches.any (fun x => x.2.phase != .heldReport) = false := by
        rw [List.any_eq_false]
        intro x hx
        simp [h x hx]
      simp [hany, hlt]
  have hgo : (true && (n != 5 || s.launches.any (fun x => x.2.phase == .running))) = true := by
    rcases hruns with h | ⟨x, hx, h⟩
    · simp [h]
    · have hany : s.launches.any (fun x => x.2.phase == .running) = true := List.any_eq_true.2 ⟨x, hx, by simp [h]⟩
      simp [hany]
  unfold execBringUpStageDone
  simp only [hn]
  rw [hwait, if_neg Bool.false_ne_true, hgo, if_pos rfl]

/-- A stage that fails leaves DEV_STATE 7 with its code. -/
def State.bringUpFailed (s : State) (n : Nat) : State :=
  { (if n = 5 then s.endSelfTest else s) with dev := { s.dev with devState := 7, failCode := BitVec.ofNat 8 n } }

theorem execBringUpStageDone_fails {ok : Bool} (h0 : n ≠ 0) (hfail : ok = false ∨ n = 5 ∧ ∀ x ∈ s.launches, x.2.phase ≠ .running) :
    execBringUpStageDone ok s = .next (s.bringUpFailed n) := by
  have hgo : (ok && (n != 5 || s.launches.any (fun x => x.2.phase == .running))) = false := by
    rcases hfail with h | ⟨h, hall⟩
    · simp [h]
    · have hany : s.launches.any (fun x => x.2.phase == .running) = false := by
        rw [List.any_eq_false]
        intro x hx
        simp [hall x hx]
      simp [h, hany]
  unfold execBringUpStageDone
  simp only [hn]
  rw [if_neg (by simp [h0, hlt]), hgo]
  rfl

end

@[simp] theorem State.bringUpFailed_mem (s : State) (n : Nat) : (s.bringUpFailed n).mem = s.mem := by
  unfold State.bringUpFailed
  dsimp only
  split <;> rfl

@[simp] theorem Core.readyFor_cid (c : Core) (l : Nat) (x : Launch) : (c.readyFor l x).cid = c.cid := by
  simp only [Core.readyFor, Core.stash]
  split
  · split <;> rfl
  · rfl

theorem selfTestCore_cid (x : Launch) (c : Nat) : (selfTestCore x c).cid = c := Core.readyFor_cid (Core.reset c) 0 x

theorem selfTestCore_mode (x : Launch) (c : Nat) : (selfTestCore x c).t.mode = .loading := by
  change Thread.mode (Thread.loadA (Thread.loadS _ _ _) _) = _
  rw [Thread.loadA_keeps Thread.mode Thread.setA_mode, Thread.loadS_keeps Thread.mode Thread.setS_mode]
  rfl

theorem SMap.find?_map_key {α : Type} (f : Nat → α) (ks : List Nat) {k : Nat} (h : k ∈ ks) : SMap.find? (ks.map fun c => (c, f c)) k = some (f k) := by
  induction ks with
  | nil => cases h
  | cons c ks ih =>
    by_cases hk : k = c
    · subst hk
      simp [SMap.find?]
    · simpa [SMap.find?, hk] using ih ((List.mem_cons.1 h).resolve_left hk)

/-- Every core of the array takes the self-test's work. -/
theorem State.startSelfTest_loading (s : State) {c : Nat} (hc : c < 1024) : (s.startSelfTest.coreAt c).t.mode = .loading := by
  unfold State.coreAt
  split
  · exact selfTestCore_mode _ _
  · next h =>
    have hne : c ≠ s.core.cid := fun hc => h (hc.trans (selfTestCore_cid _ _).symm)
    have hparked : s.startSelfTest.parked = ((List.range 1024).filter fun k => k != s.core.cid).map
        fun k => (k, selfTestCore (selfTestLaunch s.nextId) k) := by rw [State.startSelfTest]
    have hin : c ∈ (List.range 1024).filter fun k => k != s.core.cid := List.mem_filter.2 ⟨List.mem_range.2 hc, by simpa using hne⟩
    have hfind := SMap.find?_map_key (selfTestCore (selfTestLaunch s.nextId)) _ hin
    rw [← hparked] at hfind
    rw [SMap.getD, hfind]
    exact selfTestCore_mode _ _

theorem take_leBytes_high_word (k : Nat) : (leBytes 8 (k * 2 ^ 32)).take 4 = [0, 0, 0, 0] := by
  have hzero : ∀ x, x % 256 = 0 → BitVec.ofNat 8 x = 0 := fun x hx => BitVec.eq_of_toNat_eq (by simpa using hx)
  simp only [leBytes, List.take_succ_cons, List.take_zero]
  rw [hzero _ (by omega), hzero _ (by omega), hzero _ (by omega), hzero _ (by omega)]

/-- A whole sector written without a key, by its physical address. -/
theorem State.physWriteN_sector (s : State) {bs : List Byte} (h : bs.length = 64) : (s.physWriteN 0 bs).mem = Mem.write s.mem 0 bs := by
  have hpieces : pieces 64 0 64 = [(0, 64)] := by decide
  have htake : (bs.drop (0 - 0)).take 64 = bs := List.take_of_length_le (by simp [h])
  rw [State.physWriteN, h, hpieces, List.foldl_cons, List.foldl_nil, htake, State.physWrite, State.sectorWrite_whole s 0 bs 0 h]

theorem Mem.read_write_take (m : Mem) (a : Nat) {bs : List Byte} {n : Nat} (h : n ≤ bs.length) : Mem.read (Mem.write m a bs) a n = bs.take n := by
  refine List.ext_getElem (by simp [h]) fun i hi hi' => ?_
  have hlt : i < bs.length := by simp at hi; omega
  rw [Mem.getElem_read, Mem.get_write_inside _ _ _ _ hlt, List.getElem_take]

/-- The self-test's record begins with STATUS OK: a word of zeros (R75, R84). -/
theorem State.selfTest_status (s : State) : Mem.read s.selfTest.mem 0 4 = [0, 0, 0, 0] := by
  unfold State.selfTest
  dsimp only
  rw [State.physWriteN_sector s (by simp [leBytes]), Mem.read_write_take _ _ (by simp [leBytes]), List.flatMap_cons,
    List.take_append_of_le_length (by simp [leBytes]), take_leBytes_high_word]

theorem State.selfTest_cid (s : State) : s.selfTest.core.cid = s.core.cid := by
  have hview : State.OffMemory fun s : State => s.core.cid := fun _ _ _ _ _ _ _ _ _ _ _ _ _ => rfl
  exact hview.physWriteN s 0 _

theorem State.coreAt_withDev (s : State) (d : DevRegs) (c : Nat) : ({ s with dev := d } : State).coreAt c = s.coreAt c := rfl

theorem State.endSelfTest_leaves (s : State) : s.endSelfTest.mem = s.mem ∧ s.endSelfTest.core = Core.reset s.core.cid ∧ s.endSelfTest.parked = []
    ∧ s.endSelfTest.launches = [] := ⟨rfl, rfl, rfl, rfl⟩

/-- What the end of a stage leaves: memory clear after the third, the self-test on every core after the fourth, its record after the fifth (R83). -/
theorem State.stageDone_leaves {n : Nat} (hlt : n < 6) : (s.stageDone n).dev.devState = BitVec.ofNat 4 (n + 1)
    ∧ (n = 3 → (s.stageDone n).mem = [] ∧ (s.stageDone n).ue = [] ∧ (s.stageDone n).symErr = []) ∧ (n ≠ 3 → n ≠ 5 → (s.stageDone n).mem = s.mem)
    ∧ (n = 5 → Mem.read (s.stageDone n).mem 0 4 = [0, 0, 0, 0])
    ∧ (n = 0 ∨ n = 5 → (s.stageDone n).core = Core.reset s.core.cid ∧ (s.stageDone n).parked = []) ∧ (n = 5 → (s.stageDone n).launches = [])
    ∧ (n = 4 → (s.stageDone n).launches = [(0, selfTestLaunch s.nextId)] ∧ ∀ c < 1024, ((s.stageDone n).coreAt c).t.mode = .loading) := by
  match n, hlt with
  | 0, _ => exact ⟨rfl, by simp, fun _ _ => rfl, by simp, fun _ => ⟨rfl, rfl⟩, by simp, by simp⟩
  | 1, _ => exact ⟨rfl, by simp, fun _ _ => rfl, by simp, by simp, by simp, by simp⟩
  | 2, _ => exact ⟨rfl, by simp, fun _ _ => rfl, by simp, by simp, by simp, by simp⟩
  | 3, _ => exact ⟨rfl, fun _ => ⟨rfl, rfl, rfl⟩, by simp, by simp, by simp, by simp, by simp⟩
  | 4, _ =>
    have hstage : s.stageDone 4 = { s.startSelfTest with dev := { s.dev with devState := 5, selfStart := s.dev.devTime } } := by rw [State.stageDone]
    rw [hstage]
    exact ⟨rfl, by simp, fun _ _ => by rw [State.startSelfTest], by simp, by simp, by simp,
      fun _ => ⟨by rw [State.startSelfTest], fun c hc => by rw [State.coreAt_withDev, s.startSelfTest_loading hc]⟩⟩
  | 5, _ =>
    have hstage : s.stageDone 5 = { s.selfTest.endSelfTest with dev := { s.dev with devState := 6 } } := by rw [State.stageDone]
    rw [hstage]
    obtain ⟨hmem, hcore, hparked, hlaunches⟩ := s.selfTest.endSelfTest_leaves
    exact ⟨rfl, by simp, by simp, fun _ => by rw [← s.selfTest_status, ← hmem], fun _ => ⟨by rw [← s.selfTest_cid, ← hcore], hparked⟩,
      fun _ => hlaunches, by simp⟩

end

/-- Settles O59: each command has its equation, a stage of bring-up leaves what R83 says, and a release sends what was held. -/
theorem managementSteps : Obligations.ManagementSteps := by
  intro s
  simp only [State.getD_hops]
  refine ⟨rfl, fun off => rfl, fun nonce => rfl, fun hreach => ⟨_, execAttestMailboxStart_reached hreach, ⟨rfl, rfl, rfl, rfl⟩, ?quote, fun p hp => ?nonce⟩,
    fun hlog => ?emptyLog, fun r rest hlog => execFaultLog_oldest hlog, ⟨_, rfl, rfl, rfl, rfl, rfl, rfl⟩, fun ctx hctx => ⟨rfl, fun hnone => ?freeze, ?release⟩,
    execRelease_host s, execReset_leaves s, fun n => ⟨fun hwin => ?within, fun h hh hover hother hfree hr hup => ?above⟩,
    fun h hh => ⟨fun hup hfree hr => ?retrain, fun hring hr => ?disable⟩, fun d hd => ⟨_, rfl, ?_, State.beyond_work (State.beyond_onPort _ _ _)⟩,
    fun d hd => ⟨_, rfl, ?_, State.beyond_work (State.beyond_onPort _ _ _)⟩, fun bs => ⟨_, rfl, rfl, rfl, rfl, rfl, rfl, rfl⟩,
    fun sig version => execFwUpdate_commit sig version, fun n hn hlt => ?bringUp, fun w => ⟨fun hw => ?overCap, fun hw => ?underCap⟩, rfl, ?shutdown,
    ⟨_, rfl, rfl, rfl, rfl, rfl, rfl⟩, fun hoff => ?powerOn⟩
  case quote => exact Mem.read_write _ _ _
  case nonce => exact Mem.get_write_outside _ _ _ _ (.inl hp)
  case emptyLog =>
    change execFaultLog s = _
    rw [execFaultLog, hlog]
  case freeze =>
    refine ⟨_, rfl, ?_⟩
    rw [hnone, List.foldl_nil, State.ctxAt_onCtx _ _ hctx]
    exact ⟨rfl, State.onCtx_mem .., State.onCtx_core .., State.onCtx_parked .., State.onCtx_launches ..⟩
  case release => exact execRelease_context s hctx
  case within => exact congrArg _ (State.overThreshold_none (s := { s with repairThr := n }) hwin)
  case above =>
    obtain ⟨t, hstep, hthr, hpaused, hdue, hb⟩ := execLinkService_threshold_over hh hover hother hup hfree hr
    exact ⟨t, hstep, hthr, hpaused, hdue, State.beyond_work hb⟩
  case retrain =>
    obtain ⟨t, hstep, hdue, hat, hb⟩ := execLinkService_retrainHop hh hup hfree hr
    exact ⟨t, hstep, hdue, hat, State.beyond_work hb⟩
  case disable =>
    obtain ⟨t, hstep, hat, hb⟩ := execLinkService_disableHop hh hring hr
    exact ⟨t, hstep, hat, State.beyond_work hb⟩
  case bringUp =>
    have hstate : s.dev.devState.toNat = n := by
      rw [hn, BitVec.toNat_ofNat]
      omega
    refine ⟨fun hheld hruns => ⟨_, execBringUpStageDone_passes hstate hlt hheld hruns, State.stageDone_leaves hlt⟩,
      fun h0 => ⟨_, execBringUpStageDone_fails hstate hlt h0 (.inl rfl), rfl, rfl, State.bringUpFailed_mem s n, fun h5 => ?_⟩,
      fun h5 hidle => ⟨_, execBringUpStageDone_fails hstate hlt (by omega) (.inr ⟨h5, hidle⟩), rfl, ?_, State.bringUpFailed_mem s n⟩⟩
    · rw [State.bringUpFailed, if_neg h5]
      exact ⟨rfl, rfl, rfl, rfl⟩
    · rw [h5]
      rfl
  case overCap => exact congrArg _ (if_pos hw)
  case underCap => exact congrArg _ (if_neg (Nat.not_lt.2 hw))
  case shutdown =>
    obtain ⟨hmem, -, hfailed⟩ := s.deviceFault_leaves 80
    exact ⟨_, rfl, hmem, hfailed⟩
  case powerOn =>
    have hstep : exec .powerOn s = .next (s.unpowered true) := congrArg _ (if_neg (by simp [hoff]))
    exact ⟨_, hstep, rfl, rfl, rfl, rfl⟩
  · rw [State.port_onPort_self s hd]
  · rw [State.port_onPort_self s hd]

end Sys2Proof.Machine
end

section
/-! Slots, contributions, views, journals, the transport and the task channels of a group (R42 to R61). -/

namespace Sys2Proof.Machine

/-! ### The words of a slot (R55, R56) -/

section
variable (p : Pad) (k : Nat)

theorem Pad.slotWord_lt (w : Nat) : p.slotWord k w < 2 ^ 64 := by
  have h := leNat_lt (p.read (slotAddr k w) 8)
  rwa [Pad.read, Mem.read_length] at h

theorem Pad.slotWord_setSlotWord_self {w v : Nat} (h : v < 2 ^ 64) : (p.setSlotWord k w v).slotWord k w = v :=
  Mem.leNat_read_write_leBytes p.bytes _ h

theorem Pad.slotWord_setSlotWord_ne {w w' : Nat} (v : Nat) (h : w' ≠ w) : (p.setSlotWord k w v).slotWord k w' = p.slotWord k w' := by
  refine congrArg leNat (Mem.read_write_outside _ _ _ _ _ ?_)
  rw [leBytes_length, slotAddr, slotAddr]
  omega

/-- Whether a slot is well formed is said by its words 0, 1 and 7. -/
theorem Pad.slotBad_congr {q : Pad} (h0 : q.slotWord k 0 = p.slotWord k 0) (h1 : q.slotWord k 1 = p.slotWord k 1) (h7 : q.slotWord k 7 = p.slotWord k 7) :
    q.slotBad k = p.slotBad k := by simp only [Pad.slotBad, h0, h1, h7]

theorem bits_low_add {x v : Nat} (hv : v < 16) : bits (16 * x + v) 3 0 = v := by
  simp [bits]
  omega

/-- Word 7 with another state: only its low four bits are new. -/
theorem Pad.slotWord_setSlotState {st : Nat} (h : st < 16) : (p.setSlotState k st).slotWord k 7 = 16 * (p.slotWord k 7 / 16) + st := by
  have hlt := p.slotWord_lt k 7
  rw [Pad.setSlotState, Pad.slotWord_setSlotWord_self _ _ (by omega)]
  omega

theorem Pad.slotState_setSlotState {st : Nat} (h : st < 16) : (p.setSlotState k st).slotState k = st := by
  rw [Pad.slotState, Pad.slotWord_setSlotState _ _ h, bits_low_add h]

theorem Pad.slotJournal_setSlotState {st : Nat} (h : st < 16) : (p.setSlotState k st).slotJournal k = p.slotJournal k := by
  rw [Pad.slotJournal, Pad.slotWord_setSlotState _ _ h, Pad.slotJournal, bitOf, bitOf, Nat.testBit_eq_decide_div_mod_eq, Nat.testBit_eq_decide_div_mod_eq]
  congr 2
  omega

/-- Word 6 counts no contribution once the slot is armed. -/
theorem Pad.armSlot_eq : p.armSlot k = (p.setSlotWord k 6 0).setSlotWord k 7 (16 * bits (p.slotWord k 7) 47 4 + if p.slotBad k then 5 else 1) := by
  unfold Pad.armSlot
  dsimp only
  rw [Pad.slotWord_setSlotWord_ne _ _ _ (by decide), Pad.slotBad_congr p k (Pad.slotWord_setSlotWord_ne _ _ _ (by decide))
    (Pad.slotWord_setSlotWord_ne _ _ _ (by decide)) (Pad.slotWord_setSlotWord_ne _ _ _ (by decide)), Nat.mul_comm]

theorem Pad.slotState_armSlot : (p.armSlot k).slotState k = if p.slotBad k then 5 else 1 := by
  have hlow : bits (p.slotWord k 7) 47 4 < 2 ^ 44 := Nat.mod_lt _ (by decide)
  have hst : (if p.slotBad k then 5 else 1) < 16 := by split <;> decide
  rw [Pad.armSlot_eq, Pad.slotState, Pad.slotWord_setSlotWord_self _ _ (by omega), bits_low_add hst]

theorem Pad.slotWord_armSlot_six : (p.armSlot k).slotWord k 6 = 0 := by
  rw [Pad.armSlot_eq, Pad.slotWord_setSlotWord_ne _ _ _ (by decide), Pad.slotWord_setSlotWord_self _ _ (by decide)]

theorem Pad.slotDeadline_armSlot : (p.armSlot k).slotDeadline k = p.slotDeadline k := by
  rw [Pad.armSlot_eq, Pad.slotDeadline, Pad.slotWord_setSlotWord_ne _ _ _ (by decide), Pad.slotWord_setSlotWord_ne _ _ _ (by decide)]
  rfl

end

/-! ### Slots of a die's pad -/

/-- What a step of a group's slots leaves alone: memory, the cores, the launches. -/
def State.work (s : State) : Mem × Core × SMap Core × SMap Launch := (s.mem, s.core, s.parked, s.launches)

theorem State.work_kept {s t : State} (h : t.work = s.work) : t.mem = s.mem ∧ t.core = s.core ∧ t.parked = s.parked ∧ t.launches = s.launches := by
  simpa [State.work] using h

/-- A step first finds the pad of a slot zeroed if another context used it: nothing else moves (R161). -/
theorem State.atSlots_keeps {α : Type} (p : State → α) (h : ∀ (s : State) l3 ctxs, p { s with l3 := l3, l3Ctx := ctxs } = p s) (s : State) (die : Nat) :
    p (s.atSlots die) = p s := by
  unfold State.atSlots State.serve
  dsimp only
  split
  · split
    · rfl
    · split
      · rfl
      · exact h _ _ _
  · rfl

theorem State.l3At_onL3_self (s : State) (die : Nat) (f : Pad → Pad) : (s.onL3 die f).l3At die = f (s.l3At die) := by simp [State.l3At, State.onL3]

theorem State.work_onL3 (s : State) (die : Nat) (f : Pad → Pad) : (s.onL3 die f).work = s.work := rfl

theorem State.work_pushOnce (s : State) (i : Instr) : (s.pushOnce i).work = s.work := State.pushOnce_keeps State.work (fun _ _ => rfl) s i

theorem State.push_keeps {α : Type} (p : State → α) (h : ∀ s a, p { s with agenda := a } = p s) (s : State) (i : Instr) : p (s.push i) = p s := h s _

theorem State.slotArmed_keeps {α : Type} (p : State → α) (h : ∀ s a, p { s with agenda := a } = p s) (s : State) (die k : Nat) :
    p (s.slotArmed die k) = p s := by
  have hdue : p (if (s.l3At die).slotWord k 5 = 0 then s else s.pushOnce (.slotDeadline die k)) = p s := by
    split
    · rfl
    · exact State.pushOnce_keeps p h s _
  unfold State.slotArmed
  dsimp only
  generalize (if (s.l3At die).slotWord k 5 = 0 then s else s.pushOnce (.slotDeadline die k)) = t at hdue
  split
  · rw [State.push_keeps p h, hdue]
  · exact hdue

theorem State.mem_pushOnce_self (s : State) (i : Instr) : i ∈ (s.pushOnce i).agenda := by
  unfold State.pushOnce
  split
  · next h => simpa using h
  · simp

theorem State.slotArmed_due (s : State) (die k : Nat) (h : (s.l3At die).slotDeadline k ≠ 0) : .slotDeadline die k ∈ (s.slotArmed die k).agenda := by
  have h5 : (s.l3At die).slotWord k 5 ≠ 0 := h
  unfold State.slotArmed
  dsimp only
  rw [if_neg h5]
  split
  · exact List.mem_append_left _ (s.mem_pushOnce_self _)
  · exact s.mem_pushOnce_self _

/-- An arm of an idle slot that no catch-up waits for (R55). -/
theorem execSlotArm_idle {s : State} {die k : Nat} (hst : ((s.atSlots die).l3At die).slotState k = 0)
    (hc : SMap.find? s.catchUp (((s.atSlots die).l3At die).slotGroup k) = none) :
    ∃ t, execSlotArm die k s = .next t ∧ t.l3At die = ((s.atSlots die).l3At die).armSlot k ∧ t.work = s.work
      ∧ (((s.atSlots die).l3At die).slotBad k = false → ((s.atSlots die).l3At die).slotDeadline k ≠ 0 → .slotDeadline die k ∈ t.agenda) := by
  have hcatch : (s.atSlots die).catchUp = s.catchUp := State.atSlots_keeps State.catchUp (fun _ _ _ => rfl) s die
  have hwork : (s.atSlots die).work = s.work := State.atSlots_keeps State.work (fun _ _ _ => rfl) s die
  have hstep : execSlotArm die k s = .next (if (((s.atSlots die).onL3 die fun q => q.armSlot k).l3At die).slotState k = 1
      then ((s.atSlots die).onL3 die fun q => q.armSlot k).slotArmed die k else (s.atSlots die).onL3 die fun q => q.armSlot k) := by
    unfold execSlotArm
    simp only [hst, hcatch, hc]
  have hat := (s.atSlots die).l3At_onL3_self die fun q => q.armSlot k
  by_cases hbad : ((s.atSlots die).l3At die).slotBad k = true
  · rw [hat, Pad.slotState_armSlot, if_pos hbad, if_neg (by decide)] at hstep
    exact ⟨_, hstep, hat, hwork, fun h => absurd hbad (by simp [h])⟩
  · rw [hat, Pad.slotState_armSlot, if_neg hbad, if_pos rfl] at hstep
    refine ⟨_, hstep, ?_, ?_, fun _ hdl => State.slotArmed_due _ _ _ ?_⟩
    · rw [State.slotArmed_keeps (fun s => s.l3At die) fun _ _ => rfl, hat]
    · rw [State.slotArmed_keeps State.work fun _ _ => rfl]
      exact hwork
    · rwa [hat, Pad.slotDeadline_armSlot]

theorem execSlotDisarm_armed {s : State} {die k : Nat} (hst : ((s.atSlots die).l3At die).slotState k = 1) :
    ∃ t, execSlotDisarm die k s = .next t ∧ (t.l3At die).slotState k = 0 ∧ t.work = s.work := by
  have hstep : execSlotDisarm die k s = .next ((s.atSlots die).onL3 die fun p => p.setSlotState k 0) := by
    rw [execSlotDisarm]
    simp only [hst, if_true]
  refine ⟨_, hstep, ?_, ?_⟩
  · rw [State.l3At_onL3_self, Pad.slotState_setSlotState _ _ (by decide)]
  · rw [State.work_onL3]
    exact State.atSlots_keeps State.work (fun _ _ _ => rfl) s die

theorem execSlotDisarm_other {s : State} {die k : Nat} (hst : ((s.atSlots die).l3At die).slotState k ≠ 1) :
    execSlotDisarm die k s = .next (s.atSlots die) := by
  rw [execSlotDisarm]
  simp only [hst, if_false]

/-! ### Deadlines (R58) -/

theorem State.expire_waits {s : State} {die k : Nat} (h : (s.l3At die).slotState k ≠ 1 ∨ (s.l3At die).slotDeadline k = 0
    ∨ s.dev.devTime.toNat < (s.l3At die).slotDeadline k) : s.expire die k = s := by
  unfold State.expire
  refine if_neg ?_
  rcases h with h | h | h
  · simp [h]
  · simp [h]
  · simp [h]

theorem State.expire_closes {s : State} {die k : Nat} (hst : (s.l3At die).slotState k = 1) (h0 : (s.l3At die).slotDeadline k ≠ 0)
    (hdue : (s.l3At die).slotDeadline k ≤ s.dev.devTime.toNat) : s.expire die k = s.closeSlot die k 4 := by
  rw [State.expire]
  simp only [hst, hdue, decide_true, Bool.true_and, Bool.and_true]
  rw [if_pos (by simpa using h0)]

theorem State.addOne_none {s : State} {die : Nat} {p : Contribution → Bool} (h : (s.port die).staged.find? p = none) : s.addOne die p = none := by
  rw [State.addOne, h]

theorem State.addAll_none {s : State} {die k : Nat} (n : Nat) (h : (s.port die).staged.find? (fun c => c.slot == k) = none) : s.addAll n die k = s := by
  cases n with
  | zero => rfl
  | succ n => rw [State.addAll, State.addOne_none h]

@[simp] theorem State.markOrdered_l3 (s : State) (die k : Nat) : (s.markOrdered die k).l3 = s.l3 := by
  unfold State.markOrdered
  dsimp only
  split
  · split
    · simp
    · rfl
  · rfl

/-- A close with nothing staged and no journal raises its timeline at once (R58). -/
theorem State.closeSlot_plain {s : State} {die k st : Nat} (hst : st < 16) (h : (s.port die).staged.find? (fun c => c.slot == k) = none)
    (hj : (s.l3At die).slotJournal k = false) : s.closeSlot die k st = ((s.markOrdered die k).onL3 die fun q => q.setSlotState k st).slotRaise die k := by
  have hjournal : (((s.markOrdered die k).onL3 die fun q => q.setSlotState k st).l3At die).slotJournal k = false := by
    rw [State.l3At_onL3_self, Pad.slotJournal_setSlotState _ _ hst, State.l3At, State.markOrdered_l3]
    exact hj
  unfold State.closeSlot
  simp only [State.addAll_none _ h, hjournal]
  rfl

section
variable {s : State} {die k : Nat}

theorem execSlotDeadline_none (h : ((s.atSlots die).l3At die).slotState k ≠ 1 ∨ ((s.atSlots die).l3At die).slotDeadline k = 0) :
    execSlotDeadline die k s = .next (s.atSlots die) := by
  unfold execSlotDeadline
  refine if_pos ?_
  rcases h with h | h <;> simp [h]

section
variable (hst : ((s.atSlots die).l3At die).slotState k = 1) (h0 : ((s.atSlots die).l3At die).slotDeadline k ≠ 0)
include hst h0

theorem execSlotDeadline_due (hdue : ((s.atSlots die).l3At die).slotDeadline k ≤ s.dev.devTime.toNat) :
    execSlotDeadline die k s = .next ((s.atSlots die).closeSlot die k 4) := by
  have hdev : (s.atSlots die).dev = s.dev := State.atSlots_keeps State.dev (fun _ _ _ => rfl) s die
  have hdue' : ((s.atSlots die).l3At die).slotDeadline k ≤ (s.atSlots die).dev.devTime.toNat := by rwa [hdev]
  unfold execSlotDeadline
  dsimp only
  rw [if_neg (by simp [hst, h0]), if_pos hdue', State.expire_closes hst h0 hdue']

theorem execSlotDeadline_waits (hdue : s.dev.devTime.toNat < ((s.atSlots die).l3At die).slotDeadline k) :
    execSlotDeadline die k s = .next ((s.atSlots die).push (.slotDeadline die k)) := by
  have hdev : (s.atSlots die).dev = s.dev := State.atSlots_keeps State.dev (fun _ _ _ => rfl) s die
  unfold execSlotDeadline
  dsimp only
  rw [if_neg (by simp [hst, h0]), if_neg (by rw [hdev]; omega)]

end
end

/-! ### Contributions that arrive (R53, R54, R56, R57) -/

section
variable {s : State} {port : Nat} {con : Contribution}

theorem execContributionStaged_stale (h : con.view < (s.viewOf con.group).1) : execContributionStaged port con s
    = .next ((if s.isLocal con then (s.viewOf con.group).2 else (s.viewOf con.group).2.staleCon port con).answer (s.isLocal con) con.sender con.lslot
        con.ack Fate.staleView) := if_pos h

section
variable (hv : (s.viewOf con.group).1 ≤ con.view)
include hv

theorem execContributionStaged_dropped (hst : (((s.viewOf con.group).2.atSlots con.die).l3At con.die).slotState con.slot ≠ 1) :
    execContributionStaged port con s = .next (((s.viewOf con.group).2.atSlots con.die).dropCon con (s.isLocal con)
      (if 2 ≤ (((s.viewOf con.group).2.atSlots con.die).l3At con.die).slotState con.slot
          ∧ (((s.viewOf con.group).2.atSlots con.die).l3At con.die).slotState con.slot ≤ 4 then Fate.closed else Fate.notArmed)) := by
  unfold execContributionStaged
  dsimp only
  rw [if_neg (BitVec.not_lt.2 hv), State.expire_waits (.inl hst), if_pos (by simpa using hst)]
  simp

section
variable (hst : (((s.viewOf con.group).2.atSlots con.die).l3At con.die).slotState con.slot = 1)
  (hdl : (((s.viewOf con.group).2.atSlots con.die).l3At con.die).slotDeadline con.slot = 0
    ∨ ((s.viewOf con.group).2.atSlots con.die).dev.devTime.toNat < (((s.viewOf con.group).2.atSlots con.die).l3At con.die).slotDeadline con.slot)
include hst hdl

theorem execContributionStaged_wrongView (hw : con.view.toNat ≠ (((s.viewOf con.group).2.atSlots con.die).l3At con.die).slotView con.slot) :
    execContributionStaged port con s = .next (((s.viewOf con.group).2.atSlots con.die).dropCon con (s.isLocal con) Fate.staleView) := by
  unfold execContributionStaged
  dsimp only
  rw [if_neg (BitVec.not_lt.2 hv), State.expire_waits (.inr hdl), if_neg (by simp [hst]), if_pos (by simpa using hw)]

/-- A contribution that its slot takes up: its entry of the map is read, and settled (R56). -/
theorem execContributionStaged_settles {l : Nat} {w : Who} {f : Option Nat × Nat} {s2 : State}
    (hw : con.view.toNat = (((s.viewOf con.group).2.atSlots con.die).l3At con.die).slotView con.slot)
    (hwho : ((s.viewOf con.group).2.atSlots con.die).slotWho con.die con.slot = some (l, w))
    (hmap : ((s.viewOf con.group).2.atSlots con.die).mapStep w con = .ok (f, s2)) :
    execContributionStaged port con s = .next ((s2.unhold (.launch l)).settleCon con (s.isLocal con) f) := by
  unfold execContributionStaged
  dsimp only
  rw [if_neg (BitVec.not_lt.2 hv), State.expire_waits (.inr hdl), if_neg (by simp [hst]), if_neg (by simp [hw])]
  simp only [hwho, hmap]

end
end
end

section
variable {u s1 s2 : State} {w : Who} {con : Contribution} {bs : List PByte} {fate : Nat}
  (hr : u.readVa w ((u.l3At con.die).slotMask con.slot + con.sender / 4) 1 = .ok (bs, s1))
include hr

theorem State.mapStep_none (hf : conFate (u.l3At con.die) con (bits (leNat (plain bs)) (2 * (con.sender % 4) + 1) (2 * (con.sender % 4))) = (none, fate)) :
    u.mapStep w con = .ok ((none, fate), s1) := by
  unfold State.mapStep
  dsimp only
  rw [hr]
  simp only [Access.bind, hf]

theorem State.mapStep_some {e : Nat}
    (hf : conFate (u.l3At con.die) con (bits (leNat (plain bs)) (2 * (con.sender % 4) + 1) (2 * (con.sender % 4))) = (some e, fate))
    (hwr : s1.writeVa w ((u.l3At con.die).slotMask con.slot + con.sender / 4) (clean (leBytes 1 (leNat (plain bs) + e * 2 ^ (2 * (con.sender % 4)))))
      = .ok ((), s2)) : u.mapStep w con = .ok ((some e, fate), s2) := by
  unfold State.mapStep
  dsimp only
  rw [hr]
  simp only [Access.bind, hf, hwr]

end

section
variable {p : Pad} {con : Contribution} {entry : Nat}

theorem conFate_stale (h : entry = 3) : conFate p con entry = (none, Fate.staleView) := if_pos h

theorem conFate_duplicate (h : entry = 1 ∨ entry = 2) : conFate p con entry = (none, Fate.duplicate) := by
  rcases h with rfl | rfl <;> rfl

theorem conFate_added (h : entry = 0) (hw : con.count = p.slotElems con.slot ∧ con.type = p.slotType con.slot) (hp : con.poison = false) :
    conFate p con entry = (some 1, Fate.ok) := by
  obtain ⟨hcount, htype⟩ := hw
  subst h
  simp [conFate, ← hcount, ← htype, hp]

theorem conFate_poisoned (h : entry = 0) (hw : ¬ ((con.count = p.slotElems con.slot ∧ con.type = p.slotType con.slot) ∧ con.poison = false)) :
    conFate p con entry
      = (some 2, if con.count = p.slotElems con.slot ∧ con.type = p.slotType con.slot then Fate.poison else Fate.badSize) := by
  subst h
  by_cases hwhole : con.count = p.slotElems con.slot ∧ con.type = p.slotType con.slot
  · have hp : con.poison = true := by simpa [hwhole] using hw
    obtain ⟨hcount, htype⟩ := hwhole
    simp [conFate, ← hcount, ← htype, hp]
  · have hsize : (con.count != p.slotElems con.slot || con.type != p.slotType con.slot) = true := by
      rw [Bool.or_eq_true, bne_iff_ne, bne_iff_ne]
      exact not_and_or.1 hwhole
    rw [conFate, if_neg (by decide), if_neg (by decide), if_pos hsize, if_neg hwhole]

end

section
variable {s u s1 s2 : State} {port l : Nat} {con : Contribution} {w : Who} {bs : List PByte} (hu : (s.viewOf con.group).2.atSlots con.die = u)
  (hv : (s.viewOf con.group).1 ≤ con.view) (hst : (u.l3At con.die).slotState con.slot = 1)
  (hdl : (u.l3At con.die).slotDeadline con.slot = 0 ∨ u.dev.devTime.toNat < (u.l3At con.die).slotDeadline con.slot)
  (hw : con.view.toNat = (u.l3At con.die).slotView con.slot) (hwho : u.slotWho con.die con.slot = some (l, w))
  (hr : u.readVa w ((u.l3At con.die).slotMask con.slot + con.sender / 4) 1 = .ok (bs, s1))
include hu hv hst hdl hw hwho hr

/-- A contribution whose entry of the map is not 0 is dropped (R54). -/
theorem execContributionStaged_known {fate : Nat}
    (hf : conFate (u.l3At con.die) con (bits (leNat (plain bs)) (2 * (con.sender % 4) + 1) (2 * (con.sender % 4))) = (none, fate)) :
    execContributionStaged port con s = .next ((s1.unhold (.launch l)).dropCon con (s.isLocal con) fate) := by
  subst hu
  exact execContributionStaged_settles hv hst hdl hw hwho (State.mapStep_none hr hf)

/-- A contribution that takes up its entry of the map is settled, to be added or not (R54, R56). -/
theorem execContributionStaged_new {e fate : Nat}
    (hf : conFate (u.l3At con.die) con (bits (leNat (plain bs)) (2 * (con.sender % 4) + 1) (2 * (con.sender % 4))) = (some e, fate))
    (hwr : s1.writeVa w ((u.l3At con.die).slotMask con.slot + con.sender / 4) (clean (leBytes 1 (leNat (plain bs) + e * 2 ^ (2 * (con.sender % 4)))))
      = .ok ((), s2)) :
    execContributionStaged port con s = .next ((s2.unhold (.launch l)).settleCon con (s.isLocal con) (some e, fate)) := by
  subst hu
  exact execContributionStaged_settles hv hst hdl hw hwho (State.mapStep_some hr hf hwr)

end

/-- What a settled contribution comes to: the slot closes with its last one (R56, R58). -/
def State.closeIfLast (s : State) (con : Contribution) : State :=
  if bits ((s.l3At con.die).slotWord con.slot 6) 63 32 + bits ((s.l3At con.die).slotWord con.slot 6) 31 0 ≥ (s.l3At con.die).slotExpected con.slot
    then s.closeSlot con.die con.slot 2 else s

theorem State.settleCon_added (s : State) (con : Contribution) (mine : Bool) (fate : Nat) : s.settleCon con mine (some 1, fate)
    = State.closeIfLast (((s.onL3 con.die fun p => p.slotAdded con.slot).onPort con.die fun q => { q with staged := q.staged ++ [con] }).push
        (.contributionAdd con.die)) con := by
  unfold State.settleCon
  simp only [if_true]
  rfl

theorem State.settleCon_poisoned (s : State) (con : Contribution) (mine : Bool) (fate : Nat) : s.settleCon con mine (some 2, fate)
    = State.closeIfLast ((s.onL3 con.die fun p => p.slotPoisoned con.slot).answer mine con.sender con.lslot con.ack fate) con := by
  unfold State.settleCon
  simp only [OfNat.ofNat_ne_one, if_false]
  rfl

/-! ### What is staged is added (R57) -/

theorem State.port_of_lt (s : State) {d : Nat} (h : d < 64) : s.port d = s.ports[d] := dif_pos h

theorem State.addOne_first {s : State} {die : Nat} {con : Contribution} {rest : List Contribution} (hd : die < 64) (h : (s.port die).staged = con :: rest) :
    s.addOne die (fun _ => true) = some ((((s.onPort die fun q => { q with staged := rest }).onL3 die fun q => q.addContribution con)).answer
      (((s.onPort die fun q => { q with staged := rest }).onL3 die fun q => q.addContribution con).isLocal con) con.sender con.lslot con.ack Fate.ok) := by
  have herase : (s.onPort die fun q => { q with staged := q.staged.erase con }) = s.onPort die fun q => { q with staged := rest } := by
    have hat : s.ports[die].staged = con :: rest := by rw [← s.port_of_lt hd, h]
    rw [State.onPort, State.onPort, dif_pos hd, dif_pos hd, hat, List.erase_cons_head]
  rw [State.addOne, h]
  simp only [List.find?_cons_of_pos, herase]

theorem execContributionAdd_first {s : State} {die : Nat} {con : Contribution} {rest : List Contribution} (hd : die < 64)
    (h : (s.port die).staged = con :: rest) : execContributionAdd die s
      = .next ((((s.onPort die fun q => { q with staged := rest }).onL3 die fun q => q.addContribution con)).answer
        (((s.onPort die fun q => { q with staged := rest }).onL3 die fun q => q.addContribution con).isLocal con) con.sender con.lslot con.ack Fate.ok) := by
  rw [execContributionAdd, State.addOne_first hd h]
  rfl

theorem execContributionAdd_none {s : State} {die : Nat} (h : (s.port die).staged = []) : execContributionAdd die s = .next s := by
  rw [execContributionAdd, State.addOne_none (by rw [h]; rfl)]
  rfl

theorem State.work_onPort (s : State) (d : Nat) (f : Port → Port) : (s.onPort d f).work = s.work := by
  unfold State.onPort
  split <;> rfl

/-! ### The buddy, snapshots (R52, R59, R60) -/

section
variable {s : State} {e : Nat}

theorem execJournalAppend_appends {entry : List Byte} (ho : (SMap.getD s.buddies e {}).overflowed = false)
    (hl : (SMap.getD s.buddies e {}).journal.length < 64)
    (hb : (SMap.getD s.buddies e {}).journal.foldl (fun n x => n + x.length) 0 + entry.length ≤ 2 ^ 32) : execJournalAppend e entry s
      = .next ({ s with buddies := SMap.insert s.buddies e { SMap.getD s.buddies e {} with journal := (SMap.getD s.buddies e {}).journal ++ [entry] } }.layJournal
          e ((SMap.getD s.buddies e {}).journal.foldl (fun n (x : List Byte) => n + x.length) 0) entry) := by
  unfold execJournalAppend
  dsimp only
  rw [if_neg (by simp [ho]; omega)]

theorem execJournalAppend_overflows {entry : List Byte} (h : (SMap.getD s.buddies e {}).overflowed = true
    ∨ 64 ≤ (SMap.getD s.buddies e {}).journal.length
    ∨ 2 ^ 32 < (SMap.getD s.buddies e {}).journal.foldl (fun n x => n + x.length) 0 + entry.length) : execJournalAppend e entry s
      = .next { s with buddies := SMap.insert s.buddies e { SMap.getD s.buddies e {} with overflowed := true } } := by
  unfold execJournalAppend
  dsimp only
  refine if_pos ?_
  rcases h with h | h | h
  · simp [h]
  · simp [h]
  · simp only [Bool.or_eq_true, decide_eq_true_eq]
    exact .inr h

theorem execSnapshotComplete_done (h : (s.groupWord e 7).1.val.getLsbD 0 = true) : execSnapshotComplete e none s
    = .next { (((((s.groupWord e 7).2.groupWord e 5).2.setGroupWord e 5 (((s.groupWord e 7).2.groupWord e 5).1.val + 1)).setJournal e 0 0).setGroupWord
        e 7 0) with snaps := SMap.erase s.snaps e } := by
  unfold execSnapshotComplete
  dsimp only
  rw [if_pos h]

theorem execSnapshotComplete_idle (h : (s.groupWord e 7).1.val.getLsbD 0 = false) : execSnapshotComplete e none s = .next (s.groupWord e 7).2 := by
  unfold execSnapshotComplete
  dsimp only
  rw [if_neg (by simp only [h]; decide)]

theorem execSnapGo_noTable (h : s.dev.groupTab = 0) : execSnapGo e s = .next s := if_pos h

section
variable (h : s.dev.groupTab ≠ 0)
include h

theorem execSnapGo_nobody (hw : (s.setGroupWord e 7 1).snapWho e = none) : execSnapGo e s = .next (s.setGroupWord e 7 1) := by
  unfold execSnapGo
  rw [if_neg h]
  simp only [hw]

section
variable {l : Nat} {w : Who} (hw : (s.setGroupWord e 7 1).snapWho e = some (l, w))
include hw

theorem execSnapGo_noBuddy (hb : ((s.setGroupWord e 7 1).buddyLine e w.ctx).1 = none) : execSnapGo e s
    = .next ((((s.setGroupWord e 7 1).buddyLine e w.ctx).2.jstate e).2.2.setJournal e 2 (((s.setGroupWord e 7 1).buddyLine e w.ctx).2.jstate e).2.1) := by
  unfold execSnapGo
  rw [if_neg h]
  simp only [hw, hb]

theorem execSnapGo_mirrors {line : Nat} {ds : List (Nat × List Byte)} {s1 : State}
    (hb : ((s.setGroupWord e 7 1).buddyLine e w.ctx).1 = some line)
    (hr : State.readRegions w
      ((((s.setGroupWord e 7 1).buddyLine e w.ctx).2.groupWord e 3).2.mirrorRegions (((s.setGroupWord e 7 1).buddyLine e w.ctx).2.groupWord e 3).1.val.toNat).1
      ((((s.setGroupWord e 7 1).buddyLine e w.ctx).2.groupWord e 3).2.mirrorRegions (((s.setGroupWord e 7 1).buddyLine e w.ctx).2.groupWord e 3).1.val.toNat).2
        = .ok (ds, s1)) :
    execSnapGo e s = .next (ds.foldl (fun (s : State) d => (s.emit (.mirror e d.1 d.2)).carry line d.2) (s1.unhold (.launch l))) := by
  unfold execSnapGo
  rw [if_neg h]
  simp only [hw, hb, hr]

end
end
end

/-! ### Views (R45, R48, R53, R58) -/

/-- The slots that a larger view closes: those that are armed in an older view of the group. -/
def State.olderSlots (s : State) (e view : Nat) : List (Nat × Nat) :=
  s.l3.flatMap (fun (d : Nat × Pad) => ((List.range 64).filter (fun k =>
    d.2.slotState k == 1 && d.2.slotGroup k == e && d.2.slotView k < view)).map (fun k => (d.1, k)))

/-- One slot of an older view closed, unless its deadline has closed it (R58). -/
def State.closeOlder (s : State) (x : Nat × Nat) : State :=
  if ((s.expire x.1 x.2).l3At x.1).slotState x.2 = 1 then (s.expire x.1 x.2).closeSlot x.1 x.2 3 else s.expire x.1 x.2

theorem State.closeOlder_armed {s : State} {die k : Nat} (hst : (s.l3At die).slotState k = 1)
    (hdl : (s.l3At die).slotDeadline k = 0 ∨ s.dev.devTime.toNat < (s.l3At die).slotDeadline k) : s.closeOlder (die, k) = s.closeSlot die k 3 := by
  rw [State.closeOlder, State.expire_waits (.inr hdl)]
  simp only [hst, if_true]

section
variable {s : State} {e : Nat} {view : Word}

theorem execViewInstall_none (h : (s.groupWord e 0).2.dev.groupTab = 0 ∨ 16 ≤ e ∨ view.toNat ≤ bits (s.groupWord e 0).1.val.toNat 63 32) :
    execViewInstall e view s = .next (s.groupWord e 0).2 := by
  unfold execViewInstall
  refine if_pos ?_
  rcases h with h | h | h <;> simp [h]

theorem execViewInstall_closes (h0 : (s.groupWord e 0).2.dev.groupTab ≠ 0) (he : e < 16) (hv : bits (s.groupWord e 0).1.val.toNat 63 32 < view.toNat) :
    execViewInstall e view s
      = .next ((((((s.groupWord e 0).2.setGroupWord e 0 (putBits (s.groupWord e 0).1.val 63 32 view.toNat)).olderSlots e view.toNat).foldl State.closeOlder
          ((s.groupWord e 0).2.setGroupWord e 0 (putBits (s.groupWord e 0).1.val 63 32 view.toNat))).rebind.spareRoute e).joinView e) := by
  unfold execViewInstall
  dsimp only
  have hgo : ((decide ((s.groupWord e 0).2.dev.groupTab = 0) || decide (e ≥ 16)) || decide (view.toNat ≤ bits (s.groupWord e 0).1.val.toNat 63 32)) = false := by
    rw [decide_eq_false h0, decide_eq_false (Nat.not_le.2 he), decide_eq_false (Nat.not_le.2 hv)]
    rfl
  rw [hgo, if_neg Bool.false_ne_true]
  rfl

theorem State.olderSlots_none {s : State} {view : Nat} (h : ∀ d ∈ s.l3, ∀ k < 64, d.2.slotState k = 1 → d.2.slotGroup k = e → view ≤ d.2.slotView k) :
    s.olderSlots e view = [] := by
  rw [State.olderSlots, List.flatMap_eq_nil_iff]
  intro d hd
  rw [List.map_eq_nil_iff, List.filter_eq_nil_iff]
  intro k hk hp
  obtain ⟨⟨hst, hg⟩, hv⟩ : (d.2.slotState k = 1 ∧ d.2.slotGroup k = e) ∧ d.2.slotView k < view := by simpa using hp
  exact Nat.not_lt.2 (h d hd k (List.mem_range.1 hk) hst hg) hv

theorem State.olderSlots_one {s : State} {view die k : Nat} {p : Pad} (hl3 : s.l3 = [(die, p)]) (hk : k < 64) (hst : p.slotState k = 1)
    (hg : p.slotGroup k = e) (hv : p.slotView k < view) (hother : ∀ i < 64, i ≠ k → p.slotState i ≠ 1) : s.olderSlots e view = [(die, k)] := by
  have hone : (List.range 64).filter (fun k => p.slotState k == 1 && p.slotGroup k == e && decide (p.slotView k < view)) = [k] :=
    filter_range_single hk (by simp [hst, hg, hv]) fun i hi hik => by simp [hother i hi hik]
  rw [State.olderSlots, hl3, List.flatMap_singleton, hone]
  rfl

end

/-! ### The transport receives (R47 to R51) -/

/-- The state in which a packet of a pair has been counted (R51): one that is served again has been counted before. -/
def State.counted (s : State) (qp : Nat) (q : QPair) (psn : Nat) (ce : Bool) (n : Nat) : State :=
  if q.counted = some psn then s.onQp qp fun q => { q with counted := none } else s.countRx qp q ce n

theorem rdmaAccess_ok {α : Type} (qp psn : Nat) (again : Instr) {x : Access α} {v : α} {s : State} (h : x = .ok (v, s)) (k : α → State → State) :
    State.rdmaAccess qp psn again x k = .next (k v (s.unhold .host)) := by
  rw [h]
  rfl

/-- A write served (R49). -/
def State.rdmaWrite (s : State) (qp psn : Nat) (ce : Bool) (key : Word) (va : DWord) (bytes : List Byte) : Out :=
  match (s.keyFor key).1.filter (fun m => m.covers va bytes.length true) with
  | none => .next ((s.keyFor key).2.ackRdma qp psn true)
  | some m' => State.rdmaAccess qp psn (.isaledinWriteRx qp psn ce key va bytes)
    (Access.bind ((s.keyFor key).2.inPlaces (hostWho m'.ctx) .w va.toNat bytes.length) fun ps s => State.writeAll (hostWho m'.ctx) ps (clean bytes) s)
    fun _ s => s.rdmaTaken qp psn 1

/-- A read request served, which may be one of an earlier packet (R49, R50). -/
def State.rdmaRead (s : State) (qp psn : Nat) (ce : Bool) (key : Word) (va : DWord) (len : Nat) (taken : Bool) : Out :=
  match (s.keyFor key).1.filter (fun m => m.covers va len false) with
  | none => .next ((s.keyFor key).2.ackRdma qp psn true)
  | some m' => State.rdmaAccess qp psn (.isaledinReadRequestRx qp psn ce key va len)
    (Access.bind ((s.keyFor key).2.inPlaces (hostWho m'.ctx) .rd va.toNat len) fun ps s => State.readAll ps s)
    fun bs s => s.readReply qp psn taken (plain bs)

section
variable {s : State} {qp psn : Nat} {ce : Bool} {key : Word} {va : DWord}

theorem State.rdmaWrite_refused {bytes : List Byte} {k : MemKey}
    (h : (s.keyFor key).1 = none ∨ (s.keyFor key).1 = some k ∧ k.covers va bytes.length true = false) :
    s.rdmaWrite qp psn ce key va bytes = .next ((s.keyFor key).2.ackRdma qp psn true) := by
  have hnone : (s.keyFor key).1.filter (fun m => m.covers va bytes.length true) = none := by
    rcases h with h | ⟨h, hc⟩ <;> simp [*]
  rw [State.rdmaWrite, hnone]

theorem State.rdmaWrite_stores {bytes : List Byte} {k : MemKey} {ps : List (Loc × Nat × Nat)} {s1 s2 : State} (hk : (s.keyFor key).1 = some k)
    (hc : k.covers va bytes.length true = true) (hp : (s.keyFor key).2.inPlaces (hostWho k.ctx) .w va.toNat bytes.length = .ok (ps, s1))
    (hw : State.writeAll (hostWho k.ctx) ps (clean bytes) s1 = .ok ((), s2)) :
    s.rdmaWrite qp psn ce key va bytes = .next ((s2.unhold .host).rdmaTaken qp psn 1) := by
  have hsome : (s.keyFor key).1.filter (fun m => m.covers va bytes.length true) = some k := by simp [hk, hc]
  rw [State.rdmaWrite, hsome]
  dsimp only
  exact rdmaAccess_ok qp psn _ (by rw [hp]; exact hw) _

theorem State.rdmaRead_refused {len : Nat} {k : MemKey} (taken : Bool)
    (h : (s.keyFor key).1 = none ∨ (s.keyFor key).1 = some k ∧ k.covers va len false = false) :
    s.rdmaRead qp psn ce key va len taken = .next ((s.keyFor key).2.ackRdma qp psn true) := by
  have hnone : (s.keyFor key).1.filter (fun m => m.covers va len false) = none := by
    rcases h with h | ⟨h, hc⟩ <;> simp [*]
  rw [State.rdmaRead, hnone]

theorem State.rdmaRead_replies {len : Nat} {k : MemKey} {ps : List (Loc × Nat × Nat)} {bs : List PByte} {s1 s2 : State} (taken : Bool)
    (hk : (s.keyFor key).1 = some k) (hc : k.covers va len false = true)
    (hp : (s.keyFor key).2.inPlaces (hostWho k.ctx) .rd va.toNat len = .ok (ps, s1)) (hr : State.readAll ps s1 = .ok (bs, s2)) :
    s.rdmaRead qp psn ce key va len taken = .next ((s2.unhold .host).readReply qp psn taken (plain bs)) := by
  have hsome : (s.keyFor key).1.filter (fun m => m.covers va len false) = some k := by simp [hk, hc]
  rw [State.rdmaRead, hsome]
  dsimp only
  exact rdmaAccess_ok qp psn _ (by rw [hp]; exact hr) _

section
variable {q : QPair} (hq : SMap.find? s.qps qp = some q)
include hq

theorem State.heardQp_known : s.heardQp qp = s := if_pos (by rw [hq]; rfl)

theorem State.onPair_known (n : Nat) (k : QPair → State → Out) : s.onPair qp psn ce n k = k q (s.counted qp q psn ce n) := by
  unfold State.onPair
  simp only [State.heardQp_known hq, hq]
  rfl

theorem State.rdmaIn_expected (hahead : (psn + 2 ^ 24 - q.rxPsn.toNat) % 2 ^ 24 = 0) (n : Nat) (serve : QPair → State → Out) (old : State → Out) :
    s.rdmaIn qp psn ce n serve old = serve q (s.counted qp q psn ce n) := by
  rw [State.rdmaIn, State.onPair_known hq]
  exact if_pos hahead

theorem State.rdmaIn_later (hahead : (psn + 2 ^ 24 - q.rxPsn.toNat) % 2 ^ 24 ≠ 0) (hlt : (psn + 2 ^ 24 - q.rxPsn.toNat) % 2 ^ 24 < 2 ^ 23) (n : Nat)
    (serve : QPair → State → Out) (old : State → Out) :
    s.rdmaIn qp psn ce n serve old = .next ((s.counted qp q psn ce n).ackRdma qp q.rxPsn.toNat true) := by
  rw [State.rdmaIn, State.onPair_known hq]
  exact (if_neg hahead).trans (if_pos hlt)

theorem State.rdmaIn_earlier (hahead : (psn + 2 ^ 24 - q.rxPsn.toNat) % 2 ^ 24 ≠ 0) (hge : 2 ^ 23 ≤ (psn + 2 ^ 24 - q.rxPsn.toNat) % 2 ^ 24) (n : Nat)
    (serve : QPair → State → Out) (old : State → Out) : s.rdmaIn qp psn ce n serve old = old (s.counted qp q psn ce n) := by
  rw [State.rdmaIn, State.onPair_known hq]
  exact (if_neg hahead).trans (if_neg (Nat.not_lt.2 hge))

/-- A packet that is not the expected one: a later one is answered NAK, an earlier one acknowledged again (R50). -/
theorem State.rdmaIn_other (hahead : (psn + 2 ^ 24 - q.rxPsn.toNat) % 2 ^ 24 ≠ 0) (n : Nat) (serve : QPair → State → Out) :
    s.rdmaIn qp psn ce n serve = .next (if (psn + 2 ^ 24 - q.rxPsn.toNat) % 2 ^ 24 < 2 ^ 23 then (s.counted qp q psn ce n).ackRdma qp q.rxPsn.toNat true
      else (s.counted qp q psn ce n).ackRdma qp psn false) := by
  by_cases hlt : (psn + 2 ^ 24 - q.rxPsn.toNat) % 2 ^ 24 < 2 ^ 23
  · rw [State.rdmaIn_later hq hahead hlt, if_pos hlt]
  · rw [State.rdmaIn_earlier hq hahead (Nat.not_lt.1 hlt), if_neg hlt]

theorem State.withinMtu_over {n : Nat} (hn : 4096 < n) (k : Out) : s.withinMtu qp n k = .next (s.unsupported q.port) := by
  unfold State.withinMtu
  rw [if_neg (Nat.not_le.2 hn)]
  simp only [State.heardQp_known hq, hq]
  rfl

end

theorem State.withinMtu_fits {n : Nat} (hn : n ≤ 4096) (k : Out) : s.withinMtu qp n k = k := if_pos hn

theorem execIsaledinWriteRx_fits {bytes : List Byte} (hn : bytes.length ≤ 4096) : execIsaledinWriteRx qp psn ce key va bytes s
    = s.rdmaIn qp psn ce 1 fun _ s => s.rdmaWrite qp psn ce key va bytes := State.withinMtu_fits hn _

theorem execIsaledinReadRequestRx_in (len : Nat) : execIsaledinReadRequestRx qp psn ce key va len s
    = s.rdmaIn qp psn ce 1 (fun _ s => s.rdmaRead qp psn ce key va len true) fun s => s.rdmaRead qp psn ce key va len false := rfl

theorem execIsaledinReduceRx_in (con : Contribution) : execIsaledinReduceRx qp psn ce con s = s.rdmaIn qp psn ce (packetsOf con) fun q s =>
    .next ((s.rdmaTaken qp psn (packetsOf con)).push (.contributionStaged (64 + q.port) con)) := rfl

theorem execIsaledinAckRx_in (nak : Bool) : execIsaledinAckRx qp psn ce nak s = s.onPair qp psn ce 1 fun _ s =>
    if nak then .next ((s.onQp qp fun q => q.acked ((psn + 2 ^ 24 - 1) % 2 ^ 24)).resend qp) else .next (s.onQp qp fun q => q.acked psn) := rfl

theorem execIsaledinEnqueueRx_fits {hdr : RemoteHdr} {pkt : List Byte} (hn : pkt.length ≤ 4096) : execIsaledinEnqueueRx qp psn ce hdr pkt s
    = s.rdmaIn qp psn ce 1 fun _ s => .next ((s.rdmaTaken qp psn 1).packetIn (64 + qp) hdr pkt) := State.withinMtu_fits hn _

end

/-! ### Ethernet ports, and what is sent (R47, R51) -/

/-- The status block of an Ethernet port. -/
def State.ethAt (s : State) (p : Nat) : Eth := s.eths.toList.getD p {}

theorem State.ethAt_lt (s : State) {p : Nat} (h : p < 2) : s.ethAt p = s.eths[p] := by simp [State.ethAt, h]

theorem State.ethAt_onEth_self (s : State) {p : Nat} (h : p < 2) (f : Eth → Eth) : (s.onEth p f).ethAt p = f (s.ethAt p) := by
  rw [State.ethAt_lt _ h, State.ethAt_lt _ h, State.onEth, dif_pos h]
  simp

theorem State.onEth_keeps {α : Type} (p : State → α) (h : ∀ (s : State) es, p { s with eths := es } = p s) (s : State) (d : Nat) (f : Eth → Eth) :
    p (s.onEth d f) = p s := by
  unfold State.onEth
  split
  · exact h s _
  · rfl

/-- A view of an Ethernet port that a change leaves, whichever port changes. -/
theorem State.ethAt_onEth {α : Type} (v : Eth → α) (s : State) (d : Nat) {f : Eth → Eth} (hf : ∀ e, v (f e) = v e) {p : Nat} (hp : p < 2) :
    v ((s.onEth d f).ethAt p) = v (s.ethAt p) := by
  by_cases hd : d < 2
  · by_cases hpd : p = d
    · subst hpd
      rw [State.ethAt_onEth_self s hp, hf]
    · rw [State.ethAt_lt _ hp, State.ethAt_lt _ hp, State.onEth, dif_pos hd]
      simp [Vector.getElem_set_ne _ _ (Ne.symm hpd)]
  · rw [State.onEth, dif_neg hd]

/-- What the sending of a packet leaves alone: the pairs, which port is paused, and what is no port's. -/
def State.lines (s : State) : SMap QPair × (Mem × Core × SMap Core × SMap Launch) × BitVec 4 × BitVec 4 :=
  (s.qps, s.work, (s.ethAt 0).paused, (s.ethAt 1).paused)

theorem State.lines_onEth (s : State) (d : Nat) (f : Eth → Eth) (hf : ∀ e, (f e).paused = e.paused) : (s.onEth d f).lines = s.lines := by
  unfold State.lines
  rw [State.ethAt_onEth Eth.paused s d hf (by decide), State.ethAt_onEth Eth.paused s d hf (by decide),
    State.onEth_keeps State.qps (fun _ _ => rfl), State.onEth_keeps State.work (fun _ _ => rfl)]

theorem State.lines_transmit (s : State) (n : Nat) (q : QPair) (x : Nat × List Byte) : (s.transmit n q x).lines = s.lines :=
  (State.lines_onEth s q.port (fun e => { e with txPkts := sat64 e.txPkts }) fun _ => rfl)

theorem State.outbox_transmit (s : State) (n : Nat) (q : QPair) (x : Nat × List Byte) : (s.transmit n q x).outbox = .rdma n x.1 q.hdr x.2 :: s.outbox :=
  congrArg _ (State.onEth_keeps State.outbox (fun _ _ => rfl) s q.port _)

/-- The message that leaves for one of a pair. -/
def QMsg.output (n : Nat) (q : QPair) : QMsg → Output
  | .request psn bs => .rdma n psn q.hdr bs
  | .response psn bs => .rdma n psn q.hdr bs
  | .ack psn nak => .rdmaAck n psn nak q.hdr

theorem State.sendMsg_leaves (s : State) (n : Nat) (q : QPair) (m : QMsg) :
    (s.sendMsg n q m).lines = s.lines ∧ (s.sendMsg n q m).outbox = m.output n q :: s.outbox := by
  cases m with
  | request psn bs => exact ⟨s.lines_transmit n q _, s.outbox_transmit n q _⟩
  | response psn bs => exact ⟨s.lines_transmit n q _, s.outbox_transmit n q _⟩
  | ack psn nak =>
    exact ⟨State.lines_onEth s q.port (fun e => { e with txPkts := sat64 e.txPkts }) fun _ => rfl,
      congrArg _ (State.onEth_keeps State.outbox (fun _ _ => rfl) s q.port _)⟩

/-- Steps that each put one output out put them out in order. -/
theorem outbox_foldl {β : Type} {f : State → β → State} (g : β → Output) (h : ∀ s b, (f s b).outbox = g b :: s.outbox) (l : List β) (s : State) :
    (l.foldl f s).outbox = (l.map g).reverse ++ s.outbox := by
  induction l generalizing s with
  | nil => rfl
  | cons b l ih =>
    rw [List.foldl_cons, ih, h]
    simp

section
variable {s : State} {qp : Nat} {q : QPair} (hq : SMap.find? s.qps qp = some q)
include hq

theorem State.resend_paused (hp : s.pausedQp q = true) : s.resend qp = s.onQp qp fun q =>
    { q with unsent := q.unsent.filter (fun m => !m.isRequest) ++ q.unacked.map (fun p => .request p.1 p.2) } := by
  rw [State.resend, hq]
  exact if_pos hp

theorem State.resend_open (hp : s.pausedQp q = false) : (s.resend qp).lines = s.lines
    ∧ (s.resend qp).outbox = (q.unacked.map (fun p => Output.rdma qp p.1 q.hdr p.2)).reverse ++ s.outbox := by
  have hstep : s.resend qp = q.unacked.foldl (fun (s : State) p => s.transmit qp q p) s := by
    rw [State.resend, hq]
    exact if_neg (by rw [hp]; decide)
  rw [hstep]
  exact ⟨foldl_keeps State.lines _ (fun s p => s.lines_transmit qp q p) _ s, outbox_foldl _ (fun s p => s.outbox_transmit qp q p) _ s⟩

end

/-- An Ethernet port after a PFC frame (R51). -/
def Eth.pfc (e : Eth) (p prio : Nat) (on : Bool) : Eth :=
  { e with pfcRx := sat32 e.pfcRx
           paused := if prio ≥ 4 || !Config.pfcEnabled p prio then e.paused else if on then e.paused ||| (1#4 <<< prio) else e.paused &&& ~~~(1#4 <<< prio) }

section
variable (e : Eth) (p : Nat) {prio : Nat} (hprio : prio < 4)

theorem Eth.pfc_off_disabled (on : Bool) (h : Config.pfcEnabled p prio = false) : (e.pfc p prio on).paused = e.paused :=
  if_pos (by rw [h]; simp)

include hprio

theorem Eth.pfc_enabled (on : Bool) (h : Config.pfcEnabled p prio = true) :
    (e.pfc p prio on).paused = if on then e.paused ||| (1#4 <<< prio) else e.paused &&& ~~~(1#4 <<< prio) :=
  if_neg (by rw [h]; simp; omega)

theorem Eth.pfc_on (h : Config.pfcEnabled p prio = true) : (e.pfc p prio true).paused.getLsbD prio = true := by
  rw [Eth.pfc_enabled e p hprio true h, if_pos rfl]
  simp [hprio]

theorem Eth.pfc_released (h : Config.pfcEnabled p prio = true) : (e.pfc p prio false).paused.getLsbD prio = false := by
  rw [Eth.pfc_enabled e p hprio false h, if_neg Bool.false_ne_true]
  simp [hprio]

end

theorem execPfcPauseRx_on (s : State) (p prio : Nat) : execPfcPauseRx p prio true s = .next (s.onEth p fun e => e.pfc p prio true) := rfl

/-- A pause that ends: what the only pair of the priority holds back is sent, in order (R51). -/
theorem execPfcPauseRx_off {s : State} {n : Nat} {q : QPair} (hqps : s.qps = [(n, q)]) :
    execPfcPauseRx q.port q.prio false s = .next (q.unsent.foldl (fun (s : State) m => s.sendMsg n q m)
      ((s.onEth q.port fun e => e.pfc q.port q.prio false).onQp n fun x => { x with unsent := [] })) := by
  have hq : (s.onEth q.port fun e => e.pfc q.port q.prio false).qps = [(n, q)] := (State.onEth_keeps State.qps (fun _ _ => rfl) s _ _).trans hqps
  unfold execPfcPauseRx
  change Host.Outcome.next ((s.onEth q.port fun e => e.pfc q.port q.prio false).qps.foldl _ _) = _
  rw [hq, List.foldl_cons, List.foldl_nil]
  simp only [decide_true, Bool.and_self, if_true]
  rfl

theorem State.onQp_single {s : State} {n : Nat} {q : QPair} (hqps : s.qps = [(n, q)]) (f : QPair → QPair) :
    s.onQp n f = { s with qps := [(n, f q)] } := by
  have hfind : SMap.find? s.qps n = some q := by simp [hqps, SMap.find?]
  rw [State.onQp, hfind]
  simp [hqps, SMap.insert, SMap.erase, SMap.place]

/-! ### Task packets and their credits (R42, R50, R53, R126) -/

/-- A line after a packet has left it against a credit. -/
def TaskLine.sends (l : TaskLine) (pkt : OutPacket) (rest : List OutPacket) : TaskLine :=
  { l with credits := l.credits - 1, queue := rest, flying := l.flying ++ [{ pkt with page := none }], sent := l.sent + 1 }

section
variable {s : State} {d : Nat}

theorem execTaskPacketSend_none (h : (s.taskLine d).queue = [] ∨ (s.taskLine d).credits = 0) : execTaskPacketSend d s = .next s := by
  unfold execTaskPacketSend
  dsimp only
  cases hq : (s.taskLine d).queue with
  | nil => rfl
  | cons p rest =>
    have hc : (s.taskLine d).credits = 0 := h.resolve_left (by simp [hq])
    exact if_pos hc

theorem execTaskPacketSend_sends {pkt : OutPacket} {rest : List OutPacket} (hq : (s.taskLine d).queue = pkt :: rest) (hr : rest.length ≤ 255)
    (hc : (s.taskLine d).credits ≠ 0) : execTaskPacketSend d s
      = .next (if rest = [] then ((s.onLine d fun l => l.sends pkt rest).emit (.taskPacket d pkt)).carry d pkt.pkt
        else (((s.onLine d fun l => l.sends pkt rest).emit (.taskPacket d pkt)).carry d pkt.pkt).pushOnce (.taskPacketSend d)) := by
  have hnone : rest[255]? = none := List.getElem?_eq_none hr
  unfold execTaskPacketSend
  simp only [hq, if_neg hc, hnone, Option.bind_none, List.isEmpty_iff]
  rfl

theorem State.carry_port (h : d < 64) (s : State) (bs : List Byte) : s.carry d bs = s := if_pos h

theorem State.onLine_port (h : d < 64) (s : State) (f : TaskLine → TaskLine) : (s.onLine d f).taskLine d = f (s.taskLine d)
    ∧ (s.onLine d f).work = s.work ∧ (s.onLine d f).outbox = s.outbox := by
  have hon : s.onLine d f = s.onPort d fun p => { p with line := f p.line } := if_pos h
  rw [hon]
  refine ⟨?_, s.work_onPort d _, ?_⟩
  · rw [State.taskLine, if_pos h, State.port_onPort_self s h, State.taskLine, if_pos h]
  · unfold State.onPort
    split <;> rfl

theorem execTaskPacketReceive_stale {hdr : RemoteHdr} {pkt : List Byte} (h : hdr.view < (s.viewOf hdr.group).1) :
    execTaskPacketReceive d hdr pkt s = .next (((s.viewOf hdr.group).2.countStale d).packetEnd hdr (some d) 0 Fate.staleView) :=
  congrArg _ (if_pos h)

section
variable {hdr : RemoteHdr} {pkt : List Byte} (hv : (s.viewOf hdr.group).1 ≤ hdr.view)
include hv

theorem execTaskPacketReceive_stranger (hm : ((s.viewOf hdr.group).2.inView hdr.group hdr.sender).1 = false) : execTaskPacketReceive d hdr pkt s
    = .next (((s.viewOf hdr.group).2.inView hdr.group hdr.sender).2.packetEnd hdr (some d) 0 Fate.staleView) := by
  refine congrArg _ ((if_neg (BitVec.not_lt.2 hv)).trans ?_)
  simp only [hm]
  rfl

section
variable (hm : ((s.viewOf hdr.group).2.inView hdr.group hdr.sender).1 = true)
include hm

theorem execTaskPacketReceive_refused (hl : ((s.viewOf hdr.group).2.inView hdr.group hdr.sender).2.launchOf hdr.group = none) :
    execTaskPacketReceive d hdr pkt s = .next (((s.viewOf hdr.group).2.inView hdr.group hdr.sender).2.packetEnd hdr (some d) 0 Fate.refused) := by
  refine congrArg _ ((if_neg (BitVec.not_lt.2 hv)).trans ?_)
  simp only [hm, hl]
  rfl

theorem execTaskPacketReceive_accepted {l : Nat} (hl : ((s.viewOf hdr.group).2.inView hdr.group hdr.sender).2.launchOf hdr.group = some l) :
    execTaskPacketReceive d hdr pkt s
      = .next (((s.viewOf hdr.group).2.inView hdr.group hdr.sender).2.push (.packetAccept hdr.die l (.remote hdr (some d)) pkt)) := by
  refine congrArg _ ((if_neg (BitVec.not_lt.2 hv)).trans ?_)
  simp only [hm, hl]
  rfl

end
end

/-- A credit come back for a packet of a launch: its line has one more, and the launch has heard of it (R126). -/
def State.credited (s : State) (d l : Nat) (pkt : OutPacket) : State :=
  (s.onLine d fun t => { t with credits := t.credits + 1, flying := t.flying.erase pkt, heard := t.heard + 1 }).onLaunch l
    fun x => { x with heard := x.heard + 1 }

theorem execTaskCreditReturn_unknown {l : Nat} (h : (s.taskLine d).flying.find? (fun p => p.lslot == l) = none) : execTaskCreditReturn d l s = .next s := by
  unfold execTaskCreditReturn
  simp only [h]

section
variable {l : Nat} {pkt : OutPacket} (h : (s.taskLine d).flying.find? (fun p => p.lslot == l) = some pkt)
include h

theorem execTaskCreditReturn_plain (hg : pkt.given = none) : execTaskCreditReturn d l s
    = .next (if (s.taskLine d).queue = [] then s.credited d l pkt else (s.credited d l pkt).pushOnce (.taskPacketSend d)) := by
  unfold execTaskCreditReturn
  simp only [h, hg, List.isEmpty_iff]
  rfl

/-- A task that was given away with the packet leaves its slot. -/
def State.givenAway (s : State) (l : Nat) (pkt : OutPacket) (uid : Nat) (x : Nat × Task) : State :=
  (((s.freeSlot pkt.die x.2.handle).onBlock l pkt.die fun h =>
    { h with giving := h.giving.filter (fun x => x.2.uid != uid), retired := h.retired + 1 }).onLaunch l fun x => { x with remotes := x.remotes - 1 }).stir
      l pkt.die

theorem execTaskCreditReturn_given {uid : Nat} {x : Nat × Task} (hg : pkt.given = some uid)
    (hx : ((s.credited d l pkt).block l pkt.die).giving.find? (fun x => x.2.uid == uid) = some x) : execTaskCreditReturn d l s
      = .next (if (s.taskLine d).queue = [] then (s.credited d l pkt).givenAway l pkt uid x
        else ((s.credited d l pkt).givenAway l pkt uid x).pushOnce (.taskPacketSend d)) := by
  unfold State.credited at hx
  unfold execTaskCreditReturn
  simp only [h, hg, hx, List.isEmpty_iff]
  rfl

end
end

theorem State.l3At_single {s : State} {die : Nat} {p : Pad} (h : s.l3 = [(die, p)]) : s.l3At die = p := by simp [State.l3At, h, SMap.getD, SMap.find?]

/-- A pause of a pair's priority that ends, seen from what the sending leaves alone. -/
theorem execPfcPauseRx_off_leaves {s : State} {n : Nat} {q : QPair} (hqps : s.qps = [(n, q)]) (hp : q.port < 2) (hprio : q.prio < 4) :
    ∃ t, execPfcPauseRx q.port q.prio false s = .next t ∧ t.work = s.work
      ∧ (Config.pfcEnabled q.port q.prio = true → (t.ethAt q.port).paused.getLsbD q.prio = false) ∧ t.qps = [(n, { q with unsent := [] })]
      ∧ t.outbox = (q.unsent.map (QMsg.output n q)).reverse ++ s.outbox := by
  have hqps1 : (s.onEth q.port fun e => e.pfc q.port q.prio false).qps = [(n, q)] := (State.onEth_keeps State.qps (fun _ _ => rfl) s _ _).trans hqps
  have hemptied := State.onQp_single hqps1 fun x => { x with unsent := [] }
  have hpaused : ∀ t : State, t.lines = ((s.onEth q.port fun e => e.pfc q.port q.prio false).onQp n fun x => { x with unsent := [] }).lines →
      (t.ethAt q.port).paused = ((s.ethAt q.port).pfc q.port q.prio false).paused := by
    intro t ht
    rw [hemptied] at ht
    have hcase : q.port = 0 ∨ q.port = 1 := by omega
    have hself := congrArg Eth.paused (State.ethAt_onEth_self s hp fun e => e.pfc q.port q.prio false)
    rw [← hself]
    rcases hcase with h | h
    · rw [h] at ht ⊢
      exact congrArg (fun v => v.2.2.1) ht
    · rw [h] at ht ⊢
      exact congrArg (fun v => v.2.2.2) ht
  refine ⟨_, execPfcPauseRx_off hqps, ?_⟩
  have hlines := foldl_keeps State.lines (fun (s : State) m => s.sendMsg n q m) (fun s m => (s.sendMsg_leaves n q m).1) q.unsent
    ((s.onEth q.port fun e => e.pfc q.port q.prio false).onQp n fun x => { x with unsent := [] })
  refine ⟨?_, fun hen => ?_, ?_, ?_⟩
  · have hwork := congrArg (fun v => v.2.1) hlines
    rw [hemptied] at hwork ⊢
    exact hwork.trans (State.onEth_keeps State.work (fun _ _ => rfl) s _ _)
  · rw [hpaused _ hlines]
    exact Eth.pfc_released _ _ hprio hen
  · have hpairs := congrArg (fun v => v.1) hlines
    rw [hemptied] at hpairs ⊢
    exact hpairs
  · rw [outbox_foldl (QMsg.output n q) fun s m => (s.sendMsg_leaves n q m).2, hemptied]
    exact congrArg _ (State.onEth_keeps State.outbox (fun _ _ => rfl) s _ _)

/-- Settles O60: each step has its equation on the conditions of its clause. -/
theorem collectiveSteps : Obligations.CollectiveSteps := by
  intro s kept
  have hkept : ∀ {t : State}, t.work = s.work → kept t := fun h => State.work_kept h
  refine ⟨fun die k hk => ⟨fun hst hc => ?arm, fun hst => ?disarm, fun hst => ?notArmed⟩, fun die k => ⟨fun h => ?noDeadline,
      fun hst h0 => ⟨fun hdue => ⟨?due, fun hno hj _ => ?closed⟩, fun hdue => ?early⟩, rfl⟩,
    fun port con => ⟨fun h => ?stale, fun hv hst => ?dropped, fun hv hst hdl => ⟨fun hw => ?wrongView,
      fun l w bs s1 hw hwho hr => ?contribution⟩⟩,
    fun die con rest hd h => ⟨execContributionAdd_first hd h, hkept (State.work_onPort s die _)⟩, fun die h => execContributionAdd_none h,
    fun e entry => ⟨fun ho hl hb => execJournalAppend_appends ho hl hb, fun h => execJournalAppend_overflows h⟩, fun e bs => rfl,
    fun e => ⟨fun h => execSnapshotComplete_done h, fun h => execSnapshotComplete_idle h⟩,
    fun e => ⟨fun h => execSnapGo_noTable h, fun h hw => execSnapGo_nobody h hw, fun l w h hw => ⟨fun hb => execSnapGo_noBuddy h hw hb,
      fun line ds s1 hb hr => execSnapGo_mirrors h hw hb hr⟩⟩,
    fun e view => ⟨fun h => execViewInstall_none h, fun h0 he hv => ⟨fun hnone => ?viewNone, fun die p k hl3 hk hst hg hold hother hdl => ?viewOne⟩⟩,
    fun qp q psn ce hq => ?transport, fun p hp => ?ethernet, fun d h => execTaskPacketSend_none h,
    fun d pkt rest hq hr hc => ⟨execTaskPacketSend_sends hq hr hc, fun hd => ?sent⟩,
    fun d hdr pkt => ⟨fun h => execTaskPacketReceive_stale h, fun hv hm => execTaskPacketReceive_stranger hv hm,
      fun hv hm hl => execTaskPacketReceive_refused hv hm hl, fun l hv hm hl => execTaskPacketReceive_accepted hv hm hl⟩,
    fun d l h => execTaskCreditReturn_unknown h,
    fun d l pkt h => ⟨fun hg => execTaskCreditReturn_plain h hg, fun uid x hg hx => execTaskCreditReturn_given h hg hx⟩⟩
  case notArmed =>
    change execSlotDisarm die k s = _
    exact execSlotDisarm_other hst
  case noDeadline =>
    change execSlotDeadline die k s = _
    exact execSlotDeadline_none h
  case due =>
    change execSlotDeadline die k s = _
    exact execSlotDeadline_due hst h0 hdue
  case early =>
    change execSlotDeadline die k s = _
    exact execSlotDeadline_waits hst h0 hdue
  case stale =>
    change execContributionStaged port con s = _
    exact execContributionStaged_stale h
  case dropped =>
    change execContributionStaged port con s = _
    exact execContributionStaged_dropped hv hst
  case wrongView =>
    change execContributionStaged port con s = _
    exact execContributionStaged_wrongView hv hst hdl hw
  case arm =>
    obtain ⟨t, hstep, hat, hwork, hdue⟩ := execSlotArm_idle hst hc
    exact ⟨t, hstep, by rw [hat, Pad.slotState_armSlot], by rw [hat, Pad.slotWord_armSlot_six], hdue, hkept hwork⟩
  case disarm =>
    obtain ⟨t, hstep, hat, hwork⟩ := execSlotDisarm_armed hst
    exact ⟨t, hstep, hat, hkept hwork⟩
  case closed =>
    change execSlotDeadline die k s = _
    exact (execSlotDeadline_due hst h0 hdue).trans (congrArg _ (State.closeSlot_plain (by decide) hno hj))
  case contribution =>
    have hknown := fun {fate : Nat} => execContributionStaged_known (port := port) (fate := fate) rfl hv hst hdl hw hwho hr
    have hnew := fun {s2 : State} {e fate : Nat} => execContributionStaged_new (port := port) (s2 := s2) (e := e) (fate := fate) rfl hv hst hdl hw hwho hr
    refine ⟨fun h => hknown (conFate_stale h), fun h => hknown (conFate_duplicate h), fun s2 h hwhole hpoison hwr => ?_, fun s2 h hbad hwr => ?_⟩
    · exact (hnew (conFate_added h hwhole hpoison) hwr).trans (congrArg _ (State.settleCon_added _ _ _ _))
    · exact (hnew (conFate_poisoned h hbad) hwr).trans (congrArg _ (State.settleCon_poisoned _ _ _ _))
  case viewNone => exact (execViewInstall_closes h0 he hv).trans (congrArg _ (by rw [State.olderSlots_none hnone, List.foldl_nil]))
  case viewOne =>
    have hone := State.olderSlots_one hl3 hk hst hg hold hother
    have hat := State.l3At_single hl3
    refine (execViewInstall_closes h0 he hv).trans (congrArg _ ?_)
    rw [hone, List.foldl_cons, List.foldl_nil, State.closeOlder_armed (by rw [hat]; exact hst) (by rw [hat]; exact hdl)]
  case transport =>
    refine ⟨fun hahead => ⟨fun key va bytes k hn => ⟨fun hm hc ps s1 s2 hp hw => ?write, fun h => ?writeRefused⟩,
      fun key va len k => ⟨fun hm hc ps s1 bs s2 hp hr => ?read, fun h => ?readRefused⟩, fun con => ?taken, fun hdr pkt hn => ?enqueue⟩,
      fun hahead => ⟨fun key va bytes hn => ?writeOther, fun key va len hlt => ?readLater, fun key va len k hge => ⟨fun hm hc ps s1 bs s2 hp hr => ?readAgain,
        fun h => ?readAgainRefused⟩, fun con => ?reduceOther, fun hdr pkt hn => ?enqueueOther⟩, fun key va bytes hn => State.withinMtu_over hq hn _,
      fun bytes hn => (State.withinMtu_fits hn _).trans (State.onPair_known hq 1 _), (execIsaledinAckRx_in false).trans (State.onPair_known hq 1 _),
      (execIsaledinAckRx_in true).trans (State.onPair_known hq 1 _),
      fun hp => congrArg _ (State.resend_paused hq hp), fun hp => ?resent⟩
    case write => exact (execIsaledinWriteRx_fits hn).trans ((State.rdmaIn_expected hq hahead 1 _ _).trans (State.rdmaWrite_stores hm hc hp hw))
    case writeRefused => exact (execIsaledinWriteRx_fits hn).trans ((State.rdmaIn_expected hq hahead 1 _ _).trans (State.rdmaWrite_refused h))
    case read => exact (execIsaledinReadRequestRx_in len).trans ((State.rdmaIn_expected hq hahead 1 _ _).trans <| State.rdmaRead_replies true hm hc hp hr)
    case readRefused => exact (execIsaledinReadRequestRx_in len).trans ((State.rdmaIn_expected hq hahead 1 _ _).trans <| State.rdmaRead_refused true h)
    case taken => exact (execIsaledinReduceRx_in con).trans (State.rdmaIn_expected hq hahead _ _ _)
    case enqueue => exact (execIsaledinEnqueueRx_fits hn).trans (State.rdmaIn_expected hq hahead 1 _ _)
    case writeOther => exact (execIsaledinWriteRx_fits hn).trans (State.rdmaIn_other hq hahead 1 _)
    case readLater => exact (execIsaledinReadRequestRx_in len).trans ((State.rdmaIn_later hq hahead hlt 1 _ _).trans (congrArg _ (if_pos hlt).symm))
    case readAgain => exact (execIsaledinReadRequestRx_in len).trans ((State.rdmaIn_earlier hq hahead hge 1 _ _).trans <| State.rdmaRead_replies false hm hc hp hr)
    case readAgainRefused => exact (execIsaledinReadRequestRx_in len).trans ((State.rdmaIn_earlier hq hahead hge 1 _ _).trans <| State.rdmaRead_refused false h)
    case reduceOther => exact (execIsaledinReduceRx_in con).trans (State.rdmaIn_other hq hahead _ _)
    case enqueueOther => exact (execIsaledinEnqueueRx_fits hn).trans (State.rdmaIn_other hq hahead 1 _)
    case resent =>
      obtain ⟨hlines, hout⟩ := State.resend_open hq hp
      exact ⟨_, rfl, (congrArg (fun v => SMap.find? v.1 qp) hlines).trans hq, hkept (congrArg (fun v => v.2.1) hlines), hout⟩
  case ethernet =>
    have heth : ∀ f, (s.onEth p f).ethAt p = f (s.ethAt p) := s.ethAt_onEth_self hp
    have hwork : ∀ f, kept (s.onEth p f) := fun f => hkept (State.onEth_keeps State.work (fun _ _ => rfl) s p f)
    refine ⟨⟨_, rfl, hwork _, heth _⟩, fun up => ⟨_, rfl, heth _, hwork _⟩, fun prio hprio => ⟨⟨_, execPfcPauseRx_on s p prio, hwork _,
      State.onEth_keeps State.qps (fun _ _ => rfl) s p _, congrArg Eth.pfcRx (heth _), fun hen => ?paused, fun hen => ?notPaused⟩,
      fun n q hqps hport hpr => ?released⟩⟩
    case paused => exact (congrArg (fun e : Eth => e.paused.getLsbD prio) (heth _)).trans (Eth.pfc_on _ p hprio hen)
    case notPaused => exact (congrArg Eth.paused (heth _)).trans (Eth.pfc_off_disabled _ p true hen)
    case released =>
      subst hport
      subst hpr
      obtain ⟨t, hstep, hw, hpaused, hpairs, hout⟩ := execPfcPauseRx_off_leaves hqps hp hprio
      refine ⟨t, hstep, hkept hw, hpaused, hpairs, hout.trans ?_⟩
      congr 3
  case sent =>
    obtain ⟨hline, hw, hout⟩ := State.onLine_port hd s fun l => l.sends pkt rest
    have hcarry := State.carry_port hd ((s.onLine d fun l => l.sends pkt rest).emit (.taskPacket d pkt)) pkt.pkt
    refine ⟨?_, ?_, ?_, ?_⟩
    · exact (congrArg State.outbox hcarry).trans (congrArg _ hout)
    · exact congrArg TaskLine.queue ((congrArg (fun t => State.taskLine t d) hcarry).trans hline)
    · exact congrArg TaskLine.credits ((congrArg (fun t => State.taskLine t d) hcarry).trans hline)
    · exact hkept ((congrArg State.work hcarry).trans hw)

end Sys2Proof.Machine
end
